-- ==== Sys2Proof/Word.lean ====
section
/-! DEFINITION. The word and byte types of the part (R1, R2) and their plainest arithmetic. -/

namespace Sys2Proof

/-- A register or table word: 64 bits (R2). -/
abbrev Word := BitVec 64

/-- One byte. -/
abbrev Byte := BitVec 8

/-- The `w` bits of the number `n` from bit `lo` up, as a number (R1). -/
def bits (n lo w : Nat) : Nat := n / 2 ^ lo % 2 ^ w

/-- Bit `i` of the number `n`. -/
def bit (n i : Nat) : Bool := n / 2 ^ i % 2 == 1

/-- The number `n` with its `w` bits from bit `lo` up replaced by `v` (taken modulo `2 ^ w`). -/
def putBits (n lo w v : Nat) : Nat :=
  n / 2 ^ (lo + w) * 2 ^ (lo + w) + v % 2 ^ w * 2 ^ lo + n % 2 ^ lo

/-- One for true, zero for false. -/
def b2n (b : Bool) : Nat := if b then 1 else 0

/-- `n` plus `d`, held at the largest value of `w` bits. -/
def satAdd (w n d : Nat) : Nat := min (n + d) (2 ^ w - 1)

/-- The low `k` bytes of `n`, least significant first (R2). -/
def leBytes : Nat → Nat → List Byte
  | 0, _ => []
  | k + 1, n => BitVec.ofNat 8 n :: leBytes k (n / 256)

/-- The number that a list of bytes spells, least significant first (R2). -/
def ofLeBytes : List Byte → Nat
  | [] => 0
  | b :: bs => b.toNat + 256 * ofLeBytes bs

/-- The low `k` bytes of `n`, most significant first (R3). -/
def beBytes (k n : Nat) : List Byte := (leBytes k n).reverse

/-- The number that a list of bytes spells, most significant first (R3). -/
def ofBeBytes (bs : List Byte) : Nat := ofLeBytes bs.reverse

/-- Bytes `[i, i + n)` of a list, short where the list ends. -/
def slice (i n : Nat) (bs : List Byte) : List Byte := (bs.drop i).take n

/-- A list of bytes made exactly `n` long, with zeros at its end. -/
def fit (n : Nat) (bs : List Byte) : List Byte :=
  let t := bs.take n
  t ++ List.replicate (n - t.length) 0

/-- The numbers `0, 1, …, n - 1`. -/
def upTo (n : Nat) : List Nat := List.range n

end Sys2Proof
end

