-- ==== Sys2Proof/Syntax.lean ====
section
/-! DEFINITION. The commands and events that the part takes, whole: one constructor for each row of the table of
operations and events, and the packets, frames and readings they carry. -/

namespace Sys2Proof

/-- A master id (R357). -/
abbrev Mst := BitVec 8
/-- A page index (R25). -/
abbrev Pg := BitVec 14
/-- A SerDes die, `4w + k`. -/
abbrev DieNo := BitVec 4
/-- A lane of a SerDes die. -/
abbrev LaneNo := BitVec 7
/-- A port group, `8t + g`. -/
abbrev GroupNo := BitVec 8
/-- A logical port: four times its port group, plus its number in the group. -/
abbrev PortNo := BitVec 10
/-- A switch tile, `8w + 4b + s`. -/
abbrev TileNo := BitVec 5
/-- A base die, `2w + b`. -/
abbrev BaseNo := BitVec 3
/-- A reduction engine or vector die. -/
abbrev EngNo := BitVec 4
/-- A transport or reduction context id. -/
abbrev CtxNo := BitVec 12
/-- A partition. -/
abbrev PartNo := BitVec 4
/-- A Gang list of a partition. -/
abbrev ListNo := BitVec 3
/-- A command slot of the Chrysalis page (R381). -/
abbrev ChrSlot := BitVec 5
/-- A command ring. -/
abbrev RingNo := BitVec 6

/-- A capability message of a TLink partner (R50). -/
structure CapMsg where
  role : Byte
  version : Byte
  spares : Byte
  precode : Byte
  width : Byte
  caps : List Byte
deriving DecidableEq, Repr

/-- Levels of a codeword as a lane brings them, 0 to 3 for -3 to +3, first first (R45, R46): those of its sideband symbols
(20 on TLink, none on Ethernet), of its body (1,280 and 2,570), or of its parity symbols (60 and 150). -/
structure Line where
  levels : List (BitVec 2)
deriving DecidableEq, Repr

/-- A flit: 64 bytes as its slot carries them (R67). -/
structure Flit where
  bytes : List Byte
deriving DecidableEq, Repr

/-- A command of an attached accelerator: a packet of one or more flits (R80, R87). -/
structure LocalCmd where
  bytes : List Byte
deriving DecidableEq, Repr

/-- A transport packet as it reaches its attach engine (R77). -/
structure TPkt where
  bytes : List Byte
deriving DecidableEq, Repr

/-- A frame, or a TLink packet on its port VC, as it reaches a port (R3). -/
structure Frame where
  vc : BitVec 3
  bytes : List Byte
deriving DecidableEq, Repr

/-- A cell that a level-3 payload brings (R114, R119, R121): the device, tile and number it came with, the device, tile and
ports it goes to, its VC and kind, the age and limit of its frame, the segments of the whole frame, the place of its own
in it, and its data. -/
structure L3Cell where
  src : BitVec 3
  itile : TileNo
  seq : BitVec 32
  dev : BitVec 3
  etile : TileNo
  mask : BitVec 32
  vc : BitVec 3
  tlink : Bool
  age : BitVec 24
  limit : BitVec 24
  segs : BitVec 12
  off : BitVec 12
  data : List Byte
deriving DecidableEq, Repr

/-- What level 3 brings a tile in one slot: the cells of its payloads (R119). -/
structure L3In where
  tile : TileNo
  cells : List L3Cell
deriving DecidableEq, Repr

/-- A watch slot and the arming of it that a message answers (R240). -/
structure Arming where
  slot : BitVec 14
  seq : BitVec 32
deriving DecidableEq, Repr

/-- A multicast packet at a router input of the die mesh (R159, R162): the router's place, its input (0 local, 1 west, 2
east, 3 south, 4 north), whether it is on M3 rather than M0, its flits, and its destinations: bit `16y + x` is the
router at (x, y). -/
structure MeshHead where
  x : BitVec 4
  y : BitVec 3
  inp : BitVec 3
  m3 : Bool
  flits : BitVec 4
  mask : BitVec 128
deriving DecidableEq, Repr

/-- A collective packet as it reaches the reduction path or the Roost (R192). -/
structure CPkt where
  bytes : List Byte
deriving DecidableEq, Repr

/-- What the governor reads in one loop (R402): microwatts of the two AVS rails, which rail answered, and the hottest
sensor with its die. -/
structure GovReading where
  wattsC : BitVec 16
  wattsS : BitVec 16
  answeredC : Bool
  answeredS : Bool
  hottest : Byte
  hottestDie : Byte
deriving DecidableEq, Repr


/-- The commands and events of the part, one for each row of the table of operations and events. -/
inductive Instr where
  /-- REGISTER_WRITE (R479). -/
  | registerWrite (m : Mst) (bar : BitVec 3) (addr : BitVec 26) (len : BitVec 4) (v : Word)
  /-- CTRL_ENABLE (R29). -/
  | ctrlEnable (m : Mst) (pg : Pg) (v : Word)
  /-- CTRL_QUIESCE (R30). -/
  | ctrlQuiesce (m : Mst) (pg : Pg) (v : Word)
  /-- CTRL_FREEZE (R32). -/
  | ctrlFreeze (m : Mst) (pg : Pg) (v : Word)
  /-- CTRL_EVACUATE (R29). -/
  | ctrlEvacuate (m : Mst) (pg : Pg) (v : Word)
  /-- CTRL_RESET (R27). -/
  | ctrlReset (m : Mst) (pg : Pg) (v : Word)
  /-- TRAINING_DONE (R29). -/
  | trainingDone (pg : Pg)
  /-- QUIESCE_DRAIN_DONE (R30). -/
  | quiesceDrainDone (pg : Pg)
  /-- CAPTURE_MARKER (R32). -/
  | captureMarker (pg : Pg)
  /-- FREEZE_CAPTURE_DONE (R32). -/
  | freezeCaptureDone (pg : Pg)
  /-- SNAP_TAKE (R35). -/
  | snapTake (m : Mst) (pg : Pg) (v : Word)
  /-- SNAP_WRITEOUT_DONE (R36). -/
  | snapWriteoutDone (pg : Pg)
  /-- PAGE_NO_ANSWER (R41). -/
  | pageNoAnswer (m : Mst) (pg : Pg)
  /-- ERR_FORCE (R418). -/
  | errForce (m : Mst) (pg : Pg) (v : Word)
  /-- ERR_ACK (R412). -/
  | errAck (m : Mst) (pg : Pg) (v : Word)
  /-- ERROR_EVENT (R411). -/
  | errorEvent (pg : Pg) (cls : BitVec 6) (arg : Word)
  /-- FLT_ACK_BELOW (R412). -/
  | fltAckBelow (m : Mst) (pg : Pg) (v : Word)
  /-- PIN_MISMATCH (R420). -/
  | pinMismatch (pg : Pg) (child : BitVec 9)
  /-- LOST_MS_TICK (R422). -/
  | lostMsTick (k : DieNo)
  /-- LNK_GRP_CFG_WRITE (R62). -/
  | lnkGrpCfgWrite (m : Mst) (pg : Pg) (v : Word)
  /-- LANE_POWER (R51). -/
  | lanePower (m : Mst) (pg : Pg) (v : Word)
  /-- LANE_CTRL_RETRAIN (R51). -/
  | laneCtrlRetrain (m : Mst) (pg : Pg) (v : Word)
  /-- CLR_COUNTERS (R60). -/
  | clrCounters (m : Mst) (pg : Pg) (v : Word)
  /-- SPARE_REQUEST (R56). -/
  | spareRequest (m : Mst) (pg : Pg) (v : Word)
  /-- SPARE_REVERT (R58). -/
  | spareRevert (m : Mst) (pg : Pg) (v : Word)
  /-- SPARE_REQUEST_DEQUEUE (R58). -/
  | spareRequestDequeue (k : DieNo)
  /-- PRBS_CTRL_WRITE (R59). -/
  | prbsCtrlWrite (m : Mst) (pg : Pg) (v : Word)
  /-- DETECT_RETRY (R51). -/
  | detectRetry (port : PortNo)
  /-- PARTNER_DETECTED (R51). -/
  | partnerDetected (port : PortNo) (an : BitVec 4)
  /-- TRAIN_DONE (R51). -/
  | trainDone (port : PortNo)
  /-- TRAIN_TIMEOUT (R51). -/
  | trainTimeout (port : PortNo)
  /-- LOCK_DONE (R51). -/
  | lockDone (port : PortNo)
  /-- LOCK_TIMEOUT (R51). -/
  | lockTimeout (port : PortNo)
  /-- CAPABILITY (R52). -/
  | capability (port : PortNo) (msg : CapMsg)
  /-- CAPEX_RESEND (R51). -/
  | capexResend (port : PortNo)
  /-- ADDR_RECHECK (R65). -/
  | addrRecheck (g : GroupNo)
  /-- RETRAIN (R51). -/
  | retrain (port : PortNo)
  /-- LANE_LOCK_LOST (R57). -/
  | laneLockLost (k : DieNo) (n : LaneNo)
  /-- SPARE_POLICY_WINDOW (R56). -/
  | sparePolicyWindow (k : DieNo) (n : LaneNo)
  /-- SPARE_PREPARE (R56). -/
  | sparePrepare (port : PortNo) (idx : BitVec 3) (j : BitVec 2)
  /-- SPARE_TRAIN_DONE (R56). -/
  | spareTrainDone (k : DieNo)
  /-- SPARE_TRAIN_FAIL (R56). -/
  | spareTrainFail (k : DieNo)
  /-- SPARE_SWITCH (R56). -/
  | spareSwitch (port : PortNo) (idx : BitVec 3) (j : BitVec 2) (sw : BitVec 32)
  /-- SPARE_ACK (R56). -/
  | spareAck (port : PortNo) (idx : BitVec 3) (j : BitVec 2) (sw : BitVec 32)
  /-- SPARE_SWITCHOVER (R56). -/
  | spareSwitchover (k : DieNo)
  /-- REFCLK_LOST (R63). -/
  | refclkLost (k : DieNo)
  /-- REFCLK_RESTORED (R63). -/
  | refclkRestored (k : DieNo)
  /-- DATA_CODEWORD (R49). -/
  | dataCodeword (k : DieNo) (n : LaneNo) (side : Line) (body : Line) (parity : Line)
  /-- CODEWORD_TX (R47). -/
  | codewordTx (k : DieNo) (n : LaneNo)
  /-- FLIT_RX (R73). -/
  | flitRx (port : PortNo) (f : Flit)
  /-- SIDEBAND_RX (R69). -/
  | sidebandRx (port : PortNo) (w : BitVec 32)
  /-- NAK_RX (R73). -/
  | nakRx (port : PortNo) (ack : BitVec 16)
  /-- NAK_REPEAT (R73). -/
  | nakRepeat (port : PortNo)
  /-- FLIT_TX (R70). -/
  | flitTx (port : PortNo)
  /-- CTX_OPEN (R82). -/
  | ctxOpen (m : Mst) (t : TileNo) (v : Word)
  /-- CTX_CLOSE (R82). -/
  | ctxClose (m : Mst) (t : TileNo) (v : Word)
  /-- CTX_RESET (R82). -/
  | ctxReset (m : Mst) (t : TileNo) (v : Word)
  /-- CTX_ENTRY_WRITE (R81). -/
  | ctxEntryWrite (m : Mst) (t : TileNo) (v : Word)
  /-- LOCAL_PUT (R87). -/
  | localPut (g : GroupNo) (c : LocalCmd)
  /-- LOCAL_GET (R87). -/
  | localGet (g : GroupNo) (c : LocalCmd)
  /-- LOCAL_SEND (R87). -/
  | localSend (g : GroupNo) (c : LocalCmd)
  /-- LOCAL_ATOMIC (R87). -/
  | localAtomic (g : GroupNo) (c : LocalCmd)
  /-- LOCAL_RECV_POST (R91). -/
  | localRecvPost (g : GroupNo) (c : LocalCmd)
  /-- CTX_QUEUE_ISSUE (R88). -/
  | ctxQueueIssue (c : CtxNo)
  /-- LOCAL_RD_DATA (R80). -/
  | localRdData (g : GroupNo) (tag : BitVec 32) (data : List Byte)
  /-- TX_PACKET_SEND (R84). -/
  | txPacketSend (c : CtxNo)
  /-- PUT (R87). -/
  | put (t : TileNo) (p : TPkt)
  /-- GET_REQ (R87). -/
  | getReq (t : TileNo) (p : TPkt)
  /-- GET_RESP (R87). -/
  | getResp (t : TileNo) (p : TPkt)
  /-- SEND (R91). -/
  | send (t : TileNo) (p : TPkt)
  /-- ATOMIC_ADD (R87). -/
  | atomicAdd (t : TileNo) (p : TPkt)
  /-- ATOMIC_RESP (R87). -/
  | atomicResp (t : TileNo) (p : TPkt)
  /-- ACK (R79). -/
  | ack (t : TileNo) (p : TPkt)
  /-- ACK_TIMER (R85). -/
  | ackTimer (c : CtxNo)
  /-- LOCAL_CPL (R86). -/
  | localCpl (c : CtxNo)
  /-- RETX_TIMEOUT (R93). -/
  | retxTimeout (c : CtxNo) (psn : BitVec 32)
  /-- NO_RESOURCE_RETRY (R93). -/
  | noResourceRetry (c : CtxNo) (psn : BitVec 32)
  /-- PATH_HOLD_EXPIRY (R94). -/
  | pathHoldExpiry (t : TileNo) (path : BitVec 20)
  /-- FRAME_INGRESS (R100). -/
  | frameIngress (port : PortNo) (f : Frame)
  /-- ADMIT_RETRY (R138). -/
  | admitRetry (port : PortNo) (vc : BitVec 3)
  /-- XBAR_SLOT (R115). -/
  | xbarSlot (last : TileNo)
  /-- ETH_RELEASE (R125). -/
  | ethRelease (port : PortNo)
  /-- EGRESS_SELECT (R164). -/
  | egressSelect (port : PortNo)
  /-- AGE_OSC_TICK (R127). -/
  | ageOscTick (d : BaseNo)
  /-- L3_SLOT (R119). -/
  | l3Slot (a : L3In)
  /-- L3_RESEQ_GIVEUP (R121). -/
  | l3ReseqGiveup (t : TileNo)
  /-- TBL_CMD_READ (R109). -/
  | tblCmdRead (m : Mst) (t : TileNo) (v : Word)
  /-- TBL_CMD_WRITE (R109). -/
  | tblCmdWrite (m : Mst) (t : TileNo) (v : Word)
  /-- TBL_CMD_INSERT (R110). -/
  | tblCmdInsert (m : Mst) (t : TileNo) (v : Word)
  /-- TBL_CMD_DELETE (R110). -/
  | tblCmdDelete (m : Mst) (t : TileNo) (v : Word)
  /-- TBL_CMD_FIND (R110). -/
  | tblCmdFind (m : Mst) (t : TileNo) (v : Word)
  /-- TBL_CMD_DONE (R111). -/
  | tblCmdDone (t : TileNo)
  /-- SLOT_LAG_WINDOW (R130). -/
  | slotLagWindow
  /-- EVAC_START_QUEUED (R131). -/
  | evacStartQueued
  /-- EVAC_DRAIN_END (R131). -/
  | evacDrainEnd (t : TileNo) (expired : Bool)
  /-- EVAC_RENUMBER (R131). -/
  | evacRenumber
  /-- MEMBER_REJOIN (R131). -/
  | memberRejoin (t : TileNo)
  /-- LIMIT_ENTRY_WRITE (R141). -/
  | limitEntryWrite (m : Mst) (pg : Pg) (v : Word)
  /-- SPILL_READBACK (R144). -/
  | spillReadback (d : BaseNo) (acct : BitVec 12)
  /-- SPILL_READ_DONE (R144). -/
  | spillReadDone (d : BaseNo) (acct : BitVec 12) (uncorr : Bool)
  /-- ALLOC (R149). -/
  | alloc (m : Mst) (pg : Pg) (v : Word)
  /-- FREE (R152). -/
  | free (m : Mst) (pg : Pg) (v : Word)
  /-- POOL_ALLOC_REQ (R151). -/
  | poolAllocReq (d : BaseNo) (src : BitVec 4) (size : BitVec 32)
  /-- POOL_FREE_REQ (R152). -/
  | poolFreeReq (d : BaseNo) (src : BitVec 4) (addr : BitVec 52)
  /-- POOL_CACHE_REFILL (R150). -/
  | poolCacheRefill (d : BaseNo) (pool : BitVec 3)
  /-- POOL_CACHE_RETURN (R150). -/
  | poolCacheReturn (d : BaseNo) (pool : BitVec 3)
  /-- POOL_INIT_DONE (R148). -/
  | poolInitDone (d : BaseNo)
  /-- CLS_ENTRY_WRITE (R171). -/
  | clsEntryWrite (m : Mst) (pg : Pg) (v : Word)
  /-- PFC_RX (R173). -/
  | pfcRx (port : PortNo) (bytes : List Byte)
  /-- PFC_PAUSE_EXPIRY (R173). -/
  | pfcPauseExpiry (port : PortNo) (vc : BitVec 3)
  /-- PFC_REFRESH (R172). -/
  | pfcRefresh (port : PortNo) (vc : BitVec 3)
  /-- TOKEN_ACCRUAL (R167). -/
  | tokenAccrual (t : TileNo) (cycles : BitVec 32)
  /-- CHECK (R178). -/
  | check (m : Mst) (v : Word)
  /-- LOAD (R181). -/
  | load (m : Mst) (v : Word)
  /-- ROUTE_LOAD_DONE (R180). -/
  | routeLoadDone
  /-- DL_SCAN (R182). -/
  | dlScan (d : BaseNo)
  /-- DL_RECOVER (R183). -/
  | dlRecover (port : PortNo) (vc : BitVec 3)
  /-- DL_HOLD_EXPIRY (R183). -/
  | dlHoldExpiry (port : PortNo) (vc : BitVec 3)
  /-- DL_CLEAR (R182). -/
  | dlClear (m : Mst) (v : Word)
  /-- MESH_MC_FORWARD (R162). -/
  | meshMcForward (h : MeshHead)
  /-- RDX_ADMIT (R188). -/
  | rdxAdmit (m : Mst) (n : EngNo) (v : Word)
  /-- RETIRE (R190). -/
  | retire (m : Mst) (n : EngNo) (v : Word)
  /-- RDX_RESET (R221). -/
  | rdxReset (m : Mst) (n : EngNo) (v : Word)
  /-- SAVE (R213). -/
  | save (m : Mst) (n : EngNo) (v : Word)
  /-- RESTORE (R213). -/
  | restore (m : Mst) (n : EngNo) (v : Word)
  /-- RDX_CMD_DONE (R213). -/
  | rdxCmdDone (n : EngNo)
  /-- COLL_CONTRIB (R200). -/
  | collContrib (port : PortNo) (p : CPkt)
  /-- CLAIM (R200). -/
  | claim (c : CtxNo)
  /-- CLAIM_GRANT (R200). -/
  | claimGrant (c : CtxNo)
  /-- ENGINE_ACCUMULATE (R198). -/
  | engineAccumulate (n : EngNo)
  /-- LINE_RELEASE (R204). -/
  | lineRelease (c : CtxNo) (line : BitVec 64)
  /-- EPILOGUE (R205). -/
  | epilogue (c : CtxNo) (line : BitVec 64)
  /-- RESULT_SEND (R209). -/
  | resultSend (c : CtxNo)
  /-- COLL_PARTIAL (R211). -/
  | collPartial (port : PortNo) (p : CPkt)
  /-- COLL_RESULT (R211). -/
  | collResult (port : PortNo) (p : CPkt)
  /-- COLL_SMALL (R215). -/
  | collSmall (port : PortNo) (p : CPkt)
  /-- OPEN (R217). -/
  | scOpen (m : Mst) (v : Word)
  /-- CLOSE (R215). -/
  | scClose (m : Mst) (v : Word)
  /-- SIGNAL (R229). -/
  | signal (src : Mst) (counter : BitVec 16) (epoch : BitVec 16) (amount : BitVec 32)
  /-- SYN_SIGNAL (R224). -/
  | synSignal (m : Mst) (v : Word)
  /-- CLEAR (R227). -/
  | clear (m : Mst) (v : Word)
  /-- FLAG_SET (R232). -/
  | flagSet (m : Mst) (v : Word)
  /-- FLAG_CLR (R232). -/
  | flagClr (m : Mst) (v : Word)
  /-- WATCH_ARM (R235). -/
  | watchArm (m : Mst) (v : Word)
  /-- WATCH_CANCEL (R236). -/
  | watchCancel (m : Mst) (v : Word)
  /-- BAR_ARM (R243). -/
  | barArm (m : Mst) (v : Word)
  /-- BAR_DISARM (R244). -/
  | barDisarm (m : Mst) (v : Word)
  /-- SYN_TBL_WRITE (R242). -/
  | synTblWrite (m : Mst) (v : Word)
  /-- WAIT_SCAN (R246). -/
  | waitScan
  /-- WAIT_CLEAR (R247). -/
  | waitClear (m : Mst) (v : Word)
  /-- START (R287). -/
  | start (m : Mst) (v : Word)
  /-- PAUSE (R307). -/
  | pause (m : Mst) (v : Word)
  /-- RESUME (R307). -/
  | resume (m : Mst) (v : Word)
  /-- STOP (R287). -/
  | stop (m : Mst) (v : Word)
  /-- PAUSE_TAKES_EFFECT (R307). -/
  | pauseTakesEffect (p : PartNo) (l : ListNo)
  /-- GANG_SCHEDULE (R306). -/
  | gangSchedule (cls : BitVec 2)
  /-- HALT (R287). -/
  | halt (p : PartNo) (l : ListNo)
  /-- LDW (R298). -/
  | ldw (p : PartNo) (l : ListNo)
  /-- STW (R284). -/
  | stw (p : PartNo) (l : ListNo)
  /-- MM (R288). -/
  | mm (p : PartNo) (l : ListNo)
  /-- MMT_DX (R315). -/
  | mmtDx (p : PartNo) (l : ListNo)
  /-- MMT_DW (R328). -/
  | mmtDw (p : PartNo) (l : ListNo)
  /-- EPI (R292). -/
  | epi (p : PartNo) (l : ListNo)
  /-- CVT (R273). -/
  | cvt (p : PartNo) (l : ListNo)
  /-- RDX (R304). -/
  | rdxOp (p : PartNo) (l : ListNo)
  /-- SND (R303). -/
  | snd (p : PartNo) (l : ListNo)
  /-- RCV_POST_WAIT (R303). -/
  | rcvPostWait (p : PartNo) (l : ListNo)
  /-- RCV_POST (R303). -/
  | rcvPost (p : PartNo) (l : ListNo)
  /-- RCV_FIRST (R303). -/
  | rcvFirst (p : PartNo) (l : ListNo)
  /-- WAIT_COUNTER (R302). -/
  | waitCounter (p : PartNo) (l : ListNo)
  /-- WAIT_FLAG (R302). -/
  | waitFlag (p : PartNo) (l : ListNo)
  /-- GANG_WATCH_MESSAGE (R302). -/
  | gangWatchMessage (w : Arming) (code : BitVec 8) (value : Word)
  /-- SIG_ADD (R302). -/
  | sigAdd (p : PartNo) (l : ListNo)
  /-- SIG_SET (R302). -/
  | sigSet (p : PartNo) (l : ListNo)
  /-- SIG_CLR (R302). -/
  | sigClr (p : PartNo) (l : ListNo)
  /-- CNT_FETCH (R305). -/
  | cntFetch (p : PartNo) (l : ListNo)
  /-- CNT_COUNTS (R305). -/
  | cntCounts (p : PartNo) (l : ListNo)
  /-- DIG_TREE (R297). -/
  | digTree (p : PartNo) (l : ListNo)
  /-- DIG_AUDIT (R300). -/
  | digAudit (p : PartNo) (l : ListNo)
  /-- SMP_SEEDED (R296). -/
  | smpSeeded (p : PartNo) (l : ListNo)
  /-- SMP_ENTROPY (R296). -/
  | smpEntropy (p : PartNo) (l : ListNo)
  /-- GANG_OP_DONE (R309). -/
  | gangOpDone (p : PartNo) (l : ListNo)
  /-- CPL_RING_RESUME (R309). -/
  | cplRingResume (p : PartNo) (l : ListNo)
  /-- ARRAY_LAG_WINDOW (R311). -/
  | arrayLagWindow
  /-- RELEASE_RETENTION (R322). -/
  | releaseRetention (m : Mst) (v : Word)
  /-- CLEAR_GRAD (R328). -/
  | clearGrad (m : Mst) (v : Word)
  /-- TRAIN_ENTRY_WRITE (R318). -/
  | trainEntryWrite (m : Mst) (v : Word)
  /-- PARTITION_ENTRY_WRITE (R313). -/
  | partitionEntryWrite (m : Mst) (v : Word)
  /-- STAGE_MON_WINDOW (R337). -/
  | stageMonWindow (pg : Pg) (count : BitVec 32)
  /-- REALIGN (R352). -/
  | realign (m : Mst) (pg : Pg) (v : Word)
  /-- XING_SLIP (R354). -/
  | xingSlip (pg : Pg)
  /-- XING_ALIGN_FAIL (R356). -/
  | xingAlignFail (pg : Pg)
  /-- CREATE (R368). -/
  | create (m : Mst) (slot : ChrSlot) (v : Word)
  /-- ASSIGN (R367). -/
  | assign (m : Mst) (slot : ChrSlot) (v : Word)
  /-- UNASSIGN (R367). -/
  | unassign (m : Mst) (slot : ChrSlot) (v : Word)
  /-- PARTITION_RESET (R369). -/
  | partitionReset (m : Mst) (slot : ChrSlot) (v : Word)
  /-- RELEASE (R368). -/
  | release (m : Mst) (slot : ChrSlot) (v : Word)
  /-- REGION_ZEROED (R367). -/
  | regionZeroed (r : BitVec 10) (ok : Bool)
  /-- SET_REGION (R365). -/
  | setRegion (m : Mst) (slot : ChrSlot) (v : Word)
  /-- SET_ACL (R362). -/
  | setAcl (m : Mst) (slot : ChrSlot) (v : Word)
  /-- KEY_IMPORT (R374). -/
  | keyImport (m : Mst) (slot : ChrSlot) (v : Word)
  /-- UNWRAP (R375). -/
  | unwrap (m : Mst) (slot : ChrSlot) (v : Word)
  /-- ATTEST (R380). -/
  | attest (m : Mst) (slot : ChrSlot) (v : Word)
  /-- CLAIM_OWNER (R382). -/
  | claimOwner (m : Mst) (slot : ChrSlot) (v : Word)
  /-- LIFECYCLE (R382). -/
  | lifecycle (m : Mst) (slot : ChrSlot) (v : Word)
  /-- CHR_CHALLENGE (R384). -/
  | chrChallenge (m : Mst) (slot : ChrSlot) (v : Word)
  /-- PUT_CERT (R382). -/
  | putCert (m : Mst) (slot : ChrSlot) (v : Word)
  /-- CHR_CMD_DONE (R381). -/
  | chrCmdDone (engine : BitVec 2)
  /-- ENTROPY_FAIL (R390). -/
  | entropyFail
  /-- TAP_INSTRUCTION (R383). -/
  | tapInstruction (ir : Byte)
  /-- TAP_RESET (R388). -/
  | tapReset
  /-- HELLO (R386). -/
  | hello
  /-- DBG_CHALLENGE (R384). -/
  | dbgChallenge
  /-- TOKEN (R385). -/
  | token (tok : List Byte)
  /-- DBG_READ (R386). -/
  | dbgRead (space : BitVec 2) (addr : BitVec 52) (n : BitVec 9)
  /-- DBG_WRITE (R386). -/
  | dbgWrite (space : BitVec 2) (addr : BitVec 52) (data : List (BitVec 32))
  /-- DBG_HALT (R387). -/
  | dbgHalt (p : Byte)
  /-- DBG_RESUME (R386). -/
  | dbgResume (p : Byte)
  /-- DBG_END (R388). -/
  | dbgEnd
  /-- PWRGD_RISE (R394). -/
  | pwrgdRise
  /-- PWRGD_FALL (R396). -/
  | pwrgdFall
  /-- RESET_N (R396). -/
  | resetN (level : Bool)
  /-- PCIE_PERST_N (R445). -/
  | pciePerstN (level : Bool)
  /-- INSTAR_0 (R394). -/
  | instar0 (bad : List (BitVec 8))
  /-- INSTAR_1 (R394). -/
  | instar1
  /-- INSTAR_2 (R394). -/
  | instar2 (bad : List (BitVec 8)) (hbmFail : List (BitVec 4))
  /-- INSTAR_3 (R394). -/
  | instar3
  /-- ECLOSION (R394). -/
  | eclosion (ms : BitVec 16)
  /-- THORAX_BOOT_TIMEOUT (R395). -/
  | thoraxBootTimeout
  /-- FW_WRITE (R397). -/
  | fwWrite (m : Mst) (pg : Pg) (v : Word)
  /-- FW_WRITE_DONE (R397). -/
  | fwWriteDone (pg : Pg)
  /-- ACTIVATE (R397). -/
  | activate (m : Mst) (pg : Pg) (v : Word)
  /-- COMMIT (R397). -/
  | commit (m : Mst) (pg : Pg) (v : Word)
  /-- ROLLBACK (R397). -/
  | rollback (m : Mst) (pg : Pg) (v : Word)
  /-- DISCARD (R397). -/
  | discard (m : Mst) (pg : Pg) (v : Word)
  /-- RESTART (R398). -/
  | restart (m : Mst) (pg : Pg) (v : Word)
  /-- FW_TRIAL_TIMEOUT (R397). -/
  | fwTrialTimeout (pg : Pg)
  /-- PUPA (R400). -/
  | pupa (m : Mst) (v : Word)
  /-- DIAPAUSE (R401). -/
  | diapause (m : Mst) (v : Word)
  /-- DIAPAUSE_DRAIN_END (R401). -/
  | diapauseDrainEnd
  /-- WAKE (R401). -/
  | wake (m : Mst) (v : Word)
  /-- POWER_TRANSITION_DONE (R399). -/
  | powerTransitionDone
  /-- SAVE_PROFILE (R406). -/
  | saveProfile (m : Mst) (v : Word)
  /-- SAVE_PROFILE_DONE (R406). -/
  | saveProfileDone (ok : Bool)
  /-- GOVERNOR_LOOP (R402). -/
  | governorLoop (loop : GovReading)
  /-- THERMAL_TRIP (R403). -/
  | thermalTrip (die : Byte) (temp : Byte)
  /-- REPAIR (R405). -/
  | repair (m : Mst) (pg : Pg) (v : Word)
  /-- HBM_REPAIR_DONE (R405). -/
  | hbmRepairDone (pg : Pg) (ok : Bool)
  /-- METER_SAMPLE (R423). -/
  | meterSample (pj : List (BitVec 32)) (beyond : BitVec 6)
  /-- ACTIVITY_REPORT (R425). -/
  | activityReport (dom : BitVec 3) (tag : BitVec 5) (count : BitVec 32)
  /-- TENANCY_EVENT (R426). -/
  | tenancyEvent (p : PartNo) (isCreate : Bool) (createCount : BitVec 32)
  /-- PERIOD_END (R424). -/
  | periodEnd (restsOnly : Bool)
  /-- CLOCK_FALLBACK (R427). -/
  | clockFallback
  /-- CLOCK_RESTORED (R427). -/
  | clockRestored
  /-- VMTR_LOSS (R431). -/
  | vmtrLoss
  /-- VMTR_RETURN (R431). -/
  | vmtrReturn (mramBad : Bool)
  /-- MTR_UPDATE_FALLBACK (R436). -/
  | mtrUpdateFallback
  /-- IDENT (R437). -/
  | ident
  /-- READ_RECORD (R437). -/
  | readRecord (index : BitVec 10)
  /-- READ_SIGNED (R432). -/
  | readSigned (nonce : List Byte)
  /-- READ_LOG (R437). -/
  | readLog (index : BitVec 16)
  /-- READ_CERT (R437). -/
  | readCert (offset : BitVec 16)
  /-- UPD_BEGIN (R434). -/
  | updBegin
  /-- UPD_DATA (R436). -/
  | updData (offset : BitVec 32) (data : List Byte)
  /-- UPD_END (R434). -/
  | updEnd
  /-- CCN_REQ (R438). -/
  | ccnReq (m : Mst) (v : Word)
  /-- SIGNED_READING_DONE (R432). -/
  | signedReadingDone
  /-- RING_ENABLE (R447). -/
  | ringEnable (m : Mst) (r : RingNo) (v : Word)
  /-- RING_TAIL (R447). -/
  | ringTail (m : Mst) (r : RingNo) (v : Word)
  /-- RING_CONSUMED (R448). -/
  | ringConsumed (m : Mst) (r : RingNo) (v : Word)
  /-- NOP (R448). -/
  | nop (r : RingNo)
  /-- REG_READ (R450). -/
  | regRead (r : RingNo)
  /-- REG_WRITE (R449). -/
  | regWrite (r : RingNo)
  /-- RING_WAIT_DONE (R449). -/
  | ringWaitDone (r : RingNo)
  /-- TBL_READ (R450). -/
  | tblRead (r : RingNo)
  /-- TBL_WRITE (R450). -/
  | tblWrite (r : RingNo)
  /-- RING_SIGNAL (R451). -/
  | ringSignal (r : RingNo)
  /-- RING_FLAG (R451). -/
  | ringFlag (r : RingNo)
  /-- RING_WATCH (R451). -/
  | ringWatch (r : RingNo)
  /-- STRICT (R370). -/
  | strict (r : RingNo)
  /-- RING_COAL_TIMER (R454). -/
  | ringCoalTimer (r : RingNo)
  /-- PCIE_LINK_DOWN (R445). -/
  | pcieLinkDown
  /-- FLR (R445). -/
  | flr (fn : BitVec 5)
  /-- INVENTORY (R455). -/
  | inventory (args : List Byte)
  /-- HEALTH (R455). -/
  | health (args : List Byte)
  /-- READ_REG (R455). -/
  | readReg (args : List Byte)
  /-- ACK_FAULTS (R455). -/
  | ackFaults (args : List Byte)
  /-- POWER (R455). -/
  | power (args : List Byte)
  /-- SET_CAP (R455). -/
  | setCap (args : List Byte)
  /-- IBI_CFG (R457). -/
  | ibiCfg (args : List Byte)
  /-- IBI_RETRY (R457). -/
  | ibiRetry (accepted : Bool)
  /-- REC_STATUS (R456). -/
  | recStatus (args : List Byte)
  /-- REC_BEGIN (R456). -/
  | recBegin (args : List Byte)
  /-- REC_DATA (R456). -/
  | recData (args : List Byte)
  /-- REC_END (R456). -/
  | recEnd (args : List Byte)
  /-- REC_BOOT (R456). -/
  | recBoot (args : List Byte)
  /-- PMBUS_POLL (R459). -/
  | pmbusPoll (reads : List (Option (BitVec 32)))
  /-- PMB_ALERT (R459). -/
  | pmbAlert (bad : BitVec 16)
  /-- COLL_WINDOW (R201). -/
  | collWindow (port : PortNo) (p : CPkt)
  /-- FW_READY (R397). -/
  | fwReady (pg : Pg)
  /-- MTR_UNSEAL (R434). -/
  | mtrUnseal
  /-- REGISTER_READ (R39). -/
  | registerRead (m : Mst) (bar : BitVec 3) (addr : BitVec 26) (len : BitVec 4)
  /-- MSIX_VECTOR_UNMASK (R454). -/
  | msixVectorUnmask (fn : BitVec 5) (vector : Byte)
  /-- DYNAMIC_ADDRESS_ASSIGNMENT (R455). -/
  | dynamicAddressAssignment (addr : BitVec 7)
deriving DecidableEq, Repr

end Sys2Proof
end

