-- ==== Sys2Proof/Machine/Digest.lean ====
section
/-! DEFINITION. SHA-512 and the cyclic redundancy checks of the links (R69, R73, R77, R455). SHA-512's rounds, and the
Ethernet CRC-32, are those of their published standards (assumption 8). -/

namespace Sys2Proof.Machine

/-- The bits of the `k`-th root of `n`, from bit `b` down: each is kept where the power still fits. -/
def rootBits (k n : Nat) : Nat → Nat → Nat
  | 0, r => r
  | b + 1, r => rootBits k n b (if (r + 2 ^ b) ^ k ≤ n then r + 2 ^ b else r)

/-- The first 64 bits after the point of the `k`-th root of `p`: the standard takes its words so. -/
def rootFrac (k p : Nat) : Word := BitVec.ofNat 64 (rootBits k (p * 2 ^ (64 * k)) 70 0)

/-- The primes below a bound. -/
def primesBelow (n : Nat) : List Nat :=
  (upTo n).filter fun p => 2 ≤ p && (upTo p).all fun d => d < 2 || p % d != 0

/-- What each of the 80 rounds adds: the cube roots of the first 80 primes, of which 409 is the last. -/
def shaAdds : List Word := (primesBelow 410).map (rootFrac 3)

/-- The hash before the first block: the square roots of the first eight primes. -/
def shaStart : List Word := (primesBelow 20).map (rootFrac 2)

/-- A word turned right by each of some distances, the turns added without carry. -/
def turns (ds : List Nat) (w : Word) : Word := ds.foldl (fun x d => x ^^^ w.rotateRight d) 0

/-- The block's words grown by `n` more; `l` holds those so far, the latest first. -/
def shaGrow : Nat → List Word → List Word
  | 0, l => l.reverse
  | n + 1, l =>
    let at' (back : Nat) : Word := l.getD (back - 1) 0
    shaGrow n ((at' 16 + (turns [1, 8] (at' 15) ^^^ at' 15 >>> 7) + at' 7 + (turns [19, 61] (at' 2) ^^^ at' 2 >>> 6)) :: l)

/-- One round on the eight words of the hash; `x` is what the round adds, with its word of the block. -/
def shaTurn (l : List Word) (x : Word) : List Word :=
  match l with
  | [a, b, c, d, e, f, g, h] =>
    let up := h + x + turns [14, 18, 41] e + (g ^^^ (e &&& (f ^^^ g)))
    (up + turns [28, 34, 39] a + ((a &&& (b ||| c)) ||| (b &&& c))) :: a :: b :: c :: (d + up) :: [e, f, g]
  | _ => l

/-- Big-endian words of 8 bytes. -/
def beWords : Nat → List Byte → List Word
  | 0, _ => []
  | n + 1, bs => BitVec.ofNat 64 (ofBeBytes (bs.take 8)) :: beWords n (bs.drop 8)

/-- One block of 128 bytes taken into the hash. -/
def shaBlock (l : List Word) (bs : List Byte) : List Word :=
  let ws := shaGrow 64 (beWords 16 bs).reverse
  List.zipWith (· + ·) l ((List.zipWith (· + ·) shaAdds ws).foldl shaTurn l)

/-- A message in whole blocks: a one bit, zeros, and its length in bits. -/
def shaPad (m : List Byte) : List Byte :=
  m ++ 0x80 :: (List.replicate ((239 - m.length % 128) % 128) 0 ++ beBytes 16 (8 * m.length))

/-- The first `n` blocks of a padded message taken in turn. -/
def shaBlocks : Nat → List Word → List Byte → List Word
  | 0, l, _ => l
  | n + 1, l, bs => shaBlocks n (shaBlock l (bs.take 128)) (bs.drop 128)

/-- The SHA-512 digest of a message: 64 bytes. -/
def sha512 (m : List Byte) : List Byte :=
  (shaBlocks ((shaPad m).length / 128) shaStart (shaPad m)).flatMap fun w => beBytes 8 w.toNat

/-- The SHA-512 digest as the number that its bytes spell under R2. -/
def shaNat (m : List Byte) : Nat := ofLeBytes (sha512 m)

/-- One bit step of a cyclic check of `w` bits with polynomial `poly`, most significant bit first. -/
def crcBit (w poly c : Nat) (b : Bool) : Nat :=
  let top := bit c (w - 1) != b
  let c' := c * 2 % 2 ^ w
  if top then c' ^^^ poly else c'

/-- The bits of a byte, most significant first. -/
def byteBits (b : Byte) : List Bool := [7, 6, 5, 4, 3, 2, 1, 0].map fun i => bit b.toNat i

/-- A cyclic check of `w` bits over bytes, most significant bit first. -/
def crcMsb (w poly init : Nat) (bs : List Byte) : Nat := (bs.flatMap byteBits).foldl (crcBit w poly) init

/-- One bit step of a reflected cyclic check. -/
def crcBitR (poly c : Nat) (b : Bool) : Nat :=
  let low := bit c 0 != b
  if low then c / 2 ^^^ poly else c / 2

/-- A reflected cyclic check over bytes, least significant bit first. -/
def crcLsb (poly init : Nat) (bs : List Byte) : Nat :=
  (bs.flatMap fun b => (byteBits b).reverse).foldl (crcBitR poly) init

/-- The CRC-32 of IEEE 802.3 over bytes. -/
def crc32 (bs : List Byte) : Nat := crcLsb 0xEDB88320 0xFFFFFFFF bs ^^^ 0xFFFFFFFF

/-- The CRC-32 of R68 with a polynomial: most significant bit first, complemented. -/
def crcWith (poly : Nat) (bs : List Byte) : Nat := crcMsb 32 poly 0xFFFFFFFF bs ^^^ 0xFFFFFFFF

/-- The CRC-32 of R68. -/
def crcLink (bs : List Byte) : Nat := crcWith 0x04C11DB7 bs

/-- The big-endian number in `n` bytes from byte `i` (R3). -/
def beAt (bs : List Byte) (i n : Nat) : Nat := ofBeBytes (slice i n bs)

/-- Word `i` of a transport header (R77). -/
def hw (bs : List Byte) (i : Nat) : Nat := beAt bs (4 * i) 4

end Sys2Proof.Machine
end

