-- ==== Sys2Proof/Config.lean ====
section
/-! DEFINITION. What the spec leaves open: free values, and operations of named outside standards whose results no
rule of the spec states bit by bit. Each is a constant with no body, so a claim holds for every value of it. -/

namespace Sys2Proof.Config

/-- A value the spec leaves open (a measured quantity, a random draw, an undefined result): the `n`-th draw of a run
(assumption 1). -/
opaque freeWord : Nat → Word

/-- The public point (X and Y, 1,056 bits) of a P-521 private key (R373, R377). Uninterpreted (assumption 3). -/
opaque p521Public : Nat → Nat

/-- The ECDH shared secret of a private key and a SEC 1 point; none where the point is not on the curve (R374). -/
opaque ecdh : Nat → List Byte → Option Nat

/-- The ECDSA P-521 signature, r then s, 132 bytes, of a SHA-512 digest under a private key (R377). -/
opaque ecdsaSign : Nat → Nat → List Byte

/-- Does a signature verify for a digest under a public key (R377)? -/
opaque ecdsaVerify : List Byte → Nat → List Byte → Bool

/-- AES-256-GCM decryption with key, IV, associated data, ciphertext and tag; none where the tag fails (R374, R375). -/
opaque gcmOpen : Nat → List Byte → List Byte → List Byte → List Byte → Option (List Byte)

/-- The SEC 1 public key that an X.509 certificate, given as DER, binds (R377). -/
opaque certKey : List Byte → List Byte

/-- The Coralri metrology authority key whose digest the Cocoon ROM holds (R434). -/
opaque metrologyKey : List Byte

/-- The private key that the PUF of this part yields (R377). -/
opaque pufKey : Nat

/-- The metrology private key, generated at manufacture (R433). -/
opaque mtrKey : Nat

/-- The bytes of the metrology certificate that manufacture gave this part (R433). -/
opaque mtrCert : Nat → Byte

/-- The image digests of the Chrysalis ROM and of the images that leave manufacture, by unit number (R378, R482). -/
opaque romDigest : Nat → Nat

/-- The activation function with a code (GELU, SiLU, sigmoid, tanh, exp) of an FP32 code, as an FP32 code. The spec gives
its bits only to within 2 ulp (R293, assumption 19). -/
opaque actFn : Nat → BitVec 32 → BitVec 32

/-- `-ln(-ln u)` as an FP32 code, for the `u` of R296 that a 53-bit number gives (assumption 19). -/
opaque gumbel : Nat → BitVec 32

/-- Which element of a row that holds a NaN stands at place `j` of its order from the largest down: no rule orders NaN
(R292, R296, assumption 182). -/
opaque nanOrder : List (BitVec 32) → Nat → Nat

/-- What the body of a configuration image holds: registers, table words, a boot route image and soft repairs. The spec
lists the contents and gives no layout (R391). -/
opaque cfgBody : List Byte → List (Nat × Word) × List (Nat × Word) × List Byte × List (Nat × Nat)

/-- Bit `i` of the SSPRQ sequence of IEEE 802.3 (R59). -/
opaque ssprq : Nat → Bool

/-- TLink's precoder on the levels of a codeword, and what undoes it: no rule gives its formula (R52). -/
opaque precode : List Nat → List Nat
opaque unprecode : List Nat → List Nat

/-- The link fault that the PCS of IEEE 802.3dj reads from the message symbols of a codeword: 0 none, 1 local, 2 remote
(R43). -/
opaque pcsFault : List Nat → Nat

/-- The message symbols that the PCS of IEEE 802.3dj forms for a codeword, by a draw and the link fault it reads, to
which its ordered sets answer (R43). -/
opaque pcsMessage : Nat → Nat → List Nat

/-- The entry index that a cycle's Ethernet edge reports, by device and out-port: no route entry uses the port (R180). -/
opaque noRouteEntry : Nat → Nat → BitVec 24

/-- The 48 bytes of slot header of a level-3 payload, by the slot count and the number of cells in it: the spec gives their
number and no layout (R119). -/
opaque l3Header : Nat → Nat → BitVec 384

/-- The 16-byte header of a spill block, by its die, side, account and data cells, and the 16-byte descriptor of a cell, by
the fields of R114: the spec gives their sizes and no layout (R142). -/
opaque blockHeader : List Nat → BitVec 128
opaque cellDescriptor : List Nat → BitVec 128

/-- The spare channels of a SerDes die that the board routes to the partner of a port (R50, R55). -/
opaque boardSpares : Nat → BitVec 4

/-- PAGE_VER's fw_slot and fw_rev, as bits 40 to 63 of the register, on a page whose path names no die: the register
table gives them per die. -/
opaque noDieFw : BitVec 24

end Sys2Proof.Config
end

