-- ==== Sys2Proof/Machine/Coding.lean ====
section
/-! DEFINITION. The coding of a lane: Reed-Solomon codewords over GF(2^10), the scrambler, Gray-coded PAM4 and the test
patterns (R43, R45 to R47, R59). Bits run most significant first, in symbols as in bytes (R3, assumption 153). -/

namespace Sys2Proof.Machine

/-! ## Bits of a stream -/

/-- The low `w` bits of a number, most significant first. -/
def bitsMsb : Nat → Nat → List Bool
  | 0, _ => []
  | w + 1, n => bit n w :: bitsMsb w n

/-- The number that bits spell, most significant first. -/
def ofBitsMsb (l : List Bool) : Nat := l.foldl (fun v b => 2 * v + b2n b) 0

/-- A list cut into `k` pieces of `w`. -/
def cutIn {α : Type} (w : Nat) : Nat → List α → List (List α)
  | 0, _ => []
  | k + 1, l => l.take w :: cutIn w k (l.drop w)

/-- The bits of a run of bytes. -/
def bitsOfBytes (bs : List Byte) : List Bool := bs.flatMap fun b => bitsMsb 8 b.toNat

/-- The bytes that a run of bits spells. -/
def bytesOfBits (l : List Bool) : List Byte := (cutIn 8 (l.length / 8) l).map fun p => BitVec.ofNat 8 (ofBitsMsb p)

/-! ## GF(2^10) with x^10 + x^3 + 1 (R45) -/

/-- A field element times x. -/
def gfX (a : Nat) : Nat := if a < 512 then 2 * a else (2 * a) ^^^ 0x409

/-- The powers of x, which generates the field. -/
def gfExp : Nat → Nat
  | 0 => 1
  | n + 1 => gfX (gfExp n)

/-- The product of two field elements. -/
def gfMul (a b : Nat) : Nat :=
  ((upTo 10).foldl (fun (r : Nat × Nat) i => (if bit b i then r.1 ^^^ r.2 else r.1, gfX r.2)) (0, a)).1

/-- The inverse of a field element: its power 2 + 4 + … + 512. -/
def gfInv (a : Nat) : Nat :=
  ((upTo 9).foldl (fun (r : Nat × Nat) _ => let q := gfMul r.2 r.2; (gfMul r.1 q, q)) (1, a)).1

/-- The sum of two polynomials, lowest degree first. -/
def polyAdd : List Nat → List Nat → List Nat
  | [], q => q
  | p, [] => p
  | a :: p, b :: q => (a ^^^ b) :: polyAdd p q

/-- A polynomial times a field element, and its value at one. -/
def polyScale (c : Nat) (p : List Nat) : List Nat := p.map (gfMul c)
def polyAt (p : List Nat) (x : Nat) : Nat := p.foldr (fun c v => c ^^^ gfMul x v) 0

/-! ## Reed-Solomon codes that correct `t` symbols (R43, R45) -/

/-- The generator of the code, without its leading one, highest degree first: its roots are the powers 0 to 2t - 1 of x
(assumption 153). -/
def rsGen (t : Nat) : List Nat :=
  (((upTo (2 * t)).foldl (fun g j => polyAdd (0 :: g) (polyScale (gfExp j) g)) [1]).reverse).drop 1

/-- The parity symbols of a message, the first symbol of highest degree. -/
def rsParity (t : Nat) (m : List Nat) : List Nat :=
  let g := rsGen t
  m.foldl (fun r a =>
    let f := a ^^^ r.headD 0
    List.zipWith (fun x c => x ^^^ gfMul f c) (r.drop 1 ++ [0]) g) (List.replicate (2 * t) 0)

/-- The codeword of a message: its symbols, then the parity. -/
def rsEncode (t : Nat) (m : List Nat) : List Nat := m ++ rsParity t m

/-- The syndromes of a received word. -/
def rsSyn (t : Nat) (r : List Nat) : List Nat :=
  (upTo (2 * t)).map fun j => let a := gfExp j; r.foldl (fun v c => gfMul v a ^^^ c) 0

/-- One step of the search for the shortest error locator: the locator, the one before the last change, its length, the
steps since, and the discrepancy there. -/
structure Locator where
  c : List Nat
  b : List Nat
  len : Nat
  gap : Nat
  disc : Nat

/-- The discrepancy of a locator at syndrome `n`. -/
def Locator.delta (x : Locator) (syn : List Nat) (n : Nat) : Nat :=
  (upTo (x.len + 1)).foldl (fun v i => if i ≤ n then v ^^^ gfMul (x.c.getD i 0) (syn.getD (n - i) 0) else v) 0

/-- The locator after syndrome `n`. -/
def Locator.next (syn : List Nat) (x : Locator) (n : Nat) : Locator :=
  let d := x.delta syn n
  if d = 0 then { x with gap := x.gap + 1 }
  else
    let c := polyAdd x.c (List.replicate x.gap 0 ++ polyScale (gfMul d (gfInv x.disc)) x.b)
    if 2 * x.len ≤ n then ⟨c, x.c, n + 1 - x.len, 1, d⟩ else { x with c := c, gap := x.gap + 1 }

/-- The error locator of a word's syndromes, and its length. -/
def rsLocator (t : Nat) (syn : List Nat) : Locator := (upTo (2 * t)).foldl (Locator.next syn) ⟨[1], [1], 0, 1, 1⟩

/-- The product of two polynomials below degree `n`. -/
def polyMulTo (n : Nat) (p q : List Nat) : List Nat :=
  ((p.foldr (fun c v => polyAdd (polyScale c q) (0 :: v)) [])).take n

/-- The value of the error at the symbol of degree `e`; zero where the locator has no root there. -/
def rsError (t : Nat) (syn loc : List Nat) (e : Nat) : Nat :=
  let x := gfExp (e % 1023)
  let y := gfInv x
  if polyAt loc y ≠ 0 then 0
  else
    let top := polyAt (polyMulTo (2 * t) syn loc) y
    let bottom := polyAt (((upTo (loc.length - 1)).map fun i => if i % 2 = 0 then loc.getD (i + 1) 0 else 0)) y
    gfMul x (gfMul top (gfInv bottom))

/-- The codeword within `t` symbols of a received word, with the count of symbols corrected; none where there is none,
or the decoder finds none. -/
def rsDecode (t : Nat) (r : List Nat) : Option (List Nat × Nat) :=
  let syn := rsSyn t r
  if syn.all (· == 0) then some (r, 0)
  else
    let x := rsLocator t syn
    let c := (r.zip (upTo r.length)).map fun e => e.1 ^^^ rsError t syn x.c (r.length - 1 - e.2)
    let n := ((r.zip c).filter fun e => e.1 != e.2).length
    if n ≤ t ∧ (rsSyn t c).all (· == 0) then some (c, n) else none

/-! ## The scrambler (R47) -/

/-- One bit through the self-synchronising scrambler x^58 + x^39 + 1: `st` holds the last 58 bits of the line, the
latest in bit 0. -/
def scrambleBit (st : Nat) (b : Bool) : Bool := b != (bit st 38 != bit st 57)

/-- The line's last 58 bits after one more. -/
def lineNext (st : Nat) (b : Bool) : Nat := (2 * st + b2n b) % 2 ^ 58

/-- Bits scrambled, with the line's state after them. -/
def scramble : Nat → List Bool → List Bool × Nat
  | st, [] => ([], st)
  | st, b :: l => let o := scrambleBit st b; let r := scramble (lineNext st o) l; (o :: r.1, r.2)

/-- Bits of the line descrambled, with the line's state after them. -/
def descramble : Nat → List Bool → List Bool × Nat
  | st, [] => ([], st)
  | st, b :: l => let r := descramble (lineNext st b) l; (scrambleBit st b :: r.1, r.2)

/-! ## PAM4 (R45) -/

/-- The level of a pair of bits, counted 0 to 3 for -3, -1, +1 and +3, the first bit the more significant. -/
def pamLevel : Bool → Bool → Nat
  | false, false => 0 | false, true => 1 | true, true => 2 | true, false => 3

/-- The pair of bits of a level. -/
def pamBits (l : Nat) : List Bool :=
  match l % 4 with
  | 0 => [false, false] | 1 => [false, true] | 2 => [true, true] | _ => [true, false]

/-- The levels of a run of bits. -/
def pamLevels : List Bool → List Nat
  | a :: b :: l => pamLevel a b :: pamLevels l
  | _ => []

/-- Levels with their polarity inverted, where it is (LNK_LANE_CTRL). -/
def polarity (inv : Bool) (ls : List Nat) : List Nat := if inv then ls.map (3 - · % 4) else ls

/-- The symbols of a run of line levels. -/
def symsOf (n : Nat) (ls : List Nat) : List Nat := (cutIn 10 n (ls.flatMap pamBits)).map ofBitsMsb

/-- The line levels of symbols. -/
def levelsOf (syms : List Nat) : List Nat := pamLevels (syms.flatMap (bitsMsb 10))

/-! ## TLink codewords (R46) -/

/-- The symbols of a codeword with a sideband and the bits of its body. -/
def tlinkCodeword (side : Nat) (body : List Bool) : List Nat :=
  rsEncode 6 ((cutIn 10 260 (bitsMsb 40 side ++ body)).map ofBitsMsb)

/-- The sideband and the body bits of a codeword's symbols. -/
def tlinkMessage (syms : List Nat) : Nat × List Bool :=
  let l := (syms.take 260).flatMap (bitsMsb 10)
  (ofBitsMsb (l.take 40), l.drop 40)

/-- The body of a control codeword (R50). -/
def controlBody (idx width count msg : Nat) (body caps : List Byte) : List Byte :=
  fit 320 (beBytes 2 0xC5A3 ++ beBytes 1 idx ++ beBytes 1 width ++ beBytes 4 count ++ beBytes 1 msg ++ fit 7 body ++
    (if msg = 1 then fit 48 caps else []))

/-! ## Test patterns (R59) -/

/-- The taps of a shift-register pattern, the longest first: bits back from the next one (assumption 154). -/
def prbsTaps : Nat → List Nat
  | 0 => [7, 6] | 1 => [9, 5] | 2 => [13, 12, 2, 1] | 3 => [15, 14] | 4 => [23, 18] | 5 => [31, 28] | _ => []

/-- The bits that a checker of a pattern takes before it compares. -/
def prbsSeed (pat : Nat) : Nat := (prbsTaps pat).headD 0

/-- The next bit of a pattern: by its shift register, or by its place in the sequence. -/
def patBit (pat user st : Nat) : Bool :=
  match pat with
  | 6 => Config.ssprq st
  | 7 => st % 2 == 0 && decide (st / 2 % 8 < 4)
  | 8 => bit user (st % 64)
  | _ => (prbsTaps pat).foldl (fun v k => v != bit st (k - 1)) false

/-- What follows when bit `b` has gone by. -/
def patNext (pat st : Nat) (b : Bool) : Nat :=
  match prbsSeed pat with
  | 0 => (st + 1) % 131072
  | n => (2 * st + b2n b) % 2 ^ n

/-- `n` bits of a pattern, with its state after them. -/
def patRun (pat user : Nat) : Nat → Nat → List Bool × Nat
  | 0, st => ([], st)
  | n + 1, st => let b := patBit pat user st; let r := patRun pat user n (patNext pat st b); (b :: r.1, r.2)

/-- What a checker holds: its pattern's state, the bits it has taken for it, and the bits compared and found wrong. -/
structure Check where
  st : Nat
  seen : Nat
  bits : Nat
  errs : Nat

/-- One received bit at a checker: the first ones seed its register, the rest are compared (assumption 154). -/
def Check.step (pat user : Nat) (c : Check) (b : Bool) : Check :=
  if c.seen < prbsSeed pat then { c with st := patNext pat c.st b, seen := c.seen + 1 }
  else
    let x := patBit pat user c.st
    ⟨patNext pat c.st x, c.seen, c.bits + 1, c.errs + b2n (x != b)⟩

end Sys2Proof.Machine
end

