-- ==== Sys2Proof/Machine/Flags.lean ====
section
/-! DEFINITION. The exception flag mask (R274), and what an operation on numbers reports beside its result: its flags
and how many of its results were saturated (R264, R275). -/

namespace Sys2Proof.Machine

/-- The flags of R274. -/
inductive Flag where
  | invalid | ovf | unf | inx | poison | guard | escFull
deriving DecidableEq, Repr

/-- The bit of a flag in the mask. -/
def Flag.bit : Flag → Nat
  | .invalid => 0 | .ovf => 1 | .unf => 2 | .inx => 3 | .poison => 4 | .guard => 5 | .escFull => 6

/-- The mask of one flag. -/
def Flag.mask (f : Flag) : Nat := 2 ^ f.bit

/-- The mask of one flag where it is raised. -/
def Flag.when (f : Flag) (b : Bool) : Nat := if b then f.mask else 0

/-- A mask holds a flag. -/
def hasFlag (m : Nat) (f : Flag) : Bool := Sys2Proof.bit m f.bit

/-- What an operation reports: its flag mask, its saturations, and the poisoned, guarded and unescaped counts of R261. -/
structure Exc where
  flags : Nat
  sat : Nat
  poison : Nat
  guard : Nat
  escFull : Nat
deriving DecidableEq, Repr

/-- Nothing to report. -/
def Exc.none : Exc := ⟨0, 0, 0, 0, 0⟩

/-- A report of flags alone. -/
def Exc.ofFlags (m : Nat) : Exc := ⟨m, 0, 0, 0, 0⟩

/-- The report of an overflow: OVF and INX, and one saturation (R264, R266). -/
def Exc.overflow : Exc := ⟨Flag.ovf.mask + Flag.inx.mask, 1, 0, 0, 0⟩

/-- Two reports together. -/
def Exc.add (a b : Exc) : Exc :=
  ⟨a.flags ||| b.flags, a.sat + b.sat, a.poison + b.poison, a.guard + b.guard, a.escFull + b.escFull⟩

end Sys2Proof.Machine
end

