-- ==== Sys2Proof/Machine/Operands.lean ====
section
/-! DEFINITION. The number formats of chapter 10 one element at a time: exact values, the decoding of every scalar
element, the four rounding modes, and the rounding of an exact value into a float or an integer (R252, R253, R262 to
R267). -/

namespace Sys2Proof.Machine

/-! ## Exact values -/

/-- An exact value: NaN, an infinity, or plus or minus `n / d`. A zero keeps its sign. -/
inductive Ev where
  | nan
  | inf (neg : Bool)
  | fin (neg : Bool) (n d : Nat)
deriving DecidableEq, Repr

/-- Plus zero. -/
def Ev.zero : Ev := .fin false 0 1

/-- The value of a signed whole number. -/
def Ev.ofInt (v : Int) : Ev := .fin (decide (v < 0)) v.natAbs 1

/-- The value `m * 2^e` with a sign. -/
def Ev.dyadic (neg : Bool) (m : Nat) (e : Int) : Ev :=
  if e < 0 then .fin neg m (2 ^ e.natAbs) else .fin neg (m * 2 ^ e.natAbs) 1

/-- The value is a zero. -/
def Ev.isZero : Ev → Bool
  | .fin _ n _ => n == 0
  | _ => false

/-- The value is minus zero. -/
def Ev.isNegZero : Ev → Bool
  | .fin s n _ => s && n == 0
  | _ => false

/-- The sign of a value. -/
def Ev.isNeg : Ev → Bool
  | .nan => false
  | .inf s => s
  | .fin s _ _ => s

/-- The magnitude of a value. -/
def Ev.abs : Ev → Ev
  | .nan => .nan
  | .inf _ => .inf false
  | .fin _ n d => .fin false n d

/-- The value with its sign turned. -/
def Ev.negate : Ev → Ev
  | .nan => .nan
  | .inf s => .inf (!s)
  | .fin s n d => .fin (!s) n d

/-- The signed numerator of a finite value. -/
def signedNum (neg : Bool) (n : Nat) : Int := if neg then -(n : Int) else n

/-- The product, under IEEE 754: zero times an infinity is invalid. -/
def Ev.mul : Ev → Ev → Ev × Bool
  | .nan, _ => (.nan, false)
  | _, .nan => (.nan, false)
  | .inf a, .inf b => (.inf (a != b), false)
  | .inf a, .fin b n _ => if n = 0 then (.nan, true) else (.inf (a != b), false)
  | .fin a n _, .inf b => if n = 0 then (.nan, true) else (.inf (a != b), false)
  | .fin a n d, .fin b m e => (.fin (a != b) (n * m) (d * e), false)

/-- The sum, under IEEE 754 and round to nearest: an exact zero is plus zero but for two minus zeros. -/
def Ev.add : Ev → Ev → Ev × Bool
  | .nan, _ => (.nan, false)
  | _, .nan => (.nan, false)
  | .inf a, .inf b => if a = b then (.inf a, false) else (.nan, true)
  | .inf a, .fin _ _ _ => (.inf a, false)
  | .fin _ _ _, .inf b => (.inf b, false)
  | .fin a n d, .fin b m e =>
    let v := signedNum a n * e + signedNum b m * d
    (.fin (if v = 0 then a && b && n == 0 && m == 0 else decide (v < 0)) v.natAbs (d * e), false)

/-- The quotient, under IEEE 754. -/
def Ev.div : Ev → Ev → Ev × Bool
  | .nan, _ => (.nan, false)
  | _, .nan => (.nan, false)
  | .inf _, .inf _ => (.nan, true)
  | .inf a, .fin b _ _ => (.inf (a != b), false)
  | .fin a _ _, .inf b => (.fin (a != b) 0 1, false)
  | .fin a n d, .fin b m e =>
    if m = 0 then (if n = 0 then (.nan, true) else (.inf (a != b), false)) else (.fin (a != b) (n * e) (d * m), false)

/-- `a ≤ b` of two finite or infinite values, with minus zero below plus zero. -/
def Ev.le : Ev → Ev → Bool
  | .nan, _ => false
  | _, .nan => false
  | .inf a, .inf b => a || !b
  | .inf a, .fin _ _ _ => a
  | .fin _ _ _, .inf b => !b
  | .fin a n d, .fin b m e =>
    let x := signedNum a n * e
    let y := signedNum b m * d
    decide (x < y) || (x == y && (n != 0 || a || !b))

/-- `a < b` by value; the two zeros are equal. -/
def Ev.lt : Ev → Ev → Bool
  | .nan, _ => false
  | _, .nan => false
  | .inf a, .inf b => a && !b
  | .inf a, .fin _ _ _ => a
  | .fin _ _ _, .inf b => !b
  | .fin a n d, .fin b m e => decide (signedNum a n * e < signedNum b m * d)

/-! ## Float formats (R251, R253) -/

/-- Which codes are special: IEEE infinities and NaNs, the one NaN of OCP E4M3, or none. -/
inductive Special where
  | ieee | ocp | finite
deriving DecidableEq, Repr

/-- A float element: its exponent and mantissa widths and its bias. -/
structure FFmt where
  eb : Nat
  mb : Nat
  bias : Nat
  special : Special
deriving DecidableEq, Repr

def fp32 : FFmt := ⟨8, 23, 127, .ieee⟩
def fp16 : FFmt := ⟨5, 10, 15, .ieee⟩
def bf16 : FFmt := ⟨8, 7, 127, .ieee⟩
def e4m3 : FFmt := ⟨4, 3, 7, .ocp⟩
def e5m2 : FFmt := ⟨5, 2, 15, .ieee⟩
def e2m1 : FFmt := ⟨2, 1, 1, .finite⟩
def e1m1 : FFmt := ⟨1, 1, 1, .finite⟩
def e2m3 : FFmt := ⟨2, 3, 1, .finite⟩
def e3m2 : FFmt := ⟨3, 2, 3, .finite⟩

/-- The bits of an element. -/
def FFmt.width (f : FFmt) : Nat := 1 + f.eb + f.mb

/-- The exponent of the lowest bit of a subnormal. -/
def FFmt.low (f : FFmt) : Int := 1 - (f.bias : Int) - f.mb

/-- The significand and the exponent of the lowest bit of the largest finite value. -/
def FFmt.largest (f : FFmt) : Nat × Int :=
  match f.special with
  | .ieee => (2 ^ (f.mb + 1) - 1, (2 ^ f.eb - 2 : Int) - f.bias - f.mb)
  | .ocp => (2 ^ (f.mb + 1) - 2, (2 ^ f.eb - 1 : Int) - f.bias - f.mb)
  | .finite => (2 ^ (f.mb + 1) - 1, (2 ^ f.eb - 1 : Int) - f.bias - f.mb)

/-- The value of an element's code (R253). -/
def FFmt.decode (f : FFmt) (code : Nat) : Ev :=
  let s := bit code (f.eb + f.mb)
  let e := bits code f.mb f.eb
  let m := bits code 0 f.mb
  if f.special = .ieee ∧ e = 2 ^ f.eb - 1 then (if m = 0 then .inf s else .nan)
  else if f.special = .ocp ∧ e = 2 ^ f.eb - 1 ∧ m = 2 ^ f.mb - 1 then .nan
  else if e = 0 then Ev.dyadic s m f.low
  else Ev.dyadic s (2 ^ f.mb + m) ((e : Int) - f.bias - f.mb)

/-- A code with a sign. -/
def FFmt.signed (f : FFmt) (neg : Bool) (c : Nat) : Nat := b2n neg * 2 ^ (f.eb + f.mb) + c

/-- The canonical NaN (R252). A format without one has the code of zero. -/
def FFmt.nanCode (f : FFmt) : Nat :=
  match f.special with
  | .ieee => (2 ^ f.eb - 1) * 2 ^ f.mb + 2 ^ (f.mb - 1)
  | .ocp => 2 ^ (f.eb + f.mb) - 1
  | .finite => 0

/-- The code of the largest finite magnitude. -/
def FFmt.largestCode (f : FFmt) : Nat :=
  match f.special with
  | .ieee => (2 ^ f.eb - 1) * 2 ^ f.mb - 1
  | .ocp => 2 ^ (f.eb + f.mb) - 2
  | .finite => 2 ^ (f.eb + f.mb) - 1

/-- The code of infinity, where the format has one. -/
def FFmt.infCode (f : FFmt) : Nat := (2 ^ f.eb - 1) * 2 ^ f.mb

/-! ## Rounding (R262, R263) -/

/-- The rounding modes of R262. -/
inductive Rnd where
  | rne | rtz | rto | sr
deriving DecidableEq, Repr

/-- The mode of a code. -/
def Rnd.ofVal : Nat → Rnd
  | 0 => .rne | 1 => .rtz | 2 => .rto | _ => .sr

/-- How to round: the mode, the saturate bit, and the 16 bits that SR compares. -/
structure How where
  rnd : Rnd
  sat : Bool
  rho : Nat
deriving DecidableEq, Repr

/-- Round to nearest even, without saturation. -/
def How.rne : How := ⟨.rne, false, 0⟩

/-- The 64-bit mix of R263, before its final shift. -/
def srMix (seed stream index : Nat) : Nat :=
  let m := 2 ^ 64
  let z := (seed + 0x9e3779b97f4a7c15 * ((stream * 2 ^ 32 + index + 1) % m)) % m
  let z := ((z ^^^ (z / 2 ^ 30)) * 0xbf58476d1ce4e5b9) % m
  let z := ((z ^^^ (z / 2 ^ 27)) * 0x94d049bb133111eb) % m
  z ^^^ (z / 2 ^ 31)

/-- The 16 bits of R263. -/
def srBits (seed stream index : Nat) : Nat := srMix seed stream index / 2 ^ 48

/-- A whole number of steps rounded: `q` whole steps and `rem / den` of one more (R262). -/
def roundSteps (h : How) (q rem den : Nat) : Nat :=
  match h.rnd with
  | .rne => if den < 2 * rem ∨ (2 * rem = den ∧ q % 2 = 1) then q + 1 else q
  | .rtz => q
  | .rto => if rem = 0 ∨ q % 2 = 1 then q else q + 1
  | .sr => if h.rho * den < rem * 2 ^ 16 then q + 1 else q

/-- The exponent of the leading bit of a positive `n / d`. -/
def leadExp (n d : Nat) : Int :=
  let l : Int := (Nat.log2 n : Int) - Nat.log2 d
  let below := if l < 0 then decide (n * 2 ^ l.natAbs < d) else decide (n < d * 2 ^ l.natAbs)
  if below then l - 1 else l

/-- `n / d` over `2^u`, as a numerator and a denominator. -/
def scaled (n d : Nat) (u : Int) : Nat × Nat := if u < 0 then (n * 2 ^ u.natAbs, d) else (n, d * 2 ^ u.natAbs)

/-- A positive `n / d` rounded onto a format's grid with an unbounded exponent: the significand, the exponent of its
lowest bit, and whether the result is inexact. -/
def FFmt.onGrid (f : FFmt) (h : How) (n d : Nat) : Nat × Int × Bool :=
  let u := max (leadExp n d - f.mb) f.low
  let (a, b) := scaled n d u
  (roundSteps h (a / b) (a % b) b, u, a % b != 0)

/-- `a * 2^x` exceeds `b * 2^y`. -/
def dyadicGt (a : Nat) (x : Int) (b : Nat) (y : Int) : Bool :=
  if x < y then decide (b * 2 ^ (y - x).natAbs < a) else decide (b < a * 2 ^ (x - y).natAbs)

/-- The code of a significand and exponent on the grid, within the format's range. -/
def FFmt.pack (f : FFmt) (q : Nat) (u : Int) : Nat :=
  if q < 2 ^ f.mb then q
  else if q = 2 ^ (f.mb + 1) then (u + 1 + f.bias + f.mb).toNat * 2 ^ f.mb
  else (u + f.bias + f.mb).toNat * 2 ^ f.mb + (q - 2 ^ f.mb)

/-- The result of an overflowing finite value (the table of R264), without its sign. -/
def FFmt.overflowCode (f : FFmt) (h : How) : Nat :=
  if f.special ≠ .ieee ∨ h.sat ∨ h.rnd = .rtz ∨ h.rnd = .rto then f.largestCode else f.infCode

/-- The smallest normal magnitude exceeds `n / d`. -/
def FFmt.subnormal (f : FFmt) (n d : Nat) : Bool := decide (leadExp n d < 1 - (f.bias : Int))

/-- An exact value rounded into a float format (R262 to R266). -/
def FFmt.round (f : FFmt) (h : How) (v : Ev) : Nat × Exc :=
  match v with
  | .nan => (f.nanCode, Exc.none)
  | .inf s =>
    if f.special = .ieee then (f.signed s f.infCode, Exc.none) else (f.signed s f.largestCode, Exc.overflow)
  | .fin s n d =>
    if n = 0 then (f.signed s 0, Exc.none)
    else
      let (q, u, inexact) := f.onGrid h n d
      if dyadicGt q u f.largest.1 f.largest.2 then (f.signed s (f.overflowCode h), Exc.overflow)
      else (f.signed s (f.pack q u),
        Exc.ofFlags (Flag.inx.when inexact + Flag.unf.when (inexact && f.subnormal n d)))

/-! ## Integer formats (R264 to R267) -/

/-- An integer destination: its least and its largest value. -/
structure IFmt where
  lo : Int
  hi : Int
deriving DecidableEq, Repr

def int32 : IFmt := ⟨-2 ^ 31, 2 ^ 31 - 1⟩
def int64 : IFmt := ⟨-2 ^ 63, 2 ^ 63 - 1⟩
def uint32 : IFmt := ⟨0, 2 ^ 32 - 1⟩
def uint64 : IFmt := ⟨0, 2 ^ 64 - 1⟩

/-- A value rounded into an integer format (R264, R265). -/
def IFmt.round (f : IFmt) (h : How) (v : Ev) : Int × Exc :=
  match v with
  | .nan => (0, Exc.ofFlags Flag.invalid.mask)
  | .inf s => (if s then f.lo else f.hi, Exc.overflow)
  | .fin s n d =>
    let q := roundSteps h (n / d) (n % d) d
    let r := signedNum s q
    if r < f.lo then (f.lo, Exc.overflow)
    else if f.hi < r then (f.hi, Exc.overflow)
    else (r, Exc.ofFlags (Flag.inx.when (n % d != 0)))

/-- The two's complement code of a value in `w` bits. -/
def toCode (w : Nat) (v : Int) : Nat := (v % (2 ^ w : Int)).toNat

/-- The signed value of a two's complement code of `w` bits. -/
def ofCode (w n : Nat) : Int := if n < 2 ^ (w - 1) then (n : Int) else (n : Int) - 2 ^ w

/-! ## The nine scalar formats (R194, R251) -/

/-- The float of a format code. -/
def floatOf : Nat → Option FFmt
  | 0 => some fp32 | 1 => some fp16 | 2 => some bf16 | 3 => some e4m3 | 4 => some e5m2 | _ => none

/-- The integer of a format code. -/
def intOf : Nat → Option IFmt
  | 5 => some int32 | 6 => some int64 | 7 => some uint32 | 8 => some uint64 | _ => none

/-- The bytes of an element of a scalar format. -/
def fmtBytes : Nat → Nat
  | 0 => 4 | 1 => 2 | 2 => 2 | 3 => 1 | 4 => 1 | 5 => 4 | 6 => 8 | 7 => 4 | 8 => 8 | _ => 0

/-- The exact value of a scalar element's code. -/
def decodeScalar (fmt code : Nat) : Ev :=
  match floatOf fmt with
  | some f => f.decode code
  | none => match fmt with
    | 5 => Ev.ofInt (ofCode 32 code)
    | 6 => Ev.ofInt (ofCode 64 code)
    | _ => Ev.ofInt code

/-- An exact value rounded into a scalar format, as a code. -/
def encodeScalar (fmt : Nat) (h : How) (v : Ev) : Nat × Exc :=
  match floatOf fmt, intOf fmt with
  | some f, _ => f.round h v
  | none, some i => let r := i.round h v; (toCode (8 * fmtBytes fmt) r.1, r.2)
  | none, none => (0, Exc.none)

/-! ## Single operations in FP32 (R293) -/

/-- A value rounded once to FP32 under round to nearest even. -/
def toFp32 (v : Ev) : Nat × Nat := let r := fp32.round How.rne v; (r.1, r.2.flags)

/-- The value of an FP32 code. -/
def ofFp32 (c : Nat) : Ev := fp32.decode c

/-- An operation on exact values, rounded once to FP32, with its flags. -/
def fp32Of (r : Ev × Bool) : Nat × Nat := let q := toFp32 r.1; (q.1, q.2 ||| Flag.invalid.when r.2)

/-- The whole square root of a number, bit by bit from bit `k` down. -/
def isqrtFrom : Nat → Nat → Nat → Nat
  | 0, n, r => if (r + 1) * (r + 1) ≤ n then r + 1 else r
  | k + 1, n, r => isqrtFrom k n (if (r + 2 ^ (k + 1)) * (r + 2 ^ (k + 1)) ≤ n then r + 2 ^ (k + 1) else r)

/-- The whole square root of a number. -/
def isqrt (n : Nat) : Nat := isqrtFrom (Nat.log2 n / 2 + 1) n 0

/-- The square root of a value, correctly rounded to FP32: taken to 64 bits below its leading bit with a last bit that
tells of a remainder, which the rounding cannot mistake for a tie. -/
def fp32Sqrt (v : Ev) : Nat × Nat :=
  match v with
  | .nan => (fp32.nanCode, 0)
  | .inf s => if s then (fp32.nanCode, Flag.invalid.mask) else (fp32.infCode, 0)
  | .fin s n d =>
    if n = 0 then (fp32.signed s 0, 0)
    else if s then (fp32.nanCode, Flag.invalid.mask)
    else
      -- n / d = (n * d) / d^2
      let k := 128 + Nat.log2 d
      let x := n * d * 2 ^ (2 * k)
      let r := isqrt x
      toFp32 (.fin false (2 * r + b2n (r * r != x)) (d * 2 ^ (k + 1)))

end Sys2Proof.Machine
end

