-- ==== Sys2Proof/Machine/Accum.lean ====
section
/-! DEFINITION. The exact accumulators: elements of a reduction line (R196 to R199), their release, the exact partial
encoding XPE (R202, R203), and the column accumulators of the arrays with their full form (R277, R278, R280). -/

namespace Sys2Proof.Machine

/-- An exact accumulator: its bits in two's complement, and what it has seen: NaN, plus and minus infinity, at least one
term, and whether every term was minus zero (R197, R280). -/
structure Xsum where
  sum : Nat
  nan : Bool
  posInf : Bool
  negInf : Bool
  terms : Bool
  negzero : Bool
deriving DecidableEq, Repr

/-- An accumulator to which nothing has been added. -/
def Xsum.zero : Xsum := ⟨0, false, false, false, false, false⟩

/-- A number in two's complement of `w` bits, as a signed value. -/
def Xsum.value (a : Xsum) (w : Nat) : Int := ofCode w a.sum

/-- An exact value added to an accumulator of `w` bits whose bit 0 carries the weight `2^-k` (R198, R277). -/
def Xsum.add (w k : Nat) (a : Xsum) (v : Ev) : Xsum :=
  let nz := v.isNegZero && (!a.terms || a.negzero)
  match v with
  | .nan => { a with nan := true, terms := true, negzero := false }
  | .inf s => { a with posInf := a.posInf || !s, negInf := a.negInf || s, terms := true, negzero := false }
  | .fin s n d => { a with sum := toCode w (ofCode w a.sum + signedNum s (n * 2 ^ k / d)), terms := true, negzero := nz }

/-- Two accumulators of `w` bits together (R202, R280). -/
def Xsum.join (w : Nat) (a b : Xsum) : Xsum :=
  { sum := (a.sum + b.sum) % 2 ^ w, nan := a.nan || b.nan, posInf := a.posInf || b.posInf, negInf := a.negInf || b.negInf
    terms := a.terms || b.terms
    negzero := (a.terms || b.terms) && (!a.terms || a.negzero) && (!b.terms || b.negzero) }

/-- Both infinities have been seen. -/
def Xsum.both (a : Xsum) : Bool := a.posInf && a.negInf

/-- The exact value that an accumulator of `w` bits with lowest weight `2^-k` holds, over `div`, and whether both
infinities make it invalid (R197, R278). -/
def Xsum.result (w k div : Nat) (a : Xsum) : Ev × Bool :=
  if a.nan || a.both then (.nan, a.both)
  else if a.posInf then (.inf false, false)
  else if a.negInf then (.inf true, false)
  else
    let v := a.value w
    (.fin (if v = 0 then a.terms && a.negzero else decide (v < 0)) v.natAbs (2 ^ k * div), false)

/-! ## Reduction lines (R194 to R198) -/

/-- The operations of R194. -/
inductive RdxOp where
  | sum | wsum | avg | min | max | and_ | or_ | xor_
deriving DecidableEq, Repr

/-- The operation of a code; codes above 7 are reserved. -/
def RdxOp.ofVal : Nat → Option RdxOp
  | 0 => some .sum | 1 => some .wsum | 2 => some .avg | 3 => some .min | 4 => some .max | 5 => some .and_ | 6 => some .or_
  | 7 => some .xor_ | _ => none

/-- The operation is a sum: its accumulator is exact, and its partials travel as XPE. -/
def RdxOp.isSum : RdxOp → Bool
  | .sum | .wsum | .avg => true
  | _ => false

/-- How far the lowest bit of a line's accumulator lies below one: 172 in float mode, none in integer mode (R198). -/
def lineShift (float : Bool) : Nat := if float then 172 else 0

/-- One contribution to an element of a sum: for WSUM its weighted product, and whether that is invalid (R197). -/
def contribution (op : RdxOp) (weight : Nat) (v : Ev) : Ev × Bool :=
  match op with
  | .wsum => (bf16.decode weight).mul v
  | _ => (v, false)

/-- The extreme of two codes of a format: the lesser, or the greater; minus zero lies below plus zero (R197). -/
def extreme (fmt : Nat) (least : Bool) (a b : Nat) : Nat :=
  let x := decodeScalar fmt a
  let y := decodeScalar fmt b
  if least then (if x.le y then a else b) else if y.le x then a else b

/-- A code contributed to an element of a MIN, MAX or bitwise line. -/
def Xsum.fold (op : RdxOp) (fmt : Nat) (a : Xsum) (code : Nat) : Xsum :=
  let a' := { a with terms := true }
  match op with
  | .min | .max =>
    if decodeScalar fmt code = .nan then { a' with nan := true }
    else if a.terms && !a.nan then { a' with sum := extreme fmt (op == .min) a.sum code }
    else { a' with sum := if a.nan then a.sum else code }
  | .and_ => { a' with sum := if a.terms then a.sum &&& code else code }
  | .or_ => { a' with sum := a.sum ||| code }
  | .xor_ => { a' with sum := a.sum ^^^ code }
  | _ => a'

/-- The result of an element (R194, R196, R197): its code in the context's format, its flags. `leaves` are the leaves
of the line. -/
def Xsum.release (op : RdxOp) (float : Bool) (fmt : Nat) (h : How) (leaves : Nat) (a : Xsum) : Nat × Exc :=
  match op with
  | .sum | .wsum =>
    let r := a.result 320 (lineShift float) 1
    let q := encodeScalar fmt h r.1
    (q.1, q.2.add (Exc.ofFlags (Flag.invalid.when r.2)))
  | .avg =>
    if leaves = 0 then ((encodeScalar fmt h .nan).1, Exc.ofFlags Flag.invalid.mask)
    else
      let r := a.result 320 (lineShift float) leaves
      let q := encodeScalar fmt h r.1
      (q.1, q.2.add (Exc.ofFlags (Flag.invalid.when r.2)))
  | .min | .max =>
    if !a.terms then ((if float then (encodeScalar fmt h .nan).1 else 0), Exc.ofFlags Flag.invalid.mask)
    else if a.nan then ((encodeScalar fmt h .nan).1, Exc.none) else (a.sum, Exc.none)
  | .and_ => (if a.terms then a.sum else 2 ^ (8 * fmtBytes fmt) - 1, Exc.none)
  | .or_ | .xor_ => (a.sum, Exc.none)

/-! ## XPE (R202, R203) -/

/-- The lowest set bit of a number of 320 bits, clipped to 256. -/
def lowBit (n : Nat) : Nat := ((upTo 256).find? fun i => bit n i).getD 256

/-- An accumulator is finite: no special value has been seen. -/
def Xsum.finite (a : Xsum) : Bool := !(a.nan || a.posInf || a.negInf)

/-- A value fits the window at `a` (R203). -/
def fitsAt (x : Xsum) (a : Nat) : Bool :=
  let v := x.value 320
  x.sum % 2 ^ a == 0 && decide (-(2 ^ 63 : Int) ≤ v / 2 ^ a) && decide (v / 2 ^ a ≤ 2 ^ 63 - 1)

/-- The window place that an encoder chooses (R203). -/
def chooseAnchor (xs : List Xsum) : Nat :=
  let ys := xs.filter fun x => x.finite && x.sum != 0
  let score (a : Nat) : Nat := (ys.filter fun x => fitsAt x a).length
  match ys.map fun x => lowBit x.sum with
  | [] => 0
  | c :: l => l.foldl (fun b a => if score b < score a ∨ (score a = score b ∧ a < b) then a else b) c

/-- The specials code of an element (R202). -/
def Xsum.special (a : Xsum) : Nat := if a.nan || a.both then 3 else if a.posInf then 1 else if a.negInf then 2 else 0

/-- The sixteen bits that one flag of each element makes. -/
def maskOf (l : List Bool) : Nat := (l.zip (upTo l.length)).foldl (fun v e => v + b2n e.1 * 2 ^ e.2) 0

/-- The XPE block of a line (R202, R203). -/
def xpeBlock (float : Bool) (leaves : Nat) (xs : List Xsum) : List Byte :=
  let a := chooseAnchor xs
  let esc := xs.map fun x => x.finite && x.sum != 0 && !fitsAt x a
  let w0 := toCode 16 ((a : Int) - lineShift float) + maskOf esc * 2 ^ 16 +
    maskOf (xs.map fun x => x.terms && x.negzero && x.finite) * 2 ^ 32 + b2n (!float) * 2 ^ 48
  let w1 := (xs.zip (upTo 16)).foldl (fun v e => v + e.1.special * 2 ^ (2 * e.2)) 0 + leaves % 2 ^ 32 * 2 ^ 32
  let win := (xs.zip esc).flatMap fun e =>
    leBytes 8 (if e.1.finite && !e.2 then toCode 64 (e.1.value 320 / 2 ^ a) else 0)
  let full := (xs.zip esc).flatMap fun e => if e.2 then leBytes 40 e.1.sum else []
  leBytes 8 w0 ++ leBytes 8 w1 ++ win ++ full

/-- The number of escapes of a block, from its first word. -/
def xpeEscapes (bs : List Byte) : Nat := ((upTo 16).filter fun e => bit (ofLeBytes (bs.take 8)) (16 + e)).length

/-- The size of the block at the head of some bytes. -/
def xpeSize (bs : List Byte) : Nat := 144 + 40 * xpeEscapes bs

/-- The window place of a block, as a signed number. -/
def xpeAnchor (float : Bool) (bs : List Byte) : Int := ofCode 16 (ofLeBytes (bs.take 2)) + lineShift float

/-- A block of exactly these bytes is well formed (R202). -/
def xpeOk (float : Bool) (bs : List Byte) : Bool :=
  let w0 := ofLeBytes (slice 0 8 bs)
  let w1 := ofLeBytes (slice 8 8 bs)
  decide (144 ≤ bs.length) && bs.length == xpeSize bs && decide (0 ≤ xpeAnchor float bs) &&
    decide (xpeAnchor float bs ≤ 256) && bit w0 48 == !float && bits w0 49 15 == 0 &&
    (upTo 16).all fun e =>
      let esc := bit w0 (16 + e)
      let sp := bits w1 (2 * e) 2 != 0
      let win := ofLeBytes (slice (16 + 8 * e) 8 bs)
      !(sp && (esc || win != 0)) && !(esc && win != 0)

/-- The leaves of a block. -/
def xpeLeaves (bs : List Byte) : Nat := ofLeBytes (slice 12 4 bs)

/-- Element `e` of a block. A block without leaves has contributed nothing. -/
def xpeElem (float : Bool) (bs : List Byte) (e : Nat) : Xsum :=
  let w0 := ofLeBytes (slice 0 8 bs)
  let sp := bits (ofLeBytes (slice 8 8 bs)) (2 * e) 2
  let a := (xpeAnchor float bs).toNat
  let before := ((upTo e).filter fun i => bit w0 (16 + i)).length
  let v := if bit w0 (16 + e) then ofLeBytes (slice (144 + 40 * before) 40 bs)
    else toCode 320 (ofCode 64 (ofLeBytes (slice (16 + 8 * e) 8 bs)) * 2 ^ a)
  { sum := if sp = 0 then v else 0, nan := sp == 3, posInf := sp == 1, negInf := sp == 2
    terms := decide (0 < xpeLeaves bs), negzero := decide (0 < xpeLeaves bs) && bit w0 (32 + e) }

/-- The elements of a block. -/
def xpeElems (float : Bool) (bs : List Byte) : List Xsum := (upTo 16).map (xpeElem float bs)

/-- The exact value of element `e` of a block, as a CVT takes it, in the mode that the block names (R202, R267). -/
def xpeValue (bs : List Byte) (e : Nat) : Ev :=
  let float := !bit (ofLeBytes (slice 0 8 bs)) 48
  ((xpeElem float bs e).result 320 (lineShift float) 1).1

/-! ## Column accumulators (R277, R278, R280) -/

/-- A product added to a column accumulator. -/
def Xsum.addProduct (a : Xsum) (v : Ev) : Xsum := a.add 704 352 v

/-- The flag word of the full form. -/
def Xsum.flagWord (a : Xsum) : Nat :=
  b2n a.nan + b2n a.posInf * 2 + b2n a.negInf * 4 + b2n a.terms * 8 + b2n a.negzero * 16

/-- The full form of a column accumulator: 96 bytes (R280). -/
def Xsum.full (a : Xsum) : List Byte := leBytes 88 a.sum ++ leBytes 8 a.flagWord

/-- The accumulator that a full form holds. -/
def Xsum.ofFull (bs : List Byte) : Xsum :=
  let w := ofLeBytes (slice 88 8 bs)
  ⟨ofLeBytes (slice 0 88 bs), bit w 0, bit w 1, bit w 2, bit w 3, bit w 4⟩

/-- The value that a column accumulator rounds (R278). -/
def Xsum.column (a : Xsum) : Ev × Bool := a.result 704 352 1

end Sys2Proof.Machine
end

