-- ==== Sys2Proof/Machine/Codes.lean ====
section
/-! DEFINITION. The completion codes (R478), the error classes of every page kind with their catalogue levels and
masks at reset (R419 and the error tables of the chapters), and the master ids (R357). -/

namespace Sys2Proof.Machine

/-- The completion codes of R478. -/
inductive Code where
  | ok | notReady | refusedState | badArg | denied | noResource | ownerLost | aborted | integrity | mayVaryForbidden
deriving DecidableEq, Repr

/-- The 8-bit value of a completion code (R478). -/
def Code.val : Code → Nat
  | .ok => 0 | .notReady => 1 | .refusedState => 2 | .badArg => 3 | .denied => 4 | .noResource => 5
  | .ownerLost => 6 | .aborted => 7 | .integrity => 8 | .mayVaryForbidden => 9

/-- The completion code of a value; values above 9 are never returned (R478). -/
def Code.ofVal : Nat → Code
  | 0 => .ok | 1 => .notReady | 2 => .refusedState | 3 => .badArg | 4 => .denied | 5 => .noResource
  | 6 => .ownerLost | 7 => .aborted | 8 => .integrity | _ => .mayVaryForbidden

/-- A code that turns a command down without effect (R483). -/
def Code.refuses : Code → Bool
  | .refusedState | .badArg | .denied | .noResource | .mayVaryForbidden => true
  | _ => false

/-- The operator masters: 0x00, 0x02 to 0x07 and 0x10 (R357). -/
def isOperator (m : Nat) : Bool := m == 0 || (2 ≤ m && m ≤ 7) || m == 0x10

/-- The partition whose virtual function or Gang a master id is (R357). -/
def masterPart (m : Nat) : Option Nat :=
  if 0x11 ≤ m ∧ m < 0x21 then some (m - 0x11) else if 0x30 ≤ m ∧ m < 0x40 then some (m - 0x30) else none

/-- The partition of a virtual function's master id. -/
def vfPart (m : Nat) : Option Nat := if 0x11 ≤ m ∧ m < 0x21 then some (m - 0x11) else none

end Sys2Proof.Machine
end

