-- ==== Sys2Proof/Machine/Kv.lean ====
section
/-! DEFINITION. Two sparse stores kept as plain lists in one canonical form: words by a numbered key (registers and
tables) and bytes by address (memories). Keys rise strictly, and no entry equals what an unlisted key reads as, so
equal stores are equal lists. -/

namespace Sys2Proof.Machine

/-- Words by key. -/
abbrev Kv := List (Nat × Word)

/-- The entry at key `k`, where one is listed. -/
def kvFind : Kv → Nat → Option Word
  | [], _ => none
  | (k', w) :: l, k => if k' = k then some w else if k < k' then none else kvFind l k

/-- The word at key `k`, which reads `d k` where none is listed. -/
def kvGet (d : Nat → Nat) (l : Kv) (k : Nat) : Word := (kvFind l k).getD (BitVec.ofNat 64 (d k))

/-- The list with no entry at key `k`. -/
def kvErase : Kv → Nat → Kv
  | [], _ => []
  | (k', w) :: l, k => if k' = k then l else if k < k' then (k', w) :: l else (k', w) :: kvErase l k

/-- The list with the entry `w` at key `k`. -/
def kvInsert : Kv → Nat → Word → Kv
  | [], k, w => [(k, w)]
  | (k', w') :: l, k, w =>
    if k' = k then (k, w) :: l else if k < k' then (k, w) :: (k', w') :: l else (k', w') :: kvInsert l k w

/-- A write: writing what an unlisted key reads as takes the entry out. -/
def kvPut (d : Nat → Nat) (l : Kv) (k : Nat) (w : Word) : Kv :=
  if w = BitVec.ofNat 64 (d k) then kvErase l k else kvInsert l k w

/-- The entries whose keys lie outside `[lo, hi)`: the range goes back to what unlisted keys read as. -/
def kvClear (l : Kv) (lo hi : Nat) : Kv := l.filter fun e => e.1 < lo || hi ≤ e.1

/-- The canonical form of a store of words whose first key is at least `lo`. -/
def kvWfFrom (d : Nat → Nat) : Nat → Kv → Bool
  | _, [] => true
  | lo, (k, w) :: l => decide (lo ≤ k) && decide (w ≠ BitVec.ofNat 64 (d k)) && kvWfFrom d (k + 1) l

/-- The canonical form of a store of words. -/
def kvWf (d : Nat → Nat) (l : Kv) : Bool := kvWfFrom d 0 l

/-- A memory: its bytes by address. An unlisted address reads zero (assumption 2). -/
abbrev Memory := List Host.Cell

/-- The byte at address `a`. -/
def memRead : Memory → Nat → Byte
  | [], _ => 0
  | (a', b) :: m, a => if a' = a then b else if a < a' then 0 else memRead m a

/-- The memory with no byte listed at `a`. -/
def memErase : Memory → Nat → Memory
  | [], _ => []
  | (a', b) :: m, a => if a' = a then m else if a < a' then (a', b) :: m else (a', b) :: memErase m a

/-- The memory with the byte `v` listed at `a`. -/
def memInsert : Memory → Nat → Byte → Memory
  | [], a, v => [(a, v)]
  | (a', b) :: m, a, v =>
    if a' = a then (a, v) :: m else if a < a' then (a, v) :: (a', b) :: m else (a', b) :: memInsert m a v

/-- A write of one byte. -/
def memWrite (m : Memory) (a : Nat) (v : Byte) : Memory := if v = 0 then memErase m a else memInsert m a v

/-- A write of bytes to rising addresses. -/
def memWrites : Memory → Nat → List Byte → Memory
  | m, _, [] => m
  | m, a, b :: bs => memWrites (memWrite m a b) (a + 1) bs

/-- A read of `n` bytes from rising addresses. -/
def memReads (m : Memory) (a : Nat) : Nat → List Byte
  | 0 => []
  | n + 1 => memRead m a :: memReads m (a + 1) n

/-- The memory with every address of `[lo, lo + n)` at zero. -/
def memZero (m : Memory) (lo n : Nat) : Memory := m.filter fun c => c.1 < lo || lo + n ≤ c.1

/-- The canonical form of a memory whose first address is at least `lo`. -/
def memWfFrom : Nat → Memory → Bool
  | _, [] => true
  | lo, (a, b) :: m => decide (lo ≤ a) && decide (b ≠ 0) && memWfFrom (a + 1) m

/-- The canonical form of a memory: addresses strictly rising, no byte listed as zero. -/
def Memory.wf (m : Memory) : Bool := memWfFrom 0 m

end Sys2Proof.Machine
end

