-- ==== Sys2Proof/Machine/Blocks.lean ====
section
/-! DEFINITION. The blocks of the part that own a register page, their page indices (R25), kinds, paths (R26),
parents and children (R23, R31, R481), stewards and halt scopes (R357, R415). -/

namespace Sys2Proof.Machine

/-- A block with a register page. Dies, tiles, groups and engines are numbered across the part: base die `2w + b`,
switch tile `8w + 4b + s`, port group `8t + g`, array, vector die and HBM stack `4w + 2b + i`, SerDes die `4w + k`. -/
inductive Blk where
  | dev | mroot | fltDev | pwr | meshDev | xbarDev | thx | chr | syn | ccn | pci | dbg
  | stwC (i : Nat)
  | brg (i : Nat) | stwBrg (i : Nat)
  | wng (w : Nat) | fltW (w : Nat)
  | bse (d : Nat) | fltB (d : Nat) | pool (d : Nat) | meshB (d : Nat) | hbm (h : Nat) | stwB (d : Nat)
  | swt (t : Nat) | att (t : Nat) | xbarT (t : Nat) | stwT (t : Nat) | grp (g : Nat)
  | mac (a : Nat) | stwA (a : Nat)
  | vec (n : Nat) | rdx (n : Nat) | stwV (n : Nat)
  | die (k : Nat) | stwL (k : Nat) | lane (k n : Nat)
deriving DecidableEq, Repr

/-- The base index of a Wing's block of pages (R25). -/
def wingBase (w : Nat) : Nat := 0x400 * (w + 1)

/-- The base index of a base die's block of pages (R25). -/
def dieBase (d : Nat) : Nat := wingBase (d / 2) + 0x100 + d % 2 * 0x80

/-- The base index of a SerDes die's block of pages (R25). -/
def serdesBase (k : Nat) : Nat := wingBase (k / 4) + 0x200 + k % 4 * 0x80

/-- The page index of a block (R25). -/
def Blk.page : Blk → Nat
  | .dev => 0x0000 | .mroot => 0x0001 | .fltDev => 0x0002 | .pwr => 0x0003 | .meshDev => 0x0004 | .xbarDev => 0x0005
  | .thx => 0x0010 | .chr => 0x0011 | .syn => 0x0012 | .ccn => 0x0013 | .pci => 0x0014 | .dbg => 0x0015
  | .stwC i => 0x0018 + i
  | .brg i => 0x0020 + i | .stwBrg i => 0x0028 + i
  | .wng w => wingBase w | .fltW w => wingBase w + 1
  | .bse d => dieBase d | .fltB d => dieBase d + 1 | .pool d => dieBase d + 2 | .meshB d => dieBase d + 3
  | .hbm h => dieBase (h / 2) + 4 + h % 2 | .stwB d => dieBase d + 6
  | .swt t => dieBase (t / 4) + 0x10 + t % 4 * 0x10
  | .att t => dieBase (t / 4) + 0x10 + t % 4 * 0x10 + 1
  | .xbarT t => dieBase (t / 4) + 0x10 + t % 4 * 0x10 + 2
  | .stwT t => dieBase (t / 4) + 0x10 + t % 4 * 0x10 + 3
  | .grp g => dieBase (g / 32) + 0x10 + g / 8 % 4 * 0x10 + 4 + g % 8
  | .mac a => dieBase (a / 2) + 0x50 + a % 2 * 8 | .stwA a => dieBase (a / 2) + 0x50 + a % 2 * 8 + 1
  | .vec n => dieBase (n / 2) + 0x60 + n % 2 * 8
  | .rdx n => dieBase (n / 2) + 0x60 + n % 2 * 8 + 1
  | .stwV n => dieBase (n / 2) + 0x60 + n % 2 * 8 + 2
  | .die k => serdesBase k | .stwL k => serdesBase k + 1 | .lane k n => serdesBase k + 0x10 + n

/-- The block at offset `o` of the base-die block of pages of base die `d` (R25). -/
def blkInDie (d o : Nat) : Option Blk :=
  if o < 0x10 then
    match o with
    | 0 => some (.bse d) | 1 => some (.fltB d) | 2 => some (.pool d) | 3 => some (.meshB d)
    | 4 => some (.hbm (2 * d)) | 5 => some (.hbm (2 * d + 1)) | 6 => some (.stwB d) | _ => none
  else if o < 0x50 then
    let t := 4 * d + (o - 0x10) / 0x10
    match o % 0x10 with
    | 0 => some (.swt t) | 1 => some (.att t) | 2 => some (.xbarT t) | 3 => some (.stwT t)
    | r => if r < 12 then some (.grp (8 * t + (r - 4))) else none
  else if o < 0x60 then
    let a := 2 * d + (o - 0x50) / 8
    match o % 8 with
    | 0 => some (.mac a) | 1 => some (.stwA a) | _ => none
  else if o < 0x70 then
    let n := 2 * d + (o - 0x60) / 8
    match o % 8 with
    | 0 => some (.vec n) | 1 => some (.rdx n) | 2 => some (.stwV n) | _ => none
  else none

/-- The block at offset `o` of the SerDes-die block of pages of SerDes die `k` (R25). -/
def blkInSerdes (k o : Nat) : Option Blk :=
  if o = 0 then some (.die k)
  else if o = 1 then some (.stwL k)
  else if 0x10 ≤ o ∧ o < 0x54 then some (.lane k (o - 0x10))
  else none

/-- The block that owns page index `pg`; `none` where the tables of R25 assign no page. Index 0x0001, the
multi-device root, is present only while the part is a member of a multi-device brood: `multi` says so (R31). -/
def blkOf (multi : Bool) (pg : Nat) : Option Blk :=
  if pg < 0x400 then
    match pg with
    | 0x00 => some .dev | 0x01 => if multi then some .mroot else none
    | 0x02 => some .fltDev | 0x03 => some .pwr | 0x04 => some .meshDev | 0x05 => some .xbarDev
    | 0x10 => some .thx | 0x11 => some .chr | 0x12 => some .syn | 0x13 => some .ccn | 0x14 => some .pci
    | 0x15 => some .dbg
    | _ =>
      if 0x18 ≤ pg ∧ pg < 0x1C then some (.stwC (pg - 0x18))
      else if 0x20 ≤ pg ∧ pg < 0x28 then some (.brg (pg - 0x20))
      else if 0x28 ≤ pg ∧ pg < 0x30 then some (.stwBrg (pg - 0x28))
      else none
  else if pg < 0x1400 then
    let w := pg / 0x400 - 1
    let o := pg % 0x400
    if o < 2 then (if o = 0 then some (.wng w) else some (.fltW w))
    else if 0x100 ≤ o ∧ o < 0x200 then blkInDie (2 * w + (o - 0x100) / 0x80) (o % 0x80)
    else if 0x200 ≤ o then blkInSerdes (4 * w + (o - 0x200) / 0x80) (o % 0x80)
    else none
  else none

/-- The kind code of a page (the table of PAGE_ID). A steward page has the kind of its die. -/
def Blk.kind : Blk → Nat
  | .dev | .mroot => 0x01
  | .wng _ => 0x02
  | .bse _ | .stwB _ => 0x03
  | .swt _ | .stwT _ => 0x04
  | .att _ => 0x05
  | .grp _ | .die _ | .stwL _ | .lane _ _ => 0x06
  | .mac _ | .stwA _ => 0x07
  | .vec _ | .stwV _ => 0x08
  | .rdx _ => 0x09
  | .hbm _ => 0x0A
  | .pool _ => 0x0B
  | .meshDev | .meshB _ => 0x0C
  | .xbarDev | .xbarT _ => 0x0D
  | .syn => 0x0E
  | .thx => 0x0F
  | .chr => 0x10
  | .ccn => 0x11
  | .stwC i => if i = 0 then 0x0F else if i = 1 then 0x10 else if i = 2 then 0x0E else 0x11
  | .fltDev | .fltW _ | .fltB _ => 0x12
  | .brg _ | .stwBrg _ => 0x13
  | .pci => 0x14
  | .pwr => 0x15
  | .dbg => 0x16

/-- The page belongs to a die steward (PAGE_ID.stw). -/
def Blk.isSteward : Blk → Bool
  | .stwC _ | .stwBrg _ | .stwB _ | .stwT _ | .stwA _ | .stwV _ | .stwL _ => true
  | _ => false

/-- A path element: its tag in bits [10:7], its index in bits [6:0] (R26). -/
def pathEl (tag idx : Nat) : Nat := tag * 128 + idx

/-- The path elements of a base die. -/
def diePath (d : Nat) : List Nat := [pathEl 1 (d / 2), pathEl 2 (d % 2)]

/-- The path of a block below the root of its part (R8, R22, R26). -/
def Blk.path : Blk → List Nat
  | .dev | .mroot | .fltDev | .pwr | .meshDev | .xbarDev => []
  | .thx | .pci | .dbg => [pathEl 11 0, pathEl 12 0]
  | .chr => [pathEl 11 0, pathEl 13 0]
  | .syn => [pathEl 11 0, pathEl 14 0]
  | .ccn => [pathEl 11 0, pathEl 15 0]
  | .stwC i => [pathEl 11 0, pathEl (12 + i) 0]
  | .brg i | .stwBrg i => [pathEl 10 i]
  | .wng w | .fltW w => [pathEl 1 w]
  | .bse d | .fltB d | .pool d | .meshB d | .stwB d => diePath d
  | .hbm h => diePath (h / 2) ++ [pathEl 7 (h % 2)]
  | .swt t | .att t | .xbarT t | .stwT t => diePath (t / 4) ++ [pathEl 3 (t % 4)]
  | .grp g => diePath (g / 32) ++ [pathEl 3 (g / 8 % 4), pathEl 4 (g % 8)]
  | .mac a | .stwA a => diePath (a / 2) ++ [pathEl 5 (a % 2)]
  | .vec n | .rdx n | .stwV n => diePath (n / 2) ++ [pathEl 6 (n % 2)]
  | .die k | .stwL k => [pathEl 1 (k / 4), pathEl 8 (k % 4)]
  | .lane k n => [pathEl 1 (k / 4), pathEl 8 (k % 4), pathEl 9 n]

/-- The block in whose directory a block appears (R31, R481); the root pages appear in none. -/
def Blk.parent : Blk → Option Blk
  | .dev | .mroot => none
  | .fltDev | .pwr | .meshDev | .xbarDev | .thx | .chr | .syn | .ccn | .brg _ | .wng _ => some .dev
  | .pci | .dbg => some .thx
  | .stwC i => some (if i = 0 then .thx else if i = 1 then .chr else if i = 2 then .syn else .ccn)
  | .stwBrg i => some (.brg i)
  | .fltW w => some (.wng w)
  | .bse d => some (.wng (d / 2))
  | .die k => some (.wng (k / 4))
  | .fltB d | .pool d | .meshB d | .stwB d => some (.bse d)
  | .hbm h => some (.bse (h / 2))
  | .swt t => some (.bse (t / 4))
  | .mac a => some (.bse (a / 2))
  | .vec n => some (.bse (n / 2))
  | .att t | .xbarT t | .stwT t => some (.swt t)
  | .grp g => some (.swt (g / 8))
  | .stwA a => some (.mac a)
  | .rdx n | .stwV n => some (.vec n)
  | .stwL k => some (.die k)
  | .lane k _ => some (.die k)

/-- The children of a block that this part holds, in ascending page index (R481); of the multi-device root, the
part's own root (R31). -/
def Blk.kids : Blk → List Blk
  | .mroot => [.dev]
  | .dev => [.fltDev, .pwr, .meshDev, .xbarDev, .thx, .chr, .syn, .ccn] ++ (upTo 8).map .brg ++ (upTo 4).map .wng
  | .thx => [.pci, .dbg, .stwC 0]
  | .chr => [.stwC 1]
  | .syn => [.stwC 2]
  | .ccn => [.stwC 3]
  | .brg i => [.stwBrg i]
  | .wng w => [.fltW w, .bse (2 * w), .bse (2 * w + 1)] ++ (upTo 4).map fun k => .die (4 * w + k)
  | .bse d =>
    [.fltB d, .pool d, .meshB d, .hbm (2 * d), .hbm (2 * d + 1), .stwB d] ++ ((upTo 4).map fun s => .swt (4 * d + s))
      ++ [.mac (2 * d), .mac (2 * d + 1), .vec (2 * d), .vec (2 * d + 1)]
  | .swt t => [.att t, .xbarT t, .stwT t] ++ (upTo 8).map fun g => .grp (8 * t + g)
  | .mac a => [.stwA a]
  | .vec n => [.rdx n, .stwV n]
  | .die k => .stwL k :: (upTo 68).map (.lane k)
  | _ => []

/-- A block's path element as its directory entry adds it; `none` for a companion or a steward (R481). -/
def Blk.addsElement (b : Blk) : Option Nat :=
  match b with
  | .fltDev | .pwr | .meshDev | .xbarDev | .pci | .dbg | .fltW _ | .fltB _ | .pool _ | .meshB _ | .att _ | .xbarT _
  | .rdx _ => none
  | b => if b.isSteward then none else b.path.getLast?

/-- The blocks at and below a block, in directory order, to a depth of `fuel` levels. -/
def Blk.below : Nat → Blk → List Blk
  | 0, b => [b]
  | fuel + 1, b => b :: b.kids.flatMap (Blk.below fuel)

/-- A block and every descendant: no path of the part is deeper than five pages below the
multi-device root (R481). -/
def Blk.subtree (b : Blk) : List Blk := Blk.below 5 b

/-- A block's ancestors, nearest first. -/
def Blk.above : Nat → Blk → List Blk
  | 0, _ => []
  | fuel + 1, b =>
    match b.parent with
    | none => []
    | some p => p :: Blk.above fuel p

/-- Every ancestor of a block. -/
def Blk.ancestors (b : Blk) : List Blk := Blk.above 5 b

/-- The master id of the steward of the die that a block's path names (R357); none for pages whose path names no
die, and for HBM pages the base die's. -/
def Blk.steward : Blk → Option Nat
  | .dev | .mroot | .fltDev | .pwr | .meshDev | .xbarDev | .wng _ | .fltW _ => none
  | .thx | .pci | .dbg => some 0xE0
  | .chr => some 0xE1
  | .syn => some 0xE2
  | .ccn => some 0xE3
  | .stwC i => some (0xE0 + i)
  | .brg i | .stwBrg i => some (0xD8 + i)
  | .bse d | .fltB d | .pool d | .meshB d | .stwB d => some (0x80 + d)
  | .hbm h => some (0x80 + h / 2)
  | .swt t | .att t | .xbarT t | .stwT t => some (0x88 + t)
  | .grp g => some (0x88 + g / 8)
  | .mac a | .stwA a => some (0xA8 + a)
  | .vec n | .rdx n | .stwV n => some (0xB8 + n)
  | .die k | .stwL k | .lane k _ => some (0xC8 + k)

/-- What a level-4 fault halts (R415). -/
inductive Scope where
  | base (d : Nat) | serdes (k : Nat) | wing (w : Nat) | device
deriving DecidableEq, Repr

/-- The halt scope of a page (R415). -/
def Blk.scope : Blk → Scope
  | .bse d | .fltB d | .pool d | .meshB d | .stwB d => .base d
  | .hbm h => .base (h / 2)
  | .swt t | .att t | .xbarT t | .stwT t => .base (t / 4)
  | .grp g => .base (g / 32)
  | .mac a | .stwA a => .base (a / 2)
  | .vec n | .rdx n | .stwV n => .base (n / 2)
  | .die k | .stwL k | .lane k _ => .serdes k
  | .wng w | .fltW w => .wing w
  | _ => .device

/-- The root page of a halt scope. -/
def Scope.root : Scope → Blk
  | .base d => .bse d | .serdes k => .die k | .wing w => .wng w | .device => .dev

/-- The page is a brood page: it has children (R23). -/
def Blk.isBrood (b : Blk) : Bool := !b.kids.isEmpty

/-- CAPS.ownable is 1 on the port-group pages alone (R362). -/
def Blk.ownable : Blk → Bool
  | .grp _ => true
  | _ => false

/-- CAPS.can_evacuate: the blocks that their parent brood can drop from its work are the members of the crossbar
pattern, of the Gang and of the vector deal, the base dies that carry them, and the port groups (R131, R312).
DEDUCED (assumption 4). -/
def Blk.canEvacuate : Blk → Bool
  | .bse _ | .swt _ | .mac _ | .vec _ | .grp _ => true
  | _ => false

/-- The SerDes die and lane index that carry lane `i` of port group `g` (R11). -/
def groupLane (g i : Nat) : Nat × Nat :=
  let t := g / 8
  (4 * (t / 8) + t % 8 / 2, t % 2 * 32 + 4 * (g % 8) + i)

/-- The port group, and the lane's number in it, of active lane `n` of SerDes die `k` (R11). -/
def laneGroup (k n : Nat) : Nat × Nat :=
  let t := 8 * (k / 4) + 2 * (k % 4) + n / 32
  (8 * t + n % 32 / 4, n % 4)

/-- The table scopes of a page, for the tables it owns. -/
def Blk.scopeNo : Blk → Nat
  | .swt t | .att t | .xbarT t => t
  | .bse d | .pool d | .meshB d => d
  | .mac a => a
  | .vec n | .rdx n => n
  | _ => 0

end Sys2Proof.Machine
end

