-- ==== Sys2Proof/Machine/Classes.lean ====
section
/-! DEFINITION. The error classes: the bit of each in its page's status word (R419), its catalogue level and whether
it is masked at reset (the error tables R41, R63, R390, R407, R420, R440, R460 and those of the other chapters). -/

namespace Sys2Proof.Machine

/-- A class: its bit, its catalogue level, and whether ERR_MASK has it masked at reset. -/
structure Cls where
  bit : Nat
  level : Nat
  masked : Bool
deriving DecidableEq, Repr

def cPAGE_NO_ANSWER : Cls := ⟨0, 2, false⟩
def cFREEZE_OVERRUN : Cls := ⟨1, 0, false⟩
def cSNAP_FAILED : Cls := ⟨2, 0, false⟩
def cCMD_REFUSED : Cls := ⟨3, 0, true⟩

/-- The classes of the group of pages `every` (R419). -/
def classes_every : List Cls :=
  [cPAGE_NO_ANSWER, cFREEZE_OVERRUN, cSNAP_FAILED, cCMD_REFUSED]

def cFEC_DEGRADE : Cls := ⟨8, 1, false⟩
def cXING_SLIP_lane : Cls := ⟨9, 1, false⟩
def cXING_ALIGN_FAIL_lane : Cls := ⟨10, 2, false⟩

/-- The classes of the group of pages `lane` (R419). -/
def classes_lane : List Cls :=
  [cFEC_DEGRADE, cXING_SLIP_lane, cXING_ALIGN_FAIL_lane]

def cTRAIN_FAIL : Cls := ⟨8, 0, false⟩
def cCAPEX_MISMATCH : Cls := ⟨9, 0, false⟩
def cLANE_DOWN : Cls := ⟨10, 2, false⟩

/-- The classes of the group of pages `grp` (R419). -/
def classes_grp : List Cls :=
  [cTRAIN_FAIL, cCAPEX_MISMATCH, cLANE_DOWN]

def cSPARE_USED : Cls := ⟨8, 1, false⟩
def cSPARE_EXHAUSTED : Cls := ⟨9, 2, false⟩
def cREFCLK_LOST : Cls := ⟨10, 2, false⟩

/-- The classes of the group of pages `die` (R419). -/
def classes_die : List Cls :=
  [cSPARE_USED, cSPARE_EXHAUSTED, cREFCLK_LOST]

def cLL_REPLAY : Cls := ⟨8, 1, false⟩
def cLL_PROTOCOL : Cls := ⟨9, 2, false⟩
def cCREDIT_OVERRUN : Cls := ⟨10, 2, false⟩
def cE2E_CRC : Cls := ⟨11, 1, false⟩
def cPATH_DOWN : Cls := ⟨12, 0, false⟩
def cCTX_FAILED : Cls := ⟨13, 0, false⟩
def cACCESS_DENIED : Cls := ⟨14, 0, true⟩

/-- The classes of the group of pages `att` (R419). -/
def classes_att : List Cls :=
  [cLL_REPLAY, cLL_PROTOCOL, cCREDIT_OVERRUN, cE2E_CRC, cPATH_DOWN, cCTX_FAILED, cACCESS_DENIED]

def cSLOT_LAG : Cls := ⟨8, 2, false⟩
def cTABLE_ECC_CORR : Cls := ⟨9, 1, false⟩
def cTABLE_ECC_UNCORR : Cls := ⟨10, 2, false⟩
def cUNDERRUN : Cls := ⟨11, 0, true⟩
def cAGE_DROP : Cls := ⟨12, 0, true⟩
def cSTALL : Cls := ⟨13, 2, false⟩
def cSTALL_DISCARD : Cls := ⟨14, 2, false⟩
def cTURN_DROP : Cls := ⟨15, 0, true⟩
def cPOLICE_DROP : Cls := ⟨16, 0, true⟩

/-- The classes of the group of pages `swt` (R419). -/
def classes_swt : List Cls :=
  [cSLOT_LAG, cTABLE_ECC_CORR, cTABLE_ECC_UNCORR, cUNDERRUN, cAGE_DROP, cSTALL, cSTALL_DISCARD, cTURN_DROP, cPOLICE_DROP]

def cEVAC_DROP : Cls := ⟨8, 2, false⟩
def cL3_BUNDLE_DOWN : Cls := ⟨9, 2, false⟩
def cSTORE_BUDGET : Cls := ⟨10, 2, false⟩
def cROUTE_REFUSED : Cls := ⟨11, 0, false⟩

/-- The classes of the group of pages `xbarDev` (R419). -/
def classes_xbarDev : List Cls :=
  [cEVAC_DROP, cL3_BUNDLE_DOWN, cSTORE_BUDGET, cROUTE_REFUSED]

def cMESH_ECC_CORR : Cls := ⟨8, 1, false⟩
def cMESH_ECC_UNCORR : Cls := ⟨9, 2, false⟩

/-- The classes of the group of pages `mesh` (R419). -/
def classes_mesh : List Cls :=
  [cMESH_ECC_CORR, cMESH_ECC_UNCORR]

def cCELL_ECC_CORR : Cls := ⟨8, 1, false⟩
def cCELL_ECC_UNCORR : Cls := ⟨9, 2, false⟩
def cSPILL_READ_UNCORR : Cls := ⟨10, 2, false⟩
def cADMIT_DROP : Cls := ⟨11, 0, true⟩

/-- The classes of the group of pages `bse` (R419). -/
def classes_bse : List Cls :=
  [cCELL_ECC_CORR, cCELL_ECC_UNCORR, cSPILL_READ_UNCORR, cADMIT_DROP]

def cPOOL_LOW : Cls := ⟨8, 0, false⟩
def cPOOL_EXHAUSTED : Cls := ⟨9, 2, false⟩
def cPOOL_BAD_FREE : Cls := ⟨10, 2, false⟩
def cRING_INTEGRITY : Cls := ⟨11, 2, false⟩

/-- The classes of the group of pages `pool` (R419). -/
def classes_pool : List Cls :=
  [cPOOL_LOW, cPOOL_EXHAUSTED, cPOOL_BAD_FREE, cRING_INTEGRITY]

def cXING_SLIP_hbm : Cls := ⟨8, 1, false⟩
def cXING_ALIGN_FAIL_hbm : Cls := ⟨9, 2, false⟩
def cHBM_TRAIN_FAIL : Cls := ⟨10, 2, false⟩
def cHBM_REPAIR_EXHAUSTED : Cls := ⟨11, 2, false⟩
def cHBM_ECC_CORR : Cls := ⟨12, 1, false⟩
def cHBM_ECC_UNCORR : Cls := ⟨13, 2, false⟩

/-- The classes of the group of pages `hbm` (R419). -/
def classes_hbm : List Cls :=
  [cXING_SLIP_hbm, cXING_ALIGN_FAIL_hbm, cHBM_TRAIN_FAIL, cHBM_REPAIR_EXHAUSTED, cHBM_ECC_CORR, cHBM_ECC_UNCORR]

def cRDX_ACC_ECC_CORR : Cls := ⟨8, 1, false⟩
def cRDX_ACC_ECC_UNCORR : Cls := ⟨9, 3, false⟩
def cRDX_CTX_FAILED : Cls := ⟨10, 0, false⟩
def cRDX_INVALID : Cls := ⟨11, 0, true⟩
def cRDX_BAD_PKT : Cls := ⟨12, 0, true⟩
def cRDX_WINDOW : Cls := ⟨13, 0, true⟩

/-- The classes of the group of pages `rdx` (R419). -/
def classes_rdx : List Cls :=
  [cRDX_ACC_ECC_CORR, cRDX_ACC_ECC_UNCORR, cRDX_CTX_FAILED, cRDX_INVALID, cRDX_BAD_PKT, cRDX_WINDOW]

def cSC_EARLY : Cls := ⟨8, 0, true⟩
def cCOUNTER_SAT : Cls := ⟨9, 0, false⟩
def cSTALE_SIGNAL : Cls := ⟨10, 0, true⟩
def cXLATE_MISS : Cls := ⟨11, 0, true⟩
def cBAR_LOST : Cls := ⟨12, 0, false⟩
def cWAIT_STALL : Cls := ⟨13, 0, false⟩
def cWAIT_CYCLE : Cls := ⟨14, 2, false⟩
def cROOST_ECC_CORR : Cls := ⟨15, 1, false⟩
def cROOST_ECC_UNCORR : Cls := ⟨16, 3, false⟩

/-- The classes of the group of pages `syn` (R419). -/
def classes_syn : List Cls :=
  [cSC_EARLY, cCOUNTER_SAT, cSTALE_SIGNAL, cXLATE_MISS, cBAR_LOST, cWAIT_STALL, cWAIT_CYCLE, cROOST_ECC_CORR, cROOST_ECC_UNCORR]

def cARRAY_LAG : Cls := ⟨8, 2, false⟩
def cARRAY_ECC_CORR : Cls := ⟨9, 1, false⟩
def cARRAY_ECC_UNCORR : Cls := ⟨10, 3, false⟩
def cRETAIN_ECC_UNCORR : Cls := ⟨11, 3, false⟩
def cGRAD_ECC_UNCORR : Cls := ⟨12, 3, false⟩

/-- The classes of the group of pages `mac` (R419). -/
def classes_mac : List Cls :=
  [cARRAY_LAG, cARRAY_ECC_CORR, cARRAY_ECC_UNCORR, cRETAIN_ECC_UNCORR, cGRAD_ECC_UNCORR]

def cLIST_STOPPED : Cls := ⟨13, 0, true⟩
def cGANG_FLAG : Cls := ⟨14, 0, false⟩
def cCPL_RING_FULL : Cls := ⟨15, 0, true⟩
def cTRAIN_TIED : Cls := ⟨16, 0, false⟩
def cTWIN_STALE : Cls := ⟨17, 0, true⟩

/-- The classes of the group of pages `mac0` (R419). -/
def classes_mac0 : List Cls :=
  [cLIST_STOPPED, cGANG_FLAG, cCPL_RING_FULL, cTRAIN_TIED, cTWIN_STALE]

def cVEC_ECC_CORR : Cls := ⟨8, 1, false⟩
def cVEC_ECC_UNCORR : Cls := ⟨9, 3, false⟩

/-- The classes of the group of pages `vec` (R419). -/
def classes_vec : List Cls :=
  [cVEC_ECC_CORR, cVEC_ECC_UNCORR]

def cFW_BAD : Cls := ⟨8, 2, false⟩
def cFW_FALLBACK_stw : Cls := ⟨9, 1, false⟩

/-- The classes of the group of pages `stw` (R419). -/
def classes_stw : List Cls :=
  [cFW_BAD, cFW_FALLBACK_stw]

def cFW_FALLBACK_thx : Cls := ⟨8, 1, false⟩
def cRING_FORMAT : Cls := ⟨9, 0, false⟩
def cI3C_PROTOCOL : Cls := ⟨10, 0, false⟩
def cPMBUS_FAIL : Cls := ⟨11, 2, false⟩

/-- The classes of the group of pages `thx` (R419). -/
def classes_thx : List Cls :=
  [cFW_FALLBACK_thx, cRING_FORMAT, cI3C_PROTOCOL, cPMBUS_FAIL]

def cXING_SLIP_pci : Cls := ⟨8, 1, false⟩
def cXING_ALIGN_FAIL_pci : Cls := ⟨9, 2, false⟩
def cPCIE_LINK_DOWN : Cls := ⟨10, 2, false⟩
def cPCIE_CORR : Cls := ⟨11, 1, false⟩
def cPCIE_UNCORR : Cls := ⟨12, 2, false⟩
def cPCI_BAD_ACCESS : Cls := ⟨13, 0, true⟩
def cDMA_FAULT : Cls := ⟨14, 0, false⟩

/-- The classes of the group of pages `pci` (R419). -/
def classes_pci : List Cls :=
  [cXING_SLIP_pci, cXING_ALIGN_FAIL_pci, cPCIE_LINK_DOWN, cPCIE_CORR, cPCIE_UNCORR, cPCI_BAD_ACCESS, cDMA_FAULT]

def cMEM_DENIED : Cls := ⟨8, 0, true⟩
def cKEY_IMPORT_FAIL : Cls := ⟨9, 0, false⟩
def cUNWRAP_INTEGRITY : Cls := ⟨10, 0, false⟩
def cTOKEN_REFUSED : Cls := ⟨11, 0, false⟩
def cLIFECYCLE_CHANGE : Cls := ⟨12, 0, false⟩
def cENTROPY_FAIL : Cls := ⟨13, 2, false⟩
def cMRAM_ECC_CORR : Cls := ⟨14, 1, false⟩
def cERASE_FAIL : Cls := ⟨15, 3, false⟩

/-- The classes of the group of pages `chr` (R419). -/
def classes_chr : List Cls :=
  [cMEM_DENIED, cKEY_IMPORT_FAIL, cUNWRAP_INTEGRITY, cTOKEN_REFUSED, cLIFECYCLE_CHANGE, cENTROPY_FAIL, cMRAM_ECC_CORR, cERASE_FAIL]

def cDEBUG_SESSION : Cls := ⟨8, 0, false⟩

/-- The classes of the group of pages `dbg` (R419). -/
def classes_dbg : List Cls :=
  [cDEBUG_SESSION]

def cCFG_WRITE_FAIL : Cls := ⟨8, 2, false⟩
def cGOV_FLOOR : Cls := ⟨9, 2, false⟩
def cAVS_FAIL : Cls := ⟨10, 2, false⟩
def cTHERMAL_HOT : Cls := ⟨11, 2, false⟩
def cTHERMAL_TRIP : Cls := ⟨12, 5, false⟩

/-- The classes of the group of pages `pwr` (R419). -/
def classes_pwr : List Cls :=
  [cCFG_WRITE_FAIL, cGOV_FLOOR, cAVS_FAIL, cTHERMAL_HOT, cTHERMAL_TRIP]

def cMTR_CLOCK_FALLBACK : Cls := ⟨8, 1, false⟩
def cMTR_VMTR_GAP : Cls := ⟨9, 0, false⟩
def cMTR_IMAGE_CHANGE : Cls := ⟨10, 0, false⟩
def cMTR_UPDATE_REFUSED : Cls := ⟨11, 0, false⟩
def cMTR_SENSE_FAIL : Cls := ⟨12, 2, false⟩
def cMTR_MRAM_ECC_CORR : Cls := ⟨13, 1, false⟩
def cMTR_MRAM_UNCORR : Cls := ⟨14, 2, false⟩

/-- The classes of the group of pages `ccn` (R419). -/
def classes_ccn : List Cls :=
  [cMTR_CLOCK_FALLBACK, cMTR_VMTR_GAP, cMTR_IMAGE_CHANGE, cMTR_UPDATE_REFUSED, cMTR_SENSE_FAIL, cMTR_MRAM_ECC_CORR, cMTR_MRAM_UNCORR]

def cBRG_LINK_RETRY : Cls := ⟨8, 1, false⟩
def cBRG_LANE_LOST : Cls := ⟨9, 2, false⟩

/-- The classes of the group of pages `brg` (R419). -/
def classes_brg : List Cls :=
  [cBRG_LINK_RETRY, cBRG_LANE_LOST]

def cPIN_MISMATCH_flt : Cls := ⟨8, 2, false⟩

/-- The classes of the group of pages `flt` (R419). -/
def classes_flt : List Cls :=
  [cPIN_MISMATCH_flt]

def cPIN_MISMATCH_fltDev : Cls := ⟨8, 2, false⟩
def cAVAIL_BUDGET : Cls := ⟨9, 0, false⟩

/-- The classes of the group of pages `fltDev` (R419). -/
def classes_fltDev : List Cls :=
  [cPIN_MISMATCH_fltDev, cAVAIL_BUDGET]

/-- The local classes of a page (R419). -/
def Blk.classes (b : Blk) : List Cls :=
  classes_every ++
  (if b.isSteward then classes_stw else
  match b with
  | .lane _ _ => classes_lane
  | .grp _ => classes_grp
  | .die _ => classes_die
  | .att _ => classes_att
  | .swt _ => classes_swt
  | .xbarDev => classes_xbarDev
  | .meshDev | .meshB _ => classes_mesh
  | .bse _ => classes_bse
  | .pool _ => classes_pool
  | .hbm _ => classes_hbm
  | .rdx _ => classes_rdx
  | .syn => classes_syn
  | .mac a => if a = 0 then classes_mac ++ classes_mac0 else classes_mac
  | .vec _ => classes_vec
  | .thx => classes_thx
  | .pci => classes_pci
  | .chr => classes_chr
  | .dbg => classes_dbg
  | .pwr => classes_pwr
  | .ccn => classes_ccn
  | .brg _ => classes_brg
  | .fltDev => classes_fltDev
  | .fltW _ | .fltB _ => classes_flt
  | _ => [])

/-- The class at a bit of a page's status word; none where the bit is reserved. -/
def Blk.cls (b : Blk) (c : Nat) : Option Cls := b.classes.find? (·.bit == c)

/-- CAPS.local_classes: the highest bit assigned, plus 1 (R419). -/
def Blk.localClasses (b : Blk) : Nat := b.classes.foldl (fun n c => max n (c.bit + 1)) 0

/-- ERR_MASK at reset: the classes that the catalogue masks. -/
def Blk.maskReset (b : Blk) : Nat := b.classes.foldl (fun n c => if c.masked then n + 2 ^ c.bit else n) 0

/-- The classes at catalogue level 4 or 5, which can never be masked (R411). -/
def Blk.unmaskable (b : Blk) : Nat := b.classes.foldl (fun n c => if 4 ≤ c.level then n + 2 ^ c.bit else n) 0

end Sys2Proof.Machine
end

