-- ==== Sys2Proof/Machine/RegMap.lean ====
section
/-! DEFINITION. The register map: every register of every page kind and every entry of every table window, field by
field with its access code (R4), its value at reset and its value rule (R7, R479), as the register tables of the
chapters give them. -/

namespace Sys2Proof.Machine

/-- A field: the byte offset of its register on the page (or the word of its table entry), its lowest bit, its width. -/
structure Fld where
  off : Nat
  lo : Nat
  w : Nat
deriving DecidableEq, Repr

/-- The same field `d` bytes (or words) further on, for registers that repeat. -/
def Fld.at (f : Fld) (d : Nat) : Fld := { f with off := f.off + d }

/-- The access codes of R4. `rwl` names the register and bit of the field's lock (R5). -/
inductive Acc where
  | ro | rw | w1c | w1s | wo | rwl (lockOff lockBit : Nat)
deriving DecidableEq, Repr

/-- What values a write may place in a field (R7, R479). -/
inductive VRule where
  | any
  | range (lo hi : Nat)
  | among (l : List Nat)
  | zeroOr (lo hi : Nat)
deriving DecidableEq, Repr

/-- Does the rule allow the value? -/
def VRule.ok : VRule → Nat → Bool
  | .any, _ => true
  | .range lo hi, v => lo ≤ v && v ≤ hi
  | .among l, v => l.contains v
  | .zeroOr lo hi, v => v == 0 || (lo ≤ v && v ≤ hi)

/-- One field of a register map: `n` registers, `stride` apart, hold it. -/
structure FDesc where
  fld : Fld
  acc : Acc
  reset : Nat
  rule : VRule
  stride : Nat
  n : Nat
deriving DecidableEq, Repr

def CTRL_enable : Fld := ⟨0x18, 0, 1⟩
def CTRL_quiesce : Fld := ⟨0x18, 1, 1⟩
def CTRL_freeze : Fld := ⟨0x18, 2, 1⟩
def CTRL_evacuate : Fld := ⟨0x18, 3, 1⟩
def CTRL_reset : Fld := ⟨0x18, 4, 1⟩

def STATE_state : Fld := ⟨0x20, 0, 3⟩
def STATE_frozen : Fld := ⟨0x20, 3, 1⟩
def STATE_freeze_overrun : Fld := ⟨0x20, 4, 1⟩
def STATE_draining : Fld := ⟨0x20, 7, 1⟩
def STATE_unpowered : Fld := ⟨0x20, 8, 1⟩

def ERR_STATUS_local : Fld := ⟨0x28, 0, 48⟩

def ERR_FORCE_force : Fld := ⟨0x30, 0, 48⟩

def ERR_MASK_mask : Fld := ⟨0x38, 0, 48⟩

def ERR_ACK_ack : Fld := ⟨0x40, 0, 48⟩

def SNAP_CTRL_take : Fld := ⟨0x48, 0, 1⟩
def SNAP_CTRL_keep_frozen : Fld := ⟨0x48, 1, 1⟩
def SNAP_CTRL_dest_host : Fld := ⟨0x48, 2, 1⟩
def SNAP_CTRL_dest : Fld := ⟨0x48, 12, 40⟩

def SNAP_SEQ_seq : Fld := ⟨0x50, 0, 32⟩
def SNAP_SEQ_status : Fld := ⟨0x50, 32, 8⟩
def SNAP_SEQ_busy : Fld := ⟨0x50, 40, 1⟩
def SNAP_SEQ_len : Fld := ⟨0x50, 44, 20⟩

def OWNER_partition : Fld := ⟨0x58, 0, 4⟩
def OWNER_owned : Fld := ⟨0x58, 4, 1⟩

def EPOCH_epoch : Fld := ⟨0x78, 0, 32⟩

def REFUSED_CMDS_count : Fld := ⟨0x80, 0, 64⟩

def LAST_REFUSAL_code : Fld := ⟨0x88, 0, 8⟩
def LAST_REFUSAL_offset : Fld := ⟨0x88, 8, 12⟩
def LAST_REFUSAL_master : Fld := ⟨0x88, 20, 8⟩

def REDUNDANT_SET_count : Fld := ⟨0x90, 0, 64⟩

def STATE_CHANGES_count : Fld := ⟨0x98, 0, 64⟩

def ERR_EVENTS_count : Fld := ⟨0xa0, 0, 64⟩

def DENIED_ACCESSES_count : Fld := ⟨0xa8, 0, 64⟩

def FREEZES_count : Fld := ⟨0xb0, 0, 64⟩

def ERR_LEVEL_nibble : Fld := ⟨0x740, 0, 64⟩

def ERR_LAST_class : Fld := ⟨0x758, 0, 6⟩
def ERR_LAST_level : Fld := ⟨0x758, 6, 3⟩
def ERR_LAST_forced : Fld := ⟨0x758, 9, 1⟩
def ERR_LAST_master : Fld := ⟨0x758, 10, 8⟩
def ERR_LAST_events : Fld := ⟨0x758, 32, 32⟩

def H_FORCED_bits : Fld := ⟨0x1000, 0, 48⟩

/-- The common header of every page (R26, R27, R410) and its access table (R360). PAGE_ID, PAGE_VER, CAPS, ACCESS_TABLE_BASE, CHILD_COUNT, CHILD_DIR, ERR_STATUS above bit 47 and ERR_CHILD are computed when they are read. -/
def regs_hdr : List FDesc :=
  [ ⟨CTRL_enable, .rw, 0, .any, 8, 1⟩,
    ⟨CTRL_quiesce, .rw, 0, .any, 8, 1⟩,
    ⟨CTRL_freeze, .rw, 0, .any, 8, 1⟩,
    ⟨CTRL_evacuate, .rw, 0, .any, 8, 1⟩,
    ⟨CTRL_reset, .wo, 0, .any, 8, 1⟩,
    ⟨STATE_state, .ro, 0, .any, 8, 1⟩,
    ⟨STATE_frozen, .ro, 0, .any, 8, 1⟩,
    ⟨STATE_freeze_overrun, .ro, 0, .any, 8, 1⟩,
    ⟨STATE_draining, .ro, 0, .any, 8, 1⟩,
    ⟨STATE_unpowered, .ro, 0, .any, 8, 1⟩,
    ⟨ERR_STATUS_local, .ro, 0, .any, 8, 1⟩,
    ⟨ERR_FORCE_force, .wo, 0, .any, 8, 1⟩,
    ⟨ERR_MASK_mask, .rw, 0, .any, 8, 1⟩,
    ⟨ERR_ACK_ack, .wo, 0, .any, 8, 1⟩,
    ⟨SNAP_CTRL_take, .wo, 0, .any, 8, 1⟩,
    ⟨SNAP_CTRL_keep_frozen, .rw, 0, .any, 8, 1⟩,
    ⟨SNAP_CTRL_dest_host, .rw, 0, .any, 8, 1⟩,
    ⟨SNAP_CTRL_dest, .rw, 0, .any, 8, 1⟩,
    ⟨SNAP_SEQ_seq, .ro, 0, .any, 8, 1⟩,
    ⟨SNAP_SEQ_status, .ro, 0, .any, 8, 1⟩,
    ⟨SNAP_SEQ_busy, .ro, 0, .any, 8, 1⟩,
    ⟨SNAP_SEQ_len, .ro, 0, .any, 8, 1⟩,
    ⟨OWNER_partition, .rw, 0, .any, 8, 1⟩,
    ⟨OWNER_owned, .rw, 0, .any, 8, 1⟩,
    ⟨EPOCH_epoch, .ro, 0, .any, 8, 1⟩,
    ⟨REFUSED_CMDS_count, .ro, 0, .any, 8, 1⟩,
    ⟨LAST_REFUSAL_code, .ro, 0, .any, 8, 1⟩,
    ⟨LAST_REFUSAL_offset, .ro, 0, .any, 8, 1⟩,
    ⟨LAST_REFUSAL_master, .ro, 0, .any, 8, 1⟩,
    ⟨REDUNDANT_SET_count, .ro, 0, .any, 8, 1⟩,
    ⟨STATE_CHANGES_count, .ro, 0, .any, 8, 1⟩,
    ⟨ERR_EVENTS_count, .ro, 0, .any, 8, 1⟩,
    ⟨DENIED_ACCESSES_count, .ro, 0, .any, 8, 1⟩,
    ⟨FREEZES_count, .ro, 0, .any, 8, 1⟩,
    ⟨ERR_LEVEL_nibble, .ro, 0, .any, 8, 3⟩,
    ⟨ERR_LAST_class, .ro, 0, .any, 8, 1⟩,
    ⟨ERR_LAST_level, .ro, 0, .any, 8, 1⟩,
    ⟨ERR_LAST_forced, .ro, 0, .any, 8, 1⟩,
    ⟨ERR_LAST_master, .ro, 0, .any, 8, 1⟩,
    ⟨ERR_LAST_events, .ro, 0, .any, 8, 1⟩,
    ⟨H_FORCED_bits, .ro, 0, .any, 8, 1⟩ ]

def LNK_GRP_CFG_personality : Fld := ⟨0x100, 0, 2⟩
def LNK_GRP_CFG_breakout : Fld := ⟨0x100, 2, 3⟩
def LNK_GRP_CFG_reach : Fld := ⟨0x100, 5, 1⟩
def LNK_GRP_CFG_an_enable : Fld := ⟨0x100, 6, 1⟩
def LNK_GRP_CFG_precode : Fld := ⟨0x100, 7, 1⟩
def LNK_GRP_CFG_spare_auto : Fld := ⟨0x100, 8, 1⟩

def LNK_GRP_STATUS_ports : Fld := ⟨0x108, 0, 32⟩

def LNK_GRP_PARTNER_caps : Fld := ⟨0x110, 0, 32⟩

/-- Port-group page (chapter 3). LNK_GRP_STATUS repeats its byte for each logical port p. -/
def regs_grp : List FDesc :=
  [ ⟨LNK_GRP_CFG_personality, .rw, 0, .range 0 2, 8, 1⟩,
    ⟨LNK_GRP_CFG_breakout, .rw, 2, .range 0 3, 8, 1⟩,
    ⟨LNK_GRP_CFG_reach, .rw, 0, .any, 8, 1⟩,
    ⟨LNK_GRP_CFG_an_enable, .rw, 1, .any, 8, 1⟩,
    ⟨LNK_GRP_CFG_precode, .rw, 0, .any, 8, 1⟩,
    ⟨LNK_GRP_CFG_spare_auto, .rw, 1, .any, 8, 1⟩,
    ⟨LNK_GRP_STATUS_ports, .ro, 0, .any, 8, 1⟩,
    ⟨LNK_GRP_PARTNER_caps, .ro, 0, .any, 8, 1⟩ ]

def LNK_LANE_CTRL_power : Fld := ⟨0x100, 0, 1⟩
def LNK_LANE_CTRL_retrain : Fld := ⟨0x100, 1, 1⟩
def LNK_LANE_CTRL_tx_invert : Fld := ⟨0x100, 2, 1⟩
def LNK_LANE_CTRL_rx_invert : Fld := ⟨0x100, 3, 1⟩
def LNK_LANE_CTRL_clr_counters : Fld := ⟨0x100, 4, 1⟩
def LNK_LANE_CTRL_spare_request : Fld := ⟨0x100, 5, 1⟩
def LNK_LANE_CTRL_spare_revert : Fld := ⟨0x100, 6, 1⟩

def LNK_LANE_STATUS_stage : Fld := ⟨0x108, 0, 3⟩
def LNK_LANE_STATUS_signal : Fld := ⟨0x108, 3, 1⟩
def LNK_LANE_STATUS_cdr_lock : Fld := ⟨0x108, 4, 1⟩
def LNK_LANE_STATUS_cw_lock : Fld := ⟨0x108, 5, 1⟩
def LNK_LANE_STATUS_on_spare : Fld := ⟨0x108, 6, 1⟩
def LNK_LANE_STATUS_peer_lane : Fld := ⟨0x108, 7, 7⟩
def LNK_LANE_STATUS_failed : Fld := ⟨0x108, 14, 1⟩
def LNK_LANE_STATUS_snr : Fld := ⟨0x108, 16, 16⟩

def LNK_TX_EQ_taps : Fld := ⟨0x110, 0, 40⟩
def LNK_TX_EQ_override : Fld := ⟨0x110, 40, 1⟩

def LNK_RX_EQ_ctle : Fld := ⟨0x118, 0, 5⟩
def LNK_RX_EQ_dfe1 : Fld := ⟨0x118, 5, 8⟩
def LNK_RX_EQ_adapt_freeze : Fld := ⟨0x118, 13, 1⟩

def LNK_RX_FFE_sel : Fld := ⟨0x120, 0, 5⟩
def LNK_RX_FFE_tap : Fld := ⟨0x120, 8, 8⟩

def LNK_PRBS_CTRL_pattern : Fld := ⟨0x128, 0, 4⟩
def LNK_PRBS_CTRL_tx_en : Fld := ⟨0x128, 4, 1⟩
def LNK_PRBS_CTRL_rx_check : Fld := ⟨0x128, 5, 1⟩

def LNK_PRBS_USER_pattern : Fld := ⟨0x130, 0, 64⟩

def LNK_PRBS_BITS_bits : Fld := ⟨0x138, 0, 48⟩

def LNK_PRBS_ERRS_errors : Fld := ⟨0x140, 0, 48⟩

def LNK_FEC_CW_codewords : Fld := ⟨0x148, 0, 48⟩

def LNK_FEC_CORR_CW_corrected : Fld := ⟨0x150, 0, 48⟩

def LNK_FEC_CORR_SYM_symbols : Fld := ⟨0x158, 0, 48⟩

def LNK_FEC_UNCORR_uncorrectable : Fld := ⟨0x160, 0, 48⟩

def LNK_FEC_HIST_bin : Fld := ⟨0x180, 0, 48⟩

/-- Lane page (chapter 3). LNK_LANE_CTRL.power resets to 0 on a spare lane. -/
def regs_lane : List FDesc :=
  [ ⟨LNK_LANE_CTRL_power, .rw, 1, .any, 8, 1⟩,
    ⟨LNK_LANE_CTRL_retrain, .wo, 0, .any, 8, 1⟩,
    ⟨LNK_LANE_CTRL_tx_invert, .rw, 0, .any, 8, 1⟩,
    ⟨LNK_LANE_CTRL_rx_invert, .rw, 0, .any, 8, 1⟩,
    ⟨LNK_LANE_CTRL_clr_counters, .wo, 0, .any, 8, 1⟩,
    ⟨LNK_LANE_CTRL_spare_request, .wo, 0, .any, 8, 1⟩,
    ⟨LNK_LANE_CTRL_spare_revert, .wo, 0, .any, 8, 1⟩,
    ⟨LNK_LANE_STATUS_stage, .ro, 0, .any, 8, 1⟩,
    ⟨LNK_LANE_STATUS_signal, .ro, 0, .any, 8, 1⟩,
    ⟨LNK_LANE_STATUS_cdr_lock, .ro, 0, .any, 8, 1⟩,
    ⟨LNK_LANE_STATUS_cw_lock, .ro, 0, .any, 8, 1⟩,
    ⟨LNK_LANE_STATUS_on_spare, .ro, 0, .any, 8, 1⟩,
    ⟨LNK_LANE_STATUS_peer_lane, .ro, 0, .any, 8, 1⟩,
    ⟨LNK_LANE_STATUS_failed, .ro, 0, .any, 8, 1⟩,
    ⟨LNK_LANE_STATUS_snr, .ro, 0, .any, 8, 1⟩,
    ⟨LNK_TX_EQ_taps, .rw, 0, .any, 8, 1⟩,
    ⟨LNK_TX_EQ_override, .rw, 0, .any, 8, 1⟩,
    ⟨LNK_RX_EQ_ctle, .rw, 0, .any, 8, 1⟩,
    ⟨LNK_RX_EQ_dfe1, .ro, 0, .any, 8, 1⟩,
    ⟨LNK_RX_EQ_adapt_freeze, .rw, 0, .any, 8, 1⟩,
    ⟨LNK_RX_FFE_sel, .rw, 0, .range 0 23, 8, 1⟩,
    ⟨LNK_RX_FFE_tap, .ro, 0, .any, 8, 1⟩,
    ⟨LNK_PRBS_CTRL_pattern, .rw, 0, .range 0 8, 8, 1⟩,
    ⟨LNK_PRBS_CTRL_tx_en, .rw, 0, .any, 8, 1⟩,
    ⟨LNK_PRBS_CTRL_rx_check, .rw, 0, .any, 8, 1⟩,
    ⟨LNK_PRBS_USER_pattern, .rw, 0, .any, 8, 1⟩,
    ⟨LNK_PRBS_BITS_bits, .ro, 0, .any, 8, 1⟩,
    ⟨LNK_PRBS_ERRS_errors, .ro, 0, .any, 8, 1⟩,
    ⟨LNK_FEC_CW_codewords, .ro, 0, .any, 8, 1⟩,
    ⟨LNK_FEC_CORR_CW_corrected, .ro, 0, .any, 8, 1⟩,
    ⟨LNK_FEC_CORR_SYM_symbols, .ro, 0, .any, 8, 1⟩,
    ⟨LNK_FEC_UNCORR_uncorrectable, .ro, 0, .any, 8, 1⟩,
    ⟨LNK_FEC_HIST_bin, .ro, 0, .any, 8, 16⟩ ]

def LNK_DIE_REFCLK_present : Fld := ⟨0x100, 0, 1⟩
def LNK_DIE_REFCLK_locked : Fld := ⟨0x100, 1, 1⟩
def LNK_DIE_REFCLK_offset : Fld := ⟨0x100, 16, 16⟩

def LNK_SPARE_MAP_map : Fld := ⟨0x108, 0, 64⟩

def LNK_SPARE_POLICY_corr_sym_limit : Fld := ⟨0x110, 0, 32⟩
def LNK_SPARE_POLICY_uncorr_limit : Fld := ⟨0x110, 32, 16⟩
def LNK_SPARE_POLICY_window : Fld := ⟨0x110, 48, 5⟩

/-- SerDes die page (chapter 3). LNK_SPARE_MAP repeats its 16 bits for each spare j. -/
def regs_die : List FDesc :=
  [ ⟨LNK_DIE_REFCLK_present, .ro, 0, .any, 8, 1⟩,
    ⟨LNK_DIE_REFCLK_locked, .ro, 0, .any, 8, 1⟩,
    ⟨LNK_DIE_REFCLK_offset, .ro, 0, .any, 8, 1⟩,
    ⟨LNK_SPARE_MAP_map, .ro, 0, .any, 8, 1⟩,
    ⟨LNK_SPARE_POLICY_corr_sym_limit, .rw, 1048576, .any, 8, 1⟩,
    ⟨LNK_SPARE_POLICY_uncorr_limit, .rw, 16, .any, 8, 1⟩,
    ⟨LNK_SPARE_POLICY_window, .rw, 28, .range 20 31, 8, 1⟩ ]

def H_PORT_mism : Fld := ⟨0x1100, 0, 1⟩
def H_PORT_sent : Fld := ⟨0x1100, 1, 1⟩
def H_PORT_got : Fld := ⟨0x1100, 2, 1⟩
def H_PORT_held : Fld := ⟨0x1100, 3, 1⟩
def H_PORT_lost : Fld := ⟨0x1100, 8, 8⟩
def H_PORT_spares : Fld := ⟨0x1100, 16, 4⟩
def H_PORT_precode : Fld := ⟨0x1100, 20, 1⟩
def H_PORT_phy : Fld := ⟨0x1100, 21, 4⟩
def H_PORT_fault : Fld := ⟨0x1100, 25, 2⟩

/-- What a port-group page keeps for each logical port: a mismatch raised, capabilities sent and received, an address match that holds it, the lanes lost from the link, the partner's spare channels and precoding request, the PHY that auto-negotiation chose and the link fault that the PCS reads. -/
def regs_grpHid : List FDesc :=
  [ ⟨H_PORT_mism, .ro, 0, .any, 8, 4⟩,
    ⟨H_PORT_sent, .ro, 0, .any, 8, 4⟩,
    ⟨H_PORT_got, .ro, 0, .any, 8, 4⟩,
    ⟨H_PORT_held, .ro, 0, .any, 8, 4⟩,
    ⟨H_PORT_lost, .ro, 0, .any, 8, 4⟩,
    ⟨H_PORT_spares, .ro, 0, .any, 8, 4⟩,
    ⟨H_PORT_precode, .ro, 0, .any, 8, 4⟩,
    ⟨H_PORT_phy, .ro, 0, .any, 8, 4⟩,
    ⟨H_PORT_fault, .ro, 0, .any, 8, 4⟩ ]

def H_LANE_ctl_count : Fld := ⟨0x1100, 0, 32⟩
def H_LANE_lane_seq : Fld := ⟨0x1100, 32, 6⟩
def H_LANE_pos : Fld := ⟨0x1100, 40, 5⟩

def H_LWIN_corr : Fld := ⟨0x1108, 0, 48⟩

def H_LWIN2_uncorr : Fld := ⟨0x1110, 0, 32⟩

def H_LSCR_tx : Fld := ⟨0x1140, 0, 58⟩

def H_LSCR2_rx : Fld := ⟨0x1148, 0, 58⟩

def H_LPAT_tx : Fld := ⟨0x1150, 0, 32⟩
def H_LPAT_seen : Fld := ⟨0x1150, 32, 6⟩

def H_LPAT2_rx : Fld := ⟨0x1158, 0, 32⟩

def H_LRX_ctl : Fld := ⟨0x1160, 0, 32⟩
def H_LRX_pos : Fld := ⟨0x1160, 32, 5⟩
def H_LRX_seq : Fld := ⟨0x1160, 37, 6⟩

def H_LMSG_msg : Fld := ⟨0x1168, 0, 8⟩
def H_LMSG_body : Fld := ⟨0x1168, 8, 56⟩

/-- What a lane keeps: its control-codeword count, its codeword count, its place in the group of 20, its counts in the open policy window, the scrambler states of both directions, the states of the pattern generator and checker, what it has received (the count of the last control codeword, the place in the group and the next codeword count) and the message that its control codewords carry. -/
def regs_laneHid : List FDesc :=
  [ ⟨H_LANE_ctl_count, .ro, 0, .any, 8, 1⟩,
    ⟨H_LANE_lane_seq, .ro, 0, .any, 8, 1⟩,
    ⟨H_LANE_pos, .ro, 0, .any, 8, 1⟩,
    ⟨H_LWIN_corr, .ro, 0, .any, 8, 1⟩,
    ⟨H_LWIN2_uncorr, .ro, 0, .any, 8, 1⟩,
    ⟨H_LSCR_tx, .ro, 0, .any, 8, 1⟩,
    ⟨H_LSCR2_rx, .ro, 0, .any, 8, 1⟩,
    ⟨H_LPAT_tx, .ro, 0, .any, 8, 1⟩,
    ⟨H_LPAT_seen, .ro, 0, .any, 8, 1⟩,
    ⟨H_LPAT2_rx, .ro, 0, .any, 8, 1⟩,
    ⟨H_LRX_ctl, .ro, 0, .any, 8, 1⟩,
    ⟨H_LRX_pos, .ro, 0, .any, 8, 1⟩,
    ⟨H_LRX_seq, .ro, 0, .any, 8, 1⟩,
    ⟨H_LMSG_msg, .ro, 0, .any, 8, 1⟩,
    ⟨H_LMSG_body, .ro, 0, .any, 8, 1⟩ ]

def ATT_CFG_ack_every : Fld := ⟨0x100, 0, 8⟩
def ATT_CFG_reorder_gap : Fld := ⟨0x100, 8, 8⟩
def ATT_CFG_rto_ticks : Fld := ⟨0x100, 16, 16⟩
def ATT_CFG_retry_limit : Fld := ⟨0x100, 32, 4⟩
def ATT_CFG_path_down_after : Fld := ⟨0x100, 36, 4⟩
def ATT_CFG_path_hold_ticks : Fld := ⟨0x100, 40, 24⟩

def ATT_CC_cwnd_init : Fld := ⟨0x108, 0, 8⟩
def ATT_CC_g_shift : Fld := ⟨0x108, 8, 4⟩
def ATT_CC_cc_enable : Fld := ⟨0x108, 12, 1⟩

def ATT_TBL_SEL_table : Fld := ⟨0x110, 0, 2⟩
def ATT_TBL_SEL_index : Fld := ⟨0x110, 2, 20⟩
def ATT_TBL_SEL_word : Fld := ⟨0x110, 22, 3⟩

def ATT_CMD_STATUS_code : Fld := ⟨0x128, 0, 8⟩
def ATT_CMD_STATUS_busy : Fld := ⟨0x128, 8, 1⟩
def ATT_CMD_STATUS_seq : Fld := ⟨0x128, 32, 32⟩

def ATT_REPLY_LIMIT_kib : Fld := ⟨0x130, 0, 24⟩

def ATT_REPLY_USED_kib : Fld := ⟨0x138, 0, 24⟩

def ATT_TX_PKTS_count : Fld := ⟨0x140, 0, 48⟩

def ATT_RX_PKTS_count : Fld := ⟨0x148, 0, 48⟩

def ATT_RETX_PKTS_count : Fld := ⟨0x150, 0, 48⟩

def ATT_STALE_PKTS_count : Fld := ⟨0x158, 0, 48⟩

def ATT_E2E_CRC_count : Fld := ⟨0x160, 0, 48⟩

def ATT_DENIED_count : Fld := ⟨0x168, 0, 48⟩

def ATT_BAD_PKTS_count : Fld := ⟨0x170, 0, 48⟩

def ATT_TIMEOUTS_count : Fld := ⟨0x178, 0, 48⟩

def ATT_GRP_ADDR_addr : Fld := ⟨0x200, 0, 20⟩

def ATT_GRP_CREDIT_s0 : Fld := ⟨0x208, 0, 8⟩
def ATT_GRP_CREDIT_s1 : Fld := ⟨0x208, 8, 8⟩
def ATT_GRP_CREDIT_s2 : Fld := ⟨0x208, 16, 8⟩
def ATT_GRP_CREDIT_s3 : Fld := ⟨0x208, 24, 8⟩
def ATT_GRP_CREDIT_s4 : Fld := ⟨0x208, 32, 8⟩
def ATT_GRP_CREDIT_s5 : Fld := ⟨0x208, 40, 8⟩
def ATT_GRP_CREDIT_s6 : Fld := ⟨0x208, 48, 8⟩
def ATT_GRP_CREDIT_s7 : Fld := ⟨0x208, 56, 8⟩

def ATT_GRP_LL_tx_next : Fld := ⟨0x210, 0, 12⟩
def ATT_GRP_LL_tx_acked : Fld := ⟨0x210, 12, 12⟩
def ATT_GRP_LL_rx_expected : Fld := ⟨0x210, 24, 12⟩
def ATT_GRP_LL_unacked : Fld := ⟨0x210, 36, 12⟩

def ATT_GRP_TXCRED_LO_cred : Fld := ⟨0x218, 0, 64⟩

def ATT_GRP_TXCRED_HI_cred : Fld := ⟨0x220, 0, 64⟩

def ATT_GRP_REPLAYS_count : Fld := ⟨0x228, 0, 48⟩

def ATT_GRP_CRC_ERRS_count : Fld := ⟨0x230, 0, 48⟩

def ATT_GRP_NAKS_count : Fld := ⟨0x238, 0, 48⟩

/-- Attach engine page (chapter 4). ATT_TBL_DATA is the window of the tables; the per-group registers repeat 0x40 apart. -/
def regs_att : List FDesc :=
  [ ⟨ATT_CFG_ack_every, .rw, 8, .range 1 64, 8, 1⟩,
    ⟨ATT_CFG_reorder_gap, .rw, 32, .range 1 127, 8, 1⟩,
    ⟨ATT_CFG_rto_ticks, .rw, 64, .range 1 65535, 8, 1⟩,
    ⟨ATT_CFG_retry_limit, .rw, 8, .range 1 15, 8, 1⟩,
    ⟨ATT_CFG_path_down_after, .rw, 3, .range 1 15, 8, 1⟩,
    ⟨ATT_CFG_path_hold_ticks, .rw, 100000, .any, 8, 1⟩,
    ⟨ATT_CC_cwnd_init, .rw, 128, .range 1 128, 8, 1⟩,
    ⟨ATT_CC_g_shift, .rw, 4, .range 1 8, 8, 1⟩,
    ⟨ATT_CC_cc_enable, .rw, 1, .any, 8, 1⟩,
    ⟨ATT_TBL_SEL_table, .rw, 0, .range 0 2, 8, 1⟩,
    ⟨ATT_TBL_SEL_index, .rw, 0, .any, 8, 1⟩,
    ⟨ATT_TBL_SEL_word, .rw, 0, .any, 8, 1⟩,
    ⟨ATT_CMD_STATUS_code, .ro, 0, .any, 8, 1⟩,
    ⟨ATT_CMD_STATUS_busy, .ro, 0, .any, 8, 1⟩,
    ⟨ATT_CMD_STATUS_seq, .ro, 0, .any, 8, 1⟩,
    ⟨ATT_REPLY_LIMIT_kib, .rw, 16384, .any, 8, 1⟩,
    ⟨ATT_REPLY_USED_kib, .ro, 0, .any, 8, 1⟩,
    ⟨ATT_TX_PKTS_count, .ro, 0, .any, 8, 1⟩,
    ⟨ATT_RX_PKTS_count, .ro, 0, .any, 8, 1⟩,
    ⟨ATT_RETX_PKTS_count, .ro, 0, .any, 8, 1⟩,
    ⟨ATT_STALE_PKTS_count, .ro, 0, .any, 8, 1⟩,
    ⟨ATT_E2E_CRC_count, .ro, 0, .any, 8, 1⟩,
    ⟨ATT_DENIED_count, .ro, 0, .any, 8, 1⟩,
    ⟨ATT_BAD_PKTS_count, .ro, 0, .any, 8, 1⟩,
    ⟨ATT_TIMEOUTS_count, .ro, 0, .any, 8, 1⟩,
    ⟨ATT_GRP_ADDR_addr, .rw, 0, .any, 64, 8⟩,
    ⟨ATT_GRP_CREDIT_s0, .rw, 8, .any, 64, 8⟩,
    ⟨ATT_GRP_CREDIT_s1, .rw, 32, .any, 64, 8⟩,
    ⟨ATT_GRP_CREDIT_s2, .rw, 32, .any, 64, 8⟩,
    ⟨ATT_GRP_CREDIT_s3, .rw, 64, .any, 64, 8⟩,
    ⟨ATT_GRP_CREDIT_s4, .rw, 64, .any, 64, 8⟩,
    ⟨ATT_GRP_CREDIT_s5, .rw, 32, .any, 64, 8⟩,
    ⟨ATT_GRP_CREDIT_s6, .rw, 16, .any, 64, 8⟩,
    ⟨ATT_GRP_CREDIT_s7, .rw, 8, .any, 64, 8⟩,
    ⟨ATT_GRP_LL_tx_next, .ro, 0, .any, 64, 8⟩,
    ⟨ATT_GRP_LL_tx_acked, .ro, 0, .any, 64, 8⟩,
    ⟨ATT_GRP_LL_rx_expected, .ro, 0, .any, 64, 8⟩,
    ⟨ATT_GRP_LL_unacked, .ro, 0, .any, 64, 8⟩,
    ⟨ATT_GRP_TXCRED_LO_cred, .ro, 0, .any, 64, 8⟩,
    ⟨ATT_GRP_TXCRED_HI_cred, .ro, 0, .any, 64, 8⟩,
    ⟨ATT_GRP_REPLAYS_count, .ro, 0, .any, 64, 8⟩,
    ⟨ATT_GRP_CRC_ERRS_count, .ro, 0, .any, 64, 8⟩,
    ⟨ATT_GRP_NAKS_count, .ro, 0, .any, 64, 8⟩ ]

def H_ATT_reply : Fld := ⟨0x1100, 0, 48⟩

def H_ATT2_tag : Fld := ⟨0x1108, 0, 32⟩

/-- What an attach engine keeps beside its registers: reply space held in bytes and the next tag of a local read. -/
def regs_attHid : List FDesc :=
  [ ⟨H_ATT_reply, .ro, 0, .any, 8, 1⟩,
    ⟨H_ATT2_tag, .ro, 0, .any, 8, 1⟩ ]

def attCtx_state : Fld := ⟨0, 0, 3⟩
def attCtx_partition : Fld := ⟨0, 3, 4⟩
def attCtx_port : Fld := ⟨0, 8, 8⟩
def attCtx_remote_addr : Fld := ⟨0, 16, 20⟩
def attCtx_remote_ctx : Fld := ⟨0, 36, 12⟩
def attCtx_path_set : Fld := ⟨0, 48, 8⟩

def attCtx_epoch : Fld := ⟨1, 0, 32⟩
def attCtx_counter : Fld := ⟨1, 32, 16⟩
def attCtx_remote_epoch : Fld := ⟨1, 48, 8⟩

def attCtx_tx_next_psn : Fld := ⟨2, 0, 24⟩
def attCtx_tx_cum_psn : Fld := ⟨2, 24, 24⟩
def attCtx_cwnd : Fld := ⟨2, 48, 8⟩
def attCtx_inflight : Fld := ⟨2, 56, 8⟩

def attCtx_rx_cum_psn : Fld := ⟨3, 0, 24⟩
def attCtx_alpha : Fld := ⟨3, 24, 16⟩

def attCtx_rx_map : Fld := ⟨4, 0, 64⟩

def attCtx_tx_msg_seq : Fld := ⟨6, 0, 32⟩
def attCtx_cpl_seq : Fld := ⟨6, 32, 32⟩

def attCtx_retx_total : Fld := ⟨7, 0, 32⟩
def attCtx_rx_dup : Fld := ⟨7, 32, 32⟩

/-- Transport contexts, one store for the part (R81). -/
def tblFields_attCtx : List FDesc :=
  [ ⟨attCtx_state, .ro, 0, .any, 1, 1⟩,
    ⟨attCtx_partition, .rw, 0, .any, 1, 1⟩,
    ⟨attCtx_port, .rw, 0, .any, 1, 1⟩,
    ⟨attCtx_remote_addr, .rw, 0, .any, 1, 1⟩,
    ⟨attCtx_remote_ctx, .rw, 0, .any, 1, 1⟩,
    ⟨attCtx_path_set, .rw, 0, .any, 1, 1⟩,
    ⟨attCtx_epoch, .ro, 0, .any, 1, 1⟩,
    ⟨attCtx_counter, .rw, 65535, .any, 1, 1⟩,
    ⟨attCtx_remote_epoch, .rw, 0, .any, 1, 1⟩,
    ⟨attCtx_tx_next_psn, .ro, 0, .any, 1, 1⟩,
    ⟨attCtx_tx_cum_psn, .ro, 16777215, .any, 1, 1⟩,
    ⟨attCtx_cwnd, .ro, 0, .any, 1, 1⟩,
    ⟨attCtx_inflight, .ro, 0, .any, 1, 1⟩,
    ⟨attCtx_rx_cum_psn, .ro, 16777215, .any, 1, 1⟩,
    ⟨attCtx_alpha, .ro, 0, .any, 1, 1⟩,
    ⟨attCtx_rx_map, .ro, 0, .any, 1, 2⟩,
    ⟨attCtx_tx_msg_seq, .ro, 0, .any, 1, 1⟩,
    ⟨attCtx_cpl_seq, .ro, 0, .any, 1, 1⟩,
    ⟨attCtx_retx_total, .ro, 0, .any, 1, 1⟩,
    ⟨attCtx_rx_dup, .ro, 0, .any, 1, 1⟩ ]

def attPath_entropy : Fld := ⟨0, 0, 16⟩
def attPath_weight : Fld := ⟨0, 16, 4⟩
def attPath_eff_weight : Fld := ⟨0, 20, 4⟩
def attPath_down : Fld := ⟨0, 24, 1⟩
def attPath_current : Fld := ⟨0, 32, 16⟩

def attPath_hold_left : Fld := ⟨1, 0, 24⟩
def attPath_timeouts : Fld := ⟨1, 24, 8⟩

def attPath_cool : Fld := ⟨2, 0, 16⟩
def attPath_clean : Fld := ⟨2, 16, 16⟩
def attPath_order : Fld := ⟨2, 32, 32⟩

/-- Paths of an attach engine: path set times 256, plus path. A word that no window shows keeps what R94 and R95 count. -/
def tblFields_attPath : List FDesc :=
  [ ⟨attPath_entropy, .rw, 0, .any, 1, 1⟩,
    ⟨attPath_weight, .rw, 0, .any, 1, 1⟩,
    ⟨attPath_eff_weight, .ro, 0, .any, 1, 1⟩,
    ⟨attPath_down, .ro, 0, .any, 1, 1⟩,
    ⟨attPath_current, .ro, 0, .any, 1, 1⟩,
    ⟨attPath_hold_left, .ro, 0, .any, 1, 1⟩,
    ⟨attPath_timeouts, .ro, 0, .any, 1, 1⟩,
    ⟨attPath_cool, .ro, 0, .any, 1, 1⟩,
    ⟨attPath_clean, .ro, 0, .any, 1, 1⟩,
    ⟨attPath_order, .ro, 0, .any, 1, 1⟩ ]

def attRegion_base : Fld := ⟨0, 0, 64⟩

def attRegion_length : Fld := ⟨1, 0, 40⟩
def attRegion_write : Fld := ⟨1, 40, 1⟩
def attRegion_read : Fld := ⟨1, 41, 1⟩
def attRegion_atomic : Fld := ⟨1, 42, 1⟩
def attRegion_send : Fld := ⟨1, 43, 1⟩

def attRegion_key : Fld := ⟨2, 0, 32⟩
def attRegion_partition : Fld := ⟨2, 32, 4⟩
def attRegion_group : Fld := ⟨2, 36, 3⟩
def attRegion_valid : Fld := ⟨2, 39, 1⟩

/-- Regions of the accelerators of an attach engine. -/
def tblFields_attRegion : List FDesc :=
  [ ⟨attRegion_base, .rw, 0, .any, 1, 1⟩,
    ⟨attRegion_length, .rw, 0, .any, 1, 1⟩,
    ⟨attRegion_write, .rw, 0, .any, 1, 1⟩,
    ⟨attRegion_read, .rw, 0, .any, 1, 1⟩,
    ⟨attRegion_atomic, .rw, 0, .any, 1, 1⟩,
    ⟨attRegion_send, .rw, 0, .any, 1, 1⟩,
    ⟨attRegion_key, .rw, 0, .any, 1, 1⟩,
    ⟨attRegion_partition, .rw, 0, .any, 1, 1⟩,
    ⟨attRegion_group, .rw, 0, .any, 1, 1⟩,
    ⟨attRegion_valid, .rw, 0, .any, 1, 1⟩ ]

def SWT_TBL_SEL_table : Fld := ⟨0x100, 0, 4⟩
def SWT_TBL_SEL_index : Fld := ⟨0x100, 4, 21⟩

def SWT_TBL_STATUS_code : Fld := ⟨0x110, 0, 8⟩
def SWT_TBL_STATUS_busy : Fld := ⟨0x110, 8, 1⟩
def SWT_TBL_STATUS_index : Fld := ⟨0x110, 9, 21⟩
def SWT_TBL_STATUS_seq : Fld := ⟨0x110, 32, 32⟩

def SWT_STAGE_word : Fld := ⟨0x118, 0, 64⟩

def SWT_RMAC_mac : Fld := ⟨0x138, 0, 48⟩

def SWT_HASH_seed : Fld := ⟨0x140, 0, 32⟩

def SWT_PCP_MAP_vc0 : Fld := ⟨0x148, 0, 3⟩
def SWT_PCP_MAP_vc1 : Fld := ⟨0x148, 3, 3⟩
def SWT_PCP_MAP_vc2 : Fld := ⟨0x148, 6, 3⟩
def SWT_PCP_MAP_vc3 : Fld := ⟨0x148, 9, 3⟩
def SWT_PCP_MAP_vc4 : Fld := ⟨0x148, 12, 3⟩
def SWT_PCP_MAP_vc5 : Fld := ⟨0x148, 15, 3⟩
def SWT_PCP_MAP_vc6 : Fld := ⟨0x148, 18, 3⟩
def SWT_PCP_MAP_vc7 : Fld := ⟨0x148, 21, 3⟩

def SWT_AGE_NOW_ticks : Fld := ⟨0x150, 0, 24⟩

def SWT_SLOT_LAG_last_in_window : Fld := ⟨0x158, 0, 32⟩
def SWT_SLOT_LAG_windows_over : Fld := ⟨0x158, 32, 16⟩
def SWT_SLOT_LAG_over : Fld := ⟨0x158, 48, 1⟩

def SWT_SLOT_LAST_count : Fld := ⟨0x160, 0, 48⟩

def SWT_RX_FRAMES_count : Fld := ⟨0x180, 0, 48⟩

def SWT_TX_FRAMES_count : Fld := ⟨0x188, 0, 48⟩

def SWT_DROP_LOOKUP_count : Fld := ⟨0x190, 0, 48⟩

def SWT_DROP_HDR_count : Fld := ⟨0x198, 0, 48⟩

def SWT_DROP_TTL_count : Fld := ⟨0x1a0, 0, 48⟩

def SWT_DROP_AGE_count : Fld := ⟨0x1a8, 0, 48⟩

def SWT_DROP_FCS_count : Fld := ⟨0x1b0, 0, 48⟩

def SWT_DROP_DOWN_count : Fld := ⟨0x1b8, 0, 48⟩

def SWT_UNDERRUN_count : Fld := ⟨0x1c0, 0, 48⟩

def SWT_SAF_FALLBACK_count : Fld := ⟨0x1c8, 0, 48⟩

def SWT_MC_COPIES_count : Fld := ⟨0x1d0, 0, 48⟩

def SWT_BYPASS_FRAMES_count : Fld := ⟨0x1d8, 0, 48⟩

def SWT_CLS_SEL_table : Fld := ⟨0x200, 0, 2⟩
def SWT_CLS_SEL_index : Fld := ⟨0x200, 2, 9⟩
def SWT_CLS_SEL_word : Fld := ⟨0x200, 11, 1⟩

def SWT_PFC_TX_count : Fld := ⟨0x210, 0, 48⟩

def SWT_PFC_RX_count : Fld := ⟨0x218, 0, 48⟩

def SWT_PAUSE_IGNORED_count : Fld := ⟨0x220, 0, 48⟩

def SWT_POLICE_DROPS_count : Fld := ⟨0x228, 0, 48⟩

def SWT_ECN_MARKS_count : Fld := ⟨0x230, 0, 48⟩

def SWT_TURN_ESCAPES_count : Fld := ⟨0x238, 0, 48⟩

def SWT_TURN_DROPS_count : Fld := ⟨0x240, 0, 48⟩

def SWT_STALL_DISCARDS_count : Fld := ⟨0x248, 0, 48⟩

/-- Switch tile page (chapters 5 and 7). SWT_CLS_DATA is the window of the class tables. -/
def regs_swt : List FDesc :=
  [ ⟨SWT_TBL_SEL_table, .rw, 0, .range 0 12, 8, 1⟩,
    ⟨SWT_TBL_SEL_index, .rw, 0, .any, 8, 1⟩,
    ⟨SWT_TBL_STATUS_code, .ro, 0, .any, 8, 1⟩,
    ⟨SWT_TBL_STATUS_busy, .ro, 0, .any, 8, 1⟩,
    ⟨SWT_TBL_STATUS_index, .ro, 0, .any, 8, 1⟩,
    ⟨SWT_TBL_STATUS_seq, .ro, 0, .any, 8, 1⟩,
    ⟨SWT_STAGE_word, .rw, 0, .any, 8, 4⟩,
    ⟨SWT_RMAC_mac, .rw, 0, .any, 8, 1⟩,
    ⟨SWT_HASH_seed, .rw, 0, .any, 8, 1⟩,
    ⟨SWT_PCP_MAP_vc0, .rw, 3, .among [0, 1, 2, 3, 4, 5, 7], 8, 1⟩,
    ⟨SWT_PCP_MAP_vc1, .rw, 3, .among [0, 1, 2, 3, 4, 5, 7], 8, 1⟩,
    ⟨SWT_PCP_MAP_vc2, .rw, 1, .among [0, 1, 2, 3, 4, 5, 7], 8, 1⟩,
    ⟨SWT_PCP_MAP_vc3, .rw, 2, .among [0, 1, 2, 3, 4, 5, 7], 8, 1⟩,
    ⟨SWT_PCP_MAP_vc4, .rw, 4, .among [0, 1, 2, 3, 4, 5, 7], 8, 1⟩,
    ⟨SWT_PCP_MAP_vc5, .rw, 5, .among [0, 1, 2, 3, 4, 5, 7], 8, 1⟩,
    ⟨SWT_PCP_MAP_vc6, .rw, 0, .among [0, 1, 2, 3, 4, 5, 7], 8, 1⟩,
    ⟨SWT_PCP_MAP_vc7, .rw, 7, .among [0, 1, 2, 3, 4, 5, 7], 8, 1⟩,
    ⟨SWT_AGE_NOW_ticks, .ro, 0, .any, 8, 1⟩,
    ⟨SWT_SLOT_LAG_last_in_window, .ro, 0, .any, 8, 1⟩,
    ⟨SWT_SLOT_LAG_windows_over, .ro, 0, .any, 8, 1⟩,
    ⟨SWT_SLOT_LAG_over, .ro, 0, .any, 8, 1⟩,
    ⟨SWT_SLOT_LAST_count, .ro, 0, .any, 8, 1⟩,
    ⟨SWT_RX_FRAMES_count, .ro, 0, .any, 8, 1⟩,
    ⟨SWT_TX_FRAMES_count, .ro, 0, .any, 8, 1⟩,
    ⟨SWT_DROP_LOOKUP_count, .ro, 0, .any, 8, 1⟩,
    ⟨SWT_DROP_HDR_count, .ro, 0, .any, 8, 1⟩,
    ⟨SWT_DROP_TTL_count, .ro, 0, .any, 8, 1⟩,
    ⟨SWT_DROP_AGE_count, .ro, 0, .any, 8, 1⟩,
    ⟨SWT_DROP_FCS_count, .ro, 0, .any, 8, 1⟩,
    ⟨SWT_DROP_DOWN_count, .ro, 0, .any, 8, 1⟩,
    ⟨SWT_UNDERRUN_count, .ro, 0, .any, 8, 1⟩,
    ⟨SWT_SAF_FALLBACK_count, .ro, 0, .any, 8, 1⟩,
    ⟨SWT_MC_COPIES_count, .ro, 0, .any, 8, 1⟩,
    ⟨SWT_BYPASS_FRAMES_count, .ro, 0, .any, 8, 1⟩,
    ⟨SWT_CLS_SEL_table, .rw, 0, .range 0 2, 8, 1⟩,
    ⟨SWT_CLS_SEL_index, .rw, 0, .any, 8, 1⟩,
    ⟨SWT_CLS_SEL_word, .rw, 0, .any, 8, 1⟩,
    ⟨SWT_PFC_TX_count, .ro, 0, .any, 8, 1⟩,
    ⟨SWT_PFC_RX_count, .ro, 0, .any, 8, 1⟩,
    ⟨SWT_PAUSE_IGNORED_count, .ro, 0, .any, 8, 1⟩,
    ⟨SWT_POLICE_DROPS_count, .ro, 0, .any, 8, 1⟩,
    ⟨SWT_ECN_MARKS_count, .ro, 0, .any, 8, 1⟩,
    ⟨SWT_TURN_ESCAPES_count, .ro, 0, .any, 8, 1⟩,
    ⟨SWT_TURN_DROPS_count, .ro, 0, .any, 8, 1⟩,
    ⟨SWT_STALL_DISCARDS_count, .ro, 0, .any, 8, 1⟩ ]

def H_SWT_last_queue : Fld := ⟨0x1100, 0, 16⟩
def H_SWT_auto : Fld := ⟨0x1100, 16, 1⟩

/-- What a switch tile keeps: the last spreading queue served, and whether the part evacuated the tile itself. -/
def regs_swtHid : List FDesc :=
  [ ⟨H_SWT_last_queue, .ro, 255, .any, 8, 1⟩,
    ⟨H_SWT_auto, .ro, 0, .any, 8, 1⟩ ]

def XBAR_CFG_pattern : Fld := ⟨0x100, 0, 1⟩
def XBAR_CFG_auto_evac : Fld := ⟨0x100, 1, 1⟩
def XBAR_CFG_lag_window : Fld := ⟨0x100, 2, 5⟩
def XBAR_CFG_lag_threshold : Fld := ⟨0x100, 7, 8⟩
def XBAR_CFG_drain_us : Fld := ⟨0x100, 15, 5⟩
def XBAR_CFG_auto_max : Fld := ⟨0x100, 20, 3⟩

def XBAR_MEMBERS_in_pattern : Fld := ⟨0x108, 0, 32⟩
def XBAR_MEMBERS_evacuated : Fld := ⟨0x108, 32, 32⟩

def XBAR_STATUS_pattern : Fld := ⟨0x110, 0, 1⟩
def XBAR_STATUS_evac_busy : Fld := ⟨0x110, 1, 1⟩
def XBAR_STATUS_evac_tile : Fld := ⟨0x110, 2, 5⟩

def XBAR_SLOTS_count : Fld := ⟨0x118, 0, 48⟩

def XBAR_EVAC_DROPS_count : Fld := ⟨0x120, 0, 48⟩

def XBAR_L3_CFG_devices : Fld := ⟨0x128, 0, 4⟩
def XBAR_L3_CFG_self : Fld := ⟨0x128, 4, 3⟩
def XBAR_L3_CFG_brood_lanes : Fld := ⟨0x128, 7, 5⟩
def XBAR_L3_CFG_reseq_limit : Fld := ⟨0x128, 12, 4⟩

def XBAR_L3_STATUS_undersized : Fld := ⟨0x130, 0, 1⟩
def XBAR_L3_STATUS_members : Fld := ⟨0x130, 1, 8⟩

def XBAR_L3_SLOTS_count : Fld := ⟨0x138, 0, 48⟩

def XBAR_L3_GAPS_count : Fld := ⟨0x140, 0, 48⟩

def XBAR_L3_LINKS_links : Fld := ⟨0x180, 0, 32⟩

def XBAR_RL_ADDR_addr : Fld := ⟨0x300, 0, 52⟩
def XBAR_RL_ADDR_host : Fld := ⟨0x300, 52, 1⟩

def XBAR_RL_STATUS_code : Fld := ⟨0x310, 0, 8⟩
def XBAR_RL_STATUS_busy : Fld := ⟨0x310, 8, 1⟩
def XBAR_RL_STATUS_cycle_len : Fld := ⟨0x310, 9, 7⟩
def XBAR_RL_STATUS_cycle_more : Fld := ⟨0x310, 16, 1⟩
def XBAR_RL_STATUS_detail : Fld := ⟨0x310, 24, 8⟩
def XBAR_RL_STATUS_seq : Fld := ⟨0x310, 32, 32⟩

def XBAR_RL_IMAGE_image_id : Fld := ⟨0x318, 0, 64⟩

def XBAR_RL_CYC_SEL_index : Fld := ⟨0x320, 0, 6⟩

def XBAR_DL_CFG_stall_ticks : Fld := ⟨0x330, 0, 24⟩
def XBAR_DL_CFG_recover : Fld := ⟨0x330, 24, 1⟩
def XBAR_DL_CFG_recover_ticks : Fld := ⟨0x330, 25, 24⟩

def XBAR_DL_HOLD_hold_ticks : Fld := ⟨0x338, 0, 24⟩

def XBAR_DL_STATUS_wf_count : Fld := ⟨0x340, 0, 9⟩
def XBAR_DL_STATUS_wf_overflow : Fld := ⟨0x340, 9, 1⟩
def XBAR_DL_STATUS_budget_broken : Fld := ⟨0x340, 10, 8⟩

def XBAR_WF_SEL_index : Fld := ⟨0x350, 0, 8⟩
def XBAR_WF_SEL_word : Fld := ⟨0x350, 8, 1⟩

/-- Crossbar page of the part (chapters 5 and 7). -/
def regs_xbarDev : List FDesc :=
  [ ⟨XBAR_CFG_pattern, .rw, 1, .any, 8, 1⟩,
    ⟨XBAR_CFG_auto_evac, .rw, 1, .any, 8, 1⟩,
    ⟨XBAR_CFG_lag_window, .rw, 24, .range 16 30, 8, 1⟩,
    ⟨XBAR_CFG_lag_threshold, .rw, 128, .any, 8, 1⟩,
    ⟨XBAR_CFG_drain_us, .rw, 10, .range 1 18, 8, 1⟩,
    ⟨XBAR_CFG_auto_max, .rw, 1, .any, 8, 1⟩,
    ⟨XBAR_MEMBERS_in_pattern, .ro, 0, .any, 8, 1⟩,
    ⟨XBAR_MEMBERS_evacuated, .ro, 0, .any, 8, 1⟩,
    ⟨XBAR_STATUS_pattern, .ro, 0, .any, 8, 1⟩,
    ⟨XBAR_STATUS_evac_busy, .ro, 0, .any, 8, 1⟩,
    ⟨XBAR_STATUS_evac_tile, .ro, 0, .any, 8, 1⟩,
    ⟨XBAR_SLOTS_count, .ro, 0, .any, 8, 1⟩,
    ⟨XBAR_EVAC_DROPS_count, .ro, 0, .any, 8, 1⟩,
    ⟨XBAR_L3_CFG_devices, .rw, 1, .range 1 8, 8, 1⟩,
    ⟨XBAR_L3_CFG_self, .rw, 0, .any, 8, 1⟩,
    ⟨XBAR_L3_CFG_brood_lanes, .rw, 0, .any, 8, 1⟩,
    ⟨XBAR_L3_CFG_reseq_limit, .rw, 4, .range 1 15, 8, 1⟩,
    ⟨XBAR_L3_STATUS_undersized, .ro, 0, .any, 8, 1⟩,
    ⟨XBAR_L3_STATUS_members, .ro, 0, .any, 8, 1⟩,
    ⟨XBAR_L3_SLOTS_count, .ro, 0, .any, 8, 1⟩,
    ⟨XBAR_L3_GAPS_count, .ro, 0, .any, 8, 1⟩,
    ⟨XBAR_L3_LINKS_links, .rw, 0, .any, 8, 32⟩,
    ⟨XBAR_RL_ADDR_addr, .rw, 0, .any, 8, 1⟩,
    ⟨XBAR_RL_ADDR_host, .rw, 0, .any, 8, 1⟩,
    ⟨XBAR_RL_STATUS_code, .ro, 0, .any, 8, 1⟩,
    ⟨XBAR_RL_STATUS_busy, .ro, 0, .any, 8, 1⟩,
    ⟨XBAR_RL_STATUS_cycle_len, .ro, 0, .any, 8, 1⟩,
    ⟨XBAR_RL_STATUS_cycle_more, .ro, 0, .any, 8, 1⟩,
    ⟨XBAR_RL_STATUS_detail, .ro, 0, .any, 8, 1⟩,
    ⟨XBAR_RL_STATUS_seq, .ro, 0, .any, 8, 1⟩,
    ⟨XBAR_RL_IMAGE_image_id, .ro, 0, .any, 8, 1⟩,
    ⟨XBAR_RL_CYC_SEL_index, .rw, 0, .any, 8, 1⟩,
    ⟨XBAR_DL_CFG_stall_ticks, .rw, 20000, .any, 8, 1⟩,
    ⟨XBAR_DL_CFG_recover, .rw, 1, .any, 8, 1⟩,
    ⟨XBAR_DL_CFG_recover_ticks, .rw, 20000, .any, 8, 1⟩,
    ⟨XBAR_DL_HOLD_hold_ticks, .rw, 100000, .any, 8, 1⟩,
    ⟨XBAR_DL_STATUS_wf_count, .ro, 0, .any, 8, 1⟩,
    ⟨XBAR_DL_STATUS_wf_overflow, .ro, 0, .any, 8, 1⟩,
    ⟨XBAR_DL_STATUS_budget_broken, .ro, 0, .any, 8, 1⟩,
    ⟨XBAR_WF_SEL_index, .rw, 0, .any, 8, 1⟩,
    ⟨XBAR_WF_SEL_word, .rw, 0, .any, 8, 1⟩ ]

def XBAR_POS_flat : Fld := ⟨0x100, 0, 5⟩
def XBAR_POS_l1 : Fld := ⟨0x100, 5, 3⟩
def XBAR_POS_l2 : Fld := ⟨0x100, 8, 2⟩
def XBAR_POS_device : Fld := ⟨0x100, 10, 3⟩

def XBAR_MID_OCC_cells : Fld := ⟨0x108, 0, 16⟩
def XBAR_MID_OCC_high : Fld := ⟨0x108, 16, 16⟩

def XBAR_GRANT_grant : Fld := ⟨0x110, 0, 32⟩

def XBAR_SPREAD_cells : Fld := ⟨0x118, 0, 48⟩

def XBAR_DELIVER_cells : Fld := ⟨0x120, 0, 48⟩

/-- Crossbar page of a switch tile. -/
def regs_xbarT : List FDesc :=
  [ ⟨XBAR_POS_flat, .ro, 0, .any, 8, 1⟩,
    ⟨XBAR_POS_l1, .ro, 0, .any, 8, 1⟩,
    ⟨XBAR_POS_l2, .ro, 0, .any, 8, 1⟩,
    ⟨XBAR_POS_device, .ro, 0, .any, 8, 1⟩,
    ⟨XBAR_MID_OCC_cells, .ro, 0, .any, 8, 1⟩,
    ⟨XBAR_MID_OCC_high, .ro, 0, .any, 8, 1⟩,
    ⟨XBAR_GRANT_grant, .ro, 0, .any, 8, 1⟩,
    ⟨XBAR_SPREAD_cells, .ro, 0, .any, 8, 1⟩,
    ⟨XBAR_DELIVER_cells, .ro, 0, .any, 8, 1⟩ ]

def H_XBAR_k : Fld := ⟨0x1100, 0, 64⟩

def H_XBAR2_lag : Fld := ⟨0x1110, 0, 64⟩

def H_XBAR3_k3 : Fld := ⟨0x1108, 0, 64⟩

/-- The slot counts that the patterns keep, that of level 3, and the slots of the lag window that is open. -/
def regs_xbarHid : List FDesc :=
  [ ⟨H_XBAR_k, .ro, 0, .any, 8, 1⟩,
    ⟨H_XBAR2_lag, .ro, 0, .any, 8, 1⟩,
    ⟨H_XBAR3_k3, .ro, 0, .any, 8, 1⟩ ]

def swtMac_mac : Fld := ⟨0, 0, 48⟩
def swtMac_vlan : Fld := ⟨0, 48, 12⟩
def swtMac_valid : Fld := ⟨0, 60, 1⟩

def swtMac_kind : Fld := ⟨1, 0, 2⟩
def swtMac_target : Fld := ⟨1, 2, 16⟩

/-- MAC table (R110). -/
def tblFields_swtMac : List FDesc :=
  [ ⟨swtMac_mac, .rw, 0, .any, 1, 1⟩,
    ⟨swtMac_vlan, .rw, 0, .any, 1, 1⟩,
    ⟨swtMac_valid, .rw, 0, .any, 1, 1⟩,
    ⟨swtMac_kind, .rw, 0, .any, 1, 1⟩,
    ⟨swtMac_target, .rw, 0, .any, 1, 1⟩ ]

def swtLpm_hi : Fld := ⟨0, 0, 64⟩

def swtLpm_lo : Fld := ⟨1, 0, 64⟩

def swtLpm_length : Fld := ⟨2, 0, 8⟩
def swtLpm_af : Fld := ⟨2, 8, 1⟩
def swtLpm_valid : Fld := ⟨2, 9, 1⟩
def swtLpm_kind : Fld := ⟨2, 10, 2⟩
def swtLpm_target : Fld := ⟨2, 12, 16⟩

/-- LPM table (R110). -/
def tblFields_swtLpm : List FDesc :=
  [ ⟨swtLpm_hi, .rw, 0, .any, 1, 1⟩,
    ⟨swtLpm_lo, .rw, 0, .any, 1, 1⟩,
    ⟨swtLpm_length, .rw, 0, .any, 1, 1⟩,
    ⟨swtLpm_af, .rw, 0, .any, 1, 1⟩,
    ⟨swtLpm_valid, .rw, 0, .any, 1, 1⟩,
    ⟨swtLpm_kind, .rw, 0, .any, 1, 1⟩,
    ⟨swtLpm_target, .rw, 0, .any, 1, 1⟩ ]

def swtHop_dmac : Fld := ⟨0, 0, 48⟩
def swtHop_vlan : Fld := ⟨0, 48, 12⟩
def swtHop_valid : Fld := ⟨0, 60, 1⟩

def swtHop_port : Fld := ⟨1, 0, 10⟩
def swtHop_tagged : Fld := ⟨1, 10, 1⟩

/-- Next hops. -/
def tblFields_swtHop : List FDesc :=
  [ ⟨swtHop_dmac, .rw, 0, .any, 1, 1⟩,
    ⟨swtHop_vlan, .rw, 0, .any, 1, 1⟩,
    ⟨swtHop_valid, .rw, 0, .any, 1, 1⟩,
    ⟨swtHop_port, .rw, 0, .any, 1, 1⟩,
    ⟨swtHop_tagged, .rw, 0, .any, 1, 1⟩ ]

def swtEcmp_base : Fld := ⟨0, 0, 16⟩
def swtEcmp_size : Fld := ⟨0, 16, 9⟩

/-- ECMP groups. -/
def tblFields_swtEcmp : List FDesc :=
  [ ⟨swtEcmp_base, .rw, 0, .any, 1, 1⟩,
    ⟨swtEcmp_size, .rw, 0, .any, 1, 1⟩ ]

def swtEcmpMem_next_hop : Fld := ⟨0, 0, 16⟩

/-- ECMP members. -/
def tblFields_swtEcmpMem : List FDesc :=
  [ ⟨swtEcmpMem_next_hop, .rw, 0, .any, 1, 1⟩ ]

def swtRoute_valid : Fld := ⟨0, 0, 1⟩
def swtRoute_set : Fld := ⟨0, 1, 1⟩
def swtRoute_target : Fld := ⟨0, 2, 12⟩

/-- TLink routes, by destination address. -/
def tblFields_swtRoute : List FDesc :=
  [ ⟨swtRoute_valid, .rw, 0, .any, 1, 1⟩,
    ⟨swtRoute_set, .rw, 0, .any, 1, 1⟩,
    ⟨swtRoute_target, .rw, 0, .any, 1, 1⟩ ]

def swtRouteSet_members : Fld := ⟨0, 0, 64⟩

def swtRouteSet_members2 : Fld := ⟨2, 0, 32⟩
def swtRouteSet_count : Fld := ⟨2, 32, 5⟩

/-- Route sets: members of 10 bits from bit 0, and the count at bit 160. -/
def tblFields_swtRouteSet : List FDesc :=
  [ ⟨swtRouteSet_members, .rw, 0, .any, 1, 2⟩,
    ⟨swtRouteSet_members2, .rw, 0, .any, 1, 1⟩,
    ⟨swtRouteSet_count, .rw, 0, .any, 1, 1⟩ ]

def swtMcast_tile_mask : Fld := ⟨0, 0, 32⟩
def swtMcast_mask_base : Fld := ⟨0, 32, 17⟩
def swtMcast_valid : Fld := ⟨0, 49, 1⟩

/-- Multicast groups. -/
def tblFields_swtMcast : List FDesc :=
  [ ⟨swtMcast_tile_mask, .rw, 0, .any, 1, 1⟩,
    ⟨swtMcast_mask_base, .rw, 0, .any, 1, 1⟩,
    ⟨swtMcast_valid, .rw, 0, .any, 1, 1⟩ ]

def swtMask_ports : Fld := ⟨0, 0, 32⟩

/-- Port masks. -/
def tblFields_swtMask : List FDesc :=
  [ ⟨swtMask_ports, .rw, 0, .any, 1, 1⟩ ]

def swtVlan_flood_group : Fld := ⟨0, 0, 16⟩
def swtVlan_valid : Fld := ⟨0, 16, 1⟩
def swtVlan_flood : Fld := ⟨0, 17, 1⟩

/-- VLANs. -/
def tblFields_swtVlan : List FDesc :=
  [ ⟨swtVlan_flood_group, .rw, 0, .any, 1, 1⟩,
    ⟨swtVlan_valid, .rw, 0, .any, 1, 1⟩,
    ⟨swtVlan_flood, .rw, 0, .any, 1, 1⟩ ]

def swtPort_l2_enable : Fld := ⟨0, 0, 1⟩
def swtPort_l3_enable : Fld := ⟨0, 1, 1⟩
def swtPort_pvid : Fld := ⟨0, 2, 12⟩
def swtPort_trust : Fld := ⟨0, 14, 2⟩
def swtPort_default_vc : Fld := ⟨0, 16, 3⟩

/-- Port entries of a tile. -/
def tblFields_swtPort : List FDesc :=
  [ ⟨swtPort_l2_enable, .rw, 1, .any, 1, 1⟩,
    ⟨swtPort_l3_enable, .rw, 0, .any, 1, 1⟩,
    ⟨swtPort_pvid, .rw, 1, .any, 1, 1⟩,
    ⟨swtPort_trust, .rw, 0, .any, 1, 1⟩,
    ⟨swtPort_default_vc, .rw, 3, .any, 1, 1⟩ ]

def swtPortVc_cut_through : Fld := ⟨0, 0, 1⟩
def swtPortVc_age_limit : Fld := ⟨0, 1, 24⟩

/-- Port-VC entries of a tile. -/
def tblFields_swtPortVc : List FDesc :=
  [ ⟨swtPortVc_cut_through, .rw, 1, .any, 1, 1⟩,
    ⟨swtPortVc_age_limit, .rw, 50000, .any, 1, 1⟩ ]

def swtDscp_vc : Fld := ⟨0, 0, 3⟩

/-- DSCP map of a tile. -/
def tblFields_swtDscp : List FDesc :=
  [ ⟨swtDscp_vc, .rw, 3, .any, 1, 1⟩ ]

def clsPort_overhead : Fld := ⟨0, 0, 8⟩
def clsPort_label : Fld := ⟨0, 8, 2⟩
def clsPort_pfc : Fld := ⟨0, 10, 8⟩
def clsPort_port_shape : Fld := ⟨0, 18, 1⟩

def clsPort_rate : Fld := ⟨1, 0, 18⟩
def clsPort_burst : Fld := ⟨1, 18, 24⟩

/-- Port class entries, with the tokens of the port shaper. -/
def tblFields_clsPort : List FDesc :=
  [ ⟨clsPort_overhead, .rw, 20, .any, 1, 1⟩,
    ⟨clsPort_label, .ro, 0, .any, 1, 1⟩,
    ⟨clsPort_pfc, .rw, 0, .any, 1, 1⟩,
    ⟨clsPort_port_shape, .rw, 0, .any, 1, 1⟩,
    ⟨clsPort_rate, .rw, 0, .any, 1, 1⟩,
    ⟨clsPort_burst, .rw, 0, .any, 1, 1⟩ ]

def clsVc_quantum : Fld := ⟨0, 0, 18⟩
def clsVc_shape : Fld := ⟨0, 18, 1⟩
def clsVc_rate : Fld := ⟨0, 19, 18⟩
def clsVc_burst : Fld := ⟨0, 37, 24⟩

def clsVc_xoff : Fld := ⟨1, 0, 17⟩
def clsVc_headroom : Fld := ⟨1, 17, 17⟩
def clsVc_ecn_threshold : Fld := ⟨1, 34, 17⟩
def clsVc_ecn_en : Fld := ⟨1, 51, 1⟩
def clsVc_policer : Fld := ⟨1, 52, 9⟩
def clsVc_police : Fld := ⟨1, 61, 1⟩

/-- Port-VC class entries. -/
def tblFields_clsVc : List FDesc :=
  [ ⟨clsVc_quantum, .rw, 0, .range 64 262143, 1, 1⟩,
    ⟨clsVc_shape, .rw, 0, .any, 1, 1⟩,
    ⟨clsVc_rate, .rw, 0, .any, 1, 1⟩,
    ⟨clsVc_burst, .rw, 0, .any, 1, 1⟩,
    ⟨clsVc_xoff, .rw, 64, .any, 1, 1⟩,
    ⟨clsVc_headroom, .rw, 0, .any, 1, 1⟩,
    ⟨clsVc_ecn_threshold, .rw, 256, .any, 1, 1⟩,
    ⟨clsVc_ecn_en, .rw, 1, .any, 1, 1⟩,
    ⟨clsVc_policer, .rw, 0, .any, 1, 1⟩,
    ⟨clsVc_police, .rw, 0, .any, 1, 1⟩ ]

def clsPolicer_rate : Fld := ⟨0, 0, 18⟩
def clsPolicer_burst : Fld := ⟨0, 18, 24⟩
def clsPolicer_valid : Fld := ⟨0, 42, 1⟩

def clsPolicer_drops : Fld := ⟨1, 0, 48⟩

/-- Policers. -/
def tblFields_clsPolicer : List FDesc :=
  [ ⟨clsPolicer_rate, .rw, 0, .any, 1, 1⟩,
    ⟨clsPolicer_burst, .rw, 0, .any, 1, 1⟩,
    ⟨clsPolicer_valid, .rw, 0, .any, 1, 1⟩,
    ⟨clsPolicer_drops, .ro, 0, .any, 1, 1⟩ ]

def xbarWf_kind : Fld := ⟨0, 0, 2⟩
def xbarWf_port : Fld := ⟨0, 2, 10⟩
def xbarWf_vc : Fld := ⟨0, 12, 3⟩
def xbarWf_cause : Fld := ⟨0, 15, 3⟩
def xbarWf_ticks : Fld := ⟨0, 18, 24⟩
def xbarWf_recovered : Fld := ⟨0, 42, 1⟩

def xbarWf_segments : Fld := ⟨1, 0, 21⟩
def xbarWf_spilled : Fld := ⟨1, 21, 40⟩

/-- Wait-for entries of the deadlock detector (R182). -/
def tblFields_xbarWf : List FDesc :=
  [ ⟨xbarWf_kind, .ro, 0, .any, 1, 1⟩,
    ⟨xbarWf_port, .ro, 0, .any, 1, 1⟩,
    ⟨xbarWf_vc, .ro, 0, .any, 1, 1⟩,
    ⟨xbarWf_cause, .ro, 0, .any, 1, 1⟩,
    ⟨xbarWf_ticks, .ro, 0, .any, 1, 1⟩,
    ⟨xbarWf_recovered, .ro, 0, .any, 1, 1⟩,
    ⟨xbarWf_segments, .ro, 0, .any, 1, 1⟩,
    ⟨xbarWf_spilled, .ro, 0, .any, 1, 1⟩ ]

def xbarCyc_edge : Fld := ⟨0, 0, 64⟩

/-- Edges of the cycle that the route loader found (R180). -/
def tblFields_xbarCyc : List FDesc :=
  [ ⟨xbarCyc_edge, .ro, 0, .any, 1, 1⟩ ]

def BSE_CELL_CFG_egress_reserve : Fld := ⟨0x100, 0, 17⟩

def BSE_CELL_FREE_free : Fld := ⟨0x108, 0, 18⟩
def BSE_CELL_FREE_low_water : Fld := ⟨0x108, 18, 18⟩

def BSE_SPILL_STATUS_wq_cells : Fld := ⟨0x110, 0, 11⟩
def BSE_SPILL_STATUS_bytes : Fld := ⟨0x110, 11, 40⟩

def BSE_TBL_SEL_table : Fld := ⟨0x118, 0, 2⟩
def BSE_TBL_SEL_tile : Fld := ⟨0x118, 2, 2⟩
def BSE_TBL_SEL_index : Fld := ⟨0x118, 4, 8⟩

def BSE_DROP_ADMIT_count : Fld := ⟨0x140, 0, 48⟩

def BSE_DROP_EGRESS_count : Fld := ⟨0x148, 0, 48⟩

def BSE_FORCED_SPILL_count : Fld := ⟨0x150, 0, 48⟩

def BSE_ADMIT_WAITS_count : Fld := ⟨0x158, 0, 48⟩

def BSE_SPILL_OUT_count : Fld := ⟨0x160, 0, 48⟩

def BSE_SPILL_IN_count : Fld := ⟨0x168, 0, 48⟩

def BSE_DROP_SPILL_LOST_count : Fld := ⟨0x170, 0, 48⟩

/-- Base die page (chapter 6). -/
def regs_bse : List FDesc :=
  [ ⟨BSE_CELL_CFG_egress_reserve, .rw, 16384, .any, 8, 1⟩,
    ⟨BSE_CELL_FREE_free, .ro, 131072, .any, 8, 1⟩,
    ⟨BSE_CELL_FREE_low_water, .ro, 131072, .any, 8, 1⟩,
    ⟨BSE_SPILL_STATUS_wq_cells, .ro, 0, .any, 8, 1⟩,
    ⟨BSE_SPILL_STATUS_bytes, .ro, 0, .any, 8, 1⟩,
    ⟨BSE_TBL_SEL_table, .rw, 0, .any, 8, 1⟩,
    ⟨BSE_TBL_SEL_tile, .rw, 0, .any, 8, 1⟩,
    ⟨BSE_TBL_SEL_index, .rw, 0, .any, 8, 1⟩,
    ⟨BSE_DROP_ADMIT_count, .ro, 0, .any, 8, 1⟩,
    ⟨BSE_DROP_EGRESS_count, .ro, 0, .any, 8, 1⟩,
    ⟨BSE_FORCED_SPILL_count, .ro, 0, .any, 8, 1⟩,
    ⟨BSE_ADMIT_WAITS_count, .ro, 0, .any, 8, 1⟩,
    ⟨BSE_SPILL_OUT_count, .ro, 0, .any, 8, 1⟩,
    ⟨BSE_SPILL_IN_count, .ro, 0, .any, 8, 1⟩,
    ⟨BSE_DROP_SPILL_LOST_count, .ro, 0, .any, 8, 1⟩ ]

def H_BSE_retired : Fld := ⟨0x1100, 0, 7⟩

/-- Cells that a base die has retired (chapter 6). -/
def regs_bseHid : List FDesc :=
  [ ⟨H_BSE_retired, .ro, 0, .any, 8, 1⟩ ]

def POOL_REGION_BASE_base : Fld := ⟨0x100, 12, 40⟩

def POOL_REGION_LEN_len : Fld := ⟨0x108, 12, 40⟩

def POOL_CFG_count : Fld := ⟨0x110, 0, 25⟩

def POOL_STAT_free : Fld := ⟨0x140, 0, 25⟩
def POOL_STAT_cached : Fld := ⟨0x140, 25, 10⟩
def POOL_STAT_low_water : Fld := ⟨0x140, 35, 25⟩

def POOL_RING_head : Fld := ⟨0x170, 0, 25⟩
def POOL_RING_tail : Fld := ⟨0x170, 25, 25⟩

def POOL_CMD_ADDR_addr : Fld := ⟨0x1a8, 0, 52⟩

def POOL_CMD_STATUS_code : Fld := ⟨0x1b0, 0, 8⟩
def POOL_CMD_STATUS_busy : Fld := ⟨0x1b0, 8, 1⟩
def POOL_CMD_STATUS_pool : Fld := ⟨0x1b0, 9, 3⟩
def POOL_CMD_STATUS_seq : Fld := ⟨0x1b0, 32, 32⟩

def POOL_LOW_MARK_mark : Fld := ⟨0x1b8, 0, 25⟩

def POOL_ALLOCS_count : Fld := ⟨0x1c0, 0, 48⟩

def POOL_FREES_count : Fld := ⟨0x1c8, 0, 48⟩

def POOL_FALLBACKS_count : Fld := ⟨0x1d0, 0, 48⟩

def POOL_NO_RESOURCE_count : Fld := ⟨0x1d8, 0, 48⟩

def POOL_BAD_FREES_count : Fld := ⟨0x1e0, 0, 48⟩

/-- Pool manager page (chapter 6). POOL_REGION_BASE resets to the die's HBM plus 64 GB. -/
def regs_pool : List FDesc :=
  [ ⟨POOL_REGION_BASE_base, .rw, 0, .any, 8, 1⟩,
    ⟨POOL_REGION_LEN_len, .rw, 1953125, .any, 8, 1⟩,
    ⟨POOL_CFG_count, .rw, 0, .any, 8, 6⟩,
    ⟨POOL_STAT_free, .ro, 0, .any, 8, 6⟩,
    ⟨POOL_STAT_cached, .ro, 0, .any, 8, 6⟩,
    ⟨POOL_STAT_low_water, .ro, 0, .any, 8, 6⟩,
    ⟨POOL_RING_head, .ro, 0, .any, 8, 6⟩,
    ⟨POOL_RING_tail, .ro, 0, .any, 8, 6⟩,
    ⟨POOL_CMD_ADDR_addr, .rw, 0, .any, 8, 1⟩,
    ⟨POOL_CMD_STATUS_code, .ro, 0, .any, 8, 1⟩,
    ⟨POOL_CMD_STATUS_busy, .ro, 0, .any, 8, 1⟩,
    ⟨POOL_CMD_STATUS_pool, .ro, 0, .any, 8, 1⟩,
    ⟨POOL_CMD_STATUS_seq, .ro, 0, .any, 8, 1⟩,
    ⟨POOL_LOW_MARK_mark, .rw, 1024, .any, 8, 1⟩,
    ⟨POOL_ALLOCS_count, .ro, 0, .any, 8, 1⟩,
    ⟨POOL_FREES_count, .ro, 0, .any, 8, 1⟩,
    ⟨POOL_FALLBACKS_count, .ro, 0, .any, 8, 1⟩,
    ⟨POOL_NO_RESOURCE_count, .ro, 0, .any, 8, 1⟩,
    ⟨POOL_BAD_FREES_count, .ro, 0, .any, 8, 1⟩ ]

def MESH_FLITS_count : Fld := ⟨0x100, 0, 48⟩

def MESH_MC_HOLDS_count : Fld := ⟨0x120, 0, 48⟩

def MESH_BRG_M0_credits : Fld := ⟨0x128, 0, 8⟩

/-- Mesh page of a base die (chapter 7). -/
def regs_mesh : List FDesc :=
  [ ⟨MESH_FLITS_count, .ro, 0, .any, 8, 4⟩,
    ⟨MESH_MC_HOLDS_count, .ro, 0, .any, 8, 1⟩,
    ⟨MESH_BRG_M0_credits, .ro, 8, .any, 8, 1⟩ ]

def bseIn_cell_limit : Fld := ⟨0, 0, 17⟩
def bseIn_spill_enable : Fld := ⟨0, 17, 1⟩
def bseIn_max_frame : Fld := ⟨0, 18, 6⟩
def bseIn_spill_limit : Fld := ⟨0, 24, 32⟩
def bseIn_lossless : Fld := ⟨0, 56, 1⟩

/-- Ingress limits: tile of the die times 256, plus local port id times 8, plus VC. -/
def tblFields_bseIn : List FDesc :=
  [ ⟨bseIn_cell_limit, .rw, 512, .any, 1, 1⟩,
    ⟨bseIn_spill_enable, .rw, 1, .any, 1, 1⟩,
    ⟨bseIn_max_frame, .rw, 36, .range 1 63, 1, 1⟩,
    ⟨bseIn_spill_limit, .rw, 65536, .any, 1, 1⟩,
    ⟨bseIn_lossless, .ro, 0, .any, 1, 1⟩ ]

def bseEg_cell_limit : Fld := ⟨0, 0, 17⟩
def bseEg_spill_enable : Fld := ⟨0, 17, 1⟩
def bseEg_max_frame : Fld := ⟨0, 18, 6⟩
def bseEg_spill_limit : Fld := ⟨0, 24, 32⟩
def bseEg_lossless : Fld := ⟨0, 56, 1⟩

/-- Egress limits. -/
def tblFields_bseEg : List FDesc :=
  [ ⟨bseEg_cell_limit, .rw, 2048, .any, 1, 1⟩,
    ⟨bseEg_spill_enable, .rw, 1, .any, 1, 1⟩,
    ⟨bseEg_max_frame, .rw, 36, .range 1 63, 1, 1⟩,
    ⟨bseEg_spill_limit, .rw, 65536, .any, 1, 1⟩,
    ⟨bseEg_lossless, .ro, 0, .any, 1, 1⟩ ]

def bseInOcc_segments : Fld := ⟨0, 0, 21⟩
def bseInOcc_spilled : Fld := ⟨0, 21, 40⟩
def bseInOcc_waiting : Fld := ⟨0, 61, 1⟩

/-- Ingress occupancy. -/
def tblFields_bseInOcc : List FDesc :=
  [ ⟨bseInOcc_segments, .ro, 0, .any, 1, 1⟩,
    ⟨bseInOcc_spilled, .ro, 0, .any, 1, 1⟩,
    ⟨bseInOcc_waiting, .ro, 0, .any, 1, 1⟩ ]

def bseEgOcc_segments : Fld := ⟨0, 0, 21⟩
def bseEgOcc_spilled : Fld := ⟨0, 21, 40⟩
def bseEgOcc_waiting : Fld := ⟨0, 61, 1⟩

/-- Egress occupancy. -/
def tblFields_bseEgOcc : List FDesc :=
  [ ⟨bseEgOcc_segments, .ro, 0, .any, 1, 1⟩,
    ⟨bseEgOcc_spilled, .ro, 0, .any, 1, 1⟩,
    ⟨bseEgOcc_waiting, .ro, 0, .any, 1, 1⟩ ]

def poolRing_diff : Fld := ⟨0, 0, 64⟩

/-- Free rings: each word is the difference from the entry that the enable wrote there. Pool and entry share the index. -/
def tblFields_poolRing : List FDesc :=
  [ ⟨poolRing_diff, .ro, 0, .any, 1, 1⟩ ]

def poolMap_map : Fld := ⟨0, 0, 64⟩

/-- Allocation bitmaps, 64 buffers to a word. -/
def tblFields_poolMap : List FDesc :=
  [ ⟨poolMap_map, .ro, 0, .any, 1, 1⟩ ]

def RDX_ADDR_addr : Fld := ⟨0x100, 0, 20⟩
def RDX_ADDR_valid : Fld := ⟨0x100, 20, 1⟩

def RDX_VS_LIMIT_kib : Fld := ⟨0x108, 0, 16⟩

def RDX_VS_USED_kib : Fld := ⟨0x110, 0, 16⟩

def RDX_TBL_SEL_table : Fld := ⟨0x118, 0, 3⟩
def RDX_TBL_SEL_ctx : Fld := ⟨0x118, 3, 12⟩
def RDX_TBL_SEL_index : Fld := ⟨0x118, 15, 28⟩
def RDX_TBL_SEL_word : Fld := ⟨0x118, 43, 9⟩

def RDX_CMD_ADDR_addr : Fld := ⟨0x130, 0, 52⟩
def RDX_CMD_ADDR_host : Fld := ⟨0x130, 52, 1⟩

def RDX_CMD_STATUS_code : Fld := ⟨0x138, 0, 8⟩
def RDX_CMD_STATUS_busy : Fld := ⟨0x138, 8, 1⟩
def RDX_CMD_STATUS_seq : Fld := ⟨0x138, 32, 32⟩

def RDX_ELEMS_count : Fld := ⟨0x180, 0, 48⟩

def RDX_LINES_count : Fld := ⟨0x188, 0, 48⟩

def RDX_DUPS_count : Fld := ⟨0x190, 0, 48⟩

def RDX_STALE_count : Fld := ⟨0x198, 0, 48⟩

def RDX_BAD_count : Fld := ⟨0x1a0, 0, 48⟩

def RDX_WINDOW_REFUSED_count : Fld := ⟨0x1a8, 0, 48⟩

def RDX_LATE_count : Fld := ⟨0x1b0, 0, 48⟩

def RDX_ESCAPES_count : Fld := ⟨0x1b8, 0, 48⟩

def RDX_RES_RETX_count : Fld := ⟨0x1c0, 0, 48⟩

/-- Reduction engine page (chapter 8). RDX_TBL_DATA is the window of the tables. RDX_ADDR is writable on the first engine's page alone. -/
def regs_rdx : List FDesc :=
  [ ⟨RDX_ADDR_addr, .rw, 0, .any, 8, 1⟩,
    ⟨RDX_ADDR_valid, .rw, 0, .any, 8, 1⟩,
    ⟨RDX_VS_LIMIT_kib, .rw, 24576, .range 0 32768, 8, 1⟩,
    ⟨RDX_VS_USED_kib, .ro, 0, .any, 8, 1⟩,
    ⟨RDX_TBL_SEL_table, .rw, 0, .range 0 4, 8, 1⟩,
    ⟨RDX_TBL_SEL_ctx, .rw, 0, .any, 8, 1⟩,
    ⟨RDX_TBL_SEL_index, .rw, 0, .any, 8, 1⟩,
    ⟨RDX_TBL_SEL_word, .rw, 0, .any, 8, 1⟩,
    ⟨RDX_CMD_ADDR_addr, .rw, 0, .any, 8, 1⟩,
    ⟨RDX_CMD_ADDR_host, .rw, 0, .any, 8, 1⟩,
    ⟨RDX_CMD_STATUS_code, .ro, 0, .any, 8, 1⟩,
    ⟨RDX_CMD_STATUS_busy, .ro, 0, .any, 8, 1⟩,
    ⟨RDX_CMD_STATUS_seq, .ro, 0, .any, 8, 1⟩,
    ⟨RDX_ELEMS_count, .ro, 0, .any, 8, 1⟩,
    ⟨RDX_LINES_count, .ro, 0, .any, 8, 1⟩,
    ⟨RDX_DUPS_count, .ro, 0, .any, 8, 1⟩,
    ⟨RDX_STALE_count, .ro, 0, .any, 8, 1⟩,
    ⟨RDX_BAD_count, .ro, 0, .any, 8, 1⟩,
    ⟨RDX_WINDOW_REFUSED_count, .ro, 0, .any, 8, 1⟩,
    ⟨RDX_LATE_count, .ro, 0, .any, 8, 1⟩,
    ⟨RDX_ESCAPES_count, .ro, 0, .any, 8, 1⟩,
    ⟨RDX_RES_RETX_count, .ro, 0, .any, 8, 1⟩ ]

def H_RDX_bytes : Fld := ⟨0x1100, 0, 48⟩
def H_RDX_turn : Fld := ⟨0x1100, 48, 1⟩
def H_RDX_next : Fld := ⟨0x1100, 49, 5⟩

/-- What an engine keeps: the bytes of vector store reserved and the turn of its re-injection tiles. -/
def regs_rdxHid : List FDesc :=
  [ ⟨H_RDX_bytes, .ro, 0, .any, 8, 1⟩,
    ⟨H_RDX_turn, .ro, 0, .any, 8, 1⟩,
    ⟨H_RDX_next, .ro, 0, .any, 8, 1⟩ ]

def SYN_SC_ADDR_addr : Fld := ⟨0x400, 0, 20⟩
def SYN_SC_ADDR_valid : Fld := ⟨0x400, 20, 1⟩

def SYN_SC_SEL_table : Fld := ⟨0x408, 0, 2⟩
def SYN_SC_SEL_index : Fld := ⟨0x408, 2, 16⟩
def SYN_SC_SEL_word : Fld := ⟨0x408, 18, 7⟩

def SYN_SC_STATUS_code : Fld := ⟨0x420, 0, 8⟩
def SYN_SC_STATUS_busy : Fld := ⟨0x420, 8, 1⟩
def SYN_SC_STATUS_seq : Fld := ⟨0x420, 32, 32⟩

def SYN_SC_DUPS_count : Fld := ⟨0x428, 0, 48⟩

def SYN_SC_EARLY_count : Fld := ⟨0x430, 0, 48⟩

def SYN_SC_DONE_count : Fld := ⟨0x438, 0, 48⟩

/-- Roost page, small collectives (chapter 8). SYN_SC_DATA is the window of their tables. -/
def regs_synB : List FDesc :=
  [ ⟨SYN_SC_ADDR_addr, .rw, 0, .any, 8, 1⟩,
    ⟨SYN_SC_ADDR_valid, .rw, 0, .any, 8, 1⟩,
    ⟨SYN_SC_SEL_table, .rw, 0, .range 0 2, 8, 1⟩,
    ⟨SYN_SC_SEL_index, .rw, 0, .any, 8, 1⟩,
    ⟨SYN_SC_SEL_word, .rw, 0, .any, 8, 1⟩,
    ⟨SYN_SC_STATUS_code, .ro, 0, .any, 8, 1⟩,
    ⟨SYN_SC_STATUS_busy, .ro, 0, .any, 8, 1⟩,
    ⟨SYN_SC_STATUS_seq, .ro, 0, .any, 8, 1⟩,
    ⟨SYN_SC_DUPS_count, .ro, 0, .any, 8, 1⟩,
    ⟨SYN_SC_EARLY_count, .ro, 0, .any, 8, 1⟩,
    ⟨SYN_SC_DONE_count, .ro, 0, .any, 8, 1⟩ ]

def rdxCtx_sub : Fld := ⟨0, 0, 3⟩
def rdxCtx_partition : Fld := ⟨0, 3, 4⟩
def rdxCtx_op : Fld := ⟨0, 7, 4⟩
def rdxCtx_out_fmt : Fld := ⟨0, 11, 4⟩
def rdxCtx_rnd : Fld := ⟨0, 15, 2⟩
def rdxCtx_sat : Fld := ⟨0, 17, 1⟩
def rdxCtx_quorum : Fld := ⟨0, 18, 1⟩
def rdxCtx_kind : Fld := ⟨0, 19, 1⟩
def rdxCtx_per_line : Fld := ⟨0, 20, 1⟩
def rdxCtx_digest : Fld := ⟨0, 21, 1⟩
def rdxCtx_row_release : Fld := ⟨0, 22, 1⟩
def rdxCtx_store_copy : Fld := ⟨0, 23, 1⟩

def rdxCtx_engine_mask : Fld := ⟨1, 0, 16⟩
def rdxCtx_stripe_log2 : Fld := ⟨1, 16, 4⟩
def rdxCtx_window : Fld := ⟨1, 20, 21⟩
def rdxCtx_ranks : Fld := ⟨1, 41, 11⟩

def rdxCtx_elements : Fld := ⟨2, 0, 32⟩
def rdxCtx_quorum_count : Fld := ⟨2, 32, 16⟩

def rdxCtx_leaves : Fld := ⟨3, 0, 20⟩
def rdxCtx_parent_addr : Fld := ⟨3, 20, 20⟩
def rdxCtx_parent_ctx : Fld := ⟨3, 40, 12⟩

def rdxCtx_counter : Fld := ⟨4, 0, 16⟩
def rdxCtx_epi_prog : Fld := ⟨4, 16, 32⟩

def rdxCtx_seed : Fld := ⟨5, 0, 64⟩

def rdxCtx_store_addr : Fld := ⟨6, 0, 52⟩

def rdxCtx_base : Fld := ⟨7, 0, 48⟩
def rdxCtx_ovf : Fld := ⟨7, 48, 1⟩
def rdxCtx_invalid : Fld := ⟨7, 49, 1⟩
def rdxCtx_escaped : Fld := ⟨7, 50, 1⟩
def rdxCtx_late : Fld := ⟨7, 51, 1⟩
def rdxCtx_fail_code : Fld := ⟨7, 56, 8⟩

/-- Reduction contexts, one store for the part (R190). -/
def tblFields_rdxCtx : List FDesc :=
  [ ⟨rdxCtx_sub, .ro, 0, .any, 1, 1⟩,
    ⟨rdxCtx_partition, .rw, 0, .any, 1, 1⟩,
    ⟨rdxCtx_op, .rw, 0, .any, 1, 1⟩,
    ⟨rdxCtx_out_fmt, .rw, 0, .any, 1, 1⟩,
    ⟨rdxCtx_rnd, .rw, 0, .any, 1, 1⟩,
    ⟨rdxCtx_sat, .rw, 0, .any, 1, 1⟩,
    ⟨rdxCtx_quorum, .rw, 0, .any, 1, 1⟩,
    ⟨rdxCtx_kind, .rw, 0, .any, 1, 1⟩,
    ⟨rdxCtx_per_line, .rw, 0, .any, 1, 1⟩,
    ⟨rdxCtx_digest, .rw, 0, .any, 1, 1⟩,
    ⟨rdxCtx_row_release, .rw, 0, .any, 1, 1⟩,
    ⟨rdxCtx_store_copy, .rw, 0, .any, 1, 1⟩,
    ⟨rdxCtx_engine_mask, .rw, 0, .any, 1, 1⟩,
    ⟨rdxCtx_stripe_log2, .rw, 0, .any, 1, 1⟩,
    ⟨rdxCtx_window, .rw, 0, .any, 1, 1⟩,
    ⟨rdxCtx_ranks, .rw, 0, .any, 1, 1⟩,
    ⟨rdxCtx_elements, .rw, 0, .any, 1, 1⟩,
    ⟨rdxCtx_quorum_count, .rw, 0, .any, 1, 1⟩,
    ⟨rdxCtx_leaves, .rw, 0, .any, 1, 1⟩,
    ⟨rdxCtx_parent_addr, .rw, 0, .any, 1, 1⟩,
    ⟨rdxCtx_parent_ctx, .rw, 0, .any, 1, 1⟩,
    ⟨rdxCtx_counter, .rw, 65535, .any, 1, 1⟩,
    ⟨rdxCtx_epi_prog, .rw, 0, .any, 1, 1⟩,
    ⟨rdxCtx_seed, .rw, 0, .any, 1, 1⟩,
    ⟨rdxCtx_store_addr, .rw, 0, .any, 1, 1⟩,
    ⟨rdxCtx_base, .ro, 0, .any, 1, 1⟩,
    ⟨rdxCtx_ovf, .ro, 0, .any, 1, 1⟩,
    ⟨rdxCtx_invalid, .ro, 0, .any, 1, 1⟩,
    ⟨rdxCtx_escaped, .ro, 0, .any, 1, 1⟩,
    ⟨rdxCtx_late, .ro, 0, .any, 1, 1⟩,
    ⟨rdxCtx_fail_code, .ro, 0, .any, 1, 1⟩ ]

def rdxDigest_round : Fld := ⟨0, 0, 32⟩

def rdxDigest_digest : Fld := ⟨1, 0, 64⟩

/-- The latest digest of each reduction context. -/
def tblFields_rdxDigest : List FDesc :=
  [ ⟨rdxDigest_round, .ro, 0, .any, 1, 1⟩,
    ⟨rdxDigest_digest, .ro, 0, .any, 1, 8⟩ ]

def rdxRank_kind : Fld := ⟨0, 0, 1⟩

/-- Rank entries. Their words are kept with their context; only changes since a capture are numbered here (R34). -/
def tblFields_rdxRank : List FDesc :=
  [ ⟨rdxRank_kind, .ro, 0, .any, 1, 1⟩ ]

def rdxLine_ctx : Fld := ⟨0, 0, 12⟩

/-- Line slots of an engine, kept as the rank entries are. -/
def tblFields_rdxLine : List FDesc :=
  [ ⟨rdxLine_ctx, .ro, 0, .any, 1, 1⟩ ]

def rdxCount_count : Fld := ⟨0, 0, 16⟩

/-- Counts of the count table, kept as the rank entries are. -/
def tblFields_rdxCount : List FDesc :=
  [ ⟨rdxCount_count, .ro, 0, .any, 1, 1⟩ ]

def scSlot_open : Fld := ⟨0, 0, 1⟩
def scSlot_partition : Fld := ⟨0, 1, 4⟩
def scSlot_op : Fld := ⟨0, 5, 4⟩
def scSlot_width : Fld := ⟨0, 9, 1⟩
def scSlot_float : Fld := ⟨0, 10, 1⟩
def scSlot_n : Fld := ⟨0, 11, 5⟩
def scSlot_participants : Fld := ⟨0, 16, 10⟩
def scSlot_part_base : Fld := ⟨0, 26, 16⟩
def scSlot_unsigned : Fld := ⟨0, 42, 1⟩

def scSlot_seq : Fld := ⟨1, 0, 32⟩

/-- Small-collective slots. -/
def tblFields_scSlot : List FDesc :=
  [ ⟨scSlot_open, .ro, 0, .any, 1, 1⟩,
    ⟨scSlot_partition, .rw, 0, .any, 1, 1⟩,
    ⟨scSlot_op, .rw, 0, .any, 1, 1⟩,
    ⟨scSlot_width, .rw, 0, .any, 1, 1⟩,
    ⟨scSlot_float, .rw, 0, .any, 1, 1⟩,
    ⟨scSlot_n, .rw, 0, .range 1 16, 1, 1⟩,
    ⟨scSlot_participants, .rw, 0, .range 1 512, 1, 1⟩,
    ⟨scSlot_part_base, .rw, 0, .any, 1, 1⟩,
    ⟨scSlot_unsigned, .rw, 0, .any, 1, 1⟩,
    ⟨scSlot_seq, .ro, 0, .any, 1, 1⟩ ]

def scPart_port : Fld := ⟨0, 0, 10⟩
def scPart_addr : Fld := ⟨0, 10, 20⟩
def scPart_ctx : Fld := ⟨0, 30, 12⟩
def scPart_valid : Fld := ⟨0, 42, 1⟩

/-- Participants of small collectives. -/
def tblFields_scPart : List FDesc :=
  [ ⟨scPart_port, .rw, 0, .any, 1, 1⟩,
    ⟨scPart_addr, .rw, 0, .any, 1, 1⟩,
    ⟨scPart_ctx, .rw, 0, .any, 1, 1⟩,
    ⟨scPart_valid, .rw, 0, .any, 1, 1⟩ ]

def scResult_seq : Fld := ⟨0, 0, 32⟩
def scResult_valid : Fld := ⟨0, 32, 1⟩
def scResult_ovf : Fld := ⟨0, 33, 1⟩
def scResult_invalid : Fld := ⟨0, 34, 1⟩

def scResult_data : Fld := ⟨1, 0, 64⟩

/-- Results of small collectives. -/
def tblFields_scResult : List FDesc :=
  [ ⟨scResult_seq, .ro, 0, .any, 1, 1⟩,
    ⟨scResult_valid, .ro, 0, .any, 1, 1⟩,
    ⟨scResult_ovf, .ro, 0, .any, 1, 1⟩,
    ⟨scResult_invalid, .ro, 0, .any, 1, 1⟩,
    ⟨scResult_data, .ro, 0, .any, 1, 32⟩ ]

def SYN_TBL_SEL_table : Fld := ⟨0x100, 0, 3⟩
def SYN_TBL_SEL_index : Fld := ⟨0x100, 3, 16⟩
def SYN_TBL_SEL_word : Fld := ⟨0x100, 19, 3⟩

def SYN_WAIT_CFG_wait_ticks : Fld := ⟨0x140, 0, 24⟩
def SYN_WAIT_CFG_enable : Fld := ⟨0x140, 24, 1⟩

def SYN_WAIT_STATUS_count : Fld := ⟨0x148, 0, 9⟩
def SYN_WAIT_STATUS_overflow : Fld := ⟨0x148, 9, 1⟩
def SYN_WAIT_STATUS_cycle : Fld := ⟨0x148, 10, 1⟩

def SYN_SIGNALS_count : Fld := ⟨0x180, 0, 48⟩

def SYN_STALE_SIGNALS_count : Fld := ⟨0x188, 0, 48⟩

def SYN_XLATE_MISS_count : Fld := ⟨0x190, 0, 48⟩

def SYN_WATCH_FIRED_count : Fld := ⟨0x198, 0, 48⟩

def SYN_WATCH_LOST_count : Fld := ⟨0x1a0, 0, 48⟩

def SYN_BAR_GENS_count : Fld := ⟨0x1a8, 0, 48⟩

/-- Roost page, counters, flags and watches (chapter 9). SYN_TBL_DATA is the window of the tables. -/
def regs_synA : List FDesc :=
  [ ⟨SYN_TBL_SEL_table, .rw, 0, .range 0 5, 8, 1⟩,
    ⟨SYN_TBL_SEL_index, .rw, 0, .any, 8, 1⟩,
    ⟨SYN_TBL_SEL_word, .rw, 0, .any, 8, 1⟩,
    ⟨SYN_WAIT_CFG_wait_ticks, .rw, 100000, .any, 8, 1⟩,
    ⟨SYN_WAIT_CFG_enable, .rw, 1, .any, 8, 1⟩,
    ⟨SYN_WAIT_STATUS_count, .ro, 0, .any, 8, 1⟩,
    ⟨SYN_WAIT_STATUS_overflow, .ro, 0, .any, 8, 1⟩,
    ⟨SYN_WAIT_STATUS_cycle, .ro, 0, .any, 8, 1⟩,
    ⟨SYN_SIGNALS_count, .ro, 0, .any, 8, 1⟩,
    ⟨SYN_STALE_SIGNALS_count, .ro, 0, .any, 8, 1⟩,
    ⟨SYN_XLATE_MISS_count, .ro, 0, .any, 8, 1⟩,
    ⟨SYN_WATCH_FIRED_count, .ro, 0, .any, 8, 1⟩,
    ⟨SYN_WATCH_LOST_count, .ro, 0, .any, 8, 1⟩,
    ⟨SYN_BAR_GENS_count, .ro, 0, .any, 8, 1⟩ ]

def synCnt_value : Fld := ⟨0, 0, 64⟩

def synCnt_epoch : Fld := ⟨1, 0, 16⟩
def synCnt_owner_kind : Fld := ⟨1, 16, 2⟩
def synCnt_owner_id : Fld := ⟨1, 18, 12⟩
def synCnt_signaller : Fld := ⟨1, 30, 4⟩
def synCnt_sig_valid : Fld := ⟨1, 34, 1⟩
def synCnt_watches : Fld := ⟨1, 35, 15⟩

/-- Counters of the Roost. -/
def tblFields_synCnt : List FDesc :=
  [ ⟨synCnt_value, .ro, 0, .any, 1, 1⟩,
    ⟨synCnt_epoch, .ro, 0, .any, 1, 1⟩,
    ⟨synCnt_owner_kind, .rw, 0, .range 0 2, 1, 1⟩,
    ⟨synCnt_owner_id, .rw, 0, .any, 1, 1⟩,
    ⟨synCnt_signaller, .rw, 0, .any, 1, 1⟩,
    ⟨synCnt_sig_valid, .rw, 0, .any, 1, 1⟩,
    ⟨synCnt_watches, .ro, 0, .any, 1, 1⟩ ]

def synFlag_value : Fld := ⟨0, 0, 1⟩
def synFlag_partition : Fld := ⟨0, 1, 4⟩
def synFlag_owned : Fld := ⟨0, 5, 1⟩
def synFlag_redundant : Fld := ⟨0, 6, 16⟩
def synFlag_epoch : Fld := ⟨0, 22, 16⟩
def synFlag_watches : Fld := ⟨0, 38, 15⟩

/-- Flags of the Roost. -/
def tblFields_synFlag : List FDesc :=
  [ ⟨synFlag_value, .ro, 0, .any, 1, 1⟩,
    ⟨synFlag_partition, .rw, 0, .any, 1, 1⟩,
    ⟨synFlag_owned, .rw, 0, .any, 1, 1⟩,
    ⟨synFlag_redundant, .ro, 0, .any, 1, 1⟩,
    ⟨synFlag_epoch, .ro, 0, .any, 1, 1⟩,
    ⟨synFlag_watches, .ro, 0, .any, 1, 1⟩ ]

def synWatch_state : Fld := ⟨0, 0, 1⟩
def synWatch_kind : Fld := ⟨0, 1, 1⟩
def synWatch_want : Fld := ⟨0, 2, 1⟩
def synWatch_target_id : Fld := ⟨0, 3, 16⟩
def synWatch_epoch : Fld := ⟨0, 19, 16⟩
def synWatch_partition : Fld := ⟨0, 35, 4⟩
def synWatch_owned : Fld := ⟨0, 39, 1⟩
def synWatch_dest : Fld := ⟨0, 40, 8⟩
def synWatch_dest_kind : Fld := ⟨0, 48, 2⟩

def synWatch_target : Fld := ⟨1, 0, 64⟩

def synWatch_cookie : Fld := ⟨2, 0, 64⟩

def synWatch_host_addr : Fld := ⟨3, 0, 52⟩

def synWatch_vector : Fld := ⟨4, 0, 11⟩
def synWatch_irq : Fld := ⟨4, 11, 1⟩
def synWatch_wait_ticks : Fld := ⟨4, 32, 24⟩

def synWatch_reg_seq : Fld := ⟨5, 0, 32⟩

/-- Watch slots of the Roost. -/
def tblFields_synWatch : List FDesc :=
  [ ⟨synWatch_state, .ro, 0, .any, 1, 1⟩,
    ⟨synWatch_kind, .rw, 0, .any, 1, 1⟩,
    ⟨synWatch_want, .rw, 0, .any, 1, 1⟩,
    ⟨synWatch_target_id, .rw, 0, .any, 1, 1⟩,
    ⟨synWatch_epoch, .rw, 0, .any, 1, 1⟩,
    ⟨synWatch_partition, .rw, 0, .any, 1, 1⟩,
    ⟨synWatch_owned, .rw, 0, .any, 1, 1⟩,
    ⟨synWatch_dest, .rw, 0, .any, 1, 1⟩,
    ⟨synWatch_dest_kind, .rw, 0, .range 0 2, 1, 1⟩,
    ⟨synWatch_target, .rw, 0, .any, 1, 1⟩,
    ⟨synWatch_cookie, .rw, 0, .any, 1, 1⟩,
    ⟨synWatch_host_addr, .rw, 0, .any, 1, 1⟩,
    ⟨synWatch_vector, .rw, 0, .any, 1, 1⟩,
    ⟨synWatch_irq, .rw, 0, .any, 1, 1⟩,
    ⟨synWatch_wait_ticks, .ro, 0, .any, 1, 1⟩,
    ⟨synWatch_reg_seq, .ro, 0, .any, 1, 1⟩ ]

def synXlate_base : Fld := ⟨0, 0, 16⟩
def synXlate_length : Fld := ⟨0, 16, 13⟩
def synXlate_valid : Fld := ⟨0, 29, 1⟩

/-- Translation segments: partition times 48, plus kind times 16, plus segment. -/
def tblFields_synXlate : List FDesc :=
  [ ⟨synXlate_base, .rw, 0, .any, 1, 1⟩,
    ⟨synXlate_length, .rw, 0, .any, 1, 1⟩,
    ⟨synXlate_valid, .rw, 0, .any, 1, 1⟩ ]

def synBar_out : Fld := ⟨0, 0, 16⟩
def synBar_n_minus_1 : Fld := ⟨0, 16, 3⟩
def synBar_armed : Fld := ⟨0, 19, 1⟩
def synBar_partition : Fld := ⟨0, 20, 4⟩
def synBar_owned : Fld := ⟨0, 24, 1⟩

def synBar_period : Fld := ⟨1, 0, 48⟩

def synBar_members : Fld := ⟨2, 0, 64⟩

def synBar_generations : Fld := ⟨4, 0, 64⟩

def synBar_g : Fld := ⟨5, 0, 64⟩

/-- Barriers, with the G of R243 in a word that no window shows. -/
def tblFields_synBar : List FDesc :=
  [ ⟨synBar_out, .rw, 0, .any, 1, 1⟩,
    ⟨synBar_n_minus_1, .rw, 0, .any, 1, 1⟩,
    ⟨synBar_armed, .ro, 0, .any, 1, 1⟩,
    ⟨synBar_partition, .rw, 0, .any, 1, 1⟩,
    ⟨synBar_owned, .rw, 0, .any, 1, 1⟩,
    ⟨synBar_period, .rw, 0, .any, 1, 1⟩,
    ⟨synBar_members, .rw, 0, .any, 1, 2⟩,
    ⟨synBar_generations, .ro, 0, .any, 1, 1⟩,
    ⟨synBar_g, .ro, 0, .any, 1, 1⟩ ]

def synWf_watch : Fld := ⟨0, 0, 14⟩
def synWf_target_id : Fld := ⟨0, 14, 16⟩
def synWf_waiter : Fld := ⟨0, 30, 4⟩
def synWf_signaller : Fld := ⟨0, 34, 4⟩
def synWf_sig_valid : Fld := ⟨0, 38, 1⟩
def synWf_in_cycle : Fld := ⟨0, 39, 1⟩
def synWf_ticks : Fld := ⟨0, 40, 24⟩

def synWf_value : Fld := ⟨1, 0, 64⟩

/-- Wait-for entries of the Roost. -/
def tblFields_synWf : List FDesc :=
  [ ⟨synWf_watch, .ro, 0, .any, 1, 1⟩,
    ⟨synWf_target_id, .ro, 0, .any, 1, 1⟩,
    ⟨synWf_waiter, .ro, 0, .any, 1, 1⟩,
    ⟨synWf_signaller, .ro, 0, .any, 1, 1⟩,
    ⟨synWf_sig_valid, .ro, 0, .any, 1, 1⟩,
    ⟨synWf_in_cycle, .ro, 0, .any, 1, 1⟩,
    ⟨synWf_ticks, .ro, 0, .any, 1, 1⟩,
    ⟨synWf_value, .ro, 0, .any, 1, 1⟩ ]

def MAC_ARRAY_number : Fld := ⟨0x100, 0, 4⟩
def MAC_ARRAY_in_gang : Fld := ⟨0x100, 4, 1⟩

def MAC_LAG_last_ops : Fld := ⟨0x108, 0, 32⟩
def MAC_LAG_windows_over : Fld := ⟨0x108, 32, 16⟩
def MAC_LAG_over : Fld := ⟨0x108, 48, 1⟩

def MAC_STEPS_steps : Fld := ⟨0x110, 0, 48⟩

def MAC_STORE_BYTES_bytes : Fld := ⟨0x118, 0, 48⟩

/-- MAC page, every array die (chapter 11). MAC_ARRAY.number and in_gang are read from the die's place and the Gang. -/
def regs_mac : List FDesc :=
  [ ⟨MAC_ARRAY_number, .ro, 0, .any, 8, 1⟩,
    ⟨MAC_ARRAY_in_gang, .ro, 0, .any, 8, 1⟩,
    ⟨MAC_LAG_last_ops, .ro, 0, .any, 8, 1⟩,
    ⟨MAC_LAG_windows_over, .ro, 0, .any, 8, 1⟩,
    ⟨MAC_LAG_over, .ro, 0, .any, 8, 1⟩,
    ⟨MAC_STEPS_steps, .ro, 0, .any, 8, 1⟩,
    ⟨MAC_STORE_BYTES_bytes, .ro, 0, .any, 8, 1⟩ ]

def MAC_GANG_CFG_auto_exclude : Fld := ⟨0x200, 0, 1⟩
def MAC_GANG_CFG_lag_window : Fld := ⟨0x200, 1, 5⟩
def MAC_GANG_CFG_lag_threshold : Fld := ⟨0x200, 6, 8⟩
def MAC_GANG_CFG_auto_max : Fld := ⟨0x200, 14, 3⟩

def MAC_GANG_STATUS_in_service : Fld := ⟨0x208, 0, 16⟩
def MAC_GANG_STATUS_excluded : Fld := ⟨0x208, 16, 16⟩
def MAC_GANG_STATUS_partition : Fld := ⟨0x208, 32, 4⟩
def MAC_GANG_STATUS_busy : Fld := ⟨0x208, 36, 1⟩
def MAC_GANG_STATUS_vec_busy : Fld := ⟨0x208, 37, 1⟩

def MAC_GANG_OPS_count : Fld := ⟨0x210, 0, 48⟩

def MAC_PT_SEL_partition : Fld := ⟨0x218, 0, 4⟩
def MAC_PT_SEL_word : Fld := ⟨0x218, 4, 4⟩

def MAC_CMD_ADDR_pc : Fld := ⟨0x230, 0, 48⟩

def MAC_CMD_STATUS_code : Fld := ⟨0x238, 0, 8⟩
def MAC_CMD_STATUS_busy : Fld := ⟨0x238, 8, 1⟩
def MAC_CMD_STATUS_seq : Fld := ⟨0x238, 32, 32⟩

def MAC_WATCH_UNMATCHED_count : Fld := ⟨0x240, 0, 48⟩

def MAC_TRAIN_SEL_partition : Fld := ⟨0x300, 0, 4⟩
def MAC_TRAIN_SEL_entry : Fld := ⟨0x300, 4, 8⟩
def MAC_TRAIN_SEL_word : Fld := ⟨0x300, 12, 4⟩
def MAC_TRAIN_SEL_table : Fld := ⟨0x300, 16, 1⟩

def MAC_TRAIN_STATUS_code : Fld := ⟨0x318, 0, 8⟩
def MAC_TRAIN_STATUS_busy : Fld := ⟨0x318, 8, 1⟩
def MAC_TRAIN_STATUS_seq : Fld := ⟨0x318, 32, 32⟩

def H_LAG_ops : Fld := ⟨0x1000, 0, 32⟩

/-- Gang and training registers of the first array die's page (chapters 11 and 12). MAC_PT_DATA and MAC_TRAIN_DATA are windows. -/
def regs_macGang : List FDesc :=
  [ ⟨MAC_GANG_CFG_auto_exclude, .rw, 1, .any, 8, 1⟩,
    ⟨MAC_GANG_CFG_lag_window, .rw, 12, .range 4 20, 8, 1⟩,
    ⟨MAC_GANG_CFG_lag_threshold, .rw, 128, .any, 8, 1⟩,
    ⟨MAC_GANG_CFG_auto_max, .rw, 1, .range 0 4, 8, 1⟩,
    ⟨MAC_GANG_STATUS_in_service, .ro, 0, .any, 8, 1⟩,
    ⟨MAC_GANG_STATUS_excluded, .ro, 0, .any, 8, 1⟩,
    ⟨MAC_GANG_STATUS_partition, .ro, 0, .any, 8, 1⟩,
    ⟨MAC_GANG_STATUS_busy, .ro, 0, .any, 8, 1⟩,
    ⟨MAC_GANG_STATUS_vec_busy, .ro, 0, .any, 8, 1⟩,
    ⟨MAC_GANG_OPS_count, .ro, 0, .any, 8, 1⟩,
    ⟨MAC_PT_SEL_partition, .rw, 0, .any, 8, 1⟩,
    ⟨MAC_PT_SEL_word, .rw, 0, .any, 8, 1⟩,
    ⟨MAC_CMD_ADDR_pc, .rw, 0, .any, 8, 1⟩,
    ⟨MAC_CMD_STATUS_code, .ro, 0, .any, 8, 1⟩,
    ⟨MAC_CMD_STATUS_busy, .ro, 0, .any, 8, 1⟩,
    ⟨MAC_CMD_STATUS_seq, .ro, 0, .any, 8, 1⟩,
    ⟨MAC_WATCH_UNMATCHED_count, .ro, 0, .any, 8, 1⟩,
    ⟨MAC_TRAIN_SEL_partition, .rw, 0, .any, 8, 1⟩,
    ⟨MAC_TRAIN_SEL_entry, .rw, 0, .any, 8, 1⟩,
    ⟨MAC_TRAIN_SEL_word, .rw, 0, .any, 8, 1⟩,
    ⟨MAC_TRAIN_SEL_table, .rw, 0, .any, 8, 1⟩,
    ⟨MAC_TRAIN_STATUS_code, .ro, 0, .any, 8, 1⟩,
    ⟨MAC_TRAIN_STATUS_busy, .ro, 0, .any, 8, 1⟩,
    ⟨MAC_TRAIN_STATUS_seq, .ro, 0, .any, 8, 1⟩,
    ⟨H_LAG_ops, .ro, 0, .any, 8, 1⟩ ]

def VEC_STEPS_steps : Fld := ⟨0x100, 0, 48⟩

def VEC_EPI_STEPS_steps : Fld := ⟨0x108, 0, 48⟩

def VEC_SHA_BYTES_bytes : Fld := ⟨0x110, 0, 48⟩

def VEC_STORE_GANG_kib : Fld := ⟨0x118, 0, 16⟩

def VEC_STAGE_MON_count : Fld := ⟨0x200, 0, 32⟩
def VEC_STAGE_MON_windows : Fld := ⟨0x200, 32, 16⟩

/-- VEC page (chapters 11 and 13). VEC_STORE_GANG is what reduction does not reserve (R282). -/
def regs_vec : List FDesc :=
  [ ⟨VEC_STEPS_steps, .ro, 0, .any, 8, 1⟩,
    ⟨VEC_EPI_STEPS_steps, .ro, 0, .any, 8, 1⟩,
    ⟨VEC_SHA_BYTES_bytes, .ro, 0, .any, 8, 1⟩,
    ⟨VEC_STORE_GANG_kib, .ro, 8192, .any, 8, 1⟩,
    ⟨VEC_STAGE_MON_count, .ro, 0, .any, 8, 1⟩,
    ⟨VEC_STAGE_MON_windows, .ro, 0, .any, 8, 1⟩ ]

def macPart_quantum : Fld := ⟨0, 0, 24⟩
def macPart_enabled : Fld := ⟨0, 24, 1⟩
def macPart_strict : Fld := ⟨0, 25, 1⟩

def macPart_desc_base : Fld := ⟨1, 0, 48⟩

def macPart_send_base : Fld := ⟨2, 0, 48⟩

def macPart_cpl_base : Fld := ⟨3, 0, 48⟩
def macPart_cpl_host : Fld := ⟨3, 48, 1⟩
def macPart_cpl_log2 : Fld := ⟨3, 49, 4⟩

def macPart_cpl_written : Fld := ⟨4, 0, 32⟩
def macPart_cpl_consumed : Fld := ⟨4, 32, 32⟩

def macPart_save_base : Fld := ⟨5, 0, 48⟩

def macPart_sr_seed : Fld := ⟨6, 0, 64⟩

def macPart_sticky : Fld := ⟨7, 0, 16⟩
def macPart_event_mask : Fld := ⟨7, 16, 16⟩

def macPart_deficit : Fld := ⟨8, 0, 64⟩

def macPart_vdeficit : Fld := ⟨9, 0, 64⟩

def macPart_pc : Fld := ⟨10, 0, 48⟩
def macPart_state : Fld := ⟨10, 48, 3⟩
def macPart_code : Fld := ⟨10, 51, 8⟩

def macPart_ops : Fld := ⟨14, 0, 48⟩

def macPart_steps : Fld := ⟨15, 0, 48⟩

/-- Gang partition entries (chapter 11). -/
def tblFields_macPart : List FDesc :=
  [ ⟨macPart_quantum, .rw, 65536, .range 1024 16777215, 1, 1⟩,
    ⟨macPart_enabled, .rw, 0, .any, 1, 1⟩,
    ⟨macPart_strict, .ro, 0, .any, 1, 1⟩,
    ⟨macPart_desc_base, .rw, 0, .any, 1, 1⟩,
    ⟨macPart_send_base, .rw, 0, .any, 1, 1⟩,
    ⟨macPart_cpl_base, .rw, 0, .any, 1, 1⟩,
    ⟨macPart_cpl_host, .rw, 0, .any, 1, 1⟩,
    ⟨macPart_cpl_log2, .rw, 6, .range 6 15, 1, 1⟩,
    ⟨macPart_cpl_written, .ro, 0, .any, 1, 1⟩,
    ⟨macPart_cpl_consumed, .rw, 0, .any, 1, 1⟩,
    ⟨macPart_save_base, .rw, 0, .any, 1, 1⟩,
    ⟨macPart_sr_seed, .rw, 0, .any, 1, 1⟩,
    ⟨macPart_sticky, .w1c, 0, .any, 1, 1⟩,
    ⟨macPart_event_mask, .rw, 0, .any, 1, 1⟩,
    ⟨macPart_deficit, .ro, 0, .any, 1, 1⟩,
    ⟨macPart_vdeficit, .ro, 0, .any, 1, 1⟩,
    ⟨macPart_pc, .ro, 0, .any, 1, 4⟩,
    ⟨macPart_state, .ro, 0, .any, 1, 4⟩,
    ⟨macPart_code, .ro, 0, .any, 1, 4⟩,
    ⟨macPart_ops, .ro, 0, .any, 1, 1⟩,
    ⟨macPart_steps, .ro, 0, .any, 1, 1⟩ ]

def macTrain_train_enable : Fld := ⟨0, 0, 1⟩
def macTrain_want_t : Fld := ⟨0, 1, 1⟩
def macTrain_policy : Fld := ⟨0, 2, 1⟩
def macTrain_t_kib : Fld := ⟨0, 3, 16⟩
def macTrain_mask_kib : Fld := ⟨0, 19, 16⟩
def macTrain_plan_valid : Fld := ⟨0, 35, 1⟩

def macTrain_t_base : Fld := ⟨1, 0, 26⟩

def macTrain_ret_hbm : Fld := ⟨2, 0, 48⟩

def macTrain_ret_hbm_mib : Fld := ⟨3, 0, 32⟩

def macTrain_mask_off : Fld := ⟨4, 0, 25⟩

def macTrain_first_on_chip : Fld := ⟨5, 0, 9⟩

def macTrain_fwd_work : Fld := ⟨6, 0, 64⟩

def macTrain_dx_work : Fld := ⟨7, 0, 64⟩

def macTrain_dw_work : Fld := ⟨8, 0, 64⟩

/-- Training configurations (chapter 12). -/
def tblFields_macTrain : List FDesc :=
  [ ⟨macTrain_train_enable, .rw, 0, .any, 1, 1⟩,
    ⟨macTrain_want_t, .rw, 0, .any, 1, 1⟩,
    ⟨macTrain_policy, .ro, 0, .any, 1, 1⟩,
    ⟨macTrain_t_kib, .rw, 0, .any, 1, 1⟩,
    ⟨macTrain_mask_kib, .rw, 0, .any, 1, 1⟩,
    ⟨macTrain_plan_valid, .ro, 0, .any, 1, 1⟩,
    ⟨macTrain_t_base, .rw, 0, .any, 1, 1⟩,
    ⟨macTrain_ret_hbm, .rw, 0, .any, 1, 1⟩,
    ⟨macTrain_ret_hbm_mib, .rw, 0, .any, 1, 1⟩,
    ⟨macTrain_mask_off, .rw, 0, .any, 1, 1⟩,
    ⟨macTrain_first_on_chip, .ro, 256, .any, 1, 1⟩,
    ⟨macTrain_fwd_work, .ro, 0, .any, 1, 1⟩,
    ⟨macTrain_dx_work, .ro, 0, .any, 1, 1⟩,
    ⟨macTrain_dw_work, .ro, 0, .any, 1, 1⟩ ]

def macLayer_w : Fld := ⟨0, 0, 12⟩
def macLayer_wt : Fld := ⟨0, 12, 12⟩
def macLayer_valid : Fld := ⟨0, 24, 1⟩
def macLayer_act : Fld := ⟨0, 25, 2⟩
def macLayer_mask_desc : Fld := ⟨0, 27, 12⟩
def macLayer_g_fmt : Fld := ⟨0, 39, 5⟩
def macLayer_m_max : Fld := ⟨0, 44, 20⟩

def macLayer_grad_addr : Fld := ⟨1, 0, 52⟩
def macLayer_dx_needed : Fld := ⟨1, 52, 1⟩
def macLayer_dw_needed : Fld := ⟨1, 53, 1⟩
def macLayer_plan_fmt : Fld := ⟨1, 54, 5⟩

def macLayer_w_gen : Fld := ⟨2, 0, 16⟩
def macLayer_wt_gen : Fld := ⟨2, 16, 16⟩
def macLayer_grad_count : Fld := ⟨2, 32, 16⟩
def macLayer_retained : Fld := ⟨2, 48, 1⟩
def macLayer_on_chip : Fld := ⟨2, 49, 1⟩
def macLayer_dx_done : Fld := ⟨2, 50, 1⟩
def macLayer_dw_done : Fld := ⟨2, 51, 1⟩
def macLayer_mask_valid : Fld := ⟨2, 52, 1⟩

def macLayer_x_rows : Fld := ⟨3, 0, 20⟩
def macLayer_x_fmt : Fld := ⟨3, 20, 5⟩
def macLayer_ret_off : Fld := ⟨3, 25, 39⟩

/-- Layer entries, 256 for each partition (chapter 12). -/
def tblFields_macLayer : List FDesc :=
  [ ⟨macLayer_w, .rw, 0, .any, 1, 1⟩,
    ⟨macLayer_wt, .rw, 4095, .any, 1, 1⟩,
    ⟨macLayer_valid, .rw, 0, .any, 1, 1⟩,
    ⟨macLayer_act, .rw, 0, .range 0 2, 1, 1⟩,
    ⟨macLayer_mask_desc, .rw, 0, .any, 1, 1⟩,
    ⟨macLayer_g_fmt, .rw, 2, .range 0 20, 1, 1⟩,
    ⟨macLayer_m_max, .rw, 0, .any, 1, 1⟩,
    ⟨macLayer_grad_addr, .rw, 0, .any, 1, 1⟩,
    ⟨macLayer_dx_needed, .rw, 1, .any, 1, 1⟩,
    ⟨macLayer_dw_needed, .rw, 1, .any, 1, 1⟩,
    ⟨macLayer_plan_fmt, .rw, 2, .range 0 20, 1, 1⟩,
    ⟨macLayer_w_gen, .ro, 0, .any, 1, 1⟩,
    ⟨macLayer_wt_gen, .ro, 0, .any, 1, 1⟩,
    ⟨macLayer_grad_count, .ro, 0, .any, 1, 1⟩,
    ⟨macLayer_retained, .ro, 0, .any, 1, 1⟩,
    ⟨macLayer_on_chip, .ro, 0, .any, 1, 1⟩,
    ⟨macLayer_dx_done, .ro, 0, .any, 1, 1⟩,
    ⟨macLayer_dw_done, .ro, 0, .any, 1, 1⟩,
    ⟨macLayer_mask_valid, .ro, 0, .any, 1, 1⟩,
    ⟨macLayer_x_rows, .ro, 0, .any, 1, 1⟩,
    ⟨macLayer_x_fmt, .ro, 0, .any, 1, 1⟩,
    ⟨macLayer_ret_off, .ro, 0, .any, 1, 1⟩ ]

def XING_STATUS_aligned : Fld := ⟨0x708, 0, 1⟩
def XING_STATUS_occupancy : Fld := ⟨0x708, 1, 4⟩
def XING_STATUS_target : Fld := ⟨0x708, 5, 4⟩
def XING_STATUS_depth : Fld := ⟨0x708, 9, 5⟩

def XING_REALIGNS_count : Fld := ⟨0x718, 0, 48⟩

def XING_SLIPS_count : Fld := ⟨0x720, 0, 48⟩

/-- Crossing registers of a lane page (chapter 13). -/
def regs_xingLane : List FDesc :=
  [ ⟨XING_STATUS_aligned, .ro, 0, .any, 8, 2⟩,
    ⟨XING_STATUS_occupancy, .ro, 0, .any, 8, 2⟩,
    ⟨XING_STATUS_target, .ro, 1, .any, 8, 2⟩,
    ⟨XING_STATUS_depth, .ro, 4, .any, 8, 2⟩,
    ⟨XING_REALIGNS_count, .ro, 0, .any, 8, 1⟩,
    ⟨XING_SLIPS_count, .ro, 0, .any, 8, 1⟩ ]

def HXING_STATUS_aligned : Fld := ⟨0x708, 0, 1⟩
def HXING_STATUS_occupancy : Fld := ⟨0x708, 1, 4⟩
def HXING_STATUS_target : Fld := ⟨0x708, 5, 4⟩
def HXING_STATUS_depth : Fld := ⟨0x708, 9, 5⟩

def HXING_REALIGNS_count : Fld := ⟨0x718, 0, 48⟩

def HXING_SLIPS_count : Fld := ⟨0x720, 0, 48⟩

/-- Crossing registers of an HBM page and of the PCI page (chapter 13). -/
def regs_xingHbm : List FDesc :=
  [ ⟨HXING_STATUS_aligned, .ro, 0, .any, 8, 2⟩,
    ⟨HXING_STATUS_occupancy, .ro, 0, .any, 8, 2⟩,
    ⟨HXING_STATUS_target, .ro, 4, .any, 8, 2⟩,
    ⟨HXING_STATUS_depth, .ro, 16, .any, 8, 2⟩,
    ⟨HXING_REALIGNS_count, .ro, 0, .any, 8, 1⟩,
    ⟨HXING_SLIPS_count, .ro, 0, .any, 8, 1⟩ ]

def SWT_STAGE_MON_count : Fld := ⟨0x280, 0, 32⟩
def SWT_STAGE_MON_windows : Fld := ⟨0x280, 32, 16⟩

/-- Stage monitor of a switch tile (chapter 13). -/
def regs_swtMon : List FDesc :=
  [ ⟨SWT_STAGE_MON_count, .ro, 0, .any, 8, 1⟩,
    ⟨SWT_STAGE_MON_windows, .ro, 0, .any, 8, 1⟩ ]

def CHR_LIFECYCLE_state : Fld := ⟨0x100, 0, 2⟩
def CHR_LIFECYCLE_changes : Fld := ⟨0x100, 16, 32⟩

def CHR_DEBUG_level : Fld := ⟨0x108, 0, 2⟩
def CHR_DEBUG_session : Fld := ⟨0x108, 2, 1⟩
def CHR_DEBUG_consent : Fld := ⟨0x108, 3, 16⟩

def CHR_SERIAL_serial : Fld := ⟨0x110, 0, 64⟩

def CHR_BOOT_COUNT_count : Fld := ⟨0x118, 0, 32⟩

def CHR_OWNER_KEY_digest : Fld := ⟨0x120, 0, 64⟩

def CHR_TBL_SEL_table : Fld := ⟨0x1c0, 0, 2⟩
def CHR_TBL_SEL_index : Fld := ⟨0x1c0, 2, 10⟩
def CHR_TBL_SEL_word : Fld := ⟨0x1c0, 12, 9⟩

def CHR_TOKENS_REFUSED_count : Fld := ⟨0x1d0, 0, 48⟩

def CHR_CMD_op : Fld := ⟨0x200, 0, 4⟩
def CHR_CMD_partition : Fld := ⟨0x200, 4, 4⟩
def CHR_CMD_kind : Fld := ⟨0x200, 8, 1⟩
def CHR_CMD_index : Fld := ⟨0x200, 9, 14⟩

def CHR_CMD_ADDR_addr : Fld := ⟨0x208, 0, 52⟩
def CHR_CMD_ADDR_host : Fld := ⟨0x208, 52, 1⟩

def CHR_CMD_ADDR2_addr : Fld := ⟨0x210, 0, 52⟩
def CHR_CMD_ADDR2_space : Fld := ⟨0x210, 52, 3⟩
def CHR_CMD_ADDR2_host : Fld := ⟨0x210, 55, 1⟩

def CHR_CMD_STATUS_code : Fld := ⟨0x218, 0, 8⟩
def CHR_CMD_STATUS_busy : Fld := ⟨0x218, 8, 1⟩
def CHR_CMD_STATUS_seq : Fld := ⟨0x218, 32, 32⟩

/-- CHR page (chapter 14). Owner-key digest, table data and the secret keys are computed when they are read. -/
def regs_chr : List FDesc :=
  [ ⟨CHR_LIFECYCLE_state, .ro, 1, .any, 8, 1⟩,
    ⟨CHR_LIFECYCLE_changes, .ro, 0, .any, 8, 1⟩,
    ⟨CHR_DEBUG_level, .ro, 0, .any, 8, 1⟩,
    ⟨CHR_DEBUG_session, .ro, 0, .any, 8, 1⟩,
    ⟨CHR_DEBUG_consent, .ro, 0, .any, 8, 1⟩,
    ⟨CHR_SERIAL_serial, .ro, 0, .any, 8, 1⟩,
    ⟨CHR_BOOT_COUNT_count, .ro, 1, .any, 8, 1⟩,
    ⟨CHR_OWNER_KEY_digest, .ro, 0, .any, 8, 8⟩,
    ⟨CHR_TBL_SEL_table, .rw, 0, .range 0 2, 8, 1⟩,
    ⟨CHR_TBL_SEL_index, .rw, 0, .any, 8, 1⟩,
    ⟨CHR_TBL_SEL_word, .rw, 0, .any, 8, 1⟩,
    ⟨CHR_TOKENS_REFUSED_count, .ro, 0, .any, 8, 1⟩,
    ⟨CHR_CMD_op, .wo, 0, .range 1 14, 32, 17⟩,
    ⟨CHR_CMD_partition, .wo, 0, .any, 32, 17⟩,
    ⟨CHR_CMD_kind, .wo, 0, .any, 32, 17⟩,
    ⟨CHR_CMD_index, .wo, 0, .any, 32, 17⟩,
    ⟨CHR_CMD_ADDR_addr, .rw, 0, .any, 32, 17⟩,
    ⟨CHR_CMD_ADDR_host, .rw, 0, .any, 32, 17⟩,
    ⟨CHR_CMD_ADDR2_addr, .rw, 0, .any, 32, 17⟩,
    ⟨CHR_CMD_ADDR2_space, .rw, 0, .any, 32, 17⟩,
    ⟨CHR_CMD_ADDR2_host, .rw, 0, .any, 32, 17⟩,
    ⟨CHR_CMD_STATUS_code, .ro, 0, .any, 32, 17⟩,
    ⟨CHR_CMD_STATUS_busy, .ro, 0, .any, 32, 17⟩,
    ⟨CHR_CMD_STATUS_seq, .ro, 0, .any, 32, 17⟩ ]

def DBG_STATUS_level : Fld := ⟨0x100, 0, 2⟩
def DBG_STATUS_session : Fld := ⟨0x100, 2, 1⟩
def DBG_STATUS_halted : Fld := ⟨0x100, 3, 16⟩
def DBG_STATUS_all_halted : Fld := ⟨0x100, 19, 1⟩

def DBG_SESSIONS_count : Fld := ⟨0x108, 0, 48⟩

def DBG_DENIED_count : Fld := ⟨0x110, 0, 48⟩

/-- DBG page (chapter 14). -/
def regs_dbg : List FDesc :=
  [ ⟨DBG_STATUS_level, .ro, 0, .any, 8, 1⟩,
    ⟨DBG_STATUS_session, .ro, 0, .any, 8, 1⟩,
    ⟨DBG_STATUS_halted, .ro, 0, .any, 8, 1⟩,
    ⟨DBG_STATUS_all_halted, .ro, 0, .any, 8, 1⟩,
    ⟨DBG_SESSIONS_count, .ro, 0, .any, 8, 1⟩,
    ⟨DBG_DENIED_count, .ro, 0, .any, 8, 1⟩ ]

def chrPart_state : Fld := ⟨0, 0, 2⟩
def chrPart_strict : Fld := ⟨0, 2, 1⟩
def chrPart_halted : Fld := ⟨0, 3, 1⟩
def chrPart_consent : Fld := ⟨0, 4, 1⟩
def chrPart_epoch : Fld := ⟨0, 32, 32⟩

def chrPart_create_count : Fld := ⟨1, 0, 32⟩
def chrPart_consent_count : Fld := ⟨1, 32, 32⟩

def chrPart_ctx_base : Fld := ⟨2, 0, 12⟩
def chrPart_ctx_count : Fld := ⟨2, 12, 13⟩

def chrPart_tenant_key : Fld := ⟨8, 0, 64⟩

def chrPart_load_log : Fld := ⟨16, 0, 64⟩

def chrPart_ka_public : Fld := ⟨24, 0, 64⟩

def chrPart_ka_private : Fld := ⟨48, 0, 64⟩

def chrPart_slot : Fld := ⟨64, 0, 64⟩

/-- Partition entry of the CHR page, table 0 (R368). -/
def tblFields_chrPart : List FDesc :=
  [ ⟨chrPart_state, .ro, 0, .any, 1, 1⟩,
    ⟨chrPart_strict, .ro, 0, .any, 1, 1⟩,
    ⟨chrPart_halted, .ro, 0, .any, 1, 1⟩,
    ⟨chrPart_consent, .ro, 0, .any, 1, 1⟩,
    ⟨chrPart_epoch, .ro, 0, .any, 1, 1⟩,
    ⟨chrPart_create_count, .ro, 0, .any, 1, 1⟩,
    ⟨chrPart_consent_count, .ro, 0, .any, 1, 1⟩,
    ⟨chrPart_ctx_base, .rw, 0, .any, 1, 1⟩,
    ⟨chrPart_ctx_count, .rw, 0, .range 0 4096, 1, 1⟩,
    ⟨chrPart_tenant_key, .ro, 0, .any, 1, 8⟩,
    ⟨chrPart_load_log, .ro, 0, .any, 1, 8⟩,
    ⟨chrPart_ka_public, .ro, 0, .any, 1, 17⟩,
    ⟨chrPart_ka_private, .ro, 0, .any, 1, 9⟩,
    ⟨chrPart_slot, .ro, 0, .any, 1, 32⟩ ]

def chrRegion_base : Fld := ⟨0, 0, 52⟩
def chrRegion_space : Fld := ⟨0, 52, 3⟩

def chrRegion_length : Fld := ⟨1, 0, 52⟩

def chrRegion_partition : Fld := ⟨2, 0, 4⟩
def chrRegion_owned : Fld := ⟨2, 4, 1⟩
def chrRegion_valid : Fld := ⟨2, 5, 1⟩
def chrRegion_erasing : Fld := ⟨2, 6, 1⟩

def chrRegion_acl : Fld := ⟨3, 0, 64⟩

/-- Region entry of the CHR page, table 1 (R365). -/
def tblFields_chrRegion : List FDesc :=
  [ ⟨chrRegion_base, .ro, 0, .any, 1, 1⟩,
    ⟨chrRegion_space, .ro, 0, .any, 1, 1⟩,
    ⟨chrRegion_length, .ro, 0, .any, 1, 1⟩,
    ⟨chrRegion_partition, .ro, 0, .any, 1, 1⟩,
    ⟨chrRegion_owned, .ro, 0, .any, 1, 1⟩,
    ⟨chrRegion_valid, .ro, 0, .any, 1, 1⟩,
    ⟨chrRegion_erasing, .ro, 0, .any, 1, 1⟩,
    ⟨chrRegion_acl, .ro, 0, .any, 1, 8⟩ ]

def chrCert_bytes : Fld := ⟨0, 0, 64⟩

/-- Certificates and the boot record, table 2 of the CHR page, as bytes in address order. -/
def tblFields_chrCert : List FDesc :=
  [ ⟨chrCert_bytes, .ro, 0, .any, 1, 512⟩ ]

def FW_SLOTS_rev_a : Fld := ⟨0x100, 0, 16⟩
def FW_SLOTS_rev_b : Fld := ⟨0x100, 16, 16⟩
def FW_SLOTS_running : Fld := ⟨0x100, 32, 1⟩
def FW_SLOTS_committed : Fld := ⟨0x100, 33, 1⟩
def FW_SLOTS_state : Fld := ⟨0x100, 34, 2⟩
def FW_SLOTS_ready : Fld := ⟨0x100, 36, 1⟩

def FW_SVN_svn : Fld := ⟨0x108, 0, 16⟩
def FW_SVN_floor : Fld := ⟨0x108, 16, 16⟩

def FW_CMD_op : Fld := ⟨0x110, 0, 3⟩
def FW_CMD_raise_floor : Fld := ⟨0x110, 3, 1⟩

def FW_CMD_ADDR_addr : Fld := ⟨0x118, 0, 52⟩
def FW_CMD_ADDR_host : Fld := ⟨0x118, 52, 1⟩

def FW_CMD_STATUS_code : Fld := ⟨0x120, 0, 8⟩
def FW_CMD_STATUS_busy : Fld := ⟨0x120, 8, 1⟩
def FW_CMD_STATUS_seq : Fld := ⟨0x120, 32, 32⟩

def FW_DIGEST_A_digest : Fld := ⟨0x140, 0, 64⟩

def FW_DIGEST_B_digest : Fld := ⟨0x180, 0, 64⟩

def FW_RESTARTS_count : Fld := ⟨0x1c0, 0, 48⟩

def FW_FALLBACKS_count : Fld := ⟨0x1c8, 0, 48⟩

/-- Firmware slot registers of a steward page (R397); the THX page holds the same 0x400 further on. -/
def regs_stw : List FDesc :=
  [ ⟨FW_SLOTS_rev_a, .ro, 0, .any, 8, 1⟩,
    ⟨FW_SLOTS_rev_b, .ro, 0, .any, 8, 1⟩,
    ⟨FW_SLOTS_running, .ro, 0, .any, 8, 1⟩,
    ⟨FW_SLOTS_committed, .ro, 0, .any, 8, 1⟩,
    ⟨FW_SLOTS_state, .ro, 0, .any, 8, 1⟩,
    ⟨FW_SLOTS_ready, .ro, 0, .any, 8, 1⟩,
    ⟨FW_SVN_svn, .ro, 0, .any, 8, 1⟩,
    ⟨FW_SVN_floor, .ro, 0, .any, 8, 1⟩,
    ⟨FW_CMD_op, .wo, 0, .range 1 6, 8, 1⟩,
    ⟨FW_CMD_raise_floor, .wo, 0, .any, 8, 1⟩,
    ⟨FW_CMD_ADDR_addr, .rw, 0, .any, 8, 1⟩,
    ⟨FW_CMD_ADDR_host, .rw, 0, .any, 8, 1⟩,
    ⟨FW_CMD_STATUS_code, .ro, 0, .any, 8, 1⟩,
    ⟨FW_CMD_STATUS_busy, .ro, 0, .any, 8, 1⟩,
    ⟨FW_CMD_STATUS_seq, .ro, 0, .any, 8, 1⟩,
    ⟨FW_DIGEST_A_digest, .ro, 0, .any, 8, 8⟩,
    ⟨FW_DIGEST_B_digest, .ro, 0, .any, 8, 8⟩,
    ⟨FW_RESTARTS_count, .ro, 0, .any, 8, 1⟩,
    ⟨FW_FALLBACKS_count, .ro, 0, .any, 8, 1⟩ ]

def THX_FW_SLOTS_rev_a : Fld := ⟨0x500, 0, 16⟩
def THX_FW_SLOTS_rev_b : Fld := ⟨0x500, 16, 16⟩
def THX_FW_SLOTS_running : Fld := ⟨0x500, 32, 1⟩
def THX_FW_SLOTS_committed : Fld := ⟨0x500, 33, 1⟩
def THX_FW_SLOTS_state : Fld := ⟨0x500, 34, 2⟩
def THX_FW_SLOTS_ready : Fld := ⟨0x500, 36, 1⟩

def THX_FW_SVN_svn : Fld := ⟨0x508, 0, 16⟩
def THX_FW_SVN_floor : Fld := ⟨0x508, 16, 16⟩

def THX_FW_CMD_op : Fld := ⟨0x510, 0, 3⟩
def THX_FW_CMD_raise_floor : Fld := ⟨0x510, 3, 1⟩

def THX_FW_CMD_ADDR_addr : Fld := ⟨0x518, 0, 52⟩
def THX_FW_CMD_ADDR_host : Fld := ⟨0x518, 52, 1⟩

def THX_FW_CMD_STATUS_code : Fld := ⟨0x520, 0, 8⟩
def THX_FW_CMD_STATUS_busy : Fld := ⟨0x520, 8, 1⟩
def THX_FW_CMD_STATUS_seq : Fld := ⟨0x520, 32, 32⟩

def THX_FW_DIGEST_A_digest : Fld := ⟨0x540, 0, 64⟩

def THX_FW_DIGEST_B_digest : Fld := ⟨0x580, 0, 64⟩

def THX_FW_RESTARTS_count : Fld := ⟨0x5c0, 0, 48⟩

def THX_FW_FALLBACKS_count : Fld := ⟨0x5c8, 0, 48⟩

/-- The firmware slot registers of the THX page, at 0x400 plus the steward's offsets (chapter 15). -/
def regs_thxFw : List FDesc :=
  [ ⟨THX_FW_SLOTS_rev_a, .ro, 0, .any, 8, 1⟩,
    ⟨THX_FW_SLOTS_rev_b, .ro, 0, .any, 8, 1⟩,
    ⟨THX_FW_SLOTS_running, .ro, 0, .any, 8, 1⟩,
    ⟨THX_FW_SLOTS_committed, .ro, 0, .any, 8, 1⟩,
    ⟨THX_FW_SLOTS_state, .ro, 0, .any, 8, 1⟩,
    ⟨THX_FW_SLOTS_ready, .ro, 0, .any, 8, 1⟩,
    ⟨THX_FW_SVN_svn, .ro, 0, .any, 8, 1⟩,
    ⟨THX_FW_SVN_floor, .ro, 0, .any, 8, 1⟩,
    ⟨THX_FW_CMD_op, .wo, 0, .range 1 6, 8, 1⟩,
    ⟨THX_FW_CMD_raise_floor, .wo, 0, .any, 8, 1⟩,
    ⟨THX_FW_CMD_ADDR_addr, .rw, 0, .any, 8, 1⟩,
    ⟨THX_FW_CMD_ADDR_host, .rw, 0, .any, 8, 1⟩,
    ⟨THX_FW_CMD_STATUS_code, .ro, 0, .any, 8, 1⟩,
    ⟨THX_FW_CMD_STATUS_busy, .ro, 0, .any, 8, 1⟩,
    ⟨THX_FW_CMD_STATUS_seq, .ro, 0, .any, 8, 1⟩,
    ⟨THX_FW_DIGEST_A_digest, .ro, 0, .any, 8, 8⟩,
    ⟨THX_FW_DIGEST_B_digest, .ro, 0, .any, 8, 8⟩,
    ⟨THX_FW_RESTARTS_count, .ro, 0, .any, 8, 1⟩,
    ⟨THX_FW_FALLBACKS_count, .ro, 0, .any, 8, 1⟩ ]

def PWR_STATE_state : Fld := ⟨0x100, 0, 2⟩
def PWR_STATE_busy : Fld := ⟨0x100, 2, 1⟩

def PWR_BOOT_instar : Fld := ⟨0x108, 0, 3⟩
def PWR_BOOT_thx_fallback : Fld := ⟨0x108, 3, 1⟩
def PWR_BOOT_eclosion_ms : Fld := ⟨0x108, 32, 16⟩

def PWR_CMD_op : Fld := ⟨0x110, 0, 3⟩

def PWR_CMD_ADDR_addr : Fld := ⟨0x118, 0, 52⟩
def PWR_CMD_ADDR_host : Fld := ⟨0x118, 52, 1⟩

def PWR_CMD_STATUS_code : Fld := ⟨0x120, 0, 8⟩
def PWR_CMD_STATUS_busy : Fld := ⟨0x120, 8, 1⟩
def PWR_CMD_STATUS_seq : Fld := ⟨0x120, 32, 32⟩

def PWR_CAP_watts : Fld := ⟨0x128, 0, 12⟩
def PWR_CAP_hyst : Fld := ⟨0x128, 12, 8⟩

def PWR_VSET_vcore_c_mv : Fld := ⟨0x130, 0, 10⟩
def PWR_VSET_vcore_s_mv : Fld := ⟨0x130, 16, 10⟩

def PWR_VNOW_vcore_c_mv : Fld := ⟨0x138, 0, 10⟩
def PWR_VNOW_vcore_s_mv : Fld := ⟨0x138, 16, 10⟩

def PWR_POWER_loop_w : Fld := ⟨0x140, 0, 16⟩
def PWR_POWER_window_w : Fld := ⟨0x140, 16, 16⟩

def PWR_THERM_throttle_c : Fld := ⟨0x148, 0, 8⟩
def PWR_THERM_trip_c : Fld := ⟨0x148, 8, 8⟩
def PWR_THERM_lock : Fld := ⟨0x148, 16, 1⟩
def PWR_THERM_hottest_c : Fld := ⟨0x148, 24, 8⟩
def PWR_THERM_hottest_die : Fld := ⟨0x148, 32, 8⟩

def PWR_GOV_DOWN_count : Fld := ⟨0x180, 0, 48⟩

def PWR_GOV_UP_count : Fld := ⟨0x188, 0, 48⟩

def PWR_THROTTLE_count : Fld := ⟨0x190, 0, 48⟩

/-- PWR page (chapter 15). -/
def regs_pwr : List FDesc :=
  [ ⟨PWR_STATE_state, .ro, 0, .any, 8, 1⟩,
    ⟨PWR_STATE_busy, .ro, 0, .any, 8, 1⟩,
    ⟨PWR_BOOT_instar, .ro, 0, .any, 8, 1⟩,
    ⟨PWR_BOOT_thx_fallback, .ro, 0, .any, 8, 1⟩,
    ⟨PWR_BOOT_eclosion_ms, .ro, 0, .any, 8, 1⟩,
    ⟨PWR_CMD_op, .wo, 0, .range 1 4, 8, 1⟩,
    ⟨PWR_CMD_ADDR_addr, .rw, 0, .any, 8, 1⟩,
    ⟨PWR_CMD_ADDR_host, .rw, 0, .any, 8, 1⟩,
    ⟨PWR_CMD_STATUS_code, .ro, 0, .any, 8, 1⟩,
    ⟨PWR_CMD_STATUS_busy, .ro, 0, .any, 8, 1⟩,
    ⟨PWR_CMD_STATUS_seq, .ro, 0, .any, 8, 1⟩,
    ⟨PWR_CAP_watts, .rw, 3000, .range 1500 3000, 8, 1⟩,
    ⟨PWR_CAP_hyst, .rw, 50, .any, 8, 1⟩,
    ⟨PWR_VSET_vcore_c_mv, .rw, 750, .range 600 850, 8, 1⟩,
    ⟨PWR_VSET_vcore_s_mv, .rw, 750, .range 700 800, 8, 1⟩,
    ⟨PWR_VNOW_vcore_c_mv, .ro, 0, .any, 8, 1⟩,
    ⟨PWR_VNOW_vcore_s_mv, .ro, 0, .any, 8, 1⟩,
    ⟨PWR_POWER_loop_w, .ro, 0, .any, 8, 1⟩,
    ⟨PWR_POWER_window_w, .ro, 0, .any, 8, 1⟩,
    ⟨PWR_THERM_throttle_c, .rwl 328 16, 100, .range 80 104, 8, 1⟩,
    ⟨PWR_THERM_trip_c, .rwl 328 16, 110, .range 106 115, 8, 1⟩,
    ⟨PWR_THERM_lock, .w1s, 0, .any, 8, 1⟩,
    ⟨PWR_THERM_hottest_c, .ro, 0, .any, 8, 1⟩,
    ⟨PWR_THERM_hottest_die, .ro, 0, .any, 8, 1⟩,
    ⟨PWR_GOV_DOWN_count, .ro, 0, .any, 8, 1⟩,
    ⟨PWR_GOV_UP_count, .ro, 0, .any, 8, 1⟩,
    ⟨PWR_THROTTLE_count, .ro, 0, .any, 8, 1⟩ ]

def HBM_CMD_op : Fld := ⟨0x300, 0, 2⟩

def HBM_CMD_ADDR_addr : Fld := ⟨0x308, 0, 52⟩

def HBM_CMD_STATUS_code : Fld := ⟨0x310, 0, 8⟩
def HBM_CMD_STATUS_busy : Fld := ⟨0x310, 8, 1⟩
def HBM_CMD_STATUS_seq : Fld := ⟨0x310, 32, 32⟩

def HBM_REPAIRS_rows : Fld := ⟨0x318, 0, 9⟩

/-- HBM page, repair registers (chapter 15). -/
def regs_hbmRepair : List FDesc :=
  [ ⟨HBM_CMD_op, .wo, 0, .among [1], 8, 1⟩,
    ⟨HBM_CMD_ADDR_addr, .rw, 0, .any, 8, 1⟩,
    ⟨HBM_CMD_STATUS_code, .ro, 0, .any, 8, 1⟩,
    ⟨HBM_CMD_STATUS_busy, .ro, 0, .any, 8, 1⟩,
    ⟨HBM_CMD_STATUS_seq, .ro, 0, .any, 8, 1⟩,
    ⟨HBM_REPAIRS_rows, .ro, 0, .any, 8, 1⟩ ]

def H_SVN_a : Fld := ⟨0x1200, 0, 16⟩
def H_SVN_b : Fld := ⟨0x1200, 16, 16⟩
def H_SVN_valid_a : Fld := ⟨0x1200, 32, 1⟩
def H_SVN_valid_b : Fld := ⟨0x1200, 33, 1⟩

/-- What a steward page or the THX page keeps of its two slots: their security versions, and which hold an image. -/
def regs_fwHid : List FDesc :=
  [ ⟨H_SVN_a, .ro, 0, .any, 8, 1⟩,
    ⟨H_SVN_b, .ro, 0, .any, 8, 1⟩,
    ⟨H_SVN_valid_a, .ro, 1, .any, 8, 1⟩,
    ⟨H_SVN_valid_b, .ro, 0, .any, 8, 1⟩ ]

def FLT_CMD_op : Fld := ⟨0x108, 0, 2⟩
def FLT_CMD_max_level : Fld := ⟨0x108, 2, 3⟩

def FLT_CMD_STATUS_code : Fld := ⟨0x110, 0, 8⟩
def FLT_CMD_STATUS_busy : Fld := ⟨0x110, 8, 1⟩
def FLT_CMD_STATUS_seq : Fld := ⟨0x110, 32, 32⟩

def FLT_HALTS_count : Fld := ⟨0x128, 0, 48⟩

/-- FLT pages of a Wing or a base die (FLT page registers of chapter 16). -/
def regs_flt : List FDesc :=
  [ ⟨FLT_CMD_op, .wo, 0, .among [1], 8, 1⟩,
    ⟨FLT_CMD_max_level, .wo, 0, .any, 8, 1⟩,
    ⟨FLT_CMD_STATUS_code, .ro, 0, .any, 8, 1⟩,
    ⟨FLT_CMD_STATUS_busy, .ro, 0, .any, 8, 1⟩,
    ⟨FLT_CMD_STATUS_seq, .ro, 0, .any, 8, 1⟩,
    ⟨FLT_HALTS_count, .ro, 0, .any, 8, 1⟩ ]

def FLT_CFG_allow_halt_force : Fld := ⟨0x100, 0, 1⟩
def FLT_CFG_lock : Fld := ⟨0x100, 1, 1⟩

def FLT_HALT_PAGE_page_id : Fld := ⟨0x118, 0, 64⟩

def FLT_HALT_REC_class : Fld := ⟨0x120, 0, 6⟩
def FLT_HALT_REC_level : Fld := ⟨0x120, 6, 3⟩
def FLT_HALT_REC_forced : Fld := ⟨0x120, 9, 1⟩
def FLT_HALT_REC_escalated : Fld := ⟨0x120, 10, 1⟩
def FLT_HALT_REC_boot_count : Fld := ⟨0x120, 32, 32⟩

def FLT_AVAIL_CFG_budget_lane_ms : Fld := ⟨0x150, 0, 32⟩

/-- The FLT page of `DEV`: the fields the others leave out (chapter 16). -/
def regs_fltDev : List FDesc :=
  [ ⟨FLT_CFG_allow_halt_force, .rwl 256 1, 0, .any, 8, 1⟩,
    ⟨FLT_CFG_lock, .w1s, 0, .any, 8, 1⟩,
    ⟨FLT_HALT_PAGE_page_id, .ro, 0, .any, 8, 1⟩,
    ⟨FLT_HALT_REC_class, .ro, 0, .any, 8, 1⟩,
    ⟨FLT_HALT_REC_level, .ro, 0, .any, 8, 1⟩,
    ⟨FLT_HALT_REC_forced, .ro, 0, .any, 8, 1⟩,
    ⟨FLT_HALT_REC_escalated, .ro, 0, .any, 8, 1⟩,
    ⟨FLT_HALT_REC_boot_count, .ro, 0, .any, 8, 1⟩,
    ⟨FLT_AVAIL_CFG_budget_lane_ms, .rw, 32358400, .any, 8, 1⟩ ]

def LNK_LOST_FAULT_lane_ms : Fld := ⟨0x118, 0, 48⟩

def LNK_LOST_OTHER_lane_ms : Fld := ⟨0x120, 0, 48⟩

/-- SerDes die page, in addition to the registers of chapter 3 (R422). -/
def regs_dieLost : List FDesc :=
  [ ⟨LNK_LOST_FAULT_lane_ms, .ro, 0, .any, 8, 1⟩,
    ⟨LNK_LOST_OTHER_lane_ms, .ro, 0, .any, 8, 1⟩ ]

def CCN_PERIOD_period : Fld := ⟨0x108, 0, 64⟩

def CCN_REC_SEL_table : Fld := ⟨0x110, 0, 2⟩
def CCN_REC_SEL_index : Fld := ⟨0x110, 2, 10⟩
def CCN_REC_SEL_word : Fld := ⟨0x110, 12, 8⟩

def CCN_NONCE_nonce : Fld := ⟨0x140, 0, 64⟩

def CCN_REQ_sign : Fld := ⟨0x180, 0, 1⟩

def CCN_REQ_STATUS_code : Fld := ⟨0x188, 0, 8⟩
def CCN_REQ_STATUS_busy : Fld := ⟨0x188, 8, 1⟩
def CCN_REQ_STATUS_seq : Fld := ⟨0x188, 32, 32⟩

def CCN_IMG_DIGEST_digest : Fld := ⟨0x1c0, 0, 64⟩

/-- CCN page (chapter 17). CCN_STATUS, CCN_REC_DATA and the metrology key are computed when they are read. -/
def regs_ccn : List FDesc :=
  [ ⟨CCN_PERIOD_period, .ro, 0, .any, 8, 1⟩,
    ⟨CCN_REC_SEL_table, .rw, 0, .any, 8, 1⟩,
    ⟨CCN_REC_SEL_index, .rw, 0, .any, 8, 1⟩,
    ⟨CCN_REC_SEL_word, .rw, 0, .any, 8, 1⟩,
    ⟨CCN_NONCE_nonce, .wo, 0, .any, 8, 8⟩,
    ⟨CCN_REQ_sign, .wo, 0, .any, 8, 1⟩,
    ⟨CCN_REQ_STATUS_code, .ro, 0, .any, 8, 1⟩,
    ⟨CCN_REQ_STATUS_busy, .ro, 0, .any, 8, 1⟩,
    ⟨CCN_REQ_STATUS_seq, .ro, 0, .any, 8, 1⟩,
    ⟨CCN_IMG_DIGEST_digest, .ro, 0, .any, 8, 8⟩ ]

def PCI_LINK_speed : Fld := ⟨0x100, 0, 3⟩
def PCI_LINK_width : Fld := ⟨0x100, 3, 4⟩
def PCI_LINK_flit : Fld := ⟨0x100, 7, 1⟩
def PCI_LINK_num_vfs : Fld := ⟨0x100, 8, 16⟩

def PCI_RING_OWNER_functions : Fld := ⟨0x108, 0, 64⟩

def PCI_CMDS_count : Fld := ⟨0x180, 0, 48⟩

def PCI_CMD_REFUSED_count : Fld := ⟨0x188, 0, 48⟩

def PCI_BAD_ACCESS_count : Fld := ⟨0x190, 0, 48⟩

def PCI_LINK_DOWNS_count : Fld := ⟨0x198, 0, 48⟩

def PCI_MSIX_SENT_count : Fld := ⟨0x1a0, 0, 48⟩

/-- PCI page (chapter 18). -/
def regs_pci : List FDesc :=
  [ ⟨PCI_LINK_speed, .ro, 0, .any, 8, 1⟩,
    ⟨PCI_LINK_width, .ro, 0, .any, 8, 1⟩,
    ⟨PCI_LINK_flit, .ro, 0, .any, 8, 1⟩,
    ⟨PCI_LINK_num_vfs, .ro, 0, .any, 8, 1⟩,
    ⟨PCI_RING_OWNER_functions, .rw, 0, .any, 8, 8⟩,
    ⟨PCI_CMDS_count, .ro, 0, .any, 8, 1⟩,
    ⟨PCI_CMD_REFUSED_count, .ro, 0, .any, 8, 1⟩,
    ⟨PCI_BAD_ACCESS_count, .ro, 0, .any, 8, 1⟩,
    ⟨PCI_LINK_DOWNS_count, .ro, 0, .any, 8, 1⟩,
    ⟨PCI_MSIX_SENT_count, .ro, 0, .any, 8, 1⟩ ]

def THX_I3C_dyn_addr : Fld := ⟨0x100, 0, 7⟩
def THX_I3C_ibi_level : Fld := ⟨0x100, 8, 3⟩
def THX_I3C_ibi_en : Fld := ⟨0x100, 11, 3⟩

def THX_I3C_CMDS_count : Fld := ⟨0x108, 0, 48⟩

/-- THX page, management registers (chapter 18). -/
def regs_thx : List FDesc :=
  [ ⟨THX_I3C_dyn_addr, .ro, 0, .any, 8, 1⟩,
    ⟨THX_I3C_ibi_level, .ro, 2, .any, 8, 1⟩,
    ⟨THX_I3C_ibi_en, .ro, 0, .any, 8, 1⟩,
    ⟨THX_I3C_CMDS_count, .ro, 0, .any, 8, 1⟩ ]

def PWR_PMB_SEL_entry : Fld := ⟨0x200, 0, 4⟩

/-- PWR page, regulator map (chapter 18). PWR_PMB_DATA shows the entry that PWR_PMB_SEL names. -/
def regs_pwrPmb : List FDesc :=
  [ ⟨PWR_PMB_SEL_entry, .rw, 0, .any, 8, 1⟩ ]

def pmb_addr : Fld := ⟨0, 0, 7⟩
def pmb_page : Fld := ⟨0, 7, 8⟩
def pmb_rail : Fld := ⟨0, 15, 4⟩
def pmb_valid : Fld := ⟨0, 19, 1⟩
def pmb_imax : Fld := ⟨0, 20, 16⟩
def pmb_last_ma : Fld := ⟨0, 36, 16⟩

def pmb_mv : Fld := ⟨1, 0, 16⟩
def pmb_misses : Fld := ⟨1, 16, 2⟩

/-- Regulator map entry of the PWR page (R459). -/
def tblFields_pmb : List FDesc :=
  [ ⟨pmb_addr, .rw, 0, .any, 1, 1⟩,
    ⟨pmb_page, .rw, 255, .any, 1, 1⟩,
    ⟨pmb_rail, .rw, 0, .range 0 3, 1, 1⟩,
    ⟨pmb_valid, .rw, 0, .any, 1, 1⟩,
    ⟨pmb_imax, .rw, 0, .any, 1, 1⟩,
    ⟨pmb_last_ma, .ro, 0, .any, 1, 1⟩,
    ⟨pmb_mv, .ro, 0, .any, 1, 1⟩,
    ⟨pmb_misses, .ro, 0, .any, 1, 1⟩ ]

def ring_enable : Fld := ⟨0, 0, 1⟩
def ring_cmd_log2 : Fld := ⟨0, 1, 4⟩
def ring_cpl_log2 : Fld := ⟨0, 5, 4⟩
def ring_irq_en : Fld := ⟨0, 9, 1⟩
def ring_vector : Fld := ⟨0, 10, 8⟩
def ring_coal_count : Fld := ⟨0, 18, 8⟩
def ring_coal_us : Fld := ⟨0, 26, 16⟩

def ring_cmd_base : Fld := ⟨1, 12, 40⟩

def ring_cpl_base : Fld := ⟨2, 12, 40⟩

def ring_consumed : Fld := ⟨4, 0, 32⟩

def ring_head : Fld := ⟨5, 0, 32⟩
def ring_written : Fld := ⟨5, 32, 32⟩

def ring_tail : Fld := ⟨6, 0, 32⟩
def ring_waiting : Fld := ⟨6, 32, 1⟩

def ring_unsignalled : Fld := ⟨7, 0, 32⟩

/-- A ring page of BAR2 (R446): its registers by word, the consumed count in word 4 and the records not yet signalled in word 7. -/
def tblFields_ring : List FDesc :=
  [ ⟨ring_enable, .rw, 0, .any, 1, 1⟩,
    ⟨ring_cmd_log2, .rw, 6, .range 4 12, 1, 1⟩,
    ⟨ring_cpl_log2, .rw, 6, .range 4 12, 1, 1⟩,
    ⟨ring_irq_en, .rw, 0, .any, 1, 1⟩,
    ⟨ring_vector, .rw, 0, .any, 1, 1⟩,
    ⟨ring_coal_count, .rw, 1, .range 1 255, 1, 1⟩,
    ⟨ring_coal_us, .rw, 0, .any, 1, 1⟩,
    ⟨ring_cmd_base, .rw, 0, .any, 1, 1⟩,
    ⟨ring_cpl_base, .rw, 0, .any, 1, 1⟩,
    ⟨ring_consumed, .wo, 0, .any, 1, 1⟩,
    ⟨ring_head, .ro, 0, .any, 1, 1⟩,
    ⟨ring_written, .ro, 0, .any, 1, 1⟩,
    ⟨ring_tail, .ro, 0, .any, 1, 1⟩,
    ⟨ring_waiting, .ro, 0, .any, 1, 1⟩,
    ⟨ring_unsignalled, .ro, 0, .any, 1, 1⟩ ]

def msix_addr : Fld := ⟨0, 0, 64⟩

def msix_data : Fld := ⟨1, 0, 32⟩
def msix_mask : Fld := ⟨1, 32, 1⟩

def msix_pba : Fld := ⟨2, 0, 1⟩

/-- An MSI-X vector of BAR4: message address, message data with its mask bit, and its pending bit (R454). -/
def tblFields_msix : List FDesc :=
  [ ⟨msix_addr, .rw, 0, .any, 1, 1⟩,
    ⟨msix_data, .rw, 0, .any, 1, 1⟩,
    ⟨msix_mask, .rw, 1, .any, 1, 1⟩,
    ⟨msix_pba, .ro, 0, .any, 1, 1⟩ ]

/-- The tables that a window of some page reads and writes, and their entries' words. -/
inductive Tbl where
  /-- Transport contexts, one store for the part (R81). -/
  | attCtx
  /-- Paths of an attach engine: path set times 256, plus path. A word that no window shows keeps what R94 and R95 count. -/
  | attPath
  /-- Regions of the accelerators of an attach engine. -/
  | attRegion
  /-- MAC table (R110). -/
  | swtMac
  /-- LPM table (R110). -/
  | swtLpm
  /-- Next hops. -/
  | swtHop
  /-- ECMP groups. -/
  | swtEcmp
  /-- ECMP members. -/
  | swtEcmpMem
  /-- TLink routes, by destination address. -/
  | swtRoute
  /-- Route sets: members of 10 bits from bit 0, and the count at bit 160. -/
  | swtRouteSet
  /-- Multicast groups. -/
  | swtMcast
  /-- Port masks. -/
  | swtMask
  /-- VLANs. -/
  | swtVlan
  /-- Port entries of a tile. -/
  | swtPort
  /-- Port-VC entries of a tile. -/
  | swtPortVc
  /-- DSCP map of a tile. -/
  | swtDscp
  /-- Port class entries, with the tokens of the port shaper. -/
  | clsPort
  /-- Port-VC class entries. -/
  | clsVc
  /-- Policers. -/
  | clsPolicer
  /-- Wait-for entries of the deadlock detector (R182). -/
  | xbarWf
  /-- Edges of the cycle that the route loader found (R180). -/
  | xbarCyc
  /-- Ingress limits: tile of the die times 256, plus local port id times 8, plus VC. -/
  | bseIn
  /-- Egress limits. -/
  | bseEg
  /-- Ingress occupancy. -/
  | bseInOcc
  /-- Egress occupancy. -/
  | bseEgOcc
  /-- Free rings: each word is the difference from the entry that the enable wrote there. Pool and entry share the index. -/
  | poolRing
  /-- Allocation bitmaps, 64 buffers to a word. -/
  | poolMap
  /-- Reduction contexts, one store for the part (R190). -/
  | rdxCtx
  /-- The latest digest of each reduction context. -/
  | rdxDigest
  /-- Rank entries. Their words are kept with their context; only changes since a capture are numbered here (R34). -/
  | rdxRank
  /-- Line slots of an engine, kept as the rank entries are. -/
  | rdxLine
  /-- Counts of the count table, kept as the rank entries are. -/
  | rdxCount
  /-- Small-collective slots. -/
  | scSlot
  /-- Participants of small collectives. -/
  | scPart
  /-- Results of small collectives. -/
  | scResult
  /-- Counters of the Roost. -/
  | synCnt
  /-- Flags of the Roost. -/
  | synFlag
  /-- Watch slots of the Roost. -/
  | synWatch
  /-- Translation segments: partition times 48, plus kind times 16, plus segment. -/
  | synXlate
  /-- Barriers, with the G of R243 in a word that no window shows. -/
  | synBar
  /-- Wait-for entries of the Roost. -/
  | synWf
  /-- Gang partition entries (chapter 11). -/
  | macPart
  /-- Training configurations (chapter 12). -/
  | macTrain
  /-- Layer entries, 256 for each partition (chapter 12). -/
  | macLayer
  /-- Partition entry of the CHR page, table 0 (R368). -/
  | chrPart
  /-- Region entry of the CHR page, table 1 (R365). -/
  | chrRegion
  /-- Certificates and the boot record, table 2 of the CHR page, as bytes in address order. -/
  | chrCert
  /-- Regulator map entry of the PWR page (R459). -/
  | pmb
  /-- A ring page of BAR2 (R446): its registers by word, the consumed count in word 4 and the records not yet signalled in word 7. -/
  | ring
  /-- An MSI-X vector of BAR4: message address, message data with its mask bit, and its pending bit (R454). -/
  | msix
deriving DecidableEq, Repr

/-- The number that stands for a table in the keys of the table store. -/
def Tbl.code : Tbl → Nat
  | .attCtx => 0
  | .attPath => 1
  | .attRegion => 2
  | .swtMac => 3
  | .swtLpm => 4
  | .swtHop => 5
  | .swtEcmp => 6
  | .swtEcmpMem => 7
  | .swtRoute => 8
  | .swtRouteSet => 9
  | .swtMcast => 10
  | .swtMask => 11
  | .swtVlan => 12
  | .swtPort => 13
  | .swtPortVc => 14
  | .swtDscp => 15
  | .clsPort => 16
  | .clsVc => 17
  | .clsPolicer => 18
  | .xbarWf => 19
  | .xbarCyc => 20
  | .bseIn => 21
  | .bseEg => 22
  | .bseInOcc => 23
  | .bseEgOcc => 24
  | .poolRing => 25
  | .poolMap => 26
  | .rdxCtx => 27
  | .rdxDigest => 28
  | .rdxRank => 29
  | .rdxLine => 30
  | .rdxCount => 31
  | .scSlot => 32
  | .scPart => 33
  | .scResult => 34
  | .synCnt => 35
  | .synFlag => 36
  | .synWatch => 37
  | .synXlate => 38
  | .synBar => 39
  | .synWf => 40
  | .macPart => 41
  | .macTrain => 42
  | .macLayer => 43
  | .chrPart => 44
  | .chrRegion => 45
  | .chrCert => 46
  | .pmb => 47
  | .ring => 48
  | .msix => 49

/-- The words of one entry. -/
def Tbl.words : Tbl → Nat
  | .attCtx => 8
  | .attPath => 2
  | .attRegion => 3
  | .swtMac => 2
  | .swtLpm => 3
  | .swtHop => 2
  | .swtEcmp => 1
  | .swtEcmpMem => 1
  | .swtRoute => 1
  | .swtRouteSet => 3
  | .swtMcast => 1
  | .swtMask => 1
  | .swtVlan => 1
  | .swtPort => 1
  | .swtPortVc => 1
  | .swtDscp => 1
  | .clsPort => 2
  | .clsVc => 2
  | .clsPolicer => 2
  | .xbarWf => 2
  | .xbarCyc => 1
  | .bseIn => 1
  | .bseEg => 1
  | .bseInOcc => 1
  | .bseEgOcc => 1
  | .poolRing => 1
  | .poolMap => 1
  | .rdxCtx => 8
  | .rdxDigest => 9
  | .rdxRank => 6
  | .rdxLine => 82
  | .rdxCount => 1
  | .scSlot => 2
  | .scPart => 1
  | .scResult => 33
  | .synCnt => 2
  | .synFlag => 1
  | .synWatch => 6
  | .synXlate => 1
  | .synBar => 5
  | .synWf => 2
  | .macPart => 16
  | .macTrain => 9
  | .macLayer => 4
  | .chrPart => 128
  | .chrRegion => 16
  | .chrCert => 512
  | .pmb => 2
  | .ring => 8
  | .msix => 3

/-- The block whose page reads and writes the table, for the scope given. -/
def Tbl.owner (sc : Nat) : Tbl → Blk
  | .attCtx => .att sc
  | .attPath => .att sc
  | .attRegion => .att sc
  | .swtMac => .swt sc
  | .swtLpm => .swt sc
  | .swtHop => .swt sc
  | .swtEcmp => .swt sc
  | .swtEcmpMem => .swt sc
  | .swtRoute => .swt sc
  | .swtRouteSet => .swt sc
  | .swtMcast => .swt sc
  | .swtMask => .swt sc
  | .swtVlan => .swt sc
  | .swtPort => .swt sc
  | .swtPortVc => .swt sc
  | .swtDscp => .swt sc
  | .clsPort => .swt sc
  | .clsVc => .swt sc
  | .clsPolicer => .swt sc
  | .xbarWf => .xbarDev
  | .xbarCyc => .xbarDev
  | .bseIn => .bse sc
  | .bseEg => .bse sc
  | .bseInOcc => .bse sc
  | .bseEgOcc => .bse sc
  | .poolRing => .pool sc
  | .poolMap => .pool sc
  | .rdxCtx => .rdx sc
  | .rdxDigest => .rdx sc
  | .rdxRank => .rdx sc
  | .rdxLine => .rdx sc
  | .rdxCount => .rdx sc
  | .scSlot => .syn
  | .scPart => .syn
  | .scResult => .syn
  | .synCnt => .syn
  | .synFlag => .syn
  | .synWatch => .syn
  | .synXlate => .syn
  | .synBar => .syn
  | .synWf => .syn
  | .macPart => .mac sc
  | .macTrain => .mac sc
  | .macLayer => .mac sc
  | .chrPart => .chr
  | .chrRegion => .chr
  | .chrCert => .chr
  | .pmb => .pwr
  | .ring => .pci
  | .msix => .pci

/-- Tables that every page of their kind shows, kept once (R81, R109). -/
def Tbl.wide : Tbl → Bool
  | .attCtx | .swtMac | .swtLpm | .swtHop | .swtEcmp | .swtEcmpMem | .swtRoute | .swtRouteSet | .swtMcast | .swtMask | .swtVlan | .rdxCtx | .rdxDigest | .rdxRank | .rdxCount | .macPart | .macTrain | .macLayer => true
  | _ => false

/-- The fields of one entry. -/
def Tbl.fields : Tbl → List FDesc
  | .attCtx => tblFields_attCtx
  | .attPath => tblFields_attPath
  | .attRegion => tblFields_attRegion
  | .swtMac => tblFields_swtMac
  | .swtLpm => tblFields_swtLpm
  | .swtHop => tblFields_swtHop
  | .swtEcmp => tblFields_swtEcmp
  | .swtEcmpMem => tblFields_swtEcmpMem
  | .swtRoute => tblFields_swtRoute
  | .swtRouteSet => tblFields_swtRouteSet
  | .swtMcast => tblFields_swtMcast
  | .swtMask => tblFields_swtMask
  | .swtVlan => tblFields_swtVlan
  | .swtPort => tblFields_swtPort
  | .swtPortVc => tblFields_swtPortVc
  | .swtDscp => tblFields_swtDscp
  | .clsPort => tblFields_clsPort
  | .clsVc => tblFields_clsVc
  | .clsPolicer => tblFields_clsPolicer
  | .xbarWf => tblFields_xbarWf
  | .xbarCyc => tblFields_xbarCyc
  | .bseIn => tblFields_bseIn
  | .bseEg => tblFields_bseEg
  | .bseInOcc => tblFields_bseInOcc
  | .bseEgOcc => tblFields_bseEgOcc
  | .poolRing => tblFields_poolRing
  | .poolMap => tblFields_poolMap
  | .rdxCtx => tblFields_rdxCtx
  | .rdxDigest => tblFields_rdxDigest
  | .rdxRank => tblFields_rdxRank
  | .rdxLine => tblFields_rdxLine
  | .rdxCount => tblFields_rdxCount
  | .scSlot => tblFields_scSlot
  | .scPart => tblFields_scPart
  | .scResult => tblFields_scResult
  | .synCnt => tblFields_synCnt
  | .synFlag => tblFields_synFlag
  | .synWatch => tblFields_synWatch
  | .synXlate => tblFields_synXlate
  | .synBar => tblFields_synBar
  | .synWf => tblFields_synWf
  | .macPart => tblFields_macPart
  | .macTrain => tblFields_macTrain
  | .macLayer => tblFields_macLayer
  | .chrPart => tblFields_chrPart
  | .chrRegion => tblFields_chrRegion
  | .chrCert => tblFields_chrCert
  | .pmb => tblFields_pmb
  | .ring => tblFields_ring
  | .msix => tblFields_msix

/-- The table with a given number. -/
def Tbl.ofCode : Nat → Option Tbl
  | 0 => some .attCtx
  | 1 => some .attPath
  | 2 => some .attRegion
  | 3 => some .swtMac
  | 4 => some .swtLpm
  | 5 => some .swtHop
  | 6 => some .swtEcmp
  | 7 => some .swtEcmpMem
  | 8 => some .swtRoute
  | 9 => some .swtRouteSet
  | 10 => some .swtMcast
  | 11 => some .swtMask
  | 12 => some .swtVlan
  | 13 => some .swtPort
  | 14 => some .swtPortVc
  | 15 => some .swtDscp
  | 16 => some .clsPort
  | 17 => some .clsVc
  | 18 => some .clsPolicer
  | 19 => some .xbarWf
  | 20 => some .xbarCyc
  | 21 => some .bseIn
  | 22 => some .bseEg
  | 23 => some .bseInOcc
  | 24 => some .bseEgOcc
  | 25 => some .poolRing
  | 26 => some .poolMap
  | 27 => some .rdxCtx
  | 28 => some .rdxDigest
  | 29 => some .rdxRank
  | 30 => some .rdxLine
  | 31 => some .rdxCount
  | 32 => some .scSlot
  | 33 => some .scPart
  | 34 => some .scResult
  | 35 => some .synCnt
  | 36 => some .synFlag
  | 37 => some .synWatch
  | 38 => some .synXlate
  | 39 => some .synBar
  | 40 => some .synWf
  | 41 => some .macPart
  | 42 => some .macTrain
  | 43 => some .macLayer
  | 44 => some .chrPart
  | 45 => some .chrRegion
  | 46 => some .chrCert
  | 47 => some .pmb
  | 48 => some .ring
  | 49 => some .msix
  | _ => none

/-- The number that a list of fields gives a register or table word at reset. -/
def resetOf (ds : List FDesc) (off : Nat) : Nat :=
  ds.foldl (fun acc d =>
    if d.reset ≠ 0 ∧ d.fld.off ≤ off ∧ (off - d.fld.off) % d.stride = 0 ∧ (off - d.fld.off) / d.stride < d.n
    then acc + d.reset * 2 ^ d.fld.lo else acc) 0

/-- The fields of a list that the register (or word) at `off` holds. -/
def fieldsAt (ds : List FDesc) (off : Nat) : List FDesc :=
  ds.filter fun d => d.fld.off ≤ off && (off - d.fld.off) % d.stride == 0 && (off - d.fld.off) / d.stride < d.n

end Sys2Proof.Machine
end

