-- ==== Sys2Proof/Machine/PageRegs.lean ====
section
/-! DEFINITION. Which registers each page holds, and the value of each at reset. -/

namespace Sys2Proof.Machine

/-- The fields of a block's page (the register tables of the chapters). -/
def Blk.blockRegs (b : Blk) : List FDesc :=
  if b.isSteward then regs_stw ++ regs_fwHid else
  match b with
  | .fltDev => regs_flt ++ regs_fltDev
  | .fltW _ | .fltB _ => regs_flt
  | .grp _ => regs_grp ++ regs_grpHid
  | .lane _ _ => regs_lane ++ regs_laneHid ++ regs_xingLane
  | .die _ => regs_die ++ regs_dieLost
  | .chr => regs_chr
  | .syn => regs_synA ++ regs_synB
  | .rdx _ => regs_rdx ++ regs_rdxHid
  | .dbg => regs_dbg
  | .pwr => regs_pwr ++ regs_pwrPmb
  | .hbm _ => regs_hbmRepair ++ regs_xingHbm
  | .ccn => regs_ccn
  | .pci => regs_pci ++ regs_xingHbm
  | .thx => regs_thx ++ regs_thxFw ++ regs_fwHid
  | .att _ => regs_att ++ regs_attHid
  | .swt _ => regs_swt ++ regs_swtHid ++ regs_swtMon
  | .mac a => if a = 0 then regs_mac ++ regs_macGang else regs_mac
  | .vec _ => regs_vec
  | .xbarDev => regs_xbarDev ++ regs_xbarHid
  | .xbarT _ => regs_xbarT
  | .bse _ => regs_bse ++ regs_bseHid
  | .pool _ => regs_pool
  | .meshB _ => regs_mesh
  | _ => []

/-- The fields of a block's page, the common header first (R26). -/
def Blk.regs (b : Blk) : List FDesc := regs_hdr ++ b.blockRegs

/-- The function that owns ring `r` after a reset: 0 the physical function, `p + 1` a virtual function (R446). -/
def ringOwnerReset (r : Nat) : Nat := if r < 16 then 0 else (r - 16) / 3 + 1

/-- The access entry of R358. -/
def aclEntry (lo hi : Nat) (r w x : Bool) (tag : Option Nat) : Nat :=
  lo + hi * 2 ^ 8 + b2n r * 2 ^ 16 + b2n w * 2 ^ 17 + b2n x * 2 ^ 18 +
    (match tag with | none => 0 | some p => 2 ^ 19 + p * 2 ^ 20) + 2 ^ 24

/-- The operator-page template of R362. -/
def operatorAcl (b : Blk) : List Nat :=
  [aclEntry 2 7 true true false none, aclEntry 0x10 0x10 true true false none] ++
    (match b.steward with | none => [0] | some s => [aclEntry s s true true false none]) ++ [0, 0, 0, 0, 0]

/-- The partition-page template of R362 for partition `p`. -/
def partitionAcl (b : Blk) (p : Nat) : List Nat :=
  [aclEntry 2 7 true false false none, aclEntry 0x10 0x10 true false false none] ++
    (match b.steward with | none => [0] | some s => [aclEntry s s true true false none]) ++
    [aclEntry (0x11 + p) (0x11 + p) true true false (some p), aclEntry (0x30 + p) (0x30 + p) true true false (some p),
      0, 0, 0]

/-- The count of buffers of pool `p` at reset. -/
def poolCountReset (p : Nat) : Nat := [4194304, 1048576, 262144, 65536, 16384, 8192].getD p 0

/-- The value of a register at reset. Offsets from 0x1000 up hold what a page keeps and shows nowhere. -/
def resetReg (b : Blk) (off : Nat) : Nat :=
  if off < 0x100 then (if off = 0x038 then b.maskReset else 0)
  else if 0x7C0 ≤ off ∧ off < 0x800 then (operatorAcl b).getD ((off - 0x7C0) / 8) 0
  else match b with
    | .lane _ n => if off = 0x100 then (if n < 64 then 1 else 0) else resetOf b.blockRegs off
    | .pci =>
      if 0x108 ≤ off ∧ off < 0x148 then
        (upTo 8).foldl (fun v r => v + ringOwnerReset (8 * ((off - 0x108) / 8) + r) * 2 ^ (8 * r)) 0
      else resetOf b.blockRegs off
    | .pool d =>
      if off = 0x100 then d * 72 * 10 ^ 9 + 64 * 10 ^ 9
      else if 0x110 ≤ off ∧ off < 0x140 then poolCountReset ((off - 0x110) / 8)
      else if 0x140 ≤ off ∧ off < 0x170 then
        poolCountReset ((off - 0x140) / 8) + poolCountReset ((off - 0x140) / 8) * 2 ^ 35
      else resetOf b.blockRegs off
    | _ => resetOf b.blockRegs off

/-- The value at reset of the register at key `page * 0x2000 + offset`. -/
def resetKey (k : Nat) : Nat :=
  match blkOf true (k / 0x2000) with
  | none => 0
  | some b => resetReg b (k % 0x2000)

/-- The key of a table word: table, scope (the die or tile that holds it), entry, word. -/
def tabKey (t : Tbl) (sc i wd : Nat) : Nat := ((t.code * 2 ^ 8 + sc) * 2 ^ 20 + i) * 2 ^ 12 + wd

/-- Word `wd` of region `i` after a device reset: regions 0 to 7 are the default pool regions (R366). -/
def resetRegion (i wd : Nat) : Nat :=
  if i < 8 then
    ([i * 72 * 10 ^ 9 + 64 * 10 ^ 9, 8 * 10 ^ 9, 2 ^ 5, aclEntry 0x40 0x5F true true false none,
      aclEntry 0x60 0x67 true true false none, aclEntry 2 7 true true false none,
      aclEntry 0x10 0x10 true false false none]).getD wd 0
  else 0

/-- The value at reset of the table word at a key. -/
def resetTab (k : Nat) : Nat :=
  match Tbl.ofCode (k / 2 ^ 40) with
  | none => 0
  | some .chrRegion => resetRegion (k / 2 ^ 12 % 2 ^ 20) (k % 2 ^ 12)
  | some .clsVc =>
    if k % 2 ^ 12 = 0 then [2048, 8192, 8192, 16384, 16384, 16384, 2048, 1024].getD (k / 2 ^ 12 % 8) 0
    else resetOf Tbl.clsVc.fields (k % 2 ^ 12)
  | some t => resetOf t.fields (k % 2 ^ 12)

end Sys2Proof.Machine
end

