-- ==== Sys2Proof/Machine/StateParts.lean ====
section
/-! DEFINITION. The parts of the state that are no registers: pins, outputs, MRAM, the Chrysalis, the Proboscis, the
Cocoon, the host rings and the management port. -/

namespace Sys2Proof.Machine

/-- The level of each pin the part reads or drives (R466). True is high. -/
structure Pins where
  pwrgd : Bool
  resetN : Bool
  perstN : Bool
  pmbAlertN : Bool
  mtrUnseal : Bool
  thermtripN : Bool
  faultN : Bool
deriving DecidableEq, Repr

/-- Where something that leaves the part goes. -/
inductive Chan where
  | lane (k n : Nat)          -- a control or data codeword on a lane
  | tlink (port vc : Nat)     -- flits of a TLink port
  | eth (port : Nat)          -- a frame of an Ethernet port
  | acc (group : Nat)         -- a local packet to an attached accelerator
  | msix (fn vector : Nat)    -- an interrupt message
  | mgmt                      -- the management I3C port
  | ibi                       -- an In-Band Interrupt
  | metro                     -- the Cocoon port
  | proboscis                 -- the Proboscis
  | avs (rail : Nat)          -- an AVSBus set-point
  | pmbus (entry : Nat)       -- a PMBus read
  | wire (src : Nat)          -- a dedicated one-way wire to the Cocoon
  | bar (fn : Nat)            -- the answer of a register read
  | agent (m : Nat)           -- a message to an agent of the die mesh
deriving DecidableEq, Repr

/-- One thing that left the part: where it went, what kind it is, its numbers and its bytes. -/
structure Emit where
  chan : Chan
  tag : Nat
  nums : List Nat
  bytes : List Byte
deriving DecidableEq, Repr

/-- A level action that a collector owes (R414): the page whose class took the level, the class and the level. -/
structure Act where
  blk : Blk
  cls : Nat
  level : Nat
  forced : Bool
  escalated : Bool
deriving DecidableEq, Repr

/-- The kinds of work that end in a step of their own. -/
inductive JobKind where
  | fwWrite | powerMove | saveProfile | hbmRepair | chr | swtTable | routeLoad | rdxCmd | signed
deriving DecidableEq, Repr

/-- Work that a command has started and a later step finishes: the page and the offset of its status register, the
code it will report, two numbers of its own and the requester that wrote the command. -/
structure Job where
  kind : JobKind
  page : Nat
  off : Nat
  code : Code
  a : Nat
  b : Nat
  asker : Nat
deriving DecidableEq, Repr

/-- A snapshot write-out in progress (R35, R36). -/
structure Snap where
  page : Nat
  master : Nat
  host : Bool
  dest : Nat
  implicitFreeze : Bool
  code : Code
deriving DecidableEq, Repr

/-- The boot profile and the device section that a configuration slot holds (R391). -/
structure Profile where
  regs : Kv
  tabs : Kv
  route : List Byte
  repairs : List (Nat × Nat)
deriving DecidableEq, Repr

/-- One firmware slot's image, as R393 judged it when it was written. -/
structure Image where
  rev : Nat
  svn : Nat
  digest : Nat
  good : Bool
deriving DecidableEq, Repr

/-- What the MRAM of the part holds beside the registers that show it (R391, R434). -/
structure Mram where
  ownerKey : List Byte
  cfgA : Option Profile
  cfgB : Option Profile
  cfgCommitted : Nat
  cfgDigestA : Nat
  cfgDigestB : Nat
  repairs : List (Nat × Nat)
deriving DecidableEq, Repr

/-- Where boot stands (R394, R395): the Instars done (0 to 4; 5 after Eclosion), the restarts of the Thorax in
Instar 1, and recovery mode with its cause, the slots that failed (0 Thorax, 1 steward, 2 configuration) and the image that is being
written, if one is; the steward and Thorax images that have failed a check (twice the unit's number, plus 1 for slot B), and
the configuration slot that this boot runs on. -/
structure BootSt where
  running : Bool
  done : Nat
  thxRetries : Nat
  recovery : Bool
  cause : Nat
  failed : List Nat
  recKind : Option Nat
  recData : Memory
  recTop : Nat
  recAccepted : List Nat
  thxRestart : Bool
  diapause : Nat
  offDies : List Nat
  loopPower : List Nat
  avsMiss : Nat × Nat
  badSlots : List Nat
  cfgSlot : Nat
deriving DecidableEq, Repr

/-- The Chrysalis beside its registers and tables: the alias key of this boot, the latest challenge, the turn of each
engine, the scope of each consent, the health of the noise source, and the regions that did not verify as zero. -/
structure SecSt where
  aliasKey : Nat
  challenge : Option (List Byte)
  turns : List Nat
  unwraps : List (Nat × Nat × Nat × Nat)
  consents : List (Nat × Nat)
  tenantKeys : List (Nat × List Byte)
  entropyBad : Bool
  unzeroed : List Nat
deriving DecidableEq, Repr

/-- The instruction that the Proboscis test access port holds (R383). -/
inductive Tap where
  | bypass | sample | extest | dbgmsg
deriving DecidableEq, Repr

/-- The debug session beside DBG_STATUS and CHR_DEBUG: the test access port's instruction, the partitions that the
session halts, and the pages that it froze. -/
structure DbgSt where
  tap : Tap
  halted : List Nat
  pages : List Nat
deriving DecidableEq, Repr

/-- A Cocoon bucket (R429). -/
structure Bucket where
  energy : Nat
  array : Nat
  vector : Nat
  port : Nat
  hbm : Nat
  createCount : Nat
  active : Bool
  changed : Bool
deriving DecidableEq, Repr

/-- An empty bucket. -/
def Bucket.zero : Bucket := ⟨0, 0, 0, 0, 0, 0, false, false⟩

/-- The Cocoon (R423 to R437): supply, clock, the open period, the totals (those of the latest checkpoint, and of the one
before it), the record ring, the log, the image slots and the queue of signed readings. -/
structure CcnSt where
  vmtr : Bool
  crystal : Bool
  period : Nat
  updateCount : Nat
  joules : List Nat
  beyond : List Nat
  open_ : List Bucket
  totals : List Bucket
  totalE : List Nat
  ring : List (List Byte)
  log : List (List Byte)
  flagsSince : Nat
  lastTotals : List Bucket
  lastE : List Nat
  lost : Option Nat
  slot : Nat
  images : List Image
  updOpen : Bool
  updData : Memory
  updTop : Nat
  staged : Option Image
  trial : Bool
  nonces : List (List Byte)
  reqPage : Bool
  signed : List Byte
deriving DecidableEq, Repr

/-- The host side: the ring served last, the rings whose command waits (ring, page, status offset, tag), the rings whose
interrupt timer runs, the In-Band Interrupts not accepted yet, and the DEV level last told. -/
structure HostSt where
  turn : Nat
  waits : List (Nat × Nat × Nat × Nat)
  coal : List Nat
  ibiHeld : List Nat
  levelSeen : Nat
deriving DecidableEq, Repr

end Sys2Proof.Machine
end

