-- ==== Sys2Proof/Machine/StateNet.lean ====
section
/-! DEFINITION. The parts of the state of the links, the attach engines, the switch and the cell stores that are no
registers or table entries. -/

namespace Sys2Proof.Machine

/-- How far a switchover has come (R56). -/
inductive SwPhase where
  | training | switching | acked
deriving DecidableEq, Repr

/-- A switchover under way on a SerDes die (R56 to R58): the lane, its spare, its index within the link, whether it
returns the lane from the spare, whether this end started it, its phase and the count S. -/
structure Switchover where
  die : Nat
  lane : Nat
  spare : Nat
  idx : Nat
  revert : Bool
  initiator : Bool
  phase : SwPhase
  count : Nat
deriving DecidableEq, Repr

/-- A request that waits behind a switchover on its die (R58). -/
structure SwWait where
  die : Nat
  lane : Nat
  revert : Bool
deriving DecidableEq, Repr

/-! ## The switch (chapters 5 to 7) -/

/-- Where a frame, or a copy of one, stands: it waits in its port group's input buffer (R138 case 3), in the ingress
store with its spreading queue, in the ingress spill store, between tiles, in the release order of its egress, in a
port queue, in the egress spill store, or started on a TLink port. -/
inductive Place where
  | input | ingress | spillIn | flight | order | queue | spillEg | tx
deriving DecidableEq, Repr

/-- What a next hop writes into a routed frame at its egress (R105): the destination MAC, the VLAN, and whether the tag is
sent. -/
structure Rewrite where
  dmac : Nat
  vlan : Nat
  tagged : Bool
deriving DecidableEq, Repr

/-- A frame or packet, or the copy of one for an egress tile, then for an egress port. `acct` is its ingress account
(die and index) while it is charged there; `segs` counts its 32-byte segments, `res` those reserved for it at admission,
`sent` those that have spread (or the flits that have left on the link, once started), `got` those that have reached the
egress tile; `slot` is the spread slot of its first cell and `hops` the H of R125. `rewrite` is what its next hop writes.
`dev` is the device that it came from, with the level-3 slot of its arrival in `slot3`, where that is another part (R121).
`alts` are the bytes of the copies whose headers their egress ports rewrite (R209). -/
structure Cp where
  cid : Nat
  fid : Nat
  port : Nat
  vc : Nat
  acct : Option (Nat × Nat)
  itile : Nat
  etile : Nat
  mask : Nat
  att : Bool
  mc : Bool
  tlink : Bool
  bad : Bool
  cut : Bool
  place : Place
  bytes : List Byte
  segs : Nat
  res : Nat
  sent : Nat
  got : Nat
  slot : Nat
  hops : Nat
  seq : Nat
  age : Nat
  limit : Nat
  rewrite : Option Rewrite
  dev : Option Nat
  slot3 : Nat
  alts : List (Nat × List Byte)
deriving DecidableEq, Repr

/-- A cell: its egress tile and VC, and the segments of each copy it carries (R114). -/
structure Cell where
  etile : Nat
  vc : Nat
  parts : List (Nat × Nat)
deriving DecidableEq, Repr

/-- A cell held at a middle tile for a destination tile of a level (R117). -/
structure Mid where
  level : Nat
  at_ : Nat
  dst : Nat
  cell : Cell
deriving DecidableEq, Repr

/-- The state of a port's deficit round robin (R164). -/
structure Drr where
  cur : Nat
  topped : Bool
  deficit : List Nat
deriving DecidableEq, Repr

/-- A spilled block: its die, whether its account is an egress one, the account, the copy it belongs to, its buffer,
the data cells before it in its frame, its own, and whether its read is under way (R142, R144). -/
structure SpillBlock where
  die : Nat
  egress : Bool
  acct : Nat
  cid : Nat
  addr : Nat
  off : Nat
  cells : Nat
  reading : Bool
deriving DecidableEq, Repr

/-- The switch beside its registers and tables: frames, cells in middle buffers, the next numbers, the order of frames
of each (ingress, egress, VC), the round robins, token buckets (in 1/125 byte), spill blocks, the evacuation under
way and those that wait, paused and pausing and recovered (port, VC) pairs, stalled accounts with their ticks, the
packets that stage 4 has handed to their owners, the route image in force, the table entries that an uncorrectable
error holds invalid in one die's copy (die, table, index), the cells that a tile holds for another device's bundle
(R119), and for each (source device, egress tile) the next number of level 3 with those that came ahead of it (R121). -/
structure SwitchSt where
  cps : List Cp
  mids : List Mid
  nextId : Nat
  seqs : List (Nat × Nat)
  drr : List (Nat × Drr)
  tokens : List (Nat × Int)
  blocks : List SpillBlock
  evac : Option Nat
  drained : Bool
  evacWait : List Nat
  paused : List (Nat × Nat)
  pausing : List (Nat × Nat)
  held : List (Nat × Nat)
  stalls : List (Nat × Nat)
  inbox : List (Nat × List Byte)
  route : List Byte
  badCopies : List (Nat × Nat × Nat)
  mids3 : List (Nat × L3Cell)
  seqs3 : List (Nat × Nat × List Nat)
deriving DecidableEq, Repr

/-- An empty switch. -/
def SwitchSt.reset : SwitchSt := ⟨[], [], 0, [], [], [], [], none, false, [], [], [], [], [], [], [], [], [], []⟩

/-! ## The TLink link layer (chapter 4) -/

/-- The link layer of a logical port (R67 to R74): sequence numbers, credits held, the partner's last reports, flits
freed and which VCs owe a report, the flits held for replay and how many of them still go out again, the
acknowledgements that an attach engine owes a reduction once the partner has accepted a flit (R210), whether the
receiver drops until a replay and whether a nak is due, the packets open and complete in the input buffer, the flits
each VC holds there, the VC last served, the payload limit, the slots and sidebands that codewords have delivered,
the flits that the next codewords carry, those dealt to lanes (by index) and the lane dealt to next, the codewords
received ahead of their row (lane, codeword count, what they hold) and the codeword count of the row due (R48). -/
structure Ll where
  txNext : Nat
  acked : Nat
  rxNext : Nat
  accepted : Bool
  cred : List Nat
  reports : List Nat
  freed : List Nat
  owes : List Nat
  replay : List (Nat × List Byte)
  again : Nat
  owed : List (Nat × List Byte)
  dropping : Bool
  nakDue : Bool
  open_ : List (Nat × List Byte)
  buf : List (Nat × List Byte)
  held : List Nat
  turn : Nat
  limit : Nat
  slots : List (List Byte)
  txq : List (List Byte)
  dealt : List (Nat × List (List Byte))
  deal : Nat
  rxq : List (Nat × Nat × List (List Byte))
  row : Option Nat
deriving DecidableEq, Repr

/-! ## Transport contexts (chapter 4) -/

/-- The operations of R87. -/
inductive TOp where
  | put | get | send | atomic
deriving DecidableEq, Repr

/-- A message of a context's own stream (R80, R86): how many of its bytes have been asked for, its packets and those
acknowledged, the bytes of its response, its code once it has ended, the old value of an ATOMIC, and whether the Gang
sent it (R303). -/
structure Msg where
  seq : Nat
  op : TOp
  tag : Nat
  laddr : Nat
  raddr : Nat
  len : Nat
  operand : Nat
  key : Nat
  notify : Bool
  sendIdx : Nat
  issued : Bool
  asked : Nat
  packets : Nat
  acked : Nat
  answered : Nat
  ended : Option Code
  old : Nat
  gang : Bool
deriving DecidableEq, Repr

/-- A packet of a context's stream: its PSN once sent, its header words and payload, the message it belongs to (none
for a response), its path, how often it was resent, whether NO_RESOURCE refused it, and its buffer (R84, R93). -/
structure TxP where
  psn : Option Nat
  vc : Nat
  words : List Nat
  payload : List Byte
  msg : Option Nat
  path : Nat
  tries : Nat
  nakd : Bool
  buf : Option Nat
deriving DecidableEq, Repr

/-- A message that is arriving (R86): bytes counted, its length, whether it completes, its tag, and whether it completes
to the Gang and not to the accelerator (R303). -/
structure RxM where
  seq : Nat
  got : Nat
  len : Nat
  report : Bool
  tag : Nat
  gang : Bool
deriving DecidableEq, Repr

/-- A local read or fetch-and-add that waits for its data (R80): its tile, tag and context, the packet that its data
completes, and that packet's buffer. -/
structure LocalRd where
  tile : Nat
  tag : Nat
  ctx : Nat
  fadd : Bool
  len : Nat
  pkt : TxP
deriving DecidableEq, Repr

/-- A transport context beside its entry: its stamp, messages, packets and arrivals, the next message that may
complete, posted buffers (index, address, length, tag) and their count, SENDs started, the ce map, the packets since
the last ACK, what its congestion window has counted, the GET_REQs whose local reads wait for space, each with the
bytes asked for (R88), and whether its port took it down (R82 to R96). -/
structure Cx where
  stamp : Nat
  msgs : List Msg
  pkts : List TxP
  rx : List RxM
  rxNext : Nat
  posted : List (Nat × Nat × Nat × Nat)
  nPosted : Nat
  nSend : Nat
  ce : Nat
  sinceAck : Nat
  acked : Nat
  marked : Bool
  gets : List (Nat × List Byte)
  portGone : Bool
deriving DecidableEq, Repr

/-! ## Reduction contexts (chapter 8) -/

/-- A rank of a reduction context: its two configured words, the egress port its results take, what has been received of
its stream (cumulative PSN, bitmap, ce bitmap, packets since the last ACK), the results it has acknowledged, its
retransmissions, whether it has failed, and the window top it was last sent (R84, R85, R200, R201, R208). -/
structure RRank where
  w0 : Nat
  w1 : Nat
  port : Option Nat
  rxCum : Nat
  rxMap : Nat
  ce : Nat
  sinceAck : Nat
  txCum : Nat
  retx : Nat
  failed : Bool
  top : Nat
deriving DecidableEq, Repr

/-- A line of the window that something has reached (R185, R187, R204): its contributions and leaves, its accumulators,
whether it has been released and waits for its epilogue, its partial until the parent acknowledges it, its result, their
PSNs once sent, the ranks that have acknowledged the result, the retransmissions of each, and the copies that an
attach engine still has to acknowledge. -/
structure RLine where
  g : Nat
  count : Nat
  leaves : Nat
  accs : List Xsum
  released : Bool
  epi : Bool
  part : Option (List Byte)
  partPsn : Option Nat
  res : Option (List Byte)
  resPsn : Option Nat
  acked : List Nat
  tries : List (Nat × Nat)
deriving DecidableEq, Repr

/-- A contribution whose payload its ingress tile holds (R200): its rank, port and VC, its bytes, whether its claim has
been deferred, whether its flits still stand in the input buffer, and the Gang list that pushes it (R304). -/
structure RClaim where
  rank : Nat
  port : Nat
  vc : Nat
  bytes : List Byte
  deferred : Bool
  flits : Bool
  gang : Option (Nat × Nat)
deriving DecidableEq, Repr

/-- A reduction context beside its entry: its ranks, the lines in hand, its count table, the claims in progress, the
packets that wait in the result slots (egress port, VC, bytes), the next PSN of its results and of its partials, what
the parent has acknowledged of the partials, the epoch and rank that its parent knows it by, the latest window top of the parent, what it has received of the parent's
stream, the egress port towards it, the stamp of its counter, the results of rounds that wait for their digest, the lines
completed above base, the bytes reserved on each engine, and the top of the window once it drains. -/
structure RCx where
  ranks : List RRank
  lines : List RLine
  counts : List (Nat × Nat)
  claims : List RClaim
  outq : List (Nat × Nat × List Byte)
  psn : Nat
  partPsn : Nat
  partCum : Nat
  parentEpoch : Nat
  parentRank : Nat
  parentTop : Option Nat
  parentCum : Nat
  parentMap : Nat
  stamp : Nat
  hist : List (Nat × List Byte)
  done : List Nat
  reserved : List (Nat × Nat)
  parentPort : Option Nat
  drain : Option Nat
deriving DecidableEq, Repr

/-- A payload mesh packet in an engine's input queue (R201): the engine, the tile that sent it, its context and rank, its
first line, and its lines' bytes. -/
structure EngIn where
  eng : Nat
  tile : Nat
  ctx : Nat
  rank : Nat
  g : Nat
  lines : List (List Byte)
deriving DecidableEq, Repr

/-! ## The die mesh (R159 to R163) -/

/-- The mesh beside its counters: the multicast heads that router inputs hold (R162), and for each stream of contribution
packets from a tile to an engine (`16 * tile + engine`) how many have left their queues and how many of those were lost
on the way (R33, R160). -/
structure MeshSt where
  held : List MeshHead
  streams : List (Nat × Nat × Nat)
deriving DecidableEq, Repr

/-! ## The Roost's small collectives (R215 to R218) -/

/-- A small-collective slot: whether a seq is open, whether one has completed, the items of the open seq's participants,
and those of the last completed one. -/
structure ScOpen where
  slot : Nat
  opened : Bool
  everDone : Bool
  got : List (Nat × List Byte)
  last : List (Nat × List Byte)
deriving DecidableEq, Repr

/-! ## The Gang (chapters 11 and 12) -/

/-- What a Gang operation in flight waits for: to be carried out, a watch message of a slot with the arming count it expects (R240), a receive on one of some
contexts, the result record of a slot with a seq, the acceptance of the lines it has pushed, or its completion. -/
inductive GWait where
  | run | watch (slot seq : Nat) | recv (ctxs : List Nat) | result (slot seq : Nat) | lines (ctx : Nat) | done
deriving DecidableEq, Repr

/-- An instruction that a list has issued and whose record has not been written (R287, R307, R309): its list, address
and words, the descriptors read at issue, the arrays it runs on with the tiles that each has passed, its flags,
saturations and first offending product so far (row, column, depth), its steps, its value, the code it ended with, what
it waits for, and whether a save stands for it. -/
structure GOp where
  part : Nat
  list : Nat
  pc : Nat
  i0 : Nat
  i1 : Nat
  descs : List (Nat × List Nat)
  arrays : List Nat
  pos : List Nat
  flags : Nat
  sat : Nat
  coord : Option (Nat × Nat × Nat)
  steps : Nat
  value : Nat
  code : Code
  wait : GWait
  saved : Bool
deriving DecidableEq, Repr

/-- What a list keeps beside its words of the partition entry: whether it runs audited, its program digest, a pause or a
stop that waits, whether a debug halt paused it, whether the instruction it last issued lets the next one issue, and
whether a record of it waits for ring room. -/
structure GList where
  part : Nat
  list : Nat
  audit : Bool
  digest : List Byte
  pausing : Bool
  stopping : Bool
  held : Bool
  goOn : Bool
  full : Bool
deriving DecidableEq, Repr

/-- A receive that the Gang has posted: its partition and list, its context, its index on the context, its target, and
whether the SEND has been written (R303). -/
structure GRecv where
  part : Nat
  list : Nat
  ctx : Nat
  idx : Nat
  desc : List Nat
  got : Bool
deriving DecidableEq, Repr

/-- The Gang beside its registers and tables: the operations in flight, the lists, the receives, the round robins of the
array class and of the vector class (current partition, topped), the list last served of each class and partition, and
the headers of the side records of retained operands, by entry (R321). -/
structure GangSt where
  ops : List GOp
  lists : List GList
  recvs : List GRecv
  cur : List Nat
  topped : List Bool
  last : List (Nat × Nat)
  heads : List (Nat × List Byte)
deriving DecidableEq, Repr

/-- The Gang at rest. -/
def GangSt.reset : GangSt := ⟨[], [], [], [0, 0], [false, false], [], []⟩

end Sys2Proof.Machine
end

