-- ==== Sys2Proof/Machine/State.lean ====
section
/-! DEFINITION. The machine's state as plain data, its reasons to stop, and the state right after reset. -/

namespace Sys2Proof.Machine

/-- No command ends in a fault: the spec gives every command an effect, a refusal recorded on a page, or a code. -/
inductive Fault where
deriving DecidableEq, Repr

/-- Why a command has no meaning here. -/
inductive Refusal where
  /-- Raised by the dispatch alone, for a command whose meaning is not written: safe, the run stops. -/
  | notModelled (mnemonic : String)
deriving DecidableEq, Repr

/-- What a frozen page holds (R32, R33): the page, and the parts of the state, as they stood at its capture, that its
registers and table windows show. -/
structure View where
  page : Nat
  regs : Kv
  tabs : Kv
  rcxs : List (Nat × RCx)
  scs : List ScOpen
  gang : GangSt
  ccn : CcnSt
  pins : Pins
  caches : List (Nat × List Nat)
  sec : SecSt
  mesh : MeshSt
deriving DecidableEq, Repr

/-- The state of the part. -/
structure State where
  regs : Kv
  tabs : Kv
  views : List View
  cow : List Nat
  hbm : Memory
  arr : Memory
  vec : Memory
  host : Memory
  pins : Pins
  acts : List Act
  alarm : Bool
  jobs : List Job
  snaps : List Snap
  out : List Emit
  fresh : Nat
  mram : Mram
  boot : BootSt
  sec : SecSt
  dbg : DbgSt
  ccn : CcnSt
  hst : HostSt
  sws : List Switchover
  swWaits : List SwWait
  caches : List (Nat × List Nat)
  swc : SwitchSt
  lls : List (Nat × Ll)
  cxs : List (Nat × Cx)
  lrds : List LocalRd
  rcxs : List (Nat × RCx)
  engq : List EngIn
  mesh : MeshSt
  scs : List ScOpen
  gang : GangSt
  pending : List Instr
deriving DecidableEq, Repr

/-- The pins right after a device reset: PWRGD and RESET_N have just risen (R469); the board holds MTR_UNSEAL low, so that an
update may open until the land rises (assumption 5). -/
def Pins.reset : Pins := ⟨true, true, true, true, false, true, true⟩

/-- The MRAM as a part leaves manufacture (R482): slot A committed everywhere, no owner, no repairs (assumption 5). -/
def Mram.reset : Mram := ⟨[], some ⟨[], [], [], []⟩, none, 0, 0, 0, []⟩

/-- Boot at its start (R394). -/
def BootSt.reset : BootSt := ⟨true, 0, 0, false, 0, [], none, [], 0, [], false, 0, [], [], (0, 0), [], 0⟩

/-- The Chrysalis before Instar 0. -/
def SecSt.reset : SecSt := ⟨0, none, [16, 16, 16], [], [], [], false, []⟩

/-- No debug session. -/
def DbgSt.reset : DbgSt := ⟨.bypass, [], []⟩

/-- The Cocoon as a part leaves manufacture, with VMTR up and the crystal running (assumption 5). -/
def CcnSt.reset : CcnSt :=
  { vmtr := true, crystal := true, period := 0, updateCount := 0, joules := List.replicate 6 0, beyond := List.replicate 6 0
    open_ := List.replicate 17 Bucket.zero, totals := List.replicate 17 Bucket.zero, totalE := List.replicate 6 0
    lastTotals := List.replicate 17 Bucket.zero, lastE := List.replicate 6 0
    ring := [], log := [], flagsSince := 0, lost := none, slot := 0
    images := [⟨0, 0, 0, true⟩, ⟨0, 0, 0, false⟩], updOpen := false, updData := [], updTop := 0, staged := none
    trial := false, nonces := [], reqPage := false, signed := [] }

/-- The host side after a reset. -/
def HostSt.reset : HostSt := ⟨63, [], [], [], 0⟩

/-- The machine right after a device reset: every register and table at its reset value, the stores at zero, nothing
in flight, boot about to run Instar 0 (R394, R396). The values the spec does not give are those of assumption 5. -/
def State.reset : State :=
  { regs := [], tabs := [], views := [], cow := []
    hbm := [], arr := [], vec := [], host := []
    pins := Pins.reset, acts := [], alarm := false, jobs := [], snaps := [], out := [], fresh := 0
    mram := Mram.reset, boot := BootSt.reset, sec := SecSt.reset, dbg := DbgSt.reset, ccn := CcnSt.reset
    hst := HostSt.reset, sws := [], swWaits := [], caches := [], swc := SwitchSt.reset, lls := [], cxs := [], lrds := []
    rcxs := [], engq := [], mesh := ⟨[], []⟩, scs := [], gang := GangSt.reset, pending := [] }

end Sys2Proof.Machine
end

