-- ==== Sys2Proof/Machine/Ops.lean ====
section
/-! DEFINITION. The shared operations on registers, tables, memories, free values, outputs, error classes, refusals,
access checks and the control tree of the pages. -/

namespace Sys2Proof.Machine

/-! ## Registers and tables -/

/-- The key of a register in the register store. -/
def regKey (pg off : Nat) : Nat := pg * 0x2000 + off

/-- The stored word of a register. -/
def State.reg (s : State) (b : Blk) (off : Nat) : Nat := (kvGet resetKey s.regs (regKey b.page off)).toNat

/-- The state with a register's stored word replaced. -/
def State.setReg (s : State) (b : Blk) (off v : Nat) : State :=
  { s with regs := kvPut resetKey s.regs (regKey b.page off) (BitVec.ofNat 64 v) }

/-- A field of a register. -/
def State.g (s : State) (b : Blk) (f : Fld) : Nat := bits (s.reg b f.off) f.lo f.w

/-- The state with a field of a register replaced. -/
def State.p (s : State) (b : Blk) (f : Fld) (v : Nat) : State :=
  s.setReg b f.off (putBits (s.reg b f.off) f.lo f.w v)

/-- A field of a register, as a flag. -/
def State.gb (s : State) (b : Blk) (f : Fld) : Bool := s.g b f == 1

/-- A counter raised by `d`, held at its largest value (R60). -/
def State.add (s : State) (b : Blk) (f : Fld) (d : Nat) : State := s.p b f (satAdd f.w (s.g b f) d)

/-- A counter raised by one. -/
def State.inc (s : State) (b : Blk) (f : Fld) : State := s.add b f 1

/-- A stored word of a table. -/
def State.tw (s : State) (t : Tbl) (sc i wd : Nat) : Nat := (kvGet resetTab s.tabs (tabKey t sc i wd)).toNat

/-- The pages that hold a captured view. -/
def State.capPages (s : State) : List Nat := s.views.map (·.page)

/-- The scopes under which frozen pages show a table (R34): a table kept once for the part shows on each of its
pages. -/
def State.shownBy (s : State) (t : Tbl) (sc : Nat) : List Nat :=
  if t.wide then
    s.capPages.filterMap fun pg => (blkOf true pg).bind fun b => if t.owner b.scopeNo == b then some b.scopeNo else none
  else if s.capPages.contains (t.owner sc).page then [sc] else []

/-- The table entries of frozen pages that have changed since their capture, with one more noted (R34). The entries
of a context of a reduction engine are told apart by a second number. -/
def State.noteIn (s : State) (cow : List Nat) (t : Tbl) (sc i j : Nat) : List Nat :=
  (s.shownBy t sc).foldl (fun l n => if l.contains (tabKey t n i j) then l else tabKey t n i j :: l) cow

/-- The changed entries of frozen pages after a change of one entry (R34). -/
def State.noteCow (s : State) (t : Tbl) (sc i : Nat) : List Nat :=
  if s.capPages.isEmpty then s.cow else s.noteIn s.cow t sc i 0

/-- The changed entries of frozen pages after a run of entries has gone back to its reset values (R34). -/
def State.noteClear (s : State) (t : Tbl) (sc lo n : Nat) : List Nat :=
  if s.capPages.isEmpty then s.cow
  else s.tabs.foldl (fun cow e =>
    if tabKey t sc lo 0 ≤ e.1 && e.1 < tabKey t sc (lo + n) 0 then s.noteIn cow t sc (e.1 / 2 ^ 12 % 2 ^ 20) 0 else cow) s.cow

/-- The entries of a table whose word `wd` differs from its value at reset, in ascending index, with that word. -/
def State.listed (s : State) (t : Tbl) (sc wd : Nat) : List (Nat × Nat) :=
  let lo := tabKey t sc 0 0
  let hi := tabKey t (sc + 1) 0 0
  s.tabs.filterMap fun e =>
    if lo ≤ e.1 && e.1 < hi && e.1 % 2 ^ 12 == wd then some (e.1 / 2 ^ 12 % 2 ^ 20, e.2.toNat) else none

/-- The state with a stored word of a table replaced. -/
def State.setTw (s : State) (t : Tbl) (sc i wd v : Nat) : State :=
  { s with tabs := kvPut resetTab s.tabs (tabKey t sc i wd) (BitVec.ofNat 64 v), cow := s.noteCow t sc i }

/-- A field of a table entry. -/
def State.t (s : State) (t : Tbl) (sc i : Nat) (f : Fld) : Nat := bits (s.tw t sc i f.off) f.lo f.w

/-- A field of a table entry, as a flag. -/
def State.tb (s : State) (t : Tbl) (sc i : Nat) (f : Fld) : Bool := s.t t sc i f == 1

/-- The state with a field of a table entry replaced. -/
def State.pt (s : State) (t : Tbl) (sc i : Nat) (f : Fld) (v : Nat) : State :=
  s.setTw t sc i f.off (putBits (s.tw t sc i f.off) f.lo f.w v)

/-- The words of an entry from word `from_` on. -/
def State.entry (s : State) (t : Tbl) (sc i : Nat) (n : Nat) : List Nat := (upTo n).map (s.tw t sc i)

/-- The state with the words of an entry replaced from word 0 on. -/
def State.setEntry (s : State) (t : Tbl) (sc i : Nat) (ws : List Nat) : State :=
  (ws.zip (upTo ws.length)).foldl (fun s e => s.setTw t sc i e.2 e.1) s

/-- The state with a range of entries of a table back at their reset values. -/
def State.clearTab (s : State) (t : Tbl) (sc lo n : Nat) : State :=
  { s with tabs := kvClear s.tabs (tabKey t sc lo 0) (tabKey t sc (lo + n) 0), cow := s.noteClear t sc lo n }

/-- The words of `n` registers that lie 8 bytes apart, as one little-endian number. -/
def State.wide (s : State) (b : Blk) (off n : Nat) : Nat :=
  (upTo n).foldl (fun v i => v + s.reg b (off + 8 * i) * 2 ^ (64 * i)) 0

/-- The state with `n` registers 8 bytes apart holding one little-endian number. -/
def State.setWide (s : State) (b : Blk) (off n v : Nat) : State :=
  (upTo n).foldl (fun s i => s.setReg b (off + 8 * i) (bits v (64 * i) 64)) s

/-- A table word after a write: its RW fields taken, its W1C bits cleared, the rest kept (R4). -/
def tblAfter (t : Tbl) (wd old v : Nat) : Nat :=
  (fieldsAt t.fields wd).foldl (fun w d =>
    let x := bits v d.fld.lo d.fld.w
    match d.acc with
    | .rw => putBits w d.fld.lo d.fld.w x
    | .w1c => putBits w d.fld.lo d.fld.w (bits old d.fld.lo d.fld.w &&& (2 ^ d.fld.w - 1 - x))
    | _ => w) old

/-- Every RW field of a table word accepts what a write places in it (R7, R479). -/
def tblOk (t : Tbl) (wd v : Nat) : Bool :=
  (fieldsAt t.fields wd).all fun d => d.acc != .rw || d.rule.ok (bits v d.fld.lo d.fld.w)

/-- The RW fields of a table word written. -/
def State.storeTw (s : State) (t : Tbl) (sc i wd v : Nat) : State := s.setTw t sc i wd (tblAfter t wd (s.tw t sc i wd) v)

/-! ## Free values and outputs -/

/-- A value that the spec leaves open: the next draw (assumption 1). -/
def State.draw (s : State) : Nat × State := ((Config.freeWord s.fresh).toNat, { s with fresh := s.fresh + 1 })

/-- A free value of `n` 64-bit words. -/
def State.drawWide (s : State) (n : Nat) : Nat × State :=
  ((upTo n).foldl (fun v i => v + (Config.freeWord (s.fresh + i)).toNat * 2 ^ (64 * i)) 0,
    { s with fresh := s.fresh + n })

/-- What leaves on the lanes or over PCI Express. -/
def Chan.serial : Chan → Bool
  | .lane _ _ | .tlink _ _ | .eth _ | .acc _ | .msix _ _ | .bar _ => true
  | _ => false

/-- Something leaves the part. While EXTEST is selected, lanes and PCI Express transmitters are idle (R477). -/
def State.emit (s : State) (ch : Chan) (tag : Nat) (nums : List Nat) (bytes : List Byte) : State :=
  if s.dbg.tap == .extest && ch.serial then s else { s with out := s.out ++ [⟨ch, tag, nums, bytes⟩] }

/-! ## Error classes (R408 to R412) -/

/-- The latched classes of a page, as the low bits of its status word. -/
def State.latched (s : State) (b : Blk) : Nat := s.g b ERR_STATUS_local

/-- The current level of a latched class (R410). -/
def State.clsLevel (s : State) (b : Blk) (c : Nat) : Nat := bits (s.reg b (0x740 + 8 * (c / 16))) (4 * (c % 16)) 3

/-- A class stands above its catalogue level (R411). -/
def State.clsEsc (s : State) (b : Blk) (c : Nat) : Bool := bit (s.reg b (0x740 + 8 * (c / 16))) (4 * (c % 16) + 3)

/-- The state with the level and the repeat mark of a class replaced. -/
def State.setClsLevel (s : State) (b : Blk) (c l : Nat) (esc : Bool) : State :=
  s.p b ⟨0x740 + 8 * (c / 16), 4 * (c % 16), 4⟩ (l + 8 * b2n esc)

/-- A class of the page is masked (R411: a class at catalogue level 4 or 5 never is). -/
def State.masked (s : State) (b : Blk) (c : Nat) : Bool := bit (s.g b ERR_MASK_mask) c && !bit b.unmaskable c

/-- The record of the latest latch (R410). -/
def State.setErrLast (s : State) (b : Blk) (c l : Nat) (force : Option Nat) : State :=
  s.setReg b 0x758 (c % 64 + l * 2 ^ 6 + b2n force.isSome * 2 ^ 9 + force.getD 0 * 2 ^ 10 +
    bits (s.g b ERR_EVENTS_count) 0 32 * 2 ^ 32)

/-- The action that a level owes, queued (R414): levels 4 and 5 halt, and level 3 reached by escalation on a page
that a partition owns resets that partition. -/
def State.owe (s : State) (b : Blk) (c l : Nat) (force esc : Bool) : State :=
  if 4 ≤ l ∨ (l = 3 ∧ esc ∧ s.g b OWNER_owned = 1) then { s with acts := s.acts ++ [⟨b, c, l, force, esc⟩] } else s

/-- One event of a class on a page (R411); `force` carries the master of an ERR_FORCE write (R418). -/
def State.raiseBy (s : State) (b : Blk) (c : Cls) (force : Option Nat) : State :=
  let s : State := { s.inc b ERR_EVENTS_count with alarm := true }
  let i := c.bit
  if bit (s.latched b) i = false then
    let s := s.p b ⟨ERR_STATUS_local.off, i, 1⟩ 1
    let s := s.setClsLevel b i c.level false
    let s := s.p b ⟨H_FORCED_bits.off, i, 1⟩ (b2n force.isSome)
    let s := s.setErrLast b i c.level force
    if s.masked b i then s else s.owe b i c.level force.isSome false
  else if s.masked b i = false ∧ s.clsEsc b i = false then
    let l := min 5 (s.clsLevel b i + 1)
    let s := s.setClsLevel b i l true
    let s := if force.isSome then s.p b ⟨H_FORCED_bits.off, i, 1⟩ 1 else s
    let s := s.setErrLast b i l force
    s.owe b i l force.isSome true
  else s

/-- A hardware event of a class on a page. -/
def State.raise (s : State) (b : Blk) (c : Cls) : State := s.raiseBy b c none

/-- The latch, level and repeat state of the classes of a mask cleared (R412). -/
def State.ackErr (s : State) (b : Blk) (mask : Nat) : State :=
  { (upTo 48).foldl (fun s c =>
      if bit mask c && bit (s.latched b) c then
        ((s.p b ⟨ERR_STATUS_local.off, c, 1⟩ 0).setClsLevel b c 0 false).p b ⟨H_FORCED_bits.off, c, 1⟩ 0
      else s) s with alarm := true }

/-- The highest level among a page's unmasked latched classes; none where there is none. -/
def State.ownLevel (s : State) (b : Blk) : Option Nat :=
  (upTo 48).foldl (fun r c =>
    if bit (s.latched b) c && !s.masked b c then some (max (r.getD 0) (s.clsLevel b c)) else r) none

/-- The larger of two pins' levels. -/
def pinMax : Option Nat → Option Nat → Option Nat
  | none, r => r
  | r, none => r
  | some a, some b => some (max a b)

/-- A page's pin: none while nothing is pending, else its level (R408). -/
def State.pin (s : State) : Nat → Blk → Option Nat
  | 0, b => s.ownLevel b
  | fuel + 1, b => pinMax (s.ownLevel b) (b.kids.foldl (fun r k => pinMax r (s.pin fuel k)) none)

/-- The highest level among a page's asserting children. -/
def State.kidsPin (s : State) (b : Blk) : Option Nat := b.kids.foldl (fun r k => pinMax r (s.pin 4 k)) none

/-- The status word of a page (R409, the status-word table). -/
def State.statusWord (s : State) (b : Blk) : Nat :=
  let own := s.ownLevel b
  let kids := s.kidsPin b
  let all := pinMax own kids
  s.latched b + all.getD 0 * 2 ^ 48 + b2n all.isSome * 2 ^ 51 + b2n kids.isSome * 2 ^ 52 + kids.getD 0 * 2 ^ 53 +
    b2n ((upTo 48).any fun c => bit (s.latched b) c && s.clsEsc b c) * 2 ^ 56 +
    b2n ((upTo 48).any fun c => bit (s.latched b) c && bit (s.g b H_FORCED_bits) c) * 2 ^ 57

/-- ERR_CHILD_j of a brood page (R410). On the multi-device root the part knows the pin of its own root alone, at the
place of its own entry (R31, assumption 149). -/
def State.errChild (s : State) (b : Blk) (j : Nat) : Nat :=
  if b = .mroot then (if j = 0 then b2n (s.pin 5 .dev).isSome * 2 ^ s.g .xbarDev XBAR_L3_CFG_self else 0)
  else (((b.kids.drop (64 * j)).take 64).zip (upTo 64)).foldl (fun v e => v + b2n (s.pin 4 e.1).isSome * 2 ^ e.2) 0

/-- The part is a member of a multi-device brood, so page 0x0001 is present (R31). -/
def State.multi (s : State) : Bool := decide (1 < s.g .xbarDev XBAR_L3_CFG_devices)

/-- The block of a page index. -/
def State.blk (s : State) (pg : Nat) : Option Blk := blkOf s.multi pg

/-! ## Refusals and access (R39, R357 to R361, R483) -/

/-- A refusal on a page (R483). -/
def State.refuse (s : State) (m : Nat) (b : Blk) (off : Nat) (c : Code) : State :=
  ((s.inc b REFUSED_CMDS_count).setReg b 0x088 (c.val + off % 4096 * 2 ^ 8 + m % 256 * 2 ^ 20)).raise b cCMD_REFUSED

/-- A write that the access table denies (R39). -/
def State.denyWrite (s : State) (m : Nat) (b : Blk) (off : Nat) : State :=
  (s.inc b DENIED_ACCESSES_count).refuse m b off .denied

/-- The rights of R358. -/
inductive Right where
  | read | write | execute
deriving DecidableEq, Repr

/-- Does one access entry grant a right to a master with a tag (R359)? -/
def aclGrants (e m : Nat) (tag : Option Nat) (r : Right) : Bool :=
  bit e 24 && decide (bits e 0 8 ≤ m) && decide (m ≤ bits e 8 8) &&
    (!bit e 19 || tag == some (bits e 20 4)) &&
    bit e (match r with | .read => 16 | .write => 17 | .execute => 18)

/-- A requester is its master id, plus 256 where its access comes through a command ring (R363). -/
def mst (m : Nat) : Nat := m % 256

/-- The access comes through a command ring. -/
def viaRing (m : Nat) : Bool := 256 ≤ m

/-- The partition of a requester, where it is a partition's master. -/
def reqPart (m : Nat) : Option Nat := masterPart (mst m)

/-- The requester is an operator master (R357). -/
def byOperator (m : Nat) : Bool := isOperator (mst m)

/-- The registers of operator-owned pages that the row filter opens to virtual functions on their rings: those of the
command and table windows whose rows are held by partitions (R363). DEDUCED (assumption 9). -/
def rowFiltered (b : Blk) (off : Nat) : Bool :=
  match b with
  | .chr => (0x200 ≤ off && off < 0x420) || off == 0x1C0 || off == 0x1C8
  | .att _ | .rdx _ | .syn => 0x100 ≤ off && off < 0x740
  | .mac a => a == 0 && 0x100 ≤ off && off < 0x740
  | _ => false

/-- The row filter applies to this access and opens the register (R363). -/
def State.byRow (s : State) (m : Nat) (b : Blk) (off : Nat) : Bool :=
  viaRing m && (vfPart (mst m)).isSome && s.g b OWNER_owned == 0 && rowFiltered b off

/-- Does the access table of a page grant a right to a master (R359 to R361)? -/
def State.granted (s : State) (m : Nat) (b : Blk) (r : Right) : Bool :=
  (mst m == 0 && b != .ccn && b != .stwC 3) ||
    (upTo 8).any fun i => aclGrants (s.reg b (0x7C0 + 8 * i)) (mst m) (reqPart m) r

/-- May a requester read a register of a page (R361, R363, R438)? -/
def State.mayRead (s : State) (m : Nat) (b : Blk) (off : Nat) : Bool :=
  (off < 0x100 && mst m ≤ 0xE3) || ((b == .ccn || b == .stwC 3) && byOperator m) || s.byRow m b off || s.granted m b .read

/-- The writes that the Cocoon's page takes (R438); its steward page takes none. -/
def ccnTakes (b : Blk) (off : Nat) : Bool :=
  b == .ccn && (off == 0x040 || off == 0x038 || off == 0x048 || off == 0x018 || (0x140 ≤ off && off < 0x180)
    || off == 0x180 || off == 0x110)

/-- May a requester write a register of a page (R360, R361, R363, R438)? The Proboscis is checked by the rules of its
level before it comes here. -/
def State.mayWrite (s : State) (m : Nat) (b : Blk) (off : Nat) : Bool :=
  if b = .ccn ∨ b = .stwC 3 then ccnTakes b off && byOperator m
  else if off = 0x058 ∨ (0x7C0 ≤ off ∧ off < 0x800) then mst m == 0
  else mst m == 8 || s.byRow m b off || s.granted m b .write

/-- The state of a page bars a write: it is frozen (R30) or power-gated (R41). -/
def State.barred (s : State) (b : Blk) (off : Nat) : Bool :=
  (s.gb b STATE_frozen && !(off == 0x018 || off == 0x048 || off == 0x030 || off == 0x040)) ||
    (s.gb b STATE_unpowered && off != 0x018)

/-- A write of a page register, through the checks that every write passes first (R39, R30, R41, R479): an index with
no page ignores it. -/
def State.onWrite (s : State) (m pg off : Nat) (f : Blk → State) : State :=
  match s.blk pg with
  | none => s
  | some b =>
    if s.mayWrite m b off = false then s.denyWrite m b off
    else if s.barred b off then s.refuse m b off .refusedState
    else f b

/-- The value that a write leaves in one field (R4, R5). -/
def State.fieldAfter (s : State) (b : Blk) (d : FDesc) (i : Nat) (old v : Nat) : Nat :=
  let lo := d.fld.lo
  let w := d.fld.w
  let o := bits old lo w
  let x := bits v lo w
  match d.acc with
  | .rw => putBits old lo w x
  | .w1c => putBits old lo w (o &&& (2 ^ w - 1 - x))
  | .w1s => putBits old lo w (o ||| x)
  | .rwl lo' bt => if bit (s.reg b (lo' + d.stride * i)) bt then old else putBits old lo w x
  | .ro | .wo => old

/-- Every field of a register accepts what a write places in it (R7, R479). Fields that software cannot set take
anything. -/
def fieldsOk (ds : List FDesc) (v : Nat) : Bool :=
  ds.all fun d => d.acc == .ro || d.rule.ok (bits v d.fld.lo d.fld.w)

/-- The register after a write that passed its checks (R4). -/
def State.store (s : State) (b : Blk) (off v : Nat) : State :=
  let ds := fieldsAt b.regs off
  s.setReg b off (ds.foldl (fun w d => s.fieldAfter b d ((off - d.fld.off) / d.stride) w v) (s.reg b off))

/-- A write's bits that set a W1S bit already set are counted (REDUNDANT_SET). -/
def State.countRedundant (s : State) (b : Blk) (off v : Nat) : State :=
  let ds := (fieldsAt b.regs off).filter (·.acc == .w1s)
  if ds.any fun d => (bits (s.reg b off) d.fld.lo d.fld.w) &&& (bits v d.fld.lo d.fld.w) != 0
  then s.inc b REDUNDANT_SET_count else s

/-! ## The control tree (R24) -/

/-- The ancestors whose controls reach a page: the multi-device root acts on its member's root (R31), and no
ancestor's enable, quiesce or evacuate reaches the Cocoon (R438). -/
def State.reach (s : State) (b : Blk) : List Blk :=
  if b = .mroot then [] else b.ancestors ++ (if s.multi then [.mroot] else [])

/-- Effective enable (R24): the page's own, and that of every page above it, the multi-device root among them where
the part is a member of a brood (assumption 6). -/
def State.effEnable (s : State) (b : Blk) : Bool :=
  s.gb b CTRL_enable && (b == .ccn || b == .stwC 3 || (s.reach b).all fun a => s.gb a CTRL_enable)

/-- Quiesce that comes from an ancestor. -/
def State.heldQuiesce (s : State) (b : Blk) : Bool :=
  b != .ccn && b != .stwC 3 && (s.reach b).any fun a => s.gb a CTRL_quiesce

/-- Effective quiesce (R24). -/
def State.effQuiesce (s : State) (b : Blk) : Bool := s.gb b CTRL_quiesce || s.heldQuiesce b

/-- Freeze that comes from an ancestor. -/
def State.heldFreeze (s : State) (b : Blk) : Bool := (s.reach b).any fun a => s.gb a CTRL_freeze

/-- Effective freeze (R24). -/
def State.effFreeze (s : State) (b : Blk) : Bool := s.gb b CTRL_freeze || s.heldFreeze b

/-- The states of a page (STATE.state). -/
inductive PState where
  | off | training | quiesced | inService | evacuated | faulted
deriving DecidableEq, Repr

/-- The code of a page state. -/
def PState.val : PState → Nat
  | .off => 0 | .training => 1 | .quiesced => 2 | .inService => 3 | .evacuated => 4 | .faulted => 5

/-- The page state of a code. -/
def PState.ofVal : Nat → PState
  | 0 => .off | 1 => .training | 2 => .quiesced | 3 => .inService | 4 => .evacuated | _ => .faulted

/-- The state of a page. -/
def State.st (s : State) (b : Blk) : PState := PState.ofVal (s.g b STATE_state)

/-- The page in a state, with the change counted. -/
def State.setSt (s : State) (b : Blk) (p : PState) : State :=
  if s.st b = p then s else (s.p b STATE_state p.val).inc b STATE_CHANGES_count

/-- The block runs: its page is IN_SERVICE or QUIESCED. -/
def State.live (s : State) (b : Blk) : Bool := s.st b == .inService || s.st b == .quiesced

/-- STATE as it reads: the stored fields, with mixed and held_by_parent computed (R24). -/
def State.stateWord (s : State) (b : Blk) : Nat :=
  putBits (putBits (s.reg b 0x020) 5 1 (b2n ((b.subtree.drop 1).any fun k => s.st k != s.st b)))
    6 1 (b2n (s.heldQuiesce b || s.heldFreeze b))

/-! ## The pools in HBM (R147, R148) -/

/-- The buffer size of pool `p`. -/
def poolSize (p : Nat) : Nat := 256 * 4 ^ p

/-- A number raised to a multiple of `k`. -/
def roundUp (k n : Nat) : Nat := k * ((k - 1 + n) / k)

/-- Where a die's free rings and bitmaps start, in turn, and then where its buffers may start: a list of six pairs and
the end. -/
def State.poolLayout (s : State) (d : Nat) : List (Nat × Nat) × Nat :=
  (upTo 6).foldl (fun r p =>
    let n := s.g (.pool d) (POOL_CFG_count.at (8 * p))
    let ring := roundUp 4096 r.2
    let map := roundUp 4096 (ring + 8 * n)
    (r.1 ++ [(ring, map)], map + (n + 7) / 8)) ([], s.reg (.pool d) 0x100)

/-- Where the buffers of each pool of a die start, and where the last one ends. -/
def State.poolBufs (s : State) (d : Nat) : List Nat × Nat :=
  (upTo 6).foldl (fun r p =>
    let b := roundUp (2 ^ 18) r.2
    (r.1 ++ [b], b + poolSize p * s.g (.pool d) (POOL_CFG_count.at (8 * p)))) ([], (s.poolLayout d).2)

/-- The table index and word that hold item `e` of pool `p`: ring entries, or words of the bitmap. -/
def poolIdx (p e : Nat) : Nat × Nat := (p * 2 ^ 17 + e / 256, e % 256)

/-- The ring entry that the enable wrote at place `e` (R148). -/
def State.ringInit (s : State) (d p e : Nat) : Nat := (s.poolBufs d).1.getD p 0 + poolSize p * e + p

/-- A ring entry as it stands. -/
def State.ringAt (s : State) (d p e : Nat) : Nat :=
  s.ringInit d p e ^^^ s.tw .poolRing d (poolIdx p e).1 (poolIdx p e).2

/-- A ring entry written. -/
def State.setRing (s : State) (d p e v : Nat) : State :=
  s.setTw .poolRing d (poolIdx p e).1 (poolIdx p e).2 (v ^^^ s.ringInit d p e)

/-- A bit of a pool's bitmap. -/
def State.poolBit (s : State) (d p i : Nat) : Bool :=
  bit (s.tw .poolMap d (poolIdx p (i / 64)).1 (poolIdx p (i / 64)).2) (i % 64)

/-- A bit of a pool's bitmap written. -/
def State.setPoolBit (s : State) (d p i : Nat) (v : Bool) : State :=
  let k := poolIdx p (i / 64)
  s.setTw .poolMap d k.1 k.2 (putBits (s.tw .poolMap d k.1 k.2) (i % 64) 1 (b2n v))

/-- What an HBM address shows of a die's rings and bitmaps: pool, ring or bitmap, and byte from its start. -/
def State.poolAt (s : State) (a : Nat) : Option (Nat × Nat × Bool × Nat) :=
  let d := a / (72 * 10 ^ 9)
  if d < 8 ∧ s.live (.pool d) ∧ s.reg (.pool d) 0x100 ≤ a then
    (((s.poolLayout d).1.zip (upTo 6)).findSome? fun e =>
      let n := s.g (.pool d) (POOL_CFG_count.at (8 * e.2))
      if e.1.1 ≤ a ∧ a < e.1.1 + 8 * n then some (e.2, true, a - e.1.1)
      else if e.1.2 ≤ a ∧ a < e.1.2 + (n + 7) / 8 then some (e.2, false, a - e.1.2) else none).map (d, ·)
  else none

/-- A byte of HBM: of a ring or a bitmap where one lies there, else of the memory. -/
def State.hbmByte (s : State) (a : Nat) : Byte :=
  match s.poolAt a with
  | none => memRead s.hbm a
  | some (d, p, true, o) => BitVec.ofNat 8 (s.ringAt d p (o / 8) / 2 ^ (8 * (o % 8)))
  | some (d, p, false, o) =>
    BitVec.ofNat 8 (s.tw .poolMap d (poolIdx p (o / 8)).1 (poolIdx p (o / 8)).2 / 2 ^ (8 * (o % 8)))

/-- A byte of HBM written. -/
def State.setHbmByte (s : State) (a : Nat) (v : Byte) : State :=
  match s.poolAt a with
  | none => { s with hbm := memWrite s.hbm a v }
  | some (d, p, true, o) => s.setRing d p (o / 8) (putBits (s.ringAt d p (o / 8)) (8 * (o % 8)) 8 v.toNat)
  | some (d, p, false, o) =>
    let k := poolIdx p (o / 8)
    s.setTw .poolMap d k.1 k.2 (putBits (s.tw .poolMap d k.1 k.2) (8 * (o % 8)) 8 v.toNat)

/-- A run of HBM may touch a die's rings or bitmaps. -/
def State.poolTouched (s : State) (a n : Nat) : Bool :=
  (upTo 8).any fun d => s.live (.pool d) && decide (s.reg (.pool d) 0x100 < a + n) && decide (a < (s.poolLayout d).2)

/-! ## Memories (R281, R365) -/

/-- The first HBM address beyond the part's 576 GB. -/
def hbmTop : Nat := 576 * 10 ^ 9

/-- The size of each space: HBM, array stores, vector stores. -/
def spaceTop : Nat → Nat
  | 0 => hbmTop
  | 1 => 16 * 64 * 2 ^ 20
  | 2 => 16 * 32 * 2 ^ 20
  | _ => 0

/-- The memory of a space. -/
def State.space (s : State) : Nat → Memory
  | 0 => s.hbm
  | 1 => s.arr
  | _ => s.vec

/-- The state with the memory of a space replaced. -/
def State.setSpace (s : State) (sp : Nat) (m : Memory) : State :=
  match sp with
  | 0 => { s with hbm := m }
  | 1 => { s with arr := m }
  | _ => { s with vec := m }

/-- The address of a byte of a function's host memory in the one host store (assumption 7). -/
def hostAddr (fn a : Nat) : Nat := fn * 2 ^ 52 + a % 2 ^ 52

/-- The function of a master: 0 the physical function, `p + 1` a virtual function. -/
def masterFn (m : Nat) : Nat := match vfPart m with | some p => p + 1 | none => 0

/-- Bytes of a space. -/
def State.readSpace (s : State) (sp a n : Nat) : List Byte :=
  if sp = 0 ∧ s.poolTouched a n then (upTo n).map fun i => s.hbmByte (a + i) else memReads (s.space sp) a n

/-- Bytes written to a space. -/
def State.writeSpace (s : State) (sp a : Nat) (bs : List Byte) : State :=
  if sp = 0 ∧ s.poolTouched a bs.length then (bs.zip (upTo bs.length)).foldl (fun s e => s.setHbmByte (a + e.2) e.1) s
  else s.setSpace sp (memWrites (s.space sp) a bs)

/-- Bytes of a function's host memory, or of a space. -/
def State.readBuf (s : State) (fn : Nat) (host : Bool) (sp a n : Nat) : List Byte :=
  if host then memReads s.host (hostAddr fn a) n else s.readSpace sp a n

/-- Bytes written to a function's host memory, or to a space. -/
def State.writeBuf (s : State) (fn : Nat) (host : Bool) (sp a : Nat) (bs : List Byte) : State :=
  if host then { s with host := memWrites s.host (hostAddr fn a) bs } else s.writeSpace sp a bs

/-- The region of a space that holds a byte (R365), of those that are valid. -/
def State.regionOf (s : State) (sp a : Nat) : Option Nat :=
  (upTo 1024).find? fun r =>
    s.tb .chrRegion 0 r chrRegion_valid && s.t .chrRegion 0 r chrRegion_space == sp &&
      decide (s.t .chrRegion 0 r chrRegion_base ≤ a) &&
      decide (a < s.t .chrRegion 0 r chrRegion_base + s.t .chrRegion 0 r chrRegion_length)

/-- Some byte of a range lies in a valid region, of a partition where `owned` asks it (R365). -/
def State.inRegion (s : State) (owned : Bool) (sp a n : Nat) : Bool :=
  (upTo 1024).any fun r =>
    s.tb .chrRegion 0 r chrRegion_valid && (!owned || s.tb .chrRegion 0 r chrRegion_owned) &&
      s.t .chrRegion 0 r chrRegion_space == sp && decide (s.t .chrRegion 0 r chrRegion_base < a + n) &&
      decide (a < s.t .chrRegion 0 r chrRegion_base + s.t .chrRegion 0 r chrRegion_length)

/-- May a master with a tag access `n` bytes from an address of a space (R365, R367)? An access that starts in no region
must lie in none. -/
def State.memMay (s : State) (m : Nat) (tag : Option Nat) (sp a n : Nat) (r : Right) : Bool :=
  if m = 0 then true
  else match s.regionOf sp a with
    | none => (m == 0x10 || (2 ≤ m && m ≤ 7)) && !s.inRegion false sp a n
    | some g =>
      !s.tb .chrRegion 0 g chrRegion_erasing &&
        decide (a + n ≤ s.t .chrRegion 0 g chrRegion_base + s.t .chrRegion 0 g chrRegion_length) &&
        (upTo 8).any fun i => aclGrants (s.tw .chrRegion 0 g (3 + i)) m tag r

/-- An image of `n` bytes may be read for a writer: from host memory, or from HBM that the writer may read (R36, R365). -/
def State.imageMay (s : State) (m : Nat) (host : Bool) (a n : Nat) : Bool := host || s.memMay (mst m) (reqPart m) 0 a n .read

/-- A space reaches nothing in the present power state: the stores in Pupa and Diapause, HBM in Diapause (R389). -/
def State.asleep (s : State) (sp : Nat) : Bool :=
  if sp = 0 then s.g .pwr PWR_STATE_state == 2 else s.g .pwr PWR_STATE_state == 1 || s.g .pwr PWR_STATE_state == 2

/-- A mesh memory access that was denied raises MEM_DENIED (R390). -/
def State.memDenied (s : State) : State := s.raise .chr cMEM_DENIED

/-! ## Jobs -/

/-- The work of a kind that a page's status register reports. -/
def State.job (s : State) (k : JobKind) (pg off : Nat) : Option Job :=
  s.jobs.find? fun j => j.kind == k && j.page == pg && j.off == off

/-- The state with one more piece of work in progress. -/
def State.addJob (s : State) (j : Job) : State := { s with jobs := s.jobs ++ [j] }

/-- The state without that work. -/
def State.dropJob (s : State) (k : JobKind) (pg off : Nat) : State :=
  { s with jobs := s.jobs.filter fun j => !(j.kind == k && j.page == pg && j.off == off) }

/-- A status register of the common layout shows busy. -/
def State.setBusy (s : State) (b : Blk) (off : Nat) : State := s.p b ⟨off, 8, 1⟩ 1

/-- A status register of the common layout shows a code, busy 0 and its next sequence number. -/
def State.finish (s : State) (b : Blk) (off : Nat) (c : Code) : State :=
  let q := bits (s.reg b off) 32 32
  s.setReg b off (c.val + (q + 1) % 2 ^ 32 * 2 ^ 32)

/-- A command that carries a reserved op completes with BAD_ARG and has no other effect (R7, R483). -/
def State.refuseOp (s : State) (m : Nat) (b : Blk) (off st : Nat) : State := (s.refuse m b off .badArg).finish b st .badArg

/-! ## Interrupts (R454, R457) -/

/-- The vectors of a function: 256 of the physical function, 112 of a virtual function (R442). -/
def fnVectors (fn : Nat) : Nat := if fn = 0 then 256 else 112

/-- An interrupt on a vector of a function: sent, or pending while the vector is masked (R454). A vector beyond the
function's table sends nothing. -/
def State.msi (s : State) (fn v : Nat) : State :=
  if fnVectors fn ≤ v then s
  else if s.tb .msix 0 (fn * 256 + v) msix_mask then s.pt .msix 0 (fn * 256 + v) msix_pba 1
  else (s.emit (.msix fn v) 0 [s.t .msix 0 (fn * 256 + v) msix_addr, s.t .msix 0 (fn * 256 + v) msix_data] []).inc .pci
    PCI_MSIX_SENT_count

/-- An In-Band Interrupt with its mandatory byte, held until the controller accepts it (R457). -/
def State.ibi (s : State) (byte : Nat) : State :=
  { (s.emit .ibi byte [byte] []) with
    hst := { s.hst with ibiHeld := if s.hst.ibiHeld.contains byte then s.hst.ibiHeld else s.hst.ibiHeld ++ [byte] } }

/-- The DEV level has risen: vector 0 of the physical function, and the In-Band Interrupt where it is enabled. -/
def State.levelNotice (s : State) : State :=
  if s.alarm then
    let l := (s.pin 5 .dev).getD 0
    let s' := if s.hst.levelSeen < l then
        let s := s.msi 0 0
        if bit (s.g .thx THX_I3C_ibi_en) 0 ∧ s.g .thx THX_I3C_ibi_level ≤ l then s.ibi 1 else s
      else s
    { s' with alarm := false, hst := { s'.hst with levelSeen := l } }
  else s

/-- A change of the power state, or Eclosion: vector 1 and the In-Band Interrupt with byte `byte`. -/
def State.powerNotice (s : State) (byte : Nat) : State :=
  let s := s.msi 0 1
  if bit (s.g .thx THX_I3C_ibi_en) 2 then s.ibi byte else s

/-- The REFCLK of the SerDes die that feeds a switch tile is present (R11, R471). -/
def State.tileClock (s : State) (t : Nat) : Bool := s.gb (.die (t / 2)) LNK_DIE_REFCLK_present

/-! ## The rails (R402, R458) -/

/-- A rail's set-point on its AVSBus (R458). A regulator that has missed three loops keeps its last one (R407). -/
def State.setRail (s : State) (core : Bool) (mv : Nat) : State :=
  if core then if 3 ≤ s.boot.avsMiss.1 then s else (s.p .pwr PWR_VNOW_vcore_c_mv mv).emit (.avs 0) 0 [mv] []
  else if 3 ≤ s.boot.avsMiss.2 then s else (s.p .pwr PWR_VNOW_vcore_s_mv mv).emit (.avs 1) 0 [mv] []

/-- No rail exceeds its set-point (R402). -/
def State.clampRail (s : State) (core : Bool) : State :=
  let now := s.g .pwr (if core then PWR_VNOW_vcore_c_mv else PWR_VNOW_vcore_s_mv)
  let set := s.g .pwr (if core then PWR_VSET_vcore_c_mv else PWR_VSET_vcore_s_mv)
  if set < now then s.setRail core set else s

/-- THERMAL_HOT: vector 1 and its In-Band Interrupt. -/
def State.hotNotice (s : State) : State :=
  let s := s.msi 0 1
  if bit (s.g .thx THX_I3C_ibi_en) 1 then s.ibi 2 else s

end Sys2Proof.Machine
end

