-- ==== Sys2Proof/Machine/LinkOps.lean ====
section
/-! DEFINITION. Lanes, port groups and logical ports (chapter 3): which lanes a port has, its stage, the width of its
link, and the switchover onto a spare. -/

namespace Sys2Proof.Machine

/-- The personalities of R42. -/
inductive Pers where
  | eth | tlinkFabric | tlinkAttach
deriving DecidableEq, Repr

/-- The personality of a code of LNK_GRP_CFG. -/
def Pers.ofVal : Nat → Pers
  | 0 => .eth
  | 1 => .tlinkFabric
  | _ => .tlinkAttach

/-- The personality of a port group. -/
def State.pers (s : State) (g : Nat) : Pers := Pers.ofVal (s.g (.grp g) LNK_GRP_CFG_personality)

/-- The breakout of a port group. -/
def State.breakout (s : State) (g : Nat) : Nat := s.g (.grp g) LNK_GRP_CFG_breakout

/-- The port group of a port id (R99). -/
def portGroup (port : Nat) : Nat := port / 4

/-- The switch tile of a port id (R99). -/
def portTile (port : Nat) : Nat := port / 32

/-- The local port id of a port: its number on its tile. -/
def localPort (port : Nat) : Nat := port % 32

/-- Does the id name a port under the breakout of its group (R99)? -/
def State.portExists (s : State) (port : Nat) : Bool :=
  match s.breakout (portGroup port) with
  | 0 => true
  | 1 => port % 2 == 0
  | 2 => port % 4 == 0
  | _ => port % 8 == 0

/-- The lanes that a port's configuration gives it, by their number within the link (R11, R62). -/
def State.portLanes (s : State) (port : Nat) : List (Nat × Nat) :=
  let g := portGroup port
  match s.breakout g with
  | 0 => [groupLane g (port % 4)]
  | 1 => (upTo 2).map fun i => groupLane g (port % 4 + i)
  | 2 => (upTo 4).map fun i => groupLane g i
  | _ => (upTo 8).map fun i => groupLane (g + i / 4) (i % 4)

/-- The groups that a port spans: two when it is bonded (R62). -/
def State.portGroups (s : State) (port : Nat) : List Nat :=
  let g := portGroup port
  if s.breakout g = 3 then [g, g + 1] else [g]

/-- The ports of a group; the odd group of a bond names none (R99). -/
def State.groupPorts (s : State) (g : Nat) : List Nat :=
  match s.breakout g with
  | 0 => [4 * g, 4 * g + 1, 4 * g + 2, 4 * g + 3]
  | 1 => [4 * g, 4 * g + 2]
  | 2 => [4 * g]
  | _ => if g % 2 = 0 then [4 * g] else []

/-- The port that an active lane belongs to. -/
def State.lanePort (s : State) (k n : Nat) : Nat :=
  let (g, i) := laneGroup k n
  match s.breakout g with
  | 0 => 4 * g + i
  | 1 => 4 * g + i / 2 * 2
  | 2 => 4 * g
  | _ => 4 * (g / 2 * 2)

/-- The number of an active lane within its link. -/
def State.laneIdx (s : State) (k n : Nat) : Nat :=
  let (g, i) := laneGroup k n
  match s.breakout g with
  | 0 => 0
  | 1 => i % 2
  | 2 => i
  | _ => g % 2 * 4 + i

/-- The three fields of LNK_GRP_STATUS for port `p` of a group. -/
def grpStage (p : Nat) : Fld := ⟨LNK_GRP_STATUS_ports.off, 8 * p, 3⟩
def grpUp (p : Nat) : Fld := ⟨LNK_GRP_STATUS_ports.off, 8 * p + 3, 1⟩
def grpWidth (p : Nat) : Fld := ⟨LNK_GRP_STATUS_ports.off, 8 * p + 4, 4⟩

/-- The stage of a logical port (R51). -/
def State.stage (s : State) (port : Nat) : Nat := s.g (.grp (portGroup port)) (grpStage (port % 4))

/-- The port is ACTIVE. -/
def State.active (s : State) (port : Nat) : Bool := s.stage port == 5

/-- A hidden field of a port. -/
def State.hp (s : State) (port : Nat) (f : Fld) : Nat := s.g (.grp (portGroup port)) (f.at (8 * (port % 4)))

/-- The state with a hidden field of a port replaced. -/
def State.php (s : State) (port : Nat) (f : Fld) (v : Nat) : State :=
  s.p (.grp (portGroup port)) (f.at (8 * (port % 4))) v

/-- How many bits of a mask of `n` are clear. -/
def clearBits (n mask : Nat) : Nat := ((upTo n).filter fun i => !bit mask i).length

/-- The width that a link of `n` lanes keeps when those of `lost` are gone: the largest of 8, 4, 2, 1 that still
works (R57). -/
def keptWidth (n lost : Nat) : Nat :=
  let w := clearBits n lost
  if 8 ≤ w then 8 else if 4 ≤ w then 4 else if 2 ≤ w then 2 else w

/-- The working lanes of a port's link, by number: the lowest-indexed of those that still work (R57). -/
def State.workLanes (s : State) (port : Nat) : List Nat :=
  let n := (s.portLanes port).length
  let lost := s.hp port H_PORT_lost
  ((upTo n).filter fun i => !bit lost i).take (keptWidth n lost)

/-- A lane's status shows a stage (LNK_LANE_STATUS). The spec names no stage at which its flags rise: signal reads 1 from
TRAIN on, the two locks from CAPEX on, once LOCK has ended (assumption 155). -/
def State.showLane (s : State) (kn : Nat × Nat) (st : Nat) : State :=
  let b := Blk.lane kn.1 kn.2
  let s := s.p b LNK_LANE_STATUS_stage st
  let s := s.p b LNK_LANE_STATUS_signal (b2n (2 ≤ st))
  let s := s.p b LNK_LANE_STATUS_cdr_lock (b2n (4 ≤ st))
  s.p b LNK_LANE_STATUS_cw_lock (b2n (4 ≤ st))

/-- The physical lane that carries an active lane: its spare where it is on one. -/
def State.carrier (s : State) (kn : Nat × Nat) : Nat × Nat :=
  let b := Blk.lane kn.1 kn.2
  if s.gb b LNK_LANE_STATUS_on_spare then (kn.1, s.g b LNK_LANE_STATUS_peer_lane) else kn

/-- A port's status shows a stage and its width, on both pages of a bond (R51, R62), and so do the lanes that carry it; a
lane whose spare carries it stands at 0. -/
def State.showPort (s : State) (port st : Nat) : State :=
  let w := if st = 5 then (s.workLanes port).length else 0
  let s := (s.portGroups port).foldl (fun s g =>
    let b := Blk.grp g
    ((s.p b (grpStage (port % 4)) st).p b (grpUp (port % 4)) (b2n (st = 5))).p b (grpWidth (port % 4)) w) s
  (s.portLanes port).foldl (fun s l =>
    let c := s.carrier l
    if c = l then s.showLane l st else (s.showLane l 0).showLane c st) s

/-- The conditions under which a port may leave OFF: every page it spans enabled and running, every lane powered, and
every SerDes die's clock present (R51, R62, R63). -/
def State.portMay (s : State) (port : Nat) : Bool :=
  (s.portGroups port).all (fun g => s.effEnable (.grp g) && s.st (.grp g) != .off && s.st (.grp g) != .faulted) &&
  (s.portLanes port).all fun l =>
    s.gb (.lane l.1 l.2) LNK_LANE_CTRL_power && s.gb (.lane (s.carrier l).1 (s.carrier l).2) LNK_LANE_CTRL_power &&
      s.st (.die l.1) != .faulted && s.st (.die l.1) != .off

/-- Every clock that a port's lanes need is present (R53, R63). -/
def State.clocked (s : State) (port : Nat) : Bool :=
  (s.portLanes port).all fun l => s.gb (.die l.1) LNK_DIE_REFCLK_present

/-- The fields of LNK_SPARE_MAP for spare `j`. -/
def spareLane (j : Nat) : Fld := ⟨LNK_SPARE_MAP_map.off, 16 * j, 6⟩
def spareInUse (j : Nat) : Fld := ⟨LNK_SPARE_MAP_map.off, 16 * j + 6, 1⟩
def spareFailed (j : Nat) : Fld := ⟨LNK_SPARE_MAP_map.off, 16 * j + 7, 1⟩
def spareChannel (j : Nat) : Fld := ⟨LNK_SPARE_MAP_map.off, 16 * j + 8, 1⟩

/-- The spare that serves an active lane (R54). -/
def spareOf (n : Nat) : Nat := n / 16

/-- The ports with a lane on a SerDes die. -/
def State.diePorts (s : State) (k : Nat) : List Nat := ((upTo 64).map (s.lanePort k)).eraseDups

/-- LNK_SPARE_MAP.channel of the die that carries a port: channel `j` reads 1 while the partner of some port of the die
has it declared by its latest message, and 0 once no such port is past LOCK (assumption 156). -/
def State.showSpares (s : State) (port : Nat) : State :=
  match s.portLanes port with
  | [] => s
  | l :: _ =>
    let ps := s.diePorts l.1
    (upTo 4).foldl (fun s j =>
      s.p (.die l.1) (spareChannel j) (b2n (ps.any fun p => bit (s.hp p H_PORT_spares) j))) s

/-- A spare can take an active lane in service: a TLink link that is ACTIVE, whose partner declared the channel, and the
spare neither in use nor failed (R54, R55, R58). -/
def State.spareUsable (s : State) (k n : Nat) : Bool :=
  let port := s.lanePort k n
  n < 64 && s.active port && s.pers (portGroup port) != .eth && bit (s.hp port H_PORT_spares) (spareOf n) &&
    !s.gb (.die k) (spareInUse (spareOf n)) && !s.gb (.die k) (spareFailed (spareOf n))

/-- The message that a lane's control codewords carry from now on, with its seven body bytes (R49, R50): each of them
carries it until another takes its place. -/
def State.ctlMsg (s : State) (kn : Nat × Nat) (msg : Nat) (body : List Byte) : State :=
  let c := s.carrier kn
  s.setReg (.lane c.1 c.2) H_LMSG_msg.off (msg + ofLeBytes (fit 7 body) * 2 ^ 8)

/-- The body bytes 9 to 15 of a switchover's messages: the index, the spare and, of the last two, the count (R50). -/
def swBody (idx j count : Nat) : List Byte := beBytes 1 idx ++ beBytes 1 j ++ [0] ++ beBytes 4 count

/-- The lane that a switchover moves has lost lock (R57). -/
def State.swLost (s : State) (w : Switchover) : Bool := bit (s.hp (s.lanePort w.die w.lane) H_PORT_lost) w.idx

/-- The lane on which a switchover's messages travel: the failing lane, or a working lane of the link where it has
lost lock (R57). -/
def State.swLane (s : State) (w : Switchover) : Nat × Nat :=
  if s.swLost w then
    let port := s.lanePort w.die w.lane
    match s.workLanes port with
    | i :: _ => (s.portLanes port).getD i (w.die, w.lane)
    | [] => (w.die, w.lane)
  else (w.die, w.lane)

/-- The message of a switchover at its phase: spare_prepare, spare_switch or spare_ack (R50, R56). -/
def Switchover.message (w : Switchover) : Nat × List Byte :=
  match w.phase, w.initiator with
  | .training, true => (2, swBody w.idx w.spare 0)
  | .training, false => (0, [])
  | .acked, false => (4, swBody w.idx w.spare w.count)
  | _, _ => (3, swBody w.idx w.spare w.count)

/-- The message of the switchover of a die is what the lane that carries it repeats. -/
def State.swSay (s : State) (k : Nat) : State :=
  match s.sws.find? (·.die == k) with
  | none => s
  | some w => s.ctlMsg (s.swLane w) w.message.1 w.message.2

/-- A switchover begins: the spare (or, on the way back, the lane) is powered and trains (R56 steps 1 and 2). -/
def State.startSwitch (s : State) (k n : Nat) (revert initiator : Bool) : State :=
  let j := spareOf n
  let w : Switchover :=
    { die := k, lane := n, spare := j, idx := s.laneIdx k n, revert := revert, initiator := initiator
      phase := .training, count := 0 }
  let s := { s with sws := s.sws ++ [w] }
  let s := s.showLane (if revert then (k, n) else (k, 64 + j)) 2
  let s := if revert then s else s.p (.lane k (64 + j)) LNK_LANE_CTRL_power 1
  s.swSay k

/-- A request for a lane: it starts, or waits behind the switchover under way on its die (R58); a lane whose switchover
is under way or waits already gets no second one. -/
def State.requestSwitch (s : State) (k n : Nat) (revert : Bool) : State :=
  if (s.sws.any fun w => w.die == k && w.lane == n) || s.swWaits.any fun w => w.die == k && w.lane == n then s
  else if s.sws.any (·.die == k) then { s with swWaits := s.swWaits ++ [⟨k, n, revert⟩] }
  else s.startSwitch k n revert true

/-- The switchover of a die. -/
def State.sw (s : State) (k : Nat) : Option Switchover := s.sws.find? (·.die == k)

/-- The state with the switchover of a die replaced. -/
def State.setSw (s : State) (w : Switchover) : State :=
  { s with sws := s.sws.map fun x => if x.die = w.die then w else x }

/-- The state without the switchover of a die. -/
def State.endSw (s : State) (k : Nat) : State := { s with sws := s.sws.filter fun x => x.die != k }

/-- A switchover ends without the move: what trained goes down again, and the lane stays where it was (R56, R58). -/
def State.undoSwitch (s : State) (w : Switchover) : State :=
  let s := (s.ctlMsg (s.swLane w) 0 []).endSw w.die
  if w.revert then s.showLane (w.die, w.lane) 0
  else (s.showLane (w.die, 64 + w.spare) 0).p (.lane w.die (64 + w.spare)) LNK_LANE_CTRL_power 0

/-- The codewords of a lane go on where another carried them: place, counts and scramblers move (R56 step 4). -/
def State.carryOn (s : State) (k src dst : Nat) : State :=
  [H_LANE_ctl_count.off, H_LSCR_tx.off, H_LSCR2_rx.off, H_LRX_ctl.off].foldl
    (fun s o => s.setReg (.lane k dst) o (s.reg (.lane k src) o)) s

/-- The codewords move (R56 steps 4 and 5): the lane onto its spare, or back; the map, the marks and the width follow,
and SPARE_USED tells of a spare in use. The power bit of the failing lane stays: its state shows as stage 0 and failed,
while the part sets and clears the power bit of the spare (assumption 157). -/
def State.finishSwitch (s : State) (w : Switchover) : State :=
  let lane := Blk.lane w.die w.lane
  let sp := Blk.lane w.die (64 + w.spare)
  let port := s.lanePort w.die w.lane
  let from_ := (s.swLane w).2
  let s := (s.ctlMsg (s.swLane w) 0 []).endSw w.die
  let s := s.php port H_PORT_lost (putBits (s.hp port H_PORT_lost) w.idx 1 0)
  let s :=
    if w.revert then
      let s := s.carryOn w.die (if from_ = w.lane then 64 + w.spare else from_) w.lane
      let s := ((s.p lane LNK_LANE_STATUS_on_spare 0).p lane LNK_LANE_STATUS_peer_lane 0).p lane LNK_LANE_STATUS_failed 0
      let s := (s.p sp LNK_LANE_STATUS_on_spare 0).p sp LNK_LANE_STATUS_peer_lane 0
      let s := (s.showLane (w.die, 64 + w.spare) 0).p sp LNK_LANE_CTRL_power 0
      s.p (.die w.die) (spareInUse w.spare) 0
    else
      let s := s.carryOn w.die from_ (64 + w.spare)
      let s := ((s.p lane LNK_LANE_STATUS_on_spare 1).p lane LNK_LANE_STATUS_peer_lane (64 + w.spare)).p lane
        LNK_LANE_STATUS_failed 1
      let s := (s.p sp LNK_LANE_STATUS_on_spare 1).p sp LNK_LANE_STATUS_peer_lane w.lane
      (s.p (.die w.die) (spareInUse w.spare) 1).p (.die w.die) (spareLane w.spare) w.lane
  let s := s.showPort port (s.stage port)
  if w.revert then s else s.raise (.die w.die) cSPARE_USED

/-- The spare does not train (R56, R57): the switchover ends, the spare is marked failed, and a link that has lost
the lane stays narrow. -/
def State.failSwitch (s : State) (w : Switchover) : State :=
  let lost := s.swLost w
  let s := s.undoSwitch w
  let s := if w.revert then s else s.p (.die w.die) (spareFailed w.spare) 1
  if lost then s.raise (.die w.die) cSPARE_EXHAUSTED else s

/-- The next request that waits on a die: the lowest lane (R58). -/
def State.nextSwWait (s : State) (k : Nat) : Option SwWait :=
  (s.swWaits.filter (·.die == k)).foldl (fun r w =>
    match r with
    | none => some w
    | some x => if w.lane < x.lane then some w else some x) none

/-- The counters of a lane page cleared (R60). -/
def State.clearLane (s : State) (k n : Nat) : State :=
  let b := Blk.lane k n
  let s := [0x138, 0x140, 0x148, 0x150, 0x158, 0x160, 0x718, 0x720].foldl (fun s o => s.setReg b o 0) s
  (upTo 16).foldl (fun s i => s.setReg b (0x180 + 8 * i) 0) s

/-- What the decoder of a lane counts for a codeword: the symbols it corrected, none where the codeword was not
correctable (R49, the lane registers). -/
def State.countFec (s : State) (k n : Nat) (fec : Option Nat) : State :=
  let b := Blk.lane k n
  let s := s.inc b LNK_FEC_CW_codewords
  match fec with
  | none => (s.inc b LNK_FEC_UNCORR_uncorrectable).inc b H_LWIN2_uncorr
  | some c =>
    let s := s.inc b (LNK_FEC_HIST_bin.at (8 * (c % 16)))
    if c = 0 then s
    else ((s.inc b LNK_FEC_CORR_CW_corrected).add b LNK_FEC_CORR_SYM_symbols c).add b H_LWIN_corr c

/-- A lane has passed the spare policy within its window (R56). -/
def State.overPolicy (s : State) (k n : Nat) : Bool :=
  let b := Blk.lane k n
  s.g (.die k) LNK_SPARE_POLICY_corr_sym_limit < s.g b H_LWIN_corr ||
    s.g (.die k) LNK_SPARE_POLICY_uncorr_limit < s.g b H_LWIN2_uncorr

/-- What a passed policy of lane page `n` does, which counts for active lane `l`: a switchover where the group allows it
and a spare can take the lane, else FEC_DEGRADE, for a spare in use too (R56, R63). It acts once in a window. -/
def State.applyPolicy (s : State) (k n l : Nat) : State :=
  if s.overPolicy k n then
    let s := (s.p (.lane k n) H_LWIN_corr 0).p (.lane k n) H_LWIN2_uncorr 0
    if s.gb (.grp (laneGroup k l).1) LNK_GRP_CFG_spare_auto ∧ n < 64 ∧ s.spareUsable k l then s.requestSwitch k l false
    else s.raise (.lane k n) cFEC_DEGRADE
  else s

/-! ## Crossings (R350 to R355) -/

/-- The page has crossings. -/
def Blk.hasXing : Blk → Bool
  | .lane _ _ | .hbm _ | .pci => true
  | _ => false

/-- One run of the alignment protocol on crossing `n` of a page (R352): it stands at its target occupancy. -/
def State.alignXing (s : State) (b : Blk) (n : Nat) : State :=
  let s := s.p b (XING_STATUS_aligned.at (8 * n)) 1
  (s.p b (XING_STATUS_occupancy.at (8 * n)) (s.g b (XING_STATUS_target.at (8 * n)))).inc b XING_REALIGNS_count

/-- The runs that end a page's training (R353): both crossings of HBM and of PCI Express, and a lane's transmit one. -/
def State.alignTrained (s : State) (b : Blk) : State :=
  match b with
  | .hbm _ | .pci => (s.alignXing b 0).alignXing b 1
  | .lane _ _ => s.alignXing b 1
  | _ => s

end Sys2Proof.Machine
end

