-- ==== Sys2Proof/Machine/RoostOps.lean ====
section
/-! DEFINITION. The Roost's counters, flags, watches and barriers (chapter 9): signals, flag writes, the firing of
watches, epochs, translation, and the wait detector. -/

namespace Sys2Proof.Machine

/-! ## Codes of a counter, a flag or a watch -/

/-- A counter or a flag, as a watch names it. -/
inductive Obj where
  | cnt (c : Nat) | flg (f : Nat)
deriving DecidableEq, Repr

/-- The present value of a counter or flag. -/
def State.objVal (s : State) : Obj → Nat
  | .cnt c => s.t .synCnt 0 c synCnt_value
  | .flg f => s.t .synFlag 0 f synFlag_value

/-- The epoch of a counter or flag. -/
def State.objEpoch (s : State) : Obj → Nat
  | .cnt c => s.t .synCnt 0 c synCnt_epoch
  | .flg f => s.t .synFlag 0 f synFlag_epoch

/-- What a watch slot watches. -/
def State.watchObj (s : State) (w : Nat) : Obj :=
  let id := s.t .synWatch 0 w synWatch_target_id
  if s.tb .synWatch 0 w synWatch_kind then .flg id else .cnt id

/-- The condition of a watch holds (R235). -/
def State.watchHolds (s : State) (w : Nat) : Bool :=
  match s.watchObj w with
  | .cnt c => s.t .synWatch 0 w synWatch_target ≤ s.objVal (.cnt c)
  | .flg f => s.objVal (.flg f) == s.t .synWatch 0 w synWatch_want

/-- The armed watches, in ascending slot number. -/
def State.armedWatches (s : State) : List Nat :=
  ((s.listed .synWatch 0 0).filter fun e => bit e.2 0).map (·.1)

/-- The watches armed on an object. -/
def State.watchersOf (s : State) (o : Obj) : List Nat := s.armedWatches.filter fun w => s.watchObj w == o

/-- The count of armed watches that an object shows, changed. -/
def State.watchCount (s : State) (o : Obj) (up : Bool) : State :=
  match o with
  | .cnt c =>
    let n := s.t .synCnt 0 c synCnt_watches
    s.pt .synCnt 0 c synCnt_watches (if up then n + 1 else n - 1)
  | .flg f =>
    let n := s.t .synFlag 0 f synFlag_watches
    s.pt .synFlag 0 f synFlag_watches (if up then n + 1 else n - 1)

/-- The function whose memory a watch writes: its owning partition's virtual function, else the physical one. -/
def State.watchFn (s : State) (w : Nat) : Nat :=
  if s.tb .synWatch 0 w synWatch_owned then s.t .synWatch 0 w synWatch_partition + 1 else 0

/-- The watch message (R239). -/
def State.watchMsg (s : State) (w : Nat) (c : Code) (value : Nat) : List Byte :=
  let o := s.watchObj w
  leBytes 8 (w + c.val * 2 ^ 16 + s.objEpoch o * 2 ^ 24 + s.t .synWatch 0 w synWatch_target_id * 2 ^ 40 +
      s.t .synWatch 0 w synWatch_kind * 2 ^ 56) ++
    leBytes 8 value ++ leBytes 8 (s.tw .synWatch 0 w 2) ++ leBytes 8 (s.t .synWatch 0 w synWatch_reg_seq)

/-- A system flag that reads 0 and that no master writes (R233). -/
def fixedFlag (f : Nat) : Bool := 3 ≤ f && f < 64

/-- A SET or CLR on a flag itself, with the count of redundant writes (R232); whether the flag changed. -/
def State.putFlag (s : State) (f : Nat) (v : Bool) : Bool × State :=
  let old := s.tb .synFlag 0 f synFlag_value
  if old = v then
    let s := s.pt .synFlag 0 f synFlag_redundant (satAdd 16 (s.t .synFlag 0 f synFlag_redundant) 1)
    (false, if v then s.inc .syn REDUNDANT_SET_count else s)
  else (true, s.pt .synFlag 0 f synFlag_value (b2n v))

/-- A watch returns to FREE and sends its message (R235, R239); the flag that the message changed, where it sets one. -/
def State.sendWatch (s : State) (w : Nat) (c : Code) (value : Nat) : State × List Obj :=
  let msg := s.watchMsg w c value
  let fn := s.watchFn w
  let s := s.watchCount (s.watchObj w) false
  let s := (s.pt .synWatch 0 w synWatch_state 0).inc .syn SYN_WATCH_FIRED_count
  match s.t .synWatch 0 w synWatch_dest_kind with
  | 0 => (s.emit (.agent (s.t .synWatch 0 w synWatch_dest)) 0 [w, c.val, value] msg, [])
  | 1 =>
    let s := s.writeBuf fn true 0 (s.t .synWatch 0 w synWatch_host_addr) msg
    (if s.tb .synWatch 0 w synWatch_irq then s.msi fn (s.t .synWatch 0 w synWatch_vector) else s, [])
  | _ =>
    let f := s.t .synWatch 0 w synWatch_host_addr % 4096
    -- R233: flags 3 to 63 take no write of any master
    if fixedFlag f then (s, [])
    else
      let r := s.putFlag f true
      (r.2, if r.1 then [.flg f] else [])

/-- The watches of a list that hold fire with OK, in ascending slot number (R238). -/
def State.fireAll (s : State) (ws : List Nat) : State × List Obj :=
  ws.foldl (fun r w =>
    let v := match r.1.watchObj w with
      | .cnt _ => r.1.tw .synWatch 0 w 1
      | .flg _ => r.1.t .synWatch 0 w synWatch_want
    let q := r.1.sendWatch w .ok v
    (q.1, r.2 ++ q.2)) (s, [])

/-! ## Barriers (R243, R244) -/

/-- Member `m` of a barrier. -/
def State.barMember (s : State) (b m : Nat) : Nat := bits (s.tw .synBar 0 b (2 + m / 4)) (16 * (m % 4)) 16

/-- The members of a barrier. -/
def State.barMembers (s : State) (b : Nat) : List Nat :=
  (upTo (s.t .synBar 0 b synBar_n_minus_1 + 1)).map (s.barMember b)

/-- The G of a barrier: the least of its members' periods done. -/
def State.barG (s : State) (b : Nat) : Nat :=
  let p := s.t .synBar 0 b synBar_period
  match (s.barMembers b).map fun c => s.objVal (.cnt c) / p with
  | [] => 0
  | g :: l => l.foldl min g

/-- The armed barriers. -/
def State.armedBars (s : State) : List Nat := ((s.listed .synBar 0 0).filter fun e => bit e.2 19).map (·.1)

/-- An amount added to a counter, held at the largest value (R223). -/
def State.addCnt (s : State) (c amt : Nat) : State :=
  let v := s.objVal (.cnt c) + amt
  let s := s.inc .syn SYN_SIGNALS_count
  if 2 ^ 64 - 1 < v then (s.pt .synCnt 0 c synCnt_value (2 ^ 64 - 1)).raise .syn cCOUNTER_SAT
  else s.pt .synCnt 0 c synCnt_value v

/-- The armed barriers of a counter advance: each whose G has risen signals its output by the rise. -/
def State.barsOf (s : State) (c : Nat) : State × List Obj :=
  (s.armedBars.filter fun b => (s.barMembers b).contains c).foldl (fun r b =>
    let g := r.1.barG b
    let old := r.1.tw .synBar 0 b 5
    if old < g then
      let s := (r.1.setTw .synBar 0 b 5 g).pt .synBar 0 b synBar_generations (r.1.tw .synBar 0 b 4 + (g - old))
      let out := s.t .synBar 0 b synBar_out
      ((s.add .syn SYN_BAR_GENS_count (g - old)).addCnt out (g - old), r.2 ++ [.cnt out])
    else r) (s, [])

/-- What follows a change of counters and flags: the watches that now hold fire, and the barriers advance, until
nothing more changes (R235, R238, R243). -/
def State.changed : Nat → List Obj → State → State
  | 0, _, s => s
  | _, [], s => s
  | n + 1, o :: l, s =>
    let r := s.fireAll ((s.watchersOf o).filter s.watchHolds)
    match o with
    | .flg _ => State.changed n (l ++ r.2) r.1
    | .cnt c =>
      let q := r.1.barsOf c
      State.changed n (l ++ r.2 ++ q.2) q.1

/-- A change of one object, followed up. Each step fires a watch or advances a barrier of another counter. -/
def State.follows (s : State) (o : Obj) : State :=
  State.changed (1 + s.armedWatches.length + 256 * (1 + s.armedBars.length)) [o] s

/-! ## Signals (R223 to R229) -/

/-- A signal with a stale stamp is refused and counted (R229). -/
def State.stale (s : State) : State := (s.inc .syn SYN_STALE_SIGNALS_count).raise .syn cSTALE_SIGNAL

/-- A signal on a physical counter (R223, R224, R229). -/
def State.signalPhys (s : State) (c ep amt : Nat) : Code × State :=
  if ep ≠ s.objEpoch (.cnt c) then (.ownerLost, s.stale)
  else if amt = 0 then (.ok, s.inc .syn SYN_SIGNALS_count)
  else (.ok, (s.addCnt c amt).follows (.cnt c))

/-- How many low bits of a virtual id are its offset, for counters, flags and watches (R241). -/
def xlateBits : Nat → Nat
  | 0 => 12 | 1 => 8 | _ => 10

/-- How many objects of a kind the Roost holds. -/
def objCount : Nat → Nat
  | 0 => 65536 | 1 => 4096 | _ => 16384

/-- The physical id of a partition's virtual id (R241). -/
def State.xlate (s : State) (p kind id : Nat) : Option Nat :=
  let nb := xlateBits kind
  let i := p * 48 + kind * 16 + id / 2 ^ nb % 16
  let off := id % 2 ^ nb
  let phys := s.t .synXlate 0 i synXlate_base + off
  if s.tb .synXlate 0 i synXlate_valid ∧ off < s.t .synXlate 0 i synXlate_length ∧ phys < objCount kind then some phys
  else none

/-- A signal or flag write that does not resolve (R241). -/
def State.xlateMiss (s : State) : State := (s.inc .syn SYN_XLATE_MISS_count).raise .syn cXLATE_MISS

/-- A signal on a partition's virtual counter (R241). -/
def State.signalVirt (s : State) (p id ep amt : Nat) : Code × State :=
  match s.xlate p 0 id with
  | none => (.denied, s.xlateMiss)
  | some c => s.signalPhys c ep amt

/-- The signal of a completion: the counter field of a context with the stamp taken when it opened (R226). -/
def State.signalCtx (s : State) (p id ep : Nat) : State := if id = 0xFFFF then s else (s.signalVirt p id ep 1).2

/-- The stamp that a context takes of its counter (R226). -/
def State.stampOf (s : State) (p id : Nat) : Nat :=
  if id = 0xFFFF then 0 else match s.xlate p 0 id with
    | none => 0
    | some c => s.objEpoch (.cnt c)

/-! ## Epochs (R228, R230, R234, R244) -/

/-- Every watch of a list completes with OWNER_LOST and the value given (R230). -/
def State.loseWatches (s : State) (ws : List Nat) (value : Nat) : State × List Obj :=
  ws.foldl (fun r w =>
    let q := r.1.sendWatch w .ownerLost value
    (q.1, r.2 ++ q.2)) (s, [])

/-- The barriers that name a counter disarm (R244). -/
def State.loseBars (s : State) (c : Nat) : State :=
  (s.armedBars.filter fun b => s.t .synBar 0 b synBar_out == c || (s.barMembers b).contains c).foldl (fun s b =>
    (s.pt .synBar 0 b synBar_armed 0).raise .syn cBAR_LOST) s

/-- The epoch of a counter advances, with its value cleared or kept (R228). -/
def State.cntEpoch (s : State) (c : Nat) (clear : Bool) : State :=
  let v := s.objVal (.cnt c)
  let s := s.pt .synCnt 0 c synCnt_epoch (s.objEpoch (.cnt c) + 1)
  let s := if clear then s.pt .synCnt 0 c synCnt_value 0 else s
  let r := s.loseWatches (s.watchersOf (.cnt c)) v
  let s := r.1.loseBars c
  r.2.foldl State.follows s

/-- The epoch of a flag advances and the flag is cleared (R234). -/
def State.flagEpoch (s : State) (f : Nat) : State :=
  let v := s.objVal (.flg f)
  let s := (s.pt .synFlag 0 f synFlag_epoch (s.objEpoch (.flg f) + 1)).pt .synFlag 0 f synFlag_value 0
  let r := s.loseWatches (s.watchersOf (.flg f)) v
  r.2.foldl State.follows r.1

/-- The counters that a context owns or names in its counter field (R228). -/
def State.ctxCounters (s : State) (p c id : Nat) : List Nat :=
  let owned := ((s.listed .synCnt 0 1).filter fun e => bits e.2 16 2 == 2 && bits e.2 18 12 == c).map (·.1)
  let named := if id = 0xFFFF then [] else (s.xlate p 0 id).toList
  named ++ owned.filter fun x => !named.contains x

/-- The counters of a context's reset advance their epochs (R228). -/
def State.ctxEpochs (s : State) (p c id : Nat) : State :=
  (s.ctxCounters p c id).foldl (fun s x => s.cntEpoch x false) s

/-- The Roost's part of a partition's reset (R231). `ctxs` says which contexts are the partition's. -/
def State.roostReset (s : State) (p : Nat) (ctxs : Nat → Bool) : State :=
  let mine := s.armedWatches.filter fun w =>
    s.tb .synWatch 0 w synWatch_owned && s.t .synWatch 0 w synWatch_partition == p
  let s := mine.foldl (fun s w =>
    ((s.watchCount (s.watchObj w) false).pt .synWatch 0 w synWatch_state 0).inc .syn SYN_WATCH_LOST_count) s
  let cs := ((s.listed .synCnt 0 1).filter fun e =>
    (bits e.2 16 2 == 1 && bits e.2 18 4 == p) || (bits e.2 16 2 == 2 && ctxs (bits e.2 18 12))).map (·.1)
  let s := cs.foldl (fun s c => s.cntEpoch c true) s
  let fs := ((s.listed .synFlag 0 0).filter fun e => bit e.2 5 && bits e.2 1 4 == p).map (·.1)
  fs.foldl State.flagEpoch s

/-! ## Flags (R232, R233) -/

/-- A write of a physical flag by a master (R232, R233). -/
def State.flagWrite (s : State) (m f ep : Nat) (v : Bool) : Code × State :=
  if fixedFlag f ∨ (f < 64 ∧ !(m ≤ 9 || m == 0x10)) then (.denied, s)
  else if ep ≠ s.objEpoch (.flg f) then (.ownerLost, s.stale)
  else
    let r := s.putFlag f v
    (.ok, if r.1 then r.2.follows (.flg f) else r.2)

/-- A flag that the part itself sets or clears, no write (R233). -/
def State.sysFlag (s : State) (n : Nat) (v : Bool) : State :=
  if s.tb .synFlag 0 n synFlag_value = v then s else (s.pt .synFlag 0 n synFlag_value (b2n v)).follows (.flg n)

/-! ## Watches (R235, R236) -/

/-- A watch is armed as its entry stands (R235, R236). -/
def State.arm (s : State) (w : Nat) : Code × State :=
  let id := s.t .synWatch 0 w synWatch_target_id
  if s.tb .synWatch 0 w synWatch_state then (.refusedState, s)
  else if s.tb .synWatch 0 w synWatch_kind ∧ 4095 < id then (.badArg, s)
  else
    let o := s.watchObj w
    let s := s.pt .synWatch 0 w synWatch_reg_seq (s.t .synWatch 0 w synWatch_reg_seq + 1)
    let s := (s.pt .synWatch 0 w synWatch_wait_ticks 0).pt .synWatch 0 w synWatch_state 1
    let s := s.watchCount o true
    if s.t .synWatch 0 w synWatch_epoch ≠ s.objEpoch o then
      let r := s.sendWatch w .ownerLost (s.objVal o)
      (.ok, r.2.foldl State.follows r.1)
    else if s.watchHolds w then
      let r := s.fireAll [w]
      (.ok, r.2.foldl State.follows r.1)
    else (.ok, s)

/-- CANCEL (R236). -/
def State.cancel (s : State) (w : Nat) : Code × State :=
  if s.tb .synWatch 0 w synWatch_state then
    let r := s.sendWatch w .aborted (s.objVal (s.watchObj w))
    (.ok, r.2.foldl State.follows r.1)
  else (.refusedState, s)

/-- ARM of a barrier (R243, R244). -/
def State.barArm (s : State) (b : Nat) : Code × State :=
  if s.tb .synBar 0 b synBar_armed then (.refusedState, s)
  else if s.t .synBar 0 b synBar_period = 0 then (.badArg, s)
  else
    let s := ((s.pt .synBar 0 b synBar_armed 1).pt .synBar 0 b synBar_generations 0)
    (.ok, s.setTw .synBar 0 b 5 (s.barG b))

/-- DISARM of a barrier (R244). -/
def State.barDisarm (s : State) (b : Nat) : Code × State :=
  if s.tb .synBar 0 b synBar_armed then (.ok, s.pt .synBar 0 b synBar_armed 0) else (.refusedState, s)

/-! ## The wait detector (R246, R247) -/

/-- The wait-for entries. -/
def State.waits (s : State) : List Nat := upTo (s.g .syn SYN_WAIT_STATUS_count)

/-- The counter of a watch, or none. -/
def State.waitCnt (s : State) (w : Nat) : Option Nat :=
  match s.watchObj w with
  | .cnt c => some c
  | .flg _ => none

/-- A watch takes part in cycle detection: a counter with a declared signaller, and a partition's waiter that is no host
thread (R247). -/
def State.inGraph (s : State) (w : Nat) : Bool :=
  (match s.waitCnt w with
    | some c => s.tb .synCnt 0 c synCnt_sig_valid
    | none => false) && s.tb .synWatch 0 w synWatch_owned && s.t .synWatch 0 w synWatch_dest_kind == 0

/-- A wait-for entry for a watch (R247), or the overflow mark. Word 2, which no read shows, says whether the entry takes
part in cycle detection. -/
def State.addWait (s : State) (w : Nat) : State :=
  let n := s.g .syn SYN_WAIT_STATUS_count
  if 256 ≤ n then s.p .syn SYN_WAIT_STATUS_overflow 1
  else
    let o := s.watchObj w
    let sig := match s.waitCnt w with
      | some c => (s.t .synCnt 0 c synCnt_signaller) + s.t .synCnt 0 c synCnt_sig_valid * 16
      | none => 0
    let w0 := w + s.t .synWatch 0 w synWatch_target_id * 2 ^ 14 + s.t .synWatch 0 w synWatch_partition * 2 ^ 30 +
      sig * 2 ^ 34 + s.t .synWatch 0 w synWatch_wait_ticks * 2 ^ 40
    ((s.setEntry .synWf 0 n [w0, s.objVal o, b2n (s.inGraph w)]).p .syn SYN_WAIT_STATUS_count (n + 1)).raise .syn cWAIT_STALL

/-- The edges of the wait graph: entry, waiter, signaller. A host thread, or a counter without a signaller, takes no
part. -/
def State.waitEdges (s : State) : List (Nat × Nat × Nat) :=
  s.waits.filterMap fun i =>
    if s.tw .synWf 0 i 2 == 1 then
      some (i, s.t .synWf 0 i synWf_waiter, s.t .synWf 0 i synWf_signaller)
    else none

/-- The partitions that `n` steps of the edges reach from a set. -/
def reachN (es : List (Nat × Nat × Nat)) : Nat → List Nat → List Nat
  | 0, l => l
  | n + 1, l => reachN es n (es.foldl (fun l e => if l.contains e.2.1 && !l.contains e.2.2 then e.2.2 :: l else l) l)

/-- The entries on a cycle are marked, and WAIT_CYCLE is raised where a mark is new (R247). -/
def State.markCycles (s : State) : State :=
  let es := s.waitEdges
  let hit := (es.filter fun e => (reachN es 16 [e.2.2]).contains e.2.1).map (·.1)
  let new := hit.filter fun i => !s.tb .synWf 0 i synWf_in_cycle
  if new.isEmpty then s
  else ((new.foldl (fun s i => s.pt .synWf 0 i synWf_in_cycle 1) s).p .syn SYN_WAIT_STATUS_cycle 1).raise .syn cWAIT_CYCLE

/-- One tick of the Roost's age oscillator (R246). -/
def State.waitScan (s : State) : State :=
  let ws := s.armedWatches
  let s := ws.foldl (fun s w => s.pt .synWatch 0 w synWatch_wait_ticks (satAdd 24 (s.t .synWatch 0 w synWatch_wait_ticks) 1)) s
  if s.gb .syn SYN_WAIT_CFG_enable then
    let has := s.waits.map fun i => s.t .synWf 0 i synWf_watch
    let long := ws.filter fun w =>
      decide (s.g .syn SYN_WAIT_CFG_wait_ticks ≤ s.t .synWatch 0 w synWatch_wait_ticks) && !has.contains w
    (long.foldl State.addWait s).markCycles
  else s

/-- The wait-for table emptied (R247). -/
def State.waitClear (s : State) : State :=
  ((s.clearTab .synWf 0 0 256).p .syn SYN_WAIT_STATUS_count 0).p .syn SYN_WAIT_STATUS_overflow 0
    |>.p .syn SYN_WAIT_STATUS_cycle 0

end Sys2Proof.Machine
end

