-- ==== Sys2Proof/Machine/PoolOps.lean ====
section
/-! DEFINITION. The buffer pools (R147 to R153): the manager's caches, allocation, freeing, and the rebuild of the
rings. -/

namespace Sys2Proof.Machine

/-- The cache of pool `p` of a die, last freed first (R150). -/
def State.cache (s : State) (d p : Nat) : List Nat :=
  ((s.caches.find? fun e => e.1 == d * 8 + p).map (·.2)).getD []

/-- The cache of a pool replaced, with the count that POOL_STAT shows of it. -/
def State.setCache (s : State) (d p : Nat) (l : List Nat) : State :=
  let rest := s.caches.filter fun e => e.1 != d * 8 + p
  { s.p (.pool d) (POOL_STAT_cached.at (8 * p)) l.length with caches := if l.isEmpty then rest else rest ++ [(d * 8 + p, l)] }

/-- The fields of pool `p`. -/
def poolFree (p : Nat) : Fld := POOL_STAT_free.at (8 * p)
def poolLow (p : Nat) : Fld := POOL_STAT_low_water.at (8 * p)
def poolHead (p : Nat) : Fld := POOL_RING_head.at (8 * p)
def poolTail (p : Nat) : Fld := POOL_RING_tail.at (8 * p)

/-- The count of buffers of a pool. -/
def State.poolCount (s : State) (d p : Nat) : Nat := s.g (.pool d) (POOL_CFG_count.at (8 * p))

/-- The free buffers of a pool, in cache and ring. -/
def State.poolFrees (s : State) (d p : Nat) : Nat := s.g (.pool d) (poolFree p)

/-- The entries of a pool's ring. -/
def State.ringLen (s : State) (d p : Nat) : Nat := s.poolFrees d p - (s.cache d p).length

/-- The free count of a pool changed; POOL_LOW where it falls below the mark. -/
def State.setFree (s : State) (d p n : Nat) : State :=
  let old := s.poolFrees d p
  let mark := s.g (.pool d) POOL_LOW_MARK_mark
  let s := s.p (.pool d) (poolFree p) n
  let s := if n < s.g (.pool d) (poolLow p) then s.p (.pool d) (poolLow p) n else s
  if n < mark ∧ mark ≤ old then s.raise (.pool d) cPOOL_LOW else s

/-- The pool and number of the buffer at an address (R152): on a boundary inside a pool. -/
def State.bufferAt (s : State) (d a : Nat) : Option (Nat × Nat) :=
  ((s.poolBufs d).1.zip (upTo 6)).findSome? fun e =>
    if e.1 ≤ a ∧ a < e.1 + poolSize e.2 * s.poolCount d e.2 ∧ (a - e.1) % poolSize e.2 = 0 then
      some (e.2, (a - e.1) / poolSize e.2)
    else none

/-- A ring entry passes the check of R148: its pool number, its zero bits and its address. -/
def State.entryOk (s : State) (d p e : Nat) : Bool :=
  bits e 0 3 == p && bits e 3 5 == 0 && bits e 52 12 == 0 &&
    match s.bufferAt d (bits e 8 44 * 256) with
    | none => false
    | some (q, i) => q == p && !s.poolBit d p i

/-- `n` entries move from the ring's head into the cache; a bad one is dropped and its buffer lost (R150, R152). -/
def State.refillN : Nat → Nat → Nat → State → State
  | 0, _, _, s => s
  | n + 1, d, p, s =>
    let c := s.poolCount d p
    let h := s.g (.pool d) (poolHead p)
    let e := s.ringAt d p h
    let ok := s.entryOk d p e
    let s := s.p (.pool d) (poolHead p) ((h + 1) % c)
    let s := if ok then s.setCache d p (s.cache d p ++ [bits e 8 44 * 256])
      else (s.setFree d p (s.poolFrees d p - 1)).raise (.pool d) cRING_INTEGRITY
    State.refillN n d p s

/-- A refill of a pool's cache: up to 128 entries (R150). -/
def State.refill (s : State) (d p : Nat) : State := State.refillN (min 128 (s.ringLen d p)) d p s

/-- The oldest 128 entries of a cache return to the ring's tail (R150). -/
def State.giveBack (s : State) (d p : Nat) : State :=
  let l := s.cache d p
  let keep := l.take (l.length - 128)
  let s := (l.drop (l.length - 128)).foldl (fun s a =>
    let t := s.g (.pool d) (poolTail p)
    (s.setRing d p t (a + p)).p (.pool d) (poolTail p) ((t + 1) % s.poolCount d p)) s
  s.setCache d p keep

/-- The bitmap notes that the buffer at an address is out. -/
def State.markTaken (s : State) (d p a : Nat) : State :=
  match s.bufferAt d a with
  | none => s
  | some (_, i) => s.setPoolBit d p i true

/-- A buffer of a pool handed out, from its cache, refilled first where it is empty. -/
def State.takeFrom (s : State) (d p : Nat) : Option Nat × State :=
  let s := if (s.cache d p).isEmpty then s.refill d p else s
  match s.cache d p with
  | [] => (none, s)
  | a :: l => (some a, ((s.setCache d p l).setFree d p (s.poolFrees d p - 1)).markTaken d p a)

/-- The pools tried from `p` upward (R149). -/
def State.takeUp : Nat → Nat → Nat → State → Option (Nat × Nat) × State
  | 0, _, _, s => (none, s)
  | n + 1, d, p, s =>
    if s.poolFrees d p = 0 then State.takeUp n d (p + 1) s
    else match s.takeFrom d p with
      | (none, s) => State.takeUp n d (p + 1) s
      | (some a, s) => (some (a, p), s)

/-- An allocation of `b` bytes (R149): the code, the buffer and the pool that served. -/
def State.poolAlloc (s : State) (d b : Nat) : Code × Nat × Nat × State :=
  if b = 0 ∨ 262144 < b then (.badArg, 0, 0, s)
  else if !s.live (.pool d) then (.notReady, 0, 0, s)
  else
    let first := ((upTo 6).find? fun p => b ≤ poolSize p).getD 5
    match State.takeUp (6 - first) d first s with
    | (some (a, p), s) =>
      let s := s.inc (.pool d) POOL_ALLOCS_count
      (.ok, a, p, if p = first then s else s.inc (.pool d) POOL_FALLBACKS_count)
    | (none, s) => (.noResource, 0, 0, (s.inc (.pool d) POOL_NO_RESOURCE_count).raise (.pool d) cPOOL_EXHAUSTED)

/-- A free (R152): accepted, or refused with nothing changed but the count. The cache holds 512 entries at most (R150). -/
def State.poolRelease (s : State) (d a : Nat) : Bool × State :=
  match s.bufferAt d a with
  | none => (false, s.inc (.pool d) POOL_BAD_FREES_count)
  | some (p, i) =>
    if s.live (.pool d) ∧ s.poolBit d p i then
      let s := if (s.cache d p).length < 512 then s else s.giveBack d p
      let s := (s.setPoolBit d p i false).setCache d p (a :: s.cache d p)
      (true, (s.setFree d p (s.poolFrees d p + 1)).inc (.pool d) POOL_FREES_count)
    else (false, s.inc (.pool d) POOL_BAD_FREES_count)

/-- A free by a hardware requester; a bad one raises POOL_BAD_FREE (R152). -/
def State.hwFree (s : State) (d a : Nat) : State :=
  let r := s.poolRelease d a
  if r.1 then r.2 else r.2.raise (.pool d) cPOOL_BAD_FREE

/-- Every ring written full and every bitmap cleared (R148). -/
def State.poolInit (s : State) (d : Nat) : State :=
  let s := (s.clearTab .poolRing d 0 (2 ^ 20 - 1)).clearTab .poolMap d 0 (2 ^ 20 - 1)
  (upTo 6).foldl (fun s p =>
    let n := s.poolCount d p
    let s := s.setCache d p []
    let s := ((s.p (.pool d) (poolHead p) 0).p (.pool d) (poolTail p) 0)
    (s.p (.pool d) (poolFree p) n).p (.pool d) (poolLow p) n) s

/-- The layout of a die's pools fits in its region (R147). -/
def State.poolFits (s : State) (d : Nat) : Bool :=
  decide ((s.poolBufs d).2 ≤ s.reg (.pool d) 0x100 + s.reg (.pool d) 0x108)

/-- A region lies within the die's own 72 GB (R154). -/
def poolRegionOk (d base len : Nat) : Bool :=
  decide (d * 72 * 10 ^ 9 ≤ base) && decide (base + len ≤ (d + 1) * 72 * 10 ^ 9)

end Sys2Proof.Machine
end

