-- ==== Sys2Proof/Machine/SwitchOps.lean ====
section
/-! DEFINITION. The switch's shared operations: accounts and cells, spill, priority flow control, the ingress pipeline's
parse, lookup, resolve, police and admission steps, and the arrival of a copy at its egress (chapters 5 to 7). -/

namespace Sys2Proof.Machine

/-! ## Accounts and cells (R134 to R141, R176) -/

/-- Segments of 32 bytes. -/
def segsOf (n : Nat) : Nat := (n + 31) / 32

/-- Cells of eight segments. -/
def cellsOf (segs : Nat) : Nat := (segs + 7) / 8

/-- The die and index of the account of a tile's local port and VC (R135). -/
def acctOf (tile lp vc : Nat) : Nat × Nat := (tile / 4, tile % 4 * 256 + lp * 8 + vc)

/-- The limit and the occupancy table of ingress or egress accounts. -/
def limTbl (eg : Bool) : Tbl := if eg then .bseEg else .bseIn
def occTbl (eg : Bool) : Tbl := if eg then .bseEgOcc else .bseInOcc

/-- The segments that an account holds in the store, and the bytes that it holds in the spill store. -/
def State.held (s : State) (eg : Bool) (a : Nat × Nat) : Nat := s.t (occTbl eg) a.1 a.2 bseInOcc_segments
def State.spilled (s : State) (eg : Bool) (a : Nat × Nat) : Nat := s.t (occTbl eg) a.1 a.2 bseInOcc_spilled

/-- An account's cell limit. -/
def State.cellLimit (s : State) (eg : Bool) (a : Nat × Nat) : Nat := s.t (limTbl eg) a.1 a.2 bseIn_cell_limit

/-- A port class field of a port. -/
def State.cls (s : State) (port : Nat) (f : Fld) : Nat := s.t .clsPort (portTile port) (localPort port) f

/-- A port-VC class field. -/
def State.clsv (s : State) (port vc : Nat) (f : Fld) : Nat := s.t .clsVc (portTile port) (localPort port * 8 + vc) f

/-- The port carries Ethernet. -/
def State.isEth (s : State) (port : Nat) : Bool := s.pers (portGroup port) == .eth

/-- The account of a port and VC is lossless (R138). -/
def State.lossless (s : State) (port vc : Nat) : Bool := !s.isEth port || bit (s.cls port clsPort_pfc) vc

/-- The port and VC of an account. -/
def acctPort (a : Nat × Nat) : Nat := (4 * a.1 + a.2 / 256) * 32 + a.2 / 8 % 32
def acctVc (a : Nat × Nat) : Nat := a.2 % 8

/-- The free cells of a die. -/
def State.freeCells (s : State) (d : Nat) : Nat := s.g (.bse d) BSE_CELL_FREE_free

/-- The free cells of a die changed, with the low-water mark. -/
def State.setFreeCells (s : State) (d n : Nat) : State :=
  let s := s.p (.bse d) BSE_CELL_FREE_free n
  if n < s.g (.bse d) BSE_CELL_FREE_low_water then s.p (.bse d) BSE_CELL_FREE_low_water n else s

/-- Segments placed in the store on an account. -/
def State.charge (s : State) (eg : Bool) (a : Nat × Nat) (n : Nat) : State :=
  (s.pt (occTbl eg) a.1 a.2 bseInOcc_segments (s.held eg a + n)).setFreeCells a.1 (s.freeCells a.1 - cellsOf n)

/-- Segments of an account that leave the store, with the cells that they alone held. -/
def State.freeStore (s : State) (eg : Bool) (a : Nat × Nat) (n cells : Nat) : State :=
  (s.pt (occTbl eg) a.1 a.2 bseInOcc_segments (s.held eg a - n)).setFreeCells a.1 (s.freeCells a.1 + cells)

/-- Segments of an account that leave the store. -/
def State.uncharge (s : State) (eg : Bool) (a : Nat × Nat) (n : Nat) : State := s.freeStore eg a n (cellsOf n)

/-- The cells that come free as a frame with `n` segments in the store keeps `m` of them. -/
def cellsFreed (n m : Nat) : Nat := cellsOf n - cellsOf m

/-- An account is within its cell limit with `n` more segments (R136). -/
def State.within (s : State) (eg : Bool) (a : Nat × Nat) (n : Nat) : Bool := decide (s.held eg a + n ≤ 8 * s.cellLimit eg a)

/-- The store budget of a die (R176). -/
def State.budget (s : State) (d : Nat) : Nat :=
  (upTo 1024).foldl (fun v i => if s.lossless (acctPort (d, i)) (i % 8) && s.portExists (acctPort (d, i))
    then v + s.cellLimit true (d, i) else v) (s.g (.bse d) BSE_CELL_CFG_egress_reserve + 64)

/-- The budget of a die computed afresh; STORE_BUDGET where it now breaks (R176). -/
def State.checkBudget (s : State) (d : Nat) : State :=
  let beyond := 131072 < s.budget d
  let f : Fld := ⟨XBAR_DL_STATUS_budget_broken.off, XBAR_DL_STATUS_budget_broken.lo + d, 1⟩
  let was := s.gb .xbarDev f
  let s := s.p .xbarDev f (b2n beyond)
  if beyond ∧ !was then s.raise .xbarDev cSTORE_BUDGET else s

/-! ## Copies -/

/-- The state with its list of copies replaced. -/
def State.setCps (s : State) (l : List Cp) : State := { s with swc := { s.swc with cps := l } }

/-- The copies changed one by one. -/
def State.mapCps (s : State) (f : Cp → Cp) : State := s.setCps (s.swc.cps.map f)

/-- The state without one copy. -/
def State.dropCp (s : State) (cid : Nat) : State := s.setCps (s.swc.cps.filter fun c => c.cid != cid)

/-- A new number for a frame or a copy. -/
def State.newId (s : State) : Nat × State := (s.swc.nextId, { s with swc := { s.swc with nextId := s.swc.nextId + 1 } })

/-- The place of a copy changed. -/
def State.putCp (s : State) (cid : Nat) (p : Place) : State := s.mapCps fun c => if c.cid = cid then { c with place := p } else c

/-- A copy `c` of a frame has sent `n` more segments from the ingress store. A frame of one copy frees its account as its
cells leave; a multicast one once its last copy has spread (R134, R135). -/
def State.ingressSent (s : State) (c : Cp) (n : Nat) : State :=
  match c.acct with
  | none => s
  | some a =>
    if c.mc then s else s.freeStore false a n (cellsFreed (c.segs - c.sent) (c.segs - c.sent - n))

/-- A frame whose copies have all left the ingress store frees what its account still holds there (R135). -/
def State.ingressDone (s : State) (c : Cp) : State :=
  if s.swc.cps.any fun x => x.fid == c.fid && (x.place == .ingress || x.place == .spillIn || x.place == .input) then s
  else match c.acct with
    | none => s
    | some a =>
      (s.mapCps fun x => if x.fid = c.fid then { x with acct := none } else x).uncharge false a
        (if c.mc then c.segs else c.segs - c.sent)

/-- The egress account of a copy for one port. -/
def Cp.eacct (c : Cp) : Nat × Nat :=
  acctOf c.etile (((upTo 32).find? fun i => bit c.mask i).getD 0) c.vc

/-- The local port of a copy for one port. -/
def Cp.eport (c : Cp) : Nat := c.etile * 32 + ((upTo 32).find? fun i => bit c.mask i).getD 0

/-! ## Spill (R142 to R146) -/

/-- The spill blocks of the part, replaced. -/
def State.setBlocks (s : State) (l : List SpillBlock) : State := { s with swc := { s.swc with blocks := l } }

/-- Buffers for the blocks of `n` cells; none where the pools have no more, with what was taken given back (R145). -/
def State.spillBufs : Nat → Nat → Nat → List (Nat × Nat) → State → Option (List (Nat × Nat)) × State
  | 0, _, _, l, s => (some l, s)
  | k + 1, d, n, l, s =>
    if n = 0 then (some l, s)
    else
      let m := min 15 n
      match s.poolAlloc d ((m + 1) * 256) with
      | (.ok, a, _, s) => State.spillBufs k d (n - m) (l ++ [(a, m)]) s
      | (_, _, _, s) => (none, l.foldl (fun s b => s.hwFree d b.1) s)

/-- The descriptor cell of a block of `n` data cells of a frame, from its cell `off` on: the header, and a copy of each
data cell's descriptor (R142, assumption 12). -/
def blockDescriptor (eg : Bool) (a : Nat × Nat) (c : Cp) (off n : Nat) : List Byte :=
  leBytes 16 (Config.blockHeader [a.1, b2n eg, a.2, n]).toNat ++
    (upTo n).flatMap fun i =>
      let k := 8 * (off + i)
      leBytes 16 (Config.cellDescriptor [c.seq, k, min 8 (c.segs - k), b2n (k == 0), b2n (decide (c.segs ≤ k + 8)), c.etile,
        c.mask, c.vc, c.age, c.limit, b2n c.cut, c.slot]).toNat

/-- The cells in the spill write queue of a die, changed (R143). -/
def State.wqCells (s : State) (d : Nat) : Nat := s.g (.bse d) BSE_SPILL_STATUS_wq_cells
def State.setWq (s : State) (d n : Nat) : State := s.p (.bse d) BSE_SPILL_STATUS_wq_cells n

/-- The spill write queue of a die has room for `n` cells (R143). -/
def State.wqRoom (s : State) (d n : Nat) : Bool := decide (s.wqCells d + n ≤ 1024)

/-- Segments of a frame counted as spilled on an account. -/
def State.addSpilled (s : State) (eg : Bool) (a : Nat × Nat) (segs : Nat) : State :=
  let s := s.pt (occTbl eg) a.1 a.2 bseInOcc_spilled (s.spilled eg a + segs * 32)
  s.p (.bse a.1) BSE_SPILL_STATUS_bytes (s.g (.bse a.1) BSE_SPILL_STATUS_bytes + segs * 32)

/-- A whole frame leaves the write queue for its blocks: in each the data cells follow the descriptor cell (R142). -/
def State.writeBlocks (s : State) (eg : Bool) (a : Nat × Nat) (key : Nat) (c : Cp) : Bool × State :=
  match State.spillBufs (cellsOf c.segs) a.1 (cellsOf c.segs) [] s with
  | (none, s) => (false, s)
  | (some l, s) =>
    let r := l.foldl (fun (r : Nat × State) b =>
      let s := r.2.writeSpace 0 b.1 (blockDescriptor eg a c r.1 b.2)
      let s := s.writeSpace 0 (b.1 + 256) (fit (b.2 * 256) (slice (r.1 * 256) (b.2 * 256) c.bytes))
      (r.1 + b.2, s.setBlocks (s.swc.blocks ++ [⟨a.1, eg, a.2, key, b.1, r.1, b.2, false⟩]))) (0, s)
    (true, r.2.add (.bse a.1) BSE_SPILL_OUT_count (cellsOf c.segs))

/-- A frame spilled whole on an account (R138): it passes through the write queue. -/
def State.spillFrame (s : State) (eg : Bool) (a : Nat × Nat) (key : Nat) (c : Cp) : Bool × State :=
  let r := s.writeBlocks eg a key c
  (r.1, if r.1 then r.2.addSpilled eg a c.segs else r.2)

/-- The spilled bytes of an account lowered. -/
def State.unspill (s : State) (eg : Bool) (a : Nat × Nat) (segs : Nat) : State :=
  let s := s.pt (occTbl eg) a.1 a.2 bseInOcc_spilled (s.spilled eg a - segs * 32)
  s.p (.bse a.1) BSE_SPILL_STATUS_bytes (s.g (.bse a.1) BSE_SPILL_STATUS_bytes - segs * 32)

/-- A frame may spill on an account: allowed, within the spill limit, and with room for `cells` of it in the write queue
(R138, R139, R143). -/
def State.maySpill (s : State) (eg : Bool) (a : Nat × Nat) (segs cells : Nat) : Bool :=
  s.tb (limTbl eg) a.1 a.2 bseIn_spill_enable && s.wqRoom a.1 cells &&
    decide (s.spilled eg a + segs * 32 ≤ s.t (limTbl eg) a.1 a.2 bseIn_spill_limit * 1024)

/-- The segments of a spilled frame that are not back in the store. -/
def State.spilledSegs (s : State) (eg : Bool) (key segs : Nat) : Nat :=
  match s.swc.blocks.find? fun b => b.egress == eg && b.cid == key with
  | none => segs
  | some b => segs - 8 * b.off

/-- The blocks of a spilled frame or copy discarded, their buffers freed. -/
def State.dropBlocks (s : State) (eg : Bool) (key : Nat) : State :=
  let mine := s.swc.blocks.filter fun b => b.egress == eg && b.cid == key
  let s := s.setBlocks (s.swc.blocks.filter fun b => !(b.egress == eg && b.cid == key))
  mine.foldl (fun s b => s.hwFree b.die b.addr) s

/-! ## Discards -/

/-- The segments of the egress store that a copy for one port holds: those that have arrived, but for the cells that have
left on its link. -/
def Cp.stored (c : Cp) : Nat :=
  if c.place = .tx ∧ c.tlink then c.got - min c.got (8 * (c.sent / 4)) else c.got

/-- The cells that a copy for one port holds: all of them from its first one on, but for those that have left on its link
(assumption 169). -/
def Cp.cells (c : Cp) : Nat :=
  if c.place = .tx ∧ c.tlink then cellsOf (c.segs - min c.segs (8 * (c.sent / 4))) else cellsOf c.segs

/-- A frame spilled on an account leaves: its blocks are freed, with what of it is back in the store. -/
def State.freeSpilled (s : State) (eg : Bool) (a : Nat × Nat) (key segs : Nat) : State :=
  let n := s.spilledSegs eg key segs
  ((s.dropBlocks eg key).unspill eg a n).uncharge eg a (segs - n)

/-- The waiting mark of an account follows the frames that wait on it (R138). -/
def State.showWaiting (s : State) (a : Nat × Nat) : State :=
  s.pt .bseInOcc a.1 a.2 bseInOcc_waiting (b2n (s.swc.cps.any fun x => x.place == .input && x.acct == some a))

/-- A copy discarded wherever it stands: its charges and buffers freed, cells of it in middle buffers forgotten. -/
def State.discard (s : State) (c : Cp) : State :=
  let s := s.dropCp c.cid
  let s : State := { s with swc := { s.swc with
    mids := (s.swc.mids.map fun m => { m with cell := { m.cell with parts := m.cell.parts.filter (·.1 != c.cid) } }).filter
      fun m => !m.cell.parts.isEmpty } }
  match c.place with
  | .queue | .tx | .order => s.freeStore true c.eacct c.stored c.cells
  | .spillEg =>
    let a := c.eacct
    (s.freeSpilled true a c.cid c.segs).setWq a.1 (s.wqCells a.1 - (if c.got < c.segs then cellsOf c.got else 0))
  | .spillIn =>
    if s.swc.cps.any (·.fid == c.fid) then s
    else match c.acct with
      | none => s
      | some a => s.freeSpilled false a c.fid c.segs
  | .input => match c.acct with
    | none => s
    | some a => s.showWaiting a
  | .flight => s
  | .ingress => s.ingressDone c

/-- Frames discarded and counted in SWT_DROP_DOWN of a tile (R99). -/
def State.dropDown (s : State) (tile : Nat) (cs : List Cp) : State :=
  cs.foldl (fun s c => (s.discard c).inc (.swt tile) SWT_DROP_DOWN_count) s

/-! ## Priority flow control (R171 to R173) -/

/-- The rate of a port, in lanes. -/
def State.portSpeed (s : State) (port : Nat) : Nat := (s.portLanes port).length

/-- The VC of a priority on a port's tile. -/
def State.pcpVc (s : State) (tile pcp : Nat) : Nat := bits (s.reg (.swt tile) 0x148) (3 * pcp) 3

/-- A PFC frame for a VC with a pause time (IEEE 802.1Qbb): the destination 01-80-C2-00-00-01, EtherType 0x8808, opcode
0x0101, and the time for every priority mapped to the VC. The source MAC is SWT_RMAC (assumption 13). -/
def State.pfcFrame (s : State) (port vc time : Nat) : List Byte :=
  let t := portTile port
  let on := (upTo 8).map fun p => s.pcpVc t p == vc
  let en := (on.zip (upTo 8)).foldl (fun v e => v + b2n e.1 * 2 ^ e.2) 0
  let body := beBytes 6 0x0180C2000001 ++ beBytes 6 (s.g (.swt t) SWT_RMAC_mac) ++ beBytes 2 0x8808 ++ beBytes 2 0x0101 ++
    beBytes 2 en ++ on.flatMap fun b => beBytes 2 (if b then time else 0)
  let f := fit 60 body
  f ++ leBytes 4 (crc32 f)

/-- A PFC frame leaves a port. -/
def State.sendPfc (s : State) (port vc time : Nat) : State :=
  (s.emit (.eth port) 1 [vc, time] (s.pfcFrame port vc time)).inc (.swt (portTile port)) SWT_PFC_TX_count

/-- A frame of the account waits under case 3 of R138. -/
def State.waiting (s : State) (a : Nat × Nat) : Bool := s.tb .bseInOcc a.1 a.2 bseInOcc_waiting

/-- Pause asserted or released on a port's PFC accounts, as R172 asks. -/
def State.pfcCheck (s : State) (port : Nat) : State :=
  if s.isEth port then
    (upTo 8).foldl (fun s v =>
      if bit (s.cls port clsPort_pfc) v then
        let a := acctOf (portTile port) (localPort port) v
        let cells := cellsOf (s.held false a)
        let xoff := s.clsv port v clsVc_xoff
        -- fewer than half of xoff, which may be odd
        let on := s.swc.pausing.contains (port, v)
        if !on && (s.waiting a || decide (xoff ≤ cells)) then
          { s.sendPfc port v 0xFFFF with swc := { s.swc with pausing := s.swc.pausing ++ [(port, v)] } }
        else if on && !s.waiting a && decide (2 * cells < xoff) then
          { s.sendPfc port v 0 with swc := { s.swc with pausing := s.swc.pausing.filter (· != (port, v)) } }
        else s
      else s) s
  else s

/-! ## Token buckets (R167, R168) -/

/-- The keys of the token buckets of a tile: port shapers, port-VC shapers, policers. -/
def portKey (tile lp : Nat) : Nat := tile * 4096 + lp
def vcKey (tile lp vc : Nat) : Nat := tile * 4096 + 64 + lp * 8 + vc
def polKey (tile i : Nat) : Nat := tile * 4096 + 2048 + i

/-- A token bucket, in 1/125 of a byte: empty until it accrues (assumption 14). -/
def State.tokens (s : State) (k : Nat) : Int := ((s.swc.tokens.find? fun e => e.1 == k).map (·.2)).getD 0

/-- A token bucket set. -/
def State.setTokens (s : State) (k : Nat) (v : Int) : State :=
  let rest := s.swc.tokens.filter fun e => e.1 != k
  { s with swc := { s.swc with tokens := if v = 0 then rest else rest ++ [(k, v)] } }

/-- Flits of a packet of `n` bytes, header included (R76). -/
def flitsOf (n : Nat) : Nat := 1 + (n - 56 + 55) / 56

/-- The counted length of a frame on a port (R165). -/
def State.counted (s : State) (port : Nat) (tlink : Bool) (n : Nat) : Nat :=
  (if tlink then 64 * flitsOf n else n) + s.cls port clsPort_overhead

/-- Stage 9: the frame conforms to the policer bound to its port and VC (R168). -/
def State.police (s : State) (port vc : Nat) (tlink : Bool) (n : Nat) : Bool × State :=
  if s.clsv port vc clsVc_police = 0 then (true, s)
  else
    let t := portTile port
    let i := s.clsv port vc clsVc_policer
    if !s.tb .clsPolicer t i clsPolicer_valid then (true, s)
    else
      let need : Int := (s.counted port tlink n * 125 : Nat)
      if need ≤ s.tokens (polKey t i) then (true, s.setTokens (polKey t i) (s.tokens (polKey t i) - need))
      else
        let s := s.pt .clsPolicer t i clsPolicer_drops (satAdd 48 (s.t .clsPolicer t i clsPolicer_drops) 1)
        (false, (s.inc (.swt t) SWT_POLICE_DROPS_count).raise (.swt t) cPOLICE_DROP)

/-! ## Egress arrival (R112, R139, R140) -/

/-- The packets handed to an owner. -/
def State.hand (s : State) (owner : Nat) (bs : List Byte) : State :=
  { s with swc := { s.swc with inbox := s.swc.inbox ++ [(owner, bs)] } }

/-- The owners of the packets of stage 4: the attach engine of a tile, the reduction path, the Roost. -/
def attOwner (t : Nat) : Nat := t
def rdxOwner : Nat := 32
def synOwner : Nat := 33

/-- A packet that its owner takes. -/
def State.unhand (s : State) (owner : Nat) (bs : List Byte) : State :=
  { s with swc := { s.swc with inbox := s.swc.inbox.erase (owner, bs) } }

/-- The segments of frames whose cells are still arriving on an egress account: they are being placed (R136). -/
def State.arriving (s : State) (a : Nat × Nat) : Nat :=
  (s.swc.cps.filter fun c => c.eacct == a && (c.place == .order || c.place == .queue || c.place == .tx)).foldl
    (fun v c => v + (c.segs - c.got)) 0

/-- A frame that the egress cannot place is discarded (R139, R140). -/
def State.dropEgress (s : State) (d : Nat) : State := (s.inc (.bse d) BSE_DROP_EGRESS_count).raise (.bse d) cADMIT_DROP

/-- A copy for one port reaches egress stage 3 with its first cell (R139, R140): it takes its cells in the store, or it is
bound for the spill store, or discarded. -/
def State.egressPlace (s : State) (c : Cp) : State :=
  let a := c.eacct
  let fits := s.within true a (s.arriving a + c.segs) && s.spilled true a == 0
  let room := decide (cellsOf c.segs ≤ s.freeCells a.1)
  if fits && room then
    (s.setCps (s.swc.cps ++ [{ c with place := if c.tlink then .queue else .order }])).setFreeCells a.1
      (s.freeCells a.1 - cellsOf c.segs)
  else if (fits && !room && s.wqRoom a.1 1) || s.maySpill true a c.segs 1 then
    let s := (s.setCps (s.swc.cps ++ [{ c with place := .spillEg }])).addSpilled true a c.segs
    if fits then s.inc (.bse a.1) BSE_FORCED_SPILL_count else s
  else s.dropEgress a.1

/-- A copy that spills takes `n` more segments through the write queue; once whole, it leaves it for its blocks (R142,
R143). One that finds the queue full, or no buffers, is discarded (R139, R145). -/
def State.spillMore (s : State) (c : Cp) (n : Nat) : State :=
  let a := c.eacct
  let more := cellsOf (c.got + n) - cellsOf c.got
  if !s.wqRoom a.1 more then (s.discard c).dropEgress a.1
  else if c.got + n < c.segs then
    (s.mapCps fun x => if x.cid = c.cid then { x with got := c.got + n } else x).setWq a.1 (s.wqCells a.1 + more)
  else
    let s := (s.mapCps fun x => if x.cid = c.cid then { x with got := c.segs } else x).setWq a.1
      (s.wqCells a.1 - cellsOf c.got)
    let r := s.writeBlocks true a c.cid c
    if r.1 then r.2 else (r.2.discard { c with got := c.segs }).dropEgress a.1

/-- An Ethernet frame leaves its port whole. -/
def State.sendWhole (s : State) (c : Cp) : State := (s.discard c).emit (.eth c.eport) 0 [c.vc] c.bytes

/-- `n` more segments of a copy for one port are there. A started Ethernet frame ends with its last one. -/
def State.landPort (s : State) (c : Cp) (n : Nat) : State :=
  if c.place = .spillEg then s.spillMore c n
  else
    let a := c.eacct
    let c' := { c with got := c.got + n }
    let s := s.mapCps fun x => if x.cid = c.cid then c' else x
    let s := s.pt .bseEgOcc a.1 a.2 bseInOcc_segments (s.held true a + n)
    if c.place = .tx ∧ !c.tlink ∧ c'.got = c.segs then s.sendWhole c' else s

/-- The copies for one port of a frame at an egress tile. -/
def State.portCps (s : State) (fid etile : Nat) : List Cp :=
  s.swc.cps.filter fun x => x.fid == fid && x.etile == etile &&
    (x.place == .order || x.place == .queue || x.place == .tx || x.place == .spillEg)

/-- The opcodes that an attach engine takes and the VC of each (R78). -/
def opVc (op : Nat) : Option Nat :=
  if op = 0x01 ∨ op = 0x02 ∨ op = 0x04 ∨ op = 0x05 then some 1
  else if op = 0x03 ∨ op = 0x06 ∨ op = 0x07 then some 2 else none

/-- The packet's VC is its opcode's own, or the escape VC that it took on its way (R78, R179). -/
def vcOk (op vc : Nat) : Bool :=
  match opVc op with
  | none => false
  | some v => v == vc || vc == 6

/-- The first cell of a copy is at its egress tile: a copy for each port of its mask, in ascending order (R112). A port
that is not ACTIVE has it discarded (R99). -/
def State.openPorts (s : State) (c : Cp) : State :=
  (upTo 32).foldl (fun s i =>
    if bit c.mask i then
      if s.active (c.etile * 32 + i) then
        let r := s.newId
        r.2.egressPlace { c with cid := r.1, mask := 2 ^ i, acct := none, alts := [], sent := 0, got := 0
                                 bytes := ((c.alts.find? fun e => e.1 == i).map (·.2)).getD c.bytes }
      else s.inc (.swt c.etile) SWT_DROP_DOWN_count
    else s) s

/-- `n` segments of a copy reach its egress tile (R125, R126, R134): they go to its ports, or, once the packet is whole, to
the attach engine of the tile. -/
def State.arrive (s : State) (c : Cp) (n : Nat) : State :=
  let whole := c.got + n == c.segs
  if c.att then
    if !whole then s.mapCps fun x => if x.cid = c.cid then { x with got := c.got + n } else x
    else
      let s := s.dropCp c.cid
      if vcOk (hw c.bytes 2 / 2 ^ 24) c.vc then s.hand (attOwner c.etile) c.bytes
      else s.inc (.att c.etile) ATT_BAD_PKTS_count
  else
    let s := if c.got = 0 then s.openPorts c else s
    let s := (s.portCps c.fid c.etile).foldl (fun s x => s.landPort x n) s
    if whole then s.dropCp c.cid else s.mapCps fun x => if x.cid = c.cid then { x with got := c.got + n } else x

/-! ## Enqueue (R112, R129) -/

/-- The next number of a frame per (ingress tile, egress tile, VC) (R114). -/
def State.nextSeq (s : State) (i e vc : Nat) : Nat × State :=
  let k := (i * 32 + e) * 8 + vc
  let n := ((s.swc.seqs.find? fun x => x.1 == k).map (·.2)).getD 0
  (n, { s with swc := { s.swc with seqs := (s.swc.seqs.filter fun x => x.1 != k) ++ [(k, n + 1)] } })

/-- The copies of a frame that stay on their tile take the local bypass (R129): they pass egress stage 1 ahead of the cells
of the next slot (assumption 170). -/
def State.bypass (s : State) (fid : Nat) : State :=
  let mine := s.swc.cps.filter fun c => c.fid == fid && c.place == .ingress && c.itile == c.etile
  mine.foldl (fun s c =>
    let k := s.g .xbarDev H_XBAR_k
    let s := (s.putCp c.cid .flight).inc (.swt c.itile) SWT_BYPASS_FRAMES_count
    let s := s.ingressDone c
    s.arrive { c with got := 0, sent := c.segs, slot := k, hops := 0, acct := none } c.segs) s

/-- The copies of a frame, one for each egress tile, in a place. -/
def State.makeCopies (s : State) (c : Cp) (ts : List (Nat × Nat × Bool)) (p : Place) : State :=
  ts.foldl (fun s t =>
    let r := s.newId
    let q := r.2.nextSeq c.itile t.1 c.vc
    q.2.setCps (q.2.swc.cps ++ [{ c with cid := r.1, etile := t.1, mask := t.2.1, cut := t.2.2, seq := q.1, place := p }])) s

/-! ## Admission (R137, R138) -/

/-- The four cases of R138. -/
inductive Admit where
  | store | spill | wait | drop
deriving DecidableEq, Repr

/-- The case of R138 that holds first for a frame with `res` segments reserved. -/
def State.admitCase (s : State) (a : Nat × Nat) (res : Nat) : Admit :=
  let loss := s.lossless (acctPort a) (acctVc a)
  if loss && s.waiting a then .wait
  else if s.spilled false a == 0 && s.within false a res &&
      decide (s.g (.bse a.1) BSE_CELL_CFG_egress_reserve + cellsOf res ≤ s.freeCells a.1) then .store
  else if s.maySpill false a res (cellsOf res) then .spill
  else if loss then .wait else .drop

/-- A frame dropped at admission (R138 case 4). -/
def State.dropAdmit (s : State) (a : Nat × Nat) : State :=
  (s.inc (.bse a.1) BSE_DROP_ADMIT_count).raise (.bse a.1) cADMIT_DROP

/-- A frame waits in the input buffer (R138 case 3). -/
def State.admitWait (s : State) (a : Nat × Nat) (c : Cp) (ts : List (Nat × Nat × Bool)) : State :=
  let s := (s.inc (.bse a.1) BSE_ADMIT_WAITS_count).pt .bseInOcc a.1 a.2 bseInOcc_waiting 1
  s.makeCopies { c with acct := some a } ts .input

/-- The copies of a multicast frame counted, one for each egress port (R113). -/
def State.countMc (s : State) (c : Cp) (ts : List (Nat × Nat × Bool)) : State :=
  if c.mc then s.add (.swt c.itile) SWT_MC_COPIES_count
    ((ts.map fun t => ((upTo 32).filter fun i => bit t.2.1 i).length).foldl (· + ·) 0)
  else s

/-- Stages 10 and 11: the frame is placed, spilled, left waiting or dropped, as one decision (R137, R138). -/
def State.admitCp (s : State) (c : Cp) (ts : List (Nat × Nat × Bool)) (res : Nat) : State :=
  let c := { c with res := res }
  match c.acct with
  | none => (s.makeCopies c ts .ingress).bypass c.fid
  | some a =>
    match s.admitCase a res with
    | .store => ((((s.charge false a c.segs).countMc c ts).makeCopies c ts .ingress).bypass c.fid).pfcCheck c.port
    | .spill =>
      let r := s.spillFrame false a c.fid c
      if r.1 then (r.2.countMc c ts).makeCopies c ts .spillIn
      else if s.lossless (acctPort a) (acctVc a) then ((r.2.countMc c ts).admitWait a c ts).pfcCheck c.port
      else r.2.dropAdmit a
    | .wait => ((s.countMc c ts).admitWait a c ts).pfcCheck c.port
    | .drop => s.dropAdmit a

/-- A waiting frame of an account is tried again (R138): the oldest, with what was reserved for it. An account that is
lossless no more drops it. -/
def State.admitRetry (s : State) (a : Nat × Nat) : State :=
  match s.swc.cps.find? fun c => c.place == .input && c.acct == some a with
  | none => s
  | some c =>
    let s' := s.pt .bseInOcc a.1 a.2 bseInOcc_waiting 0
    let move (s : State) (p : Place) : State :=
      (s.mapCps fun x => if x.fid = c.fid then { x with place := p } else x).showWaiting a
    match s'.admitCase a c.res with
    | .store => ((move (s'.charge false a c.segs) .ingress).bypass c.fid).pfcCheck c.port
    | .spill =>
      let r := s'.spillFrame false a c.fid c
      if r.1 then (move r.2 .spillIn).pfcCheck c.port else r.2.showWaiting a
    | .wait => s
    | .drop => (((s.swc.cps.filter (·.fid == c.fid)).foldl State.discard s).dropAdmit a).pfcCheck c.port

/-! ## Ethernet frames (R103 to R107) -/

/-- An Ethernet frame parsed: addresses, the tags' values, the EtherType and what follows it, without the FCS. -/
structure Eth where
  dmac : Nat
  smac : Nat
  tags : List Nat
  ety : Nat
  body : List Byte
deriving DecidableEq, Repr

/-- An EtherType that opens an 802.1Q tag. -/
def isTag (t : Nat) : Bool := t == 0x8100 || t == 0x88A8

/-- Stages 2 and 3: up to two tags, and the EtherType. -/
def parseEth (bs : List Byte) : Eth :=
  let b := bs.take (bs.length - 4)
  let n := if isTag (beAt b 12 2) then (if isTag (beAt b 16 2) then 2 else 1) else 0
  { dmac := beAt b 0 6, smac := beAt b 6 6, tags := (upTo n).map fun i => beAt b (14 + 4 * i) 2
    ety := beAt b (12 + 4 * n) 2, body := b.drop (14 + 4 * n) }

/-- The FCS of a frame is good. -/
def fcsOk (bs : List Byte) : Bool :=
  let n := bs.length - 4
  leBytes 4 (crc32 (bs.take n)) == bs.drop n

/-- A frame with a fresh FCS, complemented where it must not be accepted (R123). -/
def withFcs (bad : Bool) (b : List Byte) : List Byte :=
  b ++ leBytes 4 (if bad then crc32 b ^^^ 0xFFFFFFFF else crc32 b)

/-- The frame is IPv4 or IPv6 by its EtherType. -/
def Eth.v4 (e : Eth) : Bool := e.ety == 0x0800
def Eth.v6 (e : Eth) : Bool := e.ety == 0x86DD

/-- The ones' complement sum of the 16-bit words of bytes. -/
def onesSum : Nat → List Byte → Nat
  | 0, _ => 0
  | n + 1, bs =>
    let v := beAt bs 0 2 + onesSum n (bs.drop 2)
    if 0xFFFF < v then v - 0xFFFF else v

/-- The length of the IPv4 header, in bytes. -/
def ihl (b : List Byte) : Nat := 4 * bits (beAt b 0 1) 0 4

/-- The IPv4 header is well formed (R105); no other header is looked at. -/
def Eth.headerOk (e : Eth) : Bool :=
  !e.v4 || (bits (beAt e.body 0 1) 4 4 == 4 && 20 ≤ ihl e.body && onesSum (ihl e.body / 2) e.body == 0xFFFF)

/-- The TTL or hop limit. -/
def Eth.ttl (e : Eth) : Nat := if e.v4 then beAt e.body 8 1 else beAt e.body 7 1

/-- Bytes replaced from byte `i`. -/
def patch (bs : List Byte) (i : Nat) (new : List Byte) : List Byte := bs.take i ++ new ++ bs.drop (i + new.length)

/-- The IPv4 checksum updated for one 16-bit word that changes from `old` to `new` (RFC 1624). -/
def csumUpdate (c old new : Nat) : Nat :=
  let v := (0xFFFF - c) + (0xFFFF - old) + new
  let v := v / 65536 + v % 65536
  let v := v / 65536 + v % 65536
  0xFFFF - v

/-- The 16-bit word at byte `i` of an IPv4 header replaced, with the checksum updated. -/
def patchV4 (b : List Byte) (i new : Nat) : List Byte :=
  patch (patch b i (beBytes 2 new)) 10 (beBytes 2 (csumUpdate (beAt b 10 2) (beAt b i 2) new))

/-- The TTL or hop limit lowered by one (R105). -/
def Eth.aged (e : Eth) : List Byte :=
  if e.v4 then patchV4 e.body 8 (beAt e.body 8 2 - 256) else patch e.body 7 (beBytes 1 (beAt e.body 7 1 - 1))

/-- The DSCP of an IP frame. -/
def Eth.dscp (e : Eth) : Nat := if e.v4 then beAt e.body 1 1 / 4 else beAt e.body 0 2 / 64 % 64

/-- Source, destination, protocol and ports of an IP frame, as R108 hashes them. -/
def Eth.flow (e : Eth) : List Byte :=
  let (src, dst, pr, l4) :=
    if e.v4 then (slice 12 4 e.body, slice 16 4 e.body, slice 9 1 e.body, e.body.drop (ihl e.body))
    else (slice 8 16 e.body, slice 24 16 e.body, slice 6 1 e.body, e.body.drop 40)
  let p := ofBeBytes pr
  src ++ dst ++ pr ++ (if p = 6 ∨ p = 17 then fit 4 (l4.take 4) else [0, 0, 0, 0])

/-- The length of a frame that its IP header gives, in bytes on the wire; none for other frames (R137). -/
def Eth.ipLen (e : Eth) : Option Nat :=
  let l2 := 18 + 4 * e.tags.length
  if e.v4 then some (l2 + beAt e.body 2 2) else if e.v6 then some (l2 + 40 + beAt e.body 4 2) else none

/-! ## Lookups (R104, R105, R108, R110) -/

/-- The tables that each base die copies, by number, with the valid bit of those that have one. -/
def copied : Nat → Option (Tbl × Fld)
  | 0 => some (.swtMac, swtMac_valid) | 1 => some (.swtLpm, swtLpm_valid) | 2 => some (.swtHop, swtHop_valid)
  | 5 => some (.swtRoute, swtRoute_valid) | 7 => some (.swtMcast, swtMcast_valid) | 9 => some (.swtVlan, swtVlan_valid)
  | _ => none

/-- The tables as the copy of a base die holds them: an entry with an uncorrectable error reads valid 0 there (R133). -/
def State.copyOf (s : State) (d : Nat) : State :=
  { s with tabs := (s.swc.badCopies.filter (·.1 == d)).foldl (fun l e =>
      match copied e.2.1 with
      | none => l
      | some (t, f) =>
        let k := tabKey t 0 e.2.2 f.off
        kvPut resetTab l k (BitVec.ofNat 64 (putBits (kvGet resetTab l k).toNat f.lo 1 0))) s.tabs }

/-- An entry rewritten is good in every copy. -/
def State.mendCopies (s : State) (n i : Nat) : State :=
  { s with swc := { s.swc with badCopies := s.swc.badCopies.filter fun e => e.2 != (n, i) } }

/-- The key of the MAC table as its 8 bytes. -/
def macKey (vlan mac : Nat) : Nat := vlan * 2 ^ 48 + mac

/-- The two candidate sets of a MAC key (R110). -/
def macSets (key : Nat) : Nat × Nat :=
  let b := beBytes 8 key
  let h1 := crcWith 0x04C11DB7 b % 65536
  let h2 := crcWith 0x1EDC6F41 b % 65536
  (h1, if h2 = h1 then h2 ^^^ 1 else h2)

/-- The raw indices of the sixteen candidate ways, in the order of INSERT. -/
def macWays (key : Nat) : List Nat :=
  let (a, b) := macSets key
  (upTo 8).map (8 * a + ·) ++ (upTo 8).map (8 * b + ·)

/-- The way that holds a MAC key. -/
def State.macFind (s : State) (key : Nat) : Option Nat :=
  (macWays key).find? fun i => s.tb .swtMac 0 i swtMac_valid && bits (s.tw .swtMac 0 i 0) 0 60 == key

/-- An LPM entry, by its three words: a prefix as a 128-bit number with its length counted in those bits. -/
def lpmMatches (w0 w1 w2 : Nat) (v6 : Bool) (addr : Nat) : Bool :=
  let len := bits w2 0 8
  bit w2 9 && bit w2 8 == v6 &&
    if v6 then (w0 * 2 ^ 64 + w1) / 2 ^ (128 - len) == addr / 2 ^ (128 - len)
    else bits w1 0 32 / 2 ^ (32 - len) == addr / 2 ^ (32 - len)

/-- The longest matching prefix of an address: its slot. -/
def State.lpmFind (s : State) (v6 : Bool) (addr : Nat) : Option Nat :=
  (s.listed .swtLpm 0 2).foldl (fun r e =>
    if lpmMatches (s.tw .swtLpm 0 e.1 0) (s.tw .swtLpm 0 e.1 1) e.2 v6 addr then
      match r with
      | none => some e.1
      | some b => if s.t .swtLpm 0 b swtLpm_length < bits e.2 0 8 then some e.1 else r
    else r) none

/-- A member of a route set: bits `[10i + 9:10i]` of its three words. -/
def State.setMember (s : State) (r i : Nat) : Nat :=
  bits (s.tw .swtRouteSet 0 r 0 + s.tw .swtRouteSet 0 r 1 * 2 ^ 64 + s.tw .swtRouteSet 0 r 2 * 2 ^ 128) (10 * i) 10

/-- The egress port that the TLink route table gives (R108); 0xF_FFFF is never routed (R64). -/
def State.tlinkRoute (s : State) (dst entropy : Nat) : Option Nat :=
  if dst = 0xFFFFF then none
  else if s.tb .swtRoute 0 dst swtRoute_valid then
    let t := s.t .swtRoute 0 dst swtRoute_target
    if s.tb .swtRoute 0 dst swtRoute_set then
      let n := s.t .swtRouteSet 0 t swtRouteSet_count
      if n = 0 then none else some (s.setMember t (entropy * n / 65536))
    else some t
  else none

/-- Where a lookup sends a frame: a port, a multicast group, or nowhere. -/
inductive Target where
  | port (p : Nat) | group (g : Nat) | drop
deriving DecidableEq, Repr

/-- Bridging of R104. -/
def State.bridge (s : State) (vlan dmac : Nat) : Target :=
  match s.macFind (macKey vlan dmac) with
  | some i =>
    let t := s.t .swtMac 0 i swtMac_target
    (match s.t .swtMac 0 i swtMac_kind with
    | 0 => .port t
    | 1 => .group t
    | _ => .drop)
  | none =>
    if s.tb .swtVlan 0 vlan swtVlan_valid ∧ s.tb .swtVlan 0 vlan swtVlan_flood then
      .group (s.t .swtVlan 0 vlan swtVlan_flood_group)
    else .drop

/-- The next hop of a routed frame (R105, R108). -/
def State.nextHop (s : State) (tile : Nat) (e : Eth) : Option Nat :=
  let addr := if e.v4 then beAt e.body 16 4 else beAt e.body 24 16
  match s.lpmFind e.v6 addr with
  | none => none
  | some i =>
    let t := s.t .swtLpm 0 i swtLpm_target
    let hop := match s.t .swtLpm 0 i swtLpm_kind with
      | 0 => some t
      | 1 =>
        let n := s.t .swtEcmp 0 t swtEcmp_size
        let h := crcLink (e.flow ++ beBytes 4 (s.g (.swt tile) SWT_HASH_seed))
        if n = 0 ∨ 256 < n ∨ 4096 ≤ t then none
        else some (s.t .swtEcmpMem 0 (s.t .swtEcmp 0 t swtEcmp_base + h / 65536 * n / 65536) swtEcmpMem_next_hop)
      | _ => none
    hop.bind fun n => if s.tb .swtHop 0 n swtHop_valid then some n else none

/-- What a next hop writes (R105), as the frame that looks it up finds it. -/
def State.hopRewrite (s : State) (hop : Nat) : Rewrite :=
  ⟨s.t .swtHop 0 hop swtHop_dmac, s.t .swtHop 0 hop swtHop_vlan, s.tb .swtHop 0 hop swtHop_tagged⟩

/-- Egress stage 7 on a routed frame (R105, R124): the next hop's MAC and VLAN, the MAC of the egress tile as its source,
the TTL lowered. The tag keeps the PCP that came (assumption 171). -/
def State.rewritten (s : State) (c : Cp) : Cp :=
  match c.rewrite with
  | none => c
  | some w =>
    let e := parseEth c.bytes
    let pcp := (e.tags.head?.getD 0) / 8192
    { c with bytes := withFcs c.bad (beBytes 6 w.dmac ++ beBytes 6 (s.g (.swt c.etile) SWT_RMAC_mac) ++
      (if w.tagged then beBytes 2 0x8100 ++ beBytes 2 (pcp * 8192 + w.vlan) else []) ++ beBytes 2 e.ety ++ e.aged) }

/-- The port VC of an Ethernet frame (R107). -/
def State.ethVc (s : State) (port : Nat) (e : Eth) : Nat :=
  let t := portTile port
  let lp := localPort port
  let dflt := s.t .swtPort t lp swtPort_default_vc
  match s.t .swtPort t lp swtPort_trust with
  | 1 => match e.tags with
    | [] => dflt
    | g :: _ => s.pcpVc t (g / 8192)
  | 2 => if e.v4 || e.v6 then s.t .swtDscp t e.dscp swtDscp_vc else dflt
  | _ => dflt

/-! ## Resolve (R99, R112, R131, R179) -/

/-- The tile is out of the pattern, or leaving it (R131). -/
def State.leaving (s : State) (tile : Nat) : Bool :=
  s.swc.evac == some tile || s.st (.swt tile) == .evacuated

/-- A port takes a copy at stage 8: its id names one, is ACTIVE, its group is not evacuated, and its tile is not leaving. -/
def State.portTakes (s : State) (port : Nat) : Bool :=
  decide (port < 1024) && s.portExists port && s.active port && s.st (.grp (portGroup port)) != .evacuated && !s.leaving (portTile port)

/-- A port admits no new frame: its tile is leaving or out of service, or either page accepts no new work (R30, R131,
R401). -/
def State.ingressShut (s : State) (port : Nat) : Bool :=
  let g := s.st (.grp (portGroup port))
  s.leaving (portTile port) || s.st (.swt (portTile port)) != .inService || g == .quiesced || g == .evacuated ||
    s.boot.diapause != 0

/-- The ports of a multicast group, as egress tiles with their masks (R112). -/
def State.groupPortsOf (s : State) (g : Nat) : List (Nat × Nat) :=
  let m := s.t .swtMcast 0 g swtMcast_tile_mask
  let b := s.t .swtMcast 0 g swtMcast_mask_base
  let ts := (upTo 32).filter fun t => bit m t
  (ts.zip (upTo 32)).map fun e => (e.1, if b + e.2 < 131072 then s.t .swtMask 0 (b + e.2) swtMask_ports else 0)

/-- An UP to UP turn (R179). -/
def State.upTurn (s : State) (i e : Nat) : Bool := s.cls i clsPort_label == 1 && s.cls e clsPort_label == 1

/-- The ports that a list of egress masks names, without the ingress port where the frame is bridged. -/
def masksPorts (ms : List (Nat × Nat)) : List Nat :=
  ms.flatMap fun e => (upTo 32).filterMap fun i => if bit e.2 i then some (e.1 * 32 + i) else none

/-- The ports of a list grouped by tile, with the cut-through mark of each copy. -/
def portsMasks (ps : List Nat) (cut : Nat → Bool) : List (Nat × Nat × Bool) :=
  (upTo 32).filterMap fun t =>
    let mine := ps.filter fun p => p / 32 == t
    if mine.isEmpty then none
    else some (t, mine.foldl (fun v p => v + 2 ^ (p % 32)) 0, mine.all cut)

/-- One copy for each tile of a list, with the ports of another that lie on it; a copy may have none left (R112). -/
def tilesMasks (ts ps : List Nat) (cut : Nat → Bool) : List (Nat × Nat × Bool) :=
  ts.map fun t =>
    let mine := ps.filter fun p => p / 32 == t
    (t, mine.foldl (fun v p => v + 2 ^ (p % 32)) 0, mine.all cut)

/-- A new frame's record, before admission. -/
def newCp (fid port vc tile : Nat) (tlink : Bool) (bytes : List Byte) (limit : Nat) (acct : Option (Nat × Nat)) : Cp :=
  { cid := 0, fid := fid, port := port, vc := vc, acct := acct, itile := tile, etile := tile, mask := 0, att := false
    mc := false, tlink := tlink, bad := false, cut := true, place := .ingress, bytes := bytes
    segs := segsOf (if tlink then 64 * flitsOf bytes.length else bytes.length), res := 0, sent := 0, got := 0, slot := 0
    hops := 0, seq := 0, age := 0, limit := limit, rewrite := none, dev := none, slot3 := 0, alts := [] }

/-- The age limit of a port and VC. -/
def State.ageLimit (s : State) (port vc : Nat) : Nat :=
  let v := s.t .swtPortVc (portTile port) (localPort port * 8 + vc) swtPortVc_age_limit
  if v = 0 then 2 ^ 24 else v

/-- A count of drops on the ingress tile. -/
def State.drop (s : State) (port : Nat) (f : Fld) : State := s.inc (.swt (portTile port)) f

/-! ## TLink packets (R102, R108, R179) -/

/-- The attach port of the part that holds a fabric address: a TLINK_ATTACH group that is not OFF (R65, R102). -/
def State.attachPort (s : State) (addr : Nat) : Option Nat :=
  ((upTo 256).find? fun g => s.pers g == .tlinkAttach && s.st (.grp g) != .off &&
    s.g (.att (g / 8)) (ATT_GRP_ADDR_addr.at (0x40 * (g % 8))) == addr).map (4 * ·)

/-- The addresses of the reduction path and of the Roost, where they are valid. -/
def State.rdxAddr (s : State) : Option Nat := if s.gb (.rdx 0) RDX_ADDR_valid then some (s.g (.rdx 0) RDX_ADDR_addr) else none
def State.synAddr (s : State) : Option Nat := if s.gb .syn SYN_SC_ADDR_valid then some (s.g .syn SYN_SC_ADDR_addr) else none

/-- A packet forwarded to an egress port of the part, from stage 8 on. -/
def State.tlinkTo (s : State) (port vc out : Nat) (att : Bool) (bs : List Byte) : State :=
  let loss := s.lossless port vc
  let up := s.upTurn port out
  if !att && !s.portTakes out then s.drop port SWT_DROP_DOWN_count
  else if att && s.leaving (portTile out) then s.drop port SWT_DROP_DOWN_count
  else if !att && s.isEth out then s.drop port SWT_DROP_LOOKUP_count
  else if loss && up && vc == 6 then (s.drop port SWT_TURN_DROPS_count).raise (.swt (portTile port)) cTURN_DROP
  else
    let s := if loss && up then s.drop port SWT_TURN_ESCAPES_count else s
    let r := s.police port vc true bs.length
    if !r.1 then r.2
    else
      let q := r.2.newId
      let a := acctOf (portTile port) (localPort port) vc
      let c := newCp q.1 port (if loss && up then 6 else vc) (portTile port) true bs (s.ageLimit port vc) (some a)
      let cut := s.tb .swtPortVc (portTile port) (localPort port * 8 + vc) swtPortVc_cut_through
      q.2.admitCp { c with att := att } [(portTile out, 2 ^ localPort out, cut)] c.segs

/-- The ingress pipeline on a packet of a TLink port, or of an attach engine bound to that port (R97, R102, R108). An ACK
for the reduction path reaches it too: its streams are acknowledged under R79 (R192, R210; assumption 24). -/
def State.ingressTlink (s : State) (port vc : Nat) (bs : List Byte) : State :=
  let dst := hw bs 0 / 4096
  let op := hw bs 2 / 2 ^ 24
  if ((0x20 ≤ op ∧ op ≤ 0x23) ∨ op = 0x07) ∧ s.rdxAddr = some dst then
    -- R78, R157, R191: on its own VC, or the escape VC
    if vc = 6 ∨ vc = (if op = 0x07 then 2 else if op % 2 = 0 then 4 else 5) then s.hand rdxOwner bs
    else s.inc (.att (portTile port)) ATT_BAD_PKTS_count
  else if s.synAddr = some dst then
    if op = 0x24 ∧ (vc = 0 ∨ vc = 6) then s.hand synOwner bs
    else (s.inc .syn SYN_SC_EARLY_count).raise .syn cSC_EARLY
  else match s.attachPort dst with
    -- a collective packet for an accelerator leaves on its port as it is (assumption 17); one of a reserved opcode is the
    -- attach end's to drop (R78, R191)
    | some out => (s.drop port SWT_RX_FRAMES_count).tlinkTo port vc out (op < 0x20 || 0x25 < op) bs
    | none =>
      let s := s.drop port SWT_RX_FRAMES_count
      match (s.copyOf (portTile port / 4)).tlinkRoute dst (hw bs 2 % 65536) with
      | none => s.drop port SWT_DROP_LOOKUP_count
      | some out => s.tlinkTo port vc out false bs

/-! ## Ethernet frames from stage 8 on -/

/-- The ports of a resolved Ethernet frame that stage 8 leaves it, each port left out counted (R99, R179). -/
def State.ethPorts (s : State) (port vc : Nat) (ps : List Nat) : List Nat × State :=
  ps.foldl (fun r o =>
    if !r.2.portTakes o then (r.1, r.2.drop port SWT_DROP_DOWN_count)
    else if !r.2.isEth o then (r.1, r.2.drop port SWT_DROP_LOOKUP_count)
    else if r.2.lossless port vc && r.2.upTurn port o then
      (r.1, (r.2.drop port SWT_TURN_DROPS_count).raise (.swt (portTile port)) cTURN_DROP)
    else (r.1 ++ [o], r.2)) ([], s)

/-- The reserved segments of an Ethernet frame (R137). -/
def State.reserve (s : State) (a : Nat × Nat) (e : Eth) : Nat :=
  match e.ipLen with
  | some n => segsOf n
  | none => 8 * s.t .bseIn a.1 a.2 bseIn_max_frame

/-- The frame goes to a list of ports: policed, switched cut-through or store-and-forward, copied and admitted. `mc` are the
tiles of its multicast group, where it has one: each takes a copy (R112). -/
def State.ethTo (s : State) (port vc : Nat) (e : Eth) (bs : List Byte) (mc : Option (List Nat)) (w : Option Rewrite)
    (ps : List Nat) : State :=
  let ok := fcsOk bs
  let r := s.ethPorts port vc ps
  if r.1.isEmpty ∧ (mc.getD []).isEmpty then r.2
  else
    let p := r.2.police port vc false bs.length
    if !p.1 then p.2
    else
      let s := p.2
      let entry := s.tb .swtPortVc (portTile port) (localPort port * 8 + vc) swtPortVc_cut_through
      let slow (o : Nat) : Bool := decide (s.portSpeed port < s.portSpeed o)
      let cut (o : Nat) : Bool := entry && !slow o
      let ts := match mc with
        | none => portsMasks r.1 cut
        | some tiles => tilesMasks tiles r.1 cut
      let s := ts.foldl (fun s t => if entry && !t.2.2 then s.drop port SWT_SAF_FALLBACK_count else s) s
      -- R122, R123: a bad FCS drops a store-and-forward copy and marks a cut-through one; both are counted
      let s := if ok then s else ts.foldl (fun s _ => s.drop port SWT_DROP_FCS_count) s
      let ts := if ok then ts else ts.filter (·.2.2)
      if ts.isEmpty then s
      else
        let q := s.newId
        let a := acctOf (portTile port) (localPort port) vc
        let c := newCp q.1 port vc (portTile port) false (withFcs (!ok) (bs.take (bs.length - 4))) (s.ageLimit port vc) (some a)
        q.2.admitCp { c with bad := !ok, mc := mc.isSome, rewrite := w } ts (s.reserve a e)

/-- The ingress pipeline on an Ethernet frame (R103 to R107). -/
def State.ingressEth (s : State) (port : Nat) (bs : List Byte) : State :=
  let t := portTile port
  let lp := localPort port
  let e := parseEth bs
  let vc := s.ethVc port e
  let s := s.drop port SWT_RX_FRAMES_count
  let rmac := e.dmac == s.g (.swt t) SWT_RMAC_mac
  let cp := s.copyOf (t / 4)
  if rmac ∧ !(e.v4 || e.v6) then s.drop port SWT_DROP_LOOKUP_count
  else if rmac ∧ s.tb .swtPort t lp swtPort_l3_enable then
    if !e.headerOk then s.drop port SWT_DROP_HDR_count
    else if e.ttl ≤ 1 then s.drop port SWT_DROP_TTL_count
    else match cp.nextHop t e with
      | none => s.drop port SWT_DROP_LOOKUP_count
      | some h => s.ethTo port vc e bs none (some (cp.hopRewrite h)) [cp.t .swtHop 0 h swtHop_port]
  else if !s.tb .swtPort t lp swtPort_l2_enable then s.drop port SWT_DROP_LOOKUP_count
  else
    let vid := (e.tags.head?.getD 0) % 4096
    let vlan := if vid = 0 then s.t .swtPort t lp swtPort_pvid else vid
    match cp.bridge vlan e.dmac with
    | .drop => s.drop port SWT_DROP_LOOKUP_count
    | .port o => if o = port then s else s.ethTo port vc e bs none none [o]
    | .group g =>
      if !cp.tb .swtMcast 0 g swtMcast_valid then s.drop port SWT_DROP_LOOKUP_count
      else
        let gp := cp.groupPortsOf g
        s.ethTo port vc e bs (some (gp.map (·.1))) none ((masksPorts gp).filter (· != port))

end Sys2Proof.Machine
end

