-- ==== Sys2Proof/Machine/XbarOps.lean ====
section
/-! DEFINITION. The cyclic crossbar (R115 to R118), the release and selection of frames at the egress (R125, R164),
ageing, the deadlock detector and evacuation (chapters 5 and 7). -/

namespace Sys2Proof.Machine

/-! ## The pattern (R115, R116) -/

/-- The members of the pattern, in ascending tile number. -/
def State.members (s : State) : List Nat := (upTo 32).filter fun t => bit (s.g .xbarDev XBAR_MEMBERS_in_pattern) t

/-- The pattern in force is the nested one. -/
def State.nested (s : State) : Bool := s.gb .xbarDev XBAR_STATUS_pattern

/-- The members of a tile's level-1 pattern, in position order. -/
def State.level1 (s : State) (t : Nat) : List Nat := if s.nested then s.members.filter fun x => x / 8 == t / 8 else s.members

/-- The members of a tile's level-2 pattern: the tiles of its level-1 position, one in each Wing. -/
def State.level2 (s : State) (t : Nat) : List Nat := s.members.filter fun x => x % 8 == t % 8

/-- The place of an item in a list. -/
def posOf (l : List Nat) (t : Nat) : Nat := l.idxOf t

/-- The member joined to a member in slot `k` (R115). -/
def joined (l : List Nat) (k t : Nat) : Nat := l.getD ((posOf l t + k) % l.length) t

/-- The positions that every member's page shows. -/
def State.showPos (s : State) : State :=
  s.members.foldl (fun s t =>
    let b := Blk.xbarT t
    let s := s.p b XBAR_POS_flat (posOf s.members t)
    let s := s.p b XBAR_POS_l1 (posOf (s.members.filter fun x => x / 8 == t / 8) t)
    let s := s.p b XBAR_POS_l2 (posOf (s.level2 t) t)
    s.p b XBAR_POS_device (s.g .xbarDev XBAR_L3_CFG_self)) s

/-- A tile joins the pattern, which renumbers (R131); the first one to join puts the configured pattern in force. -/
def State.joinPattern (s : State) (t : Nat) : State :=
  let s := if s.members.isEmpty then s.p .xbarDev XBAR_STATUS_pattern (s.g .xbarDev XBAR_CFG_pattern) else s
  let s := s.p .xbarDev ⟨XBAR_MEMBERS_in_pattern.off, t, 1⟩ 1
  (s.p .xbarDev ⟨XBAR_MEMBERS_evacuated.off, 32 + t, 1⟩ 0).showPos

/-- A tile leaves the pattern, which renumbers (R131). -/
def State.leavePattern (s : State) (t : Nat) (evacuated : Bool) : State :=
  let s := s.p .xbarDev ⟨XBAR_MEMBERS_in_pattern.off, t, 1⟩ 0
  (s.p .xbarDev ⟨XBAR_MEMBERS_evacuated.off, 32 + t, 1⟩ (b2n evacuated)).showPos

/-! ## One slot (R117, R118) -/

/-- A middle tile holds a cell for a destination of a level. -/
def State.midBusy (s : State) (level m dst : Nat) : Bool :=
  s.swc.mids.any fun x => x.level == level && x.at_ == m && x.dst == dst

/-- A cell is on its way to a destination through a tile of its Wing. -/
def State.onWay (s : State) (q e : Nat) : Bool :=
  s.swc.mids.any fun x => (x.level == 1 && x.at_ == q && x.dst == e) || (x.level == 2 && x.dst == q && x.cell.etile == e)

/-- Is destination `e` granted to the spreader joined to middle `m` in slot `k` (R117)? Across Wings the cell rides the
second level at once: the grants of both levels on its way must stand (assumption 15), and a cell within the Wing waits while one from another Wing is on its
way to the same place: a middle holds two cells at most for each. -/
def State.granted2 (s : State) (k m i e : Nat) : Bool :=
  if !s.nested then (s.level1 i).contains e && !s.midBusy 1 m e
  else if e / 8 == i / 8 then (s.level1 i).contains e && !s.onWay m e
  else
    let q := e / 8 * 8 + m % 8
    s.members.contains q && s.members.contains e && !s.midBusy 2 (joined (s.level2 m) k m) q && !s.onWay q e

/-- The H of R125 for a frame between two tiles. -/
def State.hopsOf (s : State) (i e : Nat) : Nat :=
  if i = e then 0
  else if !s.nested then s.members.length - 1
  else if i / 8 = e / 8 then (s.level1 e).length - 1
  else ((s.level1 e).length - 1) + ((s.level2 e).length - 1)

/-- The copies in a spreading queue, in order. -/
def State.spreadQ (s : State) (i e vc : Nat) : List Cp :=
  s.swc.cps.filter fun c => c.place == .ingress && c.itile == i && c.etile == e && c.vc == vc

/-- The segments that a cell takes from a queue: eight at most, of eight frames at most; a multicast copy rides
alone (R114). -/
def cellParts : Nat → Nat → List Cp → List (Nat × Nat)
  | 0, _, _ => []
  | _, _, [] => []
  | n + 1, room, c :: l =>
    if room = 0 then []
    else if c.mc then (if room = 8 then [(c.cid, min room (c.segs - c.sent))] else [])
    else (c.cid, min room (c.segs - c.sent)) :: cellParts n (room - min room (c.segs - c.sent)) l

/-- The next cell of a spreading queue: a frame whose first segment would leave with it and whose age exceeds its limit is
discarded first (R128). -/
def State.nextCell (s : State) (i e vc : Nat) : Nat → List (Nat × Nat) × State
  | 0 => ([], s)
  | n + 1 =>
    let q := s.spreadQ i e vc
    let parts := cellParts 8 8 q
    match q.find? fun c => c.sent == 0 && decide (c.limit < c.age) && parts.any (·.1 == c.cid) with
    | none => (parts, s)
    | some c =>
      State.nextCell ((((s.discard c).pfcCheck c.port).inc (.swt i) SWT_DROP_AGE_count).raise (.swt i) cAGE_DROP) i e vc n

/-- The parts of a cell leave their ingress tile in slot `k`. -/
def State.leave (s : State) (k : Nat) (parts : List (Nat × Nat)) : State :=
  parts.foldl (fun s p =>
    match s.swc.cps.find? fun c => c.cid == p.1 with
    | none => s
    | some c =>
      let c' := { c with sent := c.sent + p.2, slot := if c.sent = 0 then k else c.slot
                         hops := if c.sent = 0 then s.hopsOf c.itile c.etile else c.hops
                         place := if c.sent + p.2 = c.segs then .flight else c.place }
      let s := (s.mapCps fun x => if x.cid = c.cid then c' else x).ingressSent c p.2
      (if c'.place = .flight then s.ingressDone c' else s).pfcCheck c.port) s

/-- One cell spread from tile `i` in slot `k`, from the next granted queue after the last served (R117); the tile that
relays it on level 2 sends it too. -/
def State.spreadOne (s : State) (k i : Nat) (grant : Nat → Bool) : State :=
  let m := joined (s.level1 i) k i
  let last := s.g (.swt i) H_SWT_last_queue
  let keys := (s.swc.cps.filter fun c => c.place == .ingress && c.itile == i && grant c.etile).map fun c => c.etile * 8 + c.vc
  let best := keys.foldl (fun (r : Option Nat) q =>
    match r with
    | none => some q
    | some b => if (q + 511 - last) % 256 < (b + 511 - last) % 256 then some q else r) none
  match best with
  | none => s
  | some q =>
    let r := s.nextCell i (q / 8) (q % 8) ((s.spreadQ i (q / 8) (q % 8)).length + 1)
    let parts := r.1
    let s := r.2.p (.swt i) H_SWT_last_queue q
    if parts.isEmpty then s
    else
      let e := q / 8
      let near := !s.nested || e / 8 == i / 8
      let mid : Mid :=
        if near then ⟨1, m, e, ⟨e, q % 8, parts⟩⟩
        else ⟨2, joined (s.level2 m) k m, e / 8 * 8 + m % 8, ⟨e, q % 8, parts⟩⟩
      let s : State := { s with swc := { s.swc with mids := s.swc.mids ++ [mid] } }
      let s := (s.leave k parts).inc (.xbarT i) XBAR_SPREAD_cells
      if near then s else s.inc (.xbarT m) XBAR_SPREAD_cells

/-- A tile's spreading in slot `k`: two cells at most, under one grant (R115, R117). -/
def State.spread (s : State) (k i : Nat) : State :=
  let m := joined (s.level1 i) k i
  let grants := (upTo 32).filter fun e => s.granted2 k m i e
  let s := s.p (.xbarT i) XBAR_GRANT_grant (grants.foldl (fun v e => v + 2 ^ e) 0)
  (s.spreadOne k i grants.contains).spreadOne k i grants.contains

/-- The segments of a cell reach their egress tile. -/
def State.landCell (s : State) (c : Cell) : State :=
  c.parts.foldl (fun s p =>
    match s.swc.cps.find? fun x => x.cid == p.1 with
    | none => s
    | some x => s.arrive x p.2) s

/-- A cell leaves its middle tile: to the tile of its position in the egress Wing, or to its egress tile. -/
def State.deliverOne (s : State) (m : Mid) : State :=
  let s : State := { s with swc := { s.swc with mids := s.swc.mids.erase m } }
  let s := s.inc (.xbarT m.at_) XBAR_DELIVER_cells
  if m.level = 2 then { s with swc := { s.swc with mids := s.swc.mids ++ [⟨1, m.dst, m.cell.etile, m.cell⟩] } }
  else s.landCell m.cell

/-- The delivery plane of a level in slot `k`: two cells at most on each joining (R115). -/
def State.deliver (s : State) (k level : Nat) : State :=
  (upTo 32).foldl (fun s m =>
    let e := joined (if level = 1 then s.level1 m else s.level2 m) k m
    ((s.swc.mids.filter fun x => x.level == level && x.at_ == m && x.dst == e).take 2).foldl State.deliverOne s) s

/-- The middle buffers that a tile's page shows. -/
def State.showMid (s : State) (t : Nat) : State :=
  let n := (s.swc.mids.filter fun m => m.at_ == t).length
  let s := s.p (.xbarT t) XBAR_MID_OCC_cells n
  if s.g (.xbarT t) XBAR_MID_OCC_high < n then s.p (.xbarT t) XBAR_MID_OCC_high n else s

/-- The slot is complete: every member spreads, then the cells due are delivered, and the slot count advances (R115).
`last` is the member that completed its handshake last (R130). -/
def State.xbarSlot (s : State) (last : Nat) : State :=
  let ms := s.members
  if ms.isEmpty then s
  else
    let k := s.g .xbarDev H_XBAR_k
    let s := ms.foldl (fun s i => s.spread k i) s
    let s := (s.deliver k 2).deliver k 1
    let s := ms.foldl State.showMid s
    let s := (s.inc .xbarDev XBAR_SLOTS_count).p .xbarDev H_XBAR_k ((k + 1) % 2 ^ 64)
    let s := s.p .xbarDev H_XBAR2_lag (s.g .xbarDev H_XBAR2_lag + 1)
    if ms.contains last then (s.inc (.swt last) SWT_SLOT_LAG_last_in_window).inc (.swt last) SWT_SLOT_LAST_count else s

/-! ## Release (R125) -/

/-- Copies for one port in a place. -/
def State.atPort (s : State) (port : Nat) (p : Place) : List Cp :=
  s.swc.cps.filter fun c => c.place == p && c.etile == portTile port && c.mask == 2 ^ localPort port

/-- An earlier frame of the same ingress tile and VC has yet to reach the port, or to be released there. -/
def State.overtakes (s : State) (port : Nat) (c : Cp) : Bool :=
  s.swc.cps.any fun x => x.dev == none && x.itile == c.itile && x.etile == c.etile && x.vc == c.vc &&
    bit x.mask (localPort port) && decide (x.seq < c.seq) && (x.place == .order || x.place == .spillIn ||
      (x.got == 0 && (x.place == .ingress || x.place == .flight)))

/-- Every earlier frame of the same source device has reached the tile, or has been given up (R121). -/
def State.inOrder3 (s : State) (c : Cp) : Bool :=
  match c.dev with
  | none => true
  | some d => match s.swc.seqs3.find? fun e => e.1 == d * 32 + c.etile with
    | none => false
    | some e => decide (0 < (e.2.1 + 2 ^ 32 - c.seq) % 2 ^ 32 ∧ (e.2.1 + 2 ^ 32 - c.seq) % 2 ^ 32 < 2 ^ 31)

/-- A frame of an Ethernet port is due (R121, R125). -/
def State.due (s : State) (port : Nat) (c : Cp) : Bool :=
  if c.dev = none then decide (c.slot + c.hops ≤ s.g .xbarDev H_XBAR_k) && !s.overtakes port c else s.inOrder3 c

/-- Earlier in the order of R125: release slot, then ingress tile, then sequence number. -/
def releasesBefore (a b : Cp) : Bool :=
  let x := a.slot + a.hops
  let y := b.slot + b.hops
  decide (x < y) || (x == y && (decide (a.itile < b.itile) || (a.itile == b.itile && decide (a.seq < b.seq))))

/-- The next frame of an Ethernet port is released to its port queue (R125). -/
def State.ethRelease (s : State) (port : Nat) : State :=
  match (s.atPort port .order).filter (s.due port) with
  | [] => s
  | c :: l =>
    let c := l.foldl (fun a b => if releasesBefore b a then b else a) c
    s.setCps ((s.swc.cps.filter fun x => x.cid != c.cid) ++ [{ c with place := .queue }])

/-! ## Selection (R164 to R167, R170) -/

/-- The link layer of a port. -/
def State.ll (s : State) (port : Nat) : Option Ll := (s.lls.find? fun e => e.1 == port).map (·.2)

/-- The round robin of a port. -/
def State.drrOf (s : State) (port : Nat) : Drr :=
  ((s.swc.drr.find? fun e => e.1 == port).map (·.2)).getD ⟨0, false, [0, 0, 0, 0, 0, 0, 0, 0]⟩

/-- The round robin of a port replaced. -/
def State.setDrr (s : State) (port : Nat) (d : Drr) : State :=
  { s with swc := { s.swc with drr := (s.swc.drr.filter fun e => e.1 != port) ++ [(port, d)] } }

/-- A shaper holds a queue, or a port, back (R167). -/
def State.shaped (s : State) (port vc : Nat) : Bool :=
  (s.clsv port vc clsVc_shape == 1 && decide (s.tokens (vcKey (portTile port) (localPort port) vc) < 0)) ||
    (s.cls port clsPort_port_shape == 1 && decide (s.tokens (portKey (portTile port) (localPort port)) < 0))

/-- The head of a port queue may start (R164); an Ethernet port whose PCS reads a link fault sends no frame (R43). -/
def State.eligible (s : State) (port vc : Nat) : Bool :=
  ((s.atPort port .queue).any fun c => c.vc == vc) && !s.swc.paused.contains (port, vc) && !s.shaped port vc &&
    ((s.isEth port && s.hp port H_PORT_fault == 0) || ((match s.ll port with | none => false | some l => decide (0 < l.cred.getD vc 0)) &&
      !(s.atPort port .tx).any fun c => c.vc == vc))

/-- The head of a port queue. -/
def State.headOf (s : State) (port vc : Nat) : Option Cp := (s.atPort port .queue).find? fun c => c.vc == vc

/-- The deficit round robin of R164: the queue that sends, and the port's state after. -/
def State.nextQ (s : State) (port : Nat) : Nat → Drr → Option Nat × Drr
  | 0, d => (none, d)
  | n + 1, d =>
    let q := d.cur
    let move (d : Drr) : Drr := { d with cur := (q + 1) % 8, topped := false }
    match s.headOf port q with
    | none => State.nextQ s port n (move { d with deficit := d.deficit.set q 0 })
    | some c =>
      if s.eligible port q then
        let d := if d.topped then d else
          { d with deficit := d.deficit.set q (d.deficit.getD q 0 + s.clsv port q clsVc_quantum), topped := true }
        let len := s.counted port c.tlink c.bytes.length
        if len ≤ d.deficit.getD q 0 then (some q, { d with deficit := d.deficit.set q (d.deficit.getD q 0 - len) })
        else State.nextQ s port n (move d)
      else State.nextQ s port n (move d)

/-- ECN marking of a copy (R170): IPv4, IPv6 or a TLink packet with ect. -/
def markEcn (c : Cp) : Bool × List Byte :=
  if c.tlink then
    if bit (hw c.bytes 2) 20 ∧ !bit (hw c.bytes 2) 19 then (true, patch c.bytes 8 (beBytes 4 (hw c.bytes 2 + 2 ^ 19)))
    else (false, c.bytes)
  else
    let e := parseEth c.bytes
    let h := c.bytes.take (c.bytes.length - 4 - e.body.length)
    let tos := if e.v4 then beAt e.body 1 1 % 4 else beAt e.body 1 1 / 16 % 4
    if (e.v4 || e.v6) && (tos == 1 || tos == 2) then
      let body := if e.v4 then patchV4 e.body 0 (beAt e.body 0 2 + 3 - tos)
        else patch e.body 1 (beBytes 1 (beAt e.body 1 1 + (3 - tos) * 16))
      (true, withFcs c.bad (h ++ body))
    else (false, c.bytes)

/-- Stage 8: a copy that leaves an account at or over its threshold is marked (R170). -/
def State.ecn (s : State) (port : Nat) (c : Cp) : Cp × State :=
  if s.clsv port c.vc clsVc_ecn_en = 1 ∧ s.clsv port c.vc clsVc_ecn_threshold ≤ cellsOf (s.held true c.eacct) then
    let r := markEcn c
    ({ c with bytes := r.2 }, if r.1 then s.inc (.swt (portTile port)) SWT_ECN_MARKS_count else s)
  else (c, s)

/-- Shaper tokens spent on a frame (R167). -/
def State.spend (s : State) (port vc n : Nat) : State :=
  let need : Int := (n * 125 : Nat)
  let k := vcKey (portTile port) (localPort port) vc
  let s := if s.clsv port vc clsVc_shape = 1 then s.setTokens k (s.tokens k - need) else s
  let k := portKey (portTile port) (localPort port)
  if s.cls port clsPort_port_shape = 1 then s.setTokens k (s.tokens k - need) else s

/-- A frame starts on its port: an Ethernet frame leaves whole, or as far as it has come while cells are missing (R123); a
TLink packet is started for its flits. -/
def State.startFrame (s : State) (port : Nat) (c : Cp) : State :=
  let t := portTile port
  if c.limit < c.age then ((s.discard c).inc (.swt t) SWT_DROP_AGE_count).raise (.swt t) cAGE_DROP
  else
    let r := s.ecn port (s.rewritten c)
    let s := (r.2.spend port c.vc (s.counted port c.tlink c.bytes.length)).inc (.swt t) SWT_TX_FRAMES_count
    let c' := { r.1 with place := .tx, sent := 0 }
    let s := s.mapCps fun x => if x.cid = c.cid then c' else x
    if !c.tlink ∧ c.got = c.segs then s.sendWhole c' else s

/-- The Ethernet frame that a port has started is cut short where its next cell is still missing as the port would go on
to its next frame (R123, assumption 172): what has come leaves with a complemented FCS. -/
def State.underrun (s : State) (port : Nat) : State :=
  match (s.atPort port .tx).find? fun c => !c.tlink with
  | none => s
  | some c =>
    let b := Blk.swt (portTile port)
    ((((s.discard c).emit (.eth port) 0 [c.vc] (withFcs true (c.bytes.take (32 * c.got)))).inc b SWT_DROP_FCS_count).inc b
      SWT_UNDERRUN_count).raise b cUNDERRUN

/-- The stall of a frame's egress account is over. -/
def State.endStall (s : State) (c : Cp) : State :=
  let key := 2 ^ 20 + c.eacct.1 * 1024 + c.eacct.2
  { s with swc := { s.swc with stalls := s.swc.stalls.filter fun e => e.1 != key } }

/-- An egress port picks its next frame (R164). -/
def State.egressSelect (s : State) (port : Nat) : State :=
  let s := s.underrun port
  if !s.active port ∨ !(upTo 8).any (s.eligible port) then s
  else
    let r := s.nextQ port 65536 (s.drrOf port)
    let s := s.setDrr port r.2
    match r.1.bind (s.headOf port) with
    | none => s
    | some c => (s.endStall c).startFrame port c

/-- Tokens accrue over cycles of REFCLK: a rate of 10 Mb/s is one 125th of a byte a cycle (R167). -/
def accrue (tok : Int) (rate burst cycles : Nat) : Int := min (tok + (rate * cycles : Nat)) ((burst * 125 : Nat) : Int)

/-- Every shaper and policer of a tile accrues (R167). -/
def State.accrueTile (s : State) (t cycles : Nat) : State :=
  let s := (upTo 32).foldl (fun s lp =>
    let s := if s.tb .clsPort t lp clsPort_port_shape then
      s.setTokens (portKey t lp) (accrue (s.tokens (portKey t lp)) (s.t .clsPort t lp clsPort_rate)
        (s.t .clsPort t lp clsPort_burst) cycles) else s
    (upTo 8).foldl (fun s v =>
      let i := lp * 8 + v
      if s.tb .clsVc t i clsVc_shape then
        s.setTokens (vcKey t lp v) (accrue (s.tokens (vcKey t lp v)) (s.t .clsVc t i clsVc_rate)
          (s.t .clsVc t i clsVc_burst) cycles) else s) s) s
  (s.listed .clsPolicer t 0).foldl (fun s e =>
    if bit e.2 42 then
      s.setTokens (polKey t e.1) (accrue (s.tokens (polKey t e.1)) (s.t .clsPolicer t e.1 clsPolicer_rate)
        (s.t .clsPolicer t e.1 clsPolicer_burst) cycles) else s) s

/-! ## Ageing (R127) -/

/-- A copy stands in the store, spill store or order of a die. -/
def Cp.onDie (c : Cp) (d : Nat) : Bool :=
  match c.place with
  | .ingress | .spillIn => c.itile / 4 == d
  | .order | .queue | .spillEg => c.etile / 4 == d
  | _ => false

/-- A tick of a die's age oscillator. -/
def State.ageTick (s : State) (d : Nat) : State :=
  let s := s.mapCps fun c => if c.onDie d then { c with age := satAdd 24 c.age 1 } else c
  (upTo 4).foldl (fun s i =>
    let t := 4 * d + i
    let s := s.p (.swt t) SWT_AGE_NOW_ticks ((s.g (.swt t) SWT_AGE_NOW_ticks + 1) % 2 ^ 24)
    (s.listed .attPath t 1).foldl (fun s e =>
      s.pt .attPath t e.1 attPath_hold_left (s.t .attPath t e.1 attPath_hold_left - 1)) s) s

/-! ## Readback (R144, R145) -/

/-- The oldest spilled block of an account. -/
def State.oldestBlock (s : State) (eg : Bool) (a : Nat × Nat) : Option SpillBlock :=
  s.swc.blocks.find? fun b => b.egress == eg && b.die == a.1 && b.acct == a.2

/-- The read of an account's oldest block starts once its store has drained to half its limit (R144). -/
def State.readback (s : State) (eg : Bool) (a : Nat × Nat) : State :=
  match s.oldestBlock eg a with
  | none => s
  | some b =>
    if b.reading ∨ s.cellLimit eg a / 2 < cellsOf (s.held eg a) then s
    else s.setBlocks (s.swc.blocks.map fun x => if x.addr = b.addr ∧ x.die = b.die then { x with reading := true } else x)

/-- The copies that a block's frame has in the spill store. -/
def State.spilledCps (s : State) (b : SpillBlock) : List Cp :=
  s.swc.cps.filter fun c => if b.egress then c.place == .spillEg && c.cid == b.cid else c.place == .spillIn && c.fid == b.cid

/-- Frames discarded from the spill store of a die, the copies of each counted as one frame (R145, R146). -/
def State.dropSpilled (s : State) (cs : List Cp) : State :=
  match cs with
  | [] => s
  | c :: _ =>
    let d := match c.place with
      | .spillEg => c.etile / 4
      | _ => c.itile / 4
    ((cs.foldl State.discard s).inc (.bse d) BSE_DROP_SPILL_LOST_count).pfcCheck c.port

/-- The spilled copies of a list, frame by frame at the ingress and copy by copy at the egress, discarded. -/
def State.dropSpills (s : State) (cs : List Cp) : State :=
  let s := (cs.filter (·.place == .spillEg)).foldl (fun s c => s.dropSpilled [c]) s
  let ins := cs.filter (·.place == .spillIn)
  (ins.map (·.fid)).eraseDups.foldl (fun s f => s.dropSpilled (ins.filter (·.fid == f))) s

/-- The last block of a frame is back: its age is checked, and it takes its place (R128, R144). -/
def State.unspilled (s : State) (b : SpillBlock) (c : Cp) : State :=
  let cs := s.spilledCps b
  let tile := if b.egress then c.etile else c.itile
  let move (p : Place) : State := s.mapCps fun x => if cs.any (·.cid == x.cid) then { x with place := p } else x
  if b.egress then
    let s := move (if c.tlink then .queue else .order)
    if c.limit < c.age then
      ((s.discard { c with place := .queue }).inc (.swt tile) SWT_DROP_AGE_count).raise (.swt tile) cAGE_DROP
    else s
  else
    let s := move .ingress
    if c.limit < c.age then
      let s := cs.foldl (fun s x => s.discard { x with place := .ingress }) s
      ((s.pfcCheck c.port).inc (.swt tile) SWT_DROP_AGE_count).raise (.swt tile) cAGE_DROP
    else (s.bypass c.fid).pfcCheck c.port

/-- The cells of a read block are back in the store: its buffer is free, and its frame takes the bytes that HBM held
(R144). -/
def State.blockBack (s : State) (b : SpillBlock) (c : Cp) : State :=
  let a := (b.die, b.acct)
  let n := min (8 * b.cells) (c.segs - 8 * b.off)
  let d := (s.readSpace 0 (b.addr + 256) (b.cells * 256)).take (c.bytes.length - 256 * b.off)
  let s := s.mapCps fun x =>
    if (s.spilledCps b).any (·.cid == x.cid) then { x with bytes := patch x.bytes (256 * b.off) d } else x
  let s := s.setBlocks (s.swc.blocks.filter fun x => !(x.addr == b.addr && x.die == b.die))
  ((((s.hwFree b.die b.addr).add (.bse b.die) BSE_SPILL_IN_count b.cells).unspill b.egress a n).charge b.egress a n)

/-- The read of an account's oldest block ends: its cells are placed back, or its frame is discarded (R144, R145). An
egress block that finds too few free cells stays spilled (R140). -/
def State.readDone (s : State) (eg : Bool) (a : Nat × Nat) (uncorr : Bool) : State :=
  match s.oldestBlock eg a with
  | none => s
  | some b =>
    if !b.reading then s
    else match s.spilledCps b with
      | [] => s.dropBlocks eg b.cid
      | c :: l =>
        if uncorr then (s.dropSpilled (c :: l)).raise (.bse a.1) cSPILL_READ_UNCORR
        else if s.freeCells a.1 < b.cells then
          let s := s.setBlocks (s.swc.blocks.map fun x => if x.addr = b.addr ∧ x.die = b.die then { x with reading := false } else x)
          if eg then s.inc (.bse a.1) BSE_FORCED_SPILL_count else s
        else
          let s := s.blockBack b c
          match s.spilledCps b with
          | [] => s
          | c :: _ => if s.swc.blocks.any fun x => x.egress == eg && x.cid == b.cid then s else s.unspilled b c

/-! ## Priority flow control received (R173) -/

/-- The pause of a (port, VC) ends. -/
def State.unpause (s : State) (port vc : Nat) : State :=
  { s with swc := { s.swc with paused := s.swc.paused.filter (· != (port, vc)) } }

/-- A received frame of the MAC control EtherType (R173); one whose FCS is wrong is no such frame. -/
def State.pfcRx (s : State) (port : Nat) (bs : List Byte) : State :=
  let t := portTile port
  let e := parseEth bs
  if e.ety ≠ 0x8808 ∨ !fcsOk bs then s
  else if beAt e.body 0 2 ≠ 0x0101 then s.inc (.swt t) SWT_PAUSE_IGNORED_count
  else
    let en := beAt e.body 2 2
    let ps := (upTo 8).filter fun p => bit en p
    let hon := ps.filter fun p => bit (s.cls port clsPort_pfc) (s.pcpVc t p) && !s.swc.held.contains (port, s.pcpVc t p)
    let s := if hon.isEmpty then s else s.inc (.swt t) SWT_PFC_RX_count
    let s := if hon.length = ps.length then s else s.inc (.swt t) SWT_PAUSE_IGNORED_count
    hon.foldl (fun s p =>
      let v := s.pcpVc t p
      let s := s.unpause port v
      if beAt e.body (4 + 2 * p) 2 = 0 then s
      else { s with swc := { s.swc with paused := s.swc.paused ++ [(port, v)] } }) s

/-! ## The deadlock detector (R182, R183) -/

/-- The key of an account's stall count. -/
def stallKey (eg : Bool) (d i : Nat) : Nat := b2n eg * 2 ^ 20 + d * 1024 + i

/-- The ticks that an account has stalled. -/
def State.stallOf (s : State) (k : Nat) : Nat := ((s.swc.stalls.find? fun e => e.1 == k).map (·.2)).getD 0

/-- The wait-for entry of an account. -/
def State.wfOf (s : State) (eg : Bool) (port vc : Nat) : Option Nat :=
  (upTo (s.g .xbarDev XBAR_DL_STATUS_wf_count)).find? fun i =>
    s.t .xbarWf 0 i xbarWf_kind == b2n (!eg) && s.t .xbarWf 0 i xbarWf_port == port && s.t .xbarWf 0 i xbarWf_vc == vc

/-- The cause that an entry records: a frame that waits although it may spill waits for the spill queue. -/
def State.stallCause (s : State) (eg : Bool) (a : Nat × Nat) : Nat :=
  let port := acctPort a
  if eg then (if s.swc.paused.contains (port, acctVc a) then 1 else 0)
  else
    let res := ((s.swc.cps.find? fun c => c.place == .input && c.acct == some a).map (·.res)).getD 0
    let i := limTbl false
    if s.tb i a.1 a.2 bseIn_spill_enable && decide (s.spilled false a + res * 32 ≤ s.t i a.1 a.2 bseIn_spill_limit * 1024) then 4
    else if !s.within false a res || s.spilled false a != 0 then 2 else 3

/-- A stall recorded: STALL as it begins to count, and one entry for each account (R182). -/
def State.recordStall (s : State) (eg : Bool) (a : Nat × Nat) (ticks : Nat) : State :=
  let port := acctPort a
  match s.wfOf eg port (acctVc a) with
  | some i =>
    let s := s.pt .xbarWf 0 i xbarWf_ticks (min ticks (2 ^ 24 - 1))
    if ticks = max 1 (s.g .xbarDev XBAR_DL_CFG_stall_ticks) then s.raise (.swt (portTile port)) cSTALL else s
  | none =>
    let s := s.raise (.swt (portTile port)) cSTALL
    let n := s.g .xbarDev XBAR_DL_STATUS_wf_count
    if 256 ≤ n then s.p .xbarDev XBAR_DL_STATUS_wf_overflow 1
    else
      let w0 := b2n (!eg) + port * 4 + acctVc a * 2 ^ 12 + s.stallCause eg a * 2 ^ 15 + min ticks (2 ^ 24 - 1) * 2 ^ 18
      (s.setEntry .xbarWf 0 n [w0, s.held eg a + s.spilled eg a * 2 ^ 21]).p .xbarDev XBAR_DL_STATUS_wf_count (n + 1)

/-- A LOCAL contribution of a port stands in its input buffer behind a claim that the home engine has deferred (R201). -/
def State.claimStalls (s : State) (port : Nat) : Bool :=
  s.rcxs.any fun e => e.2.claims.any fun k => k.deferred && k.flits && k.port == port

/-- The account is stalled now: a released egress frame with none started, a frame that waits, or a contribution whose claim
is deferred (R182, R201). -/
def State.stalledNow (s : State) (eg : Bool) (a : Nat × Nat) : Bool :=
  let port := acctPort a
  s.lossless port (acctVc a) &&
    (if eg then ((s.atPort port .queue).any fun c => c.vc == acctVc a) && !s.shaped port (acctVc a)
     else s.waiting a || (acctVc a == 4 && s.claimStalls port))

/-- The scan of a die at a tick (R182): in the order tile, port id and VC. -/
def State.dlScan (s : State) (d : Nat) : State :=
  let lim := s.g .xbarDev XBAR_DL_CFG_stall_ticks
  let busy := ((s.swc.cps.filter fun c => c.place == .queue && c.etile / 4 == d).map fun c => (c.eacct.2, true)) ++
    (s.swc.cps.filter fun c => c.place == .input).filterMap fun c =>
      c.acct.bind fun a => if a.1 = d then some (a.2, false) else none
  let busy := busy ++ (s.rcxs.flatMap fun e => e.2.claims).filterMap fun k =>
    let a := acctOf (portTile k.port) (localPort k.port) 4
    if k.deferred ∧ a.1 = d then some (a.2, false) else none
  let mine := (upTo 1024).flatMap fun i => [true, false].filterMap fun eg =>
    if busy.contains (i, eg) && s.stalledNow eg (d, i) then some (eg, i) else none
  let keep := mine.map fun e => stallKey e.1 d e.2
  let others := s.swc.stalls.filter fun e => e.1 / 1024 % 1024 != d
  let now := keep.map fun k => (k, satAdd 24 (s.stallOf k) 1)
  let s : State := { s with swc := { s.swc with stalls := others ++ now } }
  mine.foldl (fun s e =>
    let n := s.stallOf (stallKey e.1 d e.2)
    if lim ≤ n then s.recordStall e.1 (d, e.2) n else s) s

/-- An account still stalled after its entry has its queued frames discarded, those in the spill store with them (R183). -/
def State.dlRecover (s : State) (port vc : Nat) : State :=
  let a := acctOf (portTile port) (localPort port) vc
  match s.wfOf true port vc with
  | none => s
  | some i =>
    if !s.gb .xbarDev XBAR_DL_CFG_recover ∨ s.tb .xbarWf 0 i xbarWf_recovered ∨ !s.stalledNow true a then s
    else
      let t := portTile port
      let cs := (s.atPort port .queue ++ s.atPort port .spillEg).filter fun c => c.vc == vc
      let s := cs.foldl (fun s c => (s.discard c).inc (.swt t) SWT_STALL_DISCARDS_count) s
      let s := (s.raise (.swt t) cSTALL_DISCARD).pt .xbarWf 0 i xbarWf_recovered 1
      if s.swc.paused.contains (port, vc) then
        { s.unpause port vc with swc := { (s.unpause port vc).swc with held := s.swc.held ++ [(port, vc)] } }
      else s

/-- The wait-for table emptied. -/
def State.dlClear (s : State) : State :=
  ((s.clearTab .xbarWf 0 0 256).p .xbarDev XBAR_DL_STATUS_wf_count 0).p .xbarDev XBAR_DL_STATUS_wf_overflow 0

/-! ## Evacuation (R131) -/

/-- An evacuation of a tile starts, or waits behind the one that runs. -/
def State.startEvac (s : State) (t : Nat) : State :=
  if s.swc.evac.isSome then
    if s.swc.evac == some t || s.swc.evacWait.contains t then s
    else { s with swc := { s.swc with evacWait := s.swc.evacWait ++ [t] } }
  else
    let s : State := { s with swc := { s.swc with evac := some t, drained := false } }
    (s.p .xbarDev XBAR_STATUS_evac_busy 1).p .xbarDev XBAR_STATUS_evac_tile t

/-- The copies that an evacuation has yet to drain (R131): those queued for the tile, and those it holds in its middle
buffers. -/
def State.evacLeft (s : State) (t : Nat) : List Cp :=
  s.swc.cps.filter fun c => ((c.place == .ingress || c.place == .flight) && c.etile == t && c.itile != t) ||
    s.swc.mids.any fun m => m.at_ == t && m.cell.parts.any fun p => p.1 == c.cid

/-- The cells of the copies that an evacuation has yet to drain: those still to spread for the tile, and those in middle
buffers. -/
def State.evacCells (s : State) (t : Nat) : Nat :=
  let out := s.swc.cps.filter fun c => c.place == .ingress && c.etile == t && c.itile != t
  out.foldl (fun v c => v + cellsOf (c.segs - c.sent)) 0 + (s.swc.mids.filter fun m => m.at_ == t || m.cell.etile == t).length

/-- Step 3 of R131: what has not drained is discarded and counted in cells. -/
def State.evacDrop (s : State) (t : Nat) : State :=
  match s.evacLeft t with
  | [] => s
  | l =>
    ((l.foldl (fun s c => (s.discard c).pfcCheck c.port) s).add .xbarDev XBAR_EVAC_DROPS_count (s.evacCells t)).raise .xbarDev
      cEVAC_DROP

/-- What a tile that leaves service holds: its spilled frames, counted in BSE_DROP_SPILL_LOST (R146), and every other
frame of its queues and middle buffers, counted in SWT_DROP_DOWN. -/
def State.dropTile (s : State) (t : Nat) : State :=
  let sp := s.swc.cps.filter fun c => (c.place == .spillIn && c.itile == t) || (c.place == .spillEg && c.etile == t)
  let s := s.dropSpills sp
  let s := s.dropDown t (s.swc.cps.filter fun c => c.itile == t || c.etile == t ||
    s.swc.mids.any fun m => m.at_ == t && m.cell.parts.any fun p => p.1 == c.cid)
  let s : State := { s with swc := { s.swc with mids3 := s.swc.mids3.filter (·.1 != t) } }
  (upTo 32).foldl (fun s i => s.pfcCheck (32 * t + i)) s

/-- The frames queued for a port that leaves ACTIVE (R99). -/
def State.dropPort (s : State) (port : Nat) : State :=
  s.dropDown (portTile port) (s.swc.cps.filter fun c =>
    c.etile == portTile port && c.mask == 2 ^ localPort port && (c.place == .order || c.place == .queue || c.place == .spillEg
      || c.place == .tx))

/-! ## Level 3 (R119, R121) -/

/-- The numbers of level 3 of a (source device, egress tile): number `q` has come, and those after it that had come
ahead. -/
def took3 : Nat → Nat → List Nat → Nat × List Nat
  | 0, n, l => (n, l)
  | k + 1, n, l => if l.contains n then took3 k ((n + 1) % 2 ^ 32) (l.erase n) else (n, l)

/-- A frame of another device has its first cell at its egress tile. -/
def State.seen3 (s : State) (d etile q : Nat) : State :=
  let key := d * 32 + etile
  let old := ((s.swc.seqs3.find? fun e => e.1 == key).map (·.2)).getD (0, [])
  let r := took3 (old.2.length + 1) old.1 (old.2 ++ [q])
  { s with swc := { s.swc with seqs3 := (s.swc.seqs3.filter fun e => e.1 != key) ++ [(key, r)] } }

/-- The copy that stands for a frame of another device while its cells come. -/
def State.find3 (s : State) (x : L3Cell) : Option Cp :=
  s.swc.cps.find? fun c => c.place == .flight && c.dev == some x.src.toNat && c.itile == x.itile.toNat &&
    c.etile == x.etile.toNat && c.seq == x.seq.toNat

/-- The bytes that a cell places in its frame. -/
def fill3 (x : L3Cell) (bs : List Byte) : List Byte :=
  (patch bs (32 * x.off.toNat) (x.data.take 256)).take (max bs.length (32 * x.off.toNat + min 256 x.data.length))

/-- A cell of another device for a tile of this one goes down from tile `t`: to the tile of its position in the egress Wing,
or to its egress tile (R118). -/
def State.down3 (s : State) (t : Nat) (x : L3Cell) : State :=
  let e := x.etile.toNat
  let n := min 8 (x.segs.toNat - x.off.toNat)
  let r := match s.find3 x with
    | some c => (c.cid, s.mapCps fun y => if y.cid = c.cid then { y with bytes := fill3 x y.bytes } else y)
    | none =>
      let q := s.newId
      let c := newCp q.1 (32 * x.itile.toNat) x.vc.toNat x.itile.toNat x.tlink (fill3 x []) x.limit.toNat none
      (q.1, q.2.setCps (q.2.swc.cps ++ [{ c with
        cid := q.1, etile := e, mask := x.mask.toNat, place := .flight, segs := x.segs.toNat, sent := x.segs.toNat
        seq := x.seq.toNat, age := x.age.toNat, dev := some x.src.toNat, slot := q.2.g .xbarDev H_XBAR_k
        slot3 := q.2.g .xbarDev H_XBAR3_k3 }]))
  let cell : Cell := ⟨e, x.vc.toNat, [(r.1, n)]⟩
  let mid : Mid := if s.nested && e / 8 != t / 8 then ⟨2, t, e / 8 * 8 + t % 8, cell⟩ else ⟨1, t, e, cell⟩
  let s := if x.off.toNat = 0 then r.2.seen3 x.src.toNat e x.seq.toNat else r.2
  { s with swc := { s.swc with mids := s.swc.mids ++ [mid] } }

/-- A cell that a payload has brought: for this part, or held for the device that it goes to. -/
def State.take3 (s : State) (self t : Nat) (x : L3Cell) : State :=
  if x.dev.toNat = self then s.down3 t x
  else { s with swc := { s.swc with mids3 := s.swc.mids3 ++ [(t, x)] } }

/-- A gap in front of Ethernet frames of another device that have waited their slots at a tile is given up (R121). -/
def State.giveUp3 (s : State) (t : Nat) : State :=
  let now := s.g .xbarDev H_XBAR3_k3
  let lim := s.g .xbarDev XBAR_L3_CFG_reseq_limit
  s.swc.seqs3.foldl (fun s e =>
    let waits := s.swc.cps.any fun c => c.place == .order && c.dev == some (e.1 / 32) && c.etile == t && e.1 % 32 == t &&
      e.2.2.contains c.seq && decide (c.slot3 + lim ≤ now)
    if waits then
      let next := e.2.2.foldl (fun v q => if (q + 2 ^ 32 - e.2.1) % 2 ^ 32 < (v + 2 ^ 32 - e.2.1) % 2 ^ 32 then q else v)
        (e.2.2.headD e.2.1)
      let r := took3 (e.2.2.length + 1) next e.2.2
      let s : State := { s with swc := { s.swc with seqs3 := (s.swc.seqs3.filter fun x => x.1 != e.1) ++ [(e.1, r)] } }
      s.inc .xbarDev XBAR_L3_GAPS_count
    else s) s

end Sys2Proof.Machine
end

