-- ==== Sys2Proof/Machine/LlOps.lean ====
section
/-! DEFINITION. The TLink link layer: flits, credits, the sideband and link-level replay (R67 to R75). -/

namespace Sys2Proof.Machine

/-- The state with a port's link layer replaced. -/
def State.setLl (s : State) (port : Nat) (l : Ll) : State :=
  { s with lls := (s.lls.filter fun e => e.1 != port) ++ [(port, l)] }

/-- The input-buffer flits of a port (R71). -/
def State.portFlits (s : State) (port : Nat) : Nat :=
  match s.breakout (portGroup port) with
  | 0 => 512 | 1 => 1024 | 2 => 2048 | _ => 4096

/-- The credit share of VC `v` of a group. -/
def State.share (s : State) (g v : Nat) : Nat :=
  bits (s.reg (.att (g / 8)) (0x208 + 0x40 * (g % 8))) (8 * v) 8

/-- The credits that the part advertises for a VC, in units of 8 flits (R71). -/
def State.units (s : State) (port v : Nat) : Nat := s.portFlits port * s.share (portGroup port) v / 256 / 8

/-- The link_caps of the part's own capability message (R72). -/
def State.ownCaps (s : State) (port : Nat) : List Byte :=
  let g := portGroup port
  let addr := if s.pers g == .tlinkAttach then s.g (.att (g / 8)) (ATT_GRP_ADDR_addr.at (0x40 * (g % 8))) * 16 else 0
  beBytes 2 4096 ++ [0xFF] ++ ((upTo 8).flatMap fun v => beBytes 2 (s.units port v)) ++ beBytes 3 addr ++ [1] ++
    List.replicate 25 0

/-- The link layer as a link starts, with the partner's credits and the payload limit (R70, R72). -/
def Ll.start (cred : List Nat) (limit : Nat) : Ll :=
  { txNext := 0, acked := 0, rxNext := 0, accepted := false, cred := cred, reports := List.replicate 8 0
    freed := List.replicate 8 0, owes := [], replay := [], again := 0, owed := [], dropping := false, nakDue := false, open_ := []
    buf := [], held := List.replicate 8 0, turn := 7, limit := limit, slots := [], txq := []
    dealt := [], deal := 0, rxq := [], row := none }

/-- The per-group registers of the ATT page follow a group's lowest port (assumption 16), and read as after reset while
it has no link layer. -/
def State.showLl (s : State) (port : Nat) : State :=
  if port % 4 ≠ 0 then s
  else
    let l := (s.ll port).getD (Ll.start (List.replicate 8 0) 0)
    let g := portGroup port
    let b := Blk.att (g / 8)
    let d := 0x40 * (g % 8)
    let s := (s.p b (ATT_GRP_LL_tx_next.at d) l.txNext).p b (ATT_GRP_LL_tx_acked.at d) l.acked
    let s := (s.p b (ATT_GRP_LL_rx_expected.at d) l.rxNext).p b (ATT_GRP_LL_unacked.at d) l.replay.length
    let w (i : Nat) : Nat := (upTo 4).foldl (fun v j => v + l.cred.getD (i + j) 0 % 65536 * 2 ^ (16 * j)) 0
    (s.setReg b (0x218 + d) (w 0)).setReg b (0x220 + d) (w 4)

/-- A port's link layer starts (R70, R72). -/
def State.startLl (s : State) (port : Nat) (cred : List Nat) (limit : Nat) : State :=
  (s.setLl port (Ll.start cred limit)).showLl port

/-- A port's link layer ends. -/
def State.endLl (s : State) (port : Nat) : State :=
  ({ s with lls := s.lls.filter fun e => e.1 != port } : State).showLl port

/-- A count of the group of a port on its ATT page. -/
def State.grpCount (s : State) (port : Nat) (f : Fld) : State :=
  s.inc (.att (portTile port)) (f.at (0x40 * (portGroup port % 8)))

/-! ## Flits (R67, R68) -/

/-- A flit's 64 bytes. -/
def mkFlit (ftype vc lseq len : Nat) (payload : List Byte) : List Byte :=
  let p := fit 56 payload
  let h := ftype * 2 ^ 28 + vc * 2 ^ 25 + lseq * 2 ^ 13 + len * 2 ^ 7
  beBytes 4 h ++ beBytes 4 (crcLink (beBytes 4 h ++ p)) ++ p

/-- The idle flit: no length, number or payload, and the CRC of that (R68). -/
def idleFlit : List Byte := mkFlit 0 0 0 0 []

/-- The fields of a flit. -/
def fType (f : List Byte) : Nat := beAt f 0 4 / 2 ^ 28
def fVc (f : List Byte) : Nat := bits (beAt f 0 4) 25 3
def fSeq (f : List Byte) : Nat := bits (beAt f 0 4) 13 12
def fLen (f : List Byte) : Nat := bits (beAt f 0 4) 7 6
def fCrcOk (f : List Byte) : Bool := beAt f 4 4 == crcLink (f.take 4 ++ slice 8 56 f)

/-- The length of a flit agrees with its type (R67). -/
def fLenOk (f : List Byte) : Bool :=
  match fType f with
  | 1 | 2 => fLen f == 56
  | _ => 1 ≤ fLen f && fLen f ≤ 56

/-- Flit `j` of a packet. -/
def packetFlit (bytes : List Byte) (vc lseq j : Nat) : List Byte :=
  let n := flitsOf bytes.length
  let p := slice (56 * j) 56 bytes
  mkFlit (if n = 1 then 4 else if j = 0 then 1 else if j = n - 1 then 3 else 2) vc lseq p.length p

/-! ## Transmission (R70, R73, R74) -/

/-- How many unacknowledged flits a port holds at most (R74). -/
def State.replayRoom (s : State) (port : Nat) : Nat := if s.breakout (portGroup port) = 3 then 2048 else 1024

/-- A flit goes out on a port. -/
def State.outFlit (s : State) (port : Nat) (l : Ll) (f : List Byte) : State :=
  ((s.setLl port { l with txq := l.txq ++ [f] }).emit (.tlink port (fVc f)) 0 [] f).showLl port

/-- The next flit of a port: one that goes again, one of a started packet whose VC has credit, or an idle one. -/
def State.txFlit (s : State) (port : Nat) : State :=
  match s.ll port with
  | none => s
  | some l =>
    if 0 < l.again then
      s.outFlit port { l with again := l.again - 1 } ((l.replay.getD (l.replay.length - l.again) (0, idleFlit)).2)
    else
      let vcs := (upTo 8).map fun i => (l.turn + 1 + i) % 8
      let started := s.atPort port .tx
      -- R126: the next flit of a started packet has come, or another VC takes its turn
      let ready (c : Cp) : Bool := c.segs == 0 || decide (2 * c.sent + 2 ≤ c.got)
      let pick := vcs.findSome? fun v => if 0 < l.cred.getD v 0 then started.find? (fun c => c.vc == v && ready c) else none
      match pick with
      | none => s.outFlit port l idleFlit
      | some c =>
        if s.replayRoom port ≤ l.replay.length then s.outFlit port l idleFlit
        else
          let f := packetFlit c.bytes c.vc l.txNext c.sent
          -- the last flit of a result for a LOCAL rank: its acknowledgement is owed (R210)
          let last := c.sent + 1 == flitsOf c.bytes.length
          let local_ := last && s.pers (portGroup port) == .tlinkAttach && hw c.bytes 2 / 2 ^ 24 == 0x21 &&
            s.rdxAddr == some (hw c.bytes 1 / 4096)
          let l := { l with cred := l.cred.set c.vc (l.cred.getD c.vc 0 - 1), replay := l.replay ++ [(l.txNext, f)]
                            owed := if local_ then l.owed ++ [(l.txNext, c.bytes)] else l.owed
                            txNext := (l.txNext + 1) % 4096, turn := c.vc }
          let c' := { c with sent := c.sent + 1 }
          let s := if last then s.discard c
            else (s.mapCps fun x => if x.cid = c.cid then c' else x).freeStore true c.eacct (c.stored - c'.stored)
              (c.cells - c'.cells)
          s.outFlit port l f

/-! ## The sideband (R69, R70) -/

/-- The sideband of the next codeword: the acknowledgement, a nak where one is due, and the report of the VC whose
release is oldest. -/
def Ll.sideband (l : Ll) (nak : Bool) : Nat :=
  let vc := l.owes.headD 0
  let hi := ((l.rxNext + 4095) % 4096) * 2 ^ 12 + b2n l.accepted * 2 ^ 11 + b2n nak * 2 ^ 10 + vc * 2 ^ 7 +
    l.freed.getD vc 0 % 128
  hi * 256 + crcMsb 8 0x07 0 (beBytes 3 hi)

/-- A sideband leaves: its report is made. -/
def State.sendSide (s : State) (port : Nat) (nak : Bool) : Nat × State :=
  match s.ll port with
  | none => (0, s)
  | some l =>
    let nak := nak || l.nakDue
    -- R73: a nak carries ack_v = 1
    let w := { l with accepted := l.accepted || nak }.sideband nak
    (w, s.setLl port { l with owes := l.owes.drop 1, nakDue := false })

/-- A nak leaves at once (R73, R75). -/
def State.sendNak (s : State) (port : Nat) : State :=
  let r := s.sendSide port true
  (r.2.emit (.tlink port 0) 2 [r.1] (beBytes 4 r.1)).grpCount port ATT_GRP_NAKS_count

/-- Flits of a VC leave the input buffer: their credit is owed (R70). -/
def State.freeFlits (s : State) (port vc n : Nat) : State :=
  match s.ll port with
  | none => s
  | some l =>
    let n := min n (l.held.getD vc 0)
    if n = 0 then s
    else s.setLl port { l with held := l.held.set vc (l.held.getD vc 0 - n), freed := l.freed.set vc ((l.freed.getD vc 0 + n) % 128)
                               owes := if l.owes.contains vc then l.owes else l.owes ++ [vc] }

/-- An acknowledgement: every flit up to the one it names leaves the replay buffer; one that names no unacknowledged
flit is ignored (R73). -/
def Ll.ack (l : Ll) (seq : Nat) : Ll :=
  if l.replay.any fun e => e.1 == seq then
    let rest := (l.replay.dropWhile fun e => e.1 != seq).drop 1
    { l with replay := rest, acked := seq, again := min l.again rest.length }
  else l

/-- A received sideband (R69, R70): ignored where its crc8 fails. -/
def State.rxSide (s : State) (port w : Nat) : State :=
  match s.ll port with
  | none => s
  | some l =>
    let l := { l with slots := l.slots.erase (beBytes 4 w) }
    if crcMsb 8 0x07 0 (beBytes 3 (w / 256)) ≠ w % 256 then s.setLl port l
    else
      let l := if bit w 19 then l.ack (bits w 20 12) else l
      let vc := bits w 15 3
      let tot := bits w 8 7
      let d := (tot + 128 - l.reports.getD vc 0 % 128) % 128
      let l := { l with cred := l.cred.set vc (l.cred.getD vc 0 + d), reports := l.reports.set vc tot }
      (s.setLl port l).showLl port

/-- A received nak (R73): every unacknowledged flit from `ack + 1` goes again. -/
def State.rxNak (s : State) (port ack : Nat) : State :=
  match s.ll port with
  | none => s
  | some l =>
    let l := l.ack ack
    match l.replay with
    | [] => (s.setLl port l).showLl port
    | (q, _) :: _ =>
      if q ≠ (ack + 1) % 4096 then (s.setLl port l).showLl port
      else (((s.setLl port { l with again := l.replay.length }).showLl port).grpCount port ATT_GRP_REPLAYS_count).raise
        (.att (portTile port)) cLL_REPLAY

/-! ## Reception (R68, R73) -/

/-- What a flit does to the packets open on its VC: none where it breaks R68, else the open packets and, once whole,
the packet. -/
def takeFlit (op : List (Nat × List Byte)) (f : List Byte) : Option (List (Nat × List Byte) × Option (List Byte)) :=
  let vc := fVc f
  let p := slice 8 (fLen f) f
  let cur := (op.find? fun e => e.1 == vc).map (·.2)
  let rest := op.filter fun e => e.1 != vc
  match fType f, cur with
  | 1, none => some (rest ++ [(vc, p)], none)
  | 2, some b => some (rest ++ [(vc, b ++ p)], none)
  | 3, some b => some (rest, some (b ++ p))
  | 4, none => some (op, some p)
  | _, _ => none

/-- A received flit: whether the port must retrain, and the state. -/
def State.rxFlit (s : State) (port : Nat) (f : List Byte) : Bool × State :=
  match s.ll port with
  | none => (false, s)
  | some l =>
    let l := { l with slots := l.slots.erase f }
    let b := Blk.att (portTile port)
    if fType f = 0 ∧ fCrcOk f then
      -- an idle flit holds no place in the sequence; one with a length breaks R68
      if fLen f = 0 ∨ l.dropping then (false, s.setLl port l) else (true, (s.setLl port l).raise b cLL_PROTOCOL)
    else if !fCrcOk f ∨ fSeq f ≠ l.rxNext then
      let s := if fCrcOk f then s else s.grpCount port ATT_GRP_CRC_ERRS_count
      if l.dropping then (false, s.setLl port l)
      else (false, (s.setLl port { l with dropping := true }).sendNak port)
    else if 5 ≤ fType f ∨ !fLenOk f then (true, (s.setLl port l).raise b cLL_PROTOCOL)
    else match takeFlit l.open_ f with
      | none => (true, (s.setLl port l).raise b cLL_PROTOCOL)
      | some (op, pkt) =>
        let vc := fVc f
        if 8 * s.units port vc ≤ l.held.getD vc 0 then (true, (s.setLl port l).raise b cCREDIT_OVERRUN)
        else
          let l := { l with rxNext := (l.rxNext + 1) % 4096, accepted := true, dropping := false, open_ := op
                            held := l.held.set vc (l.held.getD vc 0 + 1)
                            buf := match pkt with | none => l.buf | some p => l.buf ++ [(vc, p)] }
          (false, (s.setLl port l).showLl port)

/-- A whole packet leaves the input buffer's list as the pipeline takes it. -/
def State.takeBuf (s : State) (port vc : Nat) (bs : List Byte) : Bool × State :=
  match s.ll port with
  | none => (false, s)
  | some l => (l.buf.contains (vc, bs), s.setLl port { l with buf := l.buf.erase (vc, bs) })

end Sys2Proof.Machine
end

