-- ==== Sys2Proof/Machine/BlockFmt.lean ====
section
/-! DEFINITION. The block formats and the integer weights (R251 to R261, R269): how an element decodes with the metadata
of its block, and how a row of exact values encodes. -/

namespace Sys2Proof.Machine

/-! ## Shapes (R251, R254, R255) -/

/-- The bits of an element in the data plane. -/
def fmtBits : Nat → Nat
  | 10 => 4 | 11 => 3 | 12 => 2 | 13 => 8 | 14 => 8 | 15 => 6 | 16 => 6 | 17 => 4 | 18 => 8 | 19 => 8 | 20 => 4
  | f => 8 * fmtBytes f

/-- The elements of a block, 1 where the format has none. -/
def fmtBlock : Nat → Nat
  | 10 => 16 | 11 => 16 | 12 => 32 | 13 => 32 | 14 => 32 | 15 => 32 | 16 => 32 | 17 => 32 | 18 => 32 | _ => 1

/-- The span that the innermost extent is a multiple of (R254); integer weights have their group instead. -/
def fmtSpan (f : Nat) : Nat := if f = 10 then 256 else fmtBlock f

/-- The bytes of a metadata entry, one for each span or group. -/
def fmtMeta : Nat → Nat
  | 10 => 32 | 11 => 1 | 12 => 1 | 13 => 1 | 14 => 1 | 15 => 1 | 16 => 1 | 17 => 1 | 18 => 1 | 19 => 4 | 20 => 4 | _ => 0

/-- The format keeps a side record. -/
def hasSide (f : Nat) : Bool := decide (10 ≤ f) && decide (f ≤ 20)

/-- The element of an MX format. -/
def mxElem : Nat → FFmt
  | 13 => e4m3 | 14 => e5m2 | 15 => e2m3 | 16 => e3m2 | _ => e2m1

/-- The emax of an MX format (R260). -/
def mxEmax : Nat → Int
  | 13 => 8 | 14 => 15 | 15 => 2 | 16 => 4 | 17 => 2 | _ => 0

/-- The rate of a format in MACs per cell step (R270); TB2 has its partner's. -/
def fmtRate : Nat → Nat
  | 10 => 4 | 11 => 4 | 17 => 4 | 3 => 2 | 4 => 2 | 13 => 2 | 14 => 2 | 15 => 2 | 16 => 2 | 18 => 2 | _ => 1

/-- The rate of a pair of operands (R270). -/
def pairRate (x w : Nat) : Nat :=
  if w = 12 then (if fmtRate x = 4 then 8 else fmtRate x) else min (fmtRate x) (fmtRate w)

/-! ## Decoding (R253, R256, R257, R269) -/

/-- A scale byte in E8M0. -/
def e8m0 (b : Nat) : Ev := if b = 0xFF then .nan else Ev.dyadic false 1 ((b : Int) - 127)

/-- A scale byte in E4M3, used with its sign bit 0. -/
def scaleE4m3 (b : Nat) : Ev := e4m3.decode (b % 128)

/-- The product of three values, with no flag of its own. -/
def times3 (a b c : Ev) : Ev := ((a.mul b).1.mul c).1

/-- The tensor scale of an FB4 tensor, from its FP32 code: positive and finite, or none (R256). -/
def tensorScale (c : Nat) : Option Ev :=
  match fp32.decode c with
  | .fin false n d => if n = 0 then none else some (.fin false n d)
  | _ => none

/-- An FB4 element at position `p` of its super-block: its value and the flags of its super-block (R256). `nib` is its
nibble, `lowByte` its byte where it is guarded. -/
def fb4Decode (t : Option Ev) (entry : List Byte) (nib guardByte p : Nat) : Ev × Nat :=
  let at_ (i : Nat) : Nat := (entry.getD i 0).toNat
  let ctl := at_ 20
  let cnt := ctl % 4
  let n := if cnt = 3 then 0 else cnt
  let twice := n == 2 && at_ 16 == at_ 18
  let fl := Flag.invalid.when (cnt == 3 || twice || t.isNone)
  let b := p / 16
  let s := at_ b
  match t with
  | none => (.nan, fl)
  | some tv =>
    if s % 128 = 0x7F then (.nan, fl)
    else if 1 ≤ n ∧ p = at_ 16 then (times3 (e4m3.decode (at_ 17)) (scaleE4m3 s) tv, fl)
    else if n = 2 ∧ !twice ∧ p = at_ 18 then (times3 (e4m3.decode (at_ 19)) (scaleE4m3 s) tv, fl)
    else if bit ctl 2 ∧ b = bits ctl 3 4 then (times3 (e4m3.decode guardByte) (scaleE4m3 s) tv, fl)
    else (times3 (e2m1.decode nib) (scaleE4m3 s) tv, fl)

/-- A TB2 code as a value; the reserved code is 0 and invalid (R253, R257). -/
def tb2Value : Nat → Ev × Nat
  | 0 => (Ev.zero, 0)
  | 1 => (.fin false 1 1, 0)
  | 3 => (.fin true 1 1, 0)
  | _ => (Ev.zero, Flag.invalid.mask)

/-- An element of FB3, TB2 or an MX format with its block's scale byte (R257). -/
def blockDecode (fmt code scale : Nat) : Ev × Nat :=
  match fmt with
  | 11 => (((e1m1.decode code).mul (scaleE4m3 scale)).1, 0)
  | 12 =>
    let r := tb2Value code
    ((r.1.mul (scaleE4m3 scale)).1, r.2)
  | 18 => (((e8m0 scale).mul (((Ev.ofInt (ofCode 8 code)).mul (.fin false 1 64)).1)).1, 0)
  | _ => if scale = 0xFF then (.nan, 0) else (((mxElem fmt).decode code |>.mul (e8m0 scale)).1, 0)

/-- The signed zero point of an integer weight format. -/
def zeroPoint (fmt z : Nat) : Int := if fmt = 19 then ofCode 8 (z % 256) else (z % 16 : Nat)

/-- The signed code of an integer weight. -/
def weightCode (fmt q : Nat) : Int := if fmt = 19 then ofCode 8 q else (q : Int)

/-- An integer weight expanded with a scale (BF16) and a zero point (R269). -/
def weightValue (fmt q scale z : Nat) : Ev := ((Ev.ofInt (weightCode fmt q - zeroPoint fmt z)).mul (bf16.decode scale)).1

/-! ## Conversion control (R273) -/

/-- The fields of a conversion control word, with the SR seed and stream of its instruction. -/
structure Cvt where
  src : Nat
  dst : Nat
  rnd : Nat
  sat : Bool
  clip : Nat
  escMax : Nat
  escRatio : Nat
  guardThr : Nat
  seed : Nat
  stream : Nat
deriving DecidableEq, Repr

/-- The fields of the 32-bit word. -/
def Cvt.ofWord (w seed stream : Nat) : Cvt :=
  ⟨bits w 0 5, bits w 5 5, bits w 10 2, bit w 12, bits w 13 2, bits w 15 2, bits w 17 2, bits w 19 5, seed, stream⟩

/-- The word names no reserved encoding (R251, R273). -/
def Cvt.ok (c : Cvt) : Bool :=
  decide (c.src ≤ 20) && decide (c.dst ≤ 20) && c.dst != 9 && c.escMax != 3 && decide (c.guardThr ≤ 16)

/-- How the element with a row-major index rounds. -/
def Cvt.how (c : Cvt) (index : Nat) : How := ⟨Rnd.ofVal c.rnd, c.sat, srBits c.seed c.stream index⟩

/-- The clip factor, as eighths. -/
def Cvt.clip8 (c : Cvt) : Nat := 8 - c.clip

/-- The escape ratio. -/
def Cvt.ratio (c : Cvt) : Nat := 4 * 2 ^ c.escRatio

/-! ## Encoding (R258 to R260) -/

/-- The larger of two magnitudes. -/
def evMax (a b : Ev) : Ev := if a.lt b then b else a

/-- The largest magnitude of a list; zero of an empty one. -/
def evMaxAbs (l : List Ev) : Ev := l.foldl (fun m v => evMax m v.abs) Ev.zero

/-- A value over a whole-number fraction. -/
def Ev.scaleBy (v : Ev) (n d : Nat) : Ev := (v.mul (.fin false n d)).1

/-- The smallest E4M3 code at or above a magnitude, held between 2^-9 and 448 (R258). -/
def upE4m3 (v : Ev) : Nat :=
  if v.isZero then 0 else ((upTo 126).map (· + 1)).find? (fun c => !(e4m3.decode c).lt v) |>.getD 0x7E

/-- A magnitude rounded onto an element's grid, saturating at its largest value: the code and the report (R264). -/
def blockElem (f : FFmt) (h : How) (v : Ev) : Nat × Exc :=
  match v with
  | .nan => (0, Exc.none)
  | .inf s => (f.signed s f.largestCode, Exc.overflow)
  | .fin s n d =>
    if n = 0 then (f.signed s 0, Exc.none)
    else
      let (q, u, inexact) := f.onGrid h n d
      if dyadicGt q u f.largest.1 f.largest.2 then (f.signed s f.largestCode, Exc.overflow)
      else (f.signed s (f.pack q u), Exc.ofFlags (Flag.inx.when inexact + Flag.unf.when (q == 0)))

/-- A value rounded to a whole number, saturating at `top`: its signed value and the report. -/
def wholeElem (top : Nat) (h : How) (v : Ev) : Int × Exc :=
  match v with
  | .nan => (0, Exc.none)
  | .inf s => (signedNum s top, Exc.overflow)
  | .fin s n d =>
    let q := roundSteps h (n / d) (n % d) d
    if top < q then (signedNum s top, Exc.overflow)
    else (signedNum s q, Exc.ofFlags (Flag.inx.when (n % d != 0) + Flag.unf.when (q == 0 && n != 0)))

/-- One element over its block's scale, in a block format's element code. -/
def elemCode (fmt : Nat) (h : How) (y s : Ev) : Nat × Exc :=
  let v := if s.isZero then (if y.isNeg then .fin true 0 1 else Ev.zero) else (y.div s).1
  match fmt with
  | 10 => blockElem e2m1 h v
  | 11 => blockElem e1m1 h v
  | 12 => let r := wholeElem 1 h v; (toCode 2 r.1, r.2)
  | 18 => let r := wholeElem 127 h (v.scaleBy 64 1); (toCode 8 r.1, r.2)
  | _ => blockElem (mxElem fmt) h v

/-- The reports of a list together. -/
def excSum (l : List Exc) : Exc := l.foldl Exc.add Exc.none

/-- The report of a poisoned block. -/
def Exc.poisoned : Exc := ⟨Flag.poison.mask, 0, 1, 0, 0⟩

/-- The numbers of a list with their places. -/
def indexed {α : Type} (l : List α) : List (Nat × α) := (upTo l.length).zip l

/-- A block of FB3, TB2 or an MX format: its codes, its scale byte and its report (R259, R260). -/
def encodeBlock (c : Cvt) (base : Nat) (xs : List Ev) : List Nat × Nat × Exc :=
  let mx := decide (13 ≤ c.dst)
  if xs.contains .nan then (xs.map fun _ => 0, if mx then 0xFF else 0x7F, Exc.poisoned)
  else
    let scale : Nat :=
      if mx then
        match evMaxAbs (xs.filter fun x => match x with | .inf _ => false | _ => true) with
        | .fin _ n d => if n = 0 then 0 else
            let e := leadExp n d - mxEmax c.dst
            if e < -127 then 0 else if 127 < e then 0xFE else (e + 127).toNat
        | _ => 0
      else
        -- c over 1.5 for FB3, over 1 for TB2
        upE4m3 ((evMaxAbs xs).scaleBy (if c.dst = 11 then 2 * c.clip8 else c.clip8) (if c.dst = 11 then 24 else 8))
    let s := if mx then e8m0 scale else scaleE4m3 scale
    let r := (indexed xs).map fun e => elemCode c.dst (c.how (base + e.1)) e.2 s
    (r.map (·.1), scale, excSum (r.map (·.2)))

/-- An item put into a list before the first that it comes before. -/
def insertBy {α : Type} (lt : α → α → Bool) (x : α) : List α → List α
  | [] => [x]
  | y :: l => if lt x y then x :: y :: l else y :: insertBy lt x l

/-- A list in order; equals keep their places. -/
def sortBy {α : Type} (lt : α → α → Bool) : List α → List α
  | [] => []
  | x :: l => insertBy (fun a b => !lt b a) x (sortBy lt l)

/-- The block of a position. -/
def fb4Of (b : Nat) (l : List (Nat × Ev)) : List (Nat × Ev) := l.filter fun e => e.1 / 16 == b

/-- The escape candidates of a super-block, greatest first, the lower position first among equals (R258 step 2). -/
def fb4Candidates (ratio : Nat) (ys : List (Nat × Ev)) (poisoned : Nat → Bool) : List (Nat × Ev) :=
  let fin (v : Ev) : Bool := match v with | .fin _ _ _ => true | _ => false
  let cs := ys.filter fun e =>
    let m := evMaxAbs (((fb4Of (e.1 / 16) ys).filter fun x => x.1 != e.1 && fin x.2).map (·.2))
    !poisoned (e.1 / 16) && fin e.2 && !e.2.isZero && !m.isZero && (m.scaleBy ratio 1).lt e.2.abs
  sortBy (fun a b => b.2.abs.lt a.2.abs || (!a.2.abs.lt b.2.abs && decide (a.1 < b.1))) cs

/-- What a block of a super-block becomes: its scale byte, the codes of its elements (0 where escaped), whether it is
guarded, its count of saturations and its report. -/
structure Fb4Block where
  scale : Nat
  codes : List Nat
  guarded : Bool
  n : Nat
  exc : Exc
deriving DecidableEq, Repr

/-- Steps 3 and 4 of R258 for one block: `ys` its elements with their positions, `esc` the escaped positions. -/
def fb4Block (c : Cvt) (base : Nat) (guard : Bool) (ys : List (Nat × Ev)) (esc : List Nat) : Fb4Block :=
  let a := evMaxAbs ((ys.filter fun e => !esc.contains e.1).map (·.2))
  let e := evMaxAbs ((ys.filter fun e => esc.contains e.1).map (·.2))
  let scale := if guard then upE4m3 ((evMax a e).scaleBy 1 448)
    else max (upE4m3 (a.scaleBy c.clip8 48)) (upE4m3 (e.scaleBy 1 448))
  let s := scaleE4m3 scale
  let r := ys.map fun x =>
    if esc.contains x.1 then (0, Exc.none)
    else if guard then blockElem e4m3 (c.how (base + x.1)) (if s.isZero then (if x.2.isNeg then .fin true 0 1 else Ev.zero) else (x.2.div s).1)
    else elemCode 10 (c.how (base + x.1)) x.2 s
  let x := excSum (r.map (·.2))
  ⟨scale, r.map (·.1), guard, x.sat, x⟩

/-- The guarded block (R258 step 5): of those at the threshold, the one with the most saturations. -/
def fb4Guard (thr : Nat) (bs : List (Nat × Fb4Block)) (poisoned : Nat → Bool) : Option Nat :=
  if thr = 0 then none
  else (bs.filter fun e => !poisoned e.1 && decide (thr ≤ e.2.n)).foldl (fun r e =>
    match r with
    | none => some e
    | some x => if x.2.n < e.2.n then some e else some x) none |>.map (·.1)

/-- A super-block of FB4: its 128 data bytes, its 32 metadata bytes and its report (R258). `t` is the tensor scale. -/
def fb4Encode (c : Cvt) (t : Option Ev) (base : Nat) (xs : List Ev) : List Byte × List Byte × Exc :=
  let ys := indexed (xs.map fun x => match t with | none => .nan | some v => (x.div v).1)
  let poisoned (b : Nat) : Bool := (fb4Of b ys).any fun e => e.2 == .nan
  let cand := fb4Candidates c.ratio ys poisoned
  let esc := sortBy (fun a b => decide (a < b)) ((cand.take c.escMax).map (·.1))
  let left := cand.length - c.escMax
  let first := (upTo 16).map fun b =>
    if poisoned b then (b, (⟨0x7F, List.replicate 16 0, false, 0, Exc.poisoned⟩ : Fb4Block))
    else (b, fb4Block c base false (fb4Of b ys) esc)
  let g := fb4Guard c.guardThr first poisoned
  let bs := first.map fun e => if g = some e.1 then fb4Block c base true (fb4Of e.1 ys) esc else e.2
  let blk (b : Nat) : Fb4Block := bs.getD b ⟨0, [], false, 0, Exc.none⟩
  let es := esc.map fun p =>
    let s := scaleE4m3 (blk (p / 16)).scale
    (p, blockElem e4m3 (c.how (base + p)) (((ys.getD p (0, .nan)).2.div s).1))
  let satEsc (b : Nat) : Bool := es.any fun e => e.1 / 16 == b && e.2.2.sat != 0
  let data := bs.flatMap fun b =>
    if b.guarded then (b.codes.take 8).map fun v => BitVec.ofNat 8 v
    else (upTo 8).map fun i => BitVec.ofNat 8 (b.codes.getD (2 * i) 0 + 16 * b.codes.getD (2 * i + 1) 0)
  let ext := match g with | none => List.replicate 8 0 | some b => ((blk b).codes.drop 8).map fun v => BitVec.ofNat 8 v
  let pe (i : Nat) : List Byte := match es[i]? with
    | none => [0, 0]
    | some e => [BitVec.ofNat 8 e.1, BitVec.ofNat 8 e.2.1]
  let ctl := esc.length + b2n g.isSome * 4 + g.getD 0 * 8
  let mask := maskOf ((upTo 16).map fun b => (blk b).n != 0 || satEsc b)
  let entry := (bs.map fun b => BitVec.ofNat 8 b.scale) ++ pe 0 ++ pe 1 ++ [BitVec.ofNat 8 ctl, 0] ++ leBytes 2 mask ++ ext
  let own : Exc := ⟨Flag.guard.when g.isSome ||| Flag.escFull.when (0 < left) ||| Flag.invalid.when t.isNone, 0, 0, b2n g.isSome, left⟩
  (data, entry, (excSum (bs.map (·.exc) ++ es.map (·.2.2))).add own)

/-- An integer weight: `round(v / s) + z`, held in its range (R269). -/
def weightEncode (fmt : Nat) (h : How) (v : Ev) (scale z : Nat) : Nat × Exc :=
  let (x, bad) := v.div (bf16.decode scale)
  let (lo, hi) : Int × Int := if fmt = 19 then (-128, 127) else (0, 15)
  let w := if fmt = 19 then 8 else 4
  match x with
  | .nan => (toCode w (max lo (min hi 0)), Exc.ofFlags Flag.invalid.mask)
  | .inf s => (toCode w (if s then lo else hi), Exc.overflow.add (Exc.ofFlags (Flag.invalid.when bad)))
  | .fin s n d =>
    let r := signedNum s (roundSteps h (n / d) (n % d) d) + zeroPoint fmt z
    if r < lo then (toCode w lo, Exc.overflow)
    else if hi < r then (toCode w hi, Exc.overflow)
    else (toCode w r, Exc.ofFlags (Flag.inx.when (n % d != 0)))

end Sys2Proof.Machine
end

