-- ==== Sys2Proof/Machine/Tensor.lean ====
section
/-! DEFINITION. Tensor descriptors (R283), where each element of a tensor lies (R254, R255, R284), and the reading and
writing of tensors (R256 to R261, R269). -/

namespace Sys2Proof.Machine

/-! ## Descriptors (R281, R283) -/

/-- A tensor descriptor: its eight words. -/
structure Desc where
  ws : List Nat
deriving DecidableEq, Repr

/-- Word `i` of a descriptor. -/
def Desc.w (d : Desc) (i : Nat) : Nat := d.ws.getD i 0

def Desc.addr (d : Desc) : Nat := bits (d.w 0) 0 48
def Desc.space (d : Desc) : Nat := bits (d.w 0) 48 3
def Desc.fmt (d : Desc) : Nat := bits (d.w 0) 51 5
def Desc.dims (d : Desc) : Nat := bits (d.w 0) 56 2 + 1
def Desc.valid (d : Desc) : Bool := bit (d.w 0) 58
def Desc.object (d : Desc) : Bool := bit (d.w 0) 59
def Desc.side (d : Desc) : Nat := bits (d.w 6) 0 48
def Desc.sideSpace (d : Desc) : Nat := bits (d.w 6) 48 3
def Desc.objectId (d : Desc) : Nat := bits (d.w 7) 0 12

/-- The extent of dimension `i`, 1 beyond the dimensions in use. -/
def Desc.ext (d : Desc) (i : Nat) : Nat := if i < d.dims then bits (d.w (1 + i / 2)) (32 * (i % 2)) 32 else 1

/-- The byte stride of dimension `i`, from 1 on. -/
def Desc.stride (d : Desc) (i : Nat) : Nat := if i < d.dims then bits (d.w (2 + i)) 0 48 else 0

/-- The rows of a tensor: every index but the innermost. -/
def Desc.rows (d : Desc) : Nat := d.ext 1 * d.ext 2 * d.ext 3

/-- The elements of a tensor. -/
def Desc.count (d : Desc) : Nat := d.ext 0 * d.rows

/-- The batches of a tensor. -/
def Desc.batches (d : Desc) : Nat := d.ext 2 * d.ext 3

/-! ## Tiles (R284, R288) -/

/-- The tile depth of a tensor laid out in tiles: 128 times the rate of its own format (assumption 18). -/
def Desc.depth (d : Desc) : Nat := 128 * (if d.fmt = 12 then 8 else fmtRate d.fmt)

/-- The smallest power of two at or above a number, from 16 up. -/
def powAbove (n : Nat) : Nat := if n ≤ 16 then 16 else 2 ^ (Nat.log2 (n - 1) + 1)

/-- The fold of an output dimension of `n` columns. -/
def foldOf (n : Nat) : Nat := if 512 ≤ n then 1 else 512 / powAbove n

/-- The output blocks of `n` columns. -/
def blocksOf (n : Nat) : Nat := (n + 511) / 512

/-- The tiles of an output block: K of them, of depth `kt`. -/
def tilesOf (kt k n : Nat) : Nat := (k + kt * foldOf n - 1) / (kt * foldOf n)

/-- The bytes of a tile, raised to a multiple of 256. -/
def tileBytes (kt fmt : Nat) : Nat := roundUp 256 (kt * 512 * fmtBits fmt / 8)

/-- Where element (k, n) of a batch stands in a tiled tensor: its block, tile, column and place in the column. -/
def tilePlace (kt nTot k n : Nat) : Nat × Nat × Nat × Nat :=
  let f := foldOf nTot
  let np := if f = 1 then 512 else powAbove nTot
  let t := kt * f
  (n / 512, k / t, k % t / kt * np + n % 512, k % kt)

/-- Metadata of a tensor: its span in elements, from its format and, for grouped weights, its header. -/
def metaSpan (fmt group : Nat) : Nat := if fmt = 19 ∨ fmt = 20 then group else fmtSpan fmt

/-- The bit in its space of element (i0, i1) of batch `b`: a tiled tensor's bits lie in the array stores. -/
def Desc.bitAt (d : Desc) (i0 i1 i2 i3 : Nat) : Nat :=
  if d.space = 3 then
    let (nb, kb, col, kin) := tilePlace d.depth (d.ext 1) i0 i1
    let bk := tilesOf d.depth (d.ext 0) (d.ext 1)
    let per := (blocksOf (d.ext 1) + 15) / 16
    let q := (d.addr / 2 ^ 26 + nb) % 16
    let off := d.addr % 2 ^ 26 + (((i3 * d.ext 2 + i2) * per + nb / 16) * bk + kb) * tileBytes d.depth d.fmt
    8 * (q * 2 ^ 26 + off) + (col * d.depth + kin) * fmtBits d.fmt
  else 8 * (d.addr + i1 * d.stride 1 + i2 * d.stride 2 + i3 * d.stride 3) + i0 * fmtBits d.fmt

/-- The number of the metadata entry of an element, in the order of the data plane. -/
def Desc.metaAt (d : Desc) (span i0 i1 i2 i3 : Nat) : Nat :=
  let b := i3 * d.ext 2 + i2
  if d.space = 3 then
    let (nb, kb, col, kin) := tilePlace d.depth (d.ext 1) i0 i1
    (((b * blocksOf (d.ext 1) + nb) * tilesOf d.depth (d.ext 0) (d.ext 1) + kb) * 512 + col) * (d.depth / span) + kin / span
  else (b * d.ext 1 + i1) * (d.ext 0 / span) + i0 / span

/-- The metadata entries of a tensor. -/
def Desc.metaCount (d : Desc) (span : Nat) : Nat :=
  if d.space = 3 then d.batches * blocksOf (d.ext 1) * tilesOf d.depth (d.ext 0) (d.ext 1) * 512 * (d.depth / span)
  else d.rows * (d.ext 0 / span)

/-- The memory space that holds a Gang space's bytes: tiles lie in the array stores. -/
def memSpace (sp : Nat) : Nat := if sp = 3 then 1 else sp

/-! ## Side records (R255) -/

/-- Bytes of a tensor's side record. -/
def State.sideBytes (s : State) (d : Desc) (off n : Nat) : List Byte := s.readSpace (memSpace d.sideSpace) (d.side + off) n

/-- A field of `n` bytes of the side record's header. -/
def State.sideNum (s : State) (d : Desc) (off n : Nat) : Nat := ofLeBytes (s.sideBytes d off n)

/-- The integer mode of a weight tensor, and its group. -/
def State.intMode (s : State) (d : Desc) : Nat := bits (s.sideNum d 4 4) 0 2
def State.intGroup (s : State) (d : Desc) : Nat := 2 ^ bits (s.sideNum d 4 4) 2 4

/-- The span of a tensor's metadata entries; an integer weight without groups has none. -/
def State.span (s : State) (d : Desc) : Nat :=
  if d.fmt = 19 ∨ d.fmt = 20 then (if s.intMode d = 1 then s.intGroup d else 0) else fmtSpan d.fmt

/-- The descriptor and its side record follow R254, R255, R269 and R283. -/
def State.descOk (s : State) (d : Desc) : Bool :=
  let int := d.fmt == 19 || d.fmt == 20
  d.valid && decide (d.space ≤ 3) && decide (d.fmt ≤ 20) &&
    ((upTo 3).all fun i => d.stride (i + 1) % 16 == 0) &&
    (if hasSide d.fmt then decide (d.sideSpace ≤ 3) else d.w 6 == 0) &&
    (if int then
      let m := s.intMode d
      let g := bits (s.sideNum d 4 4) 2 4
      m != 3 && !(m == 2 && d.fmt == 19) && (m != 1 || (decide (5 ≤ g) && decide (g ≤ 7) && d.ext 0 % 2 ^ g == 0))
    else d.ext 0 % fmtSpan d.fmt == 0)

/-! ## Elements -/

/-- `w` bits from a bit of a space. -/
def State.bitsAt (s : State) (sp b w : Nat) : Nat :=
  bits (ofLeBytes (s.readSpace sp (b / 8) ((b % 8 + w + 7) / 8))) (b % 8) w

/-- `w` bits of a space replaced. -/
def State.putBitsAt (s : State) (sp b w v : Nat) : State :=
  let n := (b % 8 + w + 7) / 8
  s.writeSpace sp (b / 8) (leBytes n (putBits (ofLeBytes (s.readSpace sp (b / 8) n)) (b % 8) w v))

/-- Where the XPE block of line `l` of a row starts: blocks follow one another. -/
def State.xpeStart (s : State) (sp : Nat) : Nat → Nat → Nat
  | 0, a => a
  | l + 1, a => let b := State.xpeStart s sp l a; b + xpeSize (s.readSpace sp b 16)

/-- The value of an element of a row and the flags that its decoding raises (R256, R257, R269), from the fields of the
tensor's header (offset, bytes), the codes of the row, and the element's metadata entry for a span. -/
def elemBy (fmt : Nat) (hdr : Nat → Nat → Nat) (code : Nat → Nat) (entry : Nat → List Byte) (i : Nat) : Ev × Nat :=
  if fmt ≤ 8 then (decodeScalar fmt (code i), 0)
  else if fmt = 10 then
    let e := entry 256
    let j := i % 16
    let gb := if j < 8 then code (i - j + 2 * j) + 16 * code (i - j + 2 * j + 1) else (e.getD (24 + j - 8) 0).toNat
    fb4Decode (tensorScale (hdr 0 4)) e (code i) gb (i % 256)
  else if fmt = 19 ∨ fmt = 20 then
    match bits (hdr 4 4) 0 2 with
    | 0 => (weightValue fmt (code i) (hdr 8 2) (hdr 0xA 1), 0)
    | 1 => let e := ofLeBytes (entry (2 ^ bits (hdr 4 4) 2 4)); (weightValue fmt (code i) (bits e 0 16) (bits e 16 8), 0)
    | _ =>
      let v := bf16.decode (hdr (0x10 + 2 * code i) 2)
      (v, Flag.invalid.when (v == .nan))
  else blockDecode fmt (code i) ((entry (fmtSpan fmt)).getD 0 0).toNat

/-- The code of an element. -/
def State.code (s : State) (d : Desc) (i0 i1 i2 i3 : Nat) : Nat :=
  s.bitsAt (memSpace d.space) (d.bitAt i0 i1 i2 i3) (fmtBits d.fmt)

/-- The metadata entry of an element. -/
def State.metaEntry (s : State) (d : Desc) (span i0 i1 i2 i3 : Nat) : List Byte :=
  s.sideBytes d (0x40 + fmtMeta d.fmt * d.metaAt span i0 i1 i2 i3) (fmtMeta d.fmt)

/-- The value of an element and the flags that its decoding raises. -/
def State.elem (s : State) (d : Desc) (i0 i1 i2 i3 : Nat) : Ev × Nat :=
  if d.fmt = 9 then
    let sp := memSpace d.space
    let a := s.xpeStart sp (i0 / 16) (d.addr + i1 * d.stride 1 + i2 * d.stride 2 + i3 * d.stride 3)
    (xpeValue (s.readSpace sp a (xpeSize (s.readSpace sp a 16))) (i0 % 16), 0)
  else elemBy d.fmt (s.sideNum d) (fun i => s.code d i i1 i2 i3) (fun span => s.metaEntry d span i0 i1 i2 i3) i0

/-- The indices of row `r`. -/
def Desc.rowIdx (d : Desc) (r : Nat) : Nat × Nat × Nat := (r % d.ext 1, r / d.ext 1 % d.ext 2, r / d.ext 1 / d.ext 2)

/-- A row's values, and their flags together. -/
def State.row (s : State) (d : Desc) (r : Nat) : List Ev × Nat :=
  let (i1, i2, i3) := d.rowIdx r
  let l := (upTo (d.ext 0)).map fun i => s.elem d i i1 i2 i3
  (l.map (·.1), l.foldl (fun m e => m ||| e.2) 0)

/-- The code of an element written. -/
def State.putCode (s : State) (d : Desc) (i0 i1 i2 i3 v : Nat) : State :=
  s.putBitsAt (memSpace d.space) (d.bitAt i0 i1 i2 i3) (fmtBits d.fmt) v

/-- The codes of a run of elements of a row written, from `i0` on. -/
def State.putCodes (s : State) (d : Desc) (i0 i1 i2 i3 : Nat) (vs : List Nat) : State :=
  (indexed vs).foldl (fun s e => s.putCode d (i0 + e.1) i1 i2 i3 e.2) s

/-- The metadata entry of an element written. -/
def State.putMeta (s : State) (d : Desc) (span i0 i1 i2 i3 : Nat) (bs : List Byte) : State :=
  s.writeSpace (memSpace d.sideSpace) (d.side + 0x40 + fmtMeta d.fmt * d.metaAt span i0 i1 i2 i3) bs

/-- A list in runs of `n`. -/
def chunks {α : Type} (n : Nat) : Nat → List α → List (List α)
  | 0, _ => []
  | k + 1, l => if l.isEmpty then [] else l.take n :: chunks n k (l.drop n)

/-- A row of exact values converted into a tensor's format and written (R258 to R261, R264 to R269). -/
def State.putRow (s : State) (d : Desc) (c : Cvt) (r : Nat) (xs : List Ev) : State × Exc :=
  let (i1, i2, i3) := d.rowIdx r
  let base := r * d.ext 0
  if d.fmt ≤ 8 then
    let q := (indexed xs).map fun e => encodeScalar d.fmt (c.how (base + e.1)) e.2
    (s.putCodes d 0 i1 i2 i3 (q.map (·.1)), excSum (q.map (·.2)))
  else if d.fmt = 10 then
    let t := tensorScale (s.sideNum d 0 4)
    (indexed (chunks 256 (xs.length + 1) xs)).foldl (fun a e =>
      let i0 := 256 * e.1
      let (data, entry, x) := fb4Encode c t (base + i0) e.2
      let s := (indexed (chunks 8 17 data)).foldl (fun s b =>
        s.writeSpace (memSpace d.space) (d.bitAt (i0 + 16 * b.1) i1 i2 i3 / 8) b.2) a.1
      (s.putMeta d 256 i0 i1 i2 i3 entry, a.2.add x)) (s, Exc.none)
  else if d.fmt = 19 ∨ d.fmt = 20 then
    (indexed xs).foldl (fun a e =>
      let g := ofLeBytes (s.sideBytes d (0x40 + 4 * d.metaAt (s.intGroup d) e.1 i1 i2 i3) 4)
      let (sc, z) := if s.intMode d = 0 then (s.sideNum d 8 2, s.sideNum d 0xA 1) else (bits g 0 16, bits g 16 8)
      let q := weightEncode d.fmt (c.how (base + e.1)) e.2 sc z
      (a.1.putCode d e.1 i1 i2 i3 q.1, a.2.add q.2)) (s, Exc.none)
  else
    let n := fmtSpan d.fmt
    (indexed (chunks n (xs.length + 1) xs)).foldl (fun a e =>
      let (codes, scale, x) := encodeBlock c (base + n * e.1) e.2
      let s := a.1.putCodes d (n * e.1) i1 i2 i3 codes
      (s.putMeta d n (n * e.1) i1 i2 i3 [BitVec.ofNat 8 scale], a.2.add x)) (s, Exc.none)

/-- A total of a side record's header raised, held at its largest value (R261). -/
def State.addTotal (s : State) (d : Desc) (off n : Nat) : State :=
  if n = 0 then s
  else s.writeSpace (memSpace d.sideSpace) (d.side + off) (leBytes 4 (satAdd 32 (s.sideNum d off 4) n))

/-- The counts of a conversion added to the side record (R261). -/
def State.addTotals (s : State) (d : Desc) (x : Exc) : State :=
  if hasSide d.fmt then
    (((s.addTotal d 0x30 x.sat).addTotal d 0x34 x.poison).addTotal d 0x38 x.guard).addTotal d 0x3C x.escFull
  else s

/-! ## Byte ranges (R281) -/

/-- The bytes of a row of the data plane. -/
def State.rowBytes (s : State) (d : Desc) (rowAddr : Nat) : Nat :=
  if d.fmt = 9 then s.xpeStart (memSpace d.space) ((d.ext 0 + 15) / 16) rowAddr - rowAddr
  else (d.ext 0 * fmtBits d.fmt + 7) / 8

/-- The runs of bytes of a tensor's data plane: space, address and length. -/
def State.dataRanges (s : State) (d : Desc) : List (Nat × Nat × Nat) :=
  if d.space = 3 then
    let per := (blocksOf (d.ext 1) + 15) / 16 * d.batches * tilesOf d.depth (d.ext 0) (d.ext 1) * tileBytes d.depth d.fmt
    (upTo (min 16 (blocksOf (d.ext 1)))).map fun i => (1, (d.addr / 2 ^ 26 + i) % 16 * 2 ^ 26 + d.addr % 2 ^ 26, per)
  else
    let last := (d.ext 1 - 1) * d.stride 1 + (d.ext 2 - 1) * d.stride 2 + (d.ext 3 - 1) * d.stride 3
    [(d.space, d.addr, last + s.rowBytes d (d.addr + last))]

/-- The run of bytes of a tensor's side record, where it has one. -/
def State.sideRanges (s : State) (d : Desc) : List (Nat × Nat × Nat) :=
  if hasSide d.fmt then
    [(memSpace d.sideSpace, d.side, 0x40 + (if s.span d = 0 then 0 else fmtMeta d.fmt * d.metaCount (s.span d)))] else []

/-- The runs of bytes that a tensor takes: space, address and length. -/
def State.ranges (s : State) (d : Desc) : List (Nat × Nat × Nat) := s.dataRanges d ++ s.sideRanges d

/-- May a partition's Gang access a tensor (R281)? -/
def State.tensorMay (s : State) (p : Nat) (d : Desc) (r : Right) : Bool :=
  (s.ranges d).all fun e => decide (e.2.1 + e.2.2 ≤ spaceTop e.1) && s.memMay (0x30 + p) (some p) e.1 e.2.1 e.2.2 r

/-- The bytes of a tensor as R297 orders them: its elements in row-major order, then its side record. -/
def State.tensorBytes (s : State) (d : Desc) : List Byte :=
  let sp := memSpace d.space
  let data := (upTo d.rows).flatMap fun r =>
    let (i1, i2, i3) := d.rowIdx r
    if d.fmt = 9 then
      let a := d.addr + i1 * d.stride 1 + i2 * d.stride 2 + i3 * d.stride 3
      s.readSpace sp a (s.rowBytes d a)
    else
      let v := (upTo (d.ext 0)).foldl (fun v i => v + s.bitsAt sp (d.bitAt i i1 i2 i3) (fmtBits d.fmt) * 2 ^ (fmtBits d.fmt * i)) 0
      leBytes ((d.ext 0 * fmtBits d.fmt + 7) / 8) v
  data ++ (if hasSide d.fmt then
    s.sideBytes d 0 (0x40 + (if s.span d = 0 then 0 else fmtMeta d.fmt * d.metaCount (s.span d))) else [])

/-- The bytes of the data of a tensor, as R297 orders them. -/
def State.dataLen (s : State) (d : Desc) : Nat := d.rows * s.rowBytes d d.addr

/-- The bytes of a tensor in all. -/
def State.tensorLen (s : State) (d : Desc) : Nat :=
  s.dataLen d + (if hasSide d.fmt then 0x40 + (if s.span d = 0 then 0 else fmtMeta d.fmt * d.metaCount (s.span d)) else 0)

/-- Where byte `j` of a tensor lies: its space and address. -/
def State.tensorByte (s : State) (d : Desc) (j : Nat) : Nat × Nat :=
  let rb := s.rowBytes d d.addr
  if s.dataLen d ≤ j then (memSpace d.sideSpace, d.side + (j - s.dataLen d))
  else
    let (i1, i2, i3) := d.rowIdx (j / rb)
    let o := j % rb
    if d.space = 3 then
      let e := 8 * o / fmtBits d.fmt
      (1, (d.bitAt e i1 i2 i3 + (8 * o - e * fmtBits d.fmt)) / 8)
    else (d.space, d.addr + i1 * d.stride 1 + i2 * d.stride 2 + i3 * d.stride 3 + o)

/-- Bytes of a tensor written, from byte `off` on; those beyond its end are not. -/
def State.putTensorBytes (s : State) (d : Desc) (off : Nat) (bs : List Byte) : State :=
  (indexed bs).foldl (fun s e =>
    if s.tensorLen d ≤ off + e.1 then s
    else let a := s.tensorByte d (off + e.1); s.writeSpace a.1 a.2 [e.2]) s

/-! ## The partition's tables in HBM (R283, R298) -/

/-- A descriptor of a partition, read from its table. -/
def State.desc (s : State) (p i : Nat) : Desc :=
  let a := s.t .macPart 0 p macPart_desc_base + 64 * i
  ⟨(upTo 8).map fun j => ofLeBytes (s.readSpace 0 (a + 8 * j) 8)⟩

/-- The entry of a partition's object table. -/
def State.objectAddr (s : State) (p id : Nat) : Nat := s.t .macPart 0 p macPart_desc_base + 0x40000 + 64 * id

/-- A tensor has been written: the digest of a weight object no longer stands (R298). -/
def State.written (s : State) (p : Nat) (d : Desc) : State :=
  if d.object then s.writeSpace 0 (s.objectAddr p d.objectId) (List.replicate 64 0) else s

end Sys2Proof.Machine
end

