-- ==== Sys2Proof/Machine/AttOps.lean ====
section
/-! DEFINITION. The attach engine's transport: contexts, messages, packets, acknowledgements, retransmission, paths and
regions (R77 to R96). -/

namespace Sys2Proof.Machine

/-! ## Contexts (R81, R82) -/

/-- An empty context. -/
def Cx.empty : Cx := ⟨0, [], [], [], 0, [], 0, 0, 0, 0, 0, false, [], false⟩

/-- A context beside its entry. -/
def State.cx (s : State) (c : Nat) : Cx := ((s.cxs.find? fun e => e.1 == c).map (·.2)).getD Cx.empty

/-- The state with a context replaced. -/
def State.setCx (s : State) (c : Nat) (x : Cx) : State :=
  { s with cxs := (s.cxs.filter fun e => e.1 != c) ++ (if x = Cx.empty then [] else [(c, x)]) }

/-- A field of a context's entry. -/
def State.ctx (s : State) (c : Nat) (f : Fld) : Nat := s.t .attCtx 0 c f

/-- A field of a context's entry replaced. -/
def State.pctx (s : State) (c : Nat) (f : Fld) (v : Nat) : State := s.pt .attCtx 0 c f v

/-- The states of R82: 0 FREE, 1 ACTIVE, 2 DRAINING, 3 FAILED, 4 COLLECTIVE. -/
def State.ctxSt (s : State) (c : Nat) : Nat := s.ctx c attCtx_state

/-- The port group and the tile of a context. -/
def State.ctxGroup (s : State) (c : Nat) : Nat := s.ctx c attCtx_port
def State.ctxTile (s : State) (c : Nat) : Nat := s.ctxGroup c / 8

/-- A context carries traffic. -/
def State.ctxLive (s : State) (c : Nat) : Bool := s.ctxSt c == 1 || s.ctxSt c == 2

/-- `a` is behind `b` (R84). -/
def psnBehind (a b : Nat) : Bool :=
  let d := (b + 2 ^ 24 - a) % 2 ^ 24
  1 ≤ d && d ≤ 2 ^ 23 - 1

/-- The fabric address of a port group. -/
def State.grpAddr (s : State) (g : Nat) : Nat := s.g (.att (g / 8)) (ATT_GRP_ADDR_addr.at (0x40 * (g % 8)))

/-! ## Packets (R76, R77, R79, R80) -/

/-- Bits [21:19] of word 2 taken as zero, as e2e_crc takes them. -/
def crcWord2 (w : Nat) : Nat := putBits w 19 3 0

/-- The end-to-end CRC over header words 0 to 12 and a payload (R77). -/
def e2eCrc (ws : List Nat) (payload : List Byte) : Nat :=
  crcLink (((ws.take 13).zip (upTo 13)).flatMap (fun e => beBytes 4 (if e.2 = 2 then crcWord2 e.1 else e.1)) ++ payload)

/-- A packet's bytes: its thirteen words, e2e_crc and its payload. -/
def mkPacket (ws : List Nat) (payload : List Byte) : List Byte :=
  (ws.take 13).flatMap (beBytes 4) ++ beBytes 4 (e2eCrc ws payload) ++ payload

/-- The words of a packet. -/
def words13 (bs : List Byte) : List Nat := (upTo 13).map (hw bs)

/-- The end-to-end CRC of a packet is good (R83). -/
def e2eOk (bs : List Byte) : Bool := e2eCrc (words13 bs) (bs.drop 56) == hw bs 13

/-- Word 2 of a header. -/
def word2 (op : Nat) (first last notify : Bool) : Nat :=
  op * 2 ^ 24 + b2n first * 2 ^ 23 + b2n last * 2 ^ 22 + 2 ^ 20 + b2n notify * 2 ^ 18

/-- The opcode, message flags and length fields of a packet. -/
def pOp (bs : List Byte) : Nat := hw bs 2 / 2 ^ 24
def pLast (bs : List Byte) : Bool := bit (hw bs 2) 22
def pNotify (bs : List Byte) : Bool := bit (hw bs 2) 18
def pCe (bs : List Byte) : Bool := bit (hw bs 2) 19
def pPsn (bs : List Byte) : Nat := hw bs 3 / 256
def pMsg (bs : List Byte) : Nat := hw bs 4
def pOff (bs : List Byte) : Nat := hw bs 5
def pLen (bs : List Byte) : Nat := hw bs 6
def pAddr (bs : List Byte) : Nat := beAt bs 28 8
def pOperand (bs : List Byte) : Nat := beAt bs 36 8
def pPay (bs : List Byte) : Nat := bits (hw bs 11) 16 13
def pKey (bs : List Byte) : Nat := hw bs 12

/-- The two words of a 64-bit value. -/
def w64 (v : Nat) : List Nat := [v / 2 ^ 32 % 2 ^ 32, v % 2 ^ 32]

/-- The port of an attach group: that of the even group in a bond. -/
def State.attPort (s : State) (g : Nat) : Nat := 4 * (if s.breakout g = 3 then g / 2 * 2 else g)

/-- A packet to an accelerator on its attach port, VC 1, in the order sent (R78, R80). Its addresses are the
accelerator's and 0xF_FFFF (assumption 17). -/
def State.toAccel (s : State) (g c op tag addr len operand : Nat) (payload : List Byte) : State :=
  let port := s.attPort g
  if !s.active port then s
  else
    let ws := [s.grpAddr g * 4096 + c, 0xFFFFF * 4096 + c, putBits (word2 op true true false) 20 1 0, tag] ++ w64 addr ++
      [len, 0, 0] ++ w64 operand ++ [payload.length * 2 ^ 16, 0]
    let r := s.newId
    let x := newCp r.1 port 1 (portTile port) true (mkPacket ws payload) (2 ^ 24) none
    r.2.setCps (r.2.swc.cps ++ [{ x with cid := r.1, mask := 2 ^ localPort port, place := .queue, segs := 0 }])

/-- The payload limit of a group's link (R72). -/
def State.payLimit (s : State) (g : Nat) : Nat :=
  match s.ll (s.attPort g) with
  | none => 4096
  | some l => max 1 l.limit

/-- Bytes written to an accelerator's memory (R76, R80): one LOCAL_WR for each part that its link's payload limit lets
through. -/
def State.writeAccel (s : State) (g c addr : Nat) (d : List Byte) : State :=
  let lim := s.payLimit g
  (upTo (max 1 ((d.length + lim - 1) / lim))).foldl (fun s i =>
    let p := slice (i * lim) (min lim (d.length - i * lim)) d
    s.toAccel g c 0x1A 0 (addr + i * lim) p.length 0 p) s

/-- A completion record to the accelerator (R80): the code in word 4, the sequence number in word 5. -/
def State.sendCpl (s : State) (g c tag : Nat) (code : Code) (seq old : Nat) : State :=
  s.toAccel g c 0x1C tag (code.val * 2 ^ 56 + seq % 2 ^ 32) 0 old []

/-! ## Paths (R92, R94) -/

/-- The indices of the paths of a set that take part: weight above 0 and not down. -/
def State.paths (s : State) (t set : Nat) : List Nat :=
  (s.listed .attPath t 0).filterMap fun e =>
    if e.1 / 256 == set && bits e.2 16 4 != 0 && !bit e.2 24 then some e.1 else none

/-- A 16-bit signed number. -/
def signed16 (v : Nat) : Int := if v < 32768 then v else (v : Int) - 65536

/-- One pick of the smooth weighted round robin (R92). -/
def State.pickPath (s : State) (t set : Nat) : Option Nat × State :=
  let ps := s.paths t set
  let s := ps.foldl (fun s p =>
    s.pt .attPath t p attPath_current (s.t .attPath t p attPath_current + s.t .attPath t p attPath_eff_weight)) s
  let total := ps.foldl (fun v p => v + s.t .attPath t p attPath_eff_weight) 0
  let best := ps.foldl (fun (r : Option Nat) p =>
    match r with
    | none => some p
    | some b => if signed16 (s.t .attPath t b attPath_current) < signed16 (s.t .attPath t p attPath_current) then some p else r) none
  match best with
  | none => (none, s)
  | some b => (some b, s.pt .attPath t b attPath_current (s.t .attPath t b attPath_current + 65536 - total % 65536))

/-- The next pick that differs from a path, where another one takes part (R92). -/
def State.pickOther (s : State) (t set old : Nat) : Nat → Option Nat × State
  | 0 => s.pickPath t set
  | n + 1 =>
    match s.pickPath t set with
    | (some p, s') => if p = old ∧ (s.paths t set).length ≠ 1 then State.pickOther s' t set old n else (some p, s')
    | r => r

/-- A path is marked down (R94); when every path of its set is down, the oldest-marked returns at once. -/
def State.pathDown (s : State) (t p : Nat) : State :=
  let order := (s.listed .attPath t 2).foldl (fun v e => max v (e.2 / 2 ^ 32)) 0 + 1
  let s := s.pt .attPath t p attPath_down 1
  let s := s.pt .attPath t p attPath_hold_left (s.g (.att t) ATT_CFG_path_hold_ticks)
  let s := (s.pt .attPath t p attPath_order order).raise (.att t) cPATH_DOWN
  let set := p / 256
  if (s.paths t set).isEmpty then
    let downs := (s.listed .attPath t 0).filterMap fun e => if e.1 / 256 == set && bit e.2 24 then some e.1 else none
    match downs.foldl (fun (r : Option Nat) q =>
        match r with
        | none => some q
        | some b => if s.t .attPath t q attPath_order < s.t .attPath t b attPath_order then some q else r) none with
    | none => s
    | some q => ((s.pt .attPath t q attPath_down 0).pt .attPath t q attPath_hold_left 0).pt .attPath t q attPath_timeouts 0
  else s

/-- The hold of a path ends (R94). -/
def State.pathUp (s : State) (t p : Nat) : State :=
  if s.tb .attPath t p attPath_down then
    ((s.pt .attPath t p attPath_down 0).pt .attPath t p attPath_hold_left 0).pt .attPath t p attPath_timeouts 0
  else s

/-- A packet on a path is acknowledged, marked with ce or not (R94); the weight follows where the congestion response is on
(R95). -/
def State.pathAck (s : State) (t p : Nat) (ce : Bool) : State :=
  let s := s.pt .attPath t p attPath_timeouts 0
  if !s.gb (.att t) ATT_CC_cc_enable then s else
  let cool := s.t .attPath t p attPath_cool
  let eff := s.t .attPath t p attPath_eff_weight
  if ce ∧ cool = 0 then
    ((s.pt .attPath t p attPath_eff_weight (max 1 (eff / 2))).pt .attPath t p attPath_cool 128).pt .attPath t p attPath_clean 0
  else
    let s := s.pt .attPath t p attPath_cool (cool - 1)
    let clean := if ce then 0 else s.t .attPath t p attPath_clean + 1
    if clean < 128 then s.pt .attPath t p attPath_clean clean
    else (s.pt .attPath t p attPath_clean 0).pt .attPath t p attPath_eff_weight
      (if eff < s.t .attPath t p attPath_weight then eff + 1 else eff)

/-! ## Reply space (R88) -/

/-- Reply space taken, where the limit leaves it. -/
def State.takeReply (s : State) (t n : Nat) : Option State :=
  let b := Blk.att t
  let v := s.g b H_ATT_reply + n
  if v ≤ s.g b ATT_REPLY_LIMIT_kib * 1024 then some ((s.p b H_ATT_reply v).p b ATT_REPLY_USED_kib ((v + 1023) / 1024))
  else none

/-- Reply space given back. -/
def State.giveReply (s : State) (t n : Nat) : State :=
  let b := Blk.att t
  let v := s.g b H_ATT_reply - n
  (s.p b H_ATT_reply v).p b ATT_REPLY_USED_kib ((v + 1023) / 1024)

/-- The reply space of a message that has been issued and not answered. -/
def Msg.reply (m : Msg) : Nat :=
  if m.issued then match m.op with
    | .get => m.operand
    | .atomic => 8
    | _ => 0
  else 0

/-! ## Ends of a context (R82, R86, R96) -/

/-- The buffers of a context's packets, and its reply space, given back. -/
def State.freeCx (s : State) (c : Nat) : State :=
  let x := s.cx c
  let d := s.ctxTile c / 4
  let bufs := (x.pkts ++ (s.lrds.filter fun l => l.ctx == c).map (·.pkt)).filterMap (·.buf)
  let s := bufs.foldl (fun s b => s.hwFree d b) s
  let s := x.msgs.foldl (fun s m =>
    if m.ended.isNone ∧ m.answered < m.reply then s.giveReply (s.ctxTile c) m.reply else s) s
  { s.setCx c { x with pkts := [], gets := [] } with lrds := s.lrds.filter fun l => l.ctx != c }

/-- A message of a context's own stream is complete (R86). -/
def Msg.done (m : Msg) : Option Code :=
  match m.ended with
  | some k => some k
  | none =>
    if !m.issued then none
    else match m.op with
      | .put | .send => if m.acked = m.packets then some .ok else none
      | .get => if m.acked = m.packets ∧ m.operand ≤ m.answered then some .ok else none
      | .atomic => if m.acked = m.packets ∧ 8 ≤ m.answered then some .ok else none

/-- Every outstanding message of a context has ended with a code, one that is complete and waits its turn left as it is; `bad` is a message that ends with another. -/
def State.endMsgs (s : State) (c : Nat) (bad : Option (Nat × Code)) : State :=
  let x := s.cx c
  s.setCx c { x with msgs := x.msgs.map fun m =>
    if m.done.isSome then m
    else match bad with
      | some (q, k) => if m.seq = q then { m with ended := some k } else { m with ended := some .aborted }
      | none => { m with ended := some .aborted } }

/-- A context fails (R82). -/
def State.failCx (s : State) (c : Nat) (bad : Option (Nat × Code)) : State :=
  if s.ctxLive c then
    (((s.freeCx c).endMsgs c bad).pctx c attCtx_state 3).pctx c attCtx_inflight 0 |>.raise (.att (s.ctxTile c)) cCTX_FAILED
  else s

/-- A completion of a context: its sequence number and its counter advance (R86), and the accelerator gets a record with
the number as it stood (assumption 164), unless the message was the Gang's (R303). -/
def State.complete (s : State) (c tag : Nat) (code : Code) (old : Nat) (gang : Bool) : State :=
  let q := s.ctx c attCtx_cpl_seq
  let s := if gang then s else s.sendCpl (s.ctxGroup c) c tag code q old
  let s := s.pctx c attCtx_cpl_seq (q + 1)
  s.signalCtx (s.ctx c attCtx_partition) (s.ctx c attCtx_counter) (s.cx c).stamp

/-- The next arrived message that may complete: every earlier one has been seen and completes nothing, or has
completed (R86). -/
def rxReady : Nat → List RxM → Nat → Option (RxM × Nat)
  | 0, _, _ => none
  | n + 1, l, q =>
    match l.find? fun m => m.seq == q with
    | none => none
    | some m => if m.report then (if m.got = m.len then some (m, q) else none) else rxReady n l ((q + 1) % 2 ^ 32)

/-- The next completion of a context's arriving stream (R86). -/
def State.rxCpl (s : State) (c : Nat) (x : Cx) : State :=
  match rxReady (x.rx.length + 1) x.rx x.rxNext with
  | none => s
  | some (m, q) =>
    (s.setCx c { x with rx := x.rx.filter fun r => (r.seq + 2 ^ 32 - q) % 2 ^ 32 < 2 ^ 31 ∧ r.seq ≠ q
                        rxNext := (q + 1) % 2 ^ 32 }).complete c m.tag .ok 0 m.gang

/-- One completion of a context reaches the accelerator: of its own stream first, then of the arriving one (R86). -/
def State.oneCpl (s : State) (c : Nat) : State :=
  let x := s.cx c
  match x.msgs with
  | m :: l =>
    (match m.done with
    | some k => (s.setCx c { x with msgs := l }).complete c m.tag k m.old m.gang
    | none => s.rxCpl c x)
  | [] => s.rxCpl c x

/-- A context with nothing outstanding. -/
def Cx.idle (x : Cx) : Bool := x.pkts.isEmpty && x.gets.isEmpty && x.msgs.all fun m => m.done.isSome

/-- Every completion that a context still owes reaches the accelerator. -/
def State.flushCpls (s : State) (c : Nat) : State :=
  (upTo ((s.cx c).msgs.length + (s.cx c).rx.length)).foldl (fun s _ => s.oneCpl c) s

/-- A DRAINING context with nothing outstanding becomes FREE (R82). -/
def State.drainCx (s : State) (c : Nat) : State :=
  if s.ctxSt c = 2 ∧ (s.cx c).idle ∧ !s.lrds.any (fun l => l.ctx == c) then
    let s := s.flushCpls c
    (s.pctx c attCtx_state 0).setCx c Cx.empty
  else s

/-- Reset of a transport context (R82): its messages complete with ABORTED, its epoch advances, it is FREE. -/
def State.resetCx (s : State) (c : Nat) : State :=
  let st := s.ctxSt c
  if st = 0 ∨ st = 4 then s
  else
    let s := ((s.freeCx c).endMsgs c none).flushCpls c
    let p := s.ctx c attCtx_partition
    let k := s.ctx c attCtx_counter
    let s := (s.pctx c attCtx_state 0).pctx c attCtx_epoch (s.ctx c attCtx_epoch + 1)
    let s := (s.pctx c attCtx_inflight 0).setCx c Cx.empty
    let s : State := { s with gang := { s.gang with recvs := s.gang.recvs.filter fun r => r.ctx != c } }
    s.ctxEpochs p c k

/-- The contexts of the part that are bound to a group. -/
def State.ctxsOf (s : State) (g : Nat) : List Nat :=
  ((s.listed .attCtx 0 0).filter fun e => bits e.2 0 3 != 0 && bits e.2 0 3 != 4 && bits e.2 8 8 == g).map (·.1)

/-- A context fails as its port leaves ACTIVE, and remembers it (R96). -/
def State.portGoneCx (s : State) (c : Nat) : State :=
  if s.ctxLive c then let s := s.failCx c none; s.setCx c { s.cx c with portGone := true } else s

/-- An attach port leaves ACTIVE: every context of its group fails (R96). -/
def State.failGroup (s : State) (g : Nat) : State :=
  if s.pers g == .tlinkAttach then (s.ctxsOf g).foldl State.portGoneCx s else s

/-- CTX_OPEN (R82). -/
def State.openCx (s : State) (c : Nat) : State :=
  let w0 := putBits (s.tw .attCtx 0 c 0) 0 3 1
  let t := s.ctxTile c
  let s := s.setEntry .attCtx 0 c [w0, s.tw .attCtx 0 c 1, 0xFFFFFF * 2 ^ 24 + s.g (.att t) ATT_CC_cwnd_init * 2 ^ 48,
    0xFFFFFF, 0, 0, 0, 0]
  s.setCx c { Cx.empty with stamp := s.stampOf (s.ctx c attCtx_partition) (s.ctx c attCtx_counter) }

/-! ## Own messages (R80, R87, R88) -/

/-- A local command of an accelerator that is turned away: a completion record with the code, and no message. -/
def State.refuseLocal (s : State) (g c tag : Nat) (code : Code) : State :=
  s.sendCpl g c tag code (s.ctx c attCtx_cpl_seq) 0

/-- A message starts on a context (R87): it waits in the context's queue for its space. -/
def State.startMsg (s : State) (g : Nat) (op : TOp) (bs : List Byte) : State :=
  let c := hw bs 0 % 4096
  let tag := hw bs 3
  if s.ctxGroup c ≠ g ∨ s.ctxSt c = 4 then s.refuseLocal g c tag .denied
  else if s.ctxSt c ≠ 1 then s.refuseLocal g c tag .refusedState
  else if op = .atomic ∧ pAddr bs % 8 ≠ 0 then s.refuseLocal g c tag .badArg
  else
    let x := s.cx c
    let q := s.ctx c attCtx_tx_msg_seq
    let len := hw bs 6
    let lim := s.payLimit g
    let n := if op = .put ∨ op = .send then max 1 ((len + lim - 1) / lim) else 1
    let m : Msg := { seq := q, op := op, tag := tag, laddr := beAt bs 16 8, raddr := pAddr bs, len := len
                     operand := if op = .get then len else pOperand bs, key := pKey bs, notify := pNotify bs
                     sendIdx := x.nSend % 65536, issued := false, asked := 0, packets := n, acked := 0, answered := 0
                     ended := none, old := 0, gang := false }
    (s.setCx c { x with msgs := x.msgs ++ [m], nSend := if op = .send then x.nSend + 1 else x.nSend }).pctx c
      attCtx_tx_msg_seq (q + 1)

/-- The opcode of an operation. -/
def TOp.code : TOp → Nat
  | .put => 0x01 | .get => 0x02 | .send => 0x04 | .atomic => 0x05

/-- The thirteen words of a packet of a context's stream; PSN, epoch and entropy are filled in as it is sent. -/
def State.streamWords (s : State) (c op : Nat) (first last notify : Bool) (msg off len raddr operand pay idx key : Nat) :
    List Nat :=
  [s.ctx c attCtx_remote_addr * 4096 + s.ctx c attCtx_remote_ctx, s.grpAddr (s.ctxGroup c) * 4096 + c,
    word2 op first last notify, 0, msg, off, len] ++ w64 raddr ++ w64 operand ++ [pay * 2 ^ 16 + idx, key]

/-- A packet of a message, at an offset with so many bytes. -/
def State.msgPacket (s : State) (c : Nat) (m : Msg) (off n : Nat) : TxP :=
  let ws := s.streamWords c m.op.code (off == 0) (m.op == .get || m.op == .atomic || off + n == m.len) m.notify m.seq off m.len
    m.raddr m.operand n (if m.op = .send then m.sendIdx else 0) m.key
  { psn := none, vc := 1, words := ws, payload := [], msg := some m.seq, path := 0, tries := 0, nakd := false, buf := none }

/-- A message of a context's list replaced. -/
def State.setMsg (s : State) (c : Nat) (m : Msg) : State :=
  let x := s.cx c
  s.setCx c { x with msgs := x.msgs.map fun y => if y.seq = m.seq then m else y }

/-- A packet ready to be sent. -/
def State.addPkt (s : State) (c : Nat) (p : TxP) : State := let x := s.cx c; s.setCx c { x with pkts := x.pkts ++ [p] }

/-- A local read of a context's tile, with the packet that its data completes (R80, R88). -/
def State.askLocal (s : State) (c addr n : Nat) (fadd : Bool) (addend : Nat) (p : TxP) : State :=
  let t := s.ctxTile c
  let tag := s.g (.att t) H_ATT2_tag
  let s := s.p (.att t) H_ATT2_tag (tag + 1)
  let s := s.toAccel (s.ctxGroup c) c (if fadd then 0x1B else 0x18) tag addr n addend []
  { s with lrds := s.lrds ++ [⟨t, tag, c, fadd, n, p⟩] }

/-- The local reads of a GET's response, one for each packet of it, as far as buffers last (R87, R88): what is left to ask
for. -/
def State.askGet (s : State) (c : Nat) (bs : List Byte) : Nat → Nat → Option Nat × State
  | 0, off => (some off, s)
  | n + 1, off =>
    if pOperand bs ≤ off then (none, s)
    else
      let m := min (s.payLimit (s.ctxGroup c)) (pOperand bs - off)
      match s.poolAlloc (s.ctxTile c / 4) m with
      | (.ok, a, _, s) =>
        let ws := s.streamWords c 0x03 (off == 0) (off + m == pOperand bs) false (pMsg bs) off (pOperand bs) (pAddr bs) 0 m 0 0
        let p : TxP := { psn := none, vc := 2, words := ws, payload := [], msg := none, path := 0, tries := 0, nakd := false
                         buf := some a }
        State.askGet (s.askLocal c (pAddr bs + off) m false 0 p) c bs n (off + m)
      | (_, _, _, s) => (some off, s)

/-- The GET_REQ at the head of those that wait on a context asks for its data, and leaves once it has asked for all; it
waits, and is not refused, while the space lacks (R88, assumption 168). -/
def State.issueGets (s : State) (c : Nat) : Nat → State
  | 0 => s
  | n + 1 =>
    match (s.cx c).gets with
    | [] => s
    | (off, bs) :: l =>
      match s.askGet c bs (pOperand bs + 1 - off) off with
      | (none, s) => State.issueGets (s.setCx c { s.cx c with gets := l }) c n
      | (some o, s) => s.setCx c { s.cx c with gets := (o, bs) :: l }

/-- The command at the head of a context's queue issues, once its space is there (R88): a GET_REQ, an ATOMIC_ADD, or
the local read of the next packet of a PUT or SEND. -/
def State.issue (s : State) (c : Nat) : State :=
  let s := if s.ctxLive c then s.issueGets c (s.cx c).gets.length else s
  let x := s.cx c
  if !s.ctxLive c ∨ !x.gets.isEmpty then s
  else match x.msgs.find? fun m => !m.issued && m.ended.isNone with
  | none => s
  | some m =>
    match m.op with
    | .get | .atomic =>
      (match s.takeReply (s.ctxTile c) (if m.op = .get then m.operand else 8) with
      | none => s
      | some s => (s.setMsg c { m with issued := true }).addPkt c (s.msgPacket c m 0 0))
    | .put | .send =>
      let n := min (s.payLimit (s.ctxGroup c)) (m.len - m.asked)
      let p := s.msgPacket c m m.asked n
      if n = 0 then (s.setMsg c { m with issued := true }).addPkt c p
      else match s.poolAlloc (s.ctxTile c / 4) n with
        | (.ok, a, _, s) =>
          (s.setMsg c { m with asked := m.asked + n, issued := decide (m.asked + n = m.len) }).askLocal c (m.laddr + m.asked) n
            false 0 { p with buf := some a }
        | _ => s

/-- A packet with its payload. -/
def TxP.withData (p : TxP) (d : List Byte) : TxP := { p with payload := d }

/-- The data of a local read or the old value of a fetch-and-add (R80): the packet that waited for it is ready. -/
def State.localData (s : State) (g tag : Nat) (data : List Byte) : State :=
  match s.lrds.find? fun l => l.tile == g / 8 && l.tag == tag && s.ctxGroup l.ctx == g with
  | none => s
  | some l =>
    let s : State := { s with lrds := s.lrds.filter fun x => !(x.tile == l.tile && x.tag == l.tag) }
    let d := fit l.len data
    if l.fadd then
      let old := ofBeBytes (fit 8 data)
      s.addPkt l.ctx { l.pkt with words := l.pkt.words.take 9 ++ w64 old ++ l.pkt.words.drop 11 }
    else
      let s := match l.pkt.buf with
        | none => s
        | some a => s.writeSpace 0 a d
      s.addPkt l.ctx (l.pkt.withData d)

/-! ## Sending (R84, R92, R93) -/

/-- The bytes of a packet as it is sent on a path. -/
def State.wire (s : State) (c psn path : Nat) (retx : Bool) (p : TxP) : List Byte :=
  let t := s.ctxTile c
  let w2 := p.words.getD 2 0 + b2n retx * 2 ^ 21 + s.t .attPath t path attPath_entropy
  mkPacket ((p.words.set 2 w2).set 3 (psn * 256 + s.ctx c attCtx_remote_epoch)) p.payload

/-- A packet of an attach engine enters the ingress pipeline of its tile (R97). -/
def State.inject (s : State) (c vc : Nat) (bs : List Byte) : State :=
  let g := s.ctxGroup c
  s.ingressTlink (s.attPort g) vc bs

/-- The window of a context has room (R84). -/
def State.windowRoom (s : State) (c : Nat) : Bool :=
  decide (s.ctx c attCtx_inflight < s.ctx c attCtx_cwnd) &&
    decide ((s.ctx c attCtx_tx_next_psn + 2 ^ 24 - s.ctx c attCtx_tx_cum_psn) % 2 ^ 24 ≤ 128)

/-- The packets of a context with the first unsent one sent with a PSN on a path. -/
def markSent (psn path : Nat) : List TxP → List TxP
  | [] => []
  | p :: l => if p.psn.isNone then { p with psn := some psn, path := path } :: l else p :: markSent psn path l

/-- The next packet of a context is sent (R84, R92). -/
def State.sendNext (s : State) (c : Nat) : State :=
  let x := s.cx c
  match x.pkts.find? fun p => p.psn.isNone with
  | none => s
  | some p =>
    if !s.ctxLive c ∨ !s.windowRoom c then s
    else
      let t := s.ctxTile c
      match s.pickPath t (s.ctx c attCtx_path_set) with
      | (none, _) => s
      | (some path, s) =>
        let psn := s.ctx c attCtx_tx_next_psn
        let s := s.setCx c { x with pkts := markSent psn path x.pkts }
        let s := (s.pctx c attCtx_tx_next_psn (psn + 1)).pctx c attCtx_inflight (s.ctx c attCtx_inflight + 1)
        (s.inc (.att t) ATT_TX_PKTS_count).inject c p.vc (s.wire c psn path false p)

/-- Packet `psn` of a context is resent, on another path, or its context fails at the retry limit (R93). -/
def State.resend (s : State) (c psn : Nat) : State :=
  let x := s.cx c
  match x.pkts.find? fun p => p.psn == some psn with
  | none => s
  | some p =>
    let t := s.ctxTile c
    if s.g (.att t) ATT_CFG_retry_limit ≤ p.tries then s.failCx c none
    else match s.pickOther t (s.ctx c attCtx_path_set) p.path 512 with
      | (none, _) => s
      | (some path, s) =>
        let p' := { p with path := path, tries := p.tries + 1, nakd := false }
        let s := s.setCx c { x with pkts := x.pkts.map fun y => if y.psn = some psn then p' else y }
        let s := s.pt .attCtx 0 c attCtx_retx_total (satAdd 32 (s.ctx c attCtx_retx_total) 1)
        (s.inc (.att t) ATT_RETX_PKTS_count).inject c p.vc (s.wire c psn path true p)

/-- A packet has gone unacknowledged too long (R93, R94). -/
def State.timeout (s : State) (c psn : Nat) : State :=
  if !s.ctxLive c then s
  else match (s.cx c).pkts.find? fun p => p.psn == some psn with
  | none => s
  | some p =>
    let t := s.ctxTile c
    let n := s.t .attPath t p.path attPath_timeouts + 1
    let s := (s.inc (.att t) ATT_TIMEOUTS_count).pt .attPath t p.path attPath_timeouts (min n 255)
    let s := if s.g (.att t) ATT_CFG_path_down_after ≤ n ∧ !s.tb .attPath t p.path attPath_down then s.pathDown t p.path else s
    s.resend c psn

/-! ## Acknowledgements sent (R79, R85) -/

/-- The 128-bit receive bitmap of a context. -/
def State.rxMap (s : State) (c : Nat) : Nat := s.tw .attCtx 0 c 4 + s.tw .attCtx 0 c 5 * 2 ^ 64

/-- A 128-bit number in four words, bit 0 in the last. -/
def w128 (v : Nat) : List Nat := w64 (v / 2 ^ 64) ++ w64 (v % 2 ^ 64)

/-- An ACK of a context, over the next path (R79, R85). -/
def State.sendAck (s : State) (c : Nat) (code : Code) (nak : Nat) : State :=
  let x := s.cx c
  let t := s.ctxTile c
  match s.pickPath t (s.ctx c attCtx_path_set) with
  | (none, _) => s
  | (some path, s) =>
    let ws := [s.ctx c attCtx_remote_addr * 4096 + s.ctx c attCtx_remote_ctx, s.grpAddr (s.ctxGroup c) * 4096 + c,
      word2 0x07 true true false + s.t .attPath t path attPath_entropy,
      s.ctx c attCtx_rx_cum_psn * 256 + s.ctx c attCtx_remote_epoch, code.val * 2 ^ 24 + nak] ++ w128 (s.rxMap c) ++ w128 x.ce
    (s.setCx c { x with sinceAck := 0 }).inject c 2 (mkPacket ws [])

/-! ## Arrivals (R83, R85, R90) -/

/-- The checks that every transport packet passes first (R78, R83): the context, where it is accepted. -/
def State.acceptPkt (s : State) (t op : Nat) (bs : List Byte) : Option Nat × State :=
  let s := s.unhand (attOwner t) bs
  let c := hw bs 0 % 4096
  let b := Blk.att t
  if pOp bs ≠ op ∨ bs.length < 56 then (none, s.inc b ATT_BAD_PKTS_count)
  else if !e2eOk bs then (none, (s.inc b ATT_E2E_CRC_count).raise b cE2E_CRC)
  else if !s.ctxLive c ∨ s.ctxTile c ≠ t ∨ hw bs 3 % 256 ≠ s.ctx c attCtx_epoch % 256 ∨
      hw bs 1 ≠ s.ctx c attCtx_remote_addr * 4096 + s.ctx c attCtx_remote_ctx then (none, s.inc b ATT_STALE_PKTS_count)
  else (some c, s.inc b ATT_RX_PKTS_count)

/-- A PSN has been recorded, or is behind the next of the cumulative one (R84, R85). -/
def State.seen (s : State) (c psn : Nat) : Bool :=
  let cum := s.ctx c attCtx_rx_cum_psn
  let d := (psn + 2 ^ 24 - cum) % 2 ^ 24
  psnBehind psn ((cum + 1) % 2 ^ 24) || (1 ≤ d && d ≤ 128 && bit (s.rxMap c) (d - 1))

/-- A PSN lies beyond what the bitmap can record: such a packet is dropped, with no ACK and no count (assumption 163). -/
def State.beyond (s : State) (c psn : Nat) : Bool :=
  128 < (psn + 2 ^ 24 - s.ctx c attCtx_rx_cum_psn) % 2 ^ 24

/-- How many of the low bits of a map are set in a run. -/
def runLen : Nat → Nat → Nat
  | 0, _ => 0
  | n + 1, m => if bit m 0 then 1 + runLen n (m / 2) else 0

/-- A PSN recorded, with its ce mark; whether the cumulative PSN moved over a gap (R85). -/
def State.record (s : State) (c psn : Nat) (ce : Bool) : Bool × State :=
  let cum := s.ctx c attCtx_rx_cum_psn
  let d := (psn + 2 ^ 24 - cum) % 2 ^ 24
  let m := putBits (s.rxMap c) (d - 1) 1 1
  let x := s.cx c
  let cm := putBits x.ce (d - 1) 1 (b2n ce)
  let n := runLen 128 m
  let s := s.pctx c attCtx_rx_cum_psn (cum + n)
  let s := (s.setTw .attCtx 0 c 4 (m / 2 ^ n)).setTw .attCtx 0 c 5 (m / 2 ^ n / 2 ^ 64)
  (decide (1 < n), s.setCx c { x with ce := cm / 2 ^ n, sinceAck := x.sinceAck + 1 })

/-- What follows an accepted packet: an ACK where R85 asks for one. -/
def State.ackRule (s : State) (c : Nat) (beyond last : Bool) : State :=
  if beyond || last || decide (s.g (.att (s.ctxTile c)) ATT_CFG_ack_every ≤ (s.cx c).sinceAck) then s.sendAck c .ok 0 else s

/-- A packet carried out is recorded, and acknowledged where R85 asks for it; it may be the last that a DRAINING context
waited for (R82). -/
def State.tookPkt (s : State) (c : Nat) (bs : List Byte) : State :=
  let r := s.record c (pPsn bs) (pCe bs)
  (r.2.ackRule c r.1 (pLast bs)).drainCx c

/-- A data packet of a context: a duplicate is acknowledged again, else `f` carries it out, or refuses it with a code
(R85, R90, R91). -/
def State.onData (s : State) (t op : Nat) (bs : List Byte) (f : State → Nat → Except Code State) : State :=
  match s.acceptPkt t op bs with
  | (none, s) => s
  | (some c, s) =>
    let psn := pPsn bs
    if s.seen c psn then
      (s.pt .attCtx 0 c attCtx_rx_dup (satAdd 32 (s.ctx c attCtx_rx_dup) 1)).sendAck c .ok 0
    else if s.beyond c psn then s
    else match f s c with
      | .error k =>
        let s := if k = .denied then (s.inc (.att t) ATT_DENIED_count).raise (.att t) cACCESS_DENIED else s
        s.sendAck c k psn
      | .ok s => s.tookPkt c bs

/-- A region grants a right over `n` bytes from an address to a context (R90). -/
def State.regionOk (s : State) (c : Nat) (right : Fld) (key addr n : Nat) : Bool :=
  let t := s.ctxTile c
  (upTo 256).any fun r =>
    s.tb .attRegion t r attRegion_valid && s.t .attRegion t r attRegion_key == key && s.tb .attRegion t r right &&
      s.t .attRegion t r attRegion_partition == s.ctx c attCtx_partition &&
      s.t .attRegion t r attRegion_group == s.ctxGroup c % 8 && decide (s.t .attRegion t r attRegion_base ≤ addr) &&
      decide (addr + n ≤ s.t .attRegion t r attRegion_base + s.t .attRegion t r attRegion_length)

/-- The bytes of an arriving message counted (R86). -/
def State.countMsg (s : State) (c : Nat) (bs : List Byte) (report : Bool) (tag : Nat) (gang : Bool) : State :=
  let x := s.cx c
  let q := pMsg bs
  let old := (x.rx.find? fun m => m.seq == q).getD ⟨q, 0, pLen bs, report, tag, gang⟩
  s.setCx c { x with rx := (x.rx.filter fun m => m.seq != q) ++ [{ old with got := old.got + pPay bs, len := pLen bs }] }

/-- A PUT packet carried out (R87). -/
def State.doPut (s : State) (bs : List Byte) (c : Nat) : Except Code State :=
  if !s.regionOk c attRegion_write (pKey bs) (pAddr bs + pOff bs) (pPay bs) then .error .denied
  else
    let d := slice 56 (pPay bs) bs
    .ok ((s.writeAccel (s.ctxGroup c) c (pAddr bs + pOff bs) d).countMsg c bs (pNotify bs) 0 false)

/-- A buffer of a context has taken its whole message: it is posted no more. -/
def State.tookAll (s : State) (c idx : Nat) (bs : List Byte) : Bool × State :=
  let x := s.cx c
  if x.rx.any fun m => m.seq == pMsg bs && m.got == m.len then
    (true, s.setCx c { x with posted := x.posted.filter fun b => b.1 != idx })
  else (false, s)

/-- The receive of the Gang that a SEND index of a context names (R303). -/
def State.gangRecv (s : State) (c idx : Nat) : Option GRecv :=
  s.gang.recvs.find? fun r => r.ctx == c && r.idx == idx && !r.got

/-- A receive of the Gang has been written: it takes its place behind those written before it. -/
def State.recvWritten (s : State) (c idx : Nat) : State :=
  let mine (r : GRecv) : Bool := r.ctx == c && r.idx == idx && !r.got
  { s with gang := { s.gang with recvs := (s.gang.recvs.filter fun r => !mine r) ++
    (s.gang.recvs.filter mine).map fun r => { r with got := true } } }

/-- A SEND packet carried out (R91): into the buffer posted for its index, the accelerator's or the Gang's (R303). -/
def State.doSend (s : State) (bs : List Byte) (c : Nat) : Except Code State :=
  let idx := hw bs 11 % 65536
  match (s.cx c).posted.find? fun b => b.1 == idx with
  | none => .error .noResource
  | some (_, addr, len, tag) =>
    let d := slice 56 (pPay bs) bs
    if len < pLen bs then .error .badArg
    else match s.gangRecv c idx with
    | some r =>
      let s := ((s.putTensorBytes ⟨r.desc⟩ (pOff bs) d).written r.part ⟨r.desc⟩).countMsg c bs true 0 true
      let q := s.tookAll c idx bs
      .ok (if q.1 then q.2.recvWritten c idx else q.2)
    | none =>
      if !s.regionOk c attRegion_send (pKey bs) (pAddr bs + pOff bs) (pPay bs) then .error .denied
      else
        let s := (s.writeAccel (s.ctxGroup c) c (addr + pOff bs) d).countMsg c bs true tag false
        .ok (s.tookAll c idx bs).2

/-- A GET_REQ carried out (R87): the region is checked and the data asked for. -/
def State.doGet (s : State) (bs : List Byte) (c : Nat) : Except Code State :=
  if !s.regionOk c attRegion_read (pKey bs) (pAddr bs + pOff bs) (pOperand bs) then .error .denied
  else
    let x := s.cx c
    let s := s.setCx c { x with gets := x.gets ++ [(0, bs.take 56)] }
    .ok ((s.issueGets c (x.gets.length + 1)).countMsg c bs false 0 false)

/-- A response packet's bytes counted to the message that asked (R87). -/
def State.answer (s : State) (c q n old : Nat) : State :=
  let x := s.cx c
  match x.msgs.find? fun m => m.seq == q with
  | none => s
  | some m =>
    let m' := { m with answered := m.answered + n, old := old }
    let s := s.setMsg c m'
    if m.answered < m.reply ∧ m.reply ≤ m'.answered then s.giveReply (s.ctxTile c) m.reply else s

/-- A GET_RESP packet carried out (R87). -/
def State.doResp (s : State) (bs : List Byte) (c : Nat) : Except Code State :=
  match (s.cx c).msgs.find? fun m => m.seq == pMsg bs && m.op == .get with
  | none => .ok s
  | some m =>
    let d := slice 56 (pPay bs) bs
    .ok ((s.writeAccel (s.ctxGroup c) c (m.laddr + pOff bs) d).answer c (pMsg bs) (pPay bs) 0)

/-- An ATOMIC_ADD carried out (R87): a misaligned one is refused before its region is looked up (assumption 166). -/
def State.doAtomic (s : State) (bs : List Byte) (c : Nat) : Except Code State :=
  if pAddr bs % 8 ≠ 0 then .error .badArg
  else if !s.regionOk c attRegion_atomic (pKey bs) (pAddr bs + pOff bs) 8 then .error .denied
  else
    let ws := s.streamWords c 0x06 true true false (pMsg bs) 0 0 (pAddr bs) 0 0 0 0
    let p : TxP := { psn := none, vc := 2, words := ws, payload := [], msg := none, path := 0, tries := 0, nakd := false, buf := none }
    .ok ((s.askLocal c (pAddr bs) 8 true (pOperand bs) p).countMsg c bs false 0 false)

/-- An ATOMIC_RESP carried out: the old value is written, most significant byte first (assumption 165), and kept for the
completion (R80, R87). -/
def State.doAtomicResp (s : State) (bs : List Byte) (c : Nat) : Except Code State :=
  match (s.cx c).msgs.find? fun m => m.seq == pMsg bs && m.op == .atomic with
  | none => .ok s
  | some m =>
    .ok ((s.writeAccel (s.ctxGroup c) c m.laddr (beBytes 8 (pOperand bs))).answer c (pMsg bs) 8 (pOperand bs))

/-! ## ACKs received (R79, R82, R93, R95) -/

/-- What an ACK says of a PSN: it has arrived. -/
def ackHas (cum sack psn : Nat) : Bool :=
  psn == cum || psnBehind psn cum || (let d := (psn + 2 ^ 24 - cum) % 2 ^ 24; d ≤ 128 && bit sack (d - 1))

/-- An ACK's ce mark of a PSN. -/
def ackCe (cum ce psn : Nat) : Bool := let d := (psn + 2 ^ 24 - cum) % 2 ^ 24; 1 ≤ d && d ≤ 128 && bit ce (d - 1)

/-- How many PSNs later than one an ACK shows. -/
def ackLater (cum sack psn : Nat) : Nat :=
  ((upTo 128).filter fun i => bit sack i && psnBehind psn ((cum + 1 + i) % 2 ^ 24)).length

/-- The congestion response of R95: `n` packets newly acknowledged, `k` of them marked. The rounding of alpha is the
model's (assumption 167). -/
def State.congest (s : State) (c n k : Nat) : State :=
  let b := Blk.att (s.ctxTile c)
  if !s.gb b ATT_CC_cc_enable ∨ n = 0 then s
  else
    let a := s.ctx c attCtx_alpha
    let f := min 65535 (k * 65536 / n)
    let g := 2 ^ s.g b ATT_CC_g_shift
    let a := if a ≤ f then a + (f - a) / g else a - (a - f + g - 1) / g
    let s := s.pctx c attCtx_alpha a
    let x := s.cx c
    let w := s.ctx c attCtx_cwnd
    let done := x.acked + n
    let marked := x.marked || decide (0 < k)
    if done < w then s.setCx c { x with acked := done, marked := marked }
    else (s.pctx c attCtx_cwnd (if marked then max 1 (w * (131072 - a) / 131072) else min 128 (w + 1))).setCx c
      { x with acked := done - w, marked := false }

/-- The packets that an ACK newly acknowledges leave the retransmit space and count to their messages. -/
def State.ackPkts (s : State) (c cum sack ce : Nat) : State :=
  let x := s.cx c
  let t := s.ctxTile c
  let got := x.pkts.filter fun p => match p.psn with | none => false | some q => ackHas cum sack q
  let s := s.setCx c { x with
    pkts := x.pkts.filter fun p => match p.psn with | none => true | some q => !ackHas cum sack q
    msgs := x.msgs.map fun m => { m with acked := m.acked + (got.filter fun p => p.msg == some m.seq).length } }
  let s := got.foldl (fun s p =>
    let s := match p.buf with
      | none => s
      | some a => s.hwFree (t / 4) a
    s.pathAck t p.path (match p.psn with | none => false | some q => ackCe cum ce q)) s
  let s := s.pctx c attCtx_inflight (s.ctx c attCtx_inflight - got.length)
  let s := if psnBehind (s.ctx c attCtx_tx_cum_psn) cum then s.pctx c attCtx_tx_cum_psn cum else s
  s.congest c got.length (got.filter fun p => match p.psn with | none => false | some q => ackCe cum ce q).length

/-- The packets that an ACK shows missing behind enough later ones are resent, once each (R93). -/
def State.ackGaps (s : State) (c cum sack : Nat) : State :=
  let gap := s.g (.att (s.ctxTile c)) ATT_CFG_reorder_gap
  let miss := (s.cx c).pkts.filterMap fun p =>
    match p.psn with
    | none => none
    | some q => if p.tries = 0 ∧ !p.nakd ∧ gap ≤ ackLater cum sack q then some q else none
  miss.foldl (fun s q => s.resend c q) s

/-- A refusal in an ACK (R82, R91, R93): NO_RESOURCE waits for its time, anything else fails the context. -/
def State.ackNak (s : State) (c code psn : Nat) : State :=
  let x := s.cx c
  if code = 0 then s
  else match x.pkts.find? fun p => p.psn == some psn with
    | none => s
    | some p =>
      if code = Code.noResource.val then
        s.setCx c { x with pkts := x.pkts.map fun y => if y.psn = some psn then { y with nakd := true } else y }
      else s.failCx c (p.msg.map fun q => (q, Code.ofVal code))

/-- A received ACK (R79). -/
def State.rxAck (s : State) (t : Nat) (bs : List Byte) : State :=
  match s.acceptPkt t 0x07 bs with
  | (none, s) => s
  | (some c, s) =>
    let cum := pPsn bs
    let sack := beAt bs 20 16
    let s := s.ackPkts c cum sack (beAt bs 36 16)
    let s := s.ackNak c (hw bs 4 / 2 ^ 24) (hw bs 4 % 2 ^ 24)
    if s.ctxLive c then (s.ackGaps c cum sack).drainCx c else s

/-- A request that arrives for a context that failed as its port left ACTIVE is refused with ABORTED (R96). -/
def State.abortedReq (s : State) (t : Nat) (bs : List Byte) : Bool :=
  let c := hw bs 0 % 4096
  s.ctxSt c == 3 && s.ctxTile c == t && (s.cx c).portGone && hw bs 3 % 256 == s.ctx c attCtx_epoch % 256 &&
    hw bs 1 == s.ctx c attCtx_remote_addr * 4096 + s.ctx c attCtx_remote_ctx && e2eOk bs

end Sys2Proof.Machine
end

