-- ==== Sys2Proof/Machine/ListCode.lean ====
section
/-! DEFINITION. The instructions of Gang lists and of epilogue programs: their two words, their fields and their reserved
encodings (R285, R286). -/

namespace Sys2Proof.Machine

/-- An instruction: its two words. -/
structure Ins where
  i0 : Nat
  i1 : Nat
deriving DecidableEq, Repr

/-- A field of the first word, and of the second. -/
def Ins.lo (i : Ins) (lo w : Nat) : Nat := bits i.i0 lo w
def Ins.hi (i : Ins) (lo w : Nat) : Nat := bits i.i1 lo w

/-- The header (R285). -/
def Ins.mayVary (i : Ins) : Bool := bit i.i0 0
def Ins.goOn (i : Ins) : Bool := bit i.i0 1
def Ins.cpl (i : Ins) : Bool := bit i.i0 2
def Ins.family (i : Ins) : Nat := i.lo 8 4
def Ins.variant (i : Ins) : Nat := i.lo 12 4
def Ins.tag (i : Ins) : Nat := i.lo 16 16

/-- The two descriptor fields that most families carry. -/
def Ins.d0 (i : Ins) : Nat := i.lo 32 12
def Ins.d1 (i : Ins) : Nat := i.lo 44 12

/-- The instruction that sixteen bytes hold (R2). -/
def Ins.ofBytes (bs : List Byte) : Ins := ⟨ofLeBytes (slice 0 8 bs), ofLeBytes (slice 8 8 bs)⟩

/-- The variants of a family (R286); reserved families have none. -/
def famVariants : Nat → List Nat
  | 4 => [1, 2] | 9 => [0, 1, 2] | 10 => [0, 1] | 11 => [0, 1, 2] | 12 => [0, 1] | 13 => [0, 1] | 14 => [0, 1]
  | 15 => [] | _ => [0]

/-- The bits from `lo` to `hi` of a word. -/
def span64 (hi lo : Nat) : Nat := 2 ^ (hi + 1) - 2 ^ lo

/-- The operand bits that R286 lists for a family and variant, in each word. -/
def famBits (f v : Nat) : Nat × Nat :=
  match f with
  | 0 => (0, 0)
  | 1 => (span64 55 32, 1)
  | 2 => (span64 55 32, 0)
  | 3 | 4 => (span64 58 32, span64 63 0)
  | 5 | 6 => (span64 63 32, span64 63 0)
  | 7 => (span64 55 32, span64 63 0)
  | 8 => (span64 51 32, span64 47 0)
  | 9 => (span64 55 32, if v = 2 then span64 47 0 else 0)
  | 10 => (span64 61 32, span64 63 0)
  | 11 => (span64 47 32, span64 47 0)
  | 12 => (if v = 0 then span64 41 32 + span64 55 44 else span64 55 32, span64 31 0)
  | 13 => (span64 55 32, if v = 1 then span64 47 0 else 0)
  | 14 => (span64 63 32, span64 15 0 + span64 63 32)
  | _ => (0, 0)

/-- The encoding is not reserved (R285, R286). -/
def Ins.ok (i : Ins) : Bool :=
  let m := famBits i.family i.variant
  (famVariants i.family).contains i.variant && i.lo 3 5 == 0 && (i.i0 / 2 ^ 32 * 2 ^ 32 ||| m.1) == m.1 && (i.i1 ||| m.2) == m.2

end Sys2Proof.Machine
end

