-- ==== Sys2Proof/Machine/MeshOps.lean ====
section
/-! DEFINITION. The die mesh: where the dies meet it, the way of a packet, what its routers count, and multicast heads at
branching routers (R12, R159 to R163, R343). -/

namespace Sys2Proof.Machine

/-! ## Places (R12, R343) -/

/-- The base die whose block holds a router. -/
def meshDie (r : Nat × Nat) : Nat := 4 * (r.2 / 4) + r.1 / 4

/-- The router at a place within a base die's block. -/
def routerIn (d x y : Nat) : Nat × Nat := (4 * (d % 4) + x, 4 * (d / 4) + y)

/-- The routers of a switch tile, an array die and a vector die. -/
def tileRouter (t : Nat) : Nat × Nat := routerIn (t / 4) (t % 4) 0
def arrayRouter (a : Nat) : Nat × Nat := routerIn (a / 2) (a % 2) 3
def vecRouter (n : Nat) : Nat × Nat := routerIn (n / 2) (2 + n % 2) 3

/-- The steps from one coordinate to another, the start left out. -/
def axisSteps (a b : Nat) : List Nat := if a ≤ b then (upTo (b - a)).map (a + 1 + ·) else (upTo (a - b)).map (a - 1 - ·)

/-- The routers that a packet passes: in X first, then in Y (R159). -/
def meshPath (a b : Nat × Nat) : List (Nat × Nat) :=
  a :: ((axisSteps a.1 b.1).map fun x => (x, a.2)) ++ (axisSteps a.2 b.2).map fun y => (b.1, y)

/-! ## Packets to one destination -/

/-- Flits of a mesh VC that a router forwards, counted on its die's page. -/
def State.meshCount (s : State) (r : Nat × Nat) (vc n : Nat) : State :=
  s.add (.meshB (meshDie r)) (MESH_FLITS_count.at (8 * vc)) n

/-- A packet of `n` flits crosses the mesh: each router on its way forwards it (R159, R160; assumption 176). -/
def State.meshSend (s : State) (vc n : Nat) (a b : Nat × Nat) : State :=
  (meshPath a b).foldl (fun s r => s.meshCount r vc n) s

/-- The flits of a packet with `n` bytes of data: a header flit and 32 bytes in each other (R159). -/
def meshFlits (n : Nat) : Nat := 1 + (n + 31) / 32

/-! ## Multicast (R159, R161, R162) -/

/-- The destinations of a head. -/
def headDests (h : MeshHead) : List (Nat × Nat) :=
  ((upTo 128).filter fun i => bit h.mask.toNat i).map fun i => (i % 16, i / 16)

/-- The output that leads to a destination: X before Y. -/
def headOut (h : MeshHead) (d : Nat × Nat) : Nat :=
  if d.1 < h.x.toNat then 1 else if h.x.toNat < d.1 then 2 else if d.2 < h.y.toNat then 3 else if h.y.toNat < d.2 then 4 else 0

/-- The outputs that a head's copies take. -/
def headBranches (h : MeshHead) : List Nat := (upTo 5).filter fun o => (headDests h).any fun d => headOut h d == o

/-- The input at the far end of an output. -/
def farInput : Nat → Nat
  | 1 => 2 | 2 => 1 | 3 => 4 | 4 => 3 | _ => 0

/-- The router beyond an output. -/
def nextRouter (r : Nat × Nat) : Nat → Nat × Nat
  | 1 => (r.1 - 1, r.2) | 2 => (r.1 + 1, r.2) | 3 => (r.1, r.2 - 1) | 4 => (r.1, r.2 + 1) | _ => r

/-- The copy of a head that an output sends on, as the next router's input finds it. -/
def headCopy (h : MeshHead) (o : Nat) : MeshHead :=
  let r := nextRouter (h.x.toNat, h.y.toNat) o
  let m := ((headDests h).filter fun d => headOut h d == o).foldl (fun v d => v + 2 ^ (16 * d.2 + d.1)) 0
  { h with x := BitVec.ofNat 4 r.1, y := BitVec.ofNat 3 r.2, inp := BitVec.ofNat 3 (farInput o), mask := BitVec.ofNat 128 m }

/-- What the buffer of a router input holds on one VC. -/
def State.meshAt (s : State) (h : MeshHead) : List MeshHead :=
  s.mesh.held.filter fun x => x.x == h.x && x.y == h.y && x.inp == h.inp && x.m3 == h.m3

/-- The hop between two routers crosses a bridge die (R12). -/
def crosses (a b : Nat × Nat) : Bool := meshDie a / 2 != meshDie b / 2

/-- The input buffer that a copy is for has room: 9 flits for each VC (R159), and across a bridge an M0 credit of its link
(R161). -/
def State.meshRoom (s : State) (h x : MeshHead) : Bool :=
  let l := s.meshAt x
  decide (l.foldl (fun v y => v + y.flits.toNat) 0 + x.flits.toNat ≤ 9) &&
    (h.m3 || !crosses (h.x.toNat, h.y.toNat) (x.x.toNat, x.y.toNat) || decide (l.length < 8))

/-- The heads that the routers hold, replaced. -/
def State.setHeld (s : State) (l : List MeshHead) : State := { s with mesh := { s.mesh with held := l } }

/-- A multicast head at a branching router (R162): it moves on every branch together, once each has room for the whole
packet, and until then it stays, held and counted as it is first held. A copy for the router itself is consumed. -/
def State.mcForward (s : State) (h : MeshHead) : State :=
  let on := (headBranches h).filter (· != 0)
  if on.all fun o => s.meshRoom h (headCopy h o) then
    (s.setHeld (s.mesh.held.erase h ++ on.map (headCopy h))).meshCount (h.x.toNat, h.y.toNat) (if h.m3 then 3 else 0)
      ((headBranches h).length * h.flits.toNat)
  else if s.mesh.held.contains h then s
  else (s.setHeld (s.mesh.held ++ [h])).inc (.meshB (meshDie (h.x.toNat, h.y.toNat))) MESH_MC_HOLDS_count

/-- A head is one that a router can hold: an input that exists, one to nine flits, a destination, and room where it does not
stand there already. -/
def State.mcOk (s : State) (h : MeshHead) : Bool :=
  decide (h.inp.toNat < 5) && decide (1 ≤ h.flits.toNat) && decide (h.flits.toNat ≤ 9) && h.mask != 0 &&
    (s.mesh.held.contains h || s.meshRoom { h with m3 := true } h)

/-- The M0 credits that a bridge link of a die has left, the fewest of its links (R161, assumption 177). -/
def State.bridgeCredits (s : State) (d : Nat) : Nat :=
  let across := s.mesh.held.filter fun h =>
    let r := (h.x.toNat, h.y.toNat)
    let f := nextRouter r h.inp.toNat
    !h.m3 && h.inp != 0 && crosses r f && meshDie f == d
  across.foldl (fun v h => min v (8 - (s.meshAt h).length)) 8

/-! ## Streams between cells (R33, R163, R201) -/

/-- The bytes of a packet in an engine's input queue. -/
def EngIn.size (e : EngIn) : Nat := e.lines.foldl (fun v x => v + x.length) 0

/-- The first packets of a list that a number of bytes has room for. -/
def takeFit : Nat → List EngIn → List EngIn
  | _, [] => []
  | n, e :: l => if e.size ≤ n then e :: takeFit (n - e.size) l else []

/-- The packets that stand in an engine's 16 KiB input queue for a tile; the later ones wait at the tile for its credits
(R163, R201). -/
def State.inQueue (s : State) (n t : Nat) : List EngIn := takeFit 16384 (s.engq.filter fun e => e.eng == n && e.tile == t)

/-- A stream's counts: gone from its queue, and lost on the way. -/
def State.stream (s : State) (t n : Nat) : Nat × Nat :=
  ((s.mesh.streams.find? fun e => e.1 == 16 * t + n).map (·.2)).getD (0, 0)

/-- A packet leaves its queue, taken by its engine or lost (R160, R184). -/
def State.meshGone (s : State) (e : EngIn) (lost : Bool) : State :=
  let k := 16 * e.tile + e.eng
  let c := s.stream e.tile e.eng
  let rest := s.mesh.streams.filter fun x => x.1 != k
  { s with engq := s.engq.erase e, mesh := { s.mesh with streams := rest ++ [(k, c.1 + 1, c.2 + b2n lost)] } }

/-- The last sequence numbers of a stream: sent and received (R33). -/
def State.streamSeqs (s : State) (t n : Nat) : Nat × Nat :=
  let c := s.stream t n
  let v := c.1 + (s.inQueue n t).length
  (v, v - c.2)

end Sys2Proof.Machine
end

