-- ==== Sys2Proof/Machine/VecOps.lean ====
section
/-! DEFINITION. The vector operations: EPI, CVT, SMP and DIG (R292 to R297), row by row and then over tensors, with the
deal of their rows to the vector dies (R294). -/

namespace Sys2Proof.Machine

/-! ## Rows in FP32 (R292, R293) -/

/-- The result of one FP32 step: its value and its report. -/
abbrev Step32 := Ev × Exc

/-- An exact value rounded once to FP32. -/
def step32 (r : Ev × Bool) : Step32 :=
  let q := fp32.round How.rne r.1
  (ofFp32 q.1, q.2.add (Exc.ofFlags (Flag.invalid.when r.2)))

/-- A step on two values. -/
def add32 (a b : Ev) : Step32 := step32 (a.add b)
def sub32 (a b : Ev) : Step32 := step32 (a.add b.negate)
def mul32 (a b : Ev) : Step32 := step32 (a.mul b)
def div32 (a b : Ev) : Step32 := step32 (a.div b)

/-- A fused multiply and add, rounded once. -/
def fma32 (a b c : Ev) : Step32 := let p := a.mul b; let r := p.1.add c; step32 (r.1, p.2 || r.2)

/-- A square root. -/
def sqrt32 (a : Ev) : Step32 := let r := fp32Sqrt a; (ofFp32 r.1, Exc.ofFlags r.2)

/-- The exact sum of a row over a divisor, rounded once (R293). -/
def sum32 (l : List Ev) (div : Nat) : Step32 :=
  step32 ((l.foldl Xsum.addProduct Xsum.zero).result 704 352 div)

/-- An activation function (R292 op 4): ReLU exactly, the others by their code. -/
def act32 (fn : Nat) (a : Ev) : Step32 :=
  if fn = 0 then (if a == .nan then .nan else if Ev.zero.lt a then a else Ev.zero, Exc.none)
  else (ofFp32 (Config.actFn fn (BitVec.ofNat 32 (toFp32 a).1)).toNat, Exc.none)

/-- One step on every element of a row. -/
def mapStep (l : List Ev) (f : Ev → Step32) : List Ev × Exc := let r := l.map f; (r.map (·.1), excSum (r.map (·.2)))

/-- One step on every pair of two rows. -/
def zipStep (a b : List Ev) (f : Ev → Ev → Step32) : List Ev × Exc :=
  let r := (a.zip b).map fun e => f e.1 e.2
  (r.map (·.1), excSum (r.map (·.2)))

/-- The largest value of a row; NaN where one is there. -/
def rowMax (l : List Ev) : Ev :=
  match l with
  | [] => .nan
  | x :: xs => xs.foldl (fun m v => if m == .nan || v == .nan then .nan else if m.lt v then v else m) x

/-- The places of a row from the largest value down, the lower place first among equals. Where a NaN stands in the row,
the order is free (assumption 182). -/
def rowOrder (l : List Ev) : List (Nat × Ev) :=
  if l.contains .nan then
    (upTo l.length).map fun j =>
      let i := Config.nanOrder (l.map fun v => BitVec.ofNat 32 (toFp32 v).1) j % l.length
      (i, l.getD i .nan)
  else sortBy (fun a b => b.2.lt a.2 || (!a.2.lt b.2 && decide (a.1 < b.1))) (indexed l)

/-- One row of an EPI operation (R292): its values, the indices of TOPK, and its report. -/
def epiRow (op fn k imm : Nat) (src a1 a2 : List Ev) : List Ev × List Nat × Exc :=
  let iv := ofFp32 imm
  match op with
  | 0 => let r := zipStep src a1 add32; (r.1, [], r.2)
  | 1 => let r := zipStep src a1 mul32; (r.1, [], r.2)
  | 2 =>
    let r := (src.zip (a1.zip a2)).map fun e => fma32 e.1 e.2.1 e.2.2
    (r.map (·.1), [], excSum (r.map (·.2)))
  | 3 => let r := mapStep src fun x => mul32 x iv; (r.1, [], r.2)
  | 4 => let r := mapStep src (act32 fn); (r.1, [], r.2)
  | 5 =>
    let ms := sum32 (src.map fun x => (x.mul x).1) src.length
    let v := add32 ms.1 iv
    let q := sqrt32 v.1
    let r := mapStep src fun x => div32 x q.1
    let w := zipStep r.1 a1 mul32
    (w.1, [], excSum [ms.2, v.2, q.2, r.2, w.2])
  | 6 =>
    let m := sum32 src src.length
    let df := mapStep src fun x => sub32 x m.1
    let var := sum32 (df.1.map fun x => (x.mul x).1) src.length
    let v := add32 var.1 iv
    let q := sqrt32 v.1
    let r := mapStep df.1 fun x => div32 x q.1
    let w := zipStep r.1 a1 mul32
    let y := zipStep w.1 a2 add32
    (y.1, [], excSum [m.2, df.2, var.2, v.2, q.2, r.2, w.2, y.2])
  | 7 =>
    let m := rowMax src
    let df := mapStep src fun x => sub32 x m
    let e := mapStep df.1 (act32 5)
    let t := sum32 e.1 1
    let y := mapStep e.1 fun x => div32 x t.1
    (y.1, [], excSum [df.2, e.2, t.2, y.2])
  | 8 => let l := (rowOrder src).take k; (l.map (·.2), l.map (·.1), Exc.none)
  | _ => let t := sum32 src 1; ([t.1], [], t.2)

/-- The vector steps that a 512-element vector costs (R292, R294). -/
def epiCost : Nat → Nat
  | 4 => 4 | 5 => 3 | 6 => 4 | 7 => 4 | 8 => 2 | _ => 1

/-- The steps of a CVT's vector by its destination. -/
def cvtCost (dst : Nat) : Nat := if dst ≤ 8 then 1 else 2

/-! ## The deal (R294) -/

/-- The vector dies in service, in ascending order. -/
def State.vecDies (s : State) : List Nat := (upTo 16).filter fun n => s.st (.vec n) == .inService

/-- The steps of each place of the deal among `n` dies: rows of at most 64 vectors go whole, longer ones vector by
vector, in cyclic order. -/
def dealSteps (n rows len cost : Nat) : List Nat :=
  let v := (len + 511) / 512
  let items := if v ≤ 64 then rows else rows * v
  let each := if v ≤ 64 then v * cost else cost
  (upTo n).map fun i => ((items + n - 1 - i) / n) * each

/-- The steps of a vector operation: the busiest die's, 24 more, and 16 where rows are split. -/
def vecSteps (base n rows len cost : Nat) : Nat :=
  base + (dealSteps n rows len cost).foldl max 0 + (if 64 < (len + 511) / 512 then 16 else 0)

/-- The dies' step counts follow an operation. -/
def State.countVec (s : State) (rows len cost : Nat) : State :=
  let ds := s.vecDies
  (ds.zip (dealSteps ds.length rows len cost)).foldl (fun s e => s.add (.vec e.1) VEC_STEPS_steps e.2) s

/-- Bytes hashed, in runs of 4,096 dealt to the dies in service in cyclic order (R301). -/
def State.countSha (s : State) (n : Nat) : State :=
  let ds := s.vecDies
  if ds.isEmpty then s
  else (upTo ((n + 4095) / 4096)).foldl (fun s j =>
    s.add (.vec (ds.getD (j % ds.length) 0)) VEC_SHA_BYTES_bytes (min 4096 (n - 4096 * j))) s

/-! ## Operations over tensors -/

/-- What carrying out an operation gives: the state, its code, its report, its first offending product and its steps. -/
structure Done where
  st : State
  code : Code
  exc : Exc
  coord : Option (Nat × Nat × Nat)
  steps : Nat

/-- An operation turned down: nothing has happened. -/
def State.turned (s : State) (c : Code) : Done := ⟨s, c, Exc.none, none, 0⟩

/-- The operand of an operation's row: an operand of one row serves every row. -/
def State.auxRow (s : State) (d : Desc) (r : Nat) : List Ev := (s.row d (if d.rows = 1 then 0 else r)).1

/-- An operand has the shape of a source, or one row of it. -/
def auxOk (src a : Desc) : Bool :=
  a.fmt ≤ 4 && a.ext 0 == src.ext 0 && (a.rows == 1 || (a.ext 1 == src.ext 1 && a.ext 2 == src.ext 2 && a.ext 3 == src.ext 3))

/-- Which of the two further operands an EPI operation reads. -/
def epiReads : Nat → Bool × Bool
  | 0 => (true, false) | 1 => (true, false) | 2 => (true, true) | 5 => (true, false) | 6 => (true, true) | _ => (false, false)

/-- The operands of an EPI are of its shapes and formats (R292). -/
def epiOk (op fn k : Nat) (dst src a1 a2 : Desc) : Bool :=
  let rows := dst.ext 1 == src.ext 1 && dst.ext 2 == src.ext 2 && dst.ext 3 == src.ext 3
  let len := if op = 8 then k else if op = 9 then 1 else src.ext 0
  decide (op ≤ 9) && (op != 4 || decide (fn ≤ 5)) && decide (src.fmt ≤ 4) && decide (dst.fmt ≤ 2) && rows && dst.ext 0 == len &&
    (!(epiReads op).1 || auxOk src a1) && (!(epiReads op).2 || auxOk src a2) &&
    (op != 8 || (a1.fmt == 5 && a1.ext 0 == k && a1.rows == src.rows && decide (1 ≤ k) && decide (k ≤ src.ext 0)))

/-- The round-to-nearest conversion into a format, as an EPI writes its result. -/
def rneInto (fmt : Nat) : Cvt := ⟨0, fmt, 0, false, 0, 0, 0, 0, 0, 0⟩

/-- The rows of an EPI carried out (R292). -/
def State.epiRows (s : State) (op fn k imm : Nat) (dst src a1 a2 : Desc) : State × Exc :=
  (upTo src.rows).foldl (fun (a : State × Exc) i =>
    let x := s.row src i
    let y := epiRow op fn k imm x.1 (if (epiReads op).1 then s.auxRow a1 i else [])
      (if (epiReads op).2 then s.auxRow a2 i else [])
    let w := a.1.putRow dst (rneInto dst.fmt) i y.1
    let (j1, j2, j3) := a1.rowIdx i
    let st := if op = 8 then w.1.putCodes a1 0 j1 j2 j3 y.2.1 else w.1
    (st, a.2.add (y.2.2.add (w.2.add (Exc.ofFlags x.2))))) (s, Exc.none)

/-- EPI (R292). -/
def State.epi (s : State) (op fn k imm : Nat) (dst src a1 a2 : Desc) : Done :=
  if !epiOk op fn k dst src a1 a2 then s.turned .badArg
  else
    let n := s.vecDies.length
    if n = 0 then s.turned .refusedState
    else
      let r := s.epiRows op fn k imm dst src a1 a2
      ⟨r.1.countVec src.rows (src.ext 0) (epiCost op), .ok, r.2, none, vecSteps 24 n src.rows (src.ext 0) (epiCost op)⟩

/-- A CVT's word and descriptors agree (R267, R269, R273). -/
def State.cvtOk (s : State) (c : Cvt) (dst src : Desc) : Bool :=
  c.ok && src.fmt == c.src && dst.fmt == c.dst && ((upTo 4).all fun i => dst.ext i == src.ext i) &&
    !(c.src == 9 && (floatOf c.dst).isNone) && !(c.dst == 20 && s.intMode dst == 2)

/-- The rows of a CVT carried out (R258 to R273). -/
def State.cvtRows (s : State) (c : Cvt) (dst src : Desc) : State × Exc :=
  let r := (upTo src.rows).foldl (fun (a : State × Exc) i =>
    let x := s.row src i
    let w := a.1.putRow dst c i x.1
    (w.1, a.2.add (w.2.add (Exc.ofFlags x.2)))) (s, Exc.none)
  (r.1.addTotals dst r.2, r.2)

/-- CVT (R258 to R273). -/
def State.cvt (s : State) (c : Cvt) (dst src : Desc) : Done :=
  if !s.cvtOk c dst src then s.turned .badArg
  else
    let n := s.vecDies.length
    if n = 0 then s.turned .refusedState
    else
      let r := s.cvtRows c dst src
      ⟨r.1.countVec src.rows (src.ext 0) (cvtCost c.dst), .ok, r.2, none, vecSteps 24 n src.rows (src.ext 0) (cvtCost c.dst)⟩

/-- The token of one row (R296): `z` gives the mix of each logit. -/
def smpRow (topK temp : Nat) (z : Nat → Nat) (logits : List Ev) : Nat × Exc :=
  let ord := rowOrder logits
  let set := if topK = 0 then ord else ord.take topK
  if (ofFp32 temp).isZero then ((ord.headD (0, .nan)).1, Exc.none)
  else
    let keys := (sortBy (fun a b => decide (a.1 < b.1)) set).map fun e =>
      let q := div32 e.2 (ofFp32 temp)
      let a := add32 q.1 (ofFp32 (Config.gumbel (z e.1 / 2 ^ 11)).toNat)
      (e.1, a.1, q.2.add a.2)
    (((rowOrder (keys.map (·.2.1))).headD (0, .nan)).1 |> fun i => (keys.getD i (0, .nan, Exc.none)).1,
      excSum (keys.map (·.2.2)))

/-- SMP (R296): `z` gives the mix of the logit with a row-major index. -/
def State.smp (s : State) (topK temp : Nat) (z : Nat → Nat) (dst src : Desc) : Done :=
  let v := src.ext 0
  if src.fmt ≠ 0 ∨ dst.fmt ≠ 5 ∨ dst.count ≠ src.rows ∨ v = 0 then s.turned .badArg
  else
    let n := s.vecDies.length
    if n = 0 then s.turned .refusedState
    else
      let r := (upTo src.rows).foldl (fun (a : State × Exc) i =>
        let t := smpRow topK temp (fun j => z (i * v + j)) (s.row src i).1
        let (j1, j2, j3) := dst.rowIdx (i / dst.ext 0)
        (a.1.putCode dst (i % dst.ext 0) j1 j2 j3 t.1, a.2.add t.2)) (s, Exc.none)
      ⟨r.1.countVec src.rows v 6, .ok, r.2, none, vecSteps 24 n src.rows v 6⟩

/-! ## Digests (R297 to R300) -/

/-- The tree digest of bytes (R297). -/
def treeDigest (bs : List Byte) : List Byte :=
  sha512 (leBytes 8 bs.length ++ (chunks 4096 (bs.length / 4096 + 1) bs).flatMap sha512)

/-- A tensor can take the 64 bytes of a digest. -/
def digestOk (d : Desc) : Bool := d.space != 3 && d.fmt != 9 && decide (512 ≤ d.ext 0 * fmtBits d.fmt)

/-- 64 bytes written to a tensor. -/
def State.putDigest (s : State) (d : Desc) (bs : List Byte) : State := s.writeSpace d.space d.addr bs

/-- DIG variant 0. -/
def State.digTree (s : State) (dst src : Desc) : Done :=
  if !digestOk dst then s.turned .badArg
  else
    let bs := s.tensorBytes src
    ⟨(s.putDigest dst (treeDigest bs)).countSha bs.length, .ok, Exc.none, none, 0⟩

/-- DIG variant 1: the audit digest over the program's digest, the operands' and the source's (R300). -/
def State.digAudit (s : State) (p : Nat) (prog : List Byte) (dst src : Desc) (ops : List Desc) : Done :=
  if !digestOk dst then s.turned .badArg
  else
    let o := ops.map fun d => if d.object then s.readSpace 0 (s.objectAddr p d.objectId) 64 else treeDigest (s.tensorBytes d)
    let r := treeDigest (s.tensorBytes src)
    let n := (s.tensorBytes src).length + (ops.foldl (fun v d => v + if d.object then 0 else (s.tensorBytes d).length) 0)
    ⟨(s.putDigest dst (sha512 (prog ++ o.flatten ++ r))).countSha n, .ok, Exc.none, none, 0⟩

end Sys2Proof.Machine
end

