-- ==== Sys2Proof/Machine/RdxOps.lean ====
section
/-! DEFINITION. Exact reduction (R185 to R214, R221): contexts and their admission, contribution streams and claims,
accumulation, release, results, trees, save images. -/

namespace Sys2Proof.Machine

/-! ## Contexts (R185 to R187, R190) -/

/-- A reduction context with nothing in hand. -/
def RCx.empty : RCx :=
  { ranks := [], lines := [], counts := [], claims := [], outq := [], psn := 0, partPsn := 0, partCum := 0xFFFFFF, parentEpoch := 0
    parentRank := 0, parentTop := none, parentCum := 0xFFFFFF, parentMap := 0, stamp := 0, hist := [], done := []
    reserved := [], parentPort := none, drain := none }

/-- A reduction context beside its entry. -/
def State.rx (s : State) (c : Nat) : RCx := ((s.rcxs.find? fun e => e.1 == c).map (·.2)).getD RCx.empty

/-- A field of a reduction context's entry. -/
def State.rc (s : State) (c : Nat) (f : Fld) : Nat := s.t .rdxCtx 0 c f
def State.rcb (s : State) (c : Nat) (f : Fld) : Bool := s.tb .rdxCtx 0 c f
def State.prc (s : State) (c : Nat) (f : Fld) (v : Nat) : State := s.pt .rdxCtx 0 c f v

/-- The sub-states of R190: 0 FREE, 1 RUNNING, 2 DRAINING, 3 FAILED, 4 SAVED. -/
def State.sub (s : State) (c : Nat) : Nat := s.rc c rdxCtx_sub

/-- The context takes contributions and carries lines on. -/
def State.subLive (s : State) (c : Nat) : Bool := s.sub c == 1 || s.sub c == 2

/-- The engines of a mask, in ascending order (R186). -/
def enginesOf (mask : Nat) : List Nat := (upTo 16).filter fun i => bit mask i

/-- The shape of a context, as its words 0 to 6 give it. -/
structure RShape where
  ws : List Nat

def RShape.f (d : RShape) (f : Fld) : Nat := bits (d.ws.getD f.off 0) f.lo f.w
def RShape.engines (d : RShape) : List Nat := enginesOf (d.f rdxCtx_engine_mask)
def RShape.stripe (d : RShape) : Nat := 2 ^ d.f rdxCtx_stripe_log2
def RShape.lines (d : RShape) : Nat := (d.f rdxCtx_elements + 15) / 16
def RShape.float (d : RShape) : Bool := decide (d.f rdxCtx_out_fmt ≤ 4)
def RShape.op (d : RShape) : Option RdxOp := RdxOp.ofVal (d.f rdxCtx_op)
def RShape.isSum (d : RShape) : Bool := match d.op with | some o => o.isSum | none => false

/-- Which of the engines a line belongs to (R186). -/
def RShape.place (d : RShape) (g : Nat) : Nat := g / d.stripe % max 1 d.engines.length

/-- The shape of a context of the part. -/
def State.shape (s : State) (c : Nat) : RShape := ⟨s.entry .rdxCtx 0 c 7⟩

/-- The engine of a line, and the home engine (R186). -/
def State.engOf (s : State) (c g : Nat) : Nat := let d := s.shape c; d.engines.getD (d.place g) 0
def State.home (s : State) (c : Nat) : Nat := (s.shape c).engines.headD 0

/-- Where a line stands among the slots of its context on its engine: the engine's own lines in ascending order, around
the window (R186). -/
def State.slotOf (s : State) (c g : Nat) : Nat :=
  let d := s.shape c
  let e := max 1 d.engines.length
  (g / (d.stripe * e) * d.stripe + g % d.stripe) % max 1 (d.f rdxCtx_window / e)

/-- The entries of the rank, line-slot and count tables in which two versions of a context differ: table, engine, and
the entry's number within the context. -/
def State.rxDiff (s : State) (c : Nat) (x y : RCx) : List (Tbl × Nat × Nat) :=
  ((upTo (max x.ranks.length y.ranks.length)).filter fun i => x.psn != y.psn || x.ranks[i]? != y.ranks[i]?).map
      (fun i => (.rdxRank, 0, i)) ++
    (((x.lines.filter fun l => !y.lines.contains l) ++ (y.lines.filter fun l => !x.lines.contains l)).map fun l =>
      (.rdxLine, s.engOf c l.g, s.slotOf c l.g)) ++
    ((x.counts.filter fun e => !y.counts.contains e) ++ (y.counts.filter fun e => !x.counts.contains e)).map fun e =>
      (.rdxCount, 0, e.1)

/-- The changed entries of frozen pages after a context has changed (R34). -/
def State.noteRx (s : State) (c : Nat) (x : RCx) : List Nat :=
  if s.capPages.isEmpty then s.cow
  else (s.rxDiff c (s.rx c) x).foldl (fun cow e => s.noteIn cow e.1 e.2.1 (c * 256 + e.2.2 / 4096) (e.2.2 % 4096)) s.cow

/-- The state with a reduction context replaced. -/
def State.setRx (s : State) (c : Nat) (x : RCx) : State :=
  { s with
    rcxs := (s.rcxs.filter fun e => e.1 != c) ++ (if x = RCx.empty then [] else [(c, x)])
    cow := s.noteRx c x }

/-- The lines of a round, the round of a line, its first element in the round, and how many elements it has (R185). -/
def State.lpr (s : State) (c : Nat) : Nat := max 1 (s.shape c).lines
def State.roundOf (s : State) (c g : Nat) : Nat := g / s.lpr c
def State.firstOf (s : State) (c g : Nat) : Nat := g % s.lpr c * 16
def State.elemsOf (s : State) (c g : Nat) : Nat := min 16 (s.rc c rdxCtx_elements - s.firstOf c g)

/-- The bounds of the window (R187). A draining context's window stays where it was (R190). -/
def State.base (s : State) (c : Nat) : Nat := s.rc c rdxCtx_base
def State.top (s : State) (c : Nat) : Nat := ((s.rx c).drain).getD (s.base c + s.rc c rdxCtx_window)
def State.inWindow (s : State) (c g : Nat) : Bool := decide (s.base c ≤ g) && decide (g < s.top c)

/-- The context sends partials, and its results come from its parent (R211). -/
def State.partial_ (s : State) (c : Nat) : Bool := s.rcb c rdxCtx_kind

/-- A line that nothing has reached. -/
def RLine.fresh (g : Nat) : RLine :=
  { g := g, count := 0, leaves := 0, accs := List.replicate 16 Xsum.zero, released := false, epi := false, part := none
    partPsn := none, res := none, resPsn := none, acked := [], tries := [] }

/-- A line of a context. -/
def RCx.line (x : RCx) (g : Nat) : RLine := (x.lines.find? fun l => l.g == g).getD (RLine.fresh g)

/-- A context with a line replaced. -/
def RCx.setLine (x : RCx) (l : RLine) : RCx := { x with lines := (x.lines.filter fun y => y.g != l.g) ++ [l] }

/-- A line of a context of the part, replaced. -/
def State.setLine (s : State) (c : Nat) (l : RLine) : State := s.setRx c ((s.rx c).setLine l)

/-! ## Ranks -/

def RRank.remote (r : RRank) : Bool := bit r.w0 0
def RRank.contrib (r : RRank) : Bool := bit r.w0 1
def RRank.recv (r : RRank) : Bool := bit r.w0 2
def RRank.mult (r : RRank) : Nat := bits r.w0 3 8
def RRank.fmt (r : RRank) : Nat := bits r.w0 11 4
def RRank.addr (r : RRank) : Nat := bits r.w0 15 20
def RRank.portId (r : RRank) : Nat := bits r.w0 15 10
def RRank.ctx (r : RRank) : Nat := bits r.w0 35 12
def RRank.weight (r : RRank) : Nat := bits r.w0 47 16
def RRank.epoch (r : RRank) : Nat := bits r.w1 0 8

/-- The fabric address at which a rank is reached. -/
def State.rankAddr (s : State) (r : RRank) : Nat := if r.remote then r.addr else s.grpAddr (portGroup r.portId)

/-- A rank of a context replaced. -/
def RCx.setRank (x : RCx) (i : Nat) (r : RRank) : RCx := { x with ranks := x.ranks.set i r }

/-- The ranks of a context that receive its results, by number. -/
def RCx.recvs (x : RCx) : List (Nat × RRank) := ((upTo x.ranks.length).zip x.ranks).filter fun e => e.2.recv

/-- The contributions that release a line (R204, R212, R214). -/
def State.expected (s : State) (c g : Nat) : Nat :=
  let x := s.rx c
  let n := if s.rcb c rdxCtx_per_line then ((x.counts.find? fun e => e.1 == g % s.lpr c).map (·.2)).getD 0
    else (x.ranks.filter (·.contrib)).foldl (fun v r => v + r.mult) 0
  if s.rcb c rdxCtx_quorum then min n (s.rc c rdxCtx_quorum_count) else n

/-! ## Vector store (R189) -/

/-- The lines of a round that the engine at place `j` owns. -/
def RShape.owned (d : RShape) (j : Nat) : Nat :=
  let p := d.stripe * max 1 d.engines.length
  d.lines / p * d.stripe + min d.stripe (d.lines % p - j * d.stripe)

/-- The bytes that each engine of a context reserves. -/
def RShape.needs (d : RShape) (ranks : Nat) : List (Nat × Nat) :=
  let es := d.engines
  let slot := 704 + 16 * fmtBytes (d.f rdxCtx_out_fmt) + (if d.f rdxCtx_kind = 1 ∧ d.isSum then 784 else 0)
  (indexed es).map fun e =>
    (e.2, d.f rdxCtx_window / max 1 es.length * slot + (if e.1 = 0 then 48 * ranks else 0) +
      (if d.f rdxCtx_per_line = 1 then 2 * d.owned e.1 else 0))

/-- The reserved bytes of an engine. -/
def State.setReserved (s : State) (n v : Nat) : State :=
  (s.p (.rdx n) H_RDX_bytes v).p (.rdx n) RDX_VS_USED_kib ((v + 1023) / 1024)

/-- A context's reservations given back. -/
def State.unreserve (s : State) (c : Nat) : State :=
  (s.rx c).reserved.foldl (fun s e => s.setReserved e.1 (s.g (.rdx e.1) H_RDX_bytes - e.2)) s

/-! ## Ends (R190, R221) -/

/-- The flits of a LOCAL contribution leave the input buffer of its port (R70, R200). -/
def State.collFree (s : State) (port n : Nat) : State :=
  if s.pers (portGroup port) == .tlinkAttach then s.freeFlits port 4 (flitsOf n) else s

/-- The claims of a context dropped. -/
def State.dropClaims (s : State) (c : Nat) : State :=
  let x := s.rx c
  let s := x.claims.foldl (fun s k => if k.flits then s.collFree k.port k.bytes.length else s) s
  (s.engq.filter fun e => e.ctx == c).foldl (fun s e => s.meshGone e false) (s.setRx c { x with claims := [] })

/-- The context is FREE: its entry reads reset values, its reservations are released. Its latest digest stays (R207). -/
def State.freeRdx (s : State) (c : Nat) : State :=
  let s := (s.dropClaims c).unreserve c
  let s := s.clearTab .rdxCtx 0 c 1
  (s.setRx c RCx.empty).pctx c attCtx_state 0

/-- A context fails with a code (R190). -/
def State.failRdx (s : State) (c : Nat) (code : Code) : State :=
  if s.subLive c then
    let h := s.home c
    let s := s.dropClaims c
    let s := s.setRx c { s.rx c with outq := [] }
    ((s.prc c rdxCtx_sub 3).prc c rdxCtx_fail_code code.val).raise (.rdx h) cRDX_CTX_FAILED
  else s

/-- RESET of a context, or of its partition (R190, R221). -/
def State.resetRdx (s : State) (c : Nat) : State :=
  if s.sub c = 0 then s
  else
    let p := s.rc c rdxCtx_partition
    let k := s.rc c rdxCtx_counter
    let s := s.freeRdx c
    (s.pctx c attCtx_epoch (s.ctx c attCtx_epoch + 1)).ctxEpochs p c k

/-- The reduction contexts of the part that are not FREE. -/
def State.rdxCtxs (s : State) : List Nat := ((s.listed .rdxCtx 0 0).filter fun e => bits e.2 0 3 != 0).map (·.1)

/-- A vector die leaves IN_SERVICE: the contexts with an engine there fail (R190, R221). -/
def State.engineGone (s : State) (n : Nat) : State :=
  (s.rdxCtxs.filter fun c => bit (s.rc c rdxCtx_engine_mask) n).foldl (fun s c => s.failRdx c .aborted) s

/-! ## Admission (R188, R195) -/

/-- A weight of WSUM: zero, or of a magnitude from 2^-16 to 1 (R195). -/
def weightOk (w : Nat) : Bool :=
  let v := (bf16.decode w).abs
  v.isZero || (Ev.le (.fin false 1 65536) v && v.le (.fin false 1 1))

/-- The formats that a rank may have: where partials travel in out_fmt, every rank has it, and the other rules bind the
ranks that contribute (R194, R195). -/
def RShape.rankOk (d : RShape) (r : RRank) : Bool :=
  let out := d.f rdxCtx_out_fmt
  let mode := if d.float then decide (r.fmt ≤ 4) else decide (5 ≤ r.fmt) && decide (r.fmt ≤ 8)
  (d.isSum || r.fmt == out) && (!r.contrib || (decide (1 ≤ r.mult) && (!d.isSum || mode || r.fmt == 9) &&
    (d.op != some .wsum || (weightOk r.weight && (r.fmt != 9 || r.weight == 0x3F80)))))

/-- The multiplicities of the contributing ranks together. -/
def multSum (rs : List RRank) : Nat := (rs.filter (·.contrib)).foldl (fun v r => v + r.mult) 0

/-- The descriptor follows R194, R186, R187 and R214, apart from its ranks' ports. -/
def RShape.ok (d : RShape) (rs : List RRank) : Bool :=
  let e := d.engines.length
  let l := d.f rdxCtx_window
  let n := multSum rs
  d.op.isSome && decide (d.f rdxCtx_out_fmt ≤ 8) && (d.float || (d.op != some .wsum && d.op != some .avg)) &&
    (!d.float || (d.op != some .and_ && d.op != some .or_ && d.op != some .xor_)) &&
    decide (1 ≤ d.f rdxCtx_ranks) && decide (d.f rdxCtx_ranks ≤ 1024) && decide (n ≤ 65535) &&
    decide (1 ≤ e) && decide (d.f rdxCtx_stripe_log2 ≤ 10) && decide (1 ≤ l) && decide (l ≤ 2 ^ 20) &&
    l % (d.stripe * max 1 e) == 0 && (!d.float || decide (d.f rdxCtx_leaves ≤ 2 ^ 19)) && decide (1 ≤ d.f rdxCtx_elements) &&
    rs.all d.rankOk && (d.f rdxCtx_quorum == 0 || (decide (1 ≤ d.f rdxCtx_quorum_count) &&
      (d.f rdxCtx_per_line == 1 || decide (d.f rdxCtx_quorum_count ≤ n))))

/-- The egress port of a rank (R208): a LOCAL rank's own, or the TLink route of a REMOTE rank's address. -/
def State.rankPort (s : State) (c : Nat) (r : RRank) : Option Nat :=
  if r.remote then s.tlinkRoute r.addr c else some r.portId

/-- The ports of the ranks: recipients' carry TLink, and an attach port holds one LOCAL rank at most (R188). -/
def State.portsOk (s : State) (c : Nat) (rs : List RRank) : Bool :=
  let locals := (rs.filter fun r => !r.remote).map (·.portId)
  (rs.all fun r => !r.recv || (match s.rankPort c r with | none => false | some p => s.portExists p && !s.isEth p)) &&
    (locals.all fun p => s.pers (portGroup p) == .tlinkAttach) && decide locals.Nodup

/-- A port group serves a partition's contexts when it is the partition's own; an operator's command may use one that no
partition owns (R363). DEDUCED (assumption 20). -/
def State.groupFor (s : State) (m g p : Nat) : Bool :=
  if s.g (.grp g) OWNER_owned = 1 then s.g (.grp g) OWNER_partition == p else (vfPart (mst m)).isNone

/-- A virtual function reaches a context of its partition's range (R363). -/
def State.ctxFor (s : State) (m c : Nat) : Bool :=
  match vfPart (mst m) with
  | none => true
  | some p => decide (s.t .chrPart 0 p chrPart_ctx_base ≤ c) &&
      decide (c < s.t .chrPart 0 p chrPart_ctx_base + s.t .chrPart 0 p chrPart_ctx_count)

/-- May a master read or write a buffer that a command names? Host memory is its own function's. -/
def State.bufMay (s : State) (m : Nat) (host : Bool) (a n : Nat) (r : Right) : Bool :=
  host || (decide (a + n ≤ hbmTop) && s.memMay (mst m) (reqPart m) 0 a n r)

/-- The words of a buffer. -/
def wordsOf (n : Nat) (bs : List Byte) : List Nat := (upTo n).map fun i => ofLeBytes (slice (8 * i) 8 bs)

/-- The ranks of a descriptor. -/
def ranksOf (n : Nat) (bs : List Byte) : List RRank :=
  (upTo n).map fun i =>
    { w0 := ofLeBytes (slice (0x40 + 16 * i) 8 bs), w1 := ofLeBytes (slice (0x48 + 16 * i) 8 bs), port := none
      rxCum := 0xFFFFFF, rxMap := 0, ce := 0, sinceAck := 0, txCum := 0xFFFFFF, retx := 0, failed := false, top := 0 }

/-- The checks of ADMIT, in the order of R188, on a descriptor's shape and ranks. -/
def State.admitCode (s : State) (m c : Nat) (may : Bool) (d : RShape) (rs : List RRank) : Code :=
  let p := d.f rdxCtx_partition
  if s.sub c ≠ 0 ∨ s.ctxSt c ≠ 0 then .refusedState
  else if !may ∨ !(mst m == 0x10 || reqPart m == some p) ∨ !s.ctxFor m c ∨
      !(rs.all fun r => r.remote || s.groupFor m (portGroup r.portId) p) then .denied
  else if !d.ok rs ∨ !s.portsOk c rs then .badArg
  else if d.f rdxCtx_quorum = 1 ∧ s.tb .chrPart 0 p chrPart_strict then .mayVaryForbidden
  else if !d.engines.all (fun n => s.st (.vec n) == .inService) then .refusedState
  else if !(d.needs rs.length).all (fun e => decide (s.g (.rdx e.1) H_RDX_bytes + e.2 ≤ s.g (.rdx e.1) RDX_VS_LIMIT_kib * 1024))
    then .noResource
  else .ok

/-- ADMIT (R188 to R190). What a partial packet says of the parent's epoch and of this context's rank there, no rule
gives: free values (assumption 21). -/
def State.rdxAdmit (s : State) (m n c : Nat) : Code × State :=
  let b := Blk.rdx n
  let host := s.gb b RDX_CMD_ADDR_host
  let a := s.g b RDX_CMD_ADDR_addr
  let fn := masterFn (mst m)
  let head := s.bufMay m host a 0x40 .read
  let d : RShape := ⟨wordsOf 7 (if head then s.readBuf fn host 0 a 0x40 else [])⟩
  let k := d.f rdxCtx_ranks
  let may := head && s.bufMay m host a (0x40 + 16 * k) .read
  let rs := ranksOf k (if may then s.readBuf fn host 0 a (0x40 + 16 * k) else [])
  match s.admitCode m c may d rs with
  | .ok =>
    let need := d.needs k
    let s := need.foldl (fun s e => s.setReserved e.1 (s.g (.rdx e.1) H_RDX_bytes + e.2)) s
    let s := ((s.clearTab .rdxDigest 0 c 1).setEntry .rdxCtx 0 c d.ws).setTw .rdxCtx 0 c 7 0
    let s := (s.prc c rdxCtx_sub 1).pctx c attCtx_state 4
    let ep := s.draw
    let rk := ep.2.draw
    let q := if d.f rdxCtx_kind = 1 then (ep.1 % 256, rk.1 % 65536, rk.2) else (0, 0, s)
    let s := q.2.2
    let top := d.f rdxCtx_window
    (.ok, s.setRx c { RCx.empty with
      ranks := rs.map fun r => { r with port := s.rankPort c r, top := top }
      parentEpoch := q.1, parentRank := q.2.1
      parentPort := if d.f rdxCtx_kind = 1 then s.tlinkRoute (d.f rdxCtx_parent_addr) c else none
      stamp := s.stampOf (d.f rdxCtx_partition) (d.f rdxCtx_counter), reserved := need })
  | k => (k, s)

/-! ## Packets that a context sends (R192, R208 to R210) -/

/-- The thirteen words of a packet of a context. -/
def State.rdxWords (s : State) (c op dst dctx psn ep round first n pay rank fmt : Nat) : List Nat :=
  [dst * 4096 + dctx, (s.rdxAddr.getD 0) * 4096 + c, word2 op true true false + c, psn % 2 ^ 24 * 256 + ep % 256, round % 2 ^ 32,
    first, n, 0, 0, 0, 0, pay % 8192 * 2 ^ 16 + rank, fmt]

/-- A packet that waits to be re-injected by the home engine (R209). -/
def State.queueOut (s : State) (c : Nat) (port : Option Nat) (vc : Nat) (bs : List Byte) : State :=
  match port with
  | none => s
  | some p => let x := s.rx c; s.setRx c { x with outq := x.outq ++ [(p, vc, bs)] }

/-- The 128-bit maps and codes of an ACK of a context, to an address (R79). -/
def State.rdxAck (s : State) (c dst dctx ep cum code nak map ce : Nat) : List Byte :=
  mkPacket ([dst * 4096 + dctx, (s.rdxAddr.getD 0) * 4096 + c, word2 0x07 true true false + c, cum * 256 + ep % 256,
    code * 2 ^ 24 + nak] ++ w128 map ++ w128 ce) []

/-- An ACK to a REMOTE rank (R191, R193, R200). -/
def State.ackRank (s : State) (c i : Nat) (code : Code) (nak : Nat) : State :=
  let x := s.rx c
  match x.ranks[i]? with
  | none => s
  | some r =>
    if !r.remote then s
    else
      let bs := s.rdxAck c r.addr r.ctx r.epoch r.rxCum code.val nak r.rxMap r.ce
      (s.setRx c (x.setRank i { r with sinceAck := 0 })).queueOut c r.port 2 bs

/-- The ATT page whose settings a context follows: that of the home engine's first re-injection tile (R200, R209). -/
def State.rdxAtt (s : State) (c : Nat) : Blk := let h := s.home c; .att (4 * (h / 2) + 2 * (h % 2))

/-! ## Contributions (R192, R193) -/

def cRound (bs : List Byte) : Nat := hw bs 4
def cFirst (bs : List Byte) : Nat := hw bs 5
def cElems (bs : List Byte) : Nat := hw bs 6
def cRank (bs : List Byte) : Nat := hw bs 11 % 65536
def cFmt (bs : List Byte) : Nat := hw bs 12 % 16
def cPay (bs : List Byte) : List Byte := bs.drop 56

/-- The XPE blocks of a payload; none where they do not make it up exactly. -/
def xpeSplit (float : Bool) : Nat → List Byte → Option (List (List Byte))
  | 0, bs => if bs.isEmpty then some [] else none
  | n + 1, bs =>
    let k := xpeSize bs
    let b := bs.take k
    if xpeOk float b then (xpeSplit float n (bs.drop k)).map (b :: ·) else none

/-- The lines of a payload of `n` elements of a format; none where its length does not agree. -/
def splitLines (float : Bool) (fmt n : Nat) (pay : List Byte) : Option (List (List Byte)) :=
  if fmt = 9 then xpeSplit float ((n + 15) / 16) pay
  else if pay.length = n * fmtBytes fmt then some (chunks (16 * fmtBytes fmt) ((n + 15) / 16) pay) else none

/-- The packet follows R192 for opcodes 0x20 to 0x22. A packet of no elements carries no line. -/
def State.collOk (s : State) (c fmt : Nat) (bs : List Byte) : Bool :=
  let e := s.rc c rdxCtx_elements
  bit (hw bs 2) 23 && bit (hw bs 2) 22 && hw bs 7 == 0 && hw bs 8 == 0 && hw bs 9 == 0 && hw bs 10 == 0 &&
    hw bs 12 / 16 == 0 && cFmt bs == fmt && cFirst bs % 16 == 0 && decide (1 ≤ cElems bs) &&
    decide (cFirst bs + cElems bs ≤ e) && (cElems bs % 16 == 0 || cFirst bs + cElems bs == e) &&
    pPay bs == (cPay bs).length && (splitLines (decide (s.rc c rdxCtx_out_fmt ≤ 4)) fmt (cElems bs) (cPay bs)).isSome

/-- The lines that a packet carries: the number of the first, none where its round lies before the first one. Rounds
travel modulo 2^32 (R192): the nearest to the round of base is meant. -/
def State.firstLine (s : State) (c : Nat) (bs : List Byte) : Option Nat :=
  let rb := s.roundOf c (s.base c)
  let d := (cRound bs + 2 ^ 32 - rb % 2 ^ 32) % 2 ^ 32
  let r := if d < 2 ^ 31 then some (rb + d) else if 2 ^ 32 - d ≤ rb then some (rb + d - 2 ^ 32) else none
  r.map fun r => r * s.lpr c + cFirst bs / 16

/-- How many lines a packet carries. -/
def cLines (bs : List Byte) : Nat := (cElems bs + 15) / 16

/-- A packet dropped as bad (R193); it counts on the page of the home engine, or of the first engine of the part where
the context has none. -/
def State.badColl (s : State) (c : Nat) (rank : Option Nat) (code : Code) (bs : List Byte) : State :=
  let b := Blk.rdx (if s.sub c = 0 then 0 else s.home c)
  let s := (s.inc b RDX_BAD_count).raise b cRDX_BAD_PKT
  match rank with
  | none => s
  | some i => s.ackRank c i code (pPsn bs)

/-- A contribution or a partial reaches the reduction path of an ingress tile (R193, R200): dropped, or claimed. A packet
whose e2e_crc fails is accepted on no condition (R83). `gang` names the Gang list that pushes it (R304). -/
def State.collIn (s : State) (op port : Nat) (gang : Option (Nat × Nat)) (bs : List Byte) : State :=
  let s := s.unhand rdxOwner bs
  let c := hw bs 0 % 4096
  let sub := s.sub c
  let i := cRank bs
  let drop (s : State) : State := if gang.isNone then s.collFree port bs.length else s
  if pOp bs ≠ op ∨ bs.length < 56 then drop s
  else if !e2eOk bs then drop ((s.inc (.att (portTile port)) ATT_E2E_CRC_count).raise (.att (portTile port)) cE2E_CRC)
  else if sub = 0 then drop (s.badColl c none .badArg bs)
  else
    let known := ((s.rx c).ranks[i]?).map fun _ => i
    if hw bs 3 % 256 ≠ s.ctx c attCtx_epoch % 256 then drop (s.inc (.rdx (s.home c)) RDX_STALE_count)
    else if sub = 3 then drop (s.badColl c known .aborted bs)
    else match ((s.rx c).ranks[i]?).filter (·.contrib) with
    | none => drop (s.badColl c known .badArg bs)
    | some r =>
      if (!r.remote ∧ r.portId ≠ port) ∨ !s.collOk c r.fmt bs then drop (s.badColl c (some i) .badArg bs)
      else
        let k : RClaim := { rank := i, port := port, vc := 4, bytes := bs, deferred := false
                            flits := !r.remote && gang.isNone, gang := gang }
        let s := if r.remote then drop s else s
        let x := s.rx c
        s.setRx c { x with claims := x.claims ++ [k] }

/-! ## Claims (R200, R201) -/

/-- The mesh packets of an accepted payload: consecutive lines of one engine, up to 256 bytes each, a line at least. -/
def State.meshPkts (s : State) (c rank tile : Nat) : List (Nat × List Byte) → List EngIn → List EngIn
  | [], acc => acc
  | (g, b) :: l, acc =>
    let e := s.engOf c g
    match acc.reverse with
    | p :: rest =>
      if p.eng = e ∧ p.g + p.lines.length = g ∧ (p.lines.foldl (fun v x => v + x.length) 0) + b.length ≤ 256 then
        State.meshPkts s c rank tile l (rest.reverse ++ [{ p with lines := p.lines ++ [b] }])
      else State.meshPkts s c rank tile l (acc ++ [⟨e, tile, c, rank, g, [b]⟩])
    | [] => State.meshPkts s c rank tile l [⟨e, tile, c, rank, g, [b]⟩]

/-- Contributions that arrive after their release (R214). -/
def State.late (s : State) (c n : Nat) : State :=
  if n = 0 ∨ !s.rcb c rdxCtx_quorum then s else (s.add (.rdx (s.home c)) RDX_LATE_count n).prc c rdxCtx_late 1

/-- A claim's request crosses the mesh to the home engine on M1, and its answer comes back on M2, each of one flit: the
claim that waits is the room for its answer (R163, R200). -/
def State.claimHops (s : State) (c : Nat) (k : RClaim) : State :=
  let t := tileRouter (portTile k.port)
  let h := vecRouter (s.home c)
  (s.meshSend 1 1 t h).meshSend 2 1 h t

/-- A claim is answered: its payload travels to the engines of its lines (R201). Lines below the window are late. -/
def State.grant (s : State) (c : Nat) (k : RClaim) : State :=
  let x := s.rx c
  let s := s.setRx c { x with claims := x.claims.erase k }
  let s := if k.flits then s.collFree k.port k.bytes.length else s
  let g0 := (s.firstLine c k.bytes).getD 0
  let ls := (splitLines (decide (s.rc c rdxCtx_out_fmt ≤ 4)) (cFmt k.bytes) (cElems k.bytes) (cPay k.bytes)).getD []
  let all := (indexed ls).map fun e => (g0 + e.1, e.2)
  let s := s.late c (all.filter fun e => decide (e.1 < s.base c)).length
  let ps := s.meshPkts c k.rank (portTile k.port) (all.filter fun e => decide (s.base c ≤ e.1)) []
  let s := ps.foldl (fun s e => s.meshSend 3 (meshFlits e.size) (tileRouter e.tile) (vecRouter e.eng)) s
  { s with engq := s.engq ++ ps }

/-- The last line of a claim lies in the window, or below it where a quorum may have released it (R200, R214). -/
def State.fitsWindow (s : State) (c : Nat) (bs : List Byte) : Bool :=
  match s.firstLine c bs with
  | none => false
  | some g =>
    let last := g + cLines bs - 1
    s.subLive c && (s.inWindow c last || (s.rcb c rdxCtx_quorum && decide (last < s.base c)))

/-- The home engine's answer to a REMOTE rank's claim (R200). -/
def State.judgeRemote (s : State) (c : Nat) (k : RClaim) (r : RRank) : State :=
  let psn := pPsn k.bytes
  let b := Blk.rdx (s.home c)
  let d := (psn + 2 ^ 24 - r.rxCum) % 2 ^ 24
  let drop (s : State) : State := let x := s.rx c; s.setRx c { x with claims := x.claims.erase k }
  if d = 0 ∨ 2 ^ 23 ≤ d ∨ (d ≤ 128 ∧ bit r.rxMap (d - 1)) then
    ((drop s).inc b RDX_DUPS_count).ackRank c k.rank .ok 0
  else if 128 < d then drop s
  else if !s.fitsWindow c k.bytes then
    (((drop s).inc b RDX_WINDOW_REFUSED_count).raise b cRDX_WINDOW).ackRank c k.rank .noResource psn
  else
    let m := putBits r.rxMap (d - 1) 1 1
    let ce := putBits r.ce (d - 1) 1 (b2n (pCe k.bytes))
    let n := runLen 128 m
    let x := s.rx c
    let s := s.setRx c (x.setRank k.rank { r with rxCum := (r.rxCum + n) % 2 ^ 24, rxMap := m / 2 ^ n, ce := ce / 2 ^ n
                                                  sinceAck := r.sinceAck + 1 })
    -- every collective packet has last = 1, so each one accepted is acknowledged (R85, R191)
    (s.grant c k).ackRank c k.rank .ok 0

/-- The home engine looks at the next claim: the first whose port has none deferred before it (R200). -/
def State.claim (s : State) (c : Nat) : State :=
  let x := s.rx c
  let held := (x.claims.filter (·.deferred)).map (·.port)
  match x.claims.find? fun k => !k.deferred && !held.contains k.port with
  | none => s
  | some k =>
    match x.ranks[k.rank]? with
    | none => s
    | some r =>
      if r.remote then (s.claimHops c k).judgeRemote c k r
      else if s.fitsWindow c k.bytes then (s.claimHops c k).grant c k
      else s.setRx c { x with claims := x.claims.map fun y => if y = k then { y with deferred := true } else y }

/-- A deferred LOCAL claim whose last line now lies in the window is answered (R200). -/
def State.claimGrant (s : State) (c : Nat) : State :=
  match (s.rx c).claims.find? fun k => k.deferred && s.fitsWindow c k.bytes with
  | none => s
  | some k => (s.claimHops c k).grant c k

/-! ## Accumulation (R197, R198, R201) -/

/-- The code of element `e` of a line's bytes. -/
def elemAt (fmt e : Nat) (bs : List Byte) : Nat := ofLeBytes (slice (e * fmtBytes fmt) (fmtBytes fmt) bs)

/-- One line of a contribution added to its accumulators, and whether a product was invalid. -/
def addLine (op : RdxOp) (float : Bool) (fmt weight : Nat) (bs : List Byte) (accs : List Xsum) : List Xsum × Bool :=
  let n := if fmt = 9 then 16 else bs.length / max 1 (fmtBytes fmt)
  let r := (indexed accs).map fun e =>
    if n ≤ e.1 then (e.2, false)
    else if fmt = 9 then (e.2.join 320 (xpeElem float bs e.1), false)
    else if op.isSum then
      let v := contribution op weight (decodeScalar fmt (elemAt fmt e.1 bs))
      (e.2.add 320 (lineShift float) v.1, v.2)
    else (e.2.fold op fmt (elemAt fmt e.1 bs), false)
  (r.map (·.1), r.any (·.2))

/-- The sticky flags of a context follow a report (R196, R197). -/
def State.rdxFlags (s : State) (c eng : Nat) (x : Exc) : State :=
  let ovf := hasFlag x.flags .ovf
  let inv := hasFlag x.flags .invalid
  if ovf ∨ inv then
    let s := if ovf then s.prc c rdxCtx_ovf 1 else s
    let s := if inv then s.prc c rdxCtx_invalid 1 else s
    s.raise (.rdx eng) cRDX_INVALID
  else s

/-- One line of a mesh packet reaches its engine. -/
def State.lineIn (s : State) (c rank g : Nat) (bs : List Byte) : State :=
  let x := s.rx c
  match x.ranks[rank]?, (s.shape c).op with
  | some r, some op =>
    if !s.inWindow c g then s.late c (b2n (decide (g < s.base c)))
    else
      let l := x.line g
      let eng := s.engOf c g
      if l.released ∨ x.done.contains g then s.late c 1
      else
        let float := decide (s.rc c rdxCtx_out_fmt ≤ 4)
        let a := addLine op float r.fmt r.weight bs l.accs
        let leaves := if r.fmt = 9 then xpeLeaves bs else 1
        let s := s.setLine c { l with count := l.count + 1, leaves := l.leaves + leaves, accs := a.1 }
        let s := s.add (.rdx eng) RDX_ELEMS_count (s.elemsOf c g)
        if a.2 then s.rdxFlags c eng (Exc.ofFlags Flag.invalid.mask) else s
  | _, _ => s

/-- The tile whose queue an engine serves next, in cyclic order (R201). -/
def State.nextTile (s : State) (n : Nat) : Option Nat :=
  ((upTo 32).map fun i => (s.g (.rdx n) H_RDX_next + i) % 32).find? fun t => !(s.inQueue n t).isEmpty

/-- A packet of an engine's queues taken: its lines are added in turn. -/
def State.takeIn (s : State) (n : Nat) (e : EngIn) : State :=
  (indexed e.lines).foldl (fun s l => s.lineIn e.ctx e.rank (e.g + l.1) l.2)
    ((s.meshGone e false).p (.rdx n) H_RDX_next ((e.tile + 1) % 32))

/-- An engine takes the next packet of its queues (R201): which of those of one tile, the mesh leaves open (R160). -/
def State.accumulate (s : State) (n : Nat) : State :=
  match s.nextTile n with
  | none => s
  | some t =>
    let l := s.inQueue n t
    let r := s.draw
    match l[r.1 % l.length]? with
    | none => s
    | some e => r.2.takeIn n e

/-! ## Completion (R187, R206, R207) -/

/-- The digest of a round (R207). -/
def roundDigest (c round : Nat) (out : List Byte) : List Byte :=
  sha512 (leBytes 2 c ++ leBytes 4 round ++ (chunks 4096 (out.length / 4096 + 1) out).flatMap sha512)

/-- Every line of a round is complete: its digest is taken, and the counter of the context advances. -/
def State.roundDone (s : State) (c r : Nat) : State :=
  let x := s.rx c
  let lo := r * s.lpr c
  let s := if s.rcb c rdxCtx_digest then
      let out := (upTo (s.lpr c)).flatMap fun i => ((x.hist.find? fun e => e.1 == lo + i).map (·.2)).getD []
      let d := roundDigest c (r % 2 ^ 32) out
      let s := s.setEntry .rdxDigest 0 c (r % 2 ^ 32 :: wordsOf 8 d ++ [s.rc c rdxCtx_partition])
      (s.countSha out.length).setRx c { x with hist := x.hist.filter fun e => e.1 < lo ∨ lo + s.lpr c ≤ e.1 }
    else s
  s.signalCtx (s.rc c rdxCtx_partition) (s.rc c rdxCtx_counter) (s.rx c).stamp

/-- base after the lines completed above it. -/
def advance : Nat → Nat → List Nat → Nat × List Nat
  | 0, b, l => (b, l)
  | n + 1, b, l => if l.contains b then advance n (b + 1) (l.filter (· != b)) else (b, l)

/-- COLL_WINDOW to the contributing REMOTE ranks whose window has moved by an eighth (R201). The sender has no rank in the
destination context: what word 11 carries is free (assumption 178). -/
def State.sendWindows (s : State) (c : Nat) : State :=
  let top := s.top c
  (indexed (s.rx c).ranks).foldl (fun s e =>
    let r := e.2
    if r.contrib && r.remote && decide (max 1 (s.rc c rdxCtx_window / 8) ≤ top - r.top) then
      let q := s.draw
      let s := q.2
      let ws := s.rdxWords c 0x23 r.addr r.ctx 0 r.epoch 0 0 0 0 (q.1 % 65536) 0
      let bs := mkPacket (ws.take 9 ++ w64 top ++ ws.drop 11) []
      (s.setRx c ((s.rx c).setRank e.1 { r with top := top })).queueOut c r.port 5 bs
    else s) s

/-- A line is complete (R187): base advances, windows are told, a finished round is counted, and a drained context is
FREE (R190). -/
def State.lineDone (s : State) (c g : Nat) : State :=
  let x := s.rx c
  let l := x.line g
  -- a partial that the parent has not acknowledged keeps its slot (R211)
  let x := { x with lines := x.lines.filter fun y => y.g != g || y.part.isSome, done := g :: x.done
                    hist := if s.rcb c rdxCtx_digest then x.hist ++ [(g, l.res.getD [])] else x.hist }
  let lo := s.roundOf c g * s.lpr c
  let whole := (upTo (s.lpr c)).all fun i => decide (lo + i < s.base c) || x.done.contains (lo + i)
  let top := s.top c
  let (b, rest) := advance (x.done.length) (s.base c) x.done
  -- lines completed above base are remembered until base passes them
  let s := s.setRx c { x with done := rest }
  let s := s.prc c rdxCtx_base b
  let s := if whole then s.roundDone c (s.roundOf c g) else s
  let s := if s.sub c = 1 then s.sendWindows c else s
  if s.sub c = 2 ∧ top ≤ b then s.freeRdx c else s

/-- Complete where the line has been released, has its result, and every recipient has acknowledged it (R187). -/
def State.lineCheck (s : State) (c g : Nat) : State :=
  let x := s.rx c
  match x.lines.find? fun l => l.g == g with
  | none => s
  | some l => if l.released && l.res.isSome && !x.done.contains g && s.inWindow c g && (x.recvs.all fun e => l.acked.contains e.1) then s.lineDone c g else s

/-- A line's result stands in its slot: stored where the context asks (R206). A window that the partition may not write
takes nothing. -/
def State.setResult (s : State) (c g : Nat) (bs : List Byte) : State :=
  let x := s.rx c
  let s := s.setLine c { x.line g with res := some bs, epi := false }
  let s := if s.rcb c rdxCtx_store_copy then
      let p := s.rc c rdxCtx_partition
      let w := s.rc c rdxCtx_store_addr
      let sp := bits w 48 3
      let a := w % 2 ^ 48 + s.firstOf c g * fmtBytes (s.rc c rdxCtx_out_fmt)
      if sp ≤ 2 ∧ a + bs.length ≤ spaceTop sp ∧ s.memMay (0x30 + p) (some p) sp a bs.length .write then s.writeSpace sp a bs
      else s.memDenied
    else s
  s.lineCheck c g

/-! ## Release (R196, R197, R203 to R205) -/

/-- How the elements of a line round (R196, R263). -/
def State.lineHow (s : State) (c g e : Nat) : How :=
  ⟨Rnd.ofVal (s.rc c rdxCtx_rnd), s.rcb c rdxCtx_sat, srBits (s.tw .rdxCtx 0 c 5) (s.roundOf c g) (s.firstOf c g + e)⟩

/-- The elements of a line rounded once to a format, with their report. -/
def State.lineCodes (s : State) (c g fmt : Nat) : List Nat × Exc :=
  match (s.shape c).op with
  | none => ([], Exc.none)
  | some op =>
    let out := s.rc c rdxCtx_out_fmt
    let float := decide (out ≤ 4)
    let l := (s.rx c).line g
    let r := (upTo (s.elemsOf c g)).map fun e =>
      let a := l.accs.getD e Xsum.zero
      let h := s.lineHow c g e
      if op.isSum ∨ fmt = out then a.release op float fmt h l.leaves
      else
        let q := a.release op float out h l.leaves
        let z := encodeScalar fmt h (decodeScalar out q.1)
        (z.1, q.2.add z.2)
    (r.map (·.1), excSum (r.map (·.2)))

/-- The bytes of codes of a format. -/
def codeBytes (fmt : Nat) (l : List Nat) : List Byte := l.flatMap (leBytes (fmtBytes fmt))

/-- An XPE block of a line, and what encoding it reports (R202, R203). -/
def State.lineXpe (s : State) (c g : Nat) : List Byte × Nat × Bool :=
  let l := (s.rx c).line g
  let n := s.elemsOf c g
  let accs := (indexed l.accs).map fun e => if e.1 < n then e.2 else Xsum.zero
  let bs := xpeBlock (decide (s.rc c rdxCtx_out_fmt ≤ 4)) l.leaves accs
  (bs, xpeEscapes bs, accs.any (·.both))

/-- Escapes counted, and both infinities reported (R202). -/
def State.xpeReport (s : State) (c g : Nat) (r : List Byte × Nat × Bool) : State :=
  let eng := s.engOf c g
  let s := s.add (.rdx eng) RDX_ESCAPES_count r.2.1
  let s := if r.2.1 = 0 then s else s.prc c rdxCtx_escaped 1
  if r.2.2 then s.rdxFlags c eng (Exc.ofFlags Flag.invalid.mask) else s

/-- A line has what releases it. -/
def State.reached (s : State) (c g : Nat) : Bool :=
  let x := s.rx c
  s.inWindow c g && !x.done.contains g && !(x.line g).released && decide (s.expected c g ≤ (x.line g).count)

/-- The lines released together with one: itself, or its stripe under row_release (R204); a draining context's last
stripe ends where its window ends. -/
def State.together (s : State) (c g : Nat) : List Nat :=
  if s.rcb c rdxCtx_row_release then
    let st := (s.shape c).stripe
    ((upTo st).map fun i => g / st * st + i).filter fun h => s.sub c == 1 || decide (h < s.top c)
  else [g]

/-- One line released (R204). -/
def State.releaseOne (s : State) (c g : Nat) : State :=
  let x := s.rx c
  let eng := s.engOf c g
  let s := s.setLine c { x.line g with released := true }
  let s := s.inc (.rdx eng) RDX_LINES_count
  let out := s.rc c rdxCtx_out_fmt
  if s.partial_ c then
    if (s.shape c).isSum then
      let r := s.lineXpe c g
      ((s.xpeReport c g r).setLine c { (s.rx c).line g with part := some r.1 }).lineCheck c g
    else
      let r := s.lineCodes c g out
      ((s.rdxFlags c eng r.2).setLine c { (s.rx c).line g with part := some (codeBytes out r.1) }).lineCheck c g
  else if s.rc c rdxCtx_epi_prog ≠ 0 then
    let r := s.lineCodes c g 0
    (s.rdxFlags c eng r.2).setLine c { (s.rx c).line g with epi := true }
  else
    let r := s.lineCodes c g out
    (s.rdxFlags c eng r.2).setResult c g (codeBytes out r.1)

/-- LINE_RELEASE (R204): a line, or its stripe, that has reached its counts. -/
def State.lineRelease (s : State) (c g : Nat) : State :=
  let gs := s.together c g
  if s.subLive c ∧ gs.contains g ∧ gs.all (s.reached c) then gs.foldl (fun s h => s.releaseOne c h) s else s

/-! ## Epilogues (R205, R295) -/

/-- Where an epilogue's source and result lie while it runs: beyond the address space of every vector store. -/
def epiScratch (i : Nat) : Nat := 2 ^ 40 + i * 2 ^ 32

/-- A descriptor that an epilogue names: the released lines, the result slot, or the partition's own, whose vector store
is the engine's die (R295). -/
def State.epiDesc (s : State) (p n i : Nat) (src dst : Desc) : Desc :=
  if i = 0 then src else if i = 1 then dst
  else
    let d := s.desc p i
    if d.space = 2 then ⟨d.ws.set 0 (putBits (d.w 0) 25 4 n)⟩ else d

/-- A flat tensor of one row of `n` elements at an address of the vector store space. -/
def flatDesc (fmt a n : Nat) : Desc := ⟨[a + 2 * 2 ^ 48 + fmt * 2 ^ 51 + 2 ^ 58, n, 0, 0, 0, 0, 0, 0]⟩

/-- The program of an epilogue on die `n`, from an address on: its code and its report; an access that a sound descriptor names
is checked before every value (R479). A row operation needs its rows
`whole` within the stripe (R295). -/
def State.epiRun : Nat → Bool → Nat → Nat → Nat → Desc → Desc → State → Code × Exc × State
  | 0, _, _, _, _, _, _, s => (.badArg, Exc.none, s)
  | k + 1, whole, p, n, a, src, dst, s =>
    let i := Ins.ofBytes (s.readSpace 2 (n * 2 ^ 25 + a % 2 ^ 25) 16)
    let d (j : Nat) : Desc := s.epiDesc p n j src dst
    let may (j : Nat) (r : Right) : Bool := decide (j ≤ 1) || s.tensorMay p (d j) r
    let good (j : Nat) : Bool := s.descOk (d j)
    let denied (l : List (Nat × Right)) : Bool := l.any fun e => good e.1 && !may e.1 e.2
    if !i.ok then (.badArg, Exc.none, s)
    else match i.family with
    | 0 => (.ok, Exc.none, s)
    | 5 =>
      let op := i.lo 56 4
      let a1 := i.hi 0 12
      let a2 := i.hi 12 12
      let aux := (if (epiReads op).1 || op == 8 then [a1] else []) ++ (if (epiReads op).2 then [a2] else [])
      if denied ((i.d0, .write) :: (i.d1, .read) :: aux.map fun j => (j, if op = 8 then .write else .read)) then
        (.denied, Exc.none, s)
      else if !(i.d0 :: i.d1 :: aux).all good ∨ (5 ≤ op ∧ !whole) ∨ !epiOk op (i.lo 60 4) (i.hi 24 8) (d i.d0) (d i.d1) (d a1) (d a2) then
        (.badArg, Exc.none, s)
      else
        let r := s.epiRows op (i.lo 60 4) (i.hi 24 8) (i.hi 32 32) (d i.d0) (d i.d1) (d a1) (d a2)
        let v := ((d i.d1).ext 0 + 511) / 512 * (d i.d1).rows * epiCost op
        let q := State.epiRun k whole p n (a + 16) src dst (r.1.add (.vec n) VEC_EPI_STEPS_steps (4 + v))
        (q.1, r.2.add q.2.1, q.2.2)
    | 6 =>
      let c := Cvt.ofWord (i.hi 0 32) (i.hi 32 32) (i.lo 56 8)
      if denied [(i.d0, .write), (i.d1, .read)] then (.denied, Exc.none, s)
      else if !good i.d0 ∨ !good i.d1 ∨ !s.cvtOk c (d i.d0) (d i.d1) then (.badArg, Exc.none, s)
      else
        let r := s.cvtRows c (d i.d0) (d i.d1)
        let v := ((d i.d1).ext 0 + 511) / 512 * (d i.d1).rows * cvtCost c.dst
        let q := State.epiRun k whole p n (a + 16) src dst (r.1.add (.vec n) VEC_EPI_STEPS_steps (4 + v))
        (q.1, r.2.add q.2.1, q.2.2)
    | _ => (.badArg, Exc.none, s)

/-- The results of lines cut from the result slots of a row. -/
def State.putResults (s : State) (c : Nat) : List Nat → List Byte → State
  | [], _ => s
  | g :: gs, bs =>
    let n := s.elemsOf c g * fmtBytes (s.rc c rdxCtx_out_fmt)
    State.putResults (s.setResult c g (bs.take n)) c gs (bs.drop n)

/-- EPILOGUE (R205, R295): the lines of a release go through the program as one row (assumption 22); for a row operation, a
stripe that lies in two rounds holds no whole row. -/
def State.epilogue (s : State) (c g : Nat) : State :=
  let gs := s.together c g
  let x := s.rx c
  let n := s.engOf c g
  let p := s.rc c rdxCtx_partition
  if !s.subLive c ∨ !gs.all (fun h => (x.line h).epi) then s
  else
    let whole := gs.all fun h => s.roundOf c h == s.roundOf c g
    let codes := gs.flatMap fun h => (s.lineCodes c h 0).1
    let out := s.rc c rdxCtx_out_fmt
    let src := flatDesc 0 (epiScratch 0) codes.length
    let dst := flatDesc out (epiScratch 1) codes.length
    let s := s.writeSpace 2 (epiScratch 0) (codeBytes 0 codes)
    let r := State.epiRun (2 ^ 21) whole p n (s.rc c rdxCtx_epi_prog) src dst s
    let bs := r.2.2.readSpace 2 (epiScratch 1) (codes.length * fmtBytes out)
    let s : State := { r.2.2 with vec := memZero r.2.2.vec (epiScratch 0) (2 ^ 33) }
    if r.1 = .ok then (s.rdxFlags c n r.2.1).putResults c gs bs else s.failRdx c r.1

/-! ## Results and partials sent (R208 to R211) -/

/-- A packet of a context enters a re-injection tile at stage 11 for some ports (R209). -/
def State.reinject (s : State) (eng vc : Nat) (ports : List (Nat × List Byte)) : State :=
  let b := Blk.rdx eng
  let k := s.g b H_RDX_turn
  let tile := 4 * (eng / 2) + 2 * (eng % 2) + k
  let s := s.p b H_RDX_turn (1 - k)
  match ports with
  | [] => s
  | (_, bs) :: _ =>
    let live := ports.filter fun e => s.portTakes e.1
    let s := (ports.filter fun e => !s.portTakes e.1).foldl (fun s _ => s.inc (.swt tile) SWT_DROP_DOWN_count) s
    let ts := portsMasks (live.map (·.1)) fun _ => true
    let q := s.newId
    let cp := { newCp q.1 (32 * tile) vc tile true bs 0xFFFFFF none with mc := decide (1 < live.length) }
    let q := (q.1, q.2.meshSend 3 (meshFlits bs.length) (vecRouter eng) (tileRouter tile))
    let s := ts.foldl (fun s t =>
      s.makeCopies { cp with alts := (live.filter fun e => e.1 / 32 == t.1).map fun e => (e.1 % 32, e.2) } [t] .ingress) q.2
    s.bypass q.1

/-- The result packet of a line for a recipient (R192, R209). -/
def State.resultPkt (s : State) (c g psn i : Nat) (r : RRank) (bs : List Byte) : List Byte :=
  let out := s.rc c rdxCtx_out_fmt
  mkPacket (s.rdxWords c 0x21 (s.rankAddr r) r.ctx psn r.epoch (s.roundOf c g) (s.firstOf c g) (s.elemsOf c g) bs.length i out) bs

/-- The partial packet of a line (R211). -/
def State.partialPkt (s : State) (c g psn : Nat) (bs : List Byte) : List Byte :=
  let x := s.rx c
  let fmt := if (s.shape c).isSum then 9 else s.rc c rdxCtx_out_fmt
  mkPacket (s.rdxWords c 0x22 (s.rc c rdxCtx_parent_addr) (s.rc c rdxCtx_parent_ctx) psn x.parentEpoch (s.roundOf c g)
    (s.firstOf c g) (s.elemsOf c g) bs.length x.parentRank fmt) bs

/-- The copies of a result: one for each egress port at once, and one of its own for each recipient that shares a port
(R208, R216). -/
def portBatches : Nat → List (Nat × List Byte) → List (List (Nat × List Byte))
  | 0, _ => []
  | n + 1, l =>
    if l.isEmpty then []
    else
      let first := l.foldl (fun (a : List (Nat × List Byte)) e => if a.any fun y => y.1 == e.1 then a else a ++ [e]) []
      first :: portBatches n (first.foldl (fun a e => a.erase e) l)

/-- A PSN is not more than 128 ahead of what a stream's receiver has acknowledged (R84). -/
def psnRoom (psn cum : Nat) : Bool := decide ((psn + 2 ^ 24 - cum) % 2 ^ 24 ≤ 128)

/-- The lowest line that has something to send and has not sent it. -/
def lowest (l : List RLine) : Option RLine :=
  l.foldl (fun (r : Option RLine) y => match r with | none => some y | some z => some (if y.g < z.g then y else z)) none

/-- A context with other packets waiting to go out. -/
def RCx.withOut (x : RCx) (l : List (Nat × Nat × List Byte)) : RCx := { x with outq := l }

/-- A packet in a result slot is re-injected (R209): windows and ACKs first, then results, then partials. -/
def State.resultSend (s : State) (c : Nat) : State :=
  let x := s.rx c
  match x.outq with
  | (p, vc, bs) :: l => (s.setRx c (x.withOut l)).reinject (s.home c) vc [(p, bs)]
  | [] =>
    if s.sub c = 0 ∨ s.sub c = 3 then s
    else match lowest (x.lines.filter fun y => y.res.isSome && y.resPsn.isNone) with
    | some l =>
      if !x.recvs.all fun e => psnRoom x.psn e.2.txCum then s
      else
        let bs := l.res.getD []
        let s := s.setRx c { x.setLine { l with resPsn := some x.psn } with psn := (x.psn + 1) % 2 ^ 24 }
        let ps := x.recvs.filterMap fun e => e.2.port.map fun p => (p, s.resultPkt c l.g x.psn e.1 e.2 bs)
        (portBatches ps.length ps).foldl (fun s b => s.reinject (s.engOf c l.g) 5 b) s
    | none =>
      match lowest (x.lines.filter fun y => y.part.isSome && y.partPsn.isNone &&
          x.parentTop.all fun t => decide (y.g < t)) with
      | none => s
      | some l =>
        if !psnRoom x.partPsn x.partCum then s
        else
        let bs := l.part.getD []
        let s := s.setRx c { x.setLine { l with partPsn := some x.partPsn } with partPsn := (x.partPsn + 1) % 2 ^ 24 }
        match x.parentPort with
        | none => s
        | some p => s.reinject (s.engOf c l.g) 4 [(p, s.partialPkt c l.g x.partPsn bs)]

/-! ## Acknowledgements and resends (R93, R187, R210) -/

/-- The rank of a context that an ACK comes from: a recipient at its source address and context. -/
def State.ackFrom (s : State) (c : Nat) (bs : List Byte) : Option (Nat × RRank) :=
  (s.rx c).recvs.find? fun e => hw bs 1 == s.rankAddr e.2 * 4096 + e.2.ctx

/-- A packet marked as a retransmission (R77). -/
def patchRetx (bs : List Byte) : List Byte := patch bs 8 (beBytes 4 (hw bs 2 ||| 2 ^ 21))

/-- A result is resent to a recipient from its slot; at the retry limit the recipient is marked failed and so is its
context (R210). -/
def State.resendTo (s : State) (c : Nat) (l : RLine) (e : Nat × RRank) : State :=
  match l.resPsn, e.2.port with
  | some psn, some p =>
    let n := ((l.tries.find? fun t => t.1 == e.1).map (·.2)).getD 0
    let x := s.rx c
    if s.g (s.rdxAtt c) ATT_CFG_retry_limit ≤ n then
      (s.setRx c (x.setRank e.1 { e.2 with failed := true })).failRdx c .aborted
    else
      let l' := { l with tries := (l.tries.filter fun t => t.1 != e.1) ++ [(e.1, n + 1)] }
      let s := s.setRx c ((x.setLine l').setRank e.1 { e.2 with retx := satAdd 24 e.2.retx 1 })
      (s.inc (.rdx (s.engOf c l.g)) RDX_RES_RETX_count).reinject (s.engOf c l.g) 5
        [(p, patchRetx (s.resultPkt c l.g psn e.1 e.2 (l.res.getD [])))]
  | _, _ => s

/-- A partial is resent to the parent. -/
def State.resendPart (s : State) (c : Nat) (l : RLine) : State :=
  match l.partPsn, (s.rx c).parentPort with
  | some psn, some p =>
    let key := 65536
    let n := ((l.tries.find? fun t => t.1 == key).map (·.2)).getD 0
    if s.g (s.rdxAtt c) ATT_CFG_retry_limit ≤ n then s.failRdx c .aborted
    else
      let l' := { l with tries := (l.tries.filter fun t => t.1 != key) ++ [(key, n + 1)] }
      let bs := s.partialPkt c l.g psn (l.part.getD [])
      ((s.setLine c l').inc (.rdx (s.engOf c l.g)) RDX_RES_RETX_count).reinject (s.engOf c l.g) 4
        [(p, patchRetx bs)]
  | _, _ => s

/-- A packet of a context's streams has gone unacknowledged too long, or a NO_RESOURCE refusal of it has waited its time
(R93, R210). -/
def State.rdxTimeout (s : State) (c psn : Nat) : State :=
  let x := s.rx c
  if !(s.subLive c || s.sub c == 4) then s
  else
    let s := match x.lines.find? fun l => l.part.isSome && l.partPsn == some psn with
      | some l => s.resendPart c l
      | none => s
    match x.lines.find? fun l => l.res.isSome && l.resPsn == some psn with
    | none => s
    | some l => (x.recvs.filter fun e => !l.acked.contains e.1).foldl (fun s e => s.resendTo c ((s.rx c).line l.g) e) s

/-- An ACK of a recipient's result stream (R187, R210). -/
def State.ackResults (s : State) (c : Nat) (bs : List Byte) (i : Nat) (r : RRank) : State :=
  let cum := pPsn bs
  let sack := beAt bs 20 16
  let has (q : Nat) : Bool := ackHas cum sack q
  let x := s.rx c
  let hit := (x.lines.filter fun l => match l.resPsn with | none => false | some q => has q && !l.acked.contains i).map (·.g)
  let x := { x with lines := x.lines.map fun (l : RLine) => if hit.contains l.g then { l with acked := i :: l.acked } else l }
  let x := x.setRank i { r with txCum := if psnBehind r.txCum cum then cum else r.txCum }
  let s := hit.foldl (fun s g => s.lineCheck c g) (s.setRx c x)
  let code := hw bs 4 / 2 ^ 24
  let gap := s.g (s.rdxAtt c) ATT_CFG_reorder_gap
  let nak := if code = 0 then none else some (hw bs 4 % 2 ^ 24)
  let miss := (s.rx c).lines.filter fun l =>
    match l.resPsn with
    | none => false
    | some q => !l.acked.contains i && !(l.tries.any fun t => t.1 == i) && some q != nak && decide (gap ≤ ackLater cum sack q)
  miss.foldl (fun (s : State) (l : RLine) => s.resendTo c ((s.rx c).line l.g) (i, ((s.rx c).ranks[i]?).getD r)) s

/-- An ACK of the parent: the partials it names leave their slots, and one that it shows missing goes again (R84, R93,
R211). -/
def State.ackPartials (s : State) (c : Nat) (bs : List Byte) : State :=
  let cum := pPsn bs
  let sack := beAt bs 20 16
  let x := s.rx c
  let ls := x.lines.map fun (l : RLine) =>
    match l.partPsn with
    | none => l
    | some q => if ackHas cum sack q then { l with part := none } else l
  let s := s.setRx c { x with
    lines := ls.filter fun l => l.part.isSome || decide (s.base c ≤ l.g) && !x.done.contains l.g
    partCum := if psnBehind x.partCum cum then cum else x.partCum }
  let gap := s.g (s.rdxAtt c) ATT_CFG_reorder_gap
  let nak := if hw bs 4 / 2 ^ 24 = 0 then none else some (hw bs 4 % 2 ^ 24)
  let miss := (s.rx c).lines.filter fun l =>
    match l.partPsn with
    | none => false
    | some q => l.part.isSome && !(l.tries.any fun t => t.1 == 65536) && some q != nak && decide (gap ≤ ackLater cum sack q)
  miss.foldl (fun (s : State) (l : RLine) => s.resendPart c ((s.rx c).line l.g)) s

/-- An ACK that reaches the reduction path (R79, R210, R211). -/
def State.rdxAckIn (s : State) (bs : List Byte) : State :=
  let s := s.unhand rdxOwner bs
  let c := hw bs 0 % 4096
  if pOp bs ≠ 0x07 ∨ bs.length < 56 ∨ !e2eOk bs then s
  else if s.sub c = 0 ∨ s.sub c = 3 then s
  else if hw bs 3 % 256 ≠ s.ctx c attCtx_epoch % 256 then s.inc (.rdx (s.home c)) RDX_STALE_count
  else match s.ackFrom c bs with
    | some (i, r) => s.ackResults c bs i r
    | none =>
      if s.partial_ c ∧ hw bs 1 = s.rc c rdxCtx_parent_addr * 4096 + s.rc c rdxCtx_parent_ctx then s.ackPartials c bs
      else s.badColl c none .badArg bs

/-- An attach engine acknowledges a result for a LOCAL rank once the accelerator's link has accepted its last flit (R210):
the ACK for the packet, whose cumulative PSN stands below every result that the rank has not yet acknowledged. -/
def State.localAck (s : State) (pkt : List Byte) : List Byte :=
  let c := hw pkt 1 % 4096
  let psn := pPsn pkt
  let x := s.rx c
  let i := cRank pkt
  let open_ := x.lines.filterMap fun l => if l.acked.contains i then none else l.resPsn.filter (· != psn)
  let low := open_.foldl (fun a q => if psnBehind q a then q else a) ((psn + 1) % 2 ^ 24)
  let cum := (low + 2 ^ 24 - 1) % 2 ^ 24
  let d := (psn + 2 ^ 24 - cum) % 2 ^ 24
  let map := if 1 ≤ d ∧ d ≤ 128 then putBits 0 (d - 1) 1 1 else 0
  let ws := [hw pkt 1, hw pkt 0, word2 0x07 true true false, cum * 256 + s.ctx c attCtx_epoch % 256, 0]
  mkPacket (ws ++ w128 map ++ [0, 0, 0, 0]) []

/-- The acknowledgements that an attach engine owes are sent once the partner has accepted their flits (R210). -/
def State.acceptOwed (s : State) (port : Nat) : State :=
  match s.ll port with
  | none => s
  | some l =>
    let due := l.owed.filter fun e => !(l.replay.any fun f => f.1 == e.1)
    let s := s.setLl port { l with owed := l.owed.filter fun e => l.replay.any fun f => f.1 == e.1 }
    due.foldl (fun s e => s.hand rdxOwner (s.localAck e.2)) s

/-! ## Results from a parent (R211) -/

/-- A COLL_WINDOW follows R191 and R192: one packet of one flit with no payload, and zeros where R192 gives them. -/
def windowOk (bs : List Byte) : Bool :=
  bit (hw bs 2) 23 && bit (hw bs 2) 22 && hw bs 7 == 0 && hw bs 8 == 0 && hw bs 12 / 16 == 0 && pPay bs == 0 &&
    bs.length == 56

/-- The checks of a packet from the parent: its context, where it is taken. -/
def State.fromParent (s : State) (op port : Nat) (bs : List Byte) : Option Nat × State :=
  let s := s.unhand rdxOwner bs
  let c := hw bs 0 % 4096
  if pOp bs ≠ op ∨ bs.length < 56 then (none, s)
  else if !e2eOk bs then (none, (s.inc (.att (portTile port)) ATT_E2E_CRC_count).raise (.att (portTile port)) cE2E_CRC)
  else if s.sub c = 0 then (none, s.badColl c none .badArg bs)
  else if hw bs 3 % 256 ≠ s.ctx c attCtx_epoch % 256 then (none, s.inc (.rdx (s.home c)) RDX_STALE_count)
  else if s.sub c = 3 ∨ (op = 0x23 ∧ !windowOk bs) ∨ !s.partial_ c ∨ hw bs 1 ≠ s.rc c rdxCtx_parent_addr * 4096 + s.rc c rdxCtx_parent_ctx then
    (none, s.badColl c none .badArg bs)
  else (some c, s)

/-- An ACK to the parent. -/
def State.ackParent (s : State) (c : Nat) : State :=
  let x := s.rx c
  s.queueOut c x.parentPort 2 (s.rdxAck c (s.rc c rdxCtx_parent_addr) (s.rc c rdxCtx_parent_ctx) x.parentEpoch x.parentCum 0 0
    x.parentMap 0)

/-- COLL_RESULT (R211): the final results of lines come back from the parent. -/
def State.collResult (s : State) (port : Nat) (bs : List Byte) : State :=
  match s.fromParent 0x21 port bs with
  | (none, s) => s
  | (some c, s) =>
    let x := s.rx c
    let out := s.rc c rdxCtx_out_fmt
    let d := (pPsn bs + 2 ^ 24 - x.parentCum) % 2 ^ 24
    if !s.collOk c out bs then s.badColl c none .badArg bs
    else if d = 0 ∨ 2 ^ 23 ≤ d ∨ (d ≤ 128 ∧ bit x.parentMap (d - 1)) then (s.inc (.rdx (s.home c)) RDX_DUPS_count).ackParent c
    else if 128 < d then s
    else
      let m := putBits x.parentMap (d - 1) 1 1
      let n := runLen 128 m
      let s := s.setRx c { x with parentCum := (x.parentCum + n) % 2 ^ 24, parentMap := m / 2 ^ n }
      let g0 := (s.firstLine c bs).getD 0
      let ls := (splitLines (decide (out ≤ 4)) out (cElems bs) (cPay bs)).getD []
      let s := (indexed ls).foldl (fun s e =>
        let g := g0 + e.1
        let l := (s.rx c).line g
        if s.inWindow c g && !(s.rx c).done.contains g && l.res.isNone then s.setResult c g e.2 else s) s
      s.ackParent c

/-- COLL_WINDOW (R201): what the parent now takes. -/
def State.collWindow (s : State) (port : Nat) (bs : List Byte) : State :=
  match s.fromParent 0x23 port bs with
  | (none, s) => s
  | (some c, s) =>
    let t := beAt bs 36 8
    let x := s.rx c
    s.setRx c { x with parentTop := some (max t (x.parentTop.getD 0)) }

/-! ## Save and restore (R213) -/

/-- The XPE block in which a line is saved: its sum, or the running codes of a MIN, MAX or bitwise line, as windows at
accumulator bit 0 (assumption 23). -/
def State.saveBlock (s : State) (c g : Nat) : List Byte × Nat × Bool :=
  let l := (s.rx c).line g
  let float := decide (s.rc c rdxCtx_out_fmt ≤ 4)
  if (s.shape c).isSum then s.lineXpe c g
  else
    let w0 := toCode 16 (-(lineShift float : Int)) + maskOf (l.accs.map fun a => !a.terms) * 2 ^ 32 + b2n (!float) * 2 ^ 48
    let w1 := (indexed l.accs).foldl (fun v e => v + (if e.2.nan then 3 else 0) * 2 ^ (2 * e.1)) 0 + l.leaves % 2 ^ 32 * 2 ^ 32
    (leBytes 8 w0 ++ leBytes 8 w1 ++ l.accs.flatMap fun a => leBytes 8 (if a.nan then 0 else a.sum), 0, false)

/-- The accumulators that a saved block holds. -/
def State.loadBlock (s : State) (c : Nat) (bs : List Byte) : List Xsum :=
  let float := decide (s.rc c rdxCtx_out_fmt ≤ 4)
  if (s.shape c).isSum then xpeElems float bs
  else
    let w0 := ofLeBytes (slice 0 8 bs)
    let w1 := ofLeBytes (slice 8 8 bs)
    (upTo 16).map fun e =>
      { Xsum.zero with sum := ofLeBytes (slice (16 + 8 * e) 8 bs), nan := bits w1 (2 * e) 2 == 3, terms := !bit w0 (32 + e) }

/-- The line header of a save image: g, count and leaves, 8 bytes each, then zeros (assumption 23). -/
def saveHeader (l : RLine) : List Byte := leBytes 8 l.g ++ leBytes 8 l.count ++ leBytes 8 l.leaves ++ leBytes 8 0

/-- The engine queues of a context served to the end. -/
def State.serveAll : Nat → Nat → State → State
  | 0, _, s => s
  | n + 1, c, s =>
    match s.engq.find? fun e => e.ctx == c with
    | none => s
    | some e =>
      let s := s.meshGone e false
      State.serveAll n c ((indexed e.lines).foldl (fun s l => s.lineIn e.ctx e.rank (e.g + l.1) l.2) s)

/-- SAVE (R213): the code and the state. -/
def State.rdxSave (s : State) (m n c : Nat) : Code × State :=
  let b := Blk.rdx n
  let host := s.gb b RDX_CMD_ADDR_host
  let a := s.g b RDX_CMD_ADDR_addr
  if s.sub c ≠ 1 then (.refusedState, s)
  else
    let s' := State.serveAll s.engq.length c s
    let ls := (upTo (s'.rc c rdxCtx_window)).map fun i => s'.base c + i
    let r := ls.foldl (fun (r : List Byte × State) g =>
      let k := r.2.saveBlock c g
      (r.1 ++ saveHeader ((r.2.rx c).line g) ++ k.1, r.2.xpeReport c g k)) ([], s')
    if !s.bufMay m host a r.1.length .write then (.denied, s)
    else (.ok, (r.2.writeBuf (masterFn (mst m)) host 0 a r.1).prc c rdxCtx_sub 4)

/-- The lines of an image from an address on: none where a header or a block breaks R213. -/
def State.loadLines (s : State) (c fn : Nat) (host : Bool) : Nat → Nat → List RLine → Option (List RLine)
  | 0, _, l => some l
  | n + 1, a, l =>
    let h := s.readBuf fn host 0 a 32
    let g := ofLeBytes (slice 0 8 h)
    let size := xpeSize (s.readBuf fn host 0 (a + 32) 16)
    let bs := s.readBuf fn host 0 (a + 32) size
    if s.inWindow c g ∧ xpeOk (decide (s.rc c rdxCtx_out_fmt ≤ 4)) bs then
      State.loadLines s c fn host n (a + 32 + size) (l ++ [{ (s.rx c).line g with
        count := ofLeBytes (slice 8 8 h), leaves := ofLeBytes (slice 16 8 h), accs := s.loadBlock c bs }])
    else none

/-- RESTORE (R213). -/
def State.rdxRestore (s : State) (m n c : Nat) : Code × State :=
  let b := Blk.rdx n
  let host := s.gb b RDX_CMD_ADDR_host
  let a := s.g b RDX_CMD_ADDR_addr
  let k := s.rc c rdxCtx_window
  if s.sub c ≠ 4 then (.refusedState, s)
  else if !s.bufMay m host a (176 * k) .read then (.denied, s)
  else match s.loadLines c (masterFn (mst m)) host k a [] with
    | none => (.integrity, s)
    | some ls =>
      let keep := ls.filter fun l => !(s.rx c).done.contains l.g && (l != RLine.fresh l.g || (s.rx c).lines.any fun y => y.g == l.g)
      (.ok, (keep.foldl (fun s l => s.setLine c l) s).prc c rdxCtx_sub 1)

/-! ## Commands (R190, R213) -/

/-- RETIRE (R190). A window whose lines are all complete is drained at once. -/
def State.rdxRetire (s : State) (c : Nat) : Code × State :=
  if s.sub c ≠ 1 then (.refusedState, s)
  else
    let x := s.rx c
    let top := s.top c
    (.ok, (s.setRx c { x with drain := some top }).prc c rdxCtx_sub 2)

/-- The partition of a context, seen by the row filter (R363). -/
def State.rdxRow (s : State) (m c : Nat) : Bool :=
  match vfPart (mst m) with
  | none => true
  | some p => s.rc c rdxCtx_partition == p

/-- A write of RDX_CMD (R188 to R190, R213): SAVE and RESTORE report their code once their transfer ends (assumption 11). -/
def State.rdxCommand (s : State) (m n v : Nat) : State :=
  let b := Blk.rdx n
  let st := 0x138
  let op := bits v 0 3
  let c := bits v 3 12
  s.onWrite m b.page 0x128 fun b =>
    if bit (s.reg b st) 8 then s.refuse m b 0x128 .refusedState
    else if op = 0 ∨ 5 < op then s.refuseOp m b 0x128 st
    else
      let (k, s) := match op with
        | 1 => s.rdxAdmit m n c
        | 2 => if s.sub c ≠ 1 then (Code.refusedState, s) else if !s.rdxRow m c then (.denied, s) else s.rdxRetire c
        | 3 => if s.sub c = 0 then (Code.refusedState, s) else if !s.rdxRow m c then (.denied, s) else (.ok, s.resetRdx c)
        | 4 => if s.sub c ≠ 1 then (Code.refusedState, s) else if !s.rdxRow m c then (.denied, s) else s.rdxSave m n c
        | _ => if s.sub c ≠ 4 then (Code.refusedState, s) else if !s.rdxRow m c then (.denied, s) else s.rdxRestore m n c
      if k.refuses then (s.refuse m b 0x128 k).finish b st k
      else if op = 4 ∨ op = 5 then (s.setBusy b st).addJob ⟨.rdxCmd, b.page, st, k, c, op, m⟩
      else s.finish b st k

/-- A SAVE or RESTORE of an engine's page ends: its status is written (R213). -/
def State.rdxCmdDone (s : State) (n : Nat) : State :=
  let b := Blk.rdx n
  match s.job .rdxCmd b.page 0x138 with
  | none => s
  | some j => ((s.dropJob .rdxCmd b.page 0x138).p b ⟨0x138, 8, 1⟩ 0).finish b 0x138 j.code

end Sys2Proof.Machine
end

