-- ==== Sys2Proof/Machine/SmallOps.lean ====
section
/-! DEFINITION. The Roost's small collectives (R215 to R218). -/

namespace Sys2Proof.Machine

/-- A slot's own record, beside its entry. -/
def State.sc (s : State) (i : Nat) : ScOpen := (s.scs.find? fun x => x.slot == i).getD ⟨i, false, false, [], []⟩

/-- A slot's record replaced. -/
def State.setSc (s : State) (x : ScOpen) : State := { s with scs := (s.scs.filter fun y => y.slot != x.slot) ++ [x] }

/-- A field of a slot's entry. -/
def State.scf (s : State) (i : Nat) (f : Fld) : Nat := s.t .scSlot 0 i f

/-- The bytes of one item. -/
def State.scItem (s : State) (i : Nat) : Nat := if s.scf i scSlot_width = 1 then 8 else 4

/-- The bytes that a participant sends. A barrier has no items. -/
def State.scBytes (s : State) (i : Nat) : Nat := if s.scf i scSlot_op = 0 then 0 else s.scf i scSlot_n * s.scItem i

/-- The fields of a slot agree with the operation table and with R217. -/
def State.scOk (s : State) (i : Nat) : Bool :=
  let op := s.scf i scSlot_op
  let w := s.scf i scSlot_width
  let f := s.scf i scSlot_float
  let n := s.scf i scSlot_n
  let u := s.scf i scSlot_unsigned
  let p := s.scf i scSlot_participants
  decide (op ≤ 7) && (u == 0 || ((op == 2 || op == 3) && w == 1 && f == 0)) &&
    (op == 0 || (decide (1 ≤ n) && decide (n ≤ if w = 1 then 8 else 16))) && decide (1 ≤ p) && decide (p ≤ 512) &&
    decide (s.scf i scSlot_part_base + p ≤ 65536) &&
    (match op with
    | 1 | 2 | 3 => w + f == 1
    | 4 | 5 | 6 => w == 1 && f == 0
    | 7 => w == 0 && f == 0
    | _ => true)

/-- The format code of a slot's items: FP32, INT64 or UINT64. -/
def State.scFmt (s : State) (i : Nat) : Nat :=
  if s.scf i scSlot_float = 1 then 0 else if s.scf i scSlot_unsigned = 1 then 8 else 6

/-- Item `j` of a participant. -/
def itemOf (sz j : Nat) (bs : List Byte) : Nat := ofLeBytes (slice (sz * j) sz bs)

/-- Item `j` of the result over the participants' items, with its report (R216). -/
def State.scFold (s : State) (i j : Nat) (items : List (List Byte)) : Nat × Exc :=
  let sz := s.scItem i
  let fmt := s.scFmt i
  let float := decide (fmt = 0)
  match RdxOp.ofVal (match s.scf i scSlot_op with | 1 => 0 | 2 => 3 | 3 => 4 | 4 => 5 | 5 => 6 | _ => 7) with
  | none => (0, Exc.none)
  | some op =>
    let a := items.foldl (fun (a : Xsum) bs =>
      if op.isSum then a.add 320 (lineShift float) (decodeScalar fmt (itemOf sz j bs)) else a.fold op fmt (itemOf sz j bs)) Xsum.zero
    a.release op float fmt How.rne items.length

/-- The result of a slot for a participant: its bytes and report (R216, R218). -/
def State.scResult (s : State) (i : Nat) (who : Nat) (got : List (Nat × List Byte)) : List Byte × Exc :=
  let n := s.scf i scSlot_n
  let sz := s.scItem i
  match s.scf i scSlot_op with
  | 0 => ([], Exc.none)
  | 7 =>
    let sum (l : List (Nat × List Byte)) (j : Nat) : Nat := l.foldl (fun v e => v + itemOf 4 j e.2) 0
    ((upTo n).flatMap (fun j => leBytes 8 (sum got j)) ++
      (upTo n).flatMap (fun j => leBytes 8 (sum (got.filter fun e => decide (e.1 < who)) j)), Exc.none)
  | _ =>
    let r := (upTo n).map fun j => s.scFold i j (got.map (·.2))
    (r.flatMap fun e => leBytes sz e.1, excSum (r.map (·.2)))

/-- A result packet for a participant (R192, R215). -/
def State.scPacket (s : State) (i who seq : Nat) (bs : List Byte) : Nat × List Byte :=
  let p := s.scf i scSlot_part_base + who
  let ws := [s.t .scPart 0 p scPart_addr * 4096 + s.t .scPart 0 p scPart_ctx, (s.synAddr.getD 0) * 4096 + i,
    word2 0x25 true true false, 0, seq, 0, 0, 0, 0, 0, 0, bs.length * 2 ^ 16 + who, 0]
  (s.t .scPart 0 p scPart_port, mkPacket ws bs)

/-- Copies of a slot's results leave on VC 0 (R216). They enter at the tile of each egress port (assumption 25). -/
def State.scSend (s : State) (l : List (Nat × List Byte)) : State :=
  l.foldl (fun s e =>
    if !s.portTakes e.1 then s.inc (.swt (portTile e.1)) SWT_DROP_DOWN_count
    else
      let q := s.newId
      let cp := newCp q.1 e.1 0 (portTile e.1) true e.2 0xFFFFFF none
      (q.2.makeCopies cp [(portTile e.1, 2 ^ localPort e.1, true)] .ingress).bypass q.1) s

/-- The open seq of a slot closes: the record is written, every participant is sent the result (R216, R218). -/
def State.scClose (s : State) (i : Nat) (x : ScOpen) : State :=
  let seq := s.scf i scSlot_seq
  let r := s.scResult i 0 x.got
  let s := s.clearTab .scResult 0 i 1
  let s := s.setEntry .scResult 0 i ((seq + 2 ^ 32 + b2n (hasFlag r.2.flags .ovf) * 2 ^ 33 +
    b2n (hasFlag r.2.flags .invalid) * 2 ^ 34) :: wordsOf ((r.1.length + 7) / 8) r.1)
  let s := (s.inc .syn SYN_SC_DONE_count).setSc { x with opened := false, everDone := true, last := x.got, got := [] }
  s.scSend ((upTo (s.scf i scSlot_participants)).map fun w => s.scPacket i w seq (s.scResult i w x.got).1)

/-- A contribution dropped as early (R215). -/
def State.scEarly (s : State) : State := (s.inc .syn SYN_SC_EARLY_count).raise .syn cSC_EARLY

/-- A contribution added to the open seq (R215, R216). -/
def State.scAdd (s : State) (i who : Nat) (bs : List Byte) : State :=
  let x := s.sc i
  if x.got.any fun e => e.1 == who then s.inc .syn SYN_SC_DUPS_count
  else
    let x := { x with got := x.got ++ [(who, bs)] }
    if x.got.length = s.scf i scSlot_participants then s.scClose i x else s.setSc x

/-- COLL_SMALL (R215). -/
def State.collSmall (s : State) (port : Nat) (bs : List Byte) : State :=
  let s := s.unhand synOwner bs
  let i := hw bs 0 % 4096
  let seq := hw bs 4
  let who := cRank bs
  if 56 ≤ bs.length ∧ !e2eOk bs then (s.inc (.att (portTile port)) ATT_E2E_CRC_count).raise (.att (portTile port)) cE2E_CRC
  else if pOp bs ≠ 0x24 ∨ bs.length < 56 ∨ 1023 < i ∨ s.scf i scSlot_open ≠ 1 ∨ s.scf i scSlot_participants ≤ who ∨
      !s.tb .scPart 0 (s.scf i scSlot_part_base + who) scPart_valid ∨ (cPay bs).length ≠ s.scBytes i then s.scEarly
  else
    let x := s.sc i
    let last := s.t .scResult 0 i scResult_seq
    if x.opened ∧ seq = s.scf i scSlot_seq then s.scAdd i who (cPay bs)
    else if x.everDone ∧ seq = last then s.scSend [s.scPacket i who last (s.scResult i who x.last).1]
    else if !x.opened ∧ seq = (if x.everDone then (last + 1) % 2 ^ 32 else 0) then
      let s := (s.pt .scSlot 0 i scSlot_seq seq).pt .scResult 0 i scResult_valid 0
      (s.setSc { x with opened := true, got := [] }).scAdd i who (cPay bs)
    else s.scEarly

/-- OPEN of a slot (R217): nothing has completed since. -/
def State.scOpen (s : State) (i : Nat) : Code × State :=
  if s.scf i scSlot_open = 1 then (.refusedState, s)
  else if !s.scOk i then (.badArg, s)
  else (.ok, ((s.pt .scSlot 0 i scSlot_open 1).pt .scSlot 0 i scSlot_seq 0).setSc ⟨i, false, false, [], []⟩)

/-- CLOSE of a slot (R215): an open seq is discarded. -/
def State.scShut (s : State) (i : Nat) : Code × State :=
  if s.scf i scSlot_open = 1 then
    (.ok, { (s.pt .scSlot 0 i scSlot_open 0) with scs := s.scs.filter fun y => y.slot != i })
  else (.refusedState, s)

/-- The row filter on a slot: a virtual function reaches its own partition's (R363). -/
def State.ownSlot (s : State) (m i : Nat) : Bool :=
  match vfPart (mst m) with
  | none => true
  | some p => s.scf i scSlot_partition == p

/-- A write of SYN_SC_CMD. The row filter opens a slot to its own partition (R363). -/
def State.scCommand (s : State) (m v : Nat) : State :=
  let i := bits v 2 10
  s.onWrite m Blk.syn.page 0x418 fun b =>
    if bits v 0 2 = 0 ∨ bits v 0 2 = 3 then s.refuseOp m b 0x418 0x420
    else
      let (k, s) := if s.ownSlot m i then
          (if bits v 0 2 = 1 then s.scOpen i else s.scShut i) else (Code.denied, s)
      (if k.refuses then s.refuse m b 0x418 k else s).finish b 0x420 k

end Sys2Proof.Machine
end

