-- ==== Sys2Proof/Machine/MmOps.lean ====
section
/-! DEFINITION. Products on the Gang: how an operation is cut into units and tiles, the exact sums of its columns, its
outputs and full forms, its steps, and the save and the resumption of a part of it (R271, R276 to R280, R288 to R291,
R307, R312). -/

namespace Sys2Proof.Machine

/-! ## Operands (R270, R271) -/

/-- A value rounded to the grid of BF16, whose exponent range does not bound it (R271). -/
def bf16Piece (v : Ev) : Ev :=
  match v with
  | .fin s n d => if n = 0 then v else let q := bf16.onGrid How.rne n d; Ev.dyadic s q.1 q.2.1
  | v => v

/-- The pieces of an operand: one where it is not FP32; further pieces of zero take no part. -/
def pieces (fp : Bool) (v : Ev) : List Ev :=
  match fp, v with
  | true, .fin _ _ _ =>
    let a := bf16Piece v
    let r := (v.add a.negate).1
    let b := bf16Piece r
    let c := bf16Piece (r.add b.negate).1
    a :: ([b, c].filter fun e => !e.isZero)
  | _, v => [v]

/-- The products of two operands that a pass setting sums (R271). -/
def pieceProducts (passes : Nat) (xf wf : Bool) (a b : Ev) : List (Ev × Bool) :=
  (indexed (pieces xf a)).flatMap fun x =>
    ((indexed (pieces wf b)).filter fun y => decide (x.1 + y.1 + 1 ≤ passes)).map fun y => x.2.mul y.2

/-- The sweeps of a product (R271). -/
def sweeps (passes : Nat) (xf wf : Bool) : Nat :=
  if xf && wf then (match passes with | 1 => 1 | 2 => 3 | _ => 6) else if xf || wf then passes else 1

/-- The formats that may stand as X, and as W (R270). -/
def xFmtOk (f : Nat) : Bool := decide (f ≤ 4) || f == 10 || f == 11 || (decide (13 ≤ f) && decide (f ≤ 18))
def wFmtOk (f : Nat) : Bool := xFmtOk f || f == 12 || f == 19 || f == 20

/-! ## The cut (R288) -/

/-- A product: its rows, output columns, reduction and batches, its tile depth and first array, and its operands by
(batch, row, depth) and (batch, depth, column), with the flags of their decoding. -/
structure Prod where
  rows : Nat
  outs : Nat
  red : Nat
  batches : Nat
  kt : Nat
  a0 : Nat
  passes : Nat
  xf : Bool
  wf : Bool
  x : Nat → Nat → Nat → Ev × Nat
  w : Nat → Nat → Nat → Ev × Nat

def Prod.fold (p : Prod) : Nat := foldOf p.outs
def Prod.blocks (p : Prod) : Nat := blocksOf p.outs
def Prod.tiles (p : Prod) : Nat := tilesOf p.kt p.red p.outs
def Prod.chunks (p : Prod) : Nat := (p.rows + 63) / 64
def Prod.units (p : Prod) : Nat := p.batches * p.chunks * p.blocks

/-- The batch, row chunk and output block of a unit. -/
def Prod.unit (p : Prod) (u : Nat) : Nat × Nat × Nat := (u / (p.blocks * p.chunks), u / p.blocks % p.chunks, u % p.blocks)

/-- The rows of a chunk. -/
def Prod.chunkRows (p : Prod) (c : Nat) : Nat := min 64 (p.rows - 64 * c)

/-- The output columns of a block. -/
def Prod.blockOuts (p : Prod) (nb : Nat) : List Nat := (upTo (min 512 (p.outs - 512 * nb))).map (512 * nb + ·)

/-- The units that each array takes: those of its home, then those whose home is not among the arrays, dealt in cyclic
order (R288, R312). -/
def Prod.deal (p : Prod) (arrays : List Nat) : List (Nat × List Nat) :=
  let us := upTo p.units
  let away := us.filter fun u => !arrays.contains ((p.a0 + u) % 16)
  (indexed arrays).map fun e =>
    (e.2, (us.filter fun u => (p.a0 + u) % 16 == e.2) ++
      ((indexed away).filter fun x => x.1 % arrays.length == e.1).map (·.2))

/-- The tiles that an array passes in all; a unit without a tile counts as one place. -/
def Prod.places (p : Prod) : Nat := max 1 p.tiles

/-! ## Exact sums (R277, R278) -/

/-- A run of the reduction added to an accumulator. -/
def Prod.sumRun (p : Prod) (b m n lo hi : Nat) (a : Xsum) : Xsum :=
  (upTo (hi - lo)).foldl (fun a i =>
    (pieceProducts p.passes p.xf p.wf (p.x b m (lo + i)).1 (p.w b (lo + i) n).1).foldl (fun a e => a.addProduct e.1) a) a

/-- The tiles `[t0, t1)` of a fold group added to an accumulator. -/
def Prod.sumTiles (p : Prod) (b m n g t0 t1 : Nat) (a : Xsum) : Xsum :=
  (upTo (t1 - t0)).foldl (fun a i =>
    let lo := ((t0 + i) * p.fold + g) * p.kt
    p.sumRun b m n (min p.red lo) (min p.red (lo + p.kt)) a) a

/-- The depth of the first offending product of an element (R275). -/
def Prod.badDepth (p : Prod) (b m n : Nat) : Option Nat :=
  ((upTo p.red).foldl (fun (r : Option Nat × Bool × Bool) k =>
    match r.1 with
    | some _ => r
    | none =>
      let l := pieceProducts p.passes p.xf p.wf (p.x b m k).1 (p.w b k n).1
      let pos := r.2.1 || l.any fun e => e.1 == .inf false
      let neg := r.2.2 || l.any fun e => e.1 == .inf true
      (if (l.any fun e => e.2) || (pos && neg) then some k else none, pos, neg)) (none, false, false)).1

/-- The flags that decoding the operands of an element raises. -/
def Prod.opFlags (p : Prod) (b m n : Nat) : Nat :=
  (upTo p.red).foldl (fun f k => f ||| (p.x b m k).2 ||| (p.w b k n).2) 0

/-! ## Outputs (R280) -/

/-- Where the results of a product go: its Y tensor and rounding, and its full forms. -/
structure MmOut where
  y : Desc
  rnd : Nat
  sat : Bool
  seed : Nat
  stream : Nat
  accIn : Bool
  accOut : Bool
  round : Bool
  space : Nat
  addr : Nat

/-- A run of a product so far: the state, its flags and saturations, its first offending product. -/
structure MmRun where
  st : State
  flags : Nat
  sat : Nat
  coord : Option (Nat × Nat × Nat)

/-- The lesser of two coordinates. -/
def coordMin (a b : Option (Nat × Nat × Nat)) : Option (Nat × Nat × Nat) :=
  match a, b with
  | none, r => r
  | r, none => r
  | some (m, n, k), some (m', n', k') =>
    if m < m' ∨ (m = m' ∧ (n < n' ∨ (n = n' ∧ k ≤ k'))) then a else b

/-- The exact sum of an element finished: joined with what it accumulates onto, rounded and written. -/
def MmRun.finish (r : MmRun) (p : Prod) (o : MmOut) (b m n : Nat) (own : Xsum) : MmRun :=
  let s := r.st
  let i := (b * p.rows + m) * p.outs + n
  let at_ := o.addr + i * 96
  let a := if o.accIn then Xsum.join 704 own (Xsum.ofFull (s.readSpace o.space at_ 96)) else own
  let s := if o.accOut then s.writeSpace o.space at_ a.full else s
  let v := a.column
  let bad := Flag.invalid.when v.2
  let coord := (p.badDepth b m n).map fun k => (b * p.rows + m, n, k)
  let fl := r.flags ||| p.opFlags b m n ||| bad ||| Flag.invalid.when coord.isSome
  if o.round then
    let q := encodeScalar o.y.fmt ⟨Rnd.ofVal o.rnd, o.sat, srBits o.seed o.stream i⟩ v.1
    let s := s.putCode o.y n m (b % o.y.ext 2) (b / o.y.ext 2) q.1
    ⟨s, fl ||| q.2.flags, r.sat + q.2.sat, coordMin r.coord coord⟩
  else ⟨s, fl, r.sat, coordMin r.coord coord⟩

/-! ## Saves (R307) -/

/-- Where array `q` keeps the accumulator of a row and a physical column in the save area. -/
def saveAt (base q row col : Nat) : Nat := base + q * (3 * 2 ^ 20) + (row * 512 + col) * 96

/-- The physical column of an output column and a fold group. -/
def Prod.column (p : Prod) (n g : Nat) : Nat := if p.fold = 1 then n % 512 else g * powAbove p.outs + n

/-- An array runs part of a unit, from tile `t0` to tile `t1`: its sums start at zero, or where the save area holds
them; at the unit's end they are finished, before it they go to the save area. -/
def MmRun.unitPart (r : MmRun) (p : Prod) (o : MmOut) (save q u t0 t1 : Nat) : MmRun :=
  let (b, c, nb) := p.unit u
  let from_ (row col : Nat) : Xsum :=
    if t0 = 0 then Xsum.zero else Xsum.ofFull (r.st.readSpace 0 (saveAt save q row col) 96)
  let sum (i n g : Nat) : Xsum := p.sumTiles b (64 * c + i) n g t0 t1 (from_ i (p.column n g))
  if t1 = p.places then
    (upTo (p.chunkRows c)).foldl (fun r i =>
      (p.blockOuts nb).foldl (fun r n =>
        r.finish p o b (64 * c + i) n ((upTo p.fold).foldl (fun a g => Xsum.join 704 a (sum i n g)) Xsum.zero)) r) r
  else
    let sums := (upTo (p.chunkRows c)).flatMap fun i =>
      (p.blockOuts nb).flatMap fun n => (upTo p.fold).map fun g => (saveAt save q i (p.column n g), (sum i n g).full)
    let s : State := { r.st with hbm := memZero r.st.hbm (saveAt save q 0 0) (3 * 2 ^ 20) }
    { r with st := sums.foldl (fun s e => s.writeSpace 0 e.1 e.2) s }

/-- An array runs its units from one place to another. -/
def MmRun.array (r : MmRun) (p : Prod) (o : MmOut) (save q : Nat) (us : List Nat) (from_ to_ : Nat) : MmRun :=
  let t := p.places
  (indexed us).foldl (fun r e =>
    let lo := max from_ (e.1 * t)
    let hi := min to_ ((e.1 + 1) * t)
    if lo < hi then r.unitPart p o save q e.2 (lo - e.1 * t) (hi - e.1 * t) else r) r

/-! ## Steps (R282, R290) -/

/-- Where the tiles of a product come from: the feed rate (of another's store, or of HBM), the array whose store holds the
tile of an output column and a depth, and the bytes of a tile. -/
structure Feed where
  rate : Nat
  owner : Nat → Nat → Option Nat
  bytes : Nat

/-- The array store of a tensor's element. -/
def Desc.arrayOf (d : Desc) (i0 i1 : Nat) : Option Nat :=
  if d.space = 3 ∨ d.space = 1 then some (d.bitAt i0 i1 0 0 / 8 / 2 ^ 26 % 16) else none

/-- The feed rate of a space: HBM at 768, all other distant sources at 1,024 bytes a step. -/
def farRate (sp : Nat) : Nat := if sp = 0 then 768 else 1024

/-- The bytes of a tile with its metadata. -/
def feedBytes (kt fmt span : Nat) : Nat := kt * 512 * fmtBits fmt / 8 + (if span = 0 then 0 else kt * 512 / span * fmtMeta fmt)

/-- The cell steps of a tile on array `q` for a chunk. -/
def Prod.tileSteps (p : Prod) (f : Feed) (q c nb t : Nat) : Nat :=
  let rate := if f.owner (512 * nb) (min (p.red - 1) (t * p.kt * p.fold)) = some q then 16384 else f.rate
  max (p.chunkRows c) ((f.bytes + rate - 1) / rate) * sweeps p.passes p.xf p.wf

/-- The cell steps of an array's units. -/
def Prod.arraySteps (p : Prod) (f : Feed) (q : Nat) (us : List Nat) : Nat :=
  us.foldl (fun v u =>
    let (_, c, nb) := p.unit u
    (upTo p.tiles).foldl (fun v t => v + p.tileSteps f q c nb t) v) 0

/-- The largest steps of any array. -/
def Prod.productSteps (p : Prod) (f : Feed) (arrays : List Nat) : Nat :=
  (p.deal arrays).foldl (fun v e => max v (p.arraySteps f e.1 e.2)) 0

/-- The arrays count the cell steps they run, and the stores the bytes read from them. -/
def State.countTiles (s : State) (p : Prod) (f : Feed) (arrays : List Nat) : State :=
  (p.deal arrays).foldl (fun s e =>
    let s := s.add (.mac e.1) MAC_STEPS_steps (p.arraySteps f e.1 e.2)
    e.2.foldl (fun s u =>
      let (_, _, nb) := p.unit u
      (upTo p.tiles).foldl (fun s t =>
        match f.owner (512 * nb) (t * p.kt * p.fold) with
        | none => s
        | some q => s.add (.mac q) MAC_STORE_BYTES_bytes f.bytes) s) s) s

/-- The arrays that have most tiles (R311). -/
def Prod.busiest (p : Prod) (arrays : List Nat) : List Nat :=
  let l := (p.deal arrays).map fun e => (e.1, e.2.length)
  let m := l.foldl (fun v e => max v e.2) 0
  (l.filter fun e => e.2 == m).map (·.1)

/-- The arrays in the Gang: those whose page is IN_SERVICE (R312). -/
def State.gangArrays (s : State) : List Nat := (upTo 16).filter fun q => s.st (.mac q) == .inService

/-- An array store that does not answer: its die is OFF or FAULTED (R312). -/
def State.storeDead (s : State) (q : Nat) : Bool := s.st (.mac q) == .off || s.st (.mac q) == .faulted

/-- A tensor touches an array store that does not answer. -/
def State.onDeadStore (s : State) (d : Desc) : Bool :=
  (s.ranges d).any fun e => e.1 == 1 &&
    (upTo 16).any fun q => s.storeDead q && decide (e.2.1 < (q + 1) * 2 ^ 26) && decide (q * 2 ^ 26 < e.2.1 + e.2.2)

/-- Bytes of HBM lie on a die whose stacks are halted (R415). -/
def State.hbmHalted (s : State) (a n : Nat) : Bool :=
  (upTo 8).any fun d => (s.st (.hbm (2 * d)) == .faulted || s.st (.hbm (2 * d + 1)) == .faulted) &&
    decide (a < (d + 1) * 72 * 10 ^ 9) && decide (d * 72 * 10 ^ 9 < a + n)

/-- A tensor touches HBM of a halted die. -/
def State.onHaltedHbm (s : State) (d : Desc) : Bool := (s.ranges d).any fun e => e.1 == 0 && s.hbmHalted e.2.1 e.2.2

end Sys2Proof.Machine
end

