-- ==== Sys2Proof/Machine/TrainOps.lean ====
section
/-! DEFINITION. Training on the Gang: layer entries, the plan, retention, masks, twins and the gradient area, and the
setting up of MM and of both variants of MMT (chapter 12, R280, R286, R288). -/

namespace Sys2Proof.Machine

/-! ## The training tables (R318) -/

/-- A field of a partition's training configuration. -/
def State.tc (s : State) (p : Nat) (f : Fld) : Nat := s.t .macTrain 0 p f

/-- A field of a layer entry, and its replacement. -/
def State.le (s : State) (p e : Nat) (f : Fld) : Nat := s.t .macLayer 0 (p * 256 + e) f
def State.ple (s : State) (p e : Nat) (f : Fld) (v : Nat) : State := s.pt .macLayer 0 (p * 256 + e) f v

/-- Layer entries are in force in a partition. -/
def State.training (s : State) (p : Nat) : Bool := s.tc p macTrain_train_enable == 1

/-- A partition's valid entries, ascending. -/
def State.layers (s : State) (p : Nat) : List Nat :=
  (s.listed .macLayer 0 0).filterMap fun x => if bit x.2 24 && x.1 / 256 == p then some (x.1 % 256) else none

/-- The entry whose w a descriptor index is (R318). -/
def State.layerOf (s : State) (p w : Nat) : Option Nat :=
  if s.training p then (s.layers p).find? fun e => s.le p e macLayer_w == w else none

/-- An entry holds retention. -/
def State.retained (s : State) (p e : Nat) : Bool := s.le p e macLayer_retained == 1

/-- An entry has a twin. -/
def State.hasTwin (s : State) (p e : Nat) : Bool := s.le p e macLayer_wt != 0xFFF

/-- The twin is stale (R319). -/
def State.twinStale (s : State) (p e : Nat) : Bool :=
  s.hasTwin p e && s.le p e macLayer_wt_gen != s.le p e macLayer_w_gen

/-- Retention released (R322). -/
def State.dropRetention (s : State) (p e : Nat) : State :=
  let s := (((s.ple p e macLayer_retained 0).ple p e macLayer_dx_done 0).ple p e macLayer_dw_done 0).ple p e macLayer_mask_valid 0
  { s with gang := { s.gang with heads := s.gang.heads.filter fun h => h.1 != p * 256 + e } }

/-! ## The plan (R324 to R327) -/

/-- The tile depth of an entry's retention. -/
def State.retDepth (s : State) (p e : Nat) : Nat :=
  128 * pairRate (s.le p e macLayer_plan_fmt) (s.le p e macLayer_g_fmt)

/-- The bytes of a tile of an entry's retention, raised to a multiple of 256. -/
def State.retTile (s : State) (p e : Nat) : Nat :=
  let f := s.le p e macLayer_plan_fmt
  roundUp 256 (feedBytes (s.retDepth p e) f (fmtSpan f))

/-- The output blocks of an entry's retained X. -/
def State.retBlocks (s : State) (p e : Nat) : Nat := blocksOf ((s.desc p (s.le p e macLayer_w)).ext 0)

/-- The tiles that an entry's retention may hold along its rows. -/
def State.retDeep (s : State) (p e : Nat) : Nat :=
  (s.le p e macLayer_m_max + s.retDepth p e - 1) / s.retDepth p e

/-- The charge of an entry under policy T (R325), and its bytes in HBM. -/
def State.retCharge (s : State) (p e : Nat) : Nat := (s.retBlocks p e + 15) / 16 * s.retDeep p e * s.retTile p e
def State.retHbm (s : State) (p e : Nat) : Nat := s.retBlocks p e * s.retDeep p e * s.retTile p e

/-- The words of a mask's row, and the 4 KiB units of an entry's mask at its largest rows. -/
def maskWords (n : Nat) : Nat := (n + 63) / 64
def State.maskUnits (s : State) (p e : Nat) : Nat :=
  (8 * maskWords ((s.desc p (s.le p e macLayer_w)).ext 1) * s.le p e macLayer_m_max + 4095) / 4096

/-- The entries with a mask that the part writes, each with the first unit of its mask. -/
def State.maskStarts (s : State) (p : Nat) : List (Nat × Nat) × Nat :=
  ((s.layers p).filter fun e => s.le p e macLayer_act == 1).foldl (fun r e => (r.1 ++ [(e, r.2)], r.2 + s.maskUnits p e)) ([], 0)

/-- The masks fit (R327). -/
def State.masksFit (s : State) (p : Nat) : Bool :=
  let n := (s.maskStarts p).2
  n == 0 || (decide ((n + 15) / 16 * 4 ≤ s.tc p macTrain_mask_kib) &&
    (upTo 16).all fun v =>
      decide (s.tc p macTrain_mask_off + 1024 * s.tc p macTrain_mask_kib ≤ 1024 * (32768 - s.g (.rdx v) RDX_VS_LIMIT_kib)))

/-- The walk of R325 from the highest entry down: entries on chip with their offsets, until one does not fit. -/
def State.chipWalk (s : State) (p : Nat) : List Nat → Nat → List (Nat × Nat)
  | [], _ => []
  | e :: l, sum =>
    let n := sum + s.retCharge p e
    if n ≤ 1024 * s.tc p macTrain_t_kib then (e, sum) :: State.chipWalk s p l n else []

/-- The plan under a policy: the entries on chip and in HBM, each with its offset, and the bytes in HBM. -/
def State.plan (s : State) (p : Nat) (t : Bool) : List (Nat × Nat) × List (Nat × Nat) × Nat :=
  let es := (s.layers p).filter fun e => s.le p e macLayer_dw_needed == 1
  let chip := if t then s.chipWalk p es.reverse 0 else []
  let rest := es.filter fun e => !chip.any fun c => c.1 == e
  let r := rest.foldl (fun (r : List (Nat × Nat) × Nat) e => (r.1 ++ [(e, r.2)], r.2 + s.retHbm p e)) ([], 0)
  (chip, r.1, r.2)

/-- The policy that a START fixes is T (R324). -/
def State.wantsT (s : State) (p : Nat) : Bool :=
  s.tc p macTrain_want_t == 1 && (upTo 16).all fun q => q == p || s.t .macPart 0 q macPart_enabled == 0

/-- A plan placed: an entry that holds retention keeps its place. -/
def State.placeRet (s : State) (p : Nat) (chip : Bool) (l : List (Nat × Nat)) : State :=
  l.foldl (fun s e => if s.retained p e.1 then s
    else (s.ple p e.1 macLayer_on_chip (b2n chip)).ple p e.1 macLayer_ret_off e.2) s

/-- START in a training partition whose lists are all IDLE: the policy and the plan are fixed (R324, R325). -/
def State.fixPlan (s : State) (p : Nat) : Code × State :=
  let t := s.wantsT p
  let (chip, hbm, size) := s.plan p t
  if 2 ^ 20 * s.tc p macTrain_ret_hbm_mib < size ∨ !s.masksFit p then (.noResource, s)
  else
    let s := ((s.pt .macTrain 0 p macTrain_policy (b2n t)).pt .macTrain 0 p macTrain_plan_valid 1).pt .macTrain 0 p
      macTrain_first_on_chip (chip.foldl (fun m e => min m e.1) 256)
    (.ok, (s.placeRet p true chip).placeRet p false hbm)

/-- The plan ends once every list of the partition is IDLE (R324). -/
def State.endPlan (s : State) (p : Nat) : State := s.pt .macTrain 0 p macTrain_plan_valid 0

/-! ## Tied weights (R333) -/

/-- Two sets of byte ranges overlap. -/
def overlap (a b : List (Nat × Nat × Nat)) : Bool :=
  a.any fun x => b.any fun y => x.1 == y.1 && decide (x.2.1 < y.2.1 + y.2.2) && decide (y.2.1 < x.2.1 + x.2.2)

/-- An instruction of the array stores. -/
def State.insAt (s : State) (pc : Nat) : Ins := Ins.ofBytes (s.readSpace 1 pc 16)

/-- The instructions of a list from a pc through its first HALT; none where there is no HALT within its limit. -/
def State.listFrom (s : State) : Nat → Nat → Option (List Ins)
  | 0, _ => none
  | n + 1, pc =>
    if spaceTop 1 < pc + 16 then none
    else
      let i := s.insAt pc
      if i.family = 0 then some [i] else (State.listFrom s n (pc + 16)).map (i :: ·)

/-- The bytes of a tensor in the tiled array store, its side record's among them where that lies there. -/
def State.tiledRanges (s : State) (d : Desc) : List (Nat × Nat × Nat) :=
  (if d.space = 3 then s.dataRanges d else []) ++ (if d.sideSpace = 3 then s.sideRanges d else [])

/-- The space 3 ranges of an entry's w and wt (R333). -/
def State.layerRanges (s : State) (p e : Nat) : List (Nat × Nat × Nat) × List (Nat × Nat × Nat) :=
  (s.tiledRanges (s.desc p (s.le p e macLayer_w)),
    if s.hasTwin p e then s.tiledRanges (s.desc p (s.le p e macLayer_wt)) else [])

/-- START is refused for tied weights (R333). -/
def State.tied (s : State) (p pc : Nat) : Bool :=
  let es := s.layers p
  let d (e : Nat) : Desc := s.desc p (s.le p e macLayer_w)
  (es.any fun e => es.any fun f => decide (e < f) &&
    (s.le p e macLayer_w == s.le p f macLayer_w ||
      ((d e).object && (d f).object && (d e).objectId == (d f).objectId) ||
      (let a := s.layerRanges p e
       let b := s.layerRanges p f
       overlap (a.1 ++ a.2) (b.1 ++ b.2)))) ||
  (es.any fun e => let a := s.layerRanges p e; overlap a.1 a.2) ||
  ((s.listFrom (2 ^ 20) pc).getD []).any fun i =>
    (i.family == 3 || i.family == 4) && es.any fun e => s.hasTwin p e && s.le p e macLayer_wt == i.hi 0 12

/-! ## Retained X (R321, R326) -/

/-- Where tile (nb, t) of an entry's retention starts: its space and its address. -/
def State.retAt (s : State) (p e tiles nb t : Nat) : Nat × Nat :=
  let size := s.retTile p e
  let off := s.le p e macLayer_ret_off
  if s.le p e macLayer_on_chip = 1 then
    let q := ((s.desc p (s.le p e macLayer_w)).addr / 2 ^ 26 + nb) % 16
    (1, q * 2 ^ 26 + s.tc p macTrain_t_base + off + ((nb / 16) * tiles + t) * size)
  else (0, s.tc p macTrain_ret_hbm + off + (nb * tiles + t) * size)

/-- Where the code of retained element (k, m) lies: space, bit, and the address of its metadata entry. -/
def State.retPlace (s : State) (p e fmt cols rows k m : Nat) : Nat × Nat × Nat :=
  let kt := s.retDepth p e
  let (nb, t, col, kin) := tilePlace kt cols m k
  let a := s.retAt p e (tilesOf kt rows cols) nb t
  (a.1, 8 * a.2 + (col * kt + kin) * fmtBits fmt,
    a.2 + kt * 512 * fmtBits fmt / 8 + (col / fmtSpan fmt * kt + kin) * fmtMeta fmt)

/-- The X of a forward product kept (R321): codes, metadata entries and the header of its side record. -/
def State.retain (s : State) (p e : Nat) (x : Desc) : State :=
  let s := (upTo (x.ext 1)).foldl (fun s m =>
    (upTo (x.ext 0)).foldl (fun s k =>
      let a := s.retPlace p e x.fmt (x.ext 0) (x.ext 1) k m
      let s := s.putBitsAt a.1 a.2.1 (fmtBits x.fmt) (s.code x k m 0 0)
      if hasSide x.fmt ∧ k % fmtSpan x.fmt = 0 then s.writeSpace a.1 a.2.2 (s.metaEntry x (fmtSpan x.fmt) k m 0 0) else s) s) s
  { s with gang := { s.gang with heads := (s.gang.heads.filter fun h => h.1 != p * 256 + e) ++
    (if hasSide x.fmt then [(p * 256 + e, s.sideBytes x 0 64)] else []) } }

/-- Retained element (k, m) of an entry. -/
def State.retElem (s : State) (p e cols k m : Nat) : Ev × Nat :=
  let fmt := s.le p e macLayer_x_fmt
  let rows := s.le p e macLayer_x_rows
  let head := ((s.gang.heads.find? fun h => h.1 == p * 256 + e).map (·.2)).getD []
  elemBy fmt (fun off n => ofLeBytes (slice off n head))
    (fun i => let a := s.retPlace p e fmt cols rows i m; s.bitsAt a.1 a.2.1 (fmtBits fmt))
    (fun _ => s.readSpace (s.retPlace p e fmt cols rows k m).1 (s.retPlace p e fmt cols rows k m).2.2 (fmtMeta fmt)) k

/-- The bytes that the busiest array receives of a copy, over the rate of its place (R321). -/
def State.copySteps (s : State) (p e : Nat) (x : Desc) : Nat :=
  let kt := s.retDepth p e
  let n := (blocksOf (x.ext 0) + 15) / 16 * tilesOf kt (x.ext 1) (x.ext 0) * feedBytes kt x.fmt (fmtSpan x.fmt)
  let r := if s.le p e macLayer_on_chip = 1 then 1024 else 768
  (n + r - 1) / r

/-! ## Masks (R323, R327) -/

/-- The vector-store address of a byte of an entry's mask. -/
def State.maskAddr (s : State) (p e off : Nat) : Nat :=
  let j := (((s.maskStarts p).1.find? fun x => x.1 == e).map (·.2)).getD 0 + off / 4096
  j % 16 * 2 ^ 25 + s.tc p macTrain_mask_off + j / 16 * 4096 + off % 4096

/-- A mask bit. -/
def State.maskBit (s : State) (p e outs m n : Nat) : Bool :=
  if s.le p e macLayer_act = 2 then
    bit (s.code (s.desc p (s.le p e macLayer_mask_desc)) (n / 64) m 0 0) (n % 64)
  else
    let a := s.maskAddr p e ((m * maskWords outs + n / 64) * 8 + n % 64 / 8)
    bit (ofLeBytes (s.readSpace 2 a 1)) (n % 8)

/-- The mask of a forward product written: one bit for each element of its rounded Y (R323). -/
def State.putMask (s : State) (p e rows outs : Nat) (pos : Nat → Nat → Bool) : State :=
  (upTo rows).foldl (fun s m =>
    (upTo (8 * maskWords outs)).foldl (fun s j =>
      let v := (upTo 8).foldl (fun v i => v + b2n (decide (8 * j + i < outs) && pos m (8 * j + i)) * 2 ^ i) 0
      s.writeSpace 2 (s.maskAddr p e (m * maskWords outs * 8 + j)) [BitVec.ofNat 8 v]) s) s

/-- An element of dY after the mask of its entry (R315, R323). -/
def State.masked? (s : State) (p : Nat) (e : Option Nat) (outs m n : Nat) (v : Ev × Nat) : Ev × Nat :=
  match e with
  | none => v
  | some e => if s.le p e macLayer_act = 0 ∨ s.maskBit p e outs m n then v else (Ev.zero, v.2)

/-! ## Twins (R319, R320) -/

/-- The transpose of a weight written into its twin, with its side record. -/
def State.writeTwin (s : State) (w wt : Desc) : State :=
  let s := (upTo (w.ext 1)).foldl (fun s n => (upTo (w.ext 0)).foldl (fun s k => s.putCode wt n k 0 0 (s.code w k n 0 0)) s) s
  if hasSide w.fmt then
    s.writeSpace (memSpace wt.sideSpace) wt.side
      (s.sideBytes w 0 (0x40 + (if s.span w = 0 then 0 else fmtMeta w.fmt * w.metaCount (s.span w))))
  else s

/-- Element (k, n) of a weight, read from its twin. -/
def State.twinElem (s : State) (w wt : Desc) (k n : Nat) : Ev × Nat :=
  elemBy w.fmt (s.sideNum wt) (fun i => s.code wt n i 0 0)
    (fun span => s.sideBytes wt (0x40 + fmtMeta w.fmt * w.metaAt span k n 0 0) (fmtMeta w.fmt)) k

/-! ## Setting up a product (R280, R286, R315, R316) -/

/-- A product ready to run: its cut, its outputs, its feed, the steps of the copy or of the area beside it, its layer
entry, and the class that its refusal raises. -/
structure Setup where
  prod : Prod
  out : MmOut
  feed : Feed
  beside : Nat
  layer : Option Nat

/-- The fields of i1 that MM and MMT share are in their ranges. -/
def mmBitsOk (i : Ins) : Bool := i.hi 12 2 != 0 && i.hi 17 2 != 3 && decide (i.lo 56 3 ≤ 3)

/-- A pass setting other than 1 needs an FP32 operand (R271). -/
def passesOk (i : Ins) (a b : Nat) : Bool := i.hi 12 2 == 1 || a == 0 || b == 0

/-- The outputs of an MM, or of variant 1 of MMT. -/
def State.mmOut (s : State) (p : Nat) (i : Ins) (y : Desc) : MmOut :=
  { y := y, rnd := i.hi 14 2, sat := i.hi 16 1 == 1, seed := s.tw .macPart 0 p 6, stream := i.tag
    accIn := i.hi 19 1 == 1, accOut := i.hi 20 1 == 1 || i.hi 21 1 == 1, round := i.hi 21 1 == 0
    space := memSpace (i.lo 56 3), addr := i.hi 22 42 * 64 }

/-- MM (R283, R288): its checks in turn, and the product. -/
def State.mmSetup (s : State) (p : Nat) (i : Ins) (dsc : Nat → Desc) : Except Code Setup :=
  let y := dsc i.d0
  let x := dsc i.d1
  let w := dsc (i.hi 0 12)
  let shapes := x.ext 0 == w.ext 0 && y.ext 0 == w.ext 1 && y.ext 1 == x.ext 1 && y.ext 2 == x.ext 2 && y.ext 3 == x.ext 3 &&
    (w.ext 2 == 1 || w.ext 2 == x.ext 2) && (w.ext 3 == 1 || w.ext 3 == x.ext 3)
  let e := s.layerOf p (i.hi 0 12)
  if (match e with | some e => s.retained p e | none => false) = true then .error .refusedState
  else if !mmBitsOk i ∨ !s.descOk y ∨ !s.descOk x ∨ !s.descOk w ∨ !shapes ∨ 2 < y.fmt ∨ !xFmtOk x.fmt ∨ !wFmtOk w.fmt ∨
      !passesOk i x.fmt w.fmt ∨ 2 ^ 24 < x.ext 0 then .error .badArg
  else
    let kt := 128 * pairRate x.fmt w.fmt
    let set : Setup :=
      { prod :=
          { rows := x.ext 1, outs := w.ext 1, red := x.ext 0, batches := x.batches, kt := kt
            a0 := if w.space = 3 then w.addr / 2 ^ 26 % 16 else 0, passes := i.hi 12 2, xf := x.fmt == 0, wf := w.fmt == 0
            x := fun b m k => s.elem x k m (b % x.ext 2) (b / x.ext 2)
            w := fun b k n => s.elem w k n (if w.ext 2 = 1 then 0 else b % x.ext 2) (if w.ext 3 = 1 then 0 else b / x.ext 2) }
        out := s.mmOut p i y
        feed := ⟨farRate w.space, fun n k => w.arrayOf k n, feedBytes kt w.fmt (s.span w)⟩
        beside := 0, layer := e }
    match e with
    | none => .ok set
    | some e =>
      if s.le p e macLayer_m_max < x.ext 1 ∨ x.fmt ≠ s.le p e macLayer_plan_fmt ∨ x.batches ≠ 1 then .error .badArg
      else .ok { set with beside := if s.le p e macLayer_dw_needed = 1 then s.copySteps p e x else 0 }

/-- The operands of an MMT have no batch dimension (R315). -/
def flat (d : Desc) : Bool := d.ext 2 == 1 && d.ext 3 == 1

/-- Variant 1 of MMT (R315, R316, R320). -/
def State.dxSetup (s : State) (p : Nat) (i : Ins) (dsc : Nat → Desc) : Except Code Setup :=
  let y := dsc i.d0
  let g := dsc i.d1
  let w := dsc (i.hi 0 12)
  let shapes := y.ext 0 == w.ext 0 && y.ext 1 == g.ext 1 && g.ext 0 == w.ext 1 && flat y && flat g && flat w
  if !mmBitsOk i ∨ !s.descOk y ∨ !s.descOk g ∨ !s.descOk w ∨ !shapes ∨ 2 < y.fmt ∨ !xFmtOk g.fmt ∨ !wFmtOk w.fmt ∨
      !passesOk i g.fmt w.fmt ∨ 2 ^ 24 < g.ext 0 then .error .badArg
  else
    let e := s.layerOf p (i.hi 0 12)
    let stale : Bool := match e with | some e => s.twinStale p e | none => false
    let bare : Bool := match e with | some e => s.le p e macLayer_act != 0 && !s.retained p e | none => false
    if stale ∨ bare then .error .refusedState
    else
      let kt := 128 * pairRate g.fmt w.fmt
      let t := e.bind fun e => if s.hasTwin p e then some (dsc (s.le p e macLayer_wt)) else none
      let src := t.getD w
      .ok
        { prod :=
            { rows := g.ext 1, outs := w.ext 0, red := g.ext 0, batches := 1, kt := kt
              a0 := if src.space = 3 then src.addr / 2 ^ 26 % 16 else 0, passes := i.hi 12 2, xf := g.fmt == 0, wf := w.fmt == 0
              x := fun _ m n => s.masked? p e (g.ext 0) m n (s.elem g n m 0 0)
              w := fun _ n k => match t with
                | some t => s.twinElem w t k n
                | none => s.elem w k n 0 0 }
          out := s.mmOut p i y
          feed := ⟨farRate src.space, fun k n => if t.isSome then src.arrayOf n k else src.arrayOf k n,
            feedBytes kt w.fmt (s.span w)⟩
          beside := 0, layer := e }

/-- The bytes of the gradient area and of dW that the busiest array moves, over 768 (R329). -/
def areaSteps (p : Prod) (arrays : List Nat) (each : Nat) : Nat :=
  let n := (p.deal arrays).foldl (fun v e => max v (e.2.foldl (fun v u =>
    let (_, c, nb) := p.unit u
    v + p.chunkRows c * (p.blockOuts nb).length) 0)) 0
  (n * each + 767) / 768

/-- Variant 2 of MMT (R315, R316, R328): one row for each n, K in output blocks, reduced over M. -/
def State.dwSetup (s : State) (p : Nat) (i : Ins) (dsc : Nat → Desc) (arrays : List Nat) : Except Code Setup :=
  let y := dsc i.d0
  let g := dsc i.d1
  let w := dsc (i.hi 0 12)
  let shapes := y.ext 0 == w.ext 0 && y.ext 1 == w.ext 1 && g.ext 0 == w.ext 1 && flat y && flat g && flat w
  let e? := s.layerOf p (i.hi 0 12)
  if !mmBitsOk i ∨ !s.descOk y ∨ !s.descOk g ∨ !shapes ∨ 2 < y.fmt ∨ !xFmtOk g.fmt ∨ 2 ^ 24 < g.ext 1 then .error .badArg
  else match e? with
  | none => .error .badArg
  | some e =>
    if g.fmt ≠ s.le p e macLayer_g_fmt ∨ g.ext 1 ≠ s.le p e macLayer_x_rows ∨ i.lo 56 3 ≠ 0 ∨ i.hi 22 42 ≠ 0 ∨
        !passesOk i g.fmt (s.le p e macLayer_x_fmt) then .error .badArg
    else if !s.retained p e ∨ s.le p e macLayer_dw_needed = 0 then .error .refusedState
    else
      let xf := s.le p e macLayer_x_fmt
      let kt := s.retDepth p e
      let chip := s.le p e macLayer_on_chip == 1
      let ar := w.addr / 2 ^ 26 % 16
      let round := i.hi 21 1 == 0
      let prod : Prod :=
        { rows := g.ext 0, outs := w.ext 0, red := g.ext 1, batches := 1, kt := kt, a0 := ar, passes := i.hi 12 2
          xf := g.fmt == 0, wf := xf == 0
          x := fun _ n m => s.masked? p (some e) (g.ext 0) m n (s.elem g n m 0 0)
          w := fun _ m k => s.retElem p e (w.ext 0) k m }
      let in_ := decide (0 < s.le p e macLayer_grad_count)
      let out_ := i.hi 20 1 == 1 || !round
      .ok
        { prod := prod
          out := { s.mmOut p i y with accIn := in_, accOut := out_, space := 0, addr := s.le p e macLayer_grad_addr }
          feed := ⟨if chip then 1024 else 768, fun k _ => if chip then some ((ar + k / 512) % 16) else none,
            feedBytes kt xf (fmtSpan xf)⟩
          beside := if in_ || out_ then
              areaSteps prod arrays (96 * (b2n in_ + b2n out_) + (if round then fmtBytes y.fmt else 0)) else 0
          layer := some e }

/-- The steps of a product (R290, R321, R329). -/
def Setup.steps (u : Setup) (arrays : List Nat) : Nat := 64 + max (u.prod.productSteps u.feed arrays) u.beside

/-- The work units of a product (R330). -/
def Setup.work (u : Setup) : Nat := u.prod.rows * u.prod.outs * u.prod.red * 8 / (u.prod.kt / 128)

/-! ## What follows a product (R321 to R323, R328, R330) -/

/-- A forward product on an entry completes: its X and its mask stand retained. -/
def State.forwardDone (s : State) (p e : Nat) (x : Desc) (work : Nat) : State :=
  let s := s.pt .macTrain 0 p macTrain_fwd_work (s.tc p macTrain_fwd_work + work)
  let act := s.le p e macLayer_act
  let s := if s.le p e macLayer_dw_needed = 1 ∨ act ≠ 0 then
      ((s.ple p e macLayer_retained 1).ple p e macLayer_x_rows (x.ext 1)).ple p e macLayer_x_fmt x.fmt else s
  if act ≠ 0 then s.ple p e macLayer_mask_valid 1 else s

/-- Every needed product has run: the retention is released (R322). -/
def State.maybeRelease (s : State) (p e : Nat) : State :=
  let ok (need done : Fld) : Bool := s.le p e need == 0 || s.le p e done == 1
  if s.retained p e ∧ ok macLayer_dx_needed macLayer_dx_done ∧ ok macLayer_dw_needed macLayer_dw_done then s.dropRetention p e
  else s

/-- Variant 1 on an entry completes. -/
def State.dxDone (s : State) (p e work : Nat) : State :=
  let s := s.pt .macTrain 0 p macTrain_dx_work (s.tc p macTrain_dx_work + work)
  (if s.retained p e then s.ple p e macLayer_dx_done 1 else s).maybeRelease p e

/-- Variant 2 on an entry completes. -/
def State.dwDone (s : State) (p e work : Nat) (accOut : Bool) : State :=
  let s := s.pt .macTrain 0 p macTrain_dw_work (s.tc p macTrain_dw_work + work)
  let s := s.ple p e macLayer_grad_count (if accOut then satAdd 16 (s.le p e macLayer_grad_count) 1 else 0)
  (s.ple p e macLayer_dw_done 1).maybeRelease p e

/-! ## Weights loaded (R284, R298, R319) -/

/-- A tensor's elements, in whatever layout, copied from another of its shape and format. -/
def State.copyTensor (s : State) (dst src : Desc) : State :=
  let sp := s.span src
  if src.fmt = 9 then
    (upTo src.rows).foldl (fun s r =>
      let (i1, i2, i3) := src.rowIdx r
      let a := src.addr + i1 * src.stride 1 + i2 * src.stride 2 + i3 * src.stride 3
      s.writeSpace dst.space (dst.addr + i1 * dst.stride 1 + i2 * dst.stride 2 + i3 * dst.stride 3)
        (s.readSpace src.space a (s.rowBytes src a))) s
  else
    let s0 := s
    let s := if hasSide src.fmt then s.writeSpace (memSpace dst.sideSpace) dst.side (s.sideBytes src 0 64) else s
    (upTo src.rows).foldl (fun s r =>
      let (i1, i2, i3) := src.rowIdx r
      (upTo (src.ext 0)).foldl (fun s i =>
        let s := s.putCode dst i i1 i2 i3 (s0.code src i i1 i2 i3)
        if hasSide src.fmt ∧ sp ≠ 0 ∧ i % sp = 0 then s.putMeta dst sp i i1 i2 i3 (s0.metaEntry src sp i i1 i2 i3) else s) s) s

/-- A copy's tensors agree. -/
def copyOk (dst src : Desc) : Bool :=
  dst.fmt == src.fmt && ((upTo 4).all fun i => dst.ext i == src.ext i) &&
    (src.fmt != 9 || (dst.space != 3 && src.space != 3))

/-- The entry whose twin an LDW writes, from its own w (R319). -/
def State.twinLoad (s : State) (p d0 d1 : Nat) : Option Nat :=
  if s.training p then (s.layers p).find? fun e => s.hasTwin p e && s.le p e macLayer_w == d1 && s.le p e macLayer_wt == d0
  else none

/-- The checks of an LDW (R298, R319). -/
def State.ldwCode (s : State) (p : Nat) (i : Ins) (dsc : Nat → Desc) : Code :=
  let dst := dsc i.d0
  let src := dsc i.d1
  let shape := match s.twinLoad p i.d0 i.d1 with
    | some _ => dst.fmt == src.fmt && dst.ext 0 == src.ext 1 && dst.ext 1 == src.ext 0 && flat dst && flat src && src.fmt != 9
    | none => copyOk dst src
  if s.training p ∧ (s.layers p).any fun e => s.retained p e &&
      (s.le p e macLayer_w == i.d0 || (s.hasTwin p e && s.le p e macLayer_wt == i.d0)) then .refusedState
  else if !s.descOk dst ∨ !s.descOk src ∨ !shape then .badArg
  else .ok

/-- LDW carried out. -/
def State.ldw (s : State) (p : Nat) (i : Ins) (dsc : Nat → Desc) : State :=
  let dst := dsc i.d0
  let src := dsc i.d1
  let s := match s.twinLoad p i.d0 i.d1 with
    | some e => (s.writeTwin src dst).ple p e macLayer_wt_gen (s.le p e macLayer_w_gen)
    | none =>
      let s := s.copyTensor dst src
      match s.layerOf p i.d0 with
      | some e => s.ple p e macLayer_w_gen (s.le p e macLayer_w_gen + 1)
      | none => s
  if i.hi 0 1 = 1 then
    let bs := s.tensorBytes dst
    (s.writeSpace 0 (s.objectAddr p dst.objectId) (treeDigest bs)).countSha bs.length
  else s.written p dst

/-! ## Commands and resets (R322, R328, R334) -/

/-- The training state of a partition back at reset (R334). -/
def State.trainReset (s : State) (p : Nat) : State :=
  let s := (s.clearTab .macTrain 0 p 1).clearTab .macLayer 0 (p * 256) 256
  { s with gang := { s.gang with heads := s.gang.heads.filter fun h => h.1 / 256 != p } }

end Sys2Proof.Machine
end

