-- ==== Sys2Proof/Machine/GangOps.lean ====
section
/-! DEFINITION. The Compute Gang: its lists, the issue of their instructions and the checks that issue makes, the two
schedulers, the carrying out of every family, completion records, pauses, stops and resets (chapter 11). -/

namespace Sys2Proof.Machine

/-! ## Lists (R287) -/

/-- A field of a partition entry, and its replacement. -/
def State.gp (s : State) (p : Nat) (f : Fld) : Nat := s.t .macPart 0 p f
def State.pgp (s : State) (p : Nat) (f : Fld) (v : Nat) : State := s.pt .macPart 0 p f v

/-- The states of a list. -/
inductive LState where
  | idle | running | paused | stopped
deriving DecidableEq, Repr

/-- The code of a list state, and the list state of a code. -/
def LState.val : LState → Nat
  | .idle => 0 | .running => 1 | .paused => 2 | .stopped => 3
def LState.ofVal : Nat → LState
  | 0 => .idle | 1 => .running | 2 => .paused | _ => .stopped

/-- The state of a list, and its replacement. -/
def State.lst (s : State) (p l : Nat) : LState := LState.ofVal (s.gp p (macPart_state.at l))
def State.setLst (s : State) (p l : Nat) (v : LState) : State := s.pgp p (macPart_state.at l) v.val

/-- A list at rest. -/
def GList.zero (p l : Nat) : GList := ⟨p, l, false, List.replicate 64 0, false, false, false, false, false⟩

/-- What a list keeps beside its words, and its replacement. -/
def State.gl (s : State) (p l : Nat) : GList :=
  (s.gang.lists.find? fun x => x.part == p && x.list == l).getD (GList.zero p l)
def State.setGl (s : State) (x : GList) : State :=
  { s with gang := { s.gang with lists := (s.gang.lists.filter fun y => !(y.part == x.part && y.list == x.list)) ++ [x] } }

/-- The operations that a list has in flight, oldest first. -/
def State.opsOf (s : State) (p l : Nat) : List GOp := s.gang.ops.filter fun o => o.part == p && o.list == l

/-- An operation is the one that a list issued from a pc. -/
def GOp.is (o : GOp) (p l pc : Nat) : Bool := o.part == p && o.list == l && o.pc == pc

/-- An operation in flight replaced, or taken out. -/
def State.setOp (s : State) (o : GOp) : State :=
  { s with gang := { s.gang with ops := s.gang.ops.map fun x => if x.is o.part o.list o.pc then o else x } }
def State.dropOp (s : State) (o : GOp) : State :=
  { s with gang := { s.gang with ops := s.gang.ops.filter fun x => !x.is o.part o.list o.pc } }

/-- The instruction of an operation. -/
def GOp.ins (o : GOp) : Ins := ⟨o.i0, o.i1⟩

/-- A descriptor as the operation read it at issue (R283). -/
def State.dsc (s : State) (o : GOp) (i : Nat) : Desc :=
  match o.descs.find? fun d => d.1 == i with
  | some d => ⟨d.2⟩
  | none => s.desc o.part i

/-- Every list of a partition is IDLE. -/
def State.listsIdle (s : State) (p : Nat) : Bool := (upTo 4).all fun l => s.lst p l == .idle

/-- Some list of the part is RUNNING. -/
def State.gangRunning (s : State) : Bool := (upTo 16).any fun p => (upTo 4).any fun l => s.lst p l == .running

/-- The page of the Gang's registers. -/
def gangPage : Blk := .mac 0

/-! ## Classes (R306) -/

/-- The class of an instruction: 0 array, 1 vector, 2 neither. -/
def gangClass (i : Ins) (dsc : Nat → Desc) : Nat :=
  match i.family with
  | 3 | 4 => 0
  | 1 | 2 => if (dsc i.d0).space = 3 ∨ (dsc i.d1).space = 3 then 0 else 2
  | 5 | 6 | 13 | 14 => 1
  | _ => 2

/-- The descriptors that an instruction names. -/
def Ins.descs (i : Ins) : List Nat :=
  match i.family with
  | 1 | 2 | 6 | 14 => [i.d0, i.d1]
  | 3 | 4 => [i.d0, i.d1, i.hi 0 12]
  | 5 =>
    let r := epiReads (i.lo 56 4)
    [i.d0, i.d1] ++ (if r.1 || i.lo 56 4 == 8 then [i.hi 0 12] else []) ++ (if r.2 then [i.hi 12 12] else [])
  | 7 | 8 | 9 => [i.d0]
  | 12 => [i.d1]
  | 13 => [i.d0, i.d1] ++ (if i.variant = 1 then ((upTo 4).map fun j => i.hi (12 * j) 12).filter (· != 0) else [])
  | _ => []

/-- The tensors that an instruction writes, and those that it reads. -/
def Ins.accesses (i : Ins) (dsc : Nat → Desc) : List Desc × List Desc :=
  let d0 := dsc i.d0
  let d1 := dsc i.d1
  match i.family with
  | 1 | 2 | 6 | 14 => ([d0], [d1])
  | 3 => (if i.hi 21 1 = 1 then [] else [d0], [d1, dsc (i.hi 0 12)])
  | 4 => (if i.hi 21 1 = 1 then [] else [d0], if i.variant = 1 then [d1, dsc (i.hi 0 12)] else [d1])
  | 5 =>
    let r := epiReads (i.lo 56 4)
    (d0 :: (if i.lo 56 4 = 8 then [dsc (i.hi 0 12)] else []),
      d1 :: (if r.1 then [dsc (i.hi 0 12)] else []) ++ (if r.2 then [dsc (i.hi 12 12)] else []))
  | 7 | 8 => ([], [d0])
  | 9 => ([d0], [])
  | 12 => if i.variant = 0 then ([d1], []) else ([], [d1])
  | 13 => ([d0], d1 :: (i.descs.drop 2).map dsc)
  | _ => ([], [])

/-- Every access of an instruction is granted (R281), its full forms and its layer entry's areas among them. A descriptor
that does not stand names no access. -/
def State.gangMay (s : State) (p : Nat) (i : Ins) (dsc : Nat → Desc) (u : Option Setup) : Bool :=
  let a := i.accesses dsc
  let raw (sp ad n : Nat) (r : Right) : Bool := decide (ad + n ≤ spaceTop sp) && s.memMay (0x30 + p) (some p) sp ad n r
  (a.1.all fun d => !s.descOk d || s.tensorMay p d .write) && (a.2.all fun d => !s.descOk d || s.tensorMay p d .read) &&
    match u with
    | none => true
    | some u =>
      let n := u.prod.batches * u.prod.rows * u.prod.outs * 96
      (!u.out.accIn || raw u.out.space u.out.addr n .read) && (!u.out.accOut || raw u.out.space u.out.addr n .write) &&
        match u.layer with
        | none => true
        | some e => i.family != 4 || s.le p e macLayer_act != 2 ||
          s.tensorMay p (s.desc p (s.le p e macLayer_mask_desc)) .read

/-! ## The checks of issue (R283, R285, R286, R300, R303 to R308, R312) -/

/-- A product's setup, by its family and variant. -/
def State.setup (s : State) (p : Nat) (i : Ins) (dsc : Nat → Desc) (arrays : List Nat) : Except Code Setup :=
  if i.family = 3 then s.mmSetup p i dsc
  else if i.variant = 1 then s.dxSetup p i dsc
  else s.dwSetup p i dsc arrays

/-- The setup where it stands. -/
def setupOf (u : Except Code Setup) : Option Setup := match u with | .ok u => some u | .error _ => none

/-- An instruction whose results may differ between runs (R308). -/
def State.needsMayVary (s : State) (i : Ins) : Bool :=
  (i.family == 14 && i.variant == 1) || (i.family == 9 && i.variant == 2) ||
    (i.family == 7 && s.sub i.d1 != 0 && s.rc i.d1 rdxCtx_quorum == 1)

/-- The transport context of an instruction is the partition's, and open. -/
def State.gangCtx (s : State) (p c : Nat) : Code :=
  if s.ctxSt c = 0 ∨ s.ctxSt c = 4 ∨ s.ctx c attCtx_partition ≠ p then .denied
  else if s.ctxSt c ≠ 1 then .refusedState else .ok

/-- The four contexts of a first receive; 0xFFF names none. -/
def Ins.recvCtxs (i : Ins) : List Nat := ((upTo 4).map fun j => i.hi (12 * j) 12).filter (· != 0xFFF)

/-- A send table entry (R303): the remote address, and the second word. -/
def State.sendEntry (s : State) (p n : Nat) : Nat × Nat :=
  let a := s.gp p macPart_send_base + 16 * n
  (ofLeBytes (s.readSpace 0 a 8), ofLeBytes (s.readSpace 0 (a + 8) 8))

/-- A partition owns a port group. -/
def State.ownsGroup (s : State) (p g : Nat) : Bool := s.g (.grp g) OWNER_owned == 1 && s.g (.grp g) OWNER_partition == p

/-- The rank of a reduction context that an RDX names (R304). -/
def State.rdxOpCode (s : State) (p : Nat) (i : Ins) (src : Desc) : Code :=
  let c := i.d1
  if s.sub c = 0 then .badArg
  else match (s.rx c).ranks[i.hi 0 10]? with
  | none => .badArg
  | some r =>
    let e0 := 16 * i.hi 42 22
    let e := s.rc c rdxCtx_elements
    if r.remote ∨ !r.contrib ∨ !s.ownsGroup p (portGroup r.portId) ∨ r.fmt ≠ src.fmt ∨ e < e0 + src.count ∨
        src.count = 0 ∨ (src.count % 16 ≠ 0 ∧ e0 + src.count ≠ e) then .badArg
    else if s.sub c = 3 then .aborted else .ok

/-- The counts that a CNT variant 1 carries, and whether they fit (R305). -/
def State.cntValues (s : State) (src : Desc) : List Nat :=
  (upTo src.rows).flatMap fun r => let (i1, i2, i3) := src.rowIdx r; (upTo (src.ext 0)).map fun i => s.code src i i1 i2 i3

/-- The checks of an instruction's family: what it may not name, then the state, then its values (R479). -/
def State.familyCode (s : State) (p l : Nat) (i : Ins) (dsc : Nat → Desc) (u : Except Code Setup) : Code :=
  let d0 := dsc i.d0
  let d1 := dsc i.d1
  let ok := i.descs.all fun d => s.descOk (dsc d)
  let bad (b : Bool) : Code := if ok && !b then .ok else .badArg
  let first (c k : Code) : Code := if c != .ok then c else k
  let vec : Code := if s.vecDies.isEmpty then .refusedState else .ok
  match i.family with
  | 1 => s.ldwCode p i dsc
  | 2 => bad (!copyOk d0 d1)
  | 3 | 4 => (match u with | .ok _ => .ok | .error c => c)
  | 5 => first vec (bad (!epiOk (i.lo 56 4) (i.lo 60 4) (i.hi 24 8) d0 d1 (dsc (i.hi 0 12)) (dsc (i.hi 12 12))))
  | 6 => first vec (bad (!s.cvtOk (Cvt.ofWord (i.hi 0 32) (i.hi 32 32) (i.lo 56 8)) d0 d1))
  | 7 => if ok then s.rdxOpCode p i d0 else .badArg
  | 8 => first (s.gangCtx p (bits (s.sendEntry p (i.lo 44 8)).2 32 12)) (bad false)
  | 9 =>
    if i.variant = 2 then (if i.recvCtxs.all fun c => s.gangCtx p c == .ok then .ok else .denied)
    else first (s.gangCtx p i.d1) (first (if 64 ≤ (s.cx i.d1).posted.length then .noResource else .ok) (bad false))
  | 12 =>
    if i.variant = 0 then first (if s.scf (i.lo 32 10) scSlot_partition = p then .ok else .denied) (bad false)
    else first (if s.sub (i.lo 32 12) = 0 ∨ s.rc (i.lo 32 12) rdxCtx_partition ≠ p then .denied else .ok)
      (bad (d1.fmt != 7 || (s.cntValues d1).any (fun v => decide (65535 < v)) ||
        decide (s.lpr (i.lo 32 12) < i.hi 0 32 + d1.count)))
  | 13 => first (if i.variant = 1 ∧ !(s.gl p l).audit then .refusedState else vec) (bad (!digestOk d0))
  | 14 =>
    first (if i.variant = 1 ∧ s.sec.entropyBad then .notReady else vec)
      (bad (d1.fmt != 0 || d0.fmt != 5 || d0.count != d1.rows || d1.ext 0 == 0))
  | _ => .ok

/-- The code that an instruction would issue with: OK, or the first check that it fails (R479): an access denied, the
state, then a value. Only descriptors that stand name accesses. -/
def State.issueCode (s : State) (p l pc : Nat) (i : Ins) (dsc : Nat → Desc) (u : Except Code Setup) : Code :=
  let cls := gangClass i dsc
  let a := i.accesses dsc
  let named := (a.1 ++ a.2).filter s.descOk
  if spaceTop 1 < pc + 16 then .badArg
  else if !s.memMay (0x30 + p) (some p) 1 pc 16 .execute then .denied
  else if i.mayVary ∧ s.tb .chrPart 0 p chrPart_strict then .mayVaryForbidden
  else if !i.ok ∨ (s.needsMayVary i ∧ !i.mayVary) then .badArg
  else
    let k := s.familyCode p l i dsc u
    if k = .denied ∨ !s.gangMay p i dsc (setupOf u) then .denied
    else if k ≠ .ok ∧ (k ≠ .badArg ∨ i.family = 4) then k
    else if (cls = 0 ∧ s.gangArrays.isEmpty) ∨ named.any s.onDeadStore then .refusedState
    else if named.any s.onHaltedHbm then .aborted
    else k

/-- The steps of an instruction, from its shapes (R290, R294, R306). The spec gives LDW, STW and DIG no count: `z` is
theirs. -/
def State.cost (s : State) (i : Ins) (dsc : Nat → Desc) (u : Except Code Setup) (z : Nat) : Nat :=
  let d1 := dsc i.d1
  let n := s.vecDies.length
  match i.family with
  | 3 | 4 => (match u with | .ok u => u.steps s.gangArrays | .error _ => 0)
  | 5 => vecSteps 24 n d1.rows (d1.ext 0) (epiCost (i.lo 56 4))
  | 6 => vecSteps 24 n d1.rows (d1.ext 0) (cvtCost (dsc i.d0).fmt)
  | 14 => vecSteps 24 n d1.rows (d1.ext 0) 6
  | 1 | 2 | 13 => z % 2 ^ 24
  | _ => 0

/-! ## Issue (R287, R306) -/

/-- The next instruction of a list may issue (R287): the list runs, no operation of it holds it back, nothing that it
issued has failed, and the part is not halted (R417). -/
def State.mayIssue (s : State) (p l : Nat) : Bool :=
  let g := s.gl p l
  let ops := s.opsOf p l
  s.pins.faultN && s.gp p macPart_enabled == 1 && s.lst p l == .running && !g.pausing && !g.stopping && !g.full && !s.effQuiesce gangPage &&
    (ops.isEmpty || (g.goOn && ops.all fun o => o.code == .ok && !o.saved))

/-- The operation of a list that a pause has saved, once the list runs again (R307). -/
def State.savedOp (s : State) (p l : Nat) : Option GOp :=
  let g := s.gl p l
  if s.pins.faultN ∧ s.gp p macPart_enabled = 1 ∧ s.lst p l = .running ∧ !g.pausing ∧ !g.stopping ∧ !s.effQuiesce gangPage then
    (s.opsOf p l).find? fun o => o.saved && o.wait == .run
  else none

/-- The class of a list's next work, whether it may start now, and its cost; `z` stands for the steps that the spec does
not count. -/
def State.nextWork (s : State) (p l z : Nat) : Option (Nat × Bool × Nat) :=
  match (s.opsOf p l).find? fun o => o.saved && o.wait == .run with
  | some o => if s.lst p l = .running then some (gangClass o.ins (s.dsc o), (s.savedOp p l).isSome, o.steps) else none
  | none =>
    if s.lst p l ≠ .running then none
    else
      let pc := s.gp p (macPart_pc.at l)
      let i := s.insAt pc
      let u := s.setup p i (s.desc p) s.gangArrays
      let k := s.issueCode p l pc i (s.desc p) u
      let cls := if i.ok then gangClass i (s.desc p) else 2
      some (if k = .ok ∨ cls ≠ 2 then cls else 2, s.mayIssue p l, if k = .ok then s.cost i (s.desc p) u z else 0)

/-- The next instruction of a list issues: its descriptors are read, its checks made, and it stands in flight, to be
carried out or to complete with the code of the check that failed. -/
def State.issueNext (s : State) (p l z : Nat) : State :=
  let pc := s.gp p (macPart_pc.at l)
  let i := s.insAt pc
  let arrays := s.gangArrays
  let u := s.setup p i (s.desc p) arrays
  let k := s.issueCode p l pc i (s.desc p) u
  let twin := match (setupOf u).bind (·.layer) with
    | some e => if s.hasTwin p e then [s.le p e macLayer_wt] else []
    | none => []
  let o : GOp :=
    { part := p, list := l, pc := pc, i0 := i.i0, i1 := i.i1
      descs := if k = .ok then (i.descs ++ twin).map fun d => (d, (s.desc p d).ws) else []
      arrays := arrays, pos := List.replicate arrays.length 0, flags := 0, sat := 0, coord := none
      steps := if k = .ok then s.cost i (s.desc p) u z else 0
      value := 0, code := k, wait := if k = .ok then .run else .done, saved := false }
  let stale := i.family = 4 ∧ i.variant = 1 ∧ k = .refusedState ∧
    (match s.layerOf p (i.hi 0 12) with | some e => s.twinStale p e | none => false) = true
  let s := s.pgp p (macPart_pc.at l) (pc + 16)
  let s := s.setGl { s.gl p l with goOn := i.goOn }
  let s : State := { s with gang := { s.gang with ops := s.gang.ops ++ [o] } }
  if stale then s.raise gangPage cTWIN_STALE else s

/-- A list takes its turn: its saved operation is reissued, or its next instruction issues. -/
def State.turn (s : State) (p l z : Nat) : State :=
  match s.savedOp p l with
  | some o => s.setOp { o with saved := false }
  | none => s.issueNext p l z

/-- An operation of a class is under way (R306). -/
def State.classBusy (s : State) (cls : Nat) : Bool :=
  s.gang.ops.any fun o => gangClass o.ins (s.dsc o) == cls && !o.saved &&
    (o.wait == .run || (o.wait == .done && !(s.gl o.part o.list).full))

/-- The lists of a partition in the order of their turns: from the one after the list served last in a class (R332). -/
def State.listOrder (s : State) (cls p : Nat) : List Nat :=
  let k := ((s.gang.last.find? fun e => e.1 == cls * 16 + p).map (·.2)).getD 3
  (upTo 4).map fun i => (k + 1 + i) % 4

/-- What a partition offers a class: whether it has work of it at all, and the list that may start, with its cost. -/
def State.offer (s : State) (cls p z : Nat) : Bool × Option (Nat × Nat) :=
  let l := (s.listOrder cls p).filterMap fun l => (s.nextWork p l (z + l)).bind fun w => if w.1 = cls then some (l, w.2) else none
  (!l.isEmpty, (l.find? fun e => e.2.1).map fun e => (e.1, e.2.2))

/-- The deficit of a partition in a class, and its replacement. -/
def clsDeficit (cls : Nat) : Fld := if cls = 0 then macPart_deficit else macPart_vdeficit

/-- The deficit round robin of R164 over partitions (R306): the partition, the list served, and the state after. -/
def State.drrTurn (s : State) (cls : Nat) (offers : List (Bool × Option (Nat × Nat))) : Nat → Option (Nat × Nat) × State
  | 0 => (none, s)
  | n + 1 =>
    let p := s.gang.cur.getD cls 0
    let move (s : State) : State :=
      { s with gang := { s.gang with cur := s.gang.cur.set cls ((p + 1) % 16), topped := s.gang.topped.set cls false } }
    match offers.getD p (false, none) with
    | (false, _) => State.drrTurn (move (s.pgp p (clsDeficit cls) 0)) cls offers n
    | (true, none) => State.drrTurn (move s) cls offers n
    | (true, some (l, c)) =>
      let s := if s.gang.topped.getD cls false then s
        else
          let s := s.pgp p (clsDeficit cls) (s.gp p (clsDeficit cls) + s.gp p macPart_quantum)
          { s with gang := { s.gang with topped := s.gang.topped.set cls true } }
      let d := s.gp p (clsDeficit cls)
      if c ≤ d then (some (p, l), s.pgp p (clsDeficit cls) (d - c)) else State.drrTurn (move s) cls offers n

/-- A list was served last in a class. -/
def State.serve (s : State) (cls p l : Nat) : State :=
  { s with gang := { s.gang with last := (s.gang.last.filter fun e => e.1 != cls * 16 + p) ++ [(cls * 16 + p, l)] } }

/-- What every partition offers a class; `z` as for nextWork. -/
def State.gangOffers (s : State) (cls z : Nat) : List (Bool × Option (Nat × Nat)) := (upTo 16).map fun p => s.offer cls p (z + 4 * p)

/-- Enough turns of the round robin for the dearest offer to be reached. -/
def offerTurns (offers : List (Bool × Option (Nat × Nat))) : Nat :=
  16 * (offers.foldl (fun m o => max m ((o.2.map (·.2)).getD 0)) 0 / 1024 + 3)

/-- The first list whose next work holds no class and may start. -/
def State.freeWork (s : State) : Option (Nat × Nat) :=
  ((upTo 16).flatMap fun p => (upTo 4).map fun l => (p, l)).find? fun e =>
    match s.nextWork e.1 e.2 0 with | some w => w.1 == 2 && w.2.1 | none => false

/-- A free class is given to a partition, and the next work of one of its lists starts; class 2 starts the first list
whose next instruction holds no class (R306, R332). -/
def State.gangSchedule (s : State) (cls : Nat) : State :=
  let z := (s.drawWide 1).1
  if cls = 0 ∨ cls = 1 then
    if s.classBusy cls ∨ (s.gangOffers cls z).all fun o => o.2.isNone then s
    else
      match (s.drawWide 1).2.drrTurn cls (s.gangOffers cls z) (offerTurns (s.gangOffers cls z)) with
      | (none, s) => s
      | (some (p, l), s) => (s.turn p l (z + 4 * p + l)).serve cls p l
  else if cls = 2 then
    match s.freeWork with
    | none => s
    | some (p, l) => s.turn p l 0
  else s

/-! ## Carrying out (R280, R292 to R305, R311) -/

/-- What carrying out an operation leaves to be done. -/
def GOp.ended (o : GOp) (c : Code) : GOp := { o with code := c, wait := .done }

/-- A product's array operation counts toward the slow-array monitor (R311). -/
def State.countLag (s : State) (p : Prod) (arrays : List Nat) : State :=
  let l := p.busiest arrays
  if l.length < 4 then s
  else
    let r := s.draw
    let q := l.getD (r.1 % l.length) 0
    let s := r.2.add gangPage H_LAG_ops 1
    s.add (.mac q) MAC_LAG_last_ops 1

/-- An element of a product's rounded result is above zero (R323). -/
def State.resultPos (s : State) (u : Setup) (m n : Nat) : Bool :=
  let o := u.out
  let v := if o.round then (s.elem o.y n m 0 0).1
    else
      let i := m * u.prod.outs + n
      let a := (Xsum.ofFull (s.readSpace o.space (o.addr + i * 96) 96)).column.1
      decodeScalar o.y.fmt (encodeScalar o.y.fmt ⟨Rnd.ofVal o.rnd, o.sat, srBits o.seed o.stream i⟩ a).1
  Ev.zero.lt v

/-- A product runs from where each array stands to some place further on. -/
def State.runArrays (s : State) (u : Setup) (o : GOp) (to_ : List Nat) : State × GOp :=
  let save := s.gp o.part macPart_save_base
  let deal := u.prod.deal o.arrays
  let r := (indexed deal).foldl (fun (r : MmRun) e =>
    r.array u.prod u.out save e.2.1 e.2.2 (o.pos.getD e.1 0) (to_.getD e.1 0)) ⟨s, o.flags, o.sat, o.coord⟩
  (r.st, { o with pos := to_, flags := r.flags, sat := r.sat, coord := r.coord })

/-- The places of each array of an operation when it has run to its end. -/
def placesAll (u : Setup) (arrays : List Nat) : List Nat := (u.prod.deal arrays).map fun e => e.2.length * u.prod.places

/-- MM or MMT carried out to its end: a forward product of a layer entry also keeps its X and its mask. -/
def State.carryProduct (s : State) (o : GOp) : State :=
  let p := o.part
  match s.setup p o.ins (s.dsc o) o.arrays with
  | .error c => s.setOp (o.ended c)
  | .ok u =>
    let r := s.runArrays u o (placesAll u o.arrays)
    let s := if u.out.round then r.1.written p u.out.y else r.1
    let s := match u.layer with
      | some e =>
        if o.ins.family = 3 then
          let s := if s.le p e macLayer_dw_needed = 1 then s.retain p e (s.dsc o o.ins.d1) else s
          if s.le p e macLayer_act = 1 then
            let t := s
            s.putMask p e u.prod.rows u.prod.outs (t.resultPos u)
          else s
        else s
      | none => s
    let s := (s.countTiles u.prod u.feed o.arrays).countLag u.prod o.arrays
    s.setOp { r.2 with wait := .done }

/-- A vector operation carried out: what it gave is noted. -/
def State.carryVector (s : State) (o : GOp) (d : Done) : State :=
  if d.code ≠ .ok then s.setOp (o.ended d.code)
  else
    let s := d.st.written o.part (s.dsc o o.ins.d0)
    s.setOp { o with flags := d.exc.flags, sat := d.exc.sat, coord := d.coord, wait := .done }

/-- EPI carried out (R292). -/
def State.carryEpi (s : State) (o : GOp) : State :=
  let i := o.ins
  let r := s.carryVector o (s.epi (i.lo 56 4) (i.lo 60 4) (i.hi 24 8) (i.hi 32 32) (s.dsc o i.d0) (s.dsc o i.d1)
    (s.dsc o (i.hi 0 12)) (s.dsc o (i.hi 12 12)))
  if i.lo 56 4 = 8 then r.written o.part (s.dsc o (i.hi 0 12)) else r

/-- The packets of an RDX (R304): runs of whole lines of at most 4,096 bytes. -/
def State.rdxPackets (s : State) (o : GOp) : List (List Byte) :=
  let i := o.ins
  let src := s.dsc o i.d0
  let c := i.d1
  let n := src.count
  let bs := (s.tensorBytes src).take (s.dataLen src)
  let per := if src.fmt = 9 then 16 else 4096 / fmtBytes src.fmt / 16 * 16
  let pays := if src.fmt = 9 then (xpeSplit (decide (s.rc c rdxCtx_out_fmt ≤ 4)) ((n + 15) / 16) bs).getD []
    else chunks (per * fmtBytes src.fmt) (n / per + 1) bs
  (indexed pays).map fun e =>
    let k := min per (n - per * e.1)
    mkPacket (s.rdxWords c (if src.fmt = 9 then 0x22 else 0x20) (s.rdxAddr.getD 0) c 0 (s.ctx c attCtx_epoch) (i.hi 10 32)
      (16 * i.hi 42 22 + per * e.1) k e.2.length (i.hi 0 10) src.fmt) e.2

/-- RDX carried out: its packets enter the reduction path of the rank's port as though they had arrived there (R304). -/
def State.carryRdx (s : State) (o : GOp) : State :=
  let i := o.ins
  let port := (((s.rx i.d1).ranks[i.hi 0 10]?).map (·.portId)).getD 0
  let op := if (s.dsc o i.d0).fmt = 9 then 0x22 else 0x20
  let pkts := s.rdxPackets o
  (pkts.foldl (fun s b => s.collIn op port (some (o.part, o.list)) b) s).setOp { o with wait := .lines i.d1 }

/-- Buffers for the packets of a message (R88); none, and nothing held, where the pools have too few. -/
def State.sendBufs : Nat → Nat → Nat → Nat → List Nat → State → Option (List Nat) × State
  | 0, _, _, _, l, s => (some l, s)
  | k + 1, d, lim, n, l, s =>
    if n = 0 then (some l, s)
    else match s.poolAlloc d (min lim n) with
      | (.ok, a, _, s) => State.sendBufs k d lim (n - min lim n) (l ++ [a]) s
      | (_, _, _, s) => (none, l.foldl (fun s b => s.hwFree d b) s)

/-- The packets of a message of the Gang, each in its buffer (R303). -/
def State.sndPackets (s : State) (o : GOp) (c : Nat) (m : Msg) (lim : Nat) (bs : List Byte) : Option State :=
  match State.sendBufs (bs.length / lim + 1) (s.ctxTile c / 4) lim bs.length [] s with
  | (none, _) => none
  | (some l, s) =>
    let s := s.setCx c { s.cx c with msgs := (s.cx c).msgs ++ [m] }
    let parts := if bs.isEmpty then [([], none)] else (chunks lim (bs.length / lim + 1) bs).zip (l.map some)
    some ((indexed parts).foldl (fun s e =>
      let s := match e.2.2 with
        | some a => s.writeSpace 0 a e.2.1
        | none => s
      s.addPkt c { s.msgPacket c m (lim * e.1) e.2.1.length with payload := e.2.1, buf := e.2.2 }) s)

/-- SND carried out: its message stands in the context's stream; it waits for buffers while there are too few (R303). -/
def State.carrySnd (s : State) (o : GOp) : State :=
  let i := o.ins
  let (raddr, w) := s.sendEntry o.part (i.lo 44 8)
  let c := bits w 32 12
  let k := s.gangCtx o.part c
  if k ≠ .ok then s.setOp (o.ended k)
  else
    let bs := s.tensorBytes (s.dsc o i.d0)
    let lim := s.payLimit (s.ctxGroup c)
    let q := s.ctx c attCtx_tx_msg_seq
    let x := s.cx c
    let put := !bit w 44
    let m : Msg := { seq := q, op := if put then .put else .send, tag := i.tag, laddr := 0, raddr := raddr + i.hi 0 48, len := bs.length
                     operand := 0, key := bits w 0 32, notify := bit w 45, sendIdx := x.nSend % 65536, issued := true, asked := bs.length
                     packets := max 1 ((bs.length + lim - 1) / lim), acked := 0, answered := 0, ended := none, old := 0
                     gang := true }
    match s.sndPackets o c m lim bs with
    | none => s
    | some s =>
      let s := s.pctx c attCtx_tx_msg_seq (q + 1)
      let s := if put then s else s.setCx c { s.cx c with nSend := x.nSend + 1 }
      s.setOp { o with wait := .done }

/-- RCV variants 0 and 1 carried out: the buffer is posted (R91, R303). -/
def State.carryRcv (s : State) (o : GOp) : State :=
  let i := o.ins
  let c := i.d1
  let x := s.cx c
  let d := s.dsc o i.d0
  let k := s.gangCtx o.part c
  if k ≠ .ok then s.setOp (o.ended k)
  else if 64 ≤ x.posted.length then s.setOp (o.ended .noResource)
  else
    let idx := x.nPosted % 65536
    let s := s.setCx c { x with posted := x.posted ++ [(idx, d.addr, s.tensorLen d, 0)], nPosted := x.nPosted + 1 }
    let s : State := { s with gang := { s.gang with recvs := s.gang.recvs ++ [⟨o.part, o.list, c, idx, d.ws, false⟩] } }
    s.setOp (if i.variant = 1 then { o with wait := .done } else { o with value := idx, wait := .recv [c] })

/-- WAIT carried out: the watch is armed with the Gang as its destination (R302). -/
def State.carryWait (s : State) (o : GOp) : State :=
  let i := o.ins
  let kind := i.variant
  match s.xlate o.part 2 (i.lo 32 14), s.xlate o.part kind (i.lo 46 16) with
  | some w, some id =>
    if s.tb .synWatch 0 w synWatch_state then s.setOp (o.ended .refusedState)
    else
      let s := (((s.pt .synWatch 0 w synWatch_kind kind).pt .synWatch 0 w synWatch_target_id id).pt .synWatch 0 w synWatch_epoch
        (i.hi 48 16)).pt .synWatch 0 w synWatch_dest (0x30 + o.part)
      let s := (s.pt .synWatch 0 w synWatch_dest_kind 0).pt .synWatch 0 w synWatch_want (i.hi 0 1)
      let s := s.setTw .synWatch 0 w 1 (i.hi 0 48)
      let r := s.arm w
      r.2.setOp (if r.1 = .ok then { o with wait := .watch w (r.2.t .synWatch 0 w synWatch_reg_seq) } else o.ended r.1)
  | _, _ => s.setOp (o.ended .denied)

/-- SIG carried out (R302). -/
def State.carrySig (s : State) (o : GOp) : State :=
  let i := o.ins
  let id := i.lo 32 16
  let ep := i.hi 32 16
  let r := if i.variant = 0 then s.signalVirt o.part id ep (i.hi 0 32)
    else match s.xlate o.part 1 id with
      | none => (.denied, s.xlateMiss)
      | some f => s.flagWrite (0x30 + o.part) f ep (i.variant == 1)
  r.2.setOp { o with code := r.1, wait := .done, value := i.hi 0 32 }

/-- CNT variant 1 carried out (R305). -/
def State.carryCounts (s : State) (o : GOp) : State :=
  let i := o.ins
  let c := i.lo 32 12
  let x := s.rx c
  let new := (indexed (s.cntValues (s.dsc o i.d1))).map fun e => (i.hi 0 32 + e.1, e.2)
  let s := s.setRx c { x with counts := (x.counts.filter fun e => !new.any fun n => n.1 == e.1) ++ new.filter fun n => n.2 != 0 }
  s.setOp { o with wait := .done }

/-- SMP carried out (R296). -/
def State.carrySmp (s : State) (o : GOp) : State :=
  let i := o.ins
  let src := s.dsc o i.d1
  if i.variant = 0 then
    s.carryVector o (s.smp (i.hi 0 16) (i.hi 32 32) (srMix (s.gp o.part macPart_sr_seed) (i.lo 56 8)) (s.dsc o i.d0) src)
  else
    let n := s.fresh
    let s : State := { s with fresh := s.fresh + src.count }
    s.carryVector o (s.smp (i.hi 0 16) (i.hi 32 32) (fun j => (Config.freeWord (n + j)).toNat) (s.dsc o i.d0) src)

/-- The oldest operation of a list that waits to be carried out. -/
def State.toRun (s : State) (p l fam var : Nat) : Option GOp :=
  (s.opsOf p l).find? fun o => o.wait == .run && !o.saved && o.ins.family == fam && o.ins.variant == var

/-- An operation of a family and variant is carried out, where a list has one. -/
def State.carry (s : State) (p l fam var : Nat) (f : State → GOp → State) : State :=
  match s.toRun p l fam var with
  | none => s
  | some o => if s.pins.faultN then f s o else s

/-- LDW carried out (R298, R319). -/
def State.carryLdw (s : State) (o : GOp) : State := (s.ldw o.part o.ins (s.dsc o)).setOp { o with wait := .done }

/-- STW carried out (R284). -/
def State.carryStw (s : State) (o : GOp) : State :=
  let d := s.dsc o o.ins.d0
  ((s.copyTensor d (s.dsc o o.ins.d1)).written o.part d).setOp { o with wait := .done }

/-- CVT carried out (R258 to R273). -/
def State.carryCvt (s : State) (o : GOp) : State :=
  let i := o.ins
  s.carryVector o (s.cvt (Cvt.ofWord (i.hi 0 32) (i.hi 32 32) (i.lo 56 8)) (s.dsc o i.d0) (s.dsc o i.d1))

/-- DIG carried out (R297, R300). -/
def State.carryDig (s : State) (o : GOp) : State :=
  let i := o.ins
  if i.variant = 0 then s.carryVector o (s.digTree (s.dsc o i.d0) (s.dsc o i.d1))
  else s.carryVector o (s.digAudit o.part (s.gl o.part o.list).digest (s.dsc o i.d0) (s.dsc o i.d1) ((i.descs.drop 2).map (s.dsc o)))

/-- RCV variant 2 carried out: it waits for the first receive written (R303). -/
def State.carryFirst (s : State) (o : GOp) : State := s.setOp { o with wait := .recv o.ins.recvCtxs }

/-- CNT variant 0 carried out: it waits for its result record (R305). -/
def State.carryFetch (s : State) (o : GOp) : State := s.setOp { o with wait := .result (o.ins.lo 32 10) (o.ins.hi 0 32) }

/-! ## Completion (R302, R303, R305, R309, R310) -/

/-- The record of an operation (R309). -/
def State.recordOf (s : State) (p l w0 code flags sat : Nat) (coord : Option (Nat × Nat × Nat)) (pc steps value : Nat) : List Byte :=
  let (m, n, k) := coord.getD (0, 0, 0)
  leBytes 8 (s.gp p macPart_cpl_written + w0 * 2 ^ 32 + l * 2 ^ 56) ++
    leBytes 8 (code + flags % 2 ^ 16 * 2 ^ 16 + min sat (2 ^ 32 - 1) * 2 ^ 32) ++ leBytes 8 (m % 2 ^ 32 + n % 2 ^ 32 * 2 ^ 32) ++
    leBytes 8 (k % 2 ^ 32 + b2n coord.isSome * 2 ^ 32) ++ leBytes 8 (pc % 2 ^ 48) ++ leBytes 8 (steps % 2 ^ 48) ++
    leBytes 8 value ++ leBytes 8 0

/-- The tag, family, variant and may-vary bit of an instruction, as a record's first word holds them above its seq. -/
def Ins.recordBits (i : Ins) : Nat := i.tag + i.family * 2 ^ 16 + i.variant * 2 ^ 20 + b2n i.mayVary * 2 ^ 26

/-- The completion ring of a partition is full (R309). -/
def State.ringFull (s : State) (p : Nat) : Bool :=
  (s.gp p macPart_cpl_written + 2 ^ 32 - s.gp p macPart_cpl_consumed) % 2 ^ 32 == 2 ^ s.gp p macPart_cpl_log2

/-- A record written, and cpl_written advanced after it. -/
def State.putRecord (s : State) (p : Nat) (bs : List Byte) : State :=
  let w := s.gp p macPart_cpl_written
  let a := s.gp p macPart_cpl_base + w % 2 ^ s.gp p macPart_cpl_log2 * 64
  (s.writeBuf (p + 1) (s.gp p macPart_cpl_host == 1) 0 a bs).pgp p macPart_cpl_written (w + 1)

/-- A list waits for ring room: CPL_RING_FULL is raised once. -/
def State.waitRoom (s : State) (p l : Nat) : State :=
  if (s.gl p l).full then s else (s.setGl { s.gl p l with full := true }).raise gangPage cCPL_RING_FULL

/-- A list is IDLE; the plan ends with the last list of the partition (R287, R324). -/
def State.endList (s : State) (p l : Nat) : State :=
  let s := ((s.setLst p l .idle).setGl { GList.zero p l with digest := (s.gl p l).digest })
  let s : State := { s with gang := { s.gang with ops := s.gang.ops.filter fun o => !(o.part == p && o.list == l) } }
  if s.listsIdle p then s.endPlan p else s

/-- A list stops with a code other than OK (R287). -/
def State.stopList (s : State) (p l : Nat) (c : Code) : State :=
  ((s.setLst p l .stopped).pgp p (macPart_code.at l) c.val).raise gangPage cLIST_STOPPED

/-- The record with ABORTED that ends a stopped list (R287); its instruction bits are those of an instruction given up,
else free. -/
def State.abortList (s : State) (p l : Nat) (o : Option GOp) : State :=
  if s.ringFull p then s.waitRoom p l
  else
    let r := s.draw
    let (w0, pc, s) := match o with
      | some o => (o.ins.recordBits, o.pc, s)
      | none => (r.1 % 2 ^ 24 + r.1 / 2 ^ 24 % 2 * 2 ^ 26, s.gp p (macPart_pc.at l), r.2)
    (s.putRecord p (s.recordOf p l w0 Code.aborted.val 0 0 none pc 0 0)).endList p l

/-- The operations of a list that are under way: those that an array, a vector die or a transfer still carries out. -/
def State.underWay (s : State) (p l : Nat) : Bool := (s.opsOf p l).any fun o => (o.wait == .run && !o.saved) || o.wait == .done

/-- A stop takes its last step once nothing of the list is under way. -/
def State.maybeAbort (s : State) (p l : Nat) : State :=
  if (s.gl p l).stopping ∧ !s.underWay p l then s.abortList p l (s.opsOf p l).head? else s

/-- What else follows an operation that has ended with OK: the training state, or a receive taken. -/
def State.afterOp (s : State) (o : GOp) : State :=
  let p := o.part
  let i := o.ins
  let u := match s.setup p i (s.dsc o) o.arrays with | .ok u => some u | .error _ => none
  match i.family with
  | 3 =>
    let s := s.inc gangPage MAC_GANG_OPS_count
    (match u.bind (·.layer) with
    | some e => s.forwardDone p e (s.dsc o i.d1) ((u.map Setup.work).getD 0)
    | none => s)
  | 4 =>
    let s := s.inc gangPage MAC_GANG_OPS_count
    (match u.bind (·.layer) with
    | some e =>
      let w := (u.map Setup.work).getD 0
      if i.variant = 1 then s.dxDone p e w else s.dwDone p e w (i.hi 20 1 == 1)
    | none => s)
  | 1 | 2 => if gangClass i (s.dsc o) = 0 then s.inc gangPage MAC_GANG_OPS_count else s
  | _ => s

/-- The GANG_FLAG events of an operation's flags (R310). -/
def State.flagEvents (s : State) (p flags : Nat) : State :=
  let m := flags &&& s.gp p macPart_event_mask
  (upTo 16).foldl (fun s i => if bit m i then s.raise gangPage cGANG_FLAG else s) s

/-- An operation completes (R309, R310): its record is written where one is due, its flags and counts are added, and a code
other than OK stops its list. -/
def State.completeOp (s : State) (o : GOp) : State :=
  let p := o.part
  let l := o.list
  let due := o.ins.cpl || o.code != .ok || o.ins.family == 0
  if due && s.ringFull p then (s.setOp o).waitRoom p l
  else
    let s := s.setGl { s.gl p l with full := false }
    let s := if o.code = .ok then s.afterOp o else s
    let s := if due then
        s.putRecord p (s.recordOf p l o.ins.recordBits o.code.val o.flags o.sat o.coord o.pc o.steps o.value) else s
    let s := s.pgp p macPart_sticky (s.gp p macPart_sticky ||| o.flags)
    let s := (s.flagEvents p o.flags).dropOp o
    let s := (s.pgp p macPart_ops (satAdd 48 (s.gp p macPart_ops) 1)).pgp p macPart_steps (satAdd 48 (s.gp p macPart_steps) o.steps)
    let s := if o.code ≠ .ok then s.stopList p l o.code
      else if o.ins.family = 0 ∧ s.lst p l ≠ .stopped then s.endList p l else s
    s.maybeAbort p l

/-- An operation that waits has what it waited for; the operation as it then completes, and the state after. -/
def State.ready (s : State) (o : GOp) : Option (GOp × State) :=
  match o.wait with
  | .done => if o.ins.family = 0 ∧ o.code = .ok ∧ (s.opsOf o.part o.list).head? ≠ some o then none else some (o, s)
  | .recv cs =>
    let mine (r : GRecv) : Bool := r.part == o.part && cs.contains r.ctx && (o.ins.variant == 2 || (r.list == o.list && r.idx == o.value))
    (match (s.gang.recvs.find? fun r => mine r && r.got), s.gang.recvs.any mine with
    | some r, _ =>
      some ({ o with value := if o.ins.variant = 2 then r.ctx else 0, wait := .done },
        { s with gang := { s.gang with recvs := s.gang.recvs.filter fun x => !(x.ctx == r.ctx && x.idx == r.idx) } })
    | none, true => none
    | none, false => if o.ins.variant = 2 then none else some (({ o with value := 0 }).ended .aborted, s))
  | .result slot seq =>
    if s.tb .scResult 0 slot scResult_valid ∧ s.t .scResult 0 slot scResult_seq = seq then
      let d := s.dsc o o.ins.d1
      let bs := ((upTo 32).flatMap fun j => leBytes 8 (s.tw .scResult 0 slot (1 + j))).take (s.scBytes slot)
      some ({ o with wait := .done }, (s.putTensorBytes d 0 bs).written o.part d)
    else none
  | .lines c =>
    if s.sub c = 0 ∨ s.sub c = 3 then some (o.ended .aborted, s)
    else if (s.rx c).claims.any fun k => k.gang == some (o.part, o.list) then none
    else some ({ o with wait := .done }, s)
  | _ => none

/-- GANG_OP_DONE: the first operation of a list that can complete completes. A list that does not run takes its messages
only once it runs again, or ends (R307). -/
def State.gangOpDone (s : State) (p l : Nat) : State :=
  if s.lst p l = .paused ∧ !(s.gl p l).stopping then s
  else if (s.gl p l).full then s
  else match (s.opsOf p l).findSome? s.ready with
  | none => s
  | some (o, s) => s.completeOp o

/-- A list no longer waits for ring room. -/
def State.noWait (s : State) (p l : Nat) : State := s.setGl { s.gl p l with full := false }

/-- CPL_RING_RESUME: a list that waits for ring room writes its record once there is room (R309). -/
def State.cplResume (s : State) (p l : Nat) : State :=
  if !(s.gl p l).full ∨ s.ringFull p then s
  else
    let s := s.noWait p l
    match (s.opsOf p l).find? fun o => o.wait == .done with
    | some o => s.completeOp o
    | none => s.maybeAbort p l

/-- The answer of its watch to an operation that waited for it. -/
def GOp.answered (o : GOp) (c : Code) (value : Nat) : GOp := { o with code := c, value := value, wait := .done }

/-- GANG_WATCH_MESSAGE (R302). A message of an arming that no list expects is discarded (R240). -/
def State.gangWatch (s : State) (slot seq code value : Nat) : State :=
  match s.gang.ops.find? fun o => o.wait == .watch slot seq with
  | none => s.inc gangPage MAC_WATCH_UNMATCHED_count
  | some o => s.setOp (o.answered (Code.ofVal code) value)

/-! ## Pauses and stops (R287, R307) -/

/-- The end of the save area's accumulators: the words of each array follow. -/
def saveWords : Nat := 48 * 2 ^ 20

/-- A product in progress is saved at the end of a row chunk. How far each array has come by then, no rule says. -/
def State.saveProduct (s : State) (o : GOp) : State :=
  let p := o.part
  let save := s.gp p macPart_save_base
  match s.setup p o.ins (s.dsc o) o.arrays with
  | .error c => s.setOp (o.ended c)
  | .ok u =>
    if !s.memMay (0x30 + p) (some p) 0 save (saveWords + 1024) .write ∨ hbmTop < save + saveWords + 1024 then
      s.setOp (o.ended .denied)
    else
      let all := placesAll u o.arrays
      let to_ := (indexed all).map fun e =>
        let from_ := o.pos.getD e.1 0
        from_ + (Config.freeWord (s.fresh + e.1)).toNat % (e.2 - from_ + 1)
      let s : State := { s with fresh := s.fresh + all.length }
      let r := s.runArrays u o to_
      let c := r.2.coord.getD (0, 0, 0)
      let s := (indexed o.arrays).foldl (fun s e =>
        s.writeSpace 0 (save + saveWords + 64 * e.2)
          ([to_.getD e.1 0, r.2.flags, r.2.sat, c.1, c.2.1, c.2.2, b2n r.2.coord.isSome, 0].flatMap (leBytes 8))) r.1
      s.setOp { r.2 with saved := true }

/-- PAUSE_TAKES_EFFECT: a product in progress is saved and yields its class; any other operation that is under way ends
and completes first. -/
def State.pauseNow (s : State) (p l : Nat) : State :=
  if !(s.gl p l).pausing ∨ s.lst p l ≠ .running then s
  else
    let product (o : GOp) : Bool := (o.ins.family == 3 || o.ins.family == 4) && o.wait == .run
    let busy := (s.opsOf p l).filter fun o => !o.saved && (o.wait == .run || (o.wait == .done && gangClass o.ins (s.dsc o) != 2))
    if busy.any fun o => !product o then s
    else
      let s := busy.foldl State.saveProduct s
      (s.setGl { s.gl p l with pausing := false }).setLst p l .paused

/-- HALT is carried out and completes, once every instruction before it in its list has completed (R287). -/
def State.haltNow (s : State) (p l : Nat) : State :=
  match s.toRun p l 0 0 with
  | none => s
  | some o =>
    if (s.opsOf p l).head? = some o ∧ s.lst p l ≠ .paused then s.completeOp { o with wait := .done } else s

/-- A partition under a debug halt shows halted once none of its lists runs (R387). -/
def State.showHalted (s : State) (p : Nat) : State :=
  if s.dbg.halted.contains p ∧ (upTo 4).all fun l => s.lst p l != .running then
    (s.p .dbg ⟨DBG_STATUS_halted.off, 3 + p, 1⟩ 1).pt .chrPart 0 p chrPart_halted 1
  else s

/-- A debug halt pauses every RUNNING list of a partition, and its end returns those lists (R387). -/
def State.gangHold (s : State) (p : Nat) : State :=
  (upTo 4).foldl (fun s l =>
    if s.lst p l = .running then s.setGl { s.gl p l with pausing := true, held := true } else s) s

def State.gangUnhold (s : State) (p : Nat) : State :=
  (upTo 4).foldl (fun s l =>
    if !(s.gl p l).held then s
    else
      let s := s.setGl { s.gl p l with pausing := false, held := false }
      if s.lst p l = .paused then s.setLst p l .running else s) s

/-- START (R287, R299, R324, R333). -/
def State.gangStart (s : State) (p l pc : Nat) (audit : Bool) : Code × State :=
  if pc + 16 ≤ spaceTop 1 ∧ !s.memMay (0x30 + p) (some p) 1 pc 16 .execute then (.denied, s)
  else if s.lst p l ≠ .idle then (.refusedState, s)
  else if spaceTop 1 < pc + 16 then (.badArg, s)
  else if s.training p ∧ s.tied p pc then (.badArg, s.raise gangPage cTRAIN_TIED)
  else if audit ∧ (s.listFrom (2 ^ 20) pc).isNone then (.badArg, s)
  else
    let r := if s.training p ∧ s.listsIdle p then s.fixPlan p else (.ok, s)
    if r.1 ≠ .ok then (r.1, s)
    else
      let n := ((s.listFrom (2 ^ 20) pc).getD []).length * 16
      let dig := if audit then treeDigest (s.readSpace 1 pc n) else List.replicate 64 0
      let s := r.2.setGl { GList.zero p l with audit := audit, digest := dig }
      let s := if audit then s.countSha n else s
      (.ok, ((s.pgp p (macPart_pc.at l) pc).pgp p (macPart_code.at l) 0).setLst p l .running)

/-- The other commands of a list (R287). -/
def State.gangPause (s : State) (p l : Nat) : Code × State :=
  if s.lst p l = .running then (.ok, s.setGl { s.gl p l with pausing := true }) else (.refusedState, s)

def State.gangResume (s : State) (p l : Nat) : Code × State :=
  if s.lst p l = .paused then (.ok, (s.setGl { s.gl p l with held := false }).setLst p l .running) else (.refusedState, s)

def State.gangStop (s : State) (p l : Nat) : Code × State :=
  if s.lst p l = .idle then (.refusedState, s)
  else (.ok, (s.setGl { s.gl p l with stopping := true, pausing := false }).maybeAbort p l)

/-- The row filter on a partition's row (R363). -/
def partRow (m p : Nat) : Bool := match vfPart (mst m) with | none => true | some q => q == p

/-- A write of MAC_CMD (R287). -/
def State.macCommand (s : State) (m v : Nat) : State :=
  let op := bits v 0 3
  let p := bits v 3 4
  let l := bits v 7 2
  s.onWrite m gangPage.page 0x228 fun b =>
    if partRow m p ∧ (op = 0 ∨ 4 < op) then s.refuseOp m b 0x228 0x238
    else
      let r := if !partRow m p then (Code.denied, s)
        else match op with
          | 1 => s.gangStart p l (s.g b MAC_CMD_ADDR_pc) (bit v 9)
          | 2 => s.gangPause p l
          | 3 => s.gangResume p l
          | _ => s.gangStop p l
      (if r.1.refuses then r.2.refuse m b 0x228 r.1 else r.2).finish b 0x238 r.1

/-! ## Training commands and table writes (R313, R318, R322, R324, R328) -/

/-- A write of MAC_TRAIN_CMD. -/
def State.trainCommand (s : State) (m v : Nat) : State :=
  let op := bits v 0 2
  let p := bits v 2 4
  let e := bits v 6 8
  s.onWrite m gangPage.page 0x310 fun b =>
    if !partRow m p then (s.refuse m b 0x310 .denied).finish b 0x318 .denied
    else if op = 0 ∨ op = 3 then s.refuseOp m b 0x310 0x318
    else if op = 1 then
      if s.retained p e then (s.dropRetention p e).finish b 0x318 .ok
      else (s.refuse m b 0x310 .refusedState).finish b 0x318 .refusedState
    else (s.ple p e macLayer_grad_count 0).finish b 0x318 .ok

/-- A master may write a partition's rows: the physical function's and the other operators' access is the page's table's;
a partition's masters reach their own (R313). -/
def ownRow (m p : Nat) : Bool := match reqPart m with | none => true | some q => q == p

/-- A word of the training tables keeps the alignments of its bases. -/
def trainAligned (config : Bool) (wd v : Nat) : Bool :=
  if config then (wd != 1 || bits v 0 26 % 2 ^ 16 == 0) && (wd != 2 || bits v 0 48 % 4096 == 0) && (wd != 4 || bits v 0 25 % 4096 == 0)
  else wd != 1 || bits v 0 52 % 64 == 0

/-- A write of MAC_TRAIN_DATA (R318). -/
def State.trainWrite (s : State) (m v : Nat) : State :=
  s.onWrite m gangPage.page 0x308 fun b =>
    let p := s.g b MAC_TRAIN_SEL_partition
    let cfg := s.gb b MAC_TRAIN_SEL_table
    let wd := s.g b MAC_TRAIN_SEL_word
    let t := if cfg then Tbl.macTrain else Tbl.macLayer
    let i := if cfg then p else p * 256 + s.g b MAC_TRAIN_SEL_entry
    let rw := (fieldsAt t.fields wd).any fun d => d.acc == .rw
    if !ownRow m p then s.denyWrite m b 0x308
    else if !rw then s
    else if !s.listsIdle p then s.refuse m b 0x308 .refusedState
    else if !tblOk t wd v ∨ !trainAligned cfg wd v then s.refuse m b 0x308 .badArg
    else s.storeTw t 0 i wd v

/-- Some other partition runs under policy T (R324). -/
def State.otherT (s : State) (p : Nat) : Bool :=
  (upTo 16).any fun q => q != p && s.training q && s.tc q macTrain_policy == 1 && s.tc q macTrain_plan_valid == 1 && !s.listsIdle q

/-- The masters that R313 lets write a partition entry: the physical function and the partition's own, beside those that
no table binds (R361). -/
def ptWriter (m p : Nat) : Bool := mst m == 0x10 || mst m == 0 || mst m == 8 || reqPart m == some p

/-- A write of MAC_PT_DATA (R313, R324). -/
def State.partWrite (s : State) (m v : Nat) : State :=
  s.onWrite m gangPage.page 0x220 fun b =>
    let p := s.g b MAC_PT_SEL_partition
    let wd := s.g b MAC_PT_SEL_word
    if !ptWriter m p then s.denyWrite m b 0x220
    else if (wd = 1 ∨ wd = 2 ∨ wd = 3 ∨ wd = 5) ∧ !s.listsIdle p then s.refuse m b 0x220 .refusedState
    else if wd = 0 ∧ bit v 24 ∧ s.otherT p then s.refuse m b 0x220 .refusedState
    else if !tblOk .macPart wd v ∨ ((wd = 1 ∨ wd = 3) ∧ bits v 0 48 % 4096 ≠ 0) then s.refuse m b 0x220 .badArg
    else s.storeTw .macPart 0 p wd v

/-! ## Resets and faults (R287, R314, R334, R335, R369) -/

/-- The Gang's part of a partition's reset: its lists are IDLE, work in progress is discarded without a record, and the
training state is back at reset. -/
def State.gangReset (s : State) (p : Nat) : State :=
  let s := (upTo 4).foldl (fun s l => s.setLst p l .idle) s
  let s : State := { s with gang := { s.gang with
    ops := s.gang.ops.filter fun o => o.part != p
    lists := s.gang.lists.filter fun x => x.part != p
    recvs := s.gang.recvs.filter fun r => r.part != p } }
  s.trainReset p

/-- An uncorrectable error in the operation of a class: it completes with INTEGRITY (R314, R335). -/
def State.gangIntegrity (s : State) (cls : Nat) (only : GOp → Bool) : State :=
  match s.gang.ops.find? fun o => gangClass o.ins (s.dsc o) == cls && !o.saved && (o.wait == .run || o.wait == .done) && only o with
  | none => s
  | some o => s.setOp (o.ended .integrity)

/-- RETAIN_ECC_UNCORR and GRAD_ECC_UNCORR: the layer entry of the running MMT loses its retention, or its sums (R335). -/
def State.trainIntegrity (s : State) (grad : Bool) : State :=
  let is (o : GOp) : Bool := o.ins.family == 4 && (!grad || o.ins.variant == 2)
  match s.gang.ops.find? fun o => is o && !o.saved && (o.wait == .run || o.wait == .done) with
  | none => s
  | some o =>
    let s := s.setOp (o.ended .integrity)
    match s.layerOf o.part (o.ins.hi 0 12) with
    | none => s
    | some e => if grad then s.ple o.part e macLayer_grad_count 0 else s.dropRetention o.part e

end Sys2Proof.Machine
end

