-- ==== Sys2Proof/Machine/PortOps.lean ====
section
/-! DEFINITION. What a logical port carries with it when its stage changes (R51, R70, R96, R99, R119, R131). -/

namespace Sys2Proof.Machine

/-! ## Bundles of level 3 (R119, R131) -/

/-- The parts of the brood, and this part's own index. -/
def State.devices (s : State) : Nat := s.g .xbarDev XBAR_L3_CFG_devices
def State.selfDev (s : State) : Nat := s.g .xbarDev XBAR_L3_CFG_self

/-- The brood-link ports of a tile, in ascending port id. -/
def State.broodPorts (s : State) (t : Nat) : List Nat :=
  ((upTo 32).filter fun i => bit (s.reg .xbarDev (0x180 + 8 * t)) i).map (32 * t + ·)

/-- The other devices of the brood, ascending. -/
def State.partners (s : State) : List Nat := (upTo s.devices).filter (· != s.selfDev)

/-- The bundle of a tile towards each partner: its ports in ascending id fill the partners' lanes in turn. -/
def State.bundles (s : State) (t : Nat) : List (Nat × List Nat) :=
  let each := s.g .xbarDev XBAR_L3_CFG_brood_lanes / max 1 (s.devices - 1)
  let starts := ((s.broodPorts t).foldl (fun (r : List (Nat × Nat) × Nat) p => (r.1 ++ [(p, r.2)], r.2 + (s.portLanes p).length)) ([], 0)).1
  (indexed s.partners).map fun e => (e.2, (starts.filter fun q => q.2 / max 1 each == e.1).map (·.1))

/-- The partner that a brood-link port leads to, with the ports of its bundle. -/
def State.bundleOf (s : State) (port : Nat) : Option (Nat × List Nat) :=
  if 1 < s.devices then (s.bundles (portTile port)).find? fun b => b.2.contains port else none

/-- A device in or out of the level-3 pattern. The cells held for one that is out are discarded and counted (R131). -/
def State.l3Member (s : State) (d : Nat) (v : Bool) : State :=
  let lost := if v then [] else s.swc.mids3.filter fun e => e.2.dev.toNat == d
  let s := if lost.isEmpty then s else
    ({ s with swc := { s.swc with mids3 := s.swc.mids3.filter fun e => e.2.dev.toNat != d } }.add .xbarDev
      XBAR_EVAC_DROPS_count lost.length).raise .xbarDev cEVAC_DROP
  let s := s.p .xbarDev ⟨XBAR_L3_STATUS_members.off, XBAR_L3_STATUS_members.lo + s.selfDev, 1⟩ 1
  s.p .xbarDev ⟨XBAR_L3_STATUS_members.off, XBAR_L3_STATUS_members.lo + d, 1⟩ (b2n v)

/-- A bundle that has lost every lane takes its far device out of level 3, where the part may evacuate on its own. -/
def State.bundleDown (s : State) (port : Nat) : State :=
  match s.bundleOf port with
  | none => s
  | some (d, ps) =>
    if ps.any s.active then s
    else
      let s := s.raise .xbarDev cL3_BUNDLE_DOWN
      if s.gb .xbarDev XBAR_CFG_auto_evac then s.l3Member d false else s

/-- A bundle that has a lane has its far device in level 3. -/
def State.bundleUp (s : State) (port : Nat) : State :=
  match s.bundleOf port with
  | none => s
  | some (d, _) => s.l3Member d true

/-! ## Stages (R51) -/

/-- A port has left ACTIVE: its link layer, its queues and its switchovers end, and an attach port's contexts fail (R96,
R99). -/
def State.portDown (s : State) (port : Nat) : State :=
  let s := (s.dropPort port).endLl port
  let s := (s.portGroups port).foldl State.failGroup s
  let mine := s.sws.filter fun w => s.lanePort w.die w.lane == port
  let s := mine.foldl State.undoSwitch s
  let s : State := { s with swWaits := s.swWaits.filter fun w => s.lanePort w.die w.lane != port }
  s.bundleDown port

/-- What a port holds of its capability exchange ends, and what its control codewords said (R51, R52). -/
def State.endCapex (s : State) (port : Nat) : State :=
  let s := ((s.php port H_PORT_mism 0).php port H_PORT_sent 0).php port H_PORT_got 0
  let s := ((s.php port H_PORT_spares 0).php port H_PORT_precode 0).php port H_PORT_fault 0
  let s := (s.portLanes port).foldl (fun s l => s.ctlMsg l 0 []) s
  (s.showSpares port).endLl port

/-- A port takes a stage: its registers follow, and leaving ACTIVE takes down what rides on it. -/
def State.moveStage (s : State) (port st : Nat) : State :=
  let was := s.active port
  let s := if st < 4 then s.endCapex port else s
  let s := s.showPort port st
  if was ∧ st ≠ 5 then s.portDown port else if !was ∧ st = 5 then s.bundleUp port else s

/-- A port restarts or stops: DETECT where it may leave OFF, else OFF (R51). -/
def State.wakePort (s : State) (port : Nat) : State :=
  if s.portMay port then (if s.stage port = 0 then s.moveStage port 1 else s)
  else if s.stage port = 0 then s else s.moveStage port 0

/-- An attach group's address equals one that it must not equal (R65). -/
def State.addrMatch (s : State) (g : Nat) : Bool :=
  let addr (x : Nat) : Nat := s.g (.att (x / 8)) (ATT_GRP_ADDR_addr.at (0x40 * (x % 8)))
  let odd (x : Nat) : Bool := s.breakout x == 3 && x % 2 == 1
  s.pers g == .tlinkAttach && !odd g &&
    ((upTo 256).any (fun x => x != g && s.pers x == .tlinkAttach && s.st (.grp x) != .off && !odd x && addr x == addr g) ||
      s.rdxAddr == some (addr g) || s.synAddr == some (addr g))

/-- A group leaves OFF: an attach group compares its address, and a match holds its port in CAPEX (R65). -/
def State.holdGroup (s : State) (g : Nat) : State := s.php (4 * g) H_PORT_held (b2n (s.addrMatch g))

/-- Every port of a group restarts or stops. -/
def State.wakeGroup (s : State) (g : Nat) : State := (s.groupPorts (if s.breakout g = 3 then g / 2 * 2 else g)).foldl State.wakePort s

/-- A group's page is trained once every logical port of the group is ACTIVE (R51). -/
def State.groupTrained (s : State) (g : Nat) : Bool :=
  let l := s.groupPorts (if s.breakout g = 3 then g / 2 * 2 else g)
  !l.isEmpty && l.all s.active

end Sys2Proof.Machine
end

