-- ==== Sys2Proof/Machine/Resets.lean ====
section
/-! DEFINITION. Page resets, page state changes and what they carry with them, partition resets, halts, and the
settling of the level actions that the collectors owe. -/

namespace Sys2Proof.Machine

/-! ## Page states (R29, R30) -/

/-- Evacuation asked of a page: on the page itself, or on an ancestor that can be evacuated (R24). -/
def State.effEvacuate (s : State) (b : Blk) : Bool :=
  b.canEvacuate && (s.gb b CTRL_evacuate || (s.reach b).any fun a => a.canEvacuate && s.gb a CTRL_evacuate)

/-- A switch tile leaves the pattern at once (R415): what is queued for it across the planes is counted as evacuation
drops, and its own frames are lost. -/
def State.tileGone (s : State) (t : Nat) (halted : Bool) : State :=
  let s := if halted then s.evacDrop t else s
  let s := (s.dropTile t).leavePattern t false
  if s.swc.evac = some t then { (s.p .xbarDev XBAR_STATUS_evac_busy 0) with swc := { s.swc with evac := none, drained := false } }
  else { s with swc := { s.swc with evacWait := s.swc.evacWait.filter (· != t) } }

/-- The endpoint's link is up: four lanes at 64 GT/s in FLIT mode (R441, R445). -/
def State.pciUp (s : State) : State := ((s.p .pci PCI_LINK_speed 6).p .pci PCI_LINK_width 4).p .pci PCI_LINK_flit 1

/-- Host write-outs in progress end with ABORTED (R36). -/
def State.abortHostSnaps (s : State) : State :=
  { s with snaps := s.snaps.map fun x => if x.host then { x with code := .aborted } else x }

/-- The endpoint's link goes down, and the host write-outs over it end (R36, R445). -/
def State.pciDown (s : State) : State := (s.setReg .pci 0x100 0).abortHostSnaps

/-- What a change of a page's state carries with it in its block. -/
def State.onState (s : State) (b : Blk) (old new : PState) : State :=
  let s := if new = .quiesced then s.p b STATE_draining 1 else if old = .quiesced then s.p b STATE_draining 0 else s
  match b with
  | .grp g =>
    let s := if old = .off then s.holdGroup g else s
    if old = .off ∨ new = .off ∨ new = .faulted then s.wakeGroup g else s
  | .die k => if old = .off ∨ new = .off ∨ old = .faulted ∨ new = .faulted then (s.diePorts k).foldl State.wakePort s else s
  | .swt t =>
    if new = .off ∨ new = .faulted then s.tileGone t (new == .faulted)
    else if new = .inService ∧ s.boot.running ∧ !s.members.contains t then s.joinPattern t
    else s
  | .pool d => if new = .off then { s with caches := s.caches.filter fun e => e.1 / 8 != d } else s
  | .vec n => if old = .inService then s.engineGone n else s
  | .pci => if new = .off then s.pciDown else if old = .training ∧ s.pins.perstN then s.pciUp else s
  | _ => s

/-- A page takes a state, with what that carries. -/
def State.toSt (s : State) (b : Blk) (p : PState) : State :=
  let old := s.st b
  if old = p then s else (s.setSt b p).onState b old p

/-- The state that a page takes when its training is done (R29). -/
def State.afterTraining (s : State) (b : Blk) : PState :=
  if s.effEvacuate b then .evacuated
  else if s.effQuiesce b then .quiesced else .inService

/-- Training of a page ends. -/
def State.trained (s : State) (b : Blk) : State :=
  if s.st b = .training then (s.alignTrained b).toSt b (s.afterTraining b) else s

/-- A brood is quiet: every descendant is QUIESCED, EVACUATED, OFF or FAULTED (R29), but for the Cocoon's pages, which
no ancestor's quiesce reaches (R438). -/
def State.broodQuiet (s : State) (b : Blk) : Bool :=
  (b.subtree.drop 1).all fun k => (s.st k != .inService && s.st k != .training) || k == .ccn || k == .stwC 3

/-- The state that a page's controls now ask of it (R29); its own state where no row applies. -/
def State.asked (s : State) (b : Blk) : PState :=
  match s.st b with
  | .off => if s.effEnable b then .training else .off
  | .training => if s.effEnable b then .training else .off
  | .inService =>
    if s.effEvacuate b then .evacuated
    else if s.effQuiesce b ∧ s.broodQuiet b then .quiesced else .inService
  | .quiesced =>
    if s.effEvacuate b then .evacuated
    else if !s.effEnable b then .off
    else if s.effQuiesce b then .quiesced else .inService
  | .evacuated =>
    if !s.effEnable b then .off else if s.effEvacuate b then .evacuated else .training
  | .faulted => if s.effEnable b then .faulted else .off

/-- A page takes the state that its controls ask. A switch tile in the pattern drains first (R131). -/
def State.follow (s : State) (b : Blk) : State :=
  match b with
  | .swt t =>
    if s.asked b = .evacuated ∧ s.st b ≠ .evacuated ∧ s.members.contains t then s.startEvac t else s.toSt b (s.asked b)
  | _ => s.toSt b (s.asked b)

/-- The pages of a subtree follow their controls, the deepest first for a quiesce to climb, then its ancestors. -/
def State.followAll (s : State) (b : Blk) : State :=
  let s := b.subtree.foldl State.follow s
  (b.subtree.reverse ++ s.reach b).foldl State.follow s

/-! ## Slow arrays (R311) -/

/-- What the end of a lag window does to an array: 256 times its count against the threshold times the window. An array
that the part excludes leaves the Gang: the operation in progress keeps the arrays it started with (R312). -/
def State.lagOf (s : State) (q thr : Nat) : State :=
  let b := gangPage
  let a := Blk.mac q
  let beyond := decide (thr ≤ 256 * s.g a MAC_LAG_last_ops)
  let s := (s.p a MAC_LAG_last_ops 0).p a MAC_LAG_over (b2n beyond)
  if beyond then
    let s := (s.inc a MAC_LAG_windows_over).raise a cARRAY_LAG
    let out := ((upTo 16).filter fun k => s.gb (.mac k) CTRL_evacuate).length
    if s.gb b MAC_GANG_CFG_auto_exclude ∧ out < s.g b MAC_GANG_CFG_auto_max then (s.p a CTRL_evacuate 1).follow a else s
  else s

/-- The end of an array-lag window. -/
def State.arrayLag (s : State) : State :=
  let b := gangPage
  let w := 2 ^ s.g b MAC_GANG_CFG_lag_window
  if s.g b H_LAG_ops < w then s
  else
    let thr := s.g b MAC_GANG_CFG_lag_threshold * w
    (upTo 16).foldl (fun s q => s.lagOf q thr) (s.p b H_LAG_ops 0)

/-! ## Freeze (R32 to R34) -/

/-- The tables of a page. -/
def Blk.tables (b : Blk) : List Tbl := ((upTo 64).filterMap Tbl.ofCode).filter fun t => t.owner b.scopeNo == b

/-- A page captures what its registers and its tables show (R32). -/
def State.capture (s : State) (b : Blk) : State :=
  let v : View := ⟨b.page, s.regs, s.tabs, s.rcxs, s.scs, s.gang, s.ccn, s.pins, s.caches, s.sec, s.mesh⟩
  State.inc { s with views := (s.views.filter fun x => x.page != b.page) ++ [v] } b FREEZES_count

/-- A page lets its captured view go (R34). -/
def State.release (s : State) (b : Blk) : State :=
  if s.capPages.contains b.page then
    let s : State := { s with
      views := s.views.filter fun x => x.page != b.page
      cow := s.cow.filter fun k =>
        match Tbl.ofCode (k / 2 ^ 40) with
        | none => true
        | some t => t.owner (k / 2 ^ 32 % 2 ^ 8) != b }
    (s.p b STATE_frozen 0).p b STATE_freeze_overrun 0
  else s.p b STATE_frozen 0

/-- A page lies in the brood of a snapshot whose write-out still runs: its view is needed until then (R35, assumption
150). -/
def State.inSnap (s : State) (b : Blk) : Bool :=
  s.snaps.any fun x => x.page == b.page || (s.reach b).any fun a => x.page == a.page

/-- The pages of a subtree whose effective freeze has ended let their views go. -/
def State.thaw (s : State) (b : Blk) : State :=
  b.subtree.foldl (fun s k => if s.effFreeze k || s.inSnap k then s else s.release k) s

/-- A frozen page whose tables have changed in more than 4,096 entries has lost its tables' view (R34). -/
def State.overrun (s : State) : State :=
  s.capPages.foldl (fun s pg =>
    match blkOf true pg with
    | none => s
    | some b =>
      let n := (s.cow.filter fun k =>
        match Tbl.ofCode (k / 2 ^ 40) with
        | none => false
        | some t => t.owner (k / 2 ^ 32 % 2 ^ 8) == b).length
      if 4096 < n ∧ !s.gb b STATE_freeze_overrun then (s.p b STATE_freeze_overrun 1).raise b cFREEZE_OVERRUN else s) s

/-! ## Page reset (R27) -/

/-- The registers that a page reset keeps: the common counters, ERR_STATUS with its details, ERR_MASK, OWNER, the
access table, the records and locked fields that R27 names, and what shows an input's live level (LNK_DIE_REFCLK). -/
def keptByReset (b : Blk) (off : Nat) : Bool :=
  off == 0x028 || off == 0x038 || off == 0x058 || off == 0x078 || (0x080 ≤ off && off < 0x0B8)
    || (0x740 ≤ off && off < 0x758) || off == 0x1000 ||
  (if b.isSteward then decide (0x100 ≤ off ∧ off < 0x110) || decide (0x140 ≤ off ∧ off < 0x1C0) || off == 0x1200 else
  match b with
  | .die _ => off == 0x100 || off == 0x118 || off == 0x120
  | .fltDev => off == 0x100 || off == 0x118 || off == 0x120 || off == 0x128
  | .fltB _ | .fltW _ => off == 0x128
  | .pwr => off == 0x148
  | .thx => decide (0x500 ≤ off ∧ off < 0x510) || decide (0x540 ≤ off ∧ off < 0x5C0) || off == 0x1200
  | .chr => off == 0x100 || (0x110 ≤ off && off < 0x160)
  | .hbm _ => off == 0x318
  | .bse _ => off == 0x1100
  | _ => false)

/-- The registers of a page at their reset values, but for those that a page reset keeps. -/
def State.clearPage (s : State) (b : Blk) : State :=
  let lo := regKey b.page 0
  { s with regs := s.regs.filter fun e => e.1 < lo || lo + 0x2000 ≤ e.1 || keptByReset b (e.1 - lo) }

/-- The tables that a page's reset clears: those of the page alone, but for the objects of the Roost (R484), the entries
that go with ownership on the CHR page, and the free rings, which the next enable rebuilds (R148). -/
def State.clearTabs (s : State) (b : Blk) : State :=
  match b with
  | .chr => s
  | .syn => s.waitClear
  | _ =>
    let labels := match b with
      | .swt t => (upTo 32).map fun i => (i, s.t .clsPort t i clsPort_label)
      | _ => []
    let s := (b.tables.filter fun t => !t.wide).foldl (fun s t => s.clearTab t b.scopeNo 0 (2 ^ 20)) s
    match b with
    | .swt t => labels.foldl (fun s e => s.pt .clsPort t e.1 clsPort_label e.2) s
    | _ => s

/-- The transport contexts that hold a buffer in a die's region (R153). -/
def State.bufCtxs (s : State) (d : Nat) : List Nat :=
  let here (p : TxP) : Bool := match p.buf with | some a => a / (72 * 10 ^ 9) == d | none => false
  (s.cxs.filter fun e => e.2.pkts.any here || s.lrds.any fun l => l.ctx == e.1 && here l.pkt).map (·.1)

/-- The reset of a pool discards every spilled frame of its die and fails the contexts that hold its buffers, while the
manager still takes their buffers back (R153). -/
def State.poolDrain (s : State) (d : Nat) : State :=
  let s := s.dropSpills (s.swc.cps.filter fun c => s.swc.blocks.any fun k =>
    k.die == d && (if k.egress then c.place == .spillEg && c.cid == k.cid else c.place == .spillIn && c.fid == k.cid))
  (s.bufCtxs d).foldl (fun s c => s.failCx c none) s

/-- What the reset of a page clears in its block beside registers. -/
def State.blockReset (s : State) (b : Blk) : State :=
  let s : State := match b with
    | .grp g =>
      if g % 2 = 0 ∧ s.breakout g = 3 then
        -- R62: a page reset of the even group ends the bond
        let s := s.moveStage (4 * g) 0
        (s.setReg (.grp (g + 1)) 0x100 (resetReg (.grp (g + 1)) 0x100)).wakeGroup (g + 1)
      else s
    | .chr => { s with sec := { s.sec with entropyBad := false } }
    | .meshB d => s.setHeld (s.mesh.held.filter fun h => meshDie (h.x.toNat, h.y.toNat) != d)
    | .bse d => (upTo 4).foldl (fun s i => s.dropTile (4 * d + i)) s
    | .swt t => s.dropTile t
    | .att t => ((s.listed .attCtx 0 0).filter fun e => bits e.2 0 3 != 0 && bits e.2 0 3 != 4 && bits e.2 8 8 / 8 == t).foldl
        (fun s e => s.resetCx e.1) s
    | .rdx n =>
      let s := s.engineGone n
      s.rdxCtxs.foldl (fun s c => s.setRx c { s.rx c with reserved := (s.rx c).reserved.filter fun e => e.1 != n }) s
    | .pool d =>
      let s : State := { s with caches := s.caches.filter fun e => e.1 / 8 != d }
      (s.clearTab .poolRing d 0 (2 ^ 20 - 1)).clearTab .poolMap d 0 (2 ^ 20 - 1)
    | .mac a =>
      if a = 0 then
        let s := (upTo 16).foldl State.gangReset s
        s.clearTab .macPart 0 0 16
      else s
    | .pci => { s with hst := { s.hst with turn := 63, waits := [], coal := [] } }
    | _ => s
  s.clearTabs b

/-- The cells that a die has retired stay out of its free cells (chapter 6). -/
def State.keepRetired (s : State) (d : Nat) : State :=
  let n := s.g (.bse d) H_BSE_retired
  if n = 0 then s else (s.p (.bse d) BSE_CELL_FREE_free (131072 - n)).p (.bse d) BSE_CELL_FREE_low_water (131072 - n)

/-- The ports that a lane page's reset takes down, since the lane is down while it runs (R51). -/
def State.lanePorts (s : State) (b : Blk) : List Nat :=
  match b with
  | .lane k n =>
    if n < 64 then [s.lanePort k n]
    else if s.gb b LNK_LANE_STATUS_on_spare then [s.lanePort k (s.g b LNK_LANE_STATUS_peer_lane)] else []
  | _ => []

/-- The store budgets that a page's reset changes are computed afresh (R176). -/
def State.budgetAfter (s : State) (b : Blk) : State :=
  match b with
  | .bse d => s.checkBudget d
  | .swt t => s.checkBudget (t / 4)
  | .grp g => s.checkBudget (g / 32)
  | _ => s

/-- One page is reset (R27): OFF, its registers and block back at reset, its epoch advanced, its template rewritten. -/
def State.resetOne (s : State) (b : Blk) : State :=
  if b = .ccn ∨ b = .stwC 3 then s else
  let bonded : Option Nat := match b with
    | .grp g => if g % 2 = 1 ∧ s.breakout g = 3 then some (s.reg b 0x100) else none
    | _ => none
  let s : State := { s with snaps := s.snaps.map fun x => if x.page = b.page then { x with code := .aborted } else x }
  let s : State := { s with jobs := s.jobs.filter fun j => j.page != b.page }
  let s := match b with | .pool d => s.poolDrain d | _ => s
  let s := s.toSt b .off
  let ports := s.lanePorts b
  let s := ports.foldl (fun s p => if s.stage p = 0 then s else s.moveStage p 0) s
  let s := s.blockReset b
  let snap := s.reg b 0x050
  let e := s.g b EPOCH_epoch
  let up := s.g b STATE_unpowered
  let s := s.clearPage b
  let s := if s.snaps.any (·.page == b.page) then s.setReg b 0x050 snap else s
  let s : State := match bonded with | some v => s.setReg b 0x100 v | none => s
  let s : State := if s.g b OWNER_owned = 1 then
    (upTo 8).foldl (fun s i => s.setReg b (0x7C0 + 8 * i) ((partitionAcl b (s.g b OWNER_partition)).getD i 0)) s else s
  let s := ports.foldl State.wakePort (((s.release b).p b STATE_unpowered up).p b EPOCH_epoch ((e + 1) % 2 ^ 32))
  s.budgetAfter b

/-- A reset written to a page resets the page and every descendant once (R24). -/
def State.pageReset (s : State) (b : Blk) : State := b.subtree.foldl State.resetOne s

/-- CTRL.enable set by the part itself on pages, in order (R394). -/
def State.enablePages (s : State) (bs : List Blk) : State :=
  let s := bs.foldl (fun s b => s.p b CTRL_enable 1) s
  bs.foldl State.follow s

/-! ## Partitions (R368, R369) -/

/-- The state of a partition: 0 FREE, 1 ACTIVE, 2 RELEASING. -/
def State.partSt (s : State) (p : Nat) : Nat := s.t .chrPart 0 p chrPart_state

/-- Some reduction context is RUNNING or DRAINING. -/
def State.rdxBusy (s : State) : Bool := s.rdxCtxs.any fun c => s.sub c == 1 || s.sub c == 2

/-- Every reduction context of a partition is FREE. -/
def State.rdxFree (s : State) (p : Nat) : Bool := s.rdxCtxs.all fun c => s.rc c rdxCtx_partition != p

/-- The transport contexts of a partition that are not FREE, and its reduction contexts. -/
def State.ctxsOfPart (s : State) (p : Nat) : List Nat :=
  ((s.listed .attCtx 0 0).map (·.1)).filter fun c => s.ctxSt c != 0 && s.ctxSt c != 4 && s.ctx c attCtx_partition == p
def State.rdxOfPart (s : State) (p : Nat) : List Nat := s.rdxCtxs.filter fun c => s.rc c rdxCtx_partition == p

/-- A partition that the debug session halted resumes: its lists, and its pages, but for one with a write-out in
progress (R35, R387). -/
def State.debugResume (s : State) (p : Nat) : State :=
  if !s.dbg.halted.contains p then s
  else
    let mine := (upTo 256).filter fun g => s.dbg.pages.contains (Blk.grp g).page && s.g (.grp g) OWNER_partition == p
    let s := s.gangUnhold p
    let s := mine.foldl (fun s g =>
      if s.gb (.grp g) SNAP_SEQ_busy then s else (s.p (.grp g) CTRL_freeze 0).thaw (.grp g)) s
    let s := (s.p .dbg ⟨DBG_STATUS_halted.off, 3 + p, 1⟩ 0).pt .chrPart 0 p chrPart_halted 0
    { s with dbg := { s.dbg with
      halted := s.dbg.halted.filter (· != p)
      pages := s.dbg.pages.filter fun g => !(mine.map fun k => (Blk.grp k).page).contains g } }

/-- Consent and halt of a partition end (R369 step 4, R388). -/
def State.endConsent (s : State) (p : Nat) : State :=
  let s := s.debugResume p
  let s := s.p .chr ⟨CHR_DEBUG_consent.off, 3 + p, 1⟩ 0
  let s := s.pt .chrPart 0 p chrPart_consent 0
  { s with sec := { s.sec with consents := s.sec.consents.filter (·.1 != p) } }

/-- RESET of a partition (R369): the Gang, the contexts, the Roost, then the epoch. -/
def State.partReset (s : State) (p : Nat) : State :=
  let mine := s.ctxsOfPart p ++ s.rdxOfPart p
  let s := s.gangReset p
  let s := (s.ctxsOfPart p).foldl State.resetCx s
  let s := (s.rdxOfPart p).foldl State.resetRdx s
  let s := s.roostReset p fun c => mine.contains c
  let s := s.pt .chrPart 0 p chrPart_epoch ((s.t .chrPart 0 p chrPart_epoch + 1) % 2 ^ 32)
  s.endConsent p

/-! ## Halts (R415, R417) -/

/-- The record of a halt (R417). -/
def State.haltRecord (s : State) (a : Act) (pageId : Nat) : State :=
  let s := s.setReg .fltDev 0x118 pageId
  s.setReg .fltDev 0x120 (a.cls + a.level * 2 ^ 6 + b2n a.forced * 2 ^ 9 + b2n a.escalated * 2 ^ 10 +
    s.g .chr CHR_BOOT_COUNT_count * 2 ^ 32)

/-- The path of a page as PAGE_ID shows it: from the part's own root, or from `Dn` in a multi-device brood (R26). -/
def State.fullPath (s : State) (b : Blk) : List Nat :=
  if s.multi ∧ b ≠ .mroot then pathEl 0 (s.g .xbarDev XBAR_L3_CFG_self) :: b.path else b.path

/-- PAGE_ID of a page (R26). -/
def State.pageId (s : State) (b : Blk) : Nat :=
  let p := s.fullPath b
  b.kind + p.length * 2 ^ 5 + b2n b.isSteward * 2 ^ 8 +
    (p.zip (upTo 5)).foldl (fun v e => v + e.1 * 2 ^ (9 + 11 * e.2)) 0

/-- The FLT page that counts a brood halt (R415). -/
def Scope.flt : Scope → Blk
  | .base d => .fltB d
  | .serdes k => .fltW (k / 4)
  | .wing w => .fltW w
  | .device => .fltDev

/-- Every page of a halted scope is FAULTED, but for pages that are OFF and the Cocoon's (R29, R439). -/
def State.faultAll (s : State) (b : Blk) : State :=
  b.subtree.foldl (fun s k => if s.st k = .off ∨ k = .ccn ∨ k = .stwC 3 then s else s.toSt k .faulted) s

/-- A brood halt (R415) or a device halt (R417). A scope that is already FAULTED is not halted again. -/
def State.haltScope (s : State) (a : Act) : State :=
  let sc := if a.level = 5 then Scope.device else a.blk.scope
  if s.st sc.root = .faulted then s else
  let s := s.faultAll sc.root
  let s := s.inc sc.flt FLT_HALTS_count
  let s := s.haltRecord (if sc = .device then { a with level := 5 } else a) (s.pageId a.blk)
  if sc = .device then { s with pins := { s.pins with faultN := false } } else s

/-- The action of a level that a class took (R414). -/
def State.runAct (s : State) (a : Act) : State :=
  if a.level = 3 then s.partReset (s.g a.blk OWNER_partition) else s.haltScope a

/-- The owed level actions taken, oldest first; an action may owe more. -/
def State.settleN : Nat → State → State
  | 0, s => s
  | n + 1, s =>
    match s.acts with
    | [] => s
    | a :: l => State.settleN n (State.runAct { s with acts := l } a)

/-- The owed level actions taken. An action owes at most a few more: each class escalates once per latch (R411). -/
def State.settle (s : State) : State := (State.settleN 64 s.overrun).levelNotice

/-! ## Device reset (R396, R366) -/

/-- The registers that a device reset keeps: what MRAM holds, the Cocoon's page, and, by RESET_N alone, the record and
the count of halts of the DEV FLT page (R396, R417). -/
def keptByDevice (haltRec : Bool) (k : Nat) : Bool :=
  let off := k % 0x2000
  match blkOf false (k / 0x2000) with
  | none => false
  | some b =>
    if b = .ccn then 0x100 ≤ off
    else if b.isSteward then (0x100 ≤ off && off < 0x110) || (0x140 ≤ off && off < 0x1C0) || off == 0x1200
    else match b with
      | .fltDev => haltRec && (off == 0x118 || off == 0x120 || off == 0x128)
      | .thx => (0x500 ≤ off && off < 0x510) || (0x540 ≤ off && off < 0x5C0) || off == 0x1200
      | .chr => off == 0x100 || (0x110 ≤ off && off < 0x160)
      | .hbm _ => off == 0x318
      | .bse _ => off == 0x1100
      | _ => false

/-- Steward and Thorax slots in TRIAL fall back to STAGED: boot uses the committed slot (R397). -/
def trialEnds (e : Nat × Word) : Nat × Word :=
  match blkOf false (e.1 / 0x2000) with
  | none => e
  | some b =>
    if (b.isSteward ∧ e.1 % 0x2000 = 0x100) ∨ (b = .thx ∧ e.1 % 0x2000 = 0x500) then
      let v := e.2.toNat
      let v := putBits v 32 1 (bits v 33 1)
      let v := if bits v 34 2 = 2 then putBits v 34 2 1 else v
      (e.1, BitVec.ofNat 64 (putBits v 36 1 0))
    else e

/-- A device reset: every volatile state lost; MRAM, the Cocoon, the host's memory and the pins as they are. -/
def State.deviceReset (s : State) (haltRec : Bool) : State :=
  let r := State.reset
  let s' : State := { r with
    regs := (s.regs.filter fun e => keptByDevice haltRec e.1).foldl (fun l e => kvPut resetKey l (trialEnds e).1 (trialEnds e).2) []
    tabs := s.tabs.filter fun e => decide (e.1 / 2 ^ 40 = Tbl.chrCert.code)
    host := s.host
    pins := { s.pins with faultN := true }
    mram := s.mram, ccn := s.ccn, out := s.out, fresh := s.fresh, pending := s.pending }
  (upTo 8).foldl State.keepRetired s'

end Sys2Proof.Machine
end

