-- ==== Sys2Proof/Machine/Pages.lean ====
section
/-! DEFINITION. Pages: their controls, freeze and snapshot, the fault words and the FLT pages (chapters 2 and 16). -/

namespace Sys2Proof.Machine

/-- What a meaning answers: the next state, with the level actions that it owes taken (R414). -/
abbrev Answer := Host.Outcome State Fault Refusal

/-- The next state, settled. -/
def State.done (s : State) : Answer := .next s.settle

/-! ## CTRL (R24, R27, R29, R30, R32) -/

/-- A page of the subtree would lose its effective enable while IN_SERVICE (R29). -/
def State.losesService (s : State) (b : Blk) : Bool :=
  s.effEnable b && b.subtree.any fun k => s.effEnable k && s.st k == .inService && k != .ccn && k != .stwC 3

/-- A page at or below holds a latched class at level 4 or 5 (R413). -/
def State.haltLatched (s : State) (b : Blk) : Bool :=
  b.subtree.any fun k => (upTo 48).any fun c => bit (s.latched k) c && 4 ≤ s.clsLevel k c

/-- A write would change the effective quiesce of its own page in a state that lists no such event (R29): it becomes 1
in IN_SERVICE, and it becomes 0 in QUIESCED, or in a brood that is still on its way there (assumption 151). -/
def State.quiesceBarred (s : State) (b : Blk) (v : Nat) : Bool :=
  !s.heldQuiesce b && (if bits v 1 1 == 1 then !s.gb b CTRL_quiesce && s.st b != .inService
    else s.gb b CTRL_quiesce && s.st b != .quiesced && s.st b != .inService)

/-- The state rules of a write of CTRL (R29, R35, R413). -/
def State.ctrlBarred (s : State) (b : Blk) (v : Nat) : Bool :=
  s.quiesceBarred b v ||
  (bits v 0 1 == 0 && s.gb b CTRL_enable && s.losesService b) ||
    (bits v 0 1 == 1 && !s.gb b CTRL_enable && b.isBrood && s.haltLatched b) ||
    (bits v 2 1 == 0 && s.gb b CTRL_freeze && s.gb b SNAP_SEQ_busy)

/-- CTRL holding the four fields of a write; a tile's evacuation is software's own, and not the part's, once the write
does not ask it. -/
def State.setCtrl (s : State) (b : Blk) (v : Nat) : State :=
  let s := s.setReg b 0x018 (bits v 0 4)
  match b with
  | .swt _ => if bit v 3 then s else s.p b H_SWT_auto 0
  | _ => s

/-- The effect of a write of CTRL: reset, or the four fields with what their changes do to the subtree. -/
def State.applyCtrl (s : State) (b : Blk) (v : Nat) : State :=
  if bits v 4 1 = 1 then s.pageReset b else ((s.setCtrl b v).followAll b).thaw b

/-- A write would enable a pool manager whose layout does not fit its region (R147). -/
def State.poolMisfit (s : State) (b : Blk) (v : Nat) : Bool :=
  match b with
  | .pool d => bits v 4 1 == 0 && bits v 0 1 == 1 && !s.gb b CTRL_enable && !s.poolFits d
  | _ => false

/-- A write of CTRL. On the Cocoon's page only freeze may change (R438). -/
def State.writeCtrl (s : State) (m pg v : Nat) : State :=
  s.onWrite m pg 0x018 fun b =>
    if b = .ccn ∧ (bits v 0 2 ≠ bits (s.reg b 0x018) 0 2 ∨ bits v 3 2 ≠ bits (s.reg b 0x018) 3 1) then
      s.denyWrite m b 0x018
    else if bits v 4 1 = 0 ∧ s.ctrlBarred b v then s.refuse m b 0x018 .refusedState
    else if s.poolMisfit b v then s.refuse m b 0x018 .badArg
    else s.applyCtrl b v

/-- CTRL_ENABLE (R29). -/
def execCtrlEnable (m : Mst) (pg : Pg) (v : Word) (s : State) : Answer := (s.writeCtrl m.toNat pg.toNat v.toNat).done

/-- CTRL_QUIESCE (R30). -/
def execCtrlQuiesce (m : Mst) (pg : Pg) (v : Word) (s : State) : Answer := (s.writeCtrl m.toNat pg.toNat v.toNat).done

/-- CTRL_FREEZE (R32). -/
def execCtrlFreeze (m : Mst) (pg : Pg) (v : Word) (s : State) : Answer := (s.writeCtrl m.toNat pg.toNat v.toNat).done

/-- CTRL_EVACUATE (R29). -/
def execCtrlEvacuate (m : Mst) (pg : Pg) (v : Word) (s : State) : Answer := (s.writeCtrl m.toNat pg.toNat v.toNat).done

/-- CTRL_RESET (R27). -/
def execCtrlReset (m : Mst) (pg : Pg) (v : Word) (s : State) : Answer := (s.writeCtrl m.toNat pg.toNat v.toNat).done

/-- The blocks whose training ends with nothing of their own to do. -/
def Blk.trainsPlain : Blk → Bool
  | .grp _ | .pool _ | .pci => false
  | _ => true

/-- A block's training ends, on a page; a port group's ends only once its ports are all ACTIVE (R29, R51). -/
def State.finishTraining (s : State) (pg : Nat) : State :=
  match s.blk pg with
  | none => s
  | some (.grp g) => if s.groupTrained g then (s.trained (.grp g)).followAll (.grp g) else s
  | some (.pool d) => if s.st (.pool d) = .training then ((s.poolInit d).trained (.pool d)).followAll (.pool d) else s
  | some .pci =>
    let s' := (s.trained .pci).followAll .pci
    if s.pins.perstN ∧ s'.st .pci ≠ .off ∧ s'.st .pci ≠ .faulted then s'.pciUp else s'
  | some b => (s.trained b).followAll b

/-- TRAINING_DONE (R29). -/
def execTrainingDone (pg : Pg) (s : State) : Answer := (s.finishTraining pg.toNat).done

/-- QUIESCE_DRAIN_DONE (R30): the work accepted before a quiesce has ended. -/
def execQuiesceDrainDone (pg : Pg) (s : State) : Answer :=
  .next (match s.blk pg.toNat with
    | none => s
    | some b => s.p b STATE_draining 0)

/-- The pages that capture at one slot boundary with a page: the pages of the switch tiles of the pattern, where it is
one of them (R32); else itself. -/
def State.captureWith (s : State) (b : Blk) : List Blk :=
  match b with
  | .swt t | .xbarT t => if s.members.contains t then s.members.flatMap fun i => [.swt i, .xbarT i] else [b]
  | _ => [b]

/-- A page whose effective freeze is 1 captures, once; a page with no descendants is then frozen (R32). -/
def State.captureOne (s : State) (b : Blk) : State :=
  if s.effFreeze b ∧ !s.capPages.contains b.page then
    let s := s.capture b
    if b.kids.isEmpty then s.p b STATE_frozen 1 else s
  else s

/-- CAPTURE_MARKER (R32): a page captures, with the members of its crossbar pattern. -/
def execCaptureMarker (pg : Pg) (s : State) : Answer :=
  (match s.blk pg.toNat with
    | none => s
    | some b => (s.captureWith b).foldl State.captureOne s).done

/-- FREEZE_CAPTURE_DONE (R32): every descendant has captured, so the brood's view is held. -/
def execFreezeCaptureDone (pg : Pg) (s : State) : Answer :=
  .next (match s.blk pg.toNat with
    | none => s
    | some b =>
      if s.effFreeze b ∧ b.subtree.all (fun k => s.capPages.contains k.page) then s.p b STATE_frozen 1 else s)

/-! ## Snapshots (R35 to R37, R364) -/

/-- How many 4 KiB units an image of a page's subtree takes (R37). -/
def imageLen (b : Blk) : Nat := 1 + b.subtree.length

/-- A destination lies in HBM beyond its top (R36). -/
def snapBeyond (host : Bool) (dest n : Nat) : Bool := !host && hbmTop < dest + n

/-- A write-out ends: status and length first, then the sequence number and busy; an implicit freeze is released
unless it is kept (R35, R36). -/
def State.endSnap (s : State) (b : Blk) (c : Code) (len : Nat) (implicitFreeze : Bool) : State :=
  let s := (s.p b SNAP_SEQ_status c.val).p b SNAP_SEQ_len len
  let s := (s.p b SNAP_SEQ_seq ((s.g b SNAP_SEQ_seq + 1) % 2 ^ 32)).p b SNAP_SEQ_busy 0
  let s : State := { s with snaps := s.snaps.filter fun x => x.page != b.page }
  let s := if c = .ok then s else s.raise b cSNAP_FAILED
  (if implicitFreeze ∧ !s.gb b SNAP_CTRL_keep_frozen then s.p b CTRL_freeze 0 else s).thaw b

/-- A take (R35, R36): the destination is checked once, with the writer's master id; a take on a page that is not
frozen freezes it. A destination of 0 captures only. -/
def State.take (s : State) (m : Nat) (b : Blk) (v : Nat) : State :=
  let host := bits v 2 1 = 1
  let dest := bits v 12 40 * 2 ^ 12
  let n := imageLen b * 4096
  let s := s.setReg b 0x048 (v - bits v 0 1 - bits v 3 9 * 2 ^ 3 - bits v 52 12 * 2 ^ 52)
  let fresh := !s.gb b CTRL_freeze && !s.effFreeze b
  let s := s.p b SNAP_SEQ_busy 1
  let s := if fresh then s.p b CTRL_freeze 1 else s
  if dest = 0 then { s with snaps := s.snaps ++ [⟨b.page, m, host, 0, fresh, .ok⟩] }
  else if !host ∧ !s.memMay (mst m) (reqPart m) 0 dest n .write then (s.endSnap b .denied 0 fresh).memDenied
  else if snapBeyond host dest n then s.endSnap b .badArg 0 fresh
  else { s with snaps := s.snaps ++ [⟨b.page, m, host, dest, fresh, .ok⟩] }

/-- A write of SNAP_CTRL (R35). -/
def State.writeSnap (s : State) (m pg v : Nat) : State :=
  s.onWrite m pg 0x048 fun b =>
    if bits v 0 1 = 1 then
      if s.gb b SNAP_SEQ_busy ∨ b = .mroot then s.refuse m b 0x048 .refusedState else s.take m b v
    else s.setReg b 0x048 (bits v 1 2 * 2 + bits v 12 40 * 2 ^ 12)

/-- SNAP_TAKE (R35). -/
def execSnapTake (m : Mst) (pg : Pg) (v : Word) (s : State) : Answer := (s.writeSnap m.toNat pg.toNat v.toNat).done

/-! ## Error words (R411, R412, R418) -/

/-- A forced event would take its class to level 4 or 5 (R418). -/
def State.forceHalts (s : State) (b : Blk) (c : Nat) : Bool :=
  match b.cls c with
  | none => false
  | some k =>
    if bit (s.latched b) c then !s.masked b c && !s.clsEsc b c && 4 ≤ s.clsLevel b c + 1
    else 4 ≤ k.level

/-- One forced event of each class that a value names (R418). -/
def State.forceAll (s : State) (m : Nat) (b : Blk) (v : Nat) : State :=
  (upTo 48).foldl (fun s c =>
    match b.cls c with
    | none => s
    | some k => if bit v c then s.raiseBy b k (some (mst m)) else s) s

/-- A write of ERR_FORCE: one event of each class written, with its level action and none of its own effects. A
reserved bit is a reserved field (R7): it is ignored. -/
def State.writeForce (s : State) (m pg v : Nat) : State :=
  s.onWrite m pg 0x030 fun b =>
    if (upTo 48).any (fun c => bit v c && s.forceHalts b c) ∧ !s.gb .fltDev FLT_CFG_allow_halt_force then
      s.refuse m b 0x030 .refusedState
    else s.forceAll m b v

/-- ERR_FORCE (R418). -/
def execErrForce (m : Mst) (pg : Pg) (v : Word) (s : State) : Answer := (s.writeForce m.toNat pg.toNat v.toNat).done

/-- A write of ERR_ACK (R412). -/
def State.writeAck (s : State) (m pg v : Nat) : State := s.onWrite m pg 0x040 fun b => s.ackErr b v

/-- ERR_ACK (R412). -/
def execErrAck (m : Mst) (pg : Pg) (v : Word) (s : State) : Answer := (s.writeAck m.toNat pg.toNat v.toNat).done

/-- A write of ERR_MASK: the bit of a class at catalogue level 4 or 5 ignores a 1, and reserved bits are ignored
(R7, R411). -/
def State.writeMask (s : State) (m pg v : Nat) : State :=
  s.onWrite m pg 0x038 fun b =>
    s.setReg b 0x038 (b.classes.foldl (fun w c => if bit v c.bit && c.level < 4 then w + 2 ^ c.bit else w) 0)

/-- ACK_BELOW (R412): every latched class at or below a level, on every page of a brood. -/
def State.ackBelow (s : State) (b : Blk) (l : Nat) : State :=
  b.subtree.foldl (fun s k =>
    s.ackErr k ((upTo 48).foldl (fun v c =>
      if bit (s.latched k) c && s.clsLevel k c ≤ l then v + 2 ^ c else v) 0)) s

/-- The brood that an FLT page collects. -/
def Blk.collected : Blk → Blk
  | .fltDev => .dev
  | .fltW w => .wng w
  | .fltB d => .bse d
  | b => b

/-- A write of FLT_CMD (chapter 16): ACK_BELOW, whose status is OK at once; any other op is reserved. -/
def State.writeFltCmd (s : State) (m pg v : Nat) : State :=
  s.onWrite m pg 0x108 fun b =>
    if b.collected = b then s
    else if bits v 0 2 ≠ 1 then s.refuseOp m b 0x108 0x110
    else (s.ackBelow b.collected (bits v 2 3)).finish b 0x110 .ok

/-- FLT_ACK_BELOW (R412). -/
def execFltAckBelow (m : Mst) (pg : Pg) (v : Word) (s : State) : Answer := (s.writeFltCmd m.toNat pg.toNat v.toNat).done

/-- PIN_MISMATCH (R420): the FLT page of the collector raises the class; the word is what the tree uses. -/
def execPinMismatch (pg : Pg) (_child : BitVec 9) (s : State) : Answer :=
  (match s.blk pg.toNat with
    | some .fltDev => s.raise .fltDev cPIN_MISMATCH_fltDev
    | some (.fltW w) => s.raise (.fltW w) cPIN_MISMATCH_flt
    | some (.fltB d) => s.raise (.fltB d) cPIN_MISMATCH_flt
    | _ => s).done

/-- PAGE_NO_ANSWER (R41): the read of a silent page returns all ones, and its parent raises the class. -/
def execPageNoAnswer (m : Mst) (pg : Pg) (s : State) : Answer :=
  (match s.blk pg.toNat with
    | none => s
    | some b =>
      (match b.parent with
        | none => s
        | some p => s.raise p cPAGE_NO_ANSWER).emit (.bar (masterFn m.toNat)) 0 [2 ^ 64 - 1] []).done

end Sys2Proof.Machine
end

