-- ==== Sys2Proof/Machine/Attach.lean ====
section
/-! DEFINITION. The attach engine's commands and packets: contexts, local operations, the transport and its timers
(chapter 4). -/

namespace Sys2Proof.Machine

/-! ## Commands (R82, R363) -/

/-- The row filter on a context that is in use (R363). -/
def State.ctxRow (s : State) (m c : Nat) : Bool := partRow m (s.ctx c attCtx_partition)

/-- CTX_OPEN (R82, R363): its code, and the state. -/
def State.ctxOpen (s : State) (m c : Nat) : Code × State :=
  let g := s.ctxGroup c
  if !s.ctxFor m c ∨ !s.ctxRow m c ∨ !s.groupFor m g (s.ctx c attCtx_partition) then (.denied, s)
  else if s.ctxSt c ≠ 0 then (.refusedState, s)
  else if s.pers g ≠ .tlinkAttach ∨ (s.paths (g / 8) (s.ctx c attCtx_path_set)).isEmpty then (.badArg, s)
  else (.ok, s.openCx c)

/-- CTX_CLOSE (R82): a context with nothing outstanding is drained at once. -/
def State.ctxClose (s : State) (m c : Nat) : Code × State :=
  if !s.ctxRow m c then (.denied, s)
  else if s.ctxSt c ≠ 1 then (.refusedState, s)
  else (.ok, (s.pctx c attCtx_state 2).drainCx c)

/-- CTX_RESET (R82). -/
def State.ctxReset (s : State) (m c : Nat) : Code × State :=
  if !s.ctxRow m c then (.denied, s)
  else if s.ctxSt c = 0 ∨ s.ctxSt c = 4 then (.refusedState, s)
  else (.ok, s.resetCx c)

/-- A write of ATT_CMD. -/
def State.attCommand (s : State) (m t v : Nat) : State :=
  let c := bits v 2 12
  s.onWrite m (Blk.att t).page 0x120 fun b =>
    if bits v 0 2 = 0 then s.refuseOp m b 0x120 0x128
    else
      let r := if bits v 0 2 = 1 then s.ctxOpen m c else if bits v 0 2 = 2 then s.ctxClose m c else s.ctxReset m c
      (if r.1.refuses then r.2.refuse m b 0x120 r.1 else r.2).finish b 0x128 r.1

/-- CTX_OPEN (R82). -/
def execCtxOpen (m : Mst) (t : TileNo) (v : Word) (s : State) : Answer := (s.attCommand m.toNat t.toNat v.toNat).done

/-- CTX_CLOSE (R82). -/
def execCtxClose (m : Mst) (t : TileNo) (v : Word) (s : State) : Answer := (s.attCommand m.toNat t.toNat v.toNat).done

/-- CTX_RESET (R82). -/
def execCtxReset (m : Mst) (t : TileNo) (v : Word) (s : State) : Answer := (s.attCommand m.toNat t.toNat v.toNat).done

/-- The row filter on a write of a word of the ATT window (R363). -/
def State.attRow (s : State) (m t tb i wd v : Nat) : Bool :=
  match vfPart (mst m) with
  | none => true
  | some p =>
    match tb with
    | 0 => s.ctxFor m i && (s.ctxSt i == 0 || s.ctx i attCtx_partition == p) && (wd != 0 || bits v 3 4 == p)
    | 2 => (!s.tb .attRegion t i attRegion_valid || s.t .attRegion t i attRegion_partition == p) &&
      (wd != 2 || bits v 32 4 == p)
    | _ => true

/-- A write of ATT_TBL_DATA (R81): a context's words with an RW field, and only while it is FREE. A path's effective weight starts at the
weight written. -/
def State.attTblWrite (s : State) (m t v : Nat) : State :=
  let a := Blk.att t
  let tb := s.g a ATT_TBL_SEL_table
  let i := s.g a ATT_TBL_SEL_index
  let wd := s.g a ATT_TBL_SEL_word
  s.onWrite m a.page 0x118 fun b =>
    if !s.attRow m t tb i wd v then s.denyWrite m b 0x118
    else match tb with
      | 0 =>
        if s.ctxSt i ≠ 0 ∨ !(fieldsAt Tbl.attCtx.fields wd).any (·.acc == .rw) then s.refuse m b 0x118 .refusedState
        else s.storeTw .attCtx 0 i wd v
      | 1 =>
        let s := s.storeTw .attPath t i wd v
        if wd = 0 then s.pt .attPath t i attPath_eff_weight (bits v 16 4) else s
      | _ => s.storeTw .attRegion t i wd v

/-- CTX_ENTRY_WRITE (R81). -/
def execCtxEntryWrite (m : Mst) (t : TileNo) (v : Word) (s : State) : Answer := (s.attTblWrite m.toNat t.toNat v.toNat).done

/-! ## Local commands (R80, R87, R91) -/

/-- A packet of an accelerator for its attach end: a bad one is dropped and counted (R78, R83). -/
def State.onLocal (s : State) (g op : Nat) (bs : List Byte) (f : State → State) : State :=
  let b := Blk.att (g / 8)
  let s := s.unhand (attOwner (g / 8)) bs
  if s.pers g ≠ .tlinkAttach ∨ !s.active (s.attPort g) then s
  else if bs.length < 56 ∨ pOp bs ≠ op then s.inc b ATT_BAD_PKTS_count
  else if !e2eOk bs then (s.inc b ATT_E2E_CRC_count).raise b cE2E_CRC
  else f s

/-- LOCAL_PUT (R87). -/
def execLocalPut (g : GroupNo) (c : LocalCmd) (s : State) : Answer :=
  (s.onLocal g.toNat 0x11 c.bytes fun s => s.startMsg g.toNat .put c.bytes).done

/-- LOCAL_GET (R87). -/
def execLocalGet (g : GroupNo) (c : LocalCmd) (s : State) : Answer :=
  (s.onLocal g.toNat 0x12 c.bytes fun s => s.startMsg g.toNat .get c.bytes).done

/-- LOCAL_SEND (R87). -/
def execLocalSend (g : GroupNo) (c : LocalCmd) (s : State) : Answer :=
  (s.onLocal g.toNat 0x13 c.bytes fun s => s.startMsg g.toNat .send c.bytes).done

/-- LOCAL_ATOMIC (R87). -/
def execLocalAtomic (g : GroupNo) (c : LocalCmd) (s : State) : Answer :=
  (s.onLocal g.toNat 0x14 c.bytes fun s => s.startMsg g.toNat .atomic c.bytes).done

/-- A context with one more receive buffer, its index the number posted before it (R91). -/
def Cx.post (x : Cx) (addr len tag : Nat) : Cx :=
  { x with posted := x.posted ++ [(x.nPosted % 65536, addr, len, tag)], nPosted := x.nPosted + 1 }

/-- A receive buffer posted on a context: 64 at most (R91). -/
def State.postBuf (s : State) (g : Nat) (bs : List Byte) : State :=
  let c := hw bs 0 % 4096
  let tag := hw bs 3
  let x := s.cx c
  if s.ctxGroup c ≠ g ∨ s.ctxSt c = 4 then s.refuseLocal g c tag .denied
  else if s.ctxSt c ≠ 1 then s.refuseLocal g c tag .refusedState
  else if 64 ≤ x.posted.length then s.refuseLocal g c tag .noResource
  else s.setCx c (x.post (beAt bs 16 8) (hw bs 6) tag)

/-- LOCAL_RECV_POST (R91). -/
def execLocalRecvPost (g : GroupNo) (c : LocalCmd) (s : State) : Answer :=
  (s.onLocal g.toNat 0x15 c.bytes fun s => s.postBuf g.toNat c.bytes).done

/-- CTX_QUEUE_ISSUE (R88). -/
def execCtxQueueIssue (c : CtxNo) (s : State) : Answer := (s.issue c.toNat).done

/-- LOCAL_RD_DATA (R80). -/
def execLocalRdData (g : GroupNo) (tag : BitVec 32) (data : List Byte) (s : State) : Answer :=
  (s.localData g.toNat tag.toNat data).done

/-! ## Transport packets (R78, R83 to R91, R96) -/

/-- TX_PACKET_SEND (R84). -/
def execTxPacketSend (c : CtxNo) (s : State) : Answer := (s.sendNext c.toNat).done

/-- A request: one for a context whose port is down is refused with ABORTED (R96). -/
def State.onRequest (s : State) (t op : Nat) (bs : List Byte) (f : State → Nat → Except Code State) : State :=
  if s.abortedReq t bs ∧ pOp bs = op then (s.unhand (attOwner t) bs).sendAck (hw bs 0 % 4096) .aborted (pPsn bs)
  else s.onData t op bs f

/-- PUT (R87). -/
def execPut (t : TileNo) (p : TPkt) (s : State) : Answer :=
  (s.onRequest t.toNat 0x01 p.bytes fun s c => s.doPut p.bytes c).done

/-- GET_REQ (R87). -/
def execGetReq (t : TileNo) (p : TPkt) (s : State) : Answer :=
  (s.onRequest t.toNat 0x02 p.bytes fun s c => s.doGet p.bytes c).done

/-- GET_RESP (R87). -/
def execGetResp (t : TileNo) (p : TPkt) (s : State) : Answer :=
  (s.onData t.toNat 0x03 p.bytes fun s c => s.doResp p.bytes c).done

/-- SEND (R91). -/
def execSend (t : TileNo) (p : TPkt) (s : State) : Answer :=
  (s.onRequest t.toNat 0x04 p.bytes fun s c => s.doSend p.bytes c).done

/-- ATOMIC_ADD (R87). -/
def execAtomicAdd (t : TileNo) (p : TPkt) (s : State) : Answer :=
  (s.onRequest t.toNat 0x05 p.bytes fun s c => s.doAtomic p.bytes c).done

/-- ATOMIC_RESP (R87). -/
def execAtomicResp (t : TileNo) (p : TPkt) (s : State) : Answer :=
  (s.onData t.toNat 0x06 p.bytes fun s c => s.doAtomicResp p.bytes c).done

/-- ACK (R79): of a transport context, or of a reduction context's streams (R192, R210). -/
def execAck (t : TileNo) (p : TPkt) (s : State) : Answer :=
  State.done (if s.rdxAddr = some (hw p.bytes 0 / 4096) then s.rdxAckIn p.bytes else s.rxAck t.toNat p.bytes)

/-! ## Timers (R85, R86, R93, R94) -/

/-- The acknowledgement that a receiver sends a tick after the latest unacknowledged packet (R85). -/
def State.ackTick (s : State) (c : Nat) : State :=
  if s.ctxSt c = 4 then
    (upTo (s.rx c).ranks.length).foldl (fun s i =>
      match (s.rx c).ranks[i]? with
      | none => s
      | some r => if 0 < r.sinceAck then s.ackRank c i .ok 0 else s) s
  else if s.ctxLive c ∧ 0 < (s.cx c).sinceAck then s.sendAck c .ok 0 else s

/-- ACK_TIMER (R85). -/
def execAckTimer (c : CtxNo) (s : State) : Answer := (s.ackTick c.toNat).done

/-- LOCAL_CPL (R86). -/
def execLocalCpl (c : CtxNo) (s : State) : Answer := (s.oneCpl c.toNat).done

/-- RETX_TIMEOUT (R93). -/
def execRetxTimeout (c : CtxNo) (psn : BitVec 32) (s : State) : Answer :=
  let q := psn.toNat % 2 ^ 24
  State.done (if s.ctxSt c.toNat = 4 then s.rdxTimeout c.toNat q else s.timeout c.toNat q)

/-- A packet that NO_RESOURCE refused goes again (R91, R93). -/
def State.retryNak (s : State) (c psn : Nat) : State :=
  if s.ctxLive c && ((s.cx c).pkts.any fun p => p.psn == some psn && p.nakd) then s.resend c psn else s

/-- NO_RESOURCE_RETRY (R93). -/
def execNoResourceRetry (c : CtxNo) (psn : BitVec 32) (s : State) : Answer :=
  let q := psn.toNat % 2 ^ 24
  State.done (if s.ctxSt c.toNat = 4 then s.rdxTimeout c.toNat q else s.retryNak c.toNat q)

/-- PATH_HOLD_EXPIRY (R94). -/
def execPathHoldExpiry (t : TileNo) (path : BitVec 20) (s : State) : Answer := .next (s.pathUp t.toNat path.toNat)

end Sys2Proof.Machine
end

