-- ==== Sys2Proof/Machine/RouteOps.lean ====
section
/-! DEFINITION. The route loader: route images, the channel-dependency graph and the writing of the part's own share
(R177 to R181). -/

namespace Sys2Proof.Machine

/-- A little-endian field of an image. -/
def leAt (bs : List Byte) (i n : Nat) : Nat := ofLeBytes (slice i n bs)

/-- A label of an image: device, port, UP, Ethernet, PFC. -/
structure RLabel where
  dev : Nat
  port : Nat
  up : Bool
  eth : Bool
  pfc : Bool
deriving DecidableEq, Repr

/-- A link of an image: its two ends. -/
structure RLink where
  da : Nat
  pa : Nat
  db : Nat
  pb : Nat
deriving DecidableEq, Repr

/-- A route of an image: device, address, the low bits of its entry of table 5. -/
structure RRoute where
  dev : Nat
  dst : Nat
  entry : Nat
deriving DecidableEq, Repr

/-- A route set of an image: device, index, the entry of table 6 as one number. -/
structure RSet where
  dev : Nat
  idx : Nat
  entry : Nat
deriving DecidableEq, Repr

/-- A route image as read (R177). -/
structure RImage where
  self : Nat
  id : Nat
  devices : Nat
  mask : Nat
  labels : List RLabel
  links : List RLink
  routes : List RRoute
  sets : List RSet
deriving DecidableEq, Repr

/-- The bytes of the header. -/
def rHeader : Nat := 0x38

/-- A count of the header: labels, links, routes, route sets. -/
def rCount (h : List Byte) (i : Nat) : Nat := [leAt h 0x18 4, leAt h 0x14 4, leAt h 0x1C 4, leAt h 0x20 4].getD i 0

/-- An offset of the header, in the order link, label, route, route set; by the same table numbers as `rCount`. -/
def rOffset (h : List Byte) (i : Nat) : Nat := [leAt h 0x2C 4, leAt h 0x28 4, leAt h 0x30 4, leAt h 0x34 4].getD i 0

/-- The bytes of an image, from its header. -/
def rLength (h : List Byte) : Nat :=
  (upTo 4).foldl (fun v i => max v (rOffset h i + rCount h i * (if i = 3 then 32 else 8))) rHeader

/-- The entries of a table of an image, `k` bytes each. -/
def rEntries (bs : List Byte) (i k : Nat) : List (List Byte) :=
  (upTo (rCount bs i)).map fun j => slice (rOffset bs i + k * j) k bs

/-- An image parsed. -/
def parseImage (bs : List Byte) : RImage :=
  { self := leAt bs 6 2, id := leAt bs 8 8, devices := leAt bs 0x10 2, mask := leAt bs 0x24 1
    labels := (rEntries bs 0 8).map fun e =>
      let v := leAt e 0 8
      ⟨bits v 0 16, bits v 16 10, bit v 26, bit v 27, bit v 28⟩
    links := (rEntries bs 1 8).map fun e =>
      let v := leAt e 0 8
      ⟨bits v 0 16, bits v 16 10, bits v 26 16, bits v 42 10⟩
    routes := (rEntries bs 2 8).map fun e =>
      let v := leAt e 0 8
      ⟨bits v 0 16, bits v 16 20, bits v 36 14⟩
    sets := (rEntries bs 3 32).map fun e => ⟨leAt e 0 2, bits (leAt e 2 2) 0 12, leAt e 8 24⟩ }

/-- The image that holds nothing. -/
def RImage.empty : RImage := ⟨0, 0, 0, 0, [], [], [], []⟩

/-- The image in force. -/
def State.imageInForce (s : State) : RImage :=
  if s.reg .xbarDev 0x318 = 0 then RImage.empty else parseImage s.swc.route

/-- The label of a port. -/
def RImage.label (im : RImage) (d p : Nat) : Option RLabel := im.labels.find? fun l => l.dev == d && l.port == p

/-- The members of a route set. -/
def RSet.ports (r : RSet) : List Nat := (upTo (bits r.entry 160 5)).map fun i => bits r.entry (10 * i) 10

/-- The far end of a port's link. -/
def RImage.far (im : RImage) (d p : Nat) : Option (Nat × Nat) :=
  im.links.findSome? fun l =>
    if l.da = d ∧ l.pa = p then some (l.db, l.pb) else if l.db = d ∧ l.pb = p then some (l.da, l.pa) else none

/-- A channel, from one port to another, as a number. -/
def chanNo (a b : Nat × Nat) : Nat := ((a.1 * 1024 + a.2) * 65536 + b.1) * 1024 + b.2

/-- An edge of the graph: its nodes (twice a channel, plus the layer) and what a report says of it. -/
structure REdge where
  src : Nat
  dst : Nat
  dev : Nat
  inp : Nat
  out : Nat
  entry : Nat
deriving DecidableEq, Repr

/-- The edges of one turn at a device (R178). -/
def RImage.turn (im : RImage) (d i o entry : Nat) (tlink : Bool) : List REdge :=
  match im.far d i, im.far d o, im.label d i, im.label d o with
  | some fi, some fo, some li, some lo =>
    let a := chanNo fi (d, i)
    let b := chanNo (d, o) fo
    if i = o then []
    else if !(li.up && lo.up) then [⟨2 * a, 2 * b, d, i, o, entry⟩, ⟨2 * a + 1, 2 * b + 1, d, i, o, entry⟩]
    else if tlink then [⟨2 * a, 2 * b + 1, d, i, o, entry⟩] else []
  | _, _, _, _ => []

/-- The out-ports that a device's routes and route sets use, each with the index of the lowest entry that uses it (R178,
R180). -/
def RImage.used (im : RImage) (d : Nat) : List (Nat × Nat) :=
  let direct := (indexed im.routes).filterMap fun e =>
    if e.2.dev = d ∧ bit e.2.entry 0 ∧ !bit e.2.entry 1 then some (bits e.2.entry 2 10, e.1) else none
  let sets := (indexed im.sets).flatMap fun e => if e.2.dev = d then e.2.ports.map fun p => (p, e.1) else []
  (direct ++ sets).foldl (fun l x =>
    if l.any (·.1 == x.1) then l.map fun y => if y.1 = x.1 then (y.1, min y.2 x.2) else y else l ++ [x]) []

/-- The edges of an image (R178). -/
def RImage.edges (im : RImage) : List REdge :=
  (im.labels.map (·.dev)).eraseDups.flatMap fun d =>
    let ins := im.labels.filter fun l => l.dev == d
    (im.used d).flatMap (fun o => (ins.filter (!·.eth)).flatMap fun i => im.turn d i.port o.1 o.2 true) ++
      ((ins.filter fun l => l.eth && l.pfc).flatMap fun o => (ins.filter fun l => l.eth && l.pfc).flatMap fun i =>
        im.turn d i.port o.port (Config.noRouteEntry d o.port).toNat false)

/-- The nodes that keep a predecessor among them: what the sweep of R178 leaves. -/
def sweep : Nat → List REdge → List Nat → List Nat
  | 0, _, l => l
  | n + 1, es, l =>
    let l' := l.filter fun x => es.any fun e => e.dst == x && l.contains e.src
    if l'.length = l.length then l else sweep n es l'

/-- The least of a list. -/
def leastOf (l : List Nat) : Option Nat :=
  l.foldl (fun r x => match r with | none => some x | some y => some (min x y)) none

/-- The walk back over lowest predecessors, the path so far held with its newest node first, until a node repeats. -/
def walkBack : Nat → List REdge → List Nat → List Nat → List Nat
  | 0, _, _, path => path
  | n + 1, es, l, path =>
    match path with
    | [] => []
    | x :: _ =>
      match leastOf ((es.filter fun e => e.dst == x && l.contains e.src).map (·.src)) with
      | none => path
      | some p => if path.contains p then p :: (path.takeWhile (· != p)) ++ [p] else walkBack n es l (p :: path)

/-- The edges of a cycle of a graph, in path order (R178, R180); empty where it has none. -/
def findCycle (es : List REdge) : List REdge :=
  let nodes := (es.flatMap fun e => [e.src, e.dst]).eraseDups
  let left := sweep (nodes.length + 1) es nodes
  match leastOf left with
  | none => []
  | some x =>
    let path := walkBack (nodes.length + 1) es left [x]
    (path.zip (path.drop 1)).filterMap fun p => es.find? fun e => e.src == p.1 && e.dst == p.2

/-- The detail of a malformed image (XBAR_RL_STATUS.detail); 0 where it is well formed. -/
def RImage.detail (im : RImage) : Nat :=
  let ends := im.links.flatMap fun l => [(l.da, l.pa), (l.db, l.pb)]
  if ends.any fun e => (im.label e.1 e.2).isNone then 3
  else if im.devices ≤ im.self ∨ !im.labels.any (·.dev == im.self) then 4
  else if (im.routes.any fun r => r.dev == im.self && bit r.entry 0 &&
        (if bit r.entry 1 then !im.sets.any fun x => x.dev == im.self && x.idx == bits r.entry 2 12
         else decide (1024 ≤ bits r.entry 2 12)))
      ∨ (im.sets.any fun x => x.dev == im.self && (bits x.entry 160 5 == 0 || decide (16 < bits x.entry 160 5)))
      ∨ decide ends.Nodup = false then 5
  else 0

/-- The detail that a header alone decides: magic or version, then counts (R177). -/
def headerDetail (h : List Byte) : Nat :=
  if leAt h 0 4 ≠ 0x4D495452 ∨ leAt h 4 2 ≠ 1 ∨ leAt h 8 8 = 0 ∨ (leAt h 0x24 1) &&& 0xC1 ≠ 0 then 1
  else if leAt h 0x10 2 = 0 ∨ 2 ^ 22 < rCount h 1 ∨ 2 ^ 24 < rCount h 2 ∨ 2 ^ 16 < rCount h 3 then 2
  else 0

/-- An entry of the cycle window (XBAR_RL_CYC_DATA). -/
def REdge.word (e : REdge) : Nat :=
  bits e.dev 0 16 + bits e.inp 0 10 * 2 ^ 16 + bits e.out 0 10 * 2 ^ 26 + e.src % 2 * 2 ^ 36 + bits e.entry 0 24 * 2 ^ 40

/-- What a check finds: the code, the detail and the cycle (R178). -/
def State.checkImage (s : State) (bs : List Byte) : Code × Nat × List REdge :=
  if headerDetail bs ≠ 0 then (.badArg, headerDetail bs, [])
  else
    let im := parseImage bs
    if im.detail ≠ 0 then (.badArg, im.detail, [])
    else
      let c := findCycle (s.imageInForce.edges ++ im.edges)
      (if c.isEmpty then .ok else .badArg, 0, c)

/-- The part's own share of an image written (R181): labels, routes and sets; what the old image held and this one does
not is cleared. -/
def State.loadImage (s : State) (bs : List Byte) : State :=
  let im := parseImage bs
  let old := s.imageInForce
  let s := (im.labels.filter (·.dev == im.self)).foldl (fun s l =>
    s.pt .clsPort (portTile l.port) (localPort l.port) clsPort_label (b2n l.up)) s
  let mine := im.routes.filter (·.dev == im.self)
  let sets := im.sets.filter (·.dev == im.self)
  let s := mine.foldl (fun s r => s.setTw .swtRoute 0 r.dst 0 r.entry) s
  let s := sets.foldl (fun s x => s.setEntry .swtRouteSet 0 x.idx [bits x.entry 0 64, bits x.entry 64 64, bits x.entry 128 37]) s
  let s := (old.routes.filter (·.dev == old.self)).foldl (fun s r =>
    if mine.any (·.dst == r.dst) then s else s.setTw .swtRoute 0 r.dst 0 0) s
  let s := (old.sets.filter (·.dev == old.self)).foldl (fun s x =>
    if sets.any (·.idx == x.idx) then s else s.setEntry .swtRouteSet 0 x.idx [0, 0, 0]) s
  { s.setReg .xbarDev 0x318 im.id with
    swc := { s.swc with route := bs, badCopies := s.swc.badCopies.filter fun e => e.2.1 != 5 } }

/-- The cycle window shows a cycle's first 64 edges. -/
def State.showCycle (s : State) (c : List REdge) : State :=
  ((c.take 64).zip (upTo 64)).foldl (fun s e => s.setTw .xbarCyc 0 e.2 0 e.1.word) (s.clearTab .xbarCyc 0 0 64)

/-- The image in force permits PFC on a port's VC (R171). -/
def State.pfcPermitted (s : State) (port vc : Nat) : Bool :=
  let im := s.imageInForce
  bit im.mask vc && (match im.label im.self port with | none => false | some l => l.pfc)

end Sys2Proof.Machine
end

