-- ==== Sys2Proof/Machine/ClassRows.lean ====
section
/-! DEFINITION. Class entries, flow control, the deadlock detector and the limits of the cell stores (chapters 6
and 7). -/

namespace Sys2Proof.Machine

/-! ## Class entries (R166 to R174) -/

/-- The class tables of a tile, by SWT_CLS_SEL.table, and their entries. -/
def clsTbl : Nat → Tbl
  | 0 => .clsPort | 1 => .clsVc | _ => .clsPolicer
def clsCount (n : Nat) : Nat := [32, 256, 512].getD n 0

/-- The port of local id `lp` of a tile. -/
def tilePort (t lp : Nat) : Nat := 32 * t + lp

/-- The VCs that a word of a port's class entry enables PFC on, of those it did not. -/
def newPfc (old new : Nat) : List Nat :=
  (upTo 8).filter fun v => bit (bits new 10 8) v && !bit (bits old 10 8) v

/-- The state bars PFC on a port's VCs 1 to 5: the image in force does not permit it, or the store budget is broken
(R171). -/
def State.pfcBarred (s : State) (port : Nat) (vs : List Nat) : Bool :=
  let f : Fld := ⟨XBAR_DL_STATUS_budget_broken.off, XBAR_DL_STATUS_budget_broken.lo + port / 128, 1⟩
  vs.any fun v => 1 ≤ v && v ≤ 5 && (!s.pfcPermitted port v || s.gb .xbarDev f)

/-- The headroom of a port group's PFC accounts (R174). -/
def State.headroomSum (s : State) (g : Nat) : Nat :=
  (upTo 32).foldl (fun n i =>
    let port := 4 * g + i / 8
    if s.isEth port && bit (s.cls port clsPort_pfc) (i % 8) then n + s.clsv port (i % 8) clsVc_headroom else n) 0

/-- A class entry, as a write would leave it, breaks a rule of R167, R169, R171 or R174. `vs` are the VCs on which it
newly enables PFC. -/
def State.clsBroken (s : State) (t n i : Nat) (vs : List Nat) : Bool :=
  match n with
  | 0 =>
    let port := tilePort t i
    (s.tb .clsPort t i clsPort_port_shape && s.t .clsPort t i clsPort_rate == 0) ||
      (vs.any fun v => v == 0 || 5 < v || !s.isEth port || s.clsv port v clsVc_police == 1) ||
      (!vs.isEmpty && decide (114688 < s.headroomSum (portGroup port)))
  | 1 =>
    let port := tilePort t (i / 8)
    (s.tb .clsVc t i clsVc_shape && s.t .clsVc t i clsVc_rate == 0) ||
      (s.tb .clsVc t i clsVc_police && s.lossless port (i % 8)) ||
      (bit (s.cls port clsPort_pfc) (i % 8) && decide (114688 < s.headroomSum (portGroup port)))
  | _ => s.tb .clsPolicer t i clsPolicer_valid && s.t .clsPolicer t i clsPolicer_rate == 0

/-- Pauses that a port no longer asserts, since PFC is off on their VC. -/
def State.dropPausing (s : State) (port : Nat) : State :=
  { s with swc := { s.swc with pausing := s.swc.pausing.filter fun e => e.1 != port || bit (s.cls port clsPort_pfc) e.2 } }

/-- A write of SWT_CLS_DATA (R171). -/
def State.writeCls (s : State) (m pg v : Nat) : State :=
  match s.blk pg with
  | some (.swt t) =>
    s.onWrite m pg 0x208 fun b =>
      let n := s.g b SWT_CLS_SEL_table
      let i := s.g b SWT_CLS_SEL_index
      let wd := s.g b SWT_CLS_SEL_word
      let new := s.storeTw (clsTbl n) t i wd v
      let port := tilePort t i
      let vs := if n = 0 ∧ wd = 0 then newPfc (s.tw .clsPort t i 0) (new.tw .clsPort t i 0) else []
      if 2 < n ∨ clsCount n ≤ i then s.refuse m b 0x208 .badArg
      else if s.pfcBarred port vs then s.refuse m b 0x208 .refusedState
      else if !tblOk (clsTbl n) wd v ∨ new.clsBroken t n i vs then s.refuse m b 0x208 .badArg
      else if n = 0 ∧ wd = 0 then ((new.dropPausing port).checkBudget (t / 4)).pfcCheck port
      else if n = 1 then new.pfcCheck (32 * t + i / 8)
      else new
  | _ => s

/-- CLS_ENTRY_WRITE (R171). -/
def execClsEntryWrite (m : Mst) (pg : Pg) (v : Word) (s : State) : Answer := (s.writeCls m.toNat pg.toNat v.toNat).done

/-! ## Flow control and tokens (R167, R172, R173) -/

/-- PFC_RX (R173). -/
def execPfcRx (port : PortNo) (bytes : List Byte) (s : State) : Answer :=
  (if s.portExists port.toNat ∧ s.active port.toNat ∧ s.isEth port.toNat then s.pfcRx port.toNat bytes else s).done

/-- PFC_PAUSE_EXPIRY (R173). -/
def execPfcPauseExpiry (port : PortNo) (vc : BitVec 3) (s : State) : Answer := .next (s.unpause port.toNat vc.toNat)

/-- PFC_REFRESH (R172): an account that asserts pause sends its frame again. -/
def execPfcRefresh (port : PortNo) (vc : BitVec 3) (s : State) : Answer :=
  .next (if s.swc.pausing.contains (port.toNat, vc.toNat) ∧ s.active port.toNat then s.sendPfc port.toNat vc.toNat 0xFFFF
    else s)

/-- TOKEN_ACCRUAL (R167). -/
def execTokenAccrual (t : TileNo) (cycles : BitVec 32) (s : State) : Answer := .next (if s.tileClock t.toNat then s.accrueTile t.toNat cycles.toNat else s)

/-! ## The deadlock detector (R182, R183) -/

/-- DL_SCAN (R182). -/
def execDlScan (d : BaseNo) (s : State) : Answer := (s.dlScan d.toNat).done

/-- DL_RECOVER (R183). -/
def execDlRecover (port : PortNo) (vc : BitVec 3) (s : State) : Answer := (s.dlRecover port.toNat vc.toNat).done

/-- A (port, VC) no longer ignores received PFC. -/
def State.unhold (s : State) (port vc : Nat) : State :=
  { s with swc := { s.swc with held := s.swc.held.filter (· != (port, vc)) } }

/-- DL_HOLD_EXPIRY (R183): the account honours received PFC again. -/
def execDlHoldExpiry (port : PortNo) (vc : BitVec 3) (s : State) : Answer :=
  .next (s.unhold port.toNat vc.toNat)

/-- A write of XBAR_DL_CMD (R182). -/
def State.writeDlCmd (s : State) (m v : Nat) : State :=
  s.onWrite m Blk.xbarDev.page 0x348 fun _ => if bit v 0 then s.dlClear else s

/-- DL_CLEAR (R182). -/
def execDlClear (m : Mst) (v : Word) (s : State) : Answer := (s.writeDlCmd m.toNat v.toNat).done

/-! ## Limit entries (R141, R176) -/

/-- A write of BSE_TBL_DATA: a limit entry; the occupancy tables ignore it (R141). -/
def State.writeLimit (s : State) (m pg v : Nat) : State :=
  match s.blk pg with
  | some (.bse d) =>
    s.onWrite m pg 0x120 fun b =>
      let n := s.g b BSE_TBL_SEL_table
      let i := 256 * s.g b BSE_TBL_SEL_tile + s.g b BSE_TBL_SEL_index
      if 2 ≤ n then s
      else if !tblOk (limTbl (n == 1)) 0 v then s.refuse m b 0x120 .badArg
      else (s.storeTw (limTbl (n == 1)) d i 0 v).checkBudget d
  | _ => s

/-- LIMIT_ENTRY_WRITE (R141). -/
def execLimitEntryWrite (m : Mst) (pg : Pg) (v : Word) (s : State) : Answer := (s.writeLimit m.toNat pg.toNat v.toNat).done

end Sys2Proof.Machine
end

