-- ==== Sys2Proof/Machine/Security.lean ====
section
/-! DEFINITION. The Chrysalis: partitions, regions, keys, attestation and the lifecycle (chapter 14). -/

namespace Sys2Proof.Machine

/-! ## Identity -/

/-- The lifecycle state: 0 MANUFACTURE, 1 PROVISIONED, 2 DEPLOYED, 3 RETURNED (R382). -/
def State.life (s : State) : Nat := s.g .chr CHR_LIFECYCLE_state

/-- The serial of the part. -/
def State.serial (s : State) : Nat := s.g .chr CHR_SERIAL_serial

/-- A SEC 1 uncompressed point and its three zero bytes (R374), of a public point of 1,056 bits. -/
def pointBytes (pub : Nat) : List Byte := 0x04 :: beBytes 132 pub ++ [0, 0, 0]

/-- The 133 bytes of a public key, without the three zeros that follow it. -/
def keyOf (bs : List Byte) : List Byte := fit 133 bs

/-- Words of a table entry as bytes (R2). -/
def State.entryBytes (s : State) (t : Tbl) (i from_ n : Nat) : List Byte :=
  (upTo n).flatMap fun w => leBytes 8 (s.tw t 0 i (from_ + w))

/-- Bytes placed in words of a table entry (R2). -/
def State.setEntryBytes (s : State) (t : Tbl) (i from_ n : Nat) (bs : List Byte) : State :=
  (upTo n).foldl (fun s w => s.setTw t 0 i (from_ + w) (ofLeBytes (slice (8 * w) 8 (fit (8 * n) bs)))) s

/-- The length of a DER object with a two-byte length (R382, PUT_CERT). -/
def derLen (bs : List Byte) : Nat := min 2048 (4 + (bs.getD 2 0).toNat * 256 + (bs.getD 3 0).toNat)

/-- A certificate of table 2: 0 product CA, 1 DeviceID. -/
def State.cert (s : State) (i : Nat) : List Byte := s.entryBytes .chrCert i 0 256

/-- The product CA public key (R377). -/
def State.caKey (s : State) : List Byte := Config.certKey (s.cert 0)

/-- A digest kept in eight registers (R2). -/
def State.digest (s : State) (b : Blk) (off : Nat) : List Byte := leBytes 64 (s.wide b off 8)

/-- The image digest that a steward's running slot shows. -/
def State.stwDigest (s : State) (b : Blk) : List Byte :=
  s.digest b (if s.gb b FW_SLOTS_running then FW_DIGEST_B_digest.off else FW_DIGEST_A_digest.off)

/-- The steward pages in steward-id order (R357), the Cocoon's left out. -/
def stewards : List Blk :=
  (upTo 8).map .stwB ++ (upTo 32).map .stwT ++ (upTo 16).map .stwA ++ (upTo 16).map .stwV ++ (upTo 16).map .stwL ++
    (upTo 8).map .stwBrg ++ [.stwC 0, .stwC 1, .stwC 2]

/-- The steward digest of R378. -/
def State.allStewards (s : State) : List Byte :=
  sha512 (stewards.flatMap s.stwDigest ++ s.digest .ccn CCN_IMG_DIGEST_digest.off)

/-- The image digest of the Thorax's running slot. -/
def State.thxDigest (s : State) : List Byte :=
  s.digest .thx (if s.gb .thx THX_FW_SLOTS_running then THX_FW_DIGEST_B_digest.off else THX_FW_DIGEST_A_digest.off)

/-- The digest of the configuration image in force. -/
def State.cfgDigest (s : State) : List Byte :=
  leBytes 64 (if s.boot.cfgSlot = 0 then s.mram.cfgDigestA else s.mram.cfgDigestB)

/-! ## Partitions -/

/-- The regions that a partition owns. -/
def State.partRegions (s : State) (p : Nat) : List Nat :=
  (upTo 1024).filter fun r => s.tb .chrRegion 0 r chrRegion_valid && s.tb .chrRegion 0 r chrRegion_owned
    && s.t .chrRegion 0 r chrRegion_partition == p

/-- The port groups that a partition owns. -/
def State.partGroups (s : State) (p : Nat) : List Nat :=
  (upTo 256).filter fun g => s.g (.grp g) OWNER_owned == 1 && s.g (.grp g) OWNER_partition == p

/-- The access entries of a page. -/
def State.setAcl (s : State) (b : Blk) (es : List Nat) : State :=
  (upTo 8).foldl (fun s i => s.setReg b (0x7C0 + 8 * i) (es.getD i 0)) s

/-- The access entries of a region. -/
def State.setRegionAcl (s : State) (r : Nat) (es : List Nat) : State :=
  (upTo 8).foldl (fun s i => s.setTw .chrRegion 0 r (3 + i) (es.getD i 0)) s

/-- The partition-region template (R367). -/
def regionAcl (p : Nat) : List Nat :=
  [aclEntry (0x11 + p) (0x11 + p) true true false (some p), aclEntry (0x30 + p) (0x30 + p) true true true (some p),
    aclEntry 0x40 0x5F true true false (some p), aclEntry 0x68 0x77 true true false (some p)]

/-- A port group goes back to the operator: its page is quiesced and reset, then the operator template written (R371). -/
def State.unassignPage (s : State) (b : Blk) : State :=
  let s := s.pageReset b
  let s := (s.p b OWNER_owned 0).p b OWNER_partition 0
  s.setAcl b (operatorAcl b)

/-- A region leaves its partition: it is erasing until it is zeroed (R367). -/
def State.unassignRegion (s : State) (r : Nat) : State := s.pt .chrRegion 0 r chrRegion_erasing 1

/-- A tenancy event on the Chrysalis's wire to the Cocoon (R425). -/
def State.tenancy (s : State) (p : Nat) (create : Bool) : State :=
  s.emit (.wire 1) (b2n create) [p, s.t .chrPart 0 p chrPart_create_count] []

/-- A partition becomes FREE once it has no region left to zero (R368). -/
def State.freePart (s : State) (p : Nat) : State :=
  if s.partSt p = 2 ∧ (s.partRegions p).isEmpty then (s.pt .chrPart 0 p chrPart_state 0).tenancy p false else s

/-- The Chrysalis jobs of a slot end with a code. -/
def State.endChrJobs (s : State) (slot : Nat) (c : Code) : State :=
  let off := 0x218 + 0x20 * slot
  match s.job .chr Blk.chr.page off with
  | none => s
  | some _ => (s.dropJob .chr Blk.chr.page off).finish .chr off c

/-- A running UNWRAP of a partition ends with ABORTED and its destination range is zeroed (R381). -/
def State.abortUnwrap (s : State) (p : Nat) : State :=
  match s.sec.unwraps.find? (·.1 == 1 + p) with
  | none => s
  | some (_, sp, a, n) =>
    let s := s.setSpace sp (memZero (s.space sp) a n)
    let s : State := { s with sec := { s.sec with unwraps := s.sec.unwraps.filter (·.1 != 1 + p) } }
    s.endChrJobs (1 + p) .aborted

/-- RELEASE (R368): RESET, every page and region back, keys and strict cleared, its queued commands aborted. -/
def State.releasePart (s : State) (p : Nat) : State :=
  let s := s.partReset p
  let s := (s.abortUnwrap p).endChrJobs (1 + p) .aborted
  let s := (s.partGroups p).foldl (fun s g => s.unassignPage (.grp g)) s
  let s := (s.partRegions p).foldl State.unassignRegion s
  let s := s.setEntryBytes .chrPart p 24 33 []
  let s := s.setEntryBytes .chrPart p 64 32 []
  let s := (s.pt .chrPart 0 p chrPart_strict 0).pt .chrPart 0 p chrPart_state 2
  let s : State := { s with sec := { s.sec with tenantKeys := s.sec.tenantKeys.filter (·.1 != p) } }
  s.freePart p

/-! ## Commands -/

/-- The fields of a command word (CHR_CMD). -/
def chrOp (v : Nat) : Nat := bits v 0 4
def chrP (v : Nat) : Nat := bits v 4 4
def chrKind (v : Nat) : Nat := bits v 8 1
def chrIndex (v : Nat) : Nat := bits v 9 14

/-- The first and the second address registers of a slot. -/
def State.chrAddr (s : State) (slot : Nat) : Nat × Bool :=
  (s.g .chr (CHR_CMD_ADDR_addr.at (0x20 * slot)), s.gb .chr (CHR_CMD_ADDR_host.at (0x20 * slot)))
def State.chrAddr2 (s : State) (slot : Nat) : Nat × Nat × Bool :=
  (s.g .chr (CHR_CMD_ADDR2_addr.at (0x20 * slot)), s.g .chr (CHR_CMD_ADDR2_space.at (0x20 * slot)),
    s.gb .chr (CHR_CMD_ADDR2_host.at (0x20 * slot)))

/-- Bytes at a slot's first address: host memory of the slot's function, or HBM. -/
def State.chrRead (s : State) (slot n : Nat) : List Byte :=
  let (a, h) := s.chrAddr slot
  s.readBuf slot h 0 a n

/-- The load log extended (R375). -/
def State.extendLog (s : State) (p keySlot : Nat) (tag : List Byte) (sp a n : Nat) : State :=
  s.setEntryBytes .chrPart p 16 8
    (sha512 (s.entryBytes .chrPart p 16 8 ++ leBytes 1 keySlot ++ tag ++ leBytes 1 sp ++ leBytes 8 a ++ leBytes 8 n))

/-- CREATE (R368, R373): a FREE partition becomes ACTIVE with a new key pair, an empty load log and its tenant key. -/
def State.chrCreate (s : State) (v : Nat) : Code × State :=
  let p := chrP v
  if s.partSt p ≠ 0 ∨ s.life ≠ 2 then (.refusedState, s)
  else if s.sec.entropyBad then (.notReady, s)
  else
    let key := keyOf (s.chrRead 0 136)
    let (d, s) := s.drawWide 9
    let priv := d % 2 ^ 521
    let s := s.pt .chrPart 0 p chrPart_state 1
    let s := s.pt .chrPart 0 p chrPart_create_count ((s.t .chrPart 0 p chrPart_create_count + 1) % 2 ^ 32)
    let s := s.setEntryBytes .chrPart p 8 8 (sha512 key)
    let s := s.setEntryBytes .chrPart p 16 8 []
    let s := s.setEntryBytes .chrPart p 24 17 (pointBytes (Config.p521Public priv))
    let s := s.setEntryBytes .chrPart p 48 9 (leBytes 72 priv)
    let s : State := { s with sec := { s.sec with tenantKeys := (p, key) :: s.sec.tenantKeys.filter (·.1 != p) } }
    (.ok, s.tenancy p true)

/-- A context binds a port group that no partition owns: one that the operator opened, or a reduction rank on one of its
ports (R371). -/
def State.groupBound (s : State) (g : Nat) : Bool :=
  !(s.ctxsOf g).isEmpty || s.rdxCtxs.any fun c => (s.rx c).ranks.any fun r => !r.remote && portGroup r.portId == g

/-- ASSIGN (R362, R367, R371). -/
def State.chrAssign (s : State) (v : Nat) : Code × State :=
  let p := chrP v
  if s.partSt p ≠ 1 then (.refusedState, s)
  else if chrKind v = 0 then
    match blkOf false (chrIndex v) with
    | some (.grp g) =>
      let b := Blk.grp g
      if s.g b OWNER_owned = 1 ∨ s.groupBound g then (.refusedState, s)
      else (.ok, ((s.p b OWNER_owned 1).p b OWNER_partition p).setAcl b (partitionAcl b p))
    | _ => (.badArg, s)
  else
    let r := chrIndex v
    if 1024 ≤ r ∨ !s.tb .chrRegion 0 r chrRegion_valid then (.badArg, s)
    else if s.tb .chrRegion 0 r chrRegion_owned ∨ s.tb .chrRegion 0 r chrRegion_erasing then (.refusedState, s)
    else (.ok, ((s.pt .chrRegion 0 r chrRegion_owned 1).pt .chrRegion 0 r chrRegion_partition p).setRegionAcl r (regionAcl p))

/-- UNASSIGN (R362, R367, R371). -/
def State.chrUnassign (s : State) (v : Nat) : Code × State :=
  if chrKind v = 0 then
    match blkOf false (chrIndex v) with
    | some (.grp g) =>
      if s.g (.grp g) OWNER_owned = 0 ∨ s.partSt (s.g (.grp g) OWNER_partition) ≠ 1 then (.refusedState, s)
      else (.ok, s.unassignPage (.grp g))
    | _ => (.badArg, s)
  else
    let r := chrIndex v
    if 1024 ≤ r ∨ !s.tb .chrRegion 0 r chrRegion_valid then (.badArg, s)
    else if !s.tb .chrRegion 0 r chrRegion_owned ∨ s.tb .chrRegion 0 r chrRegion_erasing
      ∨ s.partSt (s.t .chrRegion 0 r chrRegion_partition) ≠ 1 then (.refusedState, s)
    else (.ok, s.unassignRegion r)

/-- RESET (R369, R381). -/
def State.chrReset (s : State) (slot v : Nat) : Code × State :=
  let p := chrP v
  if slot ≠ 0 ∧ slot ≠ 1 + p then (.denied, s)
  else if s.partSt p ≠ 1 then (.refusedState, s)
  else (.ok, (s.abortUnwrap p).partReset p)

/-- RELEASE (R368). -/
def State.chrRelease (s : State) (v : Nat) : Code × State :=
  if s.partSt (chrP v) ≠ 1 then (.refusedState, s) else (.ok, s.releasePart (chrP v))

/-- A region would overlap another valid region of its space (R365). -/
def State.regionClash (s : State) (r sp base len : Nat) : Bool :=
  (upTo 1024).any fun k => k != r && s.tb .chrRegion 0 k chrRegion_valid && s.t .chrRegion 0 k chrRegion_space == sp &&
    decide (s.t .chrRegion 0 k chrRegion_base < base + len) &&
    decide (base < s.t .chrRegion 0 k chrRegion_base + s.t .chrRegion 0 k chrRegion_length)

/-- SET_REGION (R365): a length of 0 takes the region out (assumption 10). -/
def State.chrSetRegion (s : State) (v : Nat) : Code × State :=
  let r := chrIndex v
  let bs := s.chrRead 0 88
  let w := fun i => ofLeBytes (slice (8 * i) 8 bs)
  let base := bits (w 0) 0 52
  let sp := bits (w 0) 52 3
  let len := bits (w 1) 0 52
  if 1024 ≤ r then (.badArg, s)
  else if s.tb .chrRegion 0 r chrRegion_owned ∨ s.tb .chrRegion 0 r chrRegion_erasing then (.denied, s)
  else if 2 < sp ∨ base % 4096 ≠ 0 ∨ len % 4096 ≠ 0 ∨ spaceTop sp < base + len ∨ s.regionClash r sp base len then
    (.badArg, s)
  else
    let s := s.setTw .chrRegion 0 r 0 (base + sp * 2 ^ 52)
    let s := s.setTw .chrRegion 0 r 1 len
    let s := s.setTw .chrRegion 0 r 2 (b2n (len ≠ 0) * 2 ^ 5)
    (.ok, s.setRegionAcl r ((upTo 8).map fun i => bits (w (3 + i)) 0 25))

/-- SET_ACL (R362, R438). -/
def State.chrSetAcl (s : State) (v : Nat) : Code × State :=
  match s.blk (chrIndex v) with
  | none => (.badArg, s)
  | some b =>
    if s.g b OWNER_owned = 1 ∨ b = .ccn ∨ b = .stwC 3 then (.denied, s)
    else
      let bs := s.chrRead 0 64
      (.ok, s.setAcl b ((upTo 8).map fun i => bits (ofLeBytes (slice (8 * i) 8 bs)) 0 25))

/-- KEY_IMPORT (R374). -/
def State.chrKeyImport (s : State) (slot : Nat) : Code × State :=
  let p := slot - 1
  let bs := s.chrRead slot 208
  let zero := fun i n => (slice i n bs).all (· == 0)
  let ks := (bs.getD 5 0).toNat
  let eph := slice 8 136 bs
  if s.partSt p ≠ 1 then (.refusedState, s)
  else if ofLeBytes (slice 0 4 bs) ≠ 0x4B57524E ∨ bs.getD 4 0 ≠ 1 ∨ 7 < ks ∨ !zero 6 2 ∨ !zero 0x9C 4 ∨ !zero 0x8D 3 then
    (.badArg, s.raise .chr cKEY_IMPORT_FAIL)
  else
    match Config.ecdh (ofLeBytes (s.entryBytes .chrPart p 48 9)) (keyOf eph) with
    | none => (.badArg, s.raise .chr cKEY_IMPORT_FAIL)
    | some z =>
      let info := leBytes 4 0x4B57524E ++ leBytes 8 s.serial ++ leBytes 1 p
        ++ leBytes 4 (s.t .chrPart 0 p chrPart_create_count)
      let kek := ofLeBytes ((sha512 (beBytes 4 1 ++ beBytes 66 z ++ info)).take 32)
      let tag := slice 0xC0 16 bs
      match Config.gcmOpen kek (slice 0x90 12 bs) (bs.take 0xA0) (slice 0xA0 32 bs) tag with
      | none => (.integrity, s.raise .chr cKEY_IMPORT_FAIL)
      | some k =>
        let s := s.setEntryBytes .chrPart p (64 + 4 * ks) 4 (fit 32 k)
        (.ok, s.extendLog p ks tag 0xFF 0 32)

/-- UNWRAP (R375). The destination is checked before anything of the object is taken; an object outside host memory lies
in operator memory. -/
def State.chrUnwrap (s : State) (m slot : Nat) : Code × State :=
  let p := slot - 1
  let hd := s.chrRead slot 32
  let n := ofLeBytes (slice 8 8 hd)
  let ks := (hd.getD 5 0).toNat
  let (d, sp, host) := s.chrAddr2 slot
  let src := s.chrAddr slot
  if !host ∧ sp ≤ 2 ∧ (!s.memMay (mst m) (some p) sp d n .write ∨ (!src.2 ∧ s.inRegion true 0 src.1 (0x30 + n))) then
    (.denied, s.memDenied)
  else if s.partSt p ≠ 1 then (.refusedState, s)
  else if host ∨ 2 < sp then (.badArg, s)
  else if ofLeBytes (slice 0 4 hd) ≠ 0x4F57524E ∨ hd.getD 4 0 ≠ 1 ∨ 7 < ks ∨ !(slice 6 2 hd).all (· == 0)
    ∨ !(slice 0x1C 4 hd).all (· == 0) ∨ n = 0 ∨ 2 ^ 36 - 32 < n then (.badArg, s)
  else
    let obj := s.chrRead slot (0x30 + n)
    let tag := slice (0x20 + n) 16 obj
    let key := ofLeBytes (s.entryBytes .chrPart p (64 + 4 * ks) 4)
    let s : State := { s with sec := { s.sec with unwraps := (slot, sp, d, n) :: s.sec.unwraps.filter (·.1 != slot) } }
    match Config.gcmOpen key (slice 0x10 12 hd) (hd.take 0x20) (slice 0x20 n obj) tag with
    | none => (.integrity, (s.setSpace sp (memZero (s.space sp) d n)).raise .chr cUNWRAP_INTEGRITY)
    | some pt => (.ok, (s.writeSpace sp d (fit n pt)).extendLog p ks tag sp d n)

/-- An attestation report (R379) for a nonce; `p` is none for a device report. -/
def State.report (s : State) (p : Option Nat) (nonce : List Byte) : List Byte :=
  let q := p.getD 0
  let has := p.isSome
  let body := leBytes 4 0x5441524E ++ leBytes 2 1 ++ leBytes 1 (b2n has) ++ leBytes 1 (if has then q else 0xFF)
    ++ leBytes 8 s.serial ++ leBytes 4 (s.g .chr CHR_BOOT_COUNT_count) ++ leBytes 1 s.life
    ++ leBytes 1 (s.g .chr CHR_DEBUG_level) ++ leBytes 1 (if has then s.partSt q else 0)
    ++ leBytes 1 (if has then s.t .chrPart 0 q chrPart_strict + 2 * s.t .chrPart 0 q chrPart_consent
        + 4 * s.t .chrPart 0 q chrPart_halted else 0)
    ++ leBytes 4 (if has then s.t .chrPart 0 q chrPart_epoch else 0)
    ++ leBytes 4 (if has then s.t .chrPart 0 q chrPart_consent_count else 0)
    ++ fit 64 nonce ++ sha512 (fit 552 (s.entryBytes .chrCert 2 0 69)) ++ s.thxDigest ++ s.allStewards ++ s.cfgDigest
    ++ (if has then s.entryBytes .chrPart q 8 8 else s.digest .chr CHR_OWNER_KEY_digest.off)
    ++ (if has then s.entryBytes .chrPart q 16 8 else List.replicate 64 0)
    ++ (if has then s.entryBytes .chrPart q 24 17 else List.replicate 136 0)
  body ++ fit 132 (Config.ecdsaSign s.sec.aliasKey (shaNat body)) ++ List.replicate 4 0

/-- ATTEST (R380). -/
def State.chrAttest (s : State) (m slot v : Nat) : Code × State :=
  let p := chrP v
  let part := chrKind v = 1
  let (d, sp, host) := s.chrAddr2 slot
  if slot ≠ 0 ∧ (!part ∨ slot ≠ 1 + p) then (.denied, s)
  else if !host ∧ sp ≤ 2 ∧ !s.memMay (mst m) (reqPart m) sp d 752 .write then (.denied, s.memDenied)
  else if part ∧ s.partSt p ≠ 1 then (.refusedState, s)
  else if !host ∧ 2 < sp then (.badArg, s)
  else (.ok, s.writeBuf slot host sp d (s.report (if part then some p else none) (s.chrRead slot 64)))

/-- A debug level is not available in a lifecycle state (R385, R389): PARTITION outside DEPLOYED, FULL within it. -/
def levelBarred (life level : Nat) : Bool := (level == 2 && life != 2) || (level == 3 && life == 2) || 3 < level

/-- CLAIM (R382). The part does not enter a combination that R389 bars. -/
def State.chrClaim (s : State) : Code × State :=
  if s.life ≠ 1 ∨ levelBarred 2 (s.g .chr CHR_DEBUG_level) then (.refusedState, s)
  else
    let key := keyOf (s.chrRead 0 136)
    let s : State := { s with mram := { s.mram with ownerKey := key } }
    let s := s.setWide .chr CHR_OWNER_KEY_digest.off 8 (shaNat key)
    let s := (s.p .chr CHR_LIFECYCLE_state 2).add .chr CHR_LIFECYCLE_changes 1
    (.ok, s.raise .chr cLIFECYCLE_CHANGE)

/-- A token's form against the latest challenge (R384): its kind, its level or state, its partition, its scope. -/
def State.tokenForm (s : State) (tok : List Byte) : Bool :=
  tok.length == 224 && ofLeBytes (slice 0 4 tok) == 0x5444524E && tok.getD 4 0 == 1 &&
    ofLeBytes (slice 8 8 tok) == s.serial && s.sec.challenge == some (slice 0x10 64 tok) &&
    (slice 0x54 4 tok).all (· == 0) && (slice 0xDC 4 tok).all (· == 0) && (tok.getD 5 0 == 2 || tok.getD 7 0 == 0xFF)

/-- A token is signed by a key (R384). -/
def tokenSigned (tok key : List Byte) : Bool := Config.ecdsaVerify key (shaNat (tok.take 0x58)) (slice 0x58 132 tok)

/-- A token refused (R384, R390). -/
def State.refuseToken (s : State) : State := (s.inc .chr CHR_TOKENS_REFUSED_count).raise .chr cTOKEN_REFUSED

/-- A token accepted: its challenge is spent (R384). -/
def State.spendToken (s : State) : State := { s with sec := { s.sec with challenge := none } }

/-- All HBM and every store at zero. -/
def State.zeroAll (s : State) : State := { s with hbm := [], arr := [], vec := [] }

/-- The lifecycle transition that a signed token asks (R382): from MANUFACTURE or RETURNED to PROVISIONED under a
Coralri token, from DEPLOYED to RETURNED under the owner's. -/
def State.lifeToken (s : State) (tok : List Byte) : Code × State :=
  let want := (tok.getD 6 0).toNat
  let listed := ((s.life = 0 ∨ s.life = 3) ∧ want = 1) ∨ (s.life = 2 ∧ want = 3)
  if !decide listed ∨ levelBarred want (s.g .chr CHR_DEBUG_level) then (.refusedState, s.refuseToken)
  else if !s.tokenForm tok ∨ tok.getD 5 0 ≠ 1 ∨ !tokenSigned tok (if s.life = 2 then s.mram.ownerKey else s.caKey) then
    (.integrity, s.refuseToken)
  else
    let s := s.spendToken
    let s := if want = 3 then
        let s := (upTo 16).foldl (fun s p => if s.partSt p = 1 then s.releasePart p else s) s
        let s : State := { s with mram := { s.mram with ownerKey := [] } }
        s.setWide .chr CHR_OWNER_KEY_digest.off 8 0
      else s.zeroAll
    let s := (s.p .chr CHR_LIFECYCLE_state want).add .chr CHR_LIFECYCLE_changes 1
    (.ok, s.raise .chr cLIFECYCLE_CHANGE)

/-- LIFECYCLE (R382). -/
def State.chrLifecycle (s : State) : Code × State := s.lifeToken (s.chrRead 0 224)

/-- A fresh challenge, voiding earlier ones (R384). -/
def State.newChallenge (s : State) : List Byte × State :=
  let (d, s) := s.drawWide 8
  (leBytes 64 d, { s with sec := { s.sec with challenge := some (leBytes 64 d) } })

/-- CHALLENGE (R384). -/
def State.chrChallenge (s : State) (m slot : Nat) : Code × State :=
  let (d, sp, host) := s.chrAddr2 slot
  if !host ∧ sp ≤ 2 ∧ !s.memMay (mst m) (reqPart m) sp d 64 .write then (.denied, s.memDenied)
  else if s.sec.entropyBad then (.notReady, s)
  else if !host ∧ 2 < sp then (.badArg, s)
  else
    let (n, s) := s.newChallenge
    (.ok, s.writeBuf slot host sp d n)

/-- PUT_CERT (R382). -/
def State.chrPutCert (s : State) (v : Nat) : Code × State :=
  if s.life ≠ 0 then (.refusedState, s)
  else if 1 < chrIndex v then (.badArg, s)
  else
    let bs := s.chrRead 0 2048
    (.ok, s.setEntryBytes .chrCert (chrIndex v) 0 256 (bs.take (derLen bs)))

/-- The effect of a command, and its code (R381). -/
def State.chrRun (s : State) (m slot v : Nat) : Code × State :=
  match chrOp v with
  | 1 => s.chrCreate v
  | 2 => s.chrAssign v
  | 3 => s.chrUnassign v
  | 4 => s.chrReset slot v
  | 5 => s.chrRelease v
  | 6 => s.chrSetRegion v
  | 7 => s.chrSetAcl v
  | 8 => s.chrKeyImport slot
  | 9 => s.chrUnwrap m slot
  | 10 => s.chrAttest m slot v
  | 11 => s.chrClaim
  | 12 => s.chrLifecycle
  | 13 => s.chrChallenge m slot
  | _ => s.chrPutCert v

/-- A command's buffers lie in a space that the power state has put to sleep (R389): the first address of the commands
that read there, and the second one of those that write. -/
def State.chrAsleep (s : State) (slot op : Nat) : Bool :=
  let reads := op == 1 || (6 ≤ op && op ≤ 12) || op == 14
  let writes := op == 9 || op == 10 || op == 13
  let d := s.chrAddr2 slot
  (reads && !(s.chrAddr slot).2 && s.asleep 0) || (writes && !d.2.2 && s.asleep d.2.1)

/-- The engine that queues a command: 0 public-key, 1 AES; none for the commands that run at once (R381). -/
def chrEngine (op : Nat) : Option Nat :=
  if op = 1 ∨ op = 8 ∨ op = 10 ∨ op = 11 ∨ op = 12 ∨ op = 13 then some 0 else if op = 9 then some 1 else none

/-- A slot takes a command (the table of R381); a reserved op is no slot's matter. -/
def slotTakes (slot op : Nat) : Bool :=
  op == 0 || 14 < op || op == 4 || op == 10 || (if slot = 0 then op != 8 && op != 9 else op == 8 || op == 9)

/-- A command of a slot is written (R381): only the slot's own function writes it, a busy slot refuses it. Its effect
comes about here; a queued command's status follows when its engine is done (assumption 11). -/
def State.chrCommand (s : State) (m slot v : Nat) : State :=
  let off := 0x200 + 0x20 * slot
  let st := 0x218 + 0x20 * slot
  if 17 ≤ slot then s else
  s.onWrite m Blk.chr.page off fun b =>
    if mst m ≠ (if slot = 0 then 0x10 else 0x10 + slot) then s.refuse m b off .denied
    else if !slotTakes slot (chrOp v) then s.refuse m b off .denied
    else if bit (s.reg b st) 8 then s.refuse m b off .refusedState
    else if chrOp v = 0 ∨ 14 < chrOp v then s.refuseOp m b off st
    else
      let (c, s) := if s.chrAsleep slot (chrOp v) then (Code.refusedState, s) else s.chrRun m slot v
      let s := if c.refuses then s.refuse m b off c else s
      match chrEngine (chrOp v) with
      | none => s.finish b st c
      | some e => (s.setBusy b st).addJob ⟨.chr, b.page, st, c, e, slot, m⟩

/-- CREATE (R368). -/
def execCreate (m : Mst) (slot : ChrSlot) (v : Word) (s : State) : Answer :=
  (s.chrCommand m.toNat slot.toNat v.toNat).done

/-- ASSIGN (R367). -/
def execAssign (m : Mst) (slot : ChrSlot) (v : Word) (s : State) : Answer :=
  (s.chrCommand m.toNat slot.toNat v.toNat).done

/-- UNASSIGN (R367). -/
def execUnassign (m : Mst) (slot : ChrSlot) (v : Word) (s : State) : Answer :=
  (s.chrCommand m.toNat slot.toNat v.toNat).done

/-- RESET of a partition (R369). -/
def execPartitionReset (m : Mst) (slot : ChrSlot) (v : Word) (s : State) : Answer :=
  (s.chrCommand m.toNat slot.toNat v.toNat).done

/-- RELEASE (R368). -/
def execRelease (m : Mst) (slot : ChrSlot) (v : Word) (s : State) : Answer :=
  (s.chrCommand m.toNat slot.toNat v.toNat).done

/-- SET_REGION (R365). -/
def execSetRegion (m : Mst) (slot : ChrSlot) (v : Word) (s : State) : Answer :=
  (s.chrCommand m.toNat slot.toNat v.toNat).done

/-- SET_ACL (R362). -/
def execSetAcl (m : Mst) (slot : ChrSlot) (v : Word) (s : State) : Answer :=
  (s.chrCommand m.toNat slot.toNat v.toNat).done

/-- KEY_IMPORT (R374). -/
def execKeyImport (m : Mst) (slot : ChrSlot) (v : Word) (s : State) : Answer :=
  (s.chrCommand m.toNat slot.toNat v.toNat).done

/-- UNWRAP (R375). -/
def execUnwrap (m : Mst) (slot : ChrSlot) (v : Word) (s : State) : Answer :=
  (s.chrCommand m.toNat slot.toNat v.toNat).done

/-- ATTEST (R380). -/
def execAttest (m : Mst) (slot : ChrSlot) (v : Word) (s : State) : Answer :=
  (s.chrCommand m.toNat slot.toNat v.toNat).done

/-- CLAIM (R382). -/
def execClaimOwner (m : Mst) (slot : ChrSlot) (v : Word) (s : State) : Answer :=
  (s.chrCommand m.toNat slot.toNat v.toNat).done

/-- LIFECYCLE (R382). -/
def execLifecycle (m : Mst) (slot : ChrSlot) (v : Word) (s : State) : Answer :=
  (s.chrCommand m.toNat slot.toNat v.toNat).done

/-- CHALLENGE of the Chrysalis page (R384). -/
def execChrChallenge (m : Mst) (slot : ChrSlot) (v : Word) (s : State) : Answer :=
  (s.chrCommand m.toNat slot.toNat v.toNat).done

/-- PUT_CERT (R382). -/
def execPutCert (m : Mst) (slot : ChrSlot) (v : Word) (s : State) : Answer :=
  (s.chrCommand m.toNat slot.toNat v.toNat).done

/-- The next slot after `last` in cyclic order, of those that wait on an engine (R381). -/
def nextSlot (last : Nat) (slots : List Nat) : Option Nat :=
  ((upTo 17).map fun i => (last + 1 + i) % 17).find? slots.contains

/-- A slot had its turn on an engine, and its key no longer waits. -/
def State.tookTurn (s : State) (e slot : Nat) : State :=
  { s with sec := { s.sec with turns := s.sec.turns.set e slot, unwraps := s.sec.unwraps.filter (·.1 != slot) } }

/-- CHR_CMD_DONE (R381): an engine finishes the command of the next slot in its cyclic order. -/
def State.chrDone (s : State) (e : Nat) : State :=
  let js := s.jobs.filter fun j => j.kind == .chr && j.a == e
  match nextSlot (s.sec.turns.getD e 16) (js.map (·.b)) with
  | none => s
  | some slot =>
    match js.find? (·.b == slot) with
    | none => s
    | some j =>
      ((s.dropJob .chr j.page j.off).finish .chr j.off j.code).tookTurn e slot

/-- CHR_CMD_DONE (R381). -/
def execChrCmdDone (engine : BitVec 2) (s : State) : Answer := .next (s.chrDone engine.toNat)

/-- A region did not verify as zero: it is not zeroed again before a repair inside it (R390, R405). -/
def State.eraseFailed (s : State) (r : Nat) : State :=
  State.raise { s with sec := { s.sec with unzeroed := r :: s.sec.unzeroed } } .chr cERASE_FAIL

/-- REGION_ZEROED (R367, R390): the region is the operator's again, with no access entry left, or, where it did not
verify as zero, stays erasing until a repair lets the Chrysalis zero it again. -/
def execRegionZeroed (r : BitVec 10) (ok : Bool) (s : State) : Answer :=
  let i := r.toNat
  (if !s.tb .chrRegion 0 i chrRegion_erasing || s.sec.unzeroed.contains i then s
  else if !ok then s.eraseFailed i
  else
    let sp := s.t .chrRegion 0 i chrRegion_space
    let p := s.t .chrRegion 0 i chrRegion_partition
    let s := s.setSpace sp (memZero (s.space sp) (s.t .chrRegion 0 i chrRegion_base) (s.t .chrRegion 0 i chrRegion_length))
    let s := s.setTw .chrRegion 0 i 2 (2 ^ 5)
    (s.setRegionAcl i []).freePart p).done

/-- The noise source has failed. -/
def State.entropyLost (s : State) : State := { s with sec := { s.sec with entropyBad := true } }

/-- ENTROPY_FAIL (R390): commands that need the DRBG answer NOT_READY until the Chrysalis page is reset. -/
def execEntropyFail (s : State) : Answer :=
  (s.entropyLost.raise .chr cENTROPY_FAIL).done

end Sys2Proof.Machine
end

