-- ==== Sys2Proof/Machine/Firmware.lean ====
section
/-! DEFINITION. Signed images and the firmware slots of the stewards and the Thorax (R392, R393, R397, R398). -/

namespace Sys2Proof.Machine

/-- A firmware field on its page: the THX page holds the steward's registers 0x400 further on; hidden fields lie at
one place on both. -/
def fw (b : Blk) (f : Fld) : Fld := if b = .thx ∧ f.off < 0x1000 then f.at 0x400 else f

/-- The slot size of a page: 512 KiB of a steward, 8 MiB of the Thorax (R391). -/
def slotSize (b : Blk) : Nat := if b = .thx then 8 * 2 ^ 20 else 512 * 2 ^ 10

/-- The header kind and die code that a page's slots take (R392). -/
def slotKind (b : Blk) : Nat × Nat := if b = .thx then (0, 0) else (1, b.kind)

/-- The form of an image header (R392, R393): everything but the serial, the length, the signatures and the floor. -/
def headerForm (h : List Byte) (kind die : Nat) : Bool :=
  ofLeBytes (slice 0 4 h) == 0x4749524E && ofLeBytes (slice 4 2 h) == 1 && (h.getD 6 0).toNat == kind &&
    (h.getD 7 0).toNat == die

/-- The body length, revision and security version of a header. -/
def hdrLen (h : List Byte) : Nat := ofLeBytes (slice 0x10 8 h)
def hdrRev (h : List Byte) : Nat := ofLeBytes (slice 8 2 h)
def hdrSvn (h : List Byte) : Nat := ofLeBytes (slice 0xA 2 h)

/-- The image digest (R392). -/
def imageDigest (h : List Byte) : Nat := shaNat (h.take 0x80)

/-- What R393 says of an image for a slot of a size, with a floor: OK, INTEGRITY, REFUSED_STATE or BAD_ARG; and DENIED for
a steward image of the Cocoon. -/
def State.judge (s : State) (kind die size floor : Nat) (img : List Byte) : Code :=
  let h := img.take 512
  let n := hdrLen h
  let ser := ofLeBytes (slice 0x18 8 h)
  let signer := (h.getD 0x60 0).toNat
  let key := if signer = 0 then s.caKey else Config.certKey (s.cert 1)
  if kind = 1 ∧ headerForm h 1 (Blk.kind .ccn) then .denied
  else if !headerForm h kind die ∨ n = 0 ∨ size - 512 < n ∨ !(ser == s.serial || (ser == 0 && kind != 2)) ∨ 1 < signer
    ∨ (signer = 1 ∧ kind ≠ 2) then .badArg
  else if sha512 (slice 512 n img) ≠ slice 0x20 64 h ∨ !Config.ecdsaVerify key (shaNat (h.take 0x80)) (slice 0x80 132 h)
    then .integrity
  else if hdrSvn h < floor then .refusedState
  else .ok

/-- The slot that is not committed. -/
def State.fwOther (s : State) (b : Blk) : Nat := 1 - s.g b (fw b FW_SLOTS_committed)

/-- A slot holds an image, or none. -/
def State.setSlot (s : State) (b : Blk) (slot : Nat) (img : Option Image) : State :=
  let i := img.getD ⟨0, 0, 0, false⟩
  let v := b2n img.isSome
  if slot = 0 then
    (((s.p b (fw b FW_SLOTS_rev_a) i.rev).p b H_SVN_a i.svn).p b H_SVN_valid_a v).setWide b (fw b FW_DIGEST_A_digest).off 8
      i.digest
  else
    (((s.p b (fw b FW_SLOTS_rev_b) i.rev).p b H_SVN_b i.svn).p b H_SVN_valid_b v).setWide b (fw b FW_DIGEST_B_digest).off 8
      i.digest

/-- A slot holds an image. -/
def State.slotValid (s : State) (b : Blk) (slot : Nat) : Bool := s.gb b (if slot = 0 then H_SVN_valid_a else H_SVN_valid_b)

/-- The firmware restarts on a slot (R398): a steward page answers TRAINING until the firmware is ready, and the rings
and the management port answer NOT_READY while the Thorax restarts. -/
def State.fwRestart (s : State) (b : Blk) (slot : Nat) : State :=
  let s := (s.p b (fw b FW_SLOTS_running) slot).p b (fw b FW_SLOTS_ready) 0
  let s := s.p b (fw b FW_SVN_svn) (s.g b (if slot = 0 then H_SVN_a else H_SVN_b))
  let s := s.inc b (fw b FW_RESTARTS_count)
  if b = .thx then { s with boot := { s.boot with thxRestart := true } }
  else if s.live b then s.setSt b .training else s

/-- The pages whose slots share one floor: those of the same kind (R391). -/
def floorPages (b : Blk) : List Blk := if b = .thx then [.thx] else stewards.filter fun k => k.kind == b.kind

/-- The route loader is busy (R398). -/
def State.routeBusy (s : State) : Bool := s.jobs.any (·.kind == .routeLoad)

/-- The image at FW_CMD_ADDR lies where the writer may read it (R365). -/
def State.fwMay (s : State) (m : Nat) (b : Blk) : Bool :=
  let a := s.g b (fw b FW_CMD_ADDR_addr)
  let h := s.gb b (fw b FW_CMD_ADDR_host)
  s.imageMay m h a 512 &&
    s.imageMay m h a (512 + min (hdrLen (s.readBuf (masterFn (mst m)) h 0 a 512)) (slotSize b))

/-- A firmware command in a state that the table lists (R397): its effect, or REFUSED_STATE. WRITE reads the image and
leaves the verification to end in a step of its own. -/
def State.fwRun (s : State) (m : Nat) (b : Blk) (v : Nat) : Code × State :=
  let st := s.g b (fw b FW_SLOTS_state)
  let setState := fun (s : State) n => s.p b (fw b FW_SLOTS_state) n
  let com := s.g b (fw b FW_SLOTS_committed)
  let other := s.fwOther b
  match bits v 0 3, st with
  | 1, 0 =>
    let a := s.g b (fw b FW_CMD_ADDR_addr)
    let h := s.gb b (fw b FW_CMD_ADDR_host)
    let hd := s.readBuf (masterFn (mst m)) h 0 a 512
    let img := s.readBuf (masterFn (mst m)) h 0 a (512 + min (hdrLen hd) (slotSize b))
    let c := s.judge (slotKind b).1 (slotKind b).2 (slotSize b) (s.g b (fw b FW_SVN_floor)) img
    (.ok, { s.setSlot b other none with
      jobs := s.jobs ++ [⟨.fwWrite, b.page, 0, c, hdrRev hd + hdrSvn hd * 2 ^ 16, imageDigest hd, m⟩] })
  | 2, 1 => if b = .thx ∧ s.routeBusy then (.refusedState, s) else (.ok, (setState s 2).fwRestart b other)
  | 3, 2 =>
    if s.gb b (fw b FW_SLOTS_ready) then
      let s := (setState s 0).p b (fw b FW_SLOTS_committed) (s.g b (fw b FW_SLOTS_running))
      (.ok, if bits v 3 1 = 1 then (floorPages b).foldl (fun s k => s.p k (fw k FW_SVN_floor) (s.g b (fw b FW_SVN_svn))) s else s)
    else (.refusedState, s)
  | 4, 2 => (.ok, (setState s 1).fwRestart b com)
  | 5, 1 => (.ok, (setState s 0).setSlot b other none)
  | 6, 0 => if b = .thx ∧ s.routeBusy then (.refusedState, s) else (.ok, s.fwRestart b com)
  | _, _ => (.refusedState, s)

/-- A write of FW_CMD of a steward page or of the THX page (R397). -/
def State.fwCommand (s : State) (m pg v : Nat) : State :=
  match s.blk pg with
  | none => s
  | some b =>
    if !(b.isSteward || b == .thx) then s else
    let off := (fw b FW_CMD_op).off
    let st := (fw b FW_CMD_STATUS_code).off
    s.onWrite m pg off fun b =>
      if bit (s.reg b st) 8 then s.refuse m b off .refusedState
      else if bits v 0 3 = 0 ∨ 6 < bits v 0 3 then s.refuseOp m b off st
      else
        let (c, s) := if bits v 0 3 = 1 ∧ !s.fwMay m b then (.denied, s.memDenied) else s.fwRun m b v
        if c.refuses then (s.refuse m b off c).finish b st c
        else if bits v 0 3 = 1 then s.setBusy b st
        else s.finish b st c

/-- FW_CMD WRITE (R397). -/
def execFwWrite (m : Mst) (pg : Pg) (v : Word) (s : State) : Answer := (s.fwCommand m.toNat pg.toNat v.toNat).done

/-- FW_CMD ACTIVATE (R397). -/
def execActivate (m : Mst) (pg : Pg) (v : Word) (s : State) : Answer := (s.fwCommand m.toNat pg.toNat v.toNat).done

/-- FW_CMD COMMIT (R397). -/
def execCommit (m : Mst) (pg : Pg) (v : Word) (s : State) : Answer := (s.fwCommand m.toNat pg.toNat v.toNat).done

/-- FW_CMD ROLLBACK (R397). -/
def execRollback (m : Mst) (pg : Pg) (v : Word) (s : State) : Answer := (s.fwCommand m.toNat pg.toNat v.toNat).done

/-- FW_CMD DISCARD (R397). -/
def execDiscard (m : Mst) (pg : Pg) (v : Word) (s : State) : Answer := (s.fwCommand m.toNat pg.toNat v.toNat).done

/-- FW_CMD RESTART (R398). -/
def execRestart (m : Mst) (pg : Pg) (v : Word) (s : State) : Answer := (s.fwCommand m.toNat pg.toNat v.toNat).done

/-- The page of a firmware event. -/
def State.fwPage (s : State) (pg : Nat) : Option Blk := (s.blk pg).filter fun b => b.isSteward || b == .thx

/-- The end of a WRITE: the slot is STAGED with the image, or marked empty. -/
def State.endWrite (s : State) (b : Blk) (j : Job) : State :=
  if j.code = .ok then
    (s.setSlot b (s.fwOther b) (some ⟨j.a % 2 ^ 16, j.a / 2 ^ 16, j.b, true⟩)).p b (fw b FW_SLOTS_state) 1
  else s.setSlot b (s.fwOther b) none

/-- FW_WRITE_DONE (R397): the slot becomes STAGED with the image, or is marked empty. -/
def execFwWriteDone (pg : Pg) (s : State) : Answer :=
  State.done (match s.fwPage pg.toNat with
    | none => s
    | some b =>
      match s.job .fwWrite b.page 0 with
      | none => s
      | some j =>
        let s := s.dropJob .fwWrite b.page 0
        let s := s.endWrite b j
        let off := (fw b FW_CMD_op).off
        let s := if j.code.refuses then s.refuse j.asker b off j.code else s
        s.finish b (fw b FW_CMD_STATUS_code).off j.code)

/-- The Thorax restarts no longer. -/
def State.thxServes (s : State) : State := { s with boot := { s.boot with thxRestart := false } }

/-- FW_READY (R397, R398): the running firmware reports healthy. -/
def execFwReady (pg : Pg) (s : State) : Answer :=
  State.done (match s.fwPage pg.toNat with
    | none => s
    | some b =>
      let s := s.p b (fw b FW_SLOTS_ready) 1
      if b = .thx then s.thxServes else (s.trained b).followAll b)

/-- FW_TRIAL_TIMEOUT (R397): firmware in TRIAL that is not ready in time, or crashes, falls back to the committed
slot. -/
def execFwTrialTimeout (pg : Pg) (s : State) : Answer :=
  State.done (match s.fwPage pg.toNat with
    | none => s
    | some b =>
      if s.g b (fw b FW_SLOTS_state) = 2 then
        let s := (s.p b (fw b FW_SLOTS_state) 1).fwRestart b (s.g b (fw b FW_SLOTS_committed))
        let s := s.inc b (fw b FW_FALLBACKS_count)
        s.raise b (if b = .thx then cFW_FALLBACK_thx else cFW_FALLBACK_stw)
      else s)

end Sys2Proof.Machine
end

