-- ==== Sys2Proof/Machine/Power.lean ====
section
/-! DEFINITION. Boot, the reset pins, the power states, the governor, the thermal trip, HBM repair and the boot profile
(chapter 15), and the regulators on AVSBus and PMBus (R458, R459). -/

namespace Sys2Proof.Machine

/-! ## Boot (R394 to R396) -/

/-- The signature's key of the DeviceID (R377). -/
def deviceKey : Nat := Config.pufKey

/-- The boot record of R378, signed with the DeviceID key. -/
def State.bootRecord (s : State) (alias_ : Nat) : List Byte :=
  let body := leBytes 4 0x4442524E ++ leBytes 2 1 ++ leBytes 2 0 ++ leBytes 8 s.serial
    ++ leBytes 4 (s.g .chr CHR_BOOT_COUNT_count) ++ leBytes 1 s.life ++ leBytes 3 0
    ++ leBytes 64 (Config.romDigest 0) ++ s.thxDigest ++ s.allStewards ++ s.cfgDigest
    ++ pointBytes (Config.p521Public alias_)
  body ++ fit 132 (Config.ecdsaSign deviceKey (shaNat body)) ++ leBytes 4 0

/-- Recovery mode, with its first cause and every slot kind that failed (R395). -/
def State.enterRecovery (s : State) (cause failed : Nat) : State :=
  { s with boot := { s.boot with
    recovery := true, cause := if s.boot.recovery then s.boot.cause else cause
    failed := s.boot.failed.filter (· != failed) ++ [failed] } }

/-- Images that fail their check at boot, beside those that failed before. -/
def State.noteBad (s : State) (bad : List Nat) : State :=
  { s with boot := { s.boot with badSlots := s.boot.badSlots ++ bad.filter fun i => !s.boot.badSlots.contains i } }

/-- A slot's image has passed every check of this boot. -/
def State.imageGood (s : State) (b : Blk) (unit slot : Nat) : Bool :=
  s.slotValid b slot && !s.boot.badSlots.contains (2 * unit + slot)

/-- The slot of a page that boot runs: the committed one where it verifies, else the other; none where neither does. -/
def State.bootSlot (s : State) (b : Blk) (unit : Nat) : Option Nat :=
  let com := s.g b (fw b FW_SLOTS_committed)
  if s.imageGood b unit com then some com else if s.imageGood b unit (1 - com) then some (1 - com) else none

/-- A page's firmware runs from a slot; leaving the slot that it ran from for one that is not committed is a fallback. -/
def State.runSlot (s : State) (b : Blk) (sl : Nat) : State :=
  let s := if sl = s.g b (fw b FW_SLOTS_running) ∨ sl = s.g b (fw b FW_SLOTS_committed) then s else s.inc b (fw b FW_FALLBACKS_count)
  (s.p b (fw b FW_SLOTS_running) sl).p b (fw b FW_SVN_svn) (s.g b (if sl = 0 then H_SVN_a else H_SVN_b))

/-- One steward's slots at boot (R395): the committed slot, the other one, or the die stays OFF. -/
def State.bootSteward (s : State) (b : Blk) (unit : Nat) : State :=
  match s.bootSlot b unit with
  | some sl => s.runSlot b sl
  | none =>
    let s := s.raise b cFW_BAD
    match b with
    | .stwC _ | .stwBrg _ => s.enterRecovery 3 1
    | _ => if s.boot.offDies.contains unit then s else
      { s with boot := { s.boot with offDies := s.boot.offDies ++ [unit] } }

/-- Boot starts (R394): a device reset's state, at Instar 0. -/
def State.startBoot (s : State) : State := { s with boot := { BootSt.reset with running := true } }

/-- PWRGD at a level. -/
def State.setPwrgd (s : State) (v : Bool) : State := { s with pins := { s.pins with pwrgd := v } }

/-- RESET_N at a level. -/
def State.setResetN (s : State) (v : Bool) : State := { s with pins := { s.pins with resetN := v } }

/-- THERMTRIP_N and FAULT_N high: nothing trips and no fault is shown. -/
def State.pinsHigh (s : State) : State := { s with pins := { s.pins with thermtripN := true, faultN := true } }

/-- Boot does not run. -/
def State.noBoot (s : State) : State := { s with boot := { s.boot with running := false } }

/-- PWRGD_RISE (R394, R469). -/
def execPwrgdRise (s : State) : Answer :=
  .next (if s.pins.pwrgd then s else if s.pins.resetN then (s.setPwrgd true).startBoot else s.setPwrgd true)

/-- PWRGD_FALL (R396, R403, R417): everything stops but the Cocoon; the halt record is lost. -/
def execPwrgdFall (s : State) : Answer := .next (((s.deviceReset false).setPwrgd false).pinsHigh).noBoot

/-- RESET_N (R396, R469): low is a device reset; its rise starts boot. -/
def execResetN (level : Bool) (s : State) : Answer :=
  if level then
    .next (if s.pins.resetN then s else if s.pins.pwrgd then (s.setResetN true).startBoot else s.setResetN true)
  else .next ((s.deviceReset true).setResetN false).noBoot

/-- Boot runs on an image that is not the committed one: FW_FALLBACK follows after Instar 1 (R395). -/
def State.fellBack (s : State) : State := s.p .pwr PWR_BOOT_thx_fallback 1

/-- The Thorax image that boot picks runs, its fallback counted (R394, R395). -/
def State.bootThorax (s : State) : State :=
  match s.bootSlot .thx 99 with
  | none => s.enterRecovery 1 0
  | some sl => (if sl = s.g .thx THX_FW_SLOTS_committed then s else s.fellBack).runSlot .thx sl

/-- A configuration slot holds an image that passed its check; `200 + i` among the failures names slot i. -/
def State.cfgGood (s : State) (i : Nat) : Bool :=
  (if i = 0 then s.mram.cfgA else s.mram.cfgB).isSome && !s.boot.badSlots.contains (200 + i)

/-- The configuration slot that boot picks: the committed one, else the other (R394, R395). -/
def State.bootConfig (s : State) : State :=
  let com := s.mram.cfgCommitted
  if s.cfgGood com then { s with boot := { s.boot with cfgSlot := com } }
  else if s.cfgGood (1 - com) then { s with boot := { s.boot with cfgSlot := 1 - com } }
  else s.enterRecovery 2 2

/-- The alias key of this boot and the boot record it signs (R378). -/
def State.bootAlias (s : State) : State :=
  let r := s.drawWide 9
  let key := r.1 % 2 ^ 521
  let s : State := { r.2 with sec := { r.2.sec with aliasKey := key } }
  s.setEntryBytes .chrCert 2 0 69 (s.bootRecord key)

/-- The instars that are done. -/
def State.setDone (s : State) (n : Nat) : State := { s with boot := { s.boot with done := n } }

/-- Boot runs, outside recovery mode, and stands at an instar. -/
def State.bootAt (s : State) (n : Nat) : Bool := s.boot.running && !s.boot.recovery && s.boot.done == n

/-- The committed slots picked. -/
def State.pickSlots (s : State) (bad : List Nat) : State :=
  (stewards.zip (upTo 99)).foldl (fun s e => s.bootSteward e.1 e.2)
    ((s.noteBad bad).add .chr CHR_BOOT_COUNT_count 1).bootThorax.bootConfig

/-- Instar 0 (R394, R395): boot_count, the checks of the committed slots, the alias key and the boot record. -/
def State.instar0 (s : State) (bad : List Nat) : State :=
  let s := (s.pickSlots bad).bootAlias
  if s.boot.recovery then s else (s.p .pwr PWR_BOOT_instar 1).setDone 1

/-- INSTAR_0 (R394). -/
def execInstar0 (bad : List (BitVec 8)) (s : State) : Answer := State.done (if s.bootAt 0 then s.instar0 (bad.map (·.toNat)) else s)

/-- The pages that Instar 1 enables: those at path `DEV`, of the centre dies, of the bridges, and the WNG pages with
their FLT companions (R394). -/
def instar1Pages : List Blk :=
  [.dev, .fltDev, .pwr, .meshDev, .xbarDev, .thx, .pci, .dbg, .stwC 0, .chr, .stwC 1, .syn, .stwC 2, .ccn, .stwC 3]
    ++ ((upTo 8).flatMap fun i => [.brg i, .stwBrg i]) ++ ((upTo 4).flatMap fun w => [.wng w, .fltW w])

/-- Pages enabled whose training needs nothing more: they pass through TRAINING in one step (R29). -/
def State.enableTrained (s : State) (bs : List Blk) : State := bs.foldl State.trained (s.enablePages bs)

/-- Boot fell back on another Thorax or configuration slot (R395). -/
def State.bootFellBack (s : State) : Bool := s.gb .pwr PWR_BOOT_thx_fallback || s.boot.cfgSlot != s.mram.cfgCommitted

/-- Instar 1 (R394): the Thorax, the endpoint, the management port and the governor start; the device section is
applied. -/
def State.instar1 (s : State) : State :=
  let s := s.enableTrained instar1Pages
  let s := (s.p .pwr PWR_VNOW_vcore_c_mv (s.g .pwr PWR_VSET_vcore_c_mv)).p .pwr PWR_VNOW_vcore_s_mv
    (s.g .pwr PWR_VSET_vcore_s_mv)
  let s := (s.p .thx THX_FW_SLOTS_ready 1).p .pwr PWR_BOOT_instar 2
  let s := if s.bootFellBack then s.raise .thx cFW_FALLBACK_thx else s
  s.setDone 2

/-- INSTAR_1 (R394). -/
def execInstar1 (s : State) : Answer := State.done (if s.bootAt 1 then s.instar1 else s)

/-- The blocks of a base die that its steward, and those of the dies stacked on it, bring up at Instar 2: every page
but the port groups'. `off` says which steward units stay OFF. -/
def instar2Pages (off : List Nat) : List Blk :=
  let on := fun u => !off.contains u
  let bases := ((upTo 8).filter on).flatMap fun d =>
    [.bse d, .fltB d, .pool d, .meshB d, .hbm (2 * d), .hbm (2 * d + 1), .stwB d]
      ++ (((upTo 4).map (4 * d + ·)).filter fun t => on (8 + t)).flatMap (fun t => [.swt t, .att t, .xbarT t, .stwT t])
      ++ (((upTo 2).map (2 * d + ·)).filter fun a => on (40 + a)).flatMap (fun a => [.mac a, .stwA a])
      ++ (((upTo 2).map (2 * d + ·)).filter fun n => on (56 + n)).flatMap (fun n => [.vec n, .rdx n, .stwV n])
  bases ++ ((upTo 16).filter fun k => on (72 + k)).flatMap fun k =>
    [Blk.die k, .stwL k] ++ (upTo 68).map (.lane k)

/-- Instar 2 (R394, R395): bodies checked, dies trained, HBM trained and zeroed with every store, pools enabled. -/
def State.instar2 (s : State) (bad hbmFail : List Nat) : State :=
  let s := (stewards.zip (upTo 99)).foldl (fun s e => if bad.contains (2 * e.2) || bad.contains (2 * e.2 + 1)
    then s.bootSteward e.1 e.2 else s) (s.noteBad bad)
  if s.boot.recovery then s else
  let pages := instar2Pages s.boot.offDies
  let s := s.enablePages pages
  let s := pages.foldl (fun s b => match b with
    | .pool _ => s
    | .hbm h => if hbmFail.contains h then (s.toSt b .faulted).raise b cHBM_TRAIN_FAIL else s.trained b
    | .die k => ((s.p (.die k) LNK_DIE_REFCLK_present 1).p (.die k) LNK_DIE_REFCLK_locked 1).trained b
    | b => let s := if b.isSteward then s.p b FW_SLOTS_ready 1 else s
           s.trained b) s
  let s := s.zeroAll
  (s.p .pwr PWR_BOOT_instar 3).setDone 3

/-- INSTAR_2 (R394). -/
def execInstar2 (bad : List (BitVec 8)) (hbmFail : List (BitVec 4)) (s : State) : Answer :=
  State.done (if s.bootAt 2 then s.instar2 (bad.map (·.toNat)) (hbmFail.map (·.toNat)) else s)

/-- The configuration slot in force. -/
def State.profile (s : State) : Profile :=
  ((if s.boot.cfgSlot = 0 then s.mram.cfgA else s.mram.cfgB).getD ⟨[], [], [], []⟩)

/-- The registers and tables of the boot profile take their captured values (R391, R394), and what follows from them:
the pattern in force and the store budgets (R176). -/
def State.applyProfile (s : State) : State :=
  let s : State := { s with regs := s.profile.regs.foldl (fun l e => kvPut resetKey l e.1 e.2) s.regs
                            tabs := s.profile.tabs.foldl (fun l e => kvPut resetTab l e.1 e.2) s.tabs }
  let s := (s.p .xbarDev XBAR_STATUS_pattern (s.g .xbarDev XBAR_CFG_pattern)).showPos
  (upTo 8).foldl State.checkBudget s

/-- The route loader takes the boot route image, or refuses it (R394, R395). -/
def State.bootRoutes (s : State) (img : List Byte) : State :=
  if (s.checkImage img).1 = .ok then (s.loadImage img).sysFlag 1 true else s.raise .xbarDev cROUTE_REFUSED

/-- The port groups of the tiles that run. -/
def State.bootGroups (s : State) : List Blk :=
  ((upTo 256).filter fun g => s.st (.swt (g / 8)) != .off).map .grp

/-- Instar 3 (R394): the boot profile, the port groups, the boot route image. -/
def State.instar3 (s : State) : State :=
  let s := s.applyProfile
  let s := s.enablePages s.bootGroups
  let s := if s.profile.route.isEmpty then s else s.bootRoutes s.profile.route
  s.setDone 4

/-- INSTAR_3 (R394). -/
def execInstar3 (s : State) : Answer := State.done (if s.bootAt 3 then s.instar3 else s)

/-- Every page but lanes and port groups has left TRAINING (R394). -/
def State.bootReady (s : State) : Bool :=
  Blk.dev.subtree.all fun b => match b with
    | .lane _ _ | .grp _ => true
    | b => s.st b != .training

/-- ECLOSION (R394): the part enters Imago and sets flag ECLOSED. -/
def execEclosion (ms : BitVec 16) (s : State) : Answer :=
  State.done (if s.boot.done = 4 ∧ s.bootReady then
    (((((s.p .pwr PWR_BOOT_instar 4).p .pwr PWR_BOOT_eclosion_ms ms.toNat).sysFlag 0 true).powerNotice 4).setDone 5).noBoot
  else s)

/-- The Thorax starts again on its other slot. -/
def State.thxRetry (s : State) : State :=
  let s := s.fellBack.runSlot .thx (1 - s.g .thx THX_FW_SLOTS_running)
  { s with boot := { s.boot with thxRetries := 1 } }

/-- THORAX_BOOT_TIMEOUT (R395): the Thorax restarts once on its other slot; a second miss is recovery mode. -/
def execThoraxBootTimeout (s : State) : Answer :=
  State.done (if s.bootAt 1 then
    if s.boot.thxRetries = 0 then s.thxRetry else s.enterRecovery 4 0
  else s)

/-! ## Power states (R399 to R401) -/

/-- The states of PWR_STATE. -/
def State.pwrState (s : State) : Nat := s.g .pwr PWR_STATE_state

/-- The pages of the array and vector dies (R400). -/
def gatedPupa : List Blk :=
  (upTo 16).flatMap (fun a => [.mac a, .stwA a]) ++ (upTo 16).flatMap fun n => [.vec n, .rdx n, .stwV n]

/-- The pages of the switch tiles and the SerDes dies (R401). -/
def gatedDiapause : List Blk :=
  (upTo 32).flatMap (fun t => [.swt t, .att t, .xbarT t, .stwT t]) ++ (upTo 256).map .grp ++
    (upTo 16).flatMap fun k => [Blk.die k, .stwL k] ++ (upTo 68).map (.lane k)

/-- Pages gated, or powered again (R41). -/
def State.gate (s : State) (bs : List Blk) (off : Bool) : State := bs.foldl (fun s b => s.p b STATE_unpowered (b2n off)) s

/-- No Gang list runs and no reduction context runs or drains (R399). -/
def State.mayGate (s : State) : Bool := !s.gangRunning && !s.rdxBusy

/-- The transition to a power state begins: its end is a step of its own. -/
def State.startMove (s : State) (target : Nat) : State :=
  { (s.p .pwr PWR_STATE_busy 1).setBusy .pwr PWR_CMD_STATUS_code.off with
    jobs := s.jobs ++ [⟨.powerMove, Blk.pwr.page, 0, .ok, target, 0, 0⟩] }

/-- Entry to Pupa (R400): the array and vector dies are gated and flag IN_PUPA set. -/
def State.enterPupa (s : State) : State := (s.gate gatedPupa true).sysFlag 2 true

/-- The length in bytes of the route image at an address, as its header gives it (R177). -/
def State.routeLen (s : State) (fn : Nat) (host : Bool) (a : Nat) : Nat := rLength (s.readBuf fn host 0 a rHeader)

/-- The route image for the boot profile lies where the writer may read it (R365). -/
def State.profileMay (s : State) (m : Nat) : Bool :=
  let a := s.g .pwr PWR_CMD_ADDR_addr
  let h := s.gb .pwr PWR_CMD_ADDR_host
  s.imageMay m h a rHeader && s.imageMay m h a (s.routeLen (masterFn (mst m)) h a)

/-- The registers that a boot profile captures (R391). -/
def profileReg (k : Nat) : Bool :=
  match blkOf false (k / 0x2000) with
  | some (.grp _) | some (.bse _) => k % 0x2000 == 0x100
  | some .xbarDev => k % 0x2000 == 0x100 || k % 0x2000 == 0x128 || (0x180 ≤ k % 0x2000 && k % 0x2000 < 0x280)
  | _ => false

/-- The table words that a boot profile captures (R391). -/
def profileTab (k : Nat) : Bool :=
  match Tbl.ofCode (k / 2 ^ 40) with
  | some .chrPart => k % 2 ^ 12 == 2
  | some .bseIn | some .bseEg | some .swtPort | some .swtPortVc | some .swtDscp | some .synXlate => true
  | _ => false

/-- SAVE_PROFILE (R406): the boot profile captured, for the slot that is not committed. -/
def State.captureProfile (s : State) (m : Nat) : State :=
  let a := s.g .pwr PWR_CMD_ADDR_addr
  let h := s.gb .pwr PWR_CMD_ADDR_host
  let fn := masterFn (mst m)
  let route := if a = 0 then [] else s.readBuf fn h 0 a (s.routeLen fn h a)
  let pr : Profile := ⟨s.regs.filter fun e => profileReg e.1, s.tabs.filter fun e => profileTab e.1, route, s.mram.repairs⟩
  let s : State := { s with mram := if s.mram.cfgCommitted = 0 then { s.mram with cfgB := some pr } else { s.mram with cfgA := some pr } }
  { (s.p .pwr PWR_STATE_busy 1).setBusy .pwr PWR_CMD_STATUS_code.off with
    jobs := s.jobs ++ [⟨.saveProfile, Blk.pwr.page, 0, .ok, 0, 0, m⟩] }

/-- A power command in a state (R399): its start and its code. -/
def State.pwrRun (s : State) (m op : Nat) : Code × State :=
  match op, s.pwrState with
  | 1, 0 => if s.mayGate then (.ok, s.enterPupa.startMove 1) else (.refusedState, s)
  | 2, 0 =>
    if s.mayGate then (.ok, { s.enterPupa.startMove 2 with boot := { s.boot with diapause := 1 } }) else (.refusedState, s)
  | 2, 1 => if s.mayGate then (.ok, { s.startMove 2 with boot := { s.boot with diapause := 1 } }) else (.refusedState, s)
  | 3, 1 => (.ok, ((s.gate gatedPupa false).sysFlag 2 false).startMove 0)
  | 3, 2 =>
    let s := ((s.gate gatedPupa false).gate gatedDiapause false).sysFlag 2 false
    let s : State := { s with boot := { s.boot with diapause := 0 } }
    let s := (upTo 16).foldl (fun s h => (s.alignXing (.hbm h) 0).alignXing (.hbm h) 1) s
    (.ok, ((upTo 256).foldl State.wakeGroup s).startMove 0)
  | 4, _ =>
    if s.g .pwr PWR_CMD_ADDR_addr ≠ 0 ∧ !s.profileMay m then (.denied, s.memDenied)
    else if 768 * 2 ^ 10 < s.routeLen (masterFn (mst m)) (s.gb .pwr PWR_CMD_ADDR_host) (s.g .pwr PWR_CMD_ADDR_addr)
        ∧ s.g .pwr PWR_CMD_ADDR_addr ≠ 0 then (.badArg, s)
    else (.ok, s.captureProfile m)
  | _, _ => (.refusedState, s)

/-- The command of PWR_CMD, taken or refused with its code. -/
def State.pwrTake (s : State) (m v : Nat) (b : Blk) : Code × State :=
  let off := PWR_CMD_op.off
  if s.gb b PWR_STATE_busy then (.refusedState, s.refuse m b off .refusedState)
  else if bits v 0 3 = 0 ∨ 4 < bits v 0 3 then (.badArg, s.refuseOp m b off PWR_CMD_STATUS_code.off)
  else
    let (c, s) := s.pwrRun m (bits v 0 3)
    if c.refuses then (c, (s.refuse m b off c).finish b PWR_CMD_STATUS_code.off c) else (c, s)

/-- A write of PWR_CMD. -/
def State.pwrCommand (s : State) (m v : Nat) : State :=
  s.onWrite m Blk.pwr.page PWR_CMD_op.off fun b => (s.pwrTake m v b).2

/-- PUPA (R400). -/
def execPupa (m : Mst) (v : Word) (s : State) : Answer := (s.pwrCommand m.toNat v.toNat).done

/-- DIAPAUSE (R401). -/
def execDiapause (m : Mst) (v : Word) (s : State) : Answer := (s.pwrCommand m.toNat v.toNat).done

/-- WAKE (R399, R401). -/
def execWake (m : Mst) (v : Word) (s : State) : Answer := (s.pwrCommand m.toNat v.toNat).done

/-- SAVE_PROFILE (R406). -/
def execSaveProfile (m : Mst) (v : Word) (s : State) : Answer := (s.pwrCommand m.toNat v.toNat).done

/-- Every frame that the part still holds is discarded, those of ports in SWT_DROP_DOWN (R401 step 4, R146). -/
def State.dropAllFrames (s : State) : State := (upTo 32).foldl State.dropTile s

/-- How far Diapause has come: 1 while it drains, 2 once it sleeps. -/
def State.setDiapause (s : State) (n : Nat) : State := { s with boot := { s.boot with diapause := n } }

/-- Every port OFF. -/
def State.portsOff (s : State) : State :=
  (upTo 1024).foldl (fun s p => if s.portExists p ∧ s.stage p ≠ 0 then s.moveStage p 0 else s) s

/-- DIAPAUSE_DRAIN_END (R401 steps 4 to 6): remaining frames discarded, ports OFF, HBM in self-refresh, tiles and
SerDes dies gated. -/
def execDiapauseDrainEnd (s : State) : Answer :=
  State.done (if s.boot.diapause = 1 then (s.dropAllFrames.portsOff.gate gatedDiapause true).setDiapause 2 else s)

/-- A power state reached: PWR_STATE changes and busy clears. -/
def State.endMove (s : State) (target : Nat) : State :=
  let s := s.dropJob .powerMove Blk.pwr.page 0
  let s := (s.p .pwr PWR_STATE_state target).p .pwr PWR_STATE_busy 0
  (s.finish .pwr PWR_CMD_STATUS_code.off .ok).powerNotice 3

/-- POWER_TRANSITION_DONE (R399). -/
def execPowerTransitionDone (s : State) : Answer :=
  State.done (match s.job .powerMove Blk.pwr.page 0 with
    | none => s
    | some j => if j.a = 2 ∧ s.boot.diapause ≠ 2 then s else s.endMove j.a)

/-- A configuration image with the repairs recorded so far. -/
def State.withRepairs (s : State) (pr : Option Profile) : Option Profile := pr.map fun q => { q with repairs := s.mram.repairs }

/-- The captured configuration image is the committed one, with the digest of its signed form; it holds the repairs
recorded meanwhile (R406). -/
def State.commitProfile (s : State) : State :=
  let (d, s) := s.drawWide 8
  let m := if s.mram.cfgCommitted = 0 then { s.mram with cfgCommitted := 1, cfgDigestB := d, cfgB := s.withRepairs s.mram.cfgB }
    else { s.mram with cfgCommitted := 0, cfgDigestA := d, cfgA := s.withRepairs s.mram.cfgA }
  { s with mram := m, boot := { s.boot with cfgSlot := m.cfgCommitted } }

/-- SAVE_PROFILE_DONE (R406): the new image is committed, or the committed one stays and CFG_WRITE_FAIL tells. -/
def execSaveProfileDone (ok : Bool) (s : State) : Answer :=
  State.done (match s.job .saveProfile Blk.pwr.page 0 with
    | none => s
    | some _ =>
      let s := (s.dropJob .saveProfile Blk.pwr.page 0).p .pwr PWR_STATE_busy 0
      if ok then s.commitProfile.finish .pwr PWR_CMD_STATUS_code.off .ok
      else (s.finish .pwr PWR_CMD_STATUS_code.off .integrity).raise .pwr cCFG_WRITE_FAIL)

/-! ## The governor and heat (R402, R403, R458) -/

/-- The package power that the held PMBus readings give, in watts: volts times amperes of each valid entry (R402). -/
def State.pmbusWatts (s : State) : Nat :=
  (upTo 16).foldl (fun w i =>
    if s.tb .pmb 0 i pmb_valid then w + s.t .pmb 0 i pmb_mv * s.t .pmb 0 i pmb_last_ma / 10000 else w) 0

/-- The steps of one governor loop for a package power `p` (R402). -/
def State.govern (s : State) (p hottest : Nat) : State :=
  let c := s.g .pwr PWR_VNOW_vcore_c_mv
  let sv := s.g .pwr PWR_VNOW_vcore_s_mv
  let cap := s.g .pwr PWR_CAP_watts
  if s.g .pwr PWR_THERM_throttle_c ≤ hottest then
    let s := s.inc .pwr PWR_THROTTLE_count
    if 660 < c then (s.setRail true (max 660 (c - 10))).inc .pwr PWR_GOV_DOWN_count
    else (s.raise .pwr cTHERMAL_HOT).hotNotice
  else if cap < p then
    if 660 < c then
      (s.setRail true (max 660 (c - 10 * min 5 ((p - cap + 49) / 50)))).inc .pwr PWR_GOV_DOWN_count
    else if 700 < sv then (s.setRail false (max 700 (sv - 10))).inc .pwr PWR_GOV_DOWN_count
    else s.raise .pwr cGOV_FLOOR
  else if p + s.g .pwr PWR_CAP_hyst < cap then
    if sv < s.g .pwr PWR_VSET_vcore_s_mv then
      (s.setRail false (min (sv + 10) (s.g .pwr PWR_VSET_vcore_s_mv))).inc .pwr PWR_GOV_UP_count
    else if c < s.g .pwr PWR_VSET_vcore_c_mv then
      (s.setRail true (min (c + 10) (s.g .pwr PWR_VSET_vcore_c_mv))).inc .pwr PWR_GOV_UP_count
    else s
  else s

/-- A regulator that does not answer in three loops running raises AVS_FAIL, once until it answers (R458). -/
def State.avsCheck (s : State) (r : GovReading) : State :=
  let n := if r.answeredC then 0 else s.boot.avsMiss.1 + 1
  let k := if r.answeredS then 0 else s.boot.avsMiss.2 + 1
  let s : State := { s with boot := { s.boot with avsMiss := (n, k) } }
  if n = 3 ∨ k = 3 then s.raise .pwr cAVS_FAIL else s

/-- The package power of a loop: the cores as AVSBus tells them, and the other rails. -/
def State.loopWatts (s : State) (r : GovReading) : Nat := r.wattsC.toNat + r.wattsS.toNat + s.pmbusWatts

/-- The readings of a loop shown: the power, its mean over 20 loops, and the hottest die. -/
def State.showLoop (s : State) (r : GovReading) (p : Nat) : State :=
  let loops := (p :: s.boot.loopPower).take 20
  let s : State := { s with boot := { s.boot with loopPower := loops } }
  let s := (s.p .pwr PWR_POWER_loop_w p).p .pwr PWR_POWER_window_w (loops.foldl (· + ·) 0 / loops.length)
  (s.p .pwr PWR_THERM_hottest_c r.hottest.toNat).p .pwr PWR_THERM_hottest_die r.hottestDie.toNat

/-- GOVERNOR_LOOP (R402). -/
def execGovernorLoop (r : GovReading) (s : State) : Answer :=
  (((s.showLoop r (s.loopWatts r)).avsCheck r).govern (s.loopWatts r) r.hottest.toNat).done

/-- THERMTRIP_N falls. -/
def State.trip (s : State) : State := { s with pins := { s.pins with thermtripN := false } }

/-- THERMAL_TRIP (R403): a sensor at or above trip_c. -/
def execThermalTrip (die : Byte) (temp : Byte) (s : State) : Answer :=
  State.done (if s.g .pwr PWR_THERM_trip_c ≤ temp.toNat then
    ((s.p .pwr PWR_THERM_hottest_c temp.toNat).p .pwr PWR_THERM_hottest_die die.toNat).trip.raise .pwr cTHERMAL_TRIP
  else s)

/-! ## HBM repair (R405) -/

/-- A write of HBM_CMD: REPAIR of the row at HBM_CMD_ADDR. -/
def State.hbmCommand (s : State) (m pg v : Nat) : State :=
  match s.blk pg with
  | some (.hbm h) =>
    s.onWrite m pg HBM_CMD_op.off fun b =>
      let off := HBM_CMD_op.off
      let st := HBM_CMD_STATUS_code.off
      let a := s.g b HBM_CMD_ADDR_addr
      if bit (s.reg b st) 8 then s.refuse m b off .refusedState
      else if bits v 0 2 ≠ 1 ∨ 36 * 10 ^ 9 ≤ a then (s.refuse m b off .badArg).finish b st .badArg
      else if 256 ≤ s.g b HBM_REPAIRS_rows then
        ((s.refuse m b off .noResource).finish b st .noResource).raise b cHBM_REPAIR_EXHAUSTED
      else (s.setBusy b st).addJob ⟨.hbmRepair, b.page, st, .ok, h, a, m⟩
  | _ => s

/-- HBM_CMD REPAIR (R405). -/
def execRepair (m : Mst) (pg : Pg) (v : Word) (s : State) : Answer := (s.hbmCommand m.toNat pg.toNat v.toNat).done

/-- A row joins the repair list of the device section, and the configuration image in force is signed again with it: its
digest is another. -/
def State.addRepair (s : State) (h a : Nat) : State :=
  let s : State := { s with mram := { s.mram with repairs := s.mram.repairs ++ [(h, a)] } }
  let (d, s) := s.drawWide 8
  { s with mram := if s.boot.cfgSlot = 0 then { s.mram with cfgA := s.withRepairs s.mram.cfgA, cfgDigestA := d }
    else { s.mram with cfgB := s.withRepairs s.mram.cfgB, cfgDigestB := d } }

/-- The first address of a stack in HBM: two stacks of 36 GB on each base die, whose HBM starts at 72 GB times its number
(R365, assumption 186). -/
def stackBase (h : Nat) : Nat := h * 36 * 10 ^ 9

/-- A repair inside a region that did not verify as zero: the Chrysalis zeroes it again (R405). -/
def State.eraseAgain (s : State) (h a : Nat) : State :=
  { s with sec := { s.sec with unzeroed := s.sec.unzeroed.filter fun r =>
    !(s.t .chrRegion 0 r chrRegion_space == 0 && decide (s.t .chrRegion 0 r chrRegion_base ≤ stackBase h + a) &&
      decide (stackBase h + a < s.t .chrRegion 0 r chrRegion_base + s.t .chrRegion 0 r chrRegion_length)) } }

/-- HBM_REPAIR_DONE (R405): the row joins the repair list and the configuration image is signed again, or the stack has
no repair left for the bank. -/
def execHbmRepairDone (pg : Pg) (ok : Bool) (s : State) : Answer :=
  State.done (match s.blk pg.toNat with
    | some (.hbm h) =>
      let b := Blk.hbm h
      let st := HBM_CMD_STATUS_code.off
      match s.job .hbmRepair b.page st with
      | none => s
      | some j =>
        let s := s.dropJob .hbmRepair b.page st
        if ok then (((s.addRepair j.a j.b).eraseAgain j.a j.b).inc b HBM_REPAIRS_rows).finish b st .ok
        else ((s.refuse j.asker b HBM_CMD_op.off .noResource).finish b st .noResource).raise b cHBM_REPAIR_EXHAUSTED
    | _ => s)

/-! ## PMBus (R459) -/

/-- One entry of the regulator map takes a reading: millivolts above 16 bits of tenths of an ampere, or no answer. The
third miss running raises PMBUS_FAIL, and imax stands in for the reading. -/
def State.pmbusRead (s : State) (i : Nat) (r : Option (BitVec 32)) : State :=
  if !s.tb .pmb 0 i pmb_valid then s else
  let s := s.emit (.pmbus i) 0 [s.t .pmb 0 i pmb_page] []
  match r with
  | some w =>
    ((s.pt .pmb 0 i pmb_last_ma (w.toNat % 2 ^ 16)).pt .pmb 0 i pmb_mv (w.toNat / 2 ^ 16)).pt .pmb 0 i pmb_misses 0
  | none =>
    let n := min 3 (s.t .pmb 0 i pmb_misses + 1)
    let was := s.t .pmb 0 i pmb_misses
    let s := s.pt .pmb 0 i pmb_misses n
    if n = 3 then
      let s := s.pt .pmb 0 i pmb_last_ma (s.t .pmb 0 i pmb_imax)
      if was = 3 then s else s.raise .thx cPMBUS_FAIL
    else s

/-- PMBUS_POLL (R459). -/
def execPmbusPoll (reads : List (Option (BitVec 32))) (s : State) : Answer :=
  State.done ((upTo 16).foldl (fun s i => s.pmbusRead i (reads.getD i none)) s)

/-- STATUS_WORD of every valid entry asked for. -/
def State.pmbStatus (s : State) : State :=
  (upTo 16).foldl (fun s i => if s.tb .pmb 0 i pmb_valid then s.emit (.pmbus i) 1 [] [] else s) s

/-- A valid entry shows a fault bit. -/
def State.pmbFault (s : State) (bad : Nat) : Bool := (upTo 16).any fun i => s.tb .pmb 0 i pmb_valid && bit bad i

/-- PMB_ALERT (R459): STATUS_WORD of every valid entry is read; a fault bit raises PMBUS_FAIL. -/
def execPmbAlert (bad : BitVec 16) (s : State) : Answer :=
  State.done (if s.pmbFault bad.toNat then s.pmbStatus.raise .thx cPMBUS_FAIL else s.pmbStatus)

end Sys2Proof.Machine
end

