-- ==== Sys2Proof/Machine/Cocoon.lean ====
section
/-! DEFINITION. The Cocoon meter (chapter 17): samples, activity, periods, records, signed readings, its log, its
update path and its port. -/

namespace Sys2Proof.Machine

/-- The Cocoon's state replaced. -/
def State.setCcn (s : State) (c : CcnSt) : State := { s with ccn := c }

/-- The Cocoon runs: VMTR is up. -/
def State.ccnUp (s : State) : Bool := s.ccn.vmtr

/-- A log entry of 32 bytes: its kind, the period and 24 bytes of data; the oldest of 1,024 is overwritten (R437). -/
def CcnSt.logEntry (c : CcnSt) (kind : Nat) (data : List Byte) : CcnSt :=
  let e := fit 32 (leBytes 1 kind ++ leBytes 7 c.period ++ data)
  { c with log := (c.log ++ [e]).drop (c.log.length + 1 - 1024) }

/-! ## Measuring (R423 to R426) -/

/-- A sample added to the open period. -/
def CcnSt.sampled (c : CcnSt) (pj : List (BitVec 32)) (beyond : Nat) : CcnSt :=
  { c with joules := (c.joules.zip (upTo 6)).map fun e => e.1 + (pj.getD e.2 0).toNat
           beyond := (c.beyond.zip (upTo 6)).map fun e => if bit beyond e.2 then e.1 + 1 else e.1 }

/-- A domain's sense readings pass 1,000 µs out of range. -/
def CcnSt.senseFails (c c' : CcnSt) : Bool := (c.beyond.zip c'.beyond).any fun e => decide (e.1 ≤ 1000 ∧ 1000 < e.2)

/-- METER_SAMPLE (R423, R428): one sample of each domain's V × I, in picojoules for its microsecond, is added to the
open period; `over` names the domains whose sense readings are out of range, each counted in microseconds. -/
def execMeterSample (pj : List (BitVec 32)) (beyond : BitVec 6) (s : State) : Answer :=
  State.done (if s.ccnUp then
    let c := s.ccn.sampled pj beyond.toNat
    if s.ccn.senseFails c then (s.setCcn c).raise .ccn cMTR_SENSE_FAIL else s.setCcn c
  else s)

/-- A bucket with the activity of a domain raised: D0 array steps, D1 vector units, D2 port bytes, D4 HBM bytes. The
bytes of D2 serve D3 too (R423). -/
def Bucket.act (b : Bucket) (dom n : Nat) : Bucket :=
  match dom with
  | 0 => { b with array := b.array + n }
  | 1 => { b with vector := b.vector + n }
  | 2 => { b with port := b.port + n }
  | 4 => { b with hbm := b.hbm + n }
  | _ => b

/-- The activity that apportions a domain (R423). -/
def Bucket.weight (b : Bucket) (dom : Nat) : Nat :=
  match dom with
  | 0 => b.array
  | 1 => b.vector
  | 2 | 3 => b.port
  | 4 => b.hbm
  | _ => 0

/-- A list with one element replaced by its image. -/
def mapAt {α : Type} (l : List α) (i : Nat) (f : α → α) : List α :=
  (l.zip (upTo l.length)).map fun e => if e.2 = i then f e.1 else e.1

/-- The bucket of a report: its partition's, or 16 where it carries none or names one that is FREE. -/
def CcnSt.bucketOf (c : CcnSt) (tag : Nat) : Nat :=
  if tag / 16 = 1 ∧ (c.open_.getD (tag % 16) Bucket.zero).active then tag % 16 else 16

/-- A report counted. -/
def CcnSt.reported (c : CcnSt) (dom tag count : Nat) : CcnSt :=
  { c with open_ := mapAt c.open_ (c.bucketOf tag) fun b => b.act dom count }

/-- ACTIVITY_REPORT (R425). -/
def execActivityReport (dom : BitVec 3) (tag : BitVec 5) (count : BitVec 32) (s : State) : Answer :=
  .next (if s.ccnUp then s.setCcn (s.ccn.reported dom.toNat tag.toNat count.toNat) else s)

/-- A partition's work at this moment: the totals with what the open period has counted (R426). -/
def CcnSt.workNow (c : CcnSt) (p : Nat) (f : Bucket → Nat) : Nat :=
  f (c.totals.getD p Bucket.zero) + f (c.open_.getD p Bucket.zero)

/-- A tenancy begins or ends: a log entry with the partition's cumulative energy, which counts closed periods, and work, then
the new count in its bucket (assumption 189). -/
def CcnSt.tenancy (c : CcnSt) (p : Nat) (isCreate : Bool) (count : Nat) : CcnSt :=
  let c := c.logEntry (if isCreate then 6 else 7) (leBytes 1 p ++ leBytes 8 (c.totals.getD p Bucket.zero).energy
    ++ leBytes 7 (c.workNow p (·.array)) ++ leBytes 8 (c.workNow p fun b => b.vector + b.port + b.hbm))
  let put := fun b : Bucket => { b with createCount := count, active := isCreate, changed := true }
  { c with open_ := mapAt c.open_ p put, totals := mapAt c.totals p put }

/-- TENANCY_EVENT (R425, R426). -/
def execTenancyEvent (p : PartNo) (isCreate : Bool) (createCount : BitVec 32) (s : State) : Answer :=
  .next (if s.ccnUp then s.setCcn (s.ccn.tenancy p.toNat isCreate createCount.toNat) else s)

/-! ## Periods and records (R424, R427 to R430) -/

/-- A bucket entry (R429). -/
def Bucket.bytes (b : Bucket) (i : Nat) : List Byte :=
  leBytes 8 b.energy ++ leBytes 8 b.array ++ leBytes 8 b.vector ++ leBytes 8 b.port ++ leBytes 8 b.hbm
    ++ leBytes 4 (if i = 16 then 0 else b.createCount) ++ leBytes 4 (b2n b.active + 2 * b2n b.changed)
    ++ List.replicate 16 0

/-- One domain's energy apportioned to the 17 buckets (R424). -/
def apportion (e : Nat) (ws : List Nat) : List Nat :=
  let a := ws.foldl (· + ·) 0
  let shares := (ws.take 16).map fun w => if a = 0 then 0 else e * w / a
  shares ++ [e - shares.foldl (· + ·) 0]

/-- The energy of each domain in whole millijoules: the samples are in picojoules. -/
def CcnSt.mj (c : CcnSt) : List Nat := c.joules.map (· / 10 ^ 9)

/-- The buckets of the open period with the domains' energy apportioned; D5 is the operator's (R423, R429). -/
def CcnSt.billed (c : CcnSt) : List Bucket :=
  let es := c.mj
  let shares := (upTo 5).map fun d => apportion (es.getD d 0) (c.open_.map (·.weight d))
  (c.open_.zip (upTo 17)).map fun b =>
    { b.1 with energy := (shares.map fun l => l.getD b.2 0).foldl (· + ·) 0 + (if b.2 = 16 then es.getD 5 0 else 0) }

/-- The flags of a record (R430): clock_fallback, gap, vmtr_only, over_range. -/
def CcnSt.flags (c : CcnSt) (restsOnly : Bool) : Nat :=
  b2n (!c.crystal) + 2 * b2n c.lost.isSome + 4 * b2n restsOnly + 8 * b2n (c.beyond.any (1000 < ·))

/-- A period record (R430). -/
def CcnSt.record (c : CcnSt) (flags : Nat) : List Byte :=
  leBytes 4 0x434D524E ++ leBytes 2 1 ++ leBytes 2 flags ++ leBytes 8 c.period ++ leBytes 4 c.updateCount ++ leBytes 4 0
    ++ (c.mj.flatMap fun e => leBytes 8 e) ++ List.replicate 56 0
    ++ ((c.billed.zip (upTo 17)).flatMap fun b => b.1.bytes b.2)

/-- Totals after a period: energy and work added, the tenancy marks as they stand. -/
def sumBuckets (t b : Bucket) : Bucket :=
  ⟨t.energy + b.energy, t.array + b.array, t.vector + b.vector, t.port + b.port, t.hbm + b.hbm, b.createCount, b.active,
    b.changed⟩

/-- A running image changes (R435): the count rises and the log says so. -/
def CcnSt.changeImage (c : CcnSt) (slot : Nat) : CcnSt :=
  let dig := fun i => leBytes 11 ((c.images.getD i ⟨0, 0, 0, false⟩).digest)
  let c' := { c with updateCount := (c.updateCount + 1) % 2 ^ 32, slot := slot }
  c'.logEntry 1 (dig c.slot ++ dig slot)

/-- The open period starts again, tenancies carried over. -/
def CcnSt.nextPeriod (c : CcnSt) : CcnSt :=
  { c with joules := List.replicate 6 0, beyond := List.replicate 6 0
           open_ := c.open_.map fun b => { Bucket.zero with createCount := b.createCount, active := b.active } }

/-- The page shows the latest closed period and the running image. -/
def State.showCcn (s : State) : State :=
  let im := s.ccn.images.getD s.ccn.slot ⟨0, 0, 0, false⟩
  (s.setReg .ccn 0x108 (s.ccn.period - 1)).setWide .ccn CCN_IMG_DIGEST_digest.off 8 im.digest

/-- A staged update starts at the end of a period (R436): the new image runs from the other slot, on trial. -/
def State.activateMtr (s : State) : State :=
  match s.ccn.staged with
  | none => s
  | some im =>
    let c := s.ccn
    let c := { c with images := mapAt c.images (1 - c.slot) fun _ => im, staged := none, updOpen := false, trial := true }
    (s.setCcn (c.changeImage (1 - c.slot))).raise .ccn cMTR_IMAGE_CHANGE

/-- The period ends: the energy apportioned, the record into the ring of 1,024, the totals checkpointed. `restsOnly` says
that every rail but VMTR and VAUX was below its range. -/
def CcnSt.closed (c : CcnSt) (restsOnly : Bool) : CcnSt :=
  { c.nextPeriod with
    ring := (c.record (c.flags restsOnly) :: c.ring).take 1024
    totals := (c.totals.zip c.billed).map fun e => sumBuckets e.1 e.2
    totalE := (c.totalE.zip c.mj).map fun e => e.1 + e.2
    lastTotals := c.totals, lastE := c.totalE
    flagsSince := c.flagsSince ||| c.flags restsOnly, lost := none, period := c.period + 1 }

/-- PERIOD_END (R424, R427, R430, R436): the period closes and a staged update starts. -/
def execPeriodEnd (restsOnly : Bool) (s : State) : Answer :=
  State.done (if s.ccnUp then ((s.setCcn (s.ccn.closed restsOnly)).activateMtr).showCcn else s)

/-- The crystal lost, or back, with its log entry. -/
def CcnSt.setCrystal (c : CcnSt) (v : Bool) : CcnSt := { c with crystal := v }.logEntry (if v then 5 else 4) []

/-- CLOCK_FALLBACK (R427). -/
def execClockFallback (s : State) : Answer :=
  State.done (if s.ccnUp ∧ s.ccn.crystal then
    (s.setCcn (s.ccn.setCrystal false)).raise .ccn cMTR_CLOCK_FALLBACK
  else s)

/-- CLOCK_RESTORED (R427). -/
def execClockRestored (s : State) : Answer :=
  .next (if s.ccnUp ∧ !s.ccn.crystal then s.setCcn (s.ccn.setCrystal true) else s)

/-- VMTR lost: the ring and the open period are lost. -/
def CcnSt.powerLost (c : CcnSt) : CcnSt :=
  { c.nextPeriod with vmtr := false, ring := [], nonces := [], updOpen := false, staged := none, lost := some c.period }

/-- VMTR_LOSS (R431). -/
def execVmtrLoss (s : State) : Answer := .next (if s.ccnUp then s.setCcn s.ccn.powerLost else s)

/-- VMTR back: the Cocoon resumes from its checkpoint and logs the first lost period, whose number no later period
takes. -/
def CcnSt.resumed (c : CcnSt) : CcnSt :=
  let p := c.lost.getD c.period
  { ({ c with vmtr := true }.logEntry 3 (leBytes 8 p)) with lost := some p, period := p + 1 }

/-- The checkpoint before the latest one stands again. -/
def CcnSt.olderTotals (c : CcnSt) : CcnSt := { c with totals := c.lastTotals, totalE := c.lastE }

/-- VMTR_RETURN (R431, R440): where the checkpoint is unreadable the Cocoon resumes from the one before. -/
def execVmtrReturn (mramBad : Bool) (s : State) : Answer :=
  State.done (if s.ccnUp then s else
    let s := (s.setCcn s.ccn.resumed).raise .ccn cMTR_VMTR_GAP
    if mramBad then (s.setCcn s.ccn.olderTotals).raise .ccn cMTR_MRAM_UNCORR else s)

/-! ## Signed readings (R432, R433, R438) -/

/-- A signed reading for a nonce (R432). -/
def State.signedReading (s : State) (nonce : List Byte) : List Byte :=
  let c := s.ccn
  let im := c.images.getD c.slot ⟨0, 0, 0, false⟩
  let body := leBytes 4 0x524D524E ++ leBytes 2 1 ++ leBytes 2 0 ++ leBytes 8 s.serial ++ leBytes 8 (c.period - 1)
    ++ leBytes 4 c.updateCount ++ leBytes 4 c.flagsSince ++ fit 64 nonce ++ leBytes 64 im.digest ++ leBytes 2 im.rev
    ++ leBytes 6 0 ++ (c.totalE.flatMap fun e => leBytes 8 e) ++ List.replicate 40 0
    ++ ((c.totals.zip (upTo 17)).flatMap fun b => b.1.bytes b.2)
  body ++ fit 132 (Config.ecdsaSign Config.mtrKey (shaNat body)) ++ List.replicate 12 0

/-- A response of the Cocoon port: its code, then its data (R437). -/
def State.metro (s : State) (c : Code) (data : List Byte) : State := s.emit .metro 0 [c.val] (leBytes 1 c.val ++ data)

/-- A request queued, its nonce in 64 bytes. -/
def CcnSt.queueNonce (c : CcnSt) (n : List Byte) : CcnSt := { c with nonces := c.nonces ++ [fit 64 n] }

/-- READ_SIGNED (R437): requests queue behind the one that is served; the fifth that would wait is turned away with
NOT_READY (assumption 188). -/
def execReadSigned (nonce : List Byte) (s : State) : Answer :=
  .next (if !s.ccnUp then s
    else if 5 ≤ s.ccn.nonces.length then s.metro .notReady []
    else s.setCcn (s.ccn.queueNonce nonce))

/-- The page waits for a reading. -/
def CcnSt.askPage (c : CcnSt) : CcnSt := { c with reqPage := true }

/-- CCN_REQ (R438): a signed reading for the nonce in CCN_NONCE, into table 3. -/
def State.writeCcnReq (s : State) (m v : Nat) : State :=
  s.onWrite m Blk.ccn.page CCN_REQ_sign.off fun b =>
    if bits v 0 1 = 0 then s
    else if bit (s.reg b CCN_REQ_STATUS_code.off) 8 then s.refuse m b CCN_REQ_sign.off .refusedState
    else (s.setBusy b CCN_REQ_STATUS_code.off).setCcn s.ccn.askPage

/-- CCN_REQ (R438). -/
def execCcnReq (m : Mst) (v : Word) (s : State) : Answer := (s.writeCcnReq m.toNat v.toNat).done

/-- The nonce that the page's registers hold; they are written and never read back. -/
def State.pageNonce (s : State) : List Byte := leBytes 64 (s.wide .ccn CCN_NONCE_nonce.off 8)

/-- The port's oldest request is answered. -/
def CcnSt.answered (c : CcnSt) (rest : List (List Byte)) : CcnSt := { c with nonces := rest, flagsSince := 0 }

/-- The page's request is answered with a reading. -/
def CcnSt.signedPage (c : CcnSt) (r : List Byte) : CcnSt := { c with reqPage := false, signed := r, flagsSince := 0 }

/-- SIGNED_READING_DONE (R432): the oldest waiting request of the port is answered, or else the page's. -/
def execSignedReadingDone (s : State) : Answer :=
  .next (if !s.ccnUp then s else
    match s.ccn.nonces with
    | n :: rest => (s.setCcn (s.ccn.answered rest)).metro .ok (s.signedReading n)
    | [] =>
      if s.ccn.reqPage then
        (s.setCcn (s.ccn.signedPage (s.signedReading s.pageNonce))).finish .ccn CCN_REQ_STATUS_code.off .ok
      else s)

/-! ## The port (R437) -/

/-- What IDENT answers: serial, revision, image digest, update count, and the last closed period. -/
def State.identBytes (s : State) : List Byte :=
  let c := s.ccn
  let im := c.images.getD c.slot ⟨0, 0, 0, false⟩
  leBytes 8 s.serial ++ leBytes 2 im.rev ++ leBytes 64 im.digest ++ leBytes 4 c.updateCount ++ leBytes 8 (c.period - 1)

/-- IDENT (R437). -/
def execIdent (s : State) : Answer := .next (if !s.ccnUp then s else s.metro .ok s.identBytes)

/-- READ_RECORD (R437): a record not yet in the ring answers NOT_READY. -/
def execReadRecord (index : BitVec 10) (s : State) : Answer :=
  .next (if !s.ccnUp then s else
    match s.ccn.ring[index.toNat]? with
    | none => s.metro .notReady []
    | some r => s.metro .ok r)

/-- READ_LOG (R437): an index beyond the log answers BAD_ARG. -/
def execReadLog (index : BitVec 16) (s : State) : Answer :=
  .next (if !s.ccnUp then s else
    match s.ccn.log[index.toNat]? with
    | none => s.metro .badArg []
    | some e => s.metro .ok e)

/-- Bytes of the metrology certificate: the part's own (R433). -/
def mtrCert (offset n : Nat) : List Byte := (upTo n).map fun i => Config.mtrCert (offset + i)

/-- READ_CERT (R437). -/
def execReadCert (offset : BitVec 16) (s : State) : Answer :=
  .next (if !s.ccnUp then s else s.metro .ok (mtrCert offset.toNat 256))

/-! ## Updates (R434 to R436) -/

/-- A refused update: logged, and update_count unchanged (R435). -/
def State.refuseUpdate (s : State) : State :=
  (s.setCcn ({ s.ccn with updOpen := false, staged := none }.logEntry 2 [])).raise .ccn cMTR_UPDATE_REFUSED

/-- An update opens, its bytes gone. -/
def CcnSt.openUpdate (c : CcnSt) : CcnSt := { c with updOpen := true, updData := [], updTop := 0 }

/-- UPD_BEGIN (R434, R437). -/
def execUpdBegin (s : State) : Answer :=
  State.done (if !s.ccnUp then s
    else if s.pins.mtrUnseal then (s.metro .refusedState []).refuseUpdate
    else (s.setCcn s.ccn.openUpdate).metro .ok [])

/-- Bytes of an update taken. -/
def CcnSt.takeBytes (c : CcnSt) (o : Nat) (bs : List Byte) : CcnSt :=
  { c with updData := memWrites c.updData o bs, updTop := max c.updTop (o + bs.length) }

/-- UPD_DATA (R436). -/
def execUpdData (offset : BitVec 32) (data : List Byte) (s : State) : Answer :=
  .next (if !s.ccnUp then s
    else if !s.ccn.updOpen then s.metro .refusedState []
    else if 256 < data.length ∨ 512 * 1024 < offset.toNat + data.length then s.metro .badArg []
    else (s.setCcn (s.ccn.takeBytes offset.toNat data)).metro .ok [])

/-- The conditions of R434 on an image for the Cocoon. -/
def State.judgeMtr (s : State) (img : List Byte) : Code :=
  let h := img.take 512
  let n := hdrLen h
  if !headerForm h 1 0x11 ∨ n = 0 ∨ 512 * 1024 - 512 < n then .badArg
  else if sha512 (slice 512 n img) ≠ slice 0x20 64 h
    ∨ !Config.ecdsaVerify Config.metrologyKey (shaNat (h.take 0x80)) (slice 0x80 132 h) then .integrity
  else if hdrSvn h < (s.ccn.images.getD s.ccn.slot ⟨0, 0, 0, false⟩).svn then .refusedState
  else .ok

/-- The bytes that an update has brought. -/
def CcnSt.updImage (c : CcnSt) : List Byte := memReads c.updData 0 c.updTop

/-- An image staged for the next period end. -/
def CcnSt.stage (c : CcnSt) (img : List Byte) : CcnSt :=
  { c with updOpen := false, staged := some ⟨hdrRev img, hdrSvn img, imageDigest img, true⟩ }

/-- UPD_END (R434, R436): the new image is checked and staged for the next period end, or the attempt refused. -/
def execUpdEnd (s : State) : Answer :=
  State.done (if !s.ccnUp then s
    else if !s.ccn.updOpen ∨ s.pins.mtrUnseal then s.metro .refusedState []
    else
      let c := s.judgeMtr s.ccn.updImage
      if c = .ok then (s.setCcn (s.ccn.stage s.ccn.updImage)).metro .ok [] else (s.metro c []).refuseUpdate)

/-- The land MTR_UNSEAL high. -/
def State.unseal (s : State) : State := { s with pins := { s.pins with mtrUnseal := true } }

/-- MTR_UNSEAL (R434): the land rises; an update open or staged is refused. -/
def execMtrUnseal (s : State) : Answer :=
  State.done (if s.ccnUp ∧ (s.ccn.updOpen ∨ s.ccn.staged.isSome) then s.unseal.refuseUpdate else s.unseal)

/-- The new image runs on trial no longer. -/
def CcnSt.endTrial (c : CcnSt) : CcnSt := { c with trial := false }

/-- MTR_UPDATE_FALLBACK (R435, R436): the new image is not ready in time; the other slot runs and the count rises. -/
def execMtrUpdateFallback (s : State) : Answer :=
  State.done (if s.ccnUp ∧ s.ccn.trial then
    ((s.setCcn (s.ccn.endTrial.changeImage (1 - s.ccn.slot))).raise .ccn cMTR_IMAGE_CHANGE).showCcn
  else s)

end Sys2Proof.Machine
end

