-- ==== Sys2Proof/Machine/Pools.lean ====
section
/-! DEFINITION. Spill readback and the buffer pools' commands and requests (R144 to R153). -/

namespace Sys2Proof.Machine

/-- The side and account of a readback: index in the low 10 bits, bit 10 set for an egress account. -/
def acctEg (acct : BitVec 12) : Bool := bit acct.toNat 10
def acctIdx (d : BaseNo) (acct : BitVec 12) : Nat × Nat := (d.toNat, bits acct.toNat 0 10)

/-- SPILL_READBACK (R144). -/
def execSpillReadback (d : BaseNo) (acct : BitVec 12) (s : State) : Answer := (s.readback (acctEg acct) (acctIdx d acct)).done

/-- SPILL_READ_DONE (R144, R145). -/
def execSpillReadDone (d : BaseNo) (acct : BitVec 12) (uncorr : Bool) (s : State) : Answer :=
  (s.readDone (acctEg acct) (acctIdx d acct) uncorr).done

/-- A pool command's answer in its status register, with the pool that served. -/
def State.poolFinish (s : State) (m : Nat) (b : Blk) (c : Code) (pool : Option Nat) : State :=
  let old := s.g b POOL_CMD_STATUS_pool
  let s := if c.refuses then s.refuse m b 0x1A0 c else s
  (s.finish b 0x1B0 c).p b POOL_CMD_STATUS_pool (pool.getD old)

/-- A write of POOL_CMD (R149, R152, R154). -/
def State.poolCommand (s : State) (m pg v : Nat) : State :=
  match s.blk pg with
  | some (.pool d) =>
    s.onWrite m pg 0x1A0 fun b =>
      if s.gb b POOL_CMD_STATUS_busy then s.refuse m b 0x1A0 .refusedState
      else if bits v 0 2 = 1 then
        let (c, a, p, s) := s.poolAlloc d (bits v 2 19)
        if c = .ok then (s.p b POOL_CMD_ADDR_addr a).poolFinish m b c (some p) else s.poolFinish m b c none
      else if bits v 0 2 = 2 then
        let r := s.poolRelease d (s.g b POOL_CMD_ADDR_addr)
        r.2.poolFinish m b (if r.1 then .ok else .badArg) none
      else s.poolFinish m b .badArg none
  | _ => s

/-- POOL_CMD ALLOC (R149). -/
def execAlloc (m : Mst) (pg : Pg) (v : Word) (s : State) : Answer := (s.poolCommand m.toNat pg.toNat v.toNat).done

/-- POOL_CMD FREE (R152). -/
def execFree (m : Mst) (pg : Pg) (v : Word) (s : State) : Answer := (s.poolCommand m.toNat pg.toNat v.toNat).done

/-- A hardware requester's allocation: the manager answers it with the code and the buffer (R149, R151). -/
def State.poolAllocFor (s : State) (d src n : Nat) : State :=
  let (c, a, p, s) := s.poolAlloc d n
  s.emit (.agent (0x40 + src)) 1 [c.val, a, p] []

/-- POOL_ALLOC_REQ (R151). -/
def execPoolAllocReq (d : BaseNo) (src : BitVec 4) (size : BitVec 32) (s : State) : Answer :=
  (s.poolAllocFor d.toNat src.toNat size.toNat).done

/-- POOL_FREE_REQ (R152). -/
def execPoolFreeReq (d : BaseNo) (_src : BitVec 4) (addr : BitVec 52) (s : State) : Answer :=
  (s.hwFree d.toNat addr.toNat).done

/-- POOL_CACHE_REFILL (R150): a cache of fewer than 128 entries takes entries from a ring that is not empty. -/
def execPoolCacheRefill (d : BaseNo) (pool : BitVec 3) (s : State) : Answer :=
  (if pool.toNat < 6 ∧ s.live (.pool d.toNat) ∧ (s.cache d.toNat pool.toNat).length < 128 ∧ s.ringLen d.toNat pool.toNat ≠ 0
    then s.refill d.toNat pool.toNat else s).done

/-- POOL_CACHE_RETURN (R150): a cache of more than 384 entries returns 128. -/
def execPoolCacheReturn (d : BaseNo) (pool : BitVec 3) (s : State) : Answer :=
  (if pool.toNat < 6 ∧ s.live (.pool d.toNat) ∧ 384 < (s.cache d.toNat pool.toNat).length
    then s.giveBack d.toNat pool.toNat else s).done

/-- POOL_INIT_DONE (R148). -/
def execPoolInitDone (d : BaseNo) (s : State) : Answer := (s.finishTraining (Blk.pool d.toNat).page).done

end Sys2Proof.Machine
end

