-- ==== Sys2Proof/Machine/Gang.lean ====
section
/-! DEFINITION. The Gang's commands, schedule and instructions (chapters 11 and 12). -/

namespace Sys2Proof.Machine

/-! ## List commands (R287, R307) -/

/-- START (R287). -/
def execStart (m : Mst) (v : Word) (s : State) : Answer := (s.macCommand m.toNat v.toNat).done

/-- PAUSE (R307). -/
def execPause (m : Mst) (v : Word) (s : State) : Answer := (s.macCommand m.toNat v.toNat).done

/-- RESUME (R307). -/
def execResume (m : Mst) (v : Word) (s : State) : Answer := (s.macCommand m.toNat v.toNat).done

/-- STOP (R287). -/
def execStop (m : Mst) (v : Word) (s : State) : Answer := (s.macCommand m.toNat v.toNat).done

/-- PAUSE_TAKES_EFFECT (R307). -/
def execPauseTakesEffect (p : PartNo) (l : ListNo) (s : State) : Answer := ((s.pauseNow p.toNat l.toNat).showHalted p.toNat).done

/-- GANG_SCHEDULE (R306). -/
def execGangSchedule (cls : BitVec 2) (s : State) : Answer := (s.gangSchedule cls.toNat).done

/-! ## Instructions (R286 to R305): each is carried out where its list has issued it -/

/-- HALT (R287). -/
def execHalt (p : PartNo) (l : ListNo) (s : State) : Answer := (s.haltNow p.toNat l.toNat).done

/-- LDW (R298). -/
def execLdw (p : PartNo) (l : ListNo) (s : State) : Answer := (s.carry p.toNat l.toNat 1 0 State.carryLdw).done

/-- STW (R284). -/
def execStw (p : PartNo) (l : ListNo) (s : State) : Answer := (s.carry p.toNat l.toNat 2 0 State.carryStw).done

/-- MM (R288). -/
def execMm (p : PartNo) (l : ListNo) (s : State) : Answer := (s.carry p.toNat l.toNat 3 0 State.carryProduct).done

/-- MMT variant 1 (R315). -/
def execMmtDx (p : PartNo) (l : ListNo) (s : State) : Answer := (s.carry p.toNat l.toNat 4 1 State.carryProduct).done

/-- MMT variant 2 (R328). -/
def execMmtDw (p : PartNo) (l : ListNo) (s : State) : Answer := (s.carry p.toNat l.toNat 4 2 State.carryProduct).done

/-- EPI (R292). -/
def execEpi (p : PartNo) (l : ListNo) (s : State) : Answer := (s.carry p.toNat l.toNat 5 0 State.carryEpi).done

/-- CVT (R273). -/
def execCvt (p : PartNo) (l : ListNo) (s : State) : Answer := (s.carry p.toNat l.toNat 6 0 State.carryCvt).done

/-- RDX (R304). -/
def execRdxOp (p : PartNo) (l : ListNo) (s : State) : Answer := (s.carry p.toNat l.toNat 7 0 State.carryRdx).done

/-- SND (R303). -/
def execSnd (p : PartNo) (l : ListNo) (s : State) : Answer := (s.carry p.toNat l.toNat 8 0 State.carrySnd).done

/-- RCV variant 0 (R303). -/
def execRcvPostWait (p : PartNo) (l : ListNo) (s : State) : Answer := (s.carry p.toNat l.toNat 9 0 State.carryRcv).done

/-- RCV variant 1 (R303). -/
def execRcvPost (p : PartNo) (l : ListNo) (s : State) : Answer := (s.carry p.toNat l.toNat 9 1 State.carryRcv).done

/-- RCV variant 2 (R303). -/
def execRcvFirst (p : PartNo) (l : ListNo) (s : State) : Answer := (s.carry p.toNat l.toNat 9 2 State.carryFirst).done

/-- WAIT variant 0 (R302). -/
def execWaitCounter (p : PartNo) (l : ListNo) (s : State) : Answer := (s.carry p.toNat l.toNat 10 0 State.carryWait).done

/-- WAIT variant 1 (R302). -/
def execWaitFlag (p : PartNo) (l : ListNo) (s : State) : Answer := (s.carry p.toNat l.toNat 10 1 State.carryWait).done

/-- GANG_WATCH_MESSAGE (R302). -/
def execGangWatchMessage (w : Arming) (code : BitVec 8) (value : Word) (s : State) : Answer :=
  (s.gangWatch w.slot.toNat w.seq.toNat code.toNat value.toNat).done

/-- SIG variant 0 (R302). -/
def execSigAdd (p : PartNo) (l : ListNo) (s : State) : Answer := (s.carry p.toNat l.toNat 11 0 State.carrySig).done

/-- SIG variant 1 (R302). -/
def execSigSet (p : PartNo) (l : ListNo) (s : State) : Answer := (s.carry p.toNat l.toNat 11 1 State.carrySig).done

/-- SIG variant 2 (R302). -/
def execSigClr (p : PartNo) (l : ListNo) (s : State) : Answer := (s.carry p.toNat l.toNat 11 2 State.carrySig).done

/-- CNT variant 0 (R305). -/
def execCntFetch (p : PartNo) (l : ListNo) (s : State) : Answer := (s.carry p.toNat l.toNat 12 0 State.carryFetch).done

/-- CNT variant 1 (R305). -/
def execCntCounts (p : PartNo) (l : ListNo) (s : State) : Answer := (s.carry p.toNat l.toNat 12 1 State.carryCounts).done

/-- DIG variant 0 (R297). -/
def execDigTree (p : PartNo) (l : ListNo) (s : State) : Answer := (s.carry p.toNat l.toNat 13 0 State.carryDig).done

/-- DIG variant 1 (R300). -/
def execDigAudit (p : PartNo) (l : ListNo) (s : State) : Answer := (s.carry p.toNat l.toNat 13 1 State.carryDig).done

/-- SMP variant 0 (R296). -/
def execSmpSeeded (p : PartNo) (l : ListNo) (s : State) : Answer := (s.carry p.toNat l.toNat 14 0 State.carrySmp).done

/-- SMP variant 1 (R296). -/
def execSmpEntropy (p : PartNo) (l : ListNo) (s : State) : Answer := (s.carry p.toNat l.toNat 14 1 State.carrySmp).done

/-! ## Completion and monitors (R309, R311) -/

/-- GANG_OP_DONE (R309). -/
def execGangOpDone (p : PartNo) (l : ListNo) (s : State) : Answer := (s.gangOpDone p.toNat l.toNat).done

/-- CPL_RING_RESUME (R309). -/
def execCplRingResume (p : PartNo) (l : ListNo) (s : State) : Answer := (s.cplResume p.toNat l.toNat).done

/-- ARRAY_LAG_WINDOW (R311). -/
def execArrayLagWindow (s : State) : Answer := s.arrayLag.done

/-! ## Training and partition entries (R313, R318, R322, R328) -/

/-- MAC_TRAIN_CMD RELEASE (R322). -/
def execReleaseRetention (m : Mst) (v : Word) (s : State) : Answer := (s.trainCommand m.toNat v.toNat).done

/-- MAC_TRAIN_CMD CLEAR_GRAD (R328). -/
def execClearGrad (m : Mst) (v : Word) (s : State) : Answer := (s.trainCommand m.toNat v.toNat).done

/-- TRAIN_ENTRY_WRITE (R318). -/
def execTrainEntryWrite (m : Mst) (v : Word) (s : State) : Answer := (s.trainWrite m.toNat v.toNat).done

/-- PARTITION_ENTRY_WRITE (R313). -/
def execPartitionEntryWrite (m : Mst) (v : Word) (s : State) : Answer := (s.partWrite m.toNat v.toNat).done

end Sys2Proof.Machine
end

