-- ==== Sys2Proof/Machine/Links.lean ====
section
/-! DEFINITION. Lanes, port groups and logical ports: configuration, bring-up, sparing, clocks and codewords
(chapter 3). -/

namespace Sys2Proof.Machine

/-! ## Port groups (R42, R61, R62) -/

/-- The two groups that a bond may join (R15). -/
def pairOf (g : Nat) : Nat := if g % 2 = 0 then g + 1 else g - 1

/-- The state rules of a write of LNK_GRP_CFG: the group is OFF, a bonded odd group follows its pair, and a write that
forms or ends a bond finds both groups OFF (R61, R62). -/
def State.grpCfgBarred (s : State) (g v : Nat) : Bool :=
  s.st (.grp g) != .off || (g % 2 == 1 && s.breakout g == 3) ||
    (g % 2 == 0 && (bits v 2 3 == 3 || s.breakout g == 3) && s.st (.grp (pairOf g)) != .off)

/-- The value rules of LNK_GRP_CFG (R15, R42, R62). -/
def grpCfgBad (g v : Nat) : Bool :=
  bits v 0 2 == 3 || decide (3 < bits v 2 3) || (g % 2 == 1 && bits v 2 3 == 3) || (bits v 0 2 == 2 && decide (bits v 2 3 < 2))

/-- LNK_GRP_CFG of a group holding what a write places there; that of its pair follows in a bond, and goes back to its
reset value when the bond ends (R62). -/
def State.grpCfgSet (s : State) (g v : Nat) : State :=
  let was := s.breakout g
  let s := s.setReg (.grp g) 0x100 (bits v 0 9)
  if bits v 2 3 = 3 then s.setReg (.grp (pairOf g)) 0x100 (bits v 0 9)
  else if was = 3 then s.setReg (.grp (pairOf g)) 0x100 (resetReg (.grp (pairOf g)) 0x100)
  else s

/-- A write of LNK_GRP_CFG; one to the even group of a pair forms or ends its bond (R62). -/
def State.writeGrpCfg (s : State) (m pg v : Nat) : State :=
  match s.blk pg with
  | some (.grp g) => s.onWrite m pg 0x100 fun b =>
    if s.grpCfgBarred g v then s.refuse m b 0x100 .refusedState
    else if grpCfgBad g v then s.refuse m b 0x100 .badArg
    else (s.grpCfgSet g v).checkBudget (g / 32)
  | _ => s

/-- LNK_GRP_CFG_WRITE (R62). -/
def execLnkGrpCfgWrite (m : Mst) (pg : Pg) (v : Word) (s : State) : Answer := (s.writeGrpCfg m.toNat pg.toNat v.toNat).done

/-! ## Lanes (R51, R56, R58, R60) -/

/-- The active lane that a lane page stands for: itself, or the lane that a spare in use carries. -/
def State.served (s : State) (k n : Nat) : Option Nat :=
  if n < 64 then some n
  else if s.gb (.lane k n) LNK_LANE_STATUS_on_spare then some (s.g (.lane k n) LNK_LANE_STATUS_peer_lane) else none

/-- The state rules of LNK_LANE_CTRL (R58). The return from a spare needs the control codewords of an ACTIVE port, so
before that its request is refused too (assumption 158). -/
def State.laneCtrlBarred (s : State) (k n v : Nat) : Bool :=
  (bit v 5 && !s.spareUsable k n) ||
    (bit v 6 && (decide (64 ≤ n) || !s.gb (.lane k n) LNK_LANE_STATUS_on_spare || !s.active (s.lanePort k n)))

/-- LNK_LANE_CTRL holding the power and the polarities of a write. -/
def State.laneSet (s : State) (k n v : Nat) : State := s.setReg (.lane k n) 0x100 (bits v 0 1 + bits v 2 2 * 2 ^ 2)

/-- The port of the lane that a lane page stands for leaves OFF or goes back to it, and trains again where asked. -/
def State.laneWake (s : State) (k n : Nat) (retrain : Bool) : State :=
  match s.served k n with
  | none => s
  | some l =>
    let port := s.lanePort k l
    let s := s.wakePort port
    if retrain ∧ s.stage port ≠ 0 then s.moveStage port 1 else s

/-- What a write of LNK_LANE_CTRL does before a switchover that it asks for. -/
def State.laneWrite (s : State) (k n v : Nat) : State :=
  let s := s.laneSet k n v
  (if bit v 4 then s.clearLane k n else s).laneWake k n (bit v 1)

/-- A write of LNK_LANE_CTRL: power and polarity stored, the counters cleared, the port restarted, a switchover asked
for. -/
def State.writeLaneCtrl (s : State) (m pg v : Nat) : State :=
  match s.blk pg with
  | some (.lane k n) => s.onWrite m pg 0x100 fun b =>
    if s.laneCtrlBarred k n v then s.refuse m b 0x100 .refusedState
    else
      let s := s.laneWrite k n v
      if bit v 5 ∧ s.spareUsable k n then s.requestSwitch k n false
      else if bit v 6 then s.requestSwitch k n true else s
  | _ => s

/-- LANE_POWER (R51). -/
def execLanePower (m : Mst) (pg : Pg) (v : Word) (s : State) : Answer := (s.writeLaneCtrl m.toNat pg.toNat v.toNat).done

/-- LANE_CTRL_RETRAIN (R51). -/
def execLaneCtrlRetrain (m : Mst) (pg : Pg) (v : Word) (s : State) : Answer :=
  (s.writeLaneCtrl m.toNat pg.toNat v.toNat).done

/-- CLR_COUNTERS (R60). -/
def execClrCounters (m : Mst) (pg : Pg) (v : Word) (s : State) : Answer := (s.writeLaneCtrl m.toNat pg.toNat v.toNat).done

/-- SPARE_REQUEST (R56). -/
def execSpareRequest (m : Mst) (pg : Pg) (v : Word) (s : State) : Answer := (s.writeLaneCtrl m.toNat pg.toNat v.toNat).done

/-- SPARE_REVERT (R58). -/
def execSpareRevert (m : Mst) (pg : Pg) (v : Word) (s : State) : Answer := (s.writeLaneCtrl m.toNat pg.toNat v.toNat).done

/-- The request that waits on a die starts, where its lane can still move (R58); a lost lane that has no usable spare by
then stays lost (R57). -/
def State.dequeueSwitch (s : State) (k : Nat) : State :=
  if s.sws.any (·.die == k) then s
  else match s.nextSwWait k with
    | none => s
    | some w =>
      let s : State := { s with swWaits := s.swWaits.erase w }
      let ok := if w.revert then s.gb (.lane k w.lane) LNK_LANE_STATUS_on_spare else s.spareUsable k w.lane
      if ok then s.startSwitch k w.lane w.revert true
      else if !w.revert ∧ bit (s.hp (s.lanePort k w.lane) H_PORT_lost) (s.laneIdx k w.lane) then
        s.raise (.die k) cSPARE_EXHAUSTED
      else s

/-- SPARE_REQUEST_DEQUEUE (R58). -/
def execSpareRequestDequeue (k : DieNo) (s : State) : Answer := .next (s.dequeueSwitch k.toNat)

/-- A lane may send and check patterns: its group is OFF or EVACUATED, or it is a spare not in use (R59). -/
def State.prbsMay (s : State) (k n : Nat) : Bool :=
  if n < 64 then
    let st := s.st (.grp (laneGroup k n).1)
    st == .off || st == .evacuated
  else !s.gb (.lane k n) LNK_LANE_STATUS_on_spare && !s.sws.any fun w => w.die == k && w.spare + 64 == n

/-- The generator and the checker of a lane start over: the generator's register at all ones, a sequence at its first bit
(assumption 154). -/
def State.startPattern (s : State) (b : Blk) : State :=
  (s.setReg b H_LPAT_tx.off (2 ^ 32 - 1)).setReg b H_LPAT2_rx.off 0

/-- A write of LNK_PRBS_CTRL (R59). -/
def State.writePrbs (s : State) (m pg v : Nat) : State :=
  match s.blk pg with
  | some (.lane k n) => s.onWrite m pg 0x128 fun b =>
    if bits v 4 2 ≠ 0 ∧ !s.prbsMay k n then s.refuse m b 0x128 .refusedState
    else if 8 < bits v 0 4 then s.refuse m b 0x128 .badArg
    else (s.startPattern b).setReg b 0x128 (bits v 0 6)
  | _ => s

/-- PRBS_CTRL_WRITE (R59). -/
def execPrbsCtrlWrite (m : Mst) (pg : Pg) (v : Word) (s : State) : Answer := (s.writePrbs m.toNat pg.toNat v.toNat).done

/-! ## Bring-up (R51, R52, R65) -/

/-- DETECT_RETRY (R51): receiver detect is tried again; nothing changes until a partner is found. -/
def execDetectRetry (_port : PortNo) (s : State) : Answer := .next s

/-- The PHY of an Ethernet port, as Clause 73 resolves it: of the rates that R43 leaves (bit `i` of the partner's abilities
for `2^i` lanes), the one that the port's lanes carry (assumption 159). -/
def State.phyOf (s : State) (port : Nat) (an : Nat) : Option Nat :=
  (upTo 4).find? fun i => (s.portLanes port).length == 2 ^ i && bit an i

/-- A partner is found, and auto-negotiation has ended where it is asked for: its training begins (R43, R51). -/
def State.detected (s : State) (port : Nat) (an : Nat) : State :=
  let g := portGroup port
  if s.stage port = 1 ∧ s.portMay port ∧ s.clocked port then
    if s.pers g = .eth ∧ s.gb (.grp g) LNK_GRP_CFG_an_enable then
      match s.phyOf port an with
      | none => s
      | some i => (s.php port H_PORT_phy (i + 1)).moveStage port 2
    else s.moveStage port 2
  else s

/-- PARTNER_DETECTED (R51), with the abilities that the partner's auto-negotiation shows. -/
def execPartnerDetected (port : PortNo) (an : BitVec 4) (s : State) : Answer := (s.detected port.toNat an.toNat).done

/-- The receiver of a lane adapts: to values that the channel decides, unless adapt_freeze holds them (R53, assumption
1). -/
def State.adaptRx (s : State) (kn : Nat × Nat) : State :=
  let b := Blk.lane kn.1 kn.2
  let s := if s.gb b LNK_RX_EQ_adapt_freeze then s else
    let r := s.draw
    let s := (r.2.p b LNK_RX_EQ_ctle r.1).p b LNK_RX_EQ_dfe1 (r.1 / 32)
    (upTo 3).foldl (fun s i => let q := s.draw; q.2.setReg b (0x1118 + 8 * i) q.1) s
  let r := s.draw
  r.2.p b LNK_LANE_STATUS_snr r.1

/-- A lane adapts in TRAIN: its taps, as the partner's requests set them, and its receiver (R53). -/
def State.adaptLane (s : State) (kn : Nat × Nat) : State :=
  let b := Blk.lane kn.1 kn.2
  let s := if s.gb b LNK_TX_EQ_override then s else
    let r := s.draw
    r.2.p b LNK_TX_EQ_taps r.1
  s.adaptRx kn

/-- A lane enters LOCK: its codewords count from 0 in both directions (R46, R47, R50), its scrambler as it stands. -/
def State.lockLane (s : State) (kn : Nat × Nat) : State :=
  let b := Blk.lane kn.1 kn.2
  let r := s.draw
  ((r.2.setReg b H_LANE_ctl_count.off 0).setReg b H_LRX_ctl.off 0).p b H_LSCR_tx r.1

/-- Training of a port's lanes ends (R51): they are adapted, and enter LOCK. -/
def State.trainEnd (s : State) (port : Nat) : State :=
  if s.stage port = 2 then
    let s := (s.portLanes port).foldl (fun s l => (s.adaptLane (s.carrier l)).lockLane (s.carrier l)) s
    (s.php port H_PORT_lost 0).moveStage port 3
  else s

/-- TRAIN_DONE (R51). -/
def execTrainDone (port : PortNo) (s : State) : Answer := (s.trainEnd port.toNat).done

/-- TRAIN_TIMEOUT (R51). -/
def execTrainTimeout (port : PortNo) (s : State) : Answer :=
  let p := port.toNat
  State.done (if s.stage p = 2 then (s.moveStage p 1).raise (.grp (portGroup p)) cTRAIN_FAIL else s)

/-- The part's capability message is what the control codewords of a port's lanes carry (R50, R72). No register gives the
spare channels that the board routes: they are free (assumption 160). -/
def State.sendCaps (s : State) (port : Nat) : State :=
  let g := portGroup port
  let body := [b2n (s.pers g == .tlinkAttach), 1, (Config.boardSpares port).toNat, b2n (s.gb (.grp g) LNK_GRP_CFG_precode)]
  ((s.portLanes port).foldl (fun s l => s.ctlMsg l 1 (body.map (BitVec.ofNat 8))) s).php port H_PORT_sent 1

/-- A port that is ACTIVE may complete its pages' training (R51). -/
def State.portUp (s : State) (port : Nat) : State :=
  let s := s.moveStage port 5
  (s.portGroups port).foldl (fun s g => if s.groupTrained g then (s.trained (.grp g)).followAll (.grp g) else s) s

/-- Both sides have each other's capabilities: the port is ACTIVE (R51). -/
def State.capexEnd (s : State) (port : Nat) : State :=
  if s.hp port H_PORT_sent = 1 ∧ s.hp port H_PORT_got = 1 ∧ s.hp port H_PORT_held = 0 then s.portUp port else s

/-- A port enters CAPEX: it declares its capabilities, unless the address match found as its group left OFF holds it
there (R51, R65). -/
def State.capexStart (s : State) (port : Nat) : State :=
  let s := s.moveStage port 4
  if s.hp port H_PORT_held = 1 then (s.php port H_PORT_mism 1).raise (.grp (portGroup port)) cCAPEX_MISMATCH
  else s.sendCaps port

/-- Every lane of a port has locked (R51); the receive crossings of its lanes align (R353). -/
def State.lockEnd (s : State) (port : Nat) : State :=
  if s.stage port = 3 then
    let s := (s.portLanes port).foldl (fun s l =>
      let c := s.carrier l
      s.alignXing (.lane c.1 c.2) 0) s
    if s.pers (portGroup port) = .eth then s.portUp port else s.capexStart port
  else s

/-- LOCK_DONE (R51). -/
def execLockDone (port : PortNo) (s : State) : Answer := (s.lockEnd port.toNat).done

/-- LOCK_TIMEOUT (R51). -/
def execLockTimeout (port : PortNo) (s : State) : Answer :=
  let p := port.toNat
  State.done (if s.stage p = 3 then s.moveStage p 2 else s)

/-- The link_caps of a partner agree with R72. -/
def capsOk (c : List Byte) : Bool :=
  let mp := beAt c 0 2
  c.length == 48 && beAt c 2 1 == 0xFF && [256, 512, 1024, 2048, 4096].contains mp &&
    ((upTo 8).all fun v => beAt c (3 + 2 * v) 2 != 0) && (c.drop 23).all (· == 0)

/-- Capabilities agree with the port's (R52, R72). -/
def State.capsMatch (s : State) (port : Nat) (msg : CapMsg) : Bool :=
  !(msg.role.toNat == 1 && s.pers (portGroup port) == .tlinkAttach) &&
    msg.width.toNat == (s.portLanes port).length && capsOk msg.caps

/-- What the pages show of a capability message (LNK_GRP_PARTNER, LNK_SPARE_MAP.channel). -/
def State.showPartner (s : State) (port : Nat) (msg : CapMsg) : State :=
  let s := (s.portGroups port).foldl (fun s g => s.p (.grp g) LNK_GRP_PARTNER_caps
    (msg.role.toNat + msg.version.toNat * 2 ^ 8 + msg.spares.toNat * 2 ^ 16 + msg.precode.toNat * 2 ^ 24)) s
  ((s.php port H_PORT_spares (msg.spares.toNat % 16)).php port H_PORT_precode (msg.precode.toNat % 2)).showSpares port

/-- A capability message (R51, R52). -/
def State.capability (s : State) (port : Nat) (msg : CapMsg) : State :=
  if s.pers (portGroup port) = .eth ∨ s.stage port < 4 then s
  else
    let s := s.showPartner port msg
    if s.stage port = 5 then s
    else if s.capsMatch port msg then
      let cred := (upTo 8).map fun v => 8 * beAt msg.caps (3 + 2 * v) 2
      ((s.startLl port cred (min 4096 (beAt msg.caps 0 2))).php port H_PORT_got 1).capexEnd port
    else
      let s := s.php port H_PORT_got 0
      if s.hp port H_PORT_mism = 1 then s
      else (s.php port H_PORT_mism 1).raise (.grp (portGroup port)) cCAPEX_MISMATCH

/-- CAPABILITY (R52). -/
def execCapability (port : PortNo) (msg : CapMsg) (s : State) : Answer := (s.capability port.toNat msg).done

/-- CAPEX_RESEND (R51). -/
def execCapexResend (port : PortNo) (s : State) : Answer :=
  let p := port.toNat
  .next (if s.stage p = 4 ∧ s.hp p H_PORT_held = 0 then s.sendCaps p else s)

/-- The address of a held group is compared again (R65): with no match left, it declares its capabilities if it stands in
CAPEX. -/
def State.addrRecheck (s : State) (g : Nat) : State :=
  (s.groupPorts g).foldl (fun s p =>
    if s.hp p H_PORT_held = 1 ∧ !s.addrMatch g then
      let s := s.php p H_PORT_held 0
      if s.stage p = 4 then (s.sendCaps p).capexEnd p else s
    else s) s

/-- ADDR_RECHECK (R65). -/
def execAddrRecheck (g : GroupNo) (s : State) : Answer := (s.addrRecheck g.toNat).done

/-- RETRAIN (R51). -/
def execRetrain (port : PortNo) (s : State) : Answer :=
  let p := port.toNat
  State.done (if s.stage p ≠ 0 then s.moveStage p 1 else s)

/-- Lock is lost on a lane of a link (R51, R57). -/
def State.lockLost (s : State) (k n : Nat) : State :=
  match s.served k n with
  | none => s
  | some l =>
    let port := s.lanePort k l
    let g := portGroup port
    if s.carrier (k, l) ≠ (k, n) then s
    else if s.stage port = 4 then s.moveStage port 1
    else if s.stage port ≠ 5 then s
    else if s.pers g = .eth then (s.moveStage port 1).raise (.grp g) cLANE_DOWN
    else
      let s := s.php port H_PORT_lost (putBits (s.hp port H_PORT_lost) (s.laneIdx k l) 1 1)
      if (s.workLanes port).isEmpty then (s.moveStage port 1).raise (.grp g) cLANE_DOWN
      else
        let s := (s.showPort port 5).showLane (s.carrier (k, l)) 3
        if s.sws.any fun w => w.die == k && w.lane == l then s.swSay k
        else if n < 64 ∧ s.spareUsable k l then
          (if s.gb (.grp (laneGroup k l).1) LNK_GRP_CFG_spare_auto then s.requestSwitch k l false else s)
        else s.raise (.die k) cSPARE_EXHAUSTED

/-- LANE_LOCK_LOST (R57). -/
def execLaneLockLost (k : DieNo) (n : LaneNo) (s : State) : Answer :=
  State.done (if n.toNat < 68 then s.lockLost k.toNat n.toNat else s)

/-! ## Sparing (R56 to R58) -/

/-- SPARE_POLICY_WINDOW (R56): the counts of the window restart. -/
def execSparePolicyWindow (k : DieNo) (n : LaneNo) (s : State) : Answer :=
  let b := Blk.lane k.toNat n.toNat
  .next (if n.toNat < 68 then (s.p b H_LWIN_corr 0).p b H_LWIN2_uncorr 0 else s)

/-- A partner's spare_prepare: this end trains the named spare, where the partner has declared its channel, or the lane
that comes back from it (R55, R56, R58). -/
def State.prepare (s : State) (port idx j : Nat) : State :=
  match (s.portLanes port)[idx]? with
  | none => s
  | some (k, n) =>
    let back := s.gb (.lane k n) LNK_LANE_STATUS_on_spare
    if !s.active port ∨ s.pers (portGroup port) = .eth ∨ spareOf n ≠ j ∨ s.sws.any (·.die == k) then s
    else if back ∨ s.spareUsable k n then s.startSwitch k n back false
    else s

/-- SPARE_PREPARE (R56). -/
def execSparePrepare (port : PortNo) (idx : BitVec 3) (j : BitVec 2) (s : State) : Answer :=
  .next (s.prepare port.toNat idx.toNat j.toNat)

/-- What trains in a switchover: the spare, or on the way back the lane. -/
def Switchover.trains (w : Switchover) : Nat × Nat := (w.die, if w.revert then w.lane else 64 + w.spare)

/-- What trains has trained: it is adapted, and the initiator names the switch count (R53, R56 step 3). -/
def State.spareTrained (s : State) (k : Nat) : State :=
  match s.sw k with
  | none => s
  | some w =>
    if w.phase = .training then
      let s := s.adaptLane w.trains
      if w.initiator then
        let c := s.carrier (s.swLane w)
        let n := (s.g (.lane c.1 c.2) H_LANE_ctl_count + 8) % 2 ^ 32
        (s.setSw { w with phase := .switching, count := n }).swSay k
      else s
    else s

/-- SPARE_TRAIN_DONE (R56). -/
def execSpareTrainDone (k : DieNo) (s : State) : Answer := .next (s.spareTrained k.toNat)

/-- SPARE_TRAIN_FAIL (R56). -/
def execSpareTrainFail (k : DieNo) (s : State) : Answer :=
  State.done (match s.sw k.toNat with
    | none => s
    | some w => if w.phase = .training then s.failSwitch w else s)

/-- The switchover of a link's lane, by its index. -/
def State.swOf (s : State) (port idx j : Nat) : Option Switchover :=
  s.sws.find? fun w => s.lanePort w.die w.lane == port && w.idx == idx && w.spare == j

/-- SPARE_SWITCH (R56): the responder answers with the same count. -/
def execSpareSwitch (port : PortNo) (idx : BitVec 3) (j : BitVec 2) (sw : BitVec 32) (s : State) : Answer :=
  .next (match s.swOf port.toNat idx.toNat j.toNat with
    | none => s
    | some w =>
      if w.initiator then s
      else (s.setSw { w with phase := .acked, count := sw.toNat }).swSay w.die)

/-- SPARE_ACK (R56). -/
def execSpareAck (port : PortNo) (idx : BitVec 3) (j : BitVec 2) (sw : BitVec 32) (s : State) : Answer :=
  .next (match s.swOf port.toNat idx.toNat j.toNat with
    | none => s
    | some w =>
      if w.initiator ∧ w.phase = .switching ∧ w.count = sw.toNat then s.setSw { w with phase := .acked } else s)

/-- The control codeword of count S has passed (R56 step 4): the initiator has sent it, the responder has received it. -/
def State.swPassed (s : State) (w : Switchover) : Bool :=
  let c := s.carrier (s.swLane w)
  let b := Blk.lane c.1 c.2
  if w.initiator then decide ((s.g b H_LANE_ctl_count + 2 ^ 32 - w.count - 1) % 2 ^ 32 < 2 ^ 31)
  else decide ((s.g b H_LRX_ctl + 2 ^ 32 - w.count) % 2 ^ 32 < 2 ^ 31)

/-- SPARE_SWITCHOVER (R56 steps 4 and 5): once the partner agrees on S and its codeword has passed. -/
def execSpareSwitchover (k : DieNo) (s : State) : Answer :=
  State.done (match s.sw k.toNat with
    | none => s
    | some w => if w.phase = .acked ∧ s.swPassed w then s.finishSwitch w else s)

/-! ## Clocks (R63) -/

/-- Every port with a lane on a SerDes die waits in DETECT, and no lane of the die has a clock. -/
def State.stopPorts (s : State) (k : Nat) : State :=
  (upTo 68).foldl (fun s n => if s.g (.lane k n) LNK_LANE_STATUS_stage = 0 then s else s.showLane (k, n) 1)
    ((s.diePorts k).foldl (fun s p => if s.stage p = 0 then s else s.moveStage p 1) s)

/-- REFCLK_LOST (R63): every lane of the die is down, and its ports wait in DETECT. -/
def execRefclkLost (k : DieNo) (s : State) : Answer :=
  let d := Blk.die k.toNat
  let s := (s.p d LNK_DIE_REFCLK_present 0).p d LNK_DIE_REFCLK_locked 0
  ((s.stopPorts k.toNat).raise d cREFCLK_LOST).done

/-- REFCLK_RESTORED (R63): the clock's measured offset is not the spec's (assumption 1). -/
def execRefclkRestored (k : DieNo) (s : State) : Answer :=
  let d := Blk.die k.toNat
  let r := s.draw
  .next (((r.2.p d LNK_DIE_REFCLK_present 1).p d LNK_DIE_REFCLK_locked 1).p d LNK_DIE_REFCLK_offset r.1)

/-! ## Codewords (R46 to R49) -/

/-- The page that counts a codeword: the lane's own, or on Ethernet the lowest lane of its port. -/
def State.fecLane (s : State) (k n : Nat) : Nat × Nat :=
  let port := s.lanePort k n
  if n < 64 ∧ s.pers (portGroup port) = .eth then (s.portLanes port).headD (k, n) else (k, n)

/-- Precoding is on in both directions: both ends set it, and the exchange is over (R52). -/
def State.precoded (s : State) (port : Nat) : Bool :=
  s.active port && s.gb (.grp (portGroup port)) LNK_GRP_CFG_precode && s.hp port H_PORT_precode == 1

/-- The bits of a codeword at a lane that checks a pattern are compared (R59). -/
def State.checkPattern (s : State) (b : Blk) (l : List Bool) : State :=
  let pat := s.g b LNK_PRBS_CTRL_pattern
  let c := l.foldl (Check.step pat (s.reg b 0x130)) ⟨s.g b H_LPAT2_rx, s.g b H_LPAT_seen, 0, 0⟩
  (((s.p b H_LPAT2_rx c.st).p b H_LPAT_seen c.seen).add b LNK_PRBS_BITS_bits c.bits).add b LNK_PRBS_ERRS_errors c.errs

/-- How many codewords the lanes of a link may lie apart: 32 ns of 12.14 ns each (R48). -/
def skewMost : Nat := 2

/-- The row due leaves the receiver: what its lanes hold of it, in ascending lane index. -/
def Ll.popRow (x : Ll) (lanes : List Nat) (q : Nat) : Ll :=
  let got := lanes.flatMap fun i => (x.rxq.filter fun e => e.1 == i && e.2.1 == q).flatMap (·.2.2)
  { x with slots := x.slots ++ got, rxq := x.rxq.filter (·.2.1 != q), row := some ((q + 1) % 64) }

/-- The rows that are whole leave in turn, and those that a lane has left further behind than the skew allows (R48). -/
def Ll.deskew (x : Ll) (lanes : List Nat) : Nat → Ll
  | 0 => x
  | fuel + 1 =>
    match x.row with
    | none => x
    | some q =>
      let whole := lanes.all fun i => x.rxq.any fun e => e.1 == i && e.2.1 == q
      let late := x.rxq.any fun e => decide (skewMost < (e.2.1 + 64 - q) % 64)
      if !x.rxq.isEmpty ∧ (whole ∨ late) then (x.popRow lanes q).deskew lanes fuel else x

/-- A codeword of lane `i` with count `q` arrives at the deskew: its slots and its sideband, or nothing (R48, R49). -/
def Ll.arrive (x : Ll) (lanes : List Nat) (i q : Nat) (held : List (List Byte)) : Ll :=
  Ll.deskew { x with rxq := x.rxq ++ [(i, q, held)], row := some (x.row.getD q) } lanes 64

/-- What a decoded TLink codeword leaves on its lane and for its link: the slots of a data codeword, the count of a control
one, the link's sideband of both. What a control codeword says comes as the events of its messages (assumption 161). -/
def State.tlinkWord (s : State) (k n : Nat) (side : Nat) (body : List Bool) : State × List (List Byte) :=
  let b := Blk.lane k n
  let word := beBytes 4 (side % 2 ^ 32)
  let s := (s.p b H_LRX_seq (bits side 32 6 + 1)).p b H_LRX_pos (if bits side 38 2 = 1 then 0 else s.g b H_LRX_pos + 1)
  match bits side 38 2 with
  | 0 =>
    let r := descramble (s.g b H_LSCR2_rx) body
    (s.p b H_LSCR2_rx r.2, cutIn 64 5 (bytesOfBits r.1) ++ [word])
  | 1 =>
    let c := bytesOfBits body
    (if beAt c 0 2 = 0xC5A3 then s.p b H_LRX_ctl (beAt c 4 4) else s, [word])
  | _ => (s, [])

/-- A TLink codeword is decoded (R45 to R49): it is counted, and its row takes what it held. -/
def State.rxTlink (s : State) (k n l port : Nat) (ls : List Nat) : State :=
  let b := Blk.lane k n
  let idx := s.laneIdx k l
  let r := rsDecode 6 (symsOf 272 (if s.precoded port then Config.unprecode ls else ls))
  let s := (s.countFec k n (r.map (·.2))).applyPolicy k n l
  let r := match r with
    | none => (s.p b H_LRX_seq (s.g b H_LRX_seq + 1), s.g b H_LRX_seq, [])
    | some (c, _) =>
      let m := tlinkMessage c
      let q := s.tlinkWord k n m.1 m.2
      (q.1, bits m.1 32 6, q.2)
  let lanes := r.1.workLanes port
  if !r.1.active port ∨ !lanes.contains idx then r.1
  else match r.1.ll port with
    | none => r.1
    | some x => r.1.setLl port (x.arrive lanes idx r.2.1 r.2.2)

/-- An Ethernet codeword is decoded (R43): it is counted on the lowest lane of its port, and the PCS reads the link fault
in it; a local fault is answered with remote faults. -/
def State.rxEth (s : State) (k n l port : Nat) (ls : List Nat) : State :=
  let c := s.fecLane k n
  let r := rsDecode 15 (symsOf 544 ls)
  let s := (s.countFec c.1 c.2 (r.map (·.2))).applyPolicy c.1 c.2 l
  match r with
  | none => s
  | some (m, _) => s.php port H_PORT_fault (Config.pcsFault (m.take 514))

/-- The levels of one codeword reach a lane: its checker takes them, or its decoder once the lane has codeword lock. -/
def State.rxCodeword (s : State) (k n : Nat) (ls : List Nat) : State :=
  let b := Blk.lane k n
  let ls := polarity (s.gb b LNK_LANE_CTRL_rx_invert) ls
  if s.gb b LNK_PRBS_CTRL_rx_check then s.checkPattern b (ls.flatMap pamBits)
  else match s.served k n with
    | none => s
    | some l =>
      let port := s.lanePort k l
      if s.carrier (k, l) ≠ (k, n) ∨ s.stage port < 4 then s
      else
        let s := if s.active port then s.adaptRx (k, n) else s
        if s.pers (portGroup port) = .eth then s.rxEth k n l port ls else s.rxTlink k n l port ls

/-- The levels of a codeword, in the order in which the lane brings its parts (R46). -/
def codeword (side body parity : Line) : List Nat := (side.levels ++ body.levels ++ parity.levels).map (·.toNat)

/-- DATA_CODEWORD (R49). -/
def execDataCodeword (k : DieNo) (n : LaneNo) (side body parity : Line) (s : State) : Answer :=
  State.done (if n.toNat < 68 then s.rxCodeword k.toNat n.toNat (codeword side body parity) else s)

/-- A lane sends the bits that one codeword lasts of its pattern (R59). -/
def State.sendPattern (s : State) (k n : Nat) : State :=
  let b := Blk.lane k n
  let r := patRun (s.g b LNK_PRBS_CTRL_pattern) (s.reg b 0x130) 2720 (s.g b H_LPAT_tx)
  (s.p b H_LPAT_tx r.2).emit (.lane k n) 3 (polarity (s.gb b LNK_LANE_CTRL_tx_invert) (pamLevels r.1)) []

/-- The symbols of a codeword leave as levels: precoded where it is on, and inverted where asked. -/
def State.sendSyms (s : State) (k n port tag : Nat) (syms : List Nat) : State :=
  let ls := levelsOf syms
  let ls := if s.precoded port then Config.precode ls else ls
  s.emit (.lane k n) tag (polarity (s.gb (.lane k n) LNK_LANE_CTRL_tx_invert) ls) []

/-- The sideband symbols of the next codeword of a lane: the link's sideband, the lane's sequence number, and whether it
is a control codeword (R46, R47). -/
def State.codewordSide (s : State) (k n port : Nat) : Nat :=
  b2n (s.g (.lane k n) H_LANE_pos == 19) * 2 ^ 38 + s.g (.lane k n) H_LANE_lane_seq * 2 ^ 32 + (s.sendSide port false).1

/-- A lane's place in its period and its sequence number advance with a codeword, and the link's report is made. -/
def State.sentCodeword (s : State) (k n port : Nat) : State :=
  ((s.sendSide port false).2.p (.lane k n) H_LANE_pos ((s.g (.lane k n) H_LANE_pos + 1) % 20)).p (.lane k n)
    H_LANE_lane_seq ((s.g (.lane k n) H_LANE_lane_seq + 1) % 64)

/-- The control codeword of a lane: its index, the width, the count and the message that it repeats (R47, R50). -/
def State.sendControl (s : State) (k n port side idx : Nat) : State :=
  let b := Blk.lane k n
  let count := s.g b H_LANE_ctl_count
  let body := controlBody idx (s.portLanes port).length count (s.g b H_LMSG_msg)
    ((upTo 7).map fun i => BitVec.ofNat 8 (s.g b H_LMSG_body / 2 ^ (8 * i))) (s.ownCaps port)
  (s.sendSyms k n port 2 (tlinkCodeword side (bitsOfBytes body))).p b H_LANE_ctl_count ((count + 1) % 2 ^ 32)

/-- Five flits of the link's queue, idle ones behind its end. -/
def fiveFlits (q : List (List Byte)) : List (List Byte) := (q ++ List.replicate 5 idleFlit).take 5

/-- The flit slots of the next codeword of lane `i`: the link deals its flits five at a time to its lanes in turn, in
ascending index (R48). -/
def Ll.dealTo (x : Ll) (lanes : List Nat) (i : Nat) : Nat → List (List Byte) × Ll
  | 0 => (fiveFlits [], x)
  | fuel + 1 =>
    match x.dealt.find? (·.1 == i) with
    | some e => (e.2, { x with dealt := x.dealt.erase e })
    | none =>
      let next := (lanes.find? (x.deal ≤ ·)).getD (lanes.headD 0)
      Ll.dealTo { x with dealt := x.dealt ++ [(next, fiveFlits x.txq)], txq := x.txq.drop 5, deal := next + 1 } lanes i fuel

/-- A data codeword of a lane: its body is scrambled (R47). A lane that the link does not use carries idle flits. -/
def State.sendData (s : State) (k n port side idx : Nat) : State :=
  let b := Blk.lane k n
  let lanes := s.workLanes port
  let r := match s.ll port with
    | none => (fiveFlits [], s)
    | some x =>
      let x := { x with dealt := x.dealt.filter fun e => lanes.contains e.1 }
      if lanes.contains idx then let q := x.dealTo lanes idx 9; (q.1, s.setLl port q.2) else (fiveFlits [], s.setLl port x)
  let c := scramble (s.g b H_LSCR_tx) (bitsOfBytes (fit 320 r.1.flatten))
  (r.2.p b H_LSCR_tx c.2).sendSyms k n port 0 (tlinkCodeword side c.1)

/-- A lane sends its next codeword: in a TLink link 19 data codewords and then a control one (R46, R47), on Ethernet an
RS(544,514) codeword over what the PCS gives (R43, assumption 162). A lane that has lost lock carries nothing (R56). -/
def State.txCodeword (s : State) (k n : Nat) : State :=
  if s.gb (.lane k n) LNK_PRBS_CTRL_tx_en then s.sendPattern k n
  else match s.served k n with
    | none => s
    | some l =>
      let port := s.lanePort k l
      let idx := s.laneIdx k l
      if s.stage port < 3 ∨ s.carrier (k, l) ≠ (k, n) ∨ (s.active port ∧ bit (s.hp port H_PORT_lost) idx) then s
      else if s.pers (portGroup port) = .eth then
        let r := s.draw
        r.2.sendSyms k n port 0 (rsEncode 15 (Config.pcsMessage r.1 (s.hp port H_PORT_fault)))
      else
        let side := s.codewordSide k n port
        if s.g (.lane k n) H_LANE_pos = 19 then (s.sentCodeword k n port).sendControl k n port side idx
        else (s.sentCodeword k n port).sendData k n port side idx

/-- CODEWORD_TX (R47). -/
def execCodewordTx (k : DieNo) (n : LaneNo) (s : State) : Answer :=
  .next (if n.toNat < 68 then s.txCodeword k.toNat n.toNat else s)

end Sys2Proof.Machine
end

