-- ==== Sys2Proof/Machine/Reduction.lean ====
section
/-! DEFINITION. The reduction contexts and the small collectives (chapter 8). -/

namespace Sys2Proof.Machine

/-! ## Commands (R188 to R190, R213, R215, R217) -/

/-- RDX_CMD ADMIT (R188). -/
def execRdxAdmit (m : Mst) (n : EngNo) (v : Word) (s : State) : Answer := (s.rdxCommand m.toNat n.toNat v.toNat).done

/-- RDX_CMD RETIRE (R190). -/
def execRetire (m : Mst) (n : EngNo) (v : Word) (s : State) : Answer := (s.rdxCommand m.toNat n.toNat v.toNat).done

/-- RDX_CMD RESET (R221). -/
def execRdxReset (m : Mst) (n : EngNo) (v : Word) (s : State) : Answer := (s.rdxCommand m.toNat n.toNat v.toNat).done

/-- RDX_CMD SAVE (R213). -/
def execSave (m : Mst) (n : EngNo) (v : Word) (s : State) : Answer := (s.rdxCommand m.toNat n.toNat v.toNat).done

/-- RDX_CMD RESTORE (R213). -/
def execRestore (m : Mst) (n : EngNo) (v : Word) (s : State) : Answer := (s.rdxCommand m.toNat n.toNat v.toNat).done

/-- RDX_CMD_DONE (R213). -/
def execRdxCmdDone (n : EngNo) (s : State) : Answer := (s.rdxCmdDone n.toNat).done

/-- SYN_SC_CMD OPEN (R217). -/
def execScOpen (m : Mst) (v : Word) (s : State) : Answer := (s.scCommand m.toNat v.toNat).done

/-- SYN_SC_CMD CLOSE (R215). -/
def execScClose (m : Mst) (v : Word) (s : State) : Answer := (s.scCommand m.toNat v.toNat).done

/-! ## Contributions and results (R198 to R211) -/

/-- COLL_CONTRIB (R200). -/
def execCollContrib (port : PortNo) (p : CPkt) (s : State) : Answer := (s.collIn 0x20 port.toNat none p.bytes).done

/-- COLL_PARTIAL (R211): a child's partial is a REMOTE contribution. -/
def execCollPartial (port : PortNo) (p : CPkt) (s : State) : Answer := (s.collIn 0x22 port.toNat none p.bytes).done

/-- CLAIM (R200). -/
def execClaim (c : CtxNo) (s : State) : Answer := (s.claim c.toNat).done

/-- CLAIM_GRANT (R200). -/
def execClaimGrant (c : CtxNo) (s : State) : Answer := (s.claimGrant c.toNat).done

/-- ENGINE_ACCUMULATE (R198). -/
def execEngineAccumulate (n : EngNo) (s : State) : Answer := (s.accumulate n.toNat).done

/-- LINE_RELEASE (R204). -/
def execLineRelease (c : CtxNo) (line : BitVec 64) (s : State) : Answer := (s.lineRelease c.toNat line.toNat).done

/-- EPILOGUE (R205). -/
def execEpilogue (c : CtxNo) (line : BitVec 64) (s : State) : Answer := (s.epilogue c.toNat line.toNat).done

/-- RESULT_SEND (R209). -/
def execResultSend (c : CtxNo) (s : State) : Answer := (s.resultSend c.toNat).done

/-- COLL_RESULT (R211). -/
def execCollResult (port : PortNo) (p : CPkt) (s : State) : Answer := (s.collResult port.toNat p.bytes).done

/-- COLL_WINDOW (R201). -/
def execCollWindow (port : PortNo) (p : CPkt) (s : State) : Answer := (s.collWindow port.toNat p.bytes).done

/-- COLL_SMALL (R215). -/
def execCollSmall (port : PortNo) (p : CPkt) (s : State) : Answer := (s.collSmall port.toNat p.bytes).done

end Sys2Proof.Machine
end

