-- ==== Sys2Proof/Machine/Roost.lean ====
section
/-! DEFINITION. The Roost's commands: signals, flags, watches, barriers, tables and the wait detector (chapter 9). -/

namespace Sys2Proof.Machine

/-! ## The row filter (R363) -/

/-- A counter's entry names partition `p` as its owner, itself or through a context. -/
def State.cntOf (s : State) (p c : Nat) : Bool :=
  match s.t .synCnt 0 c synCnt_owner_kind with
  | 1 => s.t .synCnt 0 c synCnt_owner_id % 16 == p
  | 2 => s.t .attCtx 0 (s.t .synCnt 0 c synCnt_owner_id) attCtx_partition == p
  | _ => false

/-- The row of a table of the Roost is partition `p`'s: 0 counters, 1 flags, 2 watches, 3 translation, 4 barriers, 5
wait-for entries. -/
def State.synRowOf (s : State) (p tb i : Nat) : Bool :=
  match tb with
  | 0 => s.cntOf p i
  | 1 => s.tb .synFlag 0 i synFlag_owned && s.t .synFlag 0 i synFlag_partition == p
  | 2 => s.tb .synWatch 0 i synWatch_owned && s.t .synWatch 0 i synWatch_partition == p
  | 3 => i / 48 == p
  | 4 => s.tb .synBar 0 i synBar_owned && s.t .synBar 0 i synBar_partition == p
  | _ => s.t .synWf 0 i synWf_waiter == p

/-- A requester reaches a row of the Roost: a virtual function only its own. -/
def State.synRow (s : State) (m tb i : Nat) : Bool :=
  match vfPart (mst m) with
  | none => true
  | some p => s.synRowOf p tb i

/-- A write of a command register of the Roost that names a row: the row filter first, then its effect and code. -/
def State.synOp (s : State) (m off tb i : Nat) (f : State → Code × State) : State :=
  s.onWrite m Blk.syn.page off fun b =>
    if !s.synRow m tb i then s.denyWrite m b off
    else
      let r := f s
      if r.1.refuses then r.2.refuse m b off r.1 else r.2

/-! ## Signals (R223 to R229) -/

/-- A signal of a source: a partition's masters name virtual counters (R226, R241). -/
def State.signalAs (s : State) (src c ep amt : Nat) : Code × State :=
  match masterPart src with
  | some p => s.signalVirt p c ep amt
  | none => s.signalPhys c ep amt

/-- A signal of a source, which hears the code (R229). -/
def State.signalBy (s : State) (src c ep amt : Nat) : State :=
  let r := s.signalAs src c ep amt
  r.2.emit (.agent src) 2 [r.1.val] []

/-- SIGNAL (R229). -/
def execSignal (src : Mst) (counter : BitVec 16) (epoch : BitVec 16) (amount : BitVec 32) (s : State) : Answer :=
  (s.signalBy src.toNat counter.toNat epoch.toNat amount.toNat).done

/-- A write of SYN_SIGNAL. -/
def State.writeSignal (s : State) (m v : Nat) : State :=
  s.synOp m 0x110 0 (bits v 0 16) fun s => s.signalPhys (bits v 0 16) (bits v 16 16) (bits v 32 32)

/-- SYN_SIGNAL (R224). -/
def execSynSignal (m : Mst) (v : Word) (s : State) : Answer := (s.writeSignal m.toNat v.toNat).done

/-- A write of SYN_CLEAR. -/
def State.writeClear (s : State) (m v : Nat) : State :=
  s.synOp m 0x118 0 (bits v 0 16) fun s => (.ok, s.cntEpoch (bits v 0 16) true)

/-- CLEAR (R227). -/
def execClear (m : Mst) (v : Word) (s : State) : Answer := (s.writeClear m.toNat v.toNat).done

/-! ## Flags (R232, R233) -/

/-- A write of SYN_FLAG. -/
def State.writeFlag (s : State) (m v : Nat) : State :=
  s.synOp m 0x120 1 (bits v 0 12) fun s => s.flagWrite (mst m) (bits v 0 12) (bits v 12 16) (!bit v 28)

/-- FLAG_SET (R232). -/
def execFlagSet (m : Mst) (v : Word) (s : State) : Answer := (s.writeFlag m.toNat v.toNat).done

/-- FLAG_CLR (R232). -/
def execFlagClr (m : Mst) (v : Word) (s : State) : Answer := (s.writeFlag m.toNat v.toNat).done

/-! ## Watches and barriers (R235, R236, R243, R244) -/

/-- A write of SYN_WATCH_ARM. -/
def State.writeArm (s : State) (m v : Nat) : State := s.synOp m 0x128 2 (bits v 0 14) fun s => s.arm (bits v 0 14)

/-- WATCH_ARM (R235). -/
def execWatchArm (m : Mst) (v : Word) (s : State) : Answer := (s.writeArm m.toNat v.toNat).done

/-- A write of SYN_WATCH_CANCEL. -/
def State.writeCancel (s : State) (m v : Nat) : State := s.synOp m 0x130 2 (bits v 0 14) fun s => s.cancel (bits v 0 14)

/-- WATCH_CANCEL (R236). -/
def execWatchCancel (m : Mst) (v : Word) (s : State) : Answer := (s.writeCancel m.toNat v.toNat).done

/-- A write of SYN_BAR_CTRL: 1 ARM, 2 DISARM, the others reserved. -/
def State.writeBar (s : State) (m v : Nat) : State :=
  s.synOp m 0x138 4 (bits v 0 8) fun s =>
    match bits v 8 2 with
    | 1 => s.barArm (bits v 0 8)
    | 2 => s.barDisarm (bits v 0 8)
    | _ => (.badArg, s)

/-- BAR_ARM (R243). -/
def execBarArm (m : Mst) (v : Word) (s : State) : Answer := (s.writeBar m.toNat v.toNat).done

/-- BAR_DISARM (R244). -/
def execBarDisarm (m : Mst) (v : Word) (s : State) : Answer := (s.writeBar m.toNat v.toNat).done

/-! ## Tables (R242) -/

/-- The tables of the Roost's window and their entries. -/
def synTbl : Nat → Tbl
  | 0 => .synCnt | 1 => .synFlag | 2 => .synWatch | 3 => .synXlate | 4 => .synBar | _ => .synWf
def synCount (tb : Nat) : Nat := [65536, 4096, 16384, 768, 256, 256].getD tb 0

/-- The state of an entry bars a write of one of its words: a counter's owner fields while watches are armed on it, an
armed watch, an armed barrier. -/
def State.synBarred (s : State) (tb i : Nat) : Bool :=
  match tb with
  | 0 => s.t .synCnt 0 i synCnt_watches != 0
  | 2 => s.tb .synWatch 0 i synWatch_state
  | 4 => s.tb .synBar 0 i synBar_armed
  | _ => false

/-- The longest segment of a kind of object (R241). -/
def segLimit (kind : Nat) : Nat := 2 ^ xlateBits kind

/-- A write of SYN_TBL_DATA. A word with no field that software writes takes nothing. -/
def State.synTblWrite (s : State) (m v : Nat) : State :=
  s.onWrite m Blk.syn.page 0x108 fun b =>
    let tb := s.g b SYN_TBL_SEL_table
    let i := s.g b SYN_TBL_SEL_index
    let wd := s.g b SYN_TBL_SEL_word
    let t := synTbl tb
    let new := s.storeTw t 0 i wd v
    if !s.synRow m tb i ∨ !new.synRow m tb i then s.denyWrite m b 0x108
    else if 5 < tb ∨ synCount tb ≤ i then s.refuse m b 0x108 .badArg
    else if s.synBarred tb i ∧ (tb = 4 ∨ (fieldsAt t.fields wd).any (·.acc == .rw)) then
      s.refuse m b 0x108 .refusedState
    else if !(fieldsAt t.fields wd).any (·.acc == .rw) then s
    else if !tblOk t wd v ∨ (tb = 3 ∧ segLimit (i % 48 / 16) < bits v 16 13) then
      s.refuse m b 0x108 .badArg
    else new

/-- SYN_TBL_WRITE (R242). -/
def execSynTblWrite (m : Mst) (v : Word) (s : State) : Answer := (s.synTblWrite m.toNat v.toNat).done

/-! ## The wait detector (R246, R247) -/

/-- WAIT_SCAN (R246). -/
def execWaitScan (s : State) : Answer := s.waitScan.done

/-- A write of SYN_WAIT_CLEAR. -/
def State.writeWaitClear (s : State) (m v : Nat) : State :=
  s.onWrite m Blk.syn.page 0x150 fun _ => if bit v 0 then s.waitClear else s

/-- WAIT_CLEAR (R247). -/
def execWaitClear (m : Mst) (v : Word) (s : State) : Answer := (s.writeWaitClear m.toNat v.toNat).done

end Sys2Proof.Machine
end

