-- ==== Sys2Proof/Machine/RegRead.lean ====
section
/-! DEFINITION. What a register reads: the common header, the live detail registers, the child directory, the stored
registers, the computed ones and the table windows, each from the live state or from a frozen page's view (R26, R31 to
R34, R38 to R41, R363, R410). -/

namespace Sys2Proof.Machine

/-! ## Header and directory (R26, R31, R481) -/

/-- The steward page of the die that a page's path names; none where it names no die. -/
def Blk.stewardPage : Blk → Option Blk
  | .dev | .mroot | .fltDev | .pwr | .meshDev | .xbarDev | .wng _ | .fltW _ => none
  | .thx | .pci | .dbg => some (.stwC 0)
  | .chr => some (.stwC 1)
  | .syn => some (.stwC 2)
  | .ccn => some (.stwC 3)
  | .stwC i => some (.stwC i)
  | .brg i | .stwBrg i => some (.stwBrg i)
  | .bse d | .fltB d | .pool d | .meshB d | .stwB d => some (.stwB d)
  | .hbm h => some (.stwB (h / 2))
  | .swt t | .att t | .xbarT t | .stwT t => some (.stwT t)
  | .grp g => some (.stwT (g / 8))
  | .mac a | .stwA a => some (.stwA a)
  | .vec n | .rdx n | .stwV n => some (.stwV n)
  | .die k | .stwL k | .lane k _ => some (.stwL k)

/-- FW_SLOTS of a steward page; the Cocoon's shows its own slots (R434). -/
def State.fwSlots (s : State) (b : Blk) : Nat :=
  if b = .stwC 3 then
    let im := fun i => s.ccn.images.getD i ⟨0, 0, 0, false⟩
    (im 0).rev + (im 1).rev * 2 ^ 16 + s.ccn.slot * 2 ^ 32 + s.ccn.slot * 2 ^ 33 +
      (if s.ccn.trial then 2 else b2n s.ccn.staged.isSome) * 2 ^ 34 + b2n (!s.ccn.trial) * 2 ^ 36
  else s.reg b 0x100

/-- PAGE_VER: the layout, the stepping, the part code, and the running firmware slot of the page's die with its
revision. -/
def State.pageVer (s : State) (b : Blk) : Nat :=
  let fw := match b.stewardPage with
    | none => bits Config.noDieFw.toNat 0 1 + bits Config.noDieFw.toNat 8 16 * 2 ^ 8
    | some w =>
      let v := s.fwSlots w
      bits v 32 1 + (if bits v 32 1 = 1 then bits v 16 16 else bits v 0 16) * 2 ^ 8
  0x0001 + 0xB0 * 2 ^ 16 + 0x0400 * 2 ^ 24 + fw * 2 ^ 40

/-- CAPS (R26, R40, R131, R362, R419). -/
def Blk.caps (b : Blk) : Nat :=
  b2n b.isBrood + 2 + b2n (b != .mroot) * 2 ^ 2 + b2n b.canEvacuate * 2 ^ 3 + b2n b.ownable * 2 ^ 4 +
    b2n (b == .chr || b == .ccn) * 2 ^ 5 + b2n (b == .mroot) * 2 ^ 6 + b.localClasses * 2 ^ 8

/-- The number of directory entries of a page: the multi-device root has one for each member (R31). -/
def State.childCount (s : State) (b : Blk) : Nat :=
  if b = .mroot then s.g .xbarDev XBAR_L3_CFG_devices else b.kids.length

/-- Directory entry `i` of a page (R481). -/
def State.dirEntry (s : State) (b : Blk) (i : Nat) : Nat :=
  if b = .mroot then
    if i < s.childCount b then 0x01 * 2 ^ 14 + 2 ^ 19 + 2 ^ 20 + pathEl 0 i * 2 ^ 21 else 0
  else match b.kids[i]? with
    | none => 0
    | some k =>
      k.page + k.kind * 2 ^ 14 + b2n k.isBrood * 2 ^ 19 +
        (match k.addsElement with | none => 0 | some e => 2 ^ 20 + e * 2 ^ 21) + b2n k.isSteward * 2 ^ 32

/-- A header register (offsets 0x000 to 0x0FF). -/
def State.header (s : State) (b : Blk) (off : Nat) : Nat :=
  match off with
  | 0x000 => s.pageId b
  | 0x008 => s.pageVer b
  | 0x010 => b.caps
  | 0x018 => bits (s.reg b 0x018) 0 4
  | 0x020 => s.stateWord b
  | 0x028 => s.statusWord b
  | 0x030 | 0x040 => 0
  | 0x060 => b.page + 0x7C0 * 2 ^ 14 + 8 * 2 ^ 26
  | 0x068 => s.childCount b
  | 0x070 => if s.childCount b = 0 then 0 else 0x800
  | _ => s.reg b off

/-! ## Registers as stored -/

/-- The bits of a register that a read shows: its fields, but for those that software only writes (R4). -/
def Blk.shown (b : Blk) (off : Nat) : List Fld := ((fieldsAt b.regs off).filter (·.acc != .wo)).map (·.fld)

/-- A register as it is stored. -/
def State.stored (s : State) (b : Blk) (off : Nat) : Nat :=
  let v := s.reg b off
  (b.shown off).foldl (fun w f => putBits w f.lo f.w (bits v f.lo f.w)) 0

/-! ## Secrets (R40) -/

/-- Register `i` of a secret field as it reads: the first two show bytes 0 to 15 of its content's digest. -/
def secretWord (content : List Byte) (i : Nat) : Nat :=
  if i < 2 then ofLeBytes (slice (8 * i) 8 (sha512 content)) else 0

/-- A 66-byte key as its nine registers hold it (R2). -/
def keyContent (k : Nat) : List Byte := fit 72 (leBytes 66 k)

/-! ## Windows (R38) -/

/-- The window of the attach engine's tables (R81): a COLLECTIVE context shows its state and epoch alone. -/
def State.attWindow (s : State) (m t : Nat) : Nat :=
  let a := Blk.att t
  let i := s.g a ATT_TBL_SEL_index
  let w := s.g a ATT_TBL_SEL_word
  let mine : Fld → Tbl → Nat → Bool := fun f tb sc => partRow m (s.t tb sc i f)
  match s.g a ATT_TBL_SEL_table with
  | 0 =>
    if 4096 ≤ i ∨ !(mine attCtx_partition .attCtx 0 || (s.ctxSt i == 0 && s.ctxFor m i)) then 0
    else if s.ctxSt i = 4 then
      let r := resetTab (tabKey .attCtx 0 i w)
      if w = 0 then putBits r 0 3 4 else if w = 1 then putBits r 0 32 (s.ctx i attCtx_epoch) else r
    else s.tw .attCtx 0 i w
  | 1 => if w < 2 ∧ i < 65536 then s.tw .attPath t i w else 0
  | 2 =>
    if 256 ≤ i ∨ 3 ≤ w ∨ (s.tb .attRegion t i attRegion_valid && !mine attRegion_partition .attRegion t) then 0
    else s.tw .attRegion t i w
  | _ => 0

/-- The window of the class tables (R166). -/
def State.clsWindow (s : State) (t : Nat) : Nat :=
  let b := Blk.swt t
  let n := s.g b SWT_CLS_SEL_table
  let i := s.g b SWT_CLS_SEL_index
  if 2 < n ∨ clsCount n ≤ i then 0 else s.tw (clsTbl n) t i (s.g b SWT_CLS_SEL_word)

/-- The window of the limits and occupancies of a base die: a limit entry shows whether its account is lossless. -/
def State.bseWindow (s : State) (d : Nat) : Nat :=
  let b := Blk.bse d
  let i := 256 * s.g b BSE_TBL_SEL_tile + s.g b BSE_TBL_SEL_index
  let n := s.g b BSE_TBL_SEL_table
  if n < 2 then putBits (s.tw (limTbl (n == 1)) d i 0) 56 1 (b2n (s.lossless (acctPort (d, i)) (acctVc (d, i))))
  else bits (s.tw (occTbl (n == 3)) d i 0) 0 62

/-- A rank entry (table 1 of the RDX window), word `w`. -/
def State.rankWord (s : State) (c i w : Nat) : Nat :=
  match (s.rx c).ranks[i]? with
  | none => 0
  | some r =>
    match w with
    | 0 => r.w0
    | 1 => bits r.w1 0 8
    | 2 => r.rxCum + (s.rx c).psn % 2 ^ 24 * 2 ^ 24
    | 3 => r.txCum + r.retx % 2 ^ 24 * 2 ^ 24 + b2n r.failed * 2 ^ 48
    | 4 | 5 => bits r.rxMap (64 * (w - 4)) 64
    | _ => 0

/-- The line slots that a context holds on an engine (R189). -/
def State.slotsOn (s : State) (c n : Nat) : Nat :=
  let d := s.shape c
  if s.sub c ≠ 0 ∧ d.engines.contains n then d.f rdxCtx_window / max 1 d.engines.length else 0

/-- The contexts that hold slots on an engine, in ascending number, one behind the other: the one that line slot `i`
belongs to, and its place there. -/
def State.slotAt (s : State) (n i : Nat) : Option (Nat × Nat) :=
  (s.rdxCtxs.foldl (fun (r : Nat × Option (Nat × Nat)) c =>
    match r.2 with
    | some _ => r
    | none => if i < r.1 + s.slotsOn c n then (r.1, some (c, i - r.1)) else (r.1 + s.slotsOn c n, none)) (0, none)).2

/-- Line slot `i` of an engine (table 2 of the RDX window), word `w`: w0 and w1 the line, then five words an element. -/
def State.slotWord (s : State) (n c k w : Nat) : Nat :=
  match (s.rx c).lines.find? fun l => s.engOf c l.g == n && s.slotOf c l.g == k && s.inWindow c l.g with
  | none => 0
  | some l =>
    match w with
    | 0 => c + l.g % 2 ^ 48 * 2 ^ 12 + 2 ^ 60
    | 1 => l.count % 2 ^ 16 + s.expected c l.g % 2 ^ 16 * 2 ^ 16 + l.leaves % 2 ^ 20 * 2 ^ 32
    | _ =>
      match l.accs[(w - 2) / 5]? with
      | none => 0
      | some a => bits a.sum (64 * ((w - 2) % 5)) 64

/-- The window of a reduction engine's tables (R190, R185). -/
def State.rdxWindow (s : State) (m n : Nat) : Nat :=
  let b := Blk.rdx n
  let c := s.g b RDX_TBL_SEL_ctx
  let i := s.g b RDX_TBL_SEL_index
  let w := s.g b RDX_TBL_SEL_word
  let tb := s.g b RDX_TBL_SEL_table
  if tb = 2 then
    match s.slotAt n i with
    | none => 0
    | some e => if s.rdxRow m e.1 then s.slotWord n e.1 e.2 w else 0
  else if tb = 3 then
    -- the digest of a context that has gone FREE stays its partition's
    if w < 9 ∧ (s.rdxRow m c ∨ s.sub c = 0) ∧ ((vfPart (mst m)).isNone ∨ vfPart (mst m) = some (s.tw .rdxDigest 0 c 9)) then
      s.tw .rdxDigest 0 c w else 0
  else if !s.rdxRow m c then 0
  else match tb with
    | 0 => if w < 8 then s.tw .rdxCtx 0 c w else 0
    | 1 => s.rankWord c i w
    | 4 =>
      if s.rcb c rdxCtx_per_line ∧ s.sub c ≠ 0 ∧ i < s.lpr c then
        (((s.rx c).counts.find? fun e => e.1 == i).map (·.2)).getD 0
      else 0
    | _ => 0

/-- The window of the Roost's tables (R242). -/
def State.synWindow (s : State) (m : Nat) : Nat :=
  let b := Blk.syn
  let tb := s.g b SYN_TBL_SEL_table
  let i := s.g b SYN_TBL_SEL_index
  let w := s.g b SYN_TBL_SEL_word
  if 5 < tb ∨ synCount tb ≤ i ∨ !s.synRow m tb i ∨ (tb = 4 ∧ 4 < w) then 0 else s.tw (synTbl tb) 0 i w

/-- The slot that owns participant entry `i` of the small collectives, where one does. -/
def State.partSlot (s : State) (i : Nat) : Option Nat :=
  (((s.listed .scSlot 0 0).map (·.1)).find? fun k =>
    decide (s.scf k scSlot_part_base ≤ i) && decide (i < s.scf k scSlot_part_base + s.scf k scSlot_participants))

/-- The row filter on the tables of the small collectives: slots and results name a partition (R363). -/
def State.scRow (s : State) (m tb i : Nat) : Bool :=
  match tb with
  | 1 => match s.partSlot i with | none => (vfPart (mst m)).isNone | some k => partRow m (s.scf k scSlot_partition)
  | _ => partRow m (s.scf i scSlot_partition)

/-- The window of the small collectives' tables (R215). -/
def State.scWindow (s : State) (m : Nat) : Nat :=
  let b := Blk.syn
  let i := s.g b SYN_SC_SEL_index
  let w := s.g b SYN_SC_SEL_word
  let tb := s.g b SYN_SC_SEL_table
  if !s.scRow m tb i then 0
  else match tb with
    | 0 => if i < 1024 ∧ w < 2 then s.tw .scSlot 0 i w else 0
    | 1 => if w = 0 then s.tw .scPart 0 i w else 0
    | 2 => if i < 1024 ∧ w < 33 then s.tw .scResult 0 i w else 0
    | _ => 0

/-- The window of the partition entries of the Gang, with its copy of the strict bit (R313, R370). -/
def State.ptWindow (s : State) (m : Nat) : Nat :=
  let b := Blk.mac 0
  let p := s.g b MAC_PT_SEL_partition
  let w := s.g b MAC_PT_SEL_word
  if !partRow m p then 0
  else
    let v := s.tw .macPart 0 p w
    if w = 0 then putBits v 25 1 (s.t .chrPart 0 p chrPart_strict) else v

/-- The window of the training tables (R318). -/
def State.trainWindow (s : State) (m : Nat) : Nat :=
  let b := Blk.mac 0
  let p := s.g b MAC_TRAIN_SEL_partition
  let w := s.g b MAC_TRAIN_SEL_word
  if !partRow m p then 0
  else if s.g b MAC_TRAIN_SEL_table = 1 then (if w < 9 then s.tw .macTrain 0 p w else 0)
  else if w < 4 then s.tw .macLayer 0 (p * 256 + s.g b MAC_TRAIN_SEL_entry) w else 0

/-- A partition entry of the CHR page, word `w`, its secrets as digests (R368, R40). -/
def State.partWord (s : State) (p w : Nat) : Nat :=
  if 48 ≤ w ∧ w < 57 then secretWord (s.entryBytes .chrPart p 48 9) (w - 48)
  else if 64 ≤ w ∧ w < 96 then secretWord (s.entryBytes .chrPart p (w - w % 4) 4) (w % 4)
  else s.tw .chrPart 0 p w

/-- The window of the CHR page's tables. -/
def State.chrWindow (s : State) (m : Nat) : Nat :=
  let i := s.g .chr CHR_TBL_SEL_index
  let w := s.g .chr CHR_TBL_SEL_word
  match s.g .chr CHR_TBL_SEL_table with
  | 0 => if i < 16 ∧ w < 128 ∧ partRow m i then s.partWord i w else 0
  | 1 =>
    if 11 ≤ w ∨ (s.t .chrRegion 0 i chrRegion_owned = 1 ∧ !partRow m (s.t .chrRegion 0 i chrRegion_partition)) then 0
    else s.tw .chrRegion 0 i w
  | 2 => if i < 3 then s.tw .chrCert 0 i w else 0
  | _ => 0

/-- Word `w` of a run of bytes. -/
def byteWord (bs : List Byte) (w : Nat) : Nat := ofLeBytes (slice (8 * w) 8 bs)

/-- The window of the Cocoon's records (R438). -/
def State.ccnWindow (s : State) : Nat :=
  let i := s.g .ccn CCN_REC_SEL_index
  let w := s.g .ccn CCN_REC_SEL_word
  match s.g .ccn CCN_REC_SEL_table with
  | 0 => byteWord (s.ccn.ring.getD i []) w
  | 1 => byteWord (s.ccn.log.getD i []) w
  | 2 => if w < 32 then byteWord (mtrCert (256 * i) 256) w else 0
  | _ => byteWord s.ccn.signed w

/-- CCN_STATUS (R438). -/
def State.ccnStatus (s : State) : Nat :=
  b2n s.ccn.crystal + 2 * b2n (!s.pins.mtrUnseal) + 4 * b2n s.ccn.staged.isSome + s.ccn.updateCount * 2 ^ 32

/-- MAC_GANG_STATUS: the arrays of the Gang, those excluded, and the operations that run. -/
def State.gangStatus (s : State) : Nat :=
  let inGang := s.gangArrays
  let arr := s.gang.ops.find? fun o => o.wait == .run && !o.saved && gangClass o.ins (s.dsc o) == 0
  inGang.foldl (fun v q => v + 2 ^ q) 0 +
    ((upTo 16).filter fun q => s.st (.mac q) == .evacuated).foldl (fun v q => v + 2 ^ (16 + q)) 0 +
    (match arr with | none => 0 | some o => o.part * 2 ^ 32 + 2 ^ 36) +
    b2n (s.gang.ops.any fun o => o.wait == .run && !o.saved && gangClass o.ins (s.dsc o) == 1) * 2 ^ 37

/-- The lane-milliseconds lost on every SerDes die (R422). -/
def State.lostSum (s : State) (f : Fld) : Nat :=
  min (2 ^ 48 - 1) ((upTo 16).foldl (fun v k => v + s.g (.die k) f) 0)

/-- The registers that are windows onto tables (R38). -/
def Blk.isWindow (b : Blk) (off : Nat) : Bool :=
  match b with
  | .att _ => off == 0x118
  | .swt _ => off == 0x208 || (0x118 ≤ off && off < 0x138)
  | .bse _ | .rdx _ => off == 0x120
  | .xbarDev => off == 0x328 || off == 0x358
  | .syn => off == 0x108 || off == 0x410
  | .mac _ => off == 0x220 || off == 0x308
  | .chr => off == 0x1C8
  | .ccn => off == 0x118
  | .pwr => off == 0x208
  | _ => false

/-- The registers of array dies other than the first: the Gang's show there, read-only (chapter 11). -/
def gangShown (off : Nat) : Bool := (0x200 ≤ off && off < 0x248) || (0x300 ≤ off && off < 0x320)

/-- The external lanes of a tile: the powered lanes of its logical ports on enabled groups that are no brood links (R120). -/
def State.externalLanes (s : State) (t : Nat) : Nat :=
  (upTo 32).foldl (fun n i =>
    let port := 32 * t + i
    if s.portExists port && s.gb (.grp (portGroup port)) CTRL_enable && !(s.broodPorts t).contains port then
      n + ((s.portLanes port).filter fun l => s.gb (.lane l.1 l.2) LNK_LANE_CTRL_power).length
    else n) 0

/-- The brood links of some tile are too few for the full rate of its external lanes (R120). -/
def State.undersized (s : State) : Bool :=
  let d := s.devices
  decide (1 < d) && (upTo 32).any fun t =>
    decide (s.g .xbarDev XBAR_L3_CFG_brood_lanes * 1602 * d < 4000 * s.externalLanes t * (d - 1))

/-- A block-specific register (offsets 0x100 to 0x73F, and the access table) as it reads for a requester. -/
def State.blockWord (s : State) (m : Nat) (b : Blk) (off : Nat) : Nat :=
  match b, off with
  | .att t, 0x118 => s.attWindow m t
  | .swt t, 0x208 => s.clsWindow t
  | .bse d, 0x120 => s.bseWindow d
  | .rdx n, 0x120 => s.rdxWindow m n
  | .meshB d, 0x128 => s.bridgeCredits d
  | .xbarDev, 0x130 => putBits (s.stored .xbarDev 0x130) 0 1 (b2n s.undersized)
  | .xbarDev, 0x328 => s.tw .xbarCyc 0 (s.g .xbarDev XBAR_RL_CYC_SEL_index) 0
  | .xbarDev, 0x358 => s.tw .xbarWf 0 (s.g .xbarDev XBAR_WF_SEL_index) (s.g .xbarDev XBAR_WF_SEL_word)
  | .syn, 0x108 => s.synWindow m
  | .syn, 0x410 => s.scWindow m
  | .pwr, 0x208 => s.tw .pmb 0 (s.g .pwr PWR_PMB_SEL_entry) 0
  | .ccn, 0x100 => s.ccnStatus
  | .ccn, 0x118 => s.ccnWindow
  | .stwC 3, 0x100 => s.fwSlots (.stwC 3)
  | .chr, 0x1C8 => s.chrWindow m
  | .fltDev, 0x140 => s.lostSum LNK_LOST_FAULT_lane_ms
  | .fltDev, 0x148 => s.lostSum LNK_LOST_OTHER_lane_ms
  | .vec n, 0x118 => 32768 - s.g (.rdx n) RDX_VS_LIMIT_kib
  | .lane k n, 0x120 =>
    let sel := s.g (.lane k n) LNK_RX_FFE_sel
    sel + bits (s.reg (.lane k n) (0x1118 + 8 * (sel / 8))) (8 * (sel % 8)) 8 * 2 ^ 8
  | .mac a, off =>
    if off = 0x100 then a + b2n (s.gangArrays.contains a) * 2 ^ 4
    else if off = 0x208 then s.gangStatus
    else if off = 0x220 then s.ptWindow m
    else if off = 0x308 then s.trainWindow m
    else if gangShown off then s.stored (.mac 0) off
    else s.stored b off
  | .chr, off =>
    if 0x440 ≤ off ∧ off < 0x488 then secretWord (keyContent Config.pufKey) ((off - 0x440) / 8)
    else if 0x488 ≤ off ∧ off < 0x4D0 then secretWord (keyContent s.sec.aliasKey) ((off - 0x488) / 8)
    else s.stored b off
  | .ccn, off =>
    if 0x200 ≤ off ∧ off < 0x248 then secretWord (keyContent Config.mtrKey) ((off - 0x200) / 8) else s.stored b off
  | .stwC 3, off =>
    if 0x140 ≤ off ∧ off < 0x1C0 then
      bits (s.ccn.images.getD ((off - 0x140) / 0x40) ⟨0, 0, 0, false⟩).digest (64 * ((off - 0x140) / 8 % 8)) 64
    else s.stored b off
  | _, _ => s.stored b off

/-! ## Live and frozen views (R33, R34, R41, R410) -/

/-- The state with the parts that a view holds in place of its own. -/
def State.under (s : State) (v : View) : State :=
  { s with
    regs := v.regs, tabs := v.tabs, rcxs := v.rcxs, scs := v.scs, gang := v.gang, ccn := v.ccn, pins := v.pins
    caches := v.caches, sec := v.sec, mesh := v.mesh }

/-- What a page's registers and windows show: the state as it stood at the capture while the page is frozen. -/
def State.view (s : State) (b : Blk) : State :=
  if s.gb b STATE_frozen then
    match s.views.find? fun v => v.page == b.page with
    | none => s
    | some v => s.under v
  else s

/-- The table windows of a page have lost their view (R34). -/
def State.lostView (s : State) (b : Blk) (off : Nat) : Bool := b.isWindow off && s.gb b STATE_freeze_overrun

/-- A register of a page, for a requester whose read is granted. The header, the error details and the directory are
live; a power-gated block's own registers read zero. -/
def State.value (s : State) (m : Nat) (b : Blk) (off : Nat) : Nat :=
  if off < 0x100 then s.header b off
  else if s.gb b STATE_unpowered ∨ s.lostView b off then 0
  else if 0x740 ≤ off ∧ off < 0x760 then s.stored b off
  else if 0x760 ≤ off ∧ off < 0x780 then s.errChild b ((off - 0x760) / 8)
  else if 0x7C0 ≤ off ∧ off < 0x800 then (s.view b).reg b off
  else if 0x800 ≤ off then s.dirEntry b ((off - 0x800) / 8)
  else (s.view b).blockWord m b off

/-- A read of a register by a requester: the word, the code, and the state. A denied read answers zero and counts
(R39); an index with no page reads zero (R25). -/
def State.regRead (s : State) (m pg off : Nat) : Code × Nat × State :=
  match s.blk pg with
  | none => (.ok, 0, s)
  | some b =>
    if !s.mayRead m b off then (.denied, 0, s.inc b DENIED_ACCESSES_count)
    else (if s.lostView b off then .notReady else .ok, s.value m b off % 2 ^ 64, s)

end Sys2Proof.Machine
end

