-- ==== Sys2Proof/Machine/Routes.lean ====
section
/-! DEFINITION. The route loader's commands (R177 to R181). -/

namespace Sys2Proof.Machine

/-- An image's bytes lie in memory: below the top of HBM, or within bit 51 of a host address space (R181). -/
def imageFits (host : Bool) (a n : Nat) : Bool := decide (a + n ≤ if host then 2 ^ 52 else hbmTop)

/-- What a command of the loader finds (R178, R181): its code, its detail, the cycle and the image. -/
def State.readImage (s : State) (m : Nat) : Code × Nat × List REdge × List Byte :=
  let b := Blk.xbarDev
  let host := s.gb b XBAR_RL_ADDR_host
  let a := s.g b XBAR_RL_ADDR_addr
  let fn := masterFn (mst m)
  if !s.imageMay m host a rHeader then (.denied, 0, [], [])
  else if a % 8 ≠ 0 ∨ !imageFits host a rHeader then (.badArg, 6, [], [])
  else
    let h := s.readBuf fn host 0 a rHeader
    if headerDetail h ≠ 0 then (.badArg, headerDetail h, [], [])
    else if !imageFits host a (rLength h) then (.badArg, 6, [], [])
    else if !s.imageMay m host a (rLength h) then (.denied, 0, [], [])
    else
      let bs := s.readBuf fn host 0 a (rLength h)
      let r := s.checkImage bs
      (r.1, r.2.1, r.2.2, bs)

/-- What XBAR_RL_STATUS shows of a cycle and a detail. -/
def rlShow (cyc : List REdge) (detail : Nat) : Nat :=
  min 64 cyc.length * 2 ^ 9 + b2n (decide (64 < cyc.length)) * 2 ^ 16 + detail * 2 ^ 24

/-- A write of XBAR_RL_CMD: the image is read and checked, a LOAD that passes writes its share, and the status follows
in a step of its own (R178, R180, R181). -/
def State.rlCommand (s : State) (m v : Nat) : State :=
  s.onWrite m Blk.xbarDev.page 0x308 fun b =>
    let op := bits v 0 2
    if s.gb b XBAR_RL_STATUS_busy then s.refuse m b 0x308 .refusedState
    else if op = 0 ∨ op = 3 then (s.showCycle []).refuseOp m b 0x308 0x310
    else
      let (c, detail, cyc, bs) := s.readImage m
      let s := if c = .denied then s.memDenied else s
      let s := if c = .ok ∧ op = 2 then s.loadImage bs else s
      let s := s.showCycle cyc
      (s.setBusy b 0x310).addJob ⟨.routeLoad, b.page, 0x310, c, rlShow cyc detail, m + b2n (op == 2) * 2 ^ 16, m⟩

/-- XBAR_RL_CMD CHECK (R178). -/
def execCheck (m : Mst) (v : Word) (s : State) : Answer := (s.rlCommand m.toNat v.toNat).done

/-- XBAR_RL_CMD LOAD (R181). -/
def execLoad (m : Mst) (v : Word) (s : State) : Answer := (s.rlCommand m.toNat v.toNat).done

/-- A command of the loader completes (R180, R181, R233): its status, its refusal, and flag 1 after a LOAD that
passed. -/
def State.rlDone (s : State) : State :=
  let b := Blk.xbarDev
  match s.job .routeLoad b.page 0x310 with
  | none => s
  | some j =>
    let s := (s.dropJob .routeLoad b.page 0x310).finish b 0x310 j.code
    let s := s.setReg b 0x310 (s.reg b 0x310 + j.a)
    let s := if j.code.refuses then s.refuse (j.b % 2 ^ 16) b 0x308 j.code else s
    let s := if j.code = .badArg then s.raise b cROUTE_REFUSED else s
    if j.code = .ok ∧ 2 ^ 16 ≤ j.b then s.sysFlag 1 true else s

/-- ROUTE_LOAD_DONE (R180). -/
def execRouteLoadDone (s : State) : Answer := s.rlDone.done

end Sys2Proof.Machine
end

