-- ==== Sys2Proof/Machine/Tables.lean ====
section
/-! DEFINITION. The forwarding tables and the commands of the staging window of a switch tile (R109 to R111). -/

namespace Sys2Proof.Machine

/-- The tables of the staging window, by number (R109). -/
def stageTbl : Nat → Option Tbl
  | 0 => some .swtMac | 1 => some .swtLpm | 2 => some .swtHop | 3 => some .swtEcmp | 4 => some .swtEcmpMem
  | 5 => some .swtRoute | 6 => some .swtRouteSet | 7 => some .swtMcast | 8 => some .swtMask | 9 => some .swtVlan
  | 10 => some .swtPort | 11 => some .swtPortVc | 12 => some .swtDscp | _ => none

/-- The entries of a table of the staging window, per tile for tables 10 to 12. -/
def stageCount (n : Nat) : Nat :=
  [524288, 262144, 65536, 4096, 65536, 1048576, 4096, 65536, 131072, 4096, 32, 256, 64].getD n 0

/-- The words of an entry. -/
def stageWords (n : Nat) : Nat := [2, 3, 2, 1, 1, 1, 3, 1, 1, 1, 1, 1, 1].getD n 0

/-- The scope of a table reached through tile `t`: tables 10 to 12 are the tile's own. -/
def stageScope (n t : Nat) : Nat := if 10 ≤ n then t else 0

/-- The staging words of a tile, as a table's entry holds them: reserved bits are ignored (R7). -/
def State.staged (s : State) (t n : Nat) : List Nat :=
  match stageTbl n with
  | none => []
  | some tb => (upTo (stageWords n)).map fun w => tblAfter tb w 0 (s.reg (.swt t) (0x118 + 8 * w))

/-- An LPM entry's length is within its address family (R110). -/
def lpmLenOk (ws : List Nat) : Bool :=
  decide (bits (ws.getD 2 0) 0 8 ≤ if bit (ws.getD 2 0) 8 then 128 else 32)

/-- An LPM entry takes a pair of slots: IPv6 of length 65 to 128. -/
def lpmLong (ws : List Nat) : Bool := bit (ws.getD 2 0) 8 && decide (64 < bits (ws.getD 2 0) 0 8)

/-- The key of an LPM entry: family, length and the prefix bits that count. -/
def lpmKey (ws : List Nat) : Bool × Nat × Nat :=
  let len := bits (ws.getD 2 0) 0 8
  let v6 := bit (ws.getD 2 0) 8
  (v6, len, if v6 then (ws.getD 0 0 * 2 ^ 64 + ws.getD 1 0) / 2 ^ (128 - len) else bits (ws.getD 1 0) 0 32 / 2 ^ (32 - len))

/-- A staged entry holds no reserved value (R7, R109, R110, R157). -/
def stagedOk (n : Nat) (ws : List Nat) : Bool :=
  match n with
  | 0 => bits (ws.getD 1 0) 0 2 != 3
  | 1 => bits (ws.getD 2 0) 10 2 != 3 && lpmLenOk ws
  | 3 => decide (1 ≤ bits (ws.getD 0 0) 16 9) && decide (bits (ws.getD 0 0) 16 9 ≤ 256)
  | 10 => bits (ws.getD 0 0) 14 2 != 3 && bits (ws.getD 0 0) 16 3 != 6
  | 12 => bits (ws.getD 0 0) 0 3 != 6
  | _ => true

/-- The words of slot `i` of the LPM table. -/
def State.lpmAt (s : State) (i : Nat) : List Nat := s.entry .swtLpm 0 i 3

/-- Slot `i` of the LPM table holds a valid entry that takes the next slot too. -/
def State.lpmPair (s : State) (i : Nat) : Bool := s.tb .swtLpm 0 i swtLpm_valid && lpmLong (s.lpmAt i)

/-- The slots of the LPM table in use, in ascending order. -/
def State.lpmUsed (s : State) : List Nat :=
  ((s.listed .swtLpm 0 2).filter fun e => bit e.2 9).flatMap fun e => if s.lpmPair e.1 then [e.1, e.1 + 1] else [e.1]

/-- The lowest number from `n` up that an ascending list leaves free. -/
def firstFree (n : Nat) : List Nat → Nat
  | [] => n
  | x :: l => if x < n then firstFree n l else if x = n then firstFree (n + 1) l else n

/-- The slot that holds an LPM key. -/
def State.lpmSlot (s : State) (ws : List Nat) : Option Nat :=
  ((s.listed .swtLpm 0 2).find? fun e => bit e.2 9 && lpmKey (s.lpmAt e.1) == lpmKey ws).map (·.1)

/-- What a table command answers: its code, the index that it reports or reads, and the next state. -/
abbrev TblAns := Code × Option Nat × State

/-- INSERT, DELETE and FIND on the MAC table (R110). -/
def State.macCmd (s : State) (op : Nat) (ws : List Nat) : TblAns :=
  let key := bits (ws.getD 0 0) 0 60
  match op, s.macFind key with
  | 3, some i => (.ok, some i, s.setEntry .swtMac 0 i [key + 2 ^ 60, ws.getD 1 0])
  | 3, none =>
    match (macWays key).find? fun i => !s.tb .swtMac 0 i swtMac_valid with
    | none => (.noResource, none, s)
    | some i => (.ok, some i, s.setEntry .swtMac 0 i [key + 2 ^ 60, ws.getD 1 0])
  | _, none => (.badArg, none, s)
  | 4, some i => (.ok, none, s.setEntry .swtMac 0 i [0, 0])
  | _, some i => (.ok, some i, s)

/-- INSERT, DELETE and FIND on the LPM table (R110). -/
def State.lpmCmd (s : State) (op : Nat) (ws : List Nat) : TblAns :=
  let new := [ws.getD 0 0, ws.getD 1 0, putBits (ws.getD 2 0) 9 1 1]
  match op, s.lpmSlot ws with
  | 3, some i => (.ok, some i, s.setEntry .swtLpm 0 i new)
  | 3, none =>
    let i := if lpmLong ws then 2 * firstFree 0 (s.lpmUsed.map (· / 2)) else firstFree 0 s.lpmUsed
    if i < 262144 then (.ok, some i, s.setEntry .swtLpm 0 i new) else (.noResource, none, s)
  | _, none => (.badArg, none, s)
  | 4, some i => (.ok, none, s.setEntry .swtLpm 0 i [0, 0, 0])
  | _, some i => (.ok, some i, s)

/-- A WRITE of an LPM entry breaks the slot layout (R110): an odd slot for a pair, a pair whose odd slot holds another
entry, or the odd slot of a pair that is held (assumption 175). -/
def State.lpmMisplaced (s : State) (i : Nat) (ws : List Nat) : Bool :=
  (lpmLong ws && (i % 2 == 1 || s.tb .swtLpm 0 (i + 1) swtLpm_valid)) || (i % 2 == 1 && s.lpmPair (i - 1))

/-- A table command on table `n` at an index through tile `t` (R109, R110): its code, what it reports, its effect. The
entry is in every copy at once: each copy is the one table (R111). -/
def State.tblAct (s : State) (t op n i : Nat) : TblAns :=
  let ws := s.staged t n
  match stageTbl n with
  | none => (.badArg, none, s)
  | some tb =>
    if (n = 5 ∨ n = 6) ∧ (op = 2 ∨ op = 3 ∨ op = 4) then (.refusedState, none, s)
    else if op = 1 ∨ op = 2 then
      if stageCount n ≤ i then (.badArg, none, s)
      else if op = 1 then (.ok, some (if n = 1 ∧ i % 2 = 1 ∧ s.lpmPair (i - 1) then i - 1 else i), s)
      else if !stagedOk n ws ∨ (n = 1 ∧ s.lpmMisplaced i ws) then (.badArg, none, s)
      else (.ok, none, s.setEntry tb (stageScope n t) i ws)
    else if 2 ≤ n then (.badArg, none, s)
    else if !stagedOk n ws ∧ (op = 3 ∨ (n = 1 ∧ !lpmLenOk ws)) then (.badArg, none, s)
    else if n = 0 then s.macCmd op ws
    else s.lpmCmd op ws

/-- A command with a reserved op completes with BAD_ARG (R7); the index of the status stays. -/
def State.tblRefuse (s : State) (m : Nat) (b : Blk) : State :=
  (s.refuseOp m b 0x108 0x110).p b SWT_TBL_STATUS_index (s.g b SWT_TBL_STATUS_index)

/-- A write of SWT_TBL_CMD (R109, R111): the entries change, and the status follows in a step of its own. -/
def State.tblCommand (s : State) (m t v : Nat) : State :=
  s.onWrite m (Blk.swt t).page 0x108 fun b =>
    let op := bits v 0 3
    if s.gb b SWT_TBL_STATUS_busy then s.refuse m b 0x108 .refusedState
    else if op = 0 ∨ 5 < op then s.tblRefuse m b
    else
      let n := s.g b SWT_TBL_SEL_table
      let x := s.g b SWT_TBL_SEL_index
      let (c, i, s) := s.tblAct t op n x
      let s := if c = .ok ∧ (op = 2 ∨ op = 3) then s.mendCopies n (i.getD x) else s
      let s := if c.refuses then s.refuse m b 0x108 c else s
      (s.setBusy b 0x110).addJob ⟨.swtTable, b.page, 0x110, c, op + 8 * n, i.getD (2 ^ 21), m⟩

/-- SWT_TBL_CMD READ (R109). -/
def execTblCmdRead (m : Mst) (t : TileNo) (v : Word) (s : State) : Answer := (s.tblCommand m.toNat t.toNat v.toNat).done

/-- SWT_TBL_CMD WRITE (R109). -/
def execTblCmdWrite (m : Mst) (t : TileNo) (v : Word) (s : State) : Answer := (s.tblCommand m.toNat t.toNat v.toNat).done

/-- SWT_TBL_CMD INSERT (R110). -/
def execTblCmdInsert (m : Mst) (t : TileNo) (v : Word) (s : State) : Answer := (s.tblCommand m.toNat t.toNat v.toNat).done

/-- SWT_TBL_CMD DELETE (R110). -/
def execTblCmdDelete (m : Mst) (t : TileNo) (v : Word) (s : State) : Answer := (s.tblCommand m.toNat t.toNat v.toNat).done

/-- SWT_TBL_CMD FIND (R110). -/
def execTblCmdFind (m : Mst) (t : TileNo) (v : Word) (s : State) : Answer := (s.tblCommand m.toNat t.toNat v.toNat).done

/-- The words of an entry written to the staging words of a tile. -/
def State.toStage (s : State) (t n i : Nat) : State :=
  match stageTbl n with
  | none => s
  | some tb => (upTo (stageWords n)).foldl (fun s w =>
      s.setReg (.swt t) (0x118 + 8 * w) ((s.copyOf (t / 4)).tw tb (stageScope n t) i w)) s

/-- A table command completes (R111): a READ or FIND writes the staging words, and the status shows the code and the
index of an INSERT or FIND. -/
def State.tblDone (s : State) (t : Nat) : State :=
  let b := Blk.swt t
  match s.job .swtTable b.page 0x110 with
  | none => s
  | some j =>
    let op := j.a % 8
    let s := s.dropJob .swtTable b.page 0x110
    let s := if j.code = .ok ∧ (op = 1 ∨ op = 5) then s.toStage t (j.a / 8) j.b else s
    let old := s.g b SWT_TBL_STATUS_index
    let s := s.finish b 0x110 j.code
    s.p b SWT_TBL_STATUS_index (if j.code = .ok ∧ (op = 3 ∨ op = 5) then j.b else old)

/-- A table command completes (R111). -/
def execTblCmdDone (t : TileNo) (s : State) : Answer := .next (s.tblDone t.toNat)

end Sys2Proof.Machine
end

