-- ==== Sys2Proof/Machine/Timing.lean ====
section
/-! DEFINITION. The stage monitors and the alignment of the crossings (R337, R350 to R356). -/

namespace Sys2Proof.Machine

/-- A stage-monitor window ends on a switch tile or a vector die (R337). -/
def State.stageWindow (s : State) (b : Blk) (off count : Nat) : State :=
  s.setReg b off (bits count 0 32 + (bits (s.reg b off) 32 16 + 1) % 2 ^ 16 * 2 ^ 32)

/-- STAGE_MON_WINDOW (R337): a tile counts its own REFCLK's cycles, a vector die those of tile S(2v) of its base die; without
that clock no window ends (R471). -/
def execStageMonWindow (pg : Pg) (count : BitVec 32) (s : State) : Answer :=
  .next (match s.blk pg.toNat with
    | some (.swt t) => if s.tileClock t then s.stageWindow (.swt t) SWT_STAGE_MON_count.off count.toNat else s
    | some (.vec n) => if s.tileClock (2 * n) then s.stageWindow (.vec n) VEC_STAGE_MON_count.off count.toNat else s
    | _ => s)

/-- The alignment protocol runs on both crossings of a page; a lane in OFF has no receive clock, and only its transmit
crossing aligns (R355). -/
def State.realign (s : State) (b : Blk) : State :=
  match b with
  | .lane _ _ => if s.st b = .off then s.alignXing b 1 else (s.alignXing b 0).alignXing b 1
  | _ => (s.alignXing b 0).alignXing b 1

/-- A write of XING_CTRL (R355). -/
def State.writeXing (s : State) (m pg v : Nat) : State :=
  match s.blk pg with
  | none => s
  | some b =>
    if !b.hasXing then s
    else s.onWrite m pg 0x700 fun b =>
      if bit v 0 = false then s
      else if s.st b = .off ∨ s.st b = .quiesced ∨ s.st b = .evacuated then s.realign b
      else s.refuse m b 0x700 .refusedState

/-- REALIGN (R355). -/
def execRealign (m : Mst) (pg : Pg) (v : Word) (s : State) : Answer := (s.writeXing m.toNat pg.toNat v.toNat).done

/-- The classes of a crossing's slip and of its failed alignment, on each kind of page. -/
def slipCls : Blk → Cls
  | .lane _ _ => cXING_SLIP_lane | .hbm _ => cXING_SLIP_hbm | _ => cXING_SLIP_pci
def alignFailCls : Blk → Cls
  | .lane _ _ => cXING_ALIGN_FAIL_lane | .hbm _ => cXING_ALIGN_FAIL_hbm | _ => cXING_ALIGN_FAIL_pci

/-- A crossing of a page slips: it realigns (R354). -/
def State.xingSlip (s : State) (b : Blk) : State :=
  if b.hasXing then ((s.inc b XING_SLIPS_count).inc b XING_REALIGNS_count).raise b (slipCls b) else s

/-- XING_SLIP (R354). -/
def execXingSlip (pg : Pg) (s : State) : Answer :=
  (match s.blk pg.toNat with
    | none => s
    | some b => s.xingSlip b).done

/-- An alignment of a page does not complete (R356): one of its crossings carries nothing. Which one is a free value. -/
def State.xingFail (s : State) (b : Blk) : State :=
  if b.hasXing then
    let r := s.draw
    (r.2.p b (XING_STATUS_aligned.at (8 * (r.1 % 2))) 0).raise b (alignFailCls b)
  else s

/-- XING_ALIGN_FAIL (R356). -/
def execXingAlignFail (pg : Pg) (s : State) : Answer :=
  (match s.blk pg.toNat with
    | none => s
    | some b => s.xingFail b).done

end Sys2Proof.Machine
end

