-- ==== Sys2Proof/Machine/RegWrite.lean ====
section
/-! DEFINITION. A write of a register: the registers that act on what is written, the windows, and the plain registers
with the state rules and value rules of the chapters (R4 to R7, R28, R479). -/

namespace Sys2Proof.Machine

/-! ## Plain registers -/

/-- A field that its lock bit holds (R5). -/
def State.locked (s : State) (b : Blk) (off : Nat) (d : FDesc) : Bool :=
  match d.acc with
  | .rwl lo bt => bit (s.reg b (lo + (off - d.fld.off) / d.stride * d.stride)) bt
  | _ => false

/-- An index of a window's selection register lies outside the range that its table gives. -/
def selBad (b : Blk) (off v : Nat) : Bool :=
  match b, off with
  | .att _, 0x110 => decide ([4096, 65536, 256].getD (bits v 0 2) 0 ≤ bits v 2 20)
  | .swt _, 0x200 => decide ([32, 256, 512].getD (bits v 0 2) 0 ≤ bits v 2 9)
  | .rdx _, 0x118 => bits v 0 3 == 1 && decide (1024 ≤ bits v 15 28)
  | .chr, 0x1C0 => decide ([16, 1024, 3].getD (bits v 0 2) 0 ≤ bits v 2 10)
  | _, _ => false

/-- Some switch tile is not OFF (R132). -/
def State.tilesUp (s : State) : Bool := (upTo 32).any fun t => s.st (.swt t) != .off

/-- The lanes of the ports of tile `t` that a word of XBAR_L3_LINKS lists, each port at its own width. -/
def State.linkLanes (s : State) (t links : Nat) : Nat :=
  (upTo 32).foldl (fun n i =>
    if bit links i && s.portExists (32 * t + i) then n + (s.portLanes (32 * t + i)).length else n) 0

/-- The value rules of XBAR_L3_CFG (R132). -/
def State.l3Bad (s : State) (v : Nat) : Bool :=
  let d := bits v 0 4
  let lanes := bits v 7 5
  decide (d ≤ bits v 4 3) || (if d = 1 then lanes != 0 else lanes % (d - 1) != 0) ||
    (upTo 32).any fun t => s.linkLanes t (s.reg .xbarDev (0x180 + 8 * t)) != lanes

/-- A fabric address is that of a TLINK_ATTACH group not in OFF (R65). -/
def State.addrTaken (s : State) (addr : Nat) : Bool :=
  (upTo 256).any fun g => s.pers g == .tlinkAttach && s.st (.grp g) != .off && s.grpAddr g == addr

/-- The place of an attach engine's register among those of a port group: the group, and the offset in its block. -/
def attGroup (t off : Nat) : Option (Nat × Nat) :=
  if 0x200 ≤ off ∧ off < 0x400 then some (8 * t + (off - 0x200) / 0x40, (off - 0x200) % 0x40) else none

/-- The rings of a word of PCI_RING_OWNER whose owner a write changes. -/
def State.newOwners (s : State) (off v : Nat) : List (Nat × Nat) :=
  let k := (off - 0x108) / 8
  (upTo 8).filterMap fun r =>
    if bits v (8 * r) 5 = bits (s.reg .pci off) (8 * r) 5 then none else some (8 * k + r, bits v (8 * r) 5)

/-- The owner of a ring (R446). -/
def State.ringOwner (s : State) (r : Nat) : Nat := bits (s.reg .pci (0x108 + 8 * (r / 8))) (8 * (r % 8)) 5

/-- The rings that a function owns, in ascending number. -/
def State.ringsOf (s : State) (fn : Nat) : List Nat := (upTo 64).filter fun r => s.ringOwner r == fn

/-- The state rules of a plain register. -/
def State.plainBarred (s : State) (b : Blk) (off v : Nat) : Bool :=
  match b with
  | .att t =>
    match attGroup t off with
    | some (g, 0) | some (g, 8) => s.st (.grp g) != .off
    | _ => false
  | .xbarDev =>
    if off = 0x100 then bits v 0 1 != s.g b XBAR_CFG_pattern && s.tilesUp
    else (off == 0x128 || (0x180 ≤ off && off < 0x280)) && s.tilesUp
  | .pool _ => (off == 0x100 || off == 0x108 || (0x110 ≤ off && off < 0x140)) && s.st b != .off
  | .pci => decide (0x108 ≤ off ∧ off < 0x148) && (s.newOwners off v).any fun e => s.tb .ring 0 e.1 ring_enable
  | _ => false

/-- The value rules of a plain register, beside the rules of its fields. `new` is the state after the write. -/
def State.plainBad (s new : State) (b : Blk) (off v : Nat) : Bool :=
  selBad b off v || match b with
  | .att t =>
    match attGroup t off with
    | some (_, 0) => bits v 0 20 == 0xFFFFF
    | some (_, 8) =>
      let shares := (upTo 8).map fun i => bits v (8 * i) 8
      decide (256 < shares.foldl (· + ·) 0) || shares.any (· < 4)
    | _ => false
  | .xbarDev => off == 0x128 && s.l3Bad v
  | .rdx n => n == 0 && off == 0x100 && bit v 20 && s.addrTaken (bits v 0 20)
  | .syn => off == 0x400 && bit v 20 && s.addrTaken (bits v 0 20)
  | .pool d =>
    if off = 0x100 ∨ off = 0x108 then
      let base := new.reg b 0x100
      decide (base < d * 72 * 10 ^ 9) || decide ((d + 1) * 72 * 10 ^ 9 < base + new.reg b 0x108)
    else decide (0x110 ≤ off ∧ off < 0x140 ∧ 2 ^ 24 < bits v 0 25)
  | .pwr => off == 0x130 && (bits v 0 10 % 5 != 0 || bits v 16 10 % 5 != 0)
  | .pci =>
    if 0x108 ≤ off ∧ off < 0x148 then
      (s.newOwners off v).any fun e => decide (16 < e.2) || (e.2 != 0 && decide (4 < (new.ringsOf e.2).length))
    else false
  | _ => false

/-- What a plain register's new value brings with it: the store budget of its die (R176), and the rails below their
set-points (R402). -/
def State.plainAfter (s : State) (b : Blk) (off : Nat) : State :=
  match b with
  | .bse d => if off = 0x100 then s.checkBudget d else s
  | .pwr => if off = 0x130 then (s.clampRail true).clampRail false else s
  | _ => s

/-- A register that shows another page's value, read-only: the Gang's registers on the later array dies' pages, and
RDX_ADDR but on the first engine's page. -/
def showOnly (b : Blk) (off : Nat) : Bool :=
  match b with
  | .mac a => a != 0 && gangShown off
  | .rdx n => n != 0 && off == 0x100
  | _ => false

/-- The registers of a command slot of the Chrysalis, which only the slot's own function writes (R381). -/
def slotDenied (m : Nat) (b : Blk) (off : Nat) : Bool :=
  b == .chr && decide (0x200 ≤ off ∧ off < 0x420) &&
    (let slot := (off - 0x200) / 0x20
     mst m != if slot = 0 then 0x10 else 0x10 + slot)

/-- A write of a plain register (R479): the rules in their order, then the fields as R4 says. -/
def State.writePlain (s : State) (m pg off v : Nat) : State :=
  s.onWrite m pg off fun b =>
    let ds := (fieldsAt b.regs off).filter fun d => !s.locked b off d
    let new := s.store b off v
    if slotDenied m b off then s.refuse m b off .denied
    else if showOnly b off then s
    else if s.plainBarred b off v then s.refuse m b off .refusedState
    else if !fieldsOk ds v ∨ s.plainBad new b off v then s.refuse m b off .badArg
    else (new.countRedundant b off (v &&& s.reg b off)).plainAfter b off

/-! ## Windows and registers of their own -/

/-- A write of the window of a reduction engine: a count of the count table (R214), and nothing else. -/
def State.rdxTblWrite (s : State) (m n v : Nat) : State :=
  s.onWrite m (Blk.rdx n).page 0x120 fun b =>
    let c := s.g b RDX_TBL_SEL_ctx
    let i := s.g b RDX_TBL_SEL_index
    if s.g b RDX_TBL_SEL_table ≠ 4 then s
    else if !s.rdxRow m c then s.denyWrite m b 0x120
    else if s.sub c ≠ 0 ∧ s.rcb c rdxCtx_per_line ∧ i < s.lpr c then
      let x := s.rx c
      s.setRx c { x with counts := (x.counts.filter fun e => e.1 != i) ++ [(i, bits v 0 16)] }
    else s

/-- A write of the window of the small collectives: a slot while it is closed, or a participant (R215). -/
def State.scTblWrite (s : State) (m v : Nat) : State :=
  s.onWrite m Blk.syn.page 0x410 fun b =>
    let tb := s.g b SYN_SC_SEL_table
    let i := s.g b SYN_SC_SEL_index
    let t := if tb = 0 then Tbl.scSlot else Tbl.scPart
    let new := s.storeTw t 0 i 0 v
    if 2 ≤ tb ∨ s.g b SYN_SC_SEL_word ≠ 0 ∨ (tb = 0 ∧ 1024 ≤ i) then s
    else if !s.scRow m tb i ∨ !new.scRow m tb i then s.denyWrite m b 0x410
    else if tb = 0 ∧ s.tb .scSlot 0 i scSlot_open then s.refuse m b 0x410 .refusedState
    else if !tblOk t 0 v ∨ (tb = 0 ∧ bit v 9 ∧ 8 < bits v 11 5) then s.refuse m b 0x410 .badArg
    else new

/-- A write of the window of the CHR page's tables: the context range of a partition, by the physical function alone. -/
def State.chrTblWrite (s : State) (m v : Nat) : State :=
  s.onWrite m Blk.chr.page 0x1C8 fun b =>
    if s.g b CHR_TBL_SEL_table ≠ 0 ∨ s.g b CHR_TBL_SEL_word ≠ 2 then s
    else if mst m ≠ 0x10 then s.denyWrite m b 0x1C8
    else if !tblOk .chrPart 2 v then s.refuse m b 0x1C8 .badArg
    else s.storeTw .chrPart 0 (s.g b CHR_TBL_SEL_index) 2 v

/-- A write of an entry of the regulator map (R459). -/
def State.pmbWrite (s : State) (m v : Nat) : State :=
  s.onWrite m Blk.pwr.page 0x208 fun b =>
    if !tblOk .pmb 0 v ∨ (bit v 19 ∧ bits v 20 16 = 0) then s.refuse m b 0x208 .badArg
    else s.storeTw .pmb 0 (s.g b PWR_PMB_SEL_entry) 0 v

/-- A write of a word of the nonce on the Cocoon's page: kept for CCN_REQ and never read back. -/
def State.nonceWrite (s : State) (m off v : Nat) : State := s.onWrite m Blk.ccn.page off fun b => s.setReg b off v

/-- A write of OWNER or of an access entry: only master 0x00 comes this far (R360). OWNER of a page that is not ownable
stays the operator's (R362). -/
def State.ownerWrite (s : State) (m pg off v : Nat) : State :=
  s.onWrite m pg off fun b =>
    if off = 0x058 then (if b.ownable then s.setReg b off (bits v 0 5) else s) else s.setReg b off (bits v 0 25)

/-- A write of a block's own register: those that act on what is written, each by its row's operation; the rest are
plain. -/
def State.blockWrite (s : State) (m pg off v : Nat) (b : Blk) : State :=
  match b, off with
  | .fltDev, 0x108 | .fltW _, 0x108 | .fltB _, 0x108 => s.writeFltCmd m pg v
  | .grp _, 0x100 => s.writeGrpCfg m pg v
  | .lane _ _, 0x100 => s.writeLaneCtrl m pg v
  | .lane _ _, 0x128 => s.writePrbs m pg v
  | .lane _ _, 0x700 | .hbm _, 0x700 | .pci, 0x700 => s.writeXing m pg v
  | .att t, 0x118 => s.attTblWrite m t v
  | .att t, 0x120 => s.attCommand m t v
  | .swt t, 0x108 => s.tblCommand m t v
  | .swt _, 0x208 => s.writeCls m pg v
  | .bse _, 0x120 => s.writeLimit m pg v
  | .pool _, 0x1A0 => s.poolCommand m pg v
  | .xbarDev, 0x308 => s.rlCommand m v
  | .xbarDev, 0x348 => s.writeDlCmd m v
  | .rdx n, 0x120 => s.rdxTblWrite m n v
  | .rdx n, 0x128 => s.rdxCommand m n v
  | .syn, 0x108 => s.synTblWrite m v
  | .syn, 0x110 => s.writeSignal m v
  | .syn, 0x118 => s.writeClear m v
  | .syn, 0x120 => s.writeFlag m v
  | .syn, 0x128 => s.writeArm m v
  | .syn, 0x130 => s.writeCancel m v
  | .syn, 0x138 => s.writeBar m v
  | .syn, 0x150 => s.writeWaitClear m v
  | .syn, 0x410 => s.scTblWrite m v
  | .syn, 0x418 => s.scCommand m v
  | .mac 0, 0x220 => s.partWrite m v
  | .mac 0, 0x228 => s.macCommand m v
  | .mac 0, 0x308 => s.trainWrite m v
  | .mac 0, 0x310 => s.trainCommand m v
  | .chr, 0x1C8 => s.chrTblWrite m v
  | .pwr, 0x110 => s.pwrCommand m v
  | .pwr, 0x208 => s.pmbWrite m v
  | .hbm _, 0x300 => s.hbmCommand m pg v
  | .ccn, 0x180 => s.writeCcnReq m v
  | .thx, 0x510 => s.fwCommand m pg v
  | .chr, off =>
    if 0x200 ≤ off ∧ off < 0x420 ∧ off % 0x20 = 0 then s.chrCommand m ((off - 0x200) / 0x20) v else s.writePlain m pg off v
  | .ccn, off => if 0x140 ≤ off ∧ off < 0x180 then s.nonceWrite m off v else s.writePlain m pg off v
  | b, off => if b.isSteward ∧ off = 0x110 then s.fwCommand m pg v else s.writePlain m pg off v

/-- A write of any register of any page by a requester (R479). An index with no page ignores it (R25). -/
def State.regWrite (s : State) (m pg off v : Nat) : State :=
  match off with
  | 0x018 => s.writeCtrl m pg v
  | 0x030 => s.writeForce m pg v
  | 0x038 => s.writeMask m pg v
  | 0x040 => s.writeAck m pg v
  | 0x048 => s.writeSnap m pg v
  | _ =>
    if off = 0x058 ∨ (0x7C0 ≤ off ∧ off < 0x800) then s.ownerWrite m pg off v
    else match s.blk pg with
      | none => s
      | some b => s.blockWrite m pg off v b

/-- The code that a write of a page's register met: that of the refusal it recorded, else OK. -/
def State.writeCode (old new : State) (pg : Nat) : Code :=
  match old.blk pg with
  | none => .ok
  | some b =>
    if old.g b REFUSED_CMDS_count = new.g b REFUSED_CMDS_count then .ok else Code.ofVal (new.g b LAST_REFUSAL_code)

end Sys2Proof.Machine
end

