-- ==== Sys2Proof/Machine/Debug.lean ====
section
/-! DEFINITION. The Proboscis: the test access port, debug tokens, the reach of each level, and debug halts (chapter 14). -/

namespace Sys2Proof.Machine

/-! ## The session (R383, R385, R388) -/

/-- The debug level: 0 OFF, 1 OBSERVE, 2 PARTITION, 3 FULL. -/
def State.dbgLevel (s : State) : Nat := s.g .chr CHR_DEBUG_level

/-- The level shown on both pages; a session is open at every level but OFF, and its start is counted (R388). -/
def State.setLevel (s : State) (l : Nat) : State :=
  let starts := s.dbgLevel = 0 ∧ l ≠ 0
  let s := (s.p .chr CHR_DEBUG_level l).p .chr CHR_DEBUG_session (b2n (l ≠ 0))
  let s := (s.p .dbg DBG_STATUS_level l).p .dbg DBG_STATUS_session (b2n (l ≠ 0))
  if starts then (s.inc .dbg DBG_SESSIONS_count).raise .dbg cDEBUG_SESSION else s

/-- The session ends: the level is OFF, no partition consents, and all that it halted resumes (R388). -/
def State.endSession (s : State) : State :=
  let s := (upTo 16).foldl State.endConsent s
  (s.p .dbg DBG_STATUS_all_halted 0).setLevel 0

/-- The Proboscis answers: outside Off, while DBGMSG is selected. -/
def State.probing (s : State) : Bool := s.pins.pwrgd && s.dbg.tap == .dbgmsg

/-- The response to a message: its op, its code and its 32-bit words. -/
def State.reply (s : State) (op : Nat) (c : Code) (words : List Nat) : State := s.emit .proboscis op (c.val :: words) []

/-- A message beyond the reach of the level (R386). -/
def State.dbgDeny (s : State) (op : Nat) : State := (s.inc .dbg DBG_DENIED_count).reply op .denied []

/-- The instruction that a code of the instruction register selects (R383). A code that is not implemented selects
BYPASS, as IEEE 1149.1 has it. -/
def State.tapOf (s : State) (ir : Nat) : Tap :=
  match ir with
  | 0x02 => .sample
  | 0x03 => if s.dbgLevel = 3 then .extest else .bypass
  | 0x10 => .dbgmsg
  | _ => .bypass

/-- An instruction selected. -/
def State.setTap (s : State) (t : Tap) : State := { s with dbg := { s.dbg with tap := t } }

/-- TAP_INSTRUCTION (R383). -/
def execTapInstruction (ir : Byte) (s : State) : Answer :=
  .next (if s.pins.pwrgd then s.setTap (s.tapOf ir.toNat) else s)

/-- TAP_RESET (R388). -/
def execTapReset (s : State) : Answer :=
  (s.endSession.setTap .bypass).done

/-- HELLO (R386). -/
def execHello (s : State) : Answer :=
  .next (if s.probing then s.reply 1 .ok [s.serial, 0xB0, s.life, s.dbgLevel, s.g .chr CHR_DEBUG_consent] else s)

/-! ## Tokens (R384, R385) -/

/-- CHALLENGE: sixteen words of nonce; NOT_READY while the noise source fails. -/
def State.dbgNonce (s : State) : State :=
  if s.sec.entropyBad then s.reply 2 .notReady []
  else
    let r := s.newChallenge
    r.2.reply 2 .ok ((upTo 16).map fun i => ofLeBytes (slice (4 * i) 4 r.1))

/-- DBG_CHALLENGE (R384). -/
def execDbgChallenge (s : State) : Answer := .next (if s.probing then s.dbgNonce else s)

/-- A level token carries the authority that the table of R385 asks. -/
def State.levelSigned (s : State) (tok : List Byte) (l : Nat) : Bool :=
  match s.life with
  | 0 => ofLeBytes (slice 0 4 tok) == 0x5444524E && tok.getD 4 0 == 1
  | 1 => s.tokenForm tok && tokenSigned tok s.caKey
  | 2 => s.tokenForm tok && tokenSigned tok s.mram.ownerKey
  | _ => s.tokenForm tok && (tokenSigned tok s.caKey || (l == 1 && tokenSigned tok s.mram.ownerKey))

/-- A level token (R385): a level that is not available, or PARTITION without a consent, is refused. -/
def State.levelToken (s : State) (tok : List Byte) : Code × State :=
  let l := (tok.getD 6 0).toNat
  if l = 0 ∨ levelBarred s.life l ∨ (l = 2 ∧ s.g .chr CHR_DEBUG_consent = 0) then (.refusedState, s.refuseToken)
  else if !s.levelSigned tok l then (.integrity, s.refuseToken)
  else (.ok, (if s.life = 0 then s else s.spendToken).setLevel l)

/-- The key that a partition's tenant signs with. -/
def State.tenantKey (s : State) (p : Nat) : List Byte := ((s.sec.tenantKeys.find? fun e => e.1 == p).map (·.2)).getD []

/-- A consent token (R385): an ACTIVE partition of a DEPLOYED part consents, within the scope that its tenant names. -/
def State.consentToken (s : State) (tok : List Byte) : Code × State :=
  let p := (tok.getD 7 0).toNat
  if s.life ≠ 2 ∨ 16 ≤ p ∨ s.partSt p ≠ 1 then (.refusedState, s.refuseToken)
  else if !s.tokenForm tok ∨ !tokenSigned tok (s.tenantKey p) then (.integrity, s.refuseToken)
  else
    let s := s.spendToken
    let s := (s.p .chr ⟨CHR_DEBUG_consent.off, 3 + p, 1⟩ 1).pt .chrPart 0 p chrPart_consent 1
    let s := s.pt .chrPart 0 p chrPart_consent_count ((s.t .chrPart 0 p chrPart_consent_count + 1) % 2 ^ 32)
    (.ok, { s with sec := { s.sec with
      consents := (p, ofLeBytes (slice 0x50 4 tok)) :: s.sec.consents.filter (·.1 != p) } })

/-- A token of any kind: a kind that the format does not list is refused. -/
def State.takeToken (s : State) (tok : List Byte) : Code × State :=
  if tok.length ≠ 224 then (.badArg, s)
  else match (tok.getD 5 0).toNat with
    | 0 => s.levelToken tok
    | 1 => s.lifeToken tok
    | 2 => s.consentToken tok
    | _ => (.refusedState, s.refuseToken)

/-- TOKEN (R385). -/
def execToken (tok : List Byte) (s : State) : Answer :=
  State.done (if s.probing then (s.takeToken tok).2.reply 3 (s.takeToken tok).1 [] else s)

/-! ## Reach (R386) -/

/-- The scope that a partition has consented to: bit 0 halt, 1 read, 2 write; none at any level but PARTITION. -/
def State.consentScope (s : State) (p : Nat) : Nat :=
  if s.dbgLevel = 2 then ((s.sec.consents.find? fun e => e.1 == p).map (·.2)).getD 0 else 0

/-- The level reaches a register of a page: at FULL every one; to read, headers and operator pages from OBSERVE on; a
consenting partition's page within its scope. -/
def State.reachPage (s : State) (b : Blk) (off : Nat) (write : Bool) : Bool :=
  s.dbgLevel == 3 ||
    (if s.g b OWNER_owned = 1 then bit (s.consentScope (s.g b OWNER_partition)) (if write then 2 else 1) else false) ||
    (!write && s.dbgLevel != 0 && (off < 0x100 || s.g b OWNER_owned == 0))

/-- The level reaches a byte of memory: a partition's region within its scope, and memory outside such regions to
read. -/
def State.reachByte (s : State) (sp a : Nat) (write : Bool) : Bool :=
  s.dbgLevel == 3 ||
    (match (s.regionOf sp a).filter fun r => s.tb .chrRegion 0 r chrRegion_owned with
      | some r => bit (s.consentScope (s.t .chrRegion 0 r chrRegion_partition)) (if write then 2 else 1)
      | none => !write && s.dbgLevel != 0)

/-- The level reaches `n` words from an address of a space of READ and WRITE: 0 pages, else a memory. -/
def State.reaches (s : State) (space a n : Nat) (write : Bool) : Bool :=
  if space = 0 then
    (upTo n).all fun i =>
      match s.blk ((a + 4 * i) / 4096) with
      | none => s.dbgLevel != 0
      | some b => s.reachPage b ((a + 4 * i) / 8 * 8 % 4096) write
  else (upTo (4 * n)).all fun i => s.reachByte (space - 1) (a + i) write

/-- The range of a message is none that READ and WRITE take: too long, misaligned, or beyond its space. -/
def dbgBad (space a n : Nat) (write : Bool) : Bool :=
  256 < n || (if space = 0 then a % (if write then 8 else 4) != 0 || (write && n % 2 != 0) || 2 ^ 26 < a + 4 * n
    else spaceTop (space - 1) < a + 4 * n)

/-- The target of a message does not answer in the present power state, or in a halted scope (R389, R415). -/
def State.dbgTarget (s : State) (space a n : Nat) : Code :=
  if space = 0 then
    if (upTo n).any fun i =>
      match s.blk ((a + 4 * i) / 4096) with
      | none => false
      | some b => s.gb b STATE_unpowered && decide (0x100 ≤ (a + 4 * i) % 4096)
    then .refusedState else .ok
  else if s.asleep (space - 1) then .refusedState
  else if space = 1 ∧ s.hbmHalted a (4 * n) then .aborted
  else .ok

/-- A register read by the Proboscis, whose access its level has granted. -/
def State.dbgReg (s : State) (a : Nat) : Nat :=
  match s.blk (a / 4096) with
  | none => 0
  | some b => bits (s.value 8 b (a / 8 * 8 % 4096) % 2 ^ 64) (8 * (a % 8)) 32

/-- READ. -/
def State.dbgFetch (s : State) (space a n : Nat) : State :=
  if dbgBad space a n false then s.reply 4 .badArg []
  else if !s.reaches space a n false then s.dbgDeny 4
  else match s.dbgTarget space a n with
    | .ok =>
      s.reply 4 .ok (if space = 0 then (upTo n).map fun i => s.dbgReg (a + 4 * i)
        else (upTo n).map fun i => ofLeBytes (s.readSpace (space - 1) (a + 4 * i) 4))
    | c => s.reply 4 c []

/-- DBG_READ (R386). -/
def execDbgRead (space : BitVec 2) (addr : BitVec 52) (n : BitVec 9) (s : State) : Answer :=
  State.done (if s.probing then s.dbgFetch space.toNat addr.toNat n.toNat else s)

/-- Registers written in turn, up to the first that is refused: its code. -/
def State.dbgRegs : List Nat → Nat → State → Code × State
  | lo :: hi :: l, a, s =>
    let s' := s.regWrite 8 (a / 4096) (a % 4096) (lo + hi * 2 ^ 32)
    match s.writeCode s' (a / 4096) with
    | .ok => State.dbgRegs l (a + 8) s'
    | c => (c, s')
  | _, _, s => (.ok, s)

/-- WRITE. -/
def State.dbgStore (s : State) (space a : Nat) (ws : List Nat) : State :=
  if dbgBad space a ws.length true then s.reply 5 .badArg []
  else if !s.reaches space a ws.length true then s.dbgDeny 5
  else match s.dbgTarget space a ws.length with
    | .ok =>
      let r := if space = 0 then State.dbgRegs ws a s else (.ok, s.writeSpace (space - 1) a (ws.flatMap (leBytes 4)))
      r.2.reply 5 r.1 []
    | c => s.reply 5 c []

/-- DBG_WRITE (R386). -/
def execDbgWrite (space : BitVec 2) (addr : BitVec 52) (data : List (BitVec 32)) (s : State) : Answer :=
  State.done (if s.probing then s.dbgStore space.toNat addr.toNat (data.map (·.toNat)) else s)

/-! ## Halts (R387) -/

/-- The level lets a message halt a partition, or all. -/
def State.mayHalt (s : State) (p : Nat) : Bool := s.dbgLevel == 3 || (p != 0xFF && bit (s.consentScope p) 0)

/-- A page of a halted partition is frozen at once. -/
def State.dbgFreeze (s : State) (g : Nat) : State :=
  let b := Blk.grp g
  if s.effFreeze b then s
  else
    let s := (s.p b CTRL_freeze 1).capture b
    { (s.p b STATE_frozen 1) with dbg := { s.dbg with pages := s.dbg.pages ++ [b.page] } }

/-- A partition halts: its lists pause, its pages freeze, and its halted bit follows the operation in progress. -/
def State.haltPart (s : State) (p : Nat) : State :=
  if s.dbg.halted.contains p then s
  else
    let s := (s.partGroups p).foldl State.dbgFreeze (s.gangHold p)
    State.showHalted { s with dbg := { s.dbg with halted := s.dbg.halted ++ [p] } } p

/-- HALT: one partition, or all with the cores of the Thorax and the stewards. -/
def State.dbgHaltMsg (s : State) (p : Nat) : State :=
  if 16 ≤ p ∧ p ≠ 0xFF then s.reply 6 .badArg []
  else if !s.mayHalt p then s.dbgDeny 6
  else
    let s := if p = 0xFF then ((upTo 16).foldl State.haltPart s).p .dbg DBG_STATUS_all_halted 1 else s.haltPart p
    s.reply 6 .ok []

/-- DBG_HALT (R387). -/
def execDbgHalt (p : Byte) (s : State) : Answer := State.done (if s.probing then s.dbgHaltMsg p.toNat else s)

/-- RESUME, as HALT. -/
def State.dbgResumeMsg (s : State) (p : Nat) : State :=
  if 16 ≤ p ∧ p ≠ 0xFF then s.reply 7 .badArg []
  else if !s.mayHalt p then s.dbgDeny 7
  else
    let s := if p = 0xFF then ((upTo 16).foldl State.debugResume s).p .dbg DBG_STATUS_all_halted 0 else s.debugResume p
    s.reply 7 .ok []

/-- DBG_RESUME (R386). -/
def execDbgResume (p : Byte) (s : State) : Answer := State.done (if s.probing then s.dbgResumeMsg p.toNat else s)

/-- DBG_END (R388). -/
def execDbgEnd (s : State) : Answer := State.done (if s.probing then s.endSession.reply 8 .ok [] else s)

end Sys2Proof.Machine
end

