-- ==== Sys2Proof/Machine/Events.lean ====
section
/-! DEFINITION. The end of a snapshot's write-out, hardware fault events with their own effects, and the accounting of
lost service (R33 to R37, R364, R411, R422). -/

namespace Sys2Proof.Machine

/-! ## Snapshot images (R33 to R37, R364) -/

/-- The state as a page's captured view shows it; the state itself where the page holds none. -/
def State.captured (s : State) (b : Blk) : State :=
  match s.views.find? fun v => v.page == b.page with
  | none => s
  | some v => s.under v

/-- Stream `i` of a page has both its ends in a brood: those of a switch tile's page go to the engines, those of an engine's page
come from the tiles. -/
def State.streamCell (_s : State) (r b : Blk) (i : Nat) : Bool :=
  match b with
  | .swt _ => decide (i < 16) && r.subtree.contains (.rdx i)
  | .rdx _ => decide (i < 32) && r.subtree.contains (.swt i)
  | _ => false

/-- What a page's image shows of its stream `i`. -/
def State.streamWord (s : State) (b : Blk) (i : Nat) : Nat :=
  match b with
  | .swt t => (s.streamSeqs t i).1
  | .rdx n => (s.streamSeqs i n).2
  | _ => 0

/-- One page of an image: the header as captured, and the rest as frozen, or zeros where the page's table does not grant
read to the master that wrote the take (R364). The words after the directory of a switch tile's page show the last numbers
sent on its mesh streams, and those of an engine's page the last received, for streams within the frozen brood `r` (R33,
assumption 179). -/
def State.pageImage (s : State) (m : Nat) (r b : Blk) : List Byte :=
  let c := s.captured b
  let open_ := s.granted m b .read
  (upTo 512).flatMap fun i =>
    let off := 8 * i
    if off < 0x100 then leBytes 8 (c.header b off % 2 ^ 64)
    else if open_ && decide (0x800 ≤ off ∧ off < 0xA00) && s.streamCell r b ((off - 0x800) / 8) then
      leBytes 8 (c.streamWord b ((off - 0x800) / 8) % 2 ^ 64)
    else if open_ && !s.lostView b off then leBytes 8 (c.value m b off % 2 ^ 64)
    else leBytes 8 0

/-- The header of an image (the snapshot image layout). -/
def State.imageHeader (s : State) (b : Blk) : List Byte :=
  let pages := b.subtree
  let beyond := (pages.filter fun k => s.gb k STATE_freeze_overrun).length
  fit 256 ([0x000050414E53524E, b.page, (s.g b SNAP_SEQ_seq + 1) % 2 ^ 32, pages.length, (s.captured b).pageVer b, beyond].flatMap
    (leBytes 8)) ++ fit 3840 (pages.flatMap fun k => leBytes 2 k.page)

/-- The image of a page's subtree, each page at 4 KiB, in directory order. -/
def State.image (s : State) (m : Nat) (b : Blk) : List Byte := s.imageHeader b ++ b.subtree.flatMap (s.pageImage m b)

/-- A write-out ends: aborted, or with the image at its destination once every page of the subtree is held; a
destination of 0 captures only (R35, R36). -/
def State.writeOut (s : State) (b : Blk) (x : Snap) : State :=
  if x.code ≠ .ok then s.endSnap b x.code 0 x.implicitFreeze
  else if !s.gb b STATE_frozen then s
  else if x.dest = 0 then s.endSnap b .ok 0 x.implicitFreeze
  else (s.writeBuf (masterFn (mst x.master)) x.host 0 x.dest (s.image x.master b)).endSnap b .ok (imageLen b) x.implicitFreeze

/-- SNAP_WRITEOUT_DONE (R36). -/
def execSnapWriteoutDone (pg : Pg) (s : State) : Answer :=
  State.done (match s.blk pg.toNat with
    | none => s
    | some b =>
      match s.snaps.find? fun x => x.page == b.page with
      | none => s
      | some x => s.writeOut b x)

/-! ## Fault events (R411, the error tables of the chapters) -/

/-- An uncorrectable error in one die's copy of a table: the frame is dropped, and the entry reads as not valid in that
copy until it is written again. -/
def State.tableEcc (s : State) (t arg : Nat) : State :=
  let s := s.inc (.swt t) SWT_DROP_LOOKUP_count
  { s with swc := { s.swc with badCopies := (t / 4, bits arg 0 4, bits arg 4 21) :: s.swc.badCopies } }

/-- A cell of a base die leaves use, while fewer than 64 have. -/
def State.retireCell (s : State) (d : Nat) : State :=
  if s.g (.bse d) H_BSE_retired < 64 then (s.inc (.bse d) H_BSE_retired).setFreeCells d (s.freeCells d - 1) else s

/-- The frames with a segment in the cell of copy `c`'s next segments in the ingress store: those packed with it (R114), with
every copy of each. -/
def State.cellMates (s : State) (c : Cp) : List Cp :=
  let q := s.spreadQ c.itile c.etile c.vc
  let behind := q.dropWhile (·.cid != c.cid)
  let mates := if c.mc then [c.cid] else (cellParts 8 8 behind).map (·.1)
  let fids := (q.filter fun x => mates.contains x.cid).map (·.fid)
  s.swc.cps.filter fun x => x.place == .ingress && fids.contains x.fid

/-- An uncorrectable error in a cell that holds a segment of copy `cid`: every frame with a segment in it is discarded on its
side of the store, counted once, and the cell is retired (R112, R114, R155). -/
def State.cellEcc (s : State) (d cid : Nat) : State :=
  let s : State := match s.swc.cps.find? fun c => c.cid == cid with
    | none => s
    | some (c : Cp) =>
      if c.place = .ingress ∧ c.itile / 4 = d then
        let l := s.cellMates c
        ((l.foldl (fun s x => (s.discard x).pfcCheck x.port) s).add (.bse d) BSE_DROP_ADMIT_count
          (l.map (·.fid)).eraseDups.length)
      else if (c.place = .order ∨ c.place = .queue ∨ c.place = .tx) ∧ c.etile / 4 = d then
        ((s.portCps c.fid c.etile).foldl State.discard s).inc (.bse d) BSE_DROP_EGRESS_count
      else s
  s.retireCell d

/-- A host access of a page's command returned an error: what the page has in progress ends with ABORTED. -/
def State.dmaFault (s : State) (pg : Nat) : State :=
  { s with
    jobs := s.jobs.map fun j => if j.page = pg then { j with code := .aborted } else j
    snaps := s.snaps.map fun x => if x.page = pg ∧ x.host then { x with code := .aborted } else x }

/-- An uncorrectable error of a flit drops its packet: one of those between tiles and engines, where the event names one, whose
lines' counts then never complete (R184). -/
def State.meshEcc (s : State) (i : Nat) : State :=
  match s.engq[i]? with
  | none => s
  | some e => s.meshGone e true

/-- What a class does beside latching, where no row of its own carries it. -/
def State.ownEffect (s : State) (b : Blk) (c arg : Nat) : State :=
  match b, c with
  | .swt t, 10 => s.tableEcc t arg
  | .bse d, 9 => s.cellEcc d arg
  | .meshB _, 9 => s.meshEcc arg
  | .rdx n, 9 => if bit (s.rc arg rdxCtx_engine_mask) n then s.failRdx arg .integrity else s
  | .syn, 16 => if arg < 16 ∧ s.partSt arg = 1 then s.partReset arg else s
  | .mac a, 10 => s.gangIntegrity 0 fun o => o.arrays.isEmpty || o.arrays.contains a
  | .mac _, 11 => s.trainIntegrity false
  | .mac _, 12 => s.trainIntegrity true
  | .vec _, 9 => s.gangIntegrity 1 fun _ => true
  | .hbm _, 10 => if s.st b = .training then s.toSt b .faulted else s
  | .chr, 13 => { s with sec := { s.sec with entropyBad := true } }
  | .pci, 14 => s.dmaFault arg
  | _, _ => s

/-- A hardware event of a class of a powered page: its own effect, and the event at the collector (R411). -/
def State.errorEvent (s : State) (pg c arg : Nat) : State :=
  match s.blk pg with
  | none => s
  | some b =>
    match b.cls c with
    | none => s
    | some k => if s.gb b STATE_unpowered then s else (s.ownEffect b c arg).raise b k

/-- ERROR_EVENT (R411). -/
def execErrorEvent (pg : Pg) (cls : BitVec 6) (arg : Word) (s : State) : Answer :=
  (s.errorEvent pg.toNat cls.toNat arg.toNat).done

/-! ## Lost service (R422) -/

/-- The group of an active lane carries traffic: its page and every brood above it IN_SERVICE. -/
def State.laneServes (s : State) (k n : Nat) : Bool :=
  let g := (laneGroup k n).1
  let port := s.lanePort k n
  s.st (.grp g) == .inService && s.st (.swt (g / 8)) == .inService && s.active port &&
    (s.workLanes port).contains (s.laneIdx k n)

/-- The reason is one of those that R422 counts as a fault. -/
def State.lostByFault (s : State) (k n : Nat) : Bool :=
  let g := (laneGroup k n).1
  let t := Blk.swt (g / 8)
  ((Blk.grp g :: (Blk.grp g).ancestors) ++ [Blk.die k]).any (fun (b : Blk) => s.st b == .faulted) ||
    (s.gb t CTRL_evacuate && s.gb t H_SWT_auto) ||
    s.boot.offDies.any (fun u => u == 72 + k || u == 8 + g / 8 || u == g / 32) ||
    (s.active (s.lanePort k n) && !(s.workLanes (s.lanePort k n)).contains (s.laneIdx k n))

/-- The active lanes of a die that software enables and that carry no traffic, by reason. -/
def State.lostLanes (s : State) (k : Nat) (fault : Bool) : Nat :=
  ((upTo 64).filter fun n =>
    s.gb (.lane k n) LNK_LANE_CTRL_power && !s.laneServes k n && s.lostByFault k n == fault &&
      (fault || s.effEnable (.grp (laneGroup k n).1))).length

/-- A millisecond of a SerDes die. The time from a reset to Eclosion is not counted. -/
def State.lostTick (s : State) (k : Nat) : State :=
  if s.boot.running then s
  else
    let budget := s.g .fltDev FLT_AVAIL_CFG_budget_lane_ms
    let before := s.lostSum LNK_LOST_FAULT_lane_ms
    let f := s.lostLanes k true
    let o := s.lostLanes k false
    let s := (s.add (.die k) LNK_LOST_FAULT_lane_ms f).add (.die k) LNK_LOST_OTHER_lane_ms o
    if before ≤ budget ∧ budget < s.lostSum LNK_LOST_FAULT_lane_ms then s.raise .fltDev cAVAIL_BUDGET else s

/-- LOST_MS_TICK (R422). -/
def execLostMsTick (k : DieNo) (s : State) : Answer := (s.lostTick k.toNat).done

end Sys2Proof.Machine
end

