-- ==== Sys2Proof/Machine/Forwarding.lean ====
section
/-! DEFINITION. Forwarding: ingress, admission, the crossbar's slots, release, selection, ageing, level 3, the lag monitor
and evacuation (chapters 5 to 7). -/

namespace Sys2Proof.Machine

/-! ## Ingress (R99 to R108, R138) -/

/-- The ingress pipeline on a packet of a TLink port (R64, R102): 0xF_FFFF names the attach end of an attach link, and is
routed nowhere else. -/
def State.packetIn (s : State) (port vc : Nat) (bs : List Byte) : State :=
  let t := portTile port
  let op := hw bs 2 / 2 ^ 24
  if hw bs 0 / 4096 = 0xFFFFF then
    if s.pers (portGroup port) ≠ .tlinkAttach then (s.drop port SWT_RX_FRAMES_count).drop port SWT_DROP_LOOKUP_count
    else if (0x11 ≤ op ∧ op ≤ 0x15 ∧ vc = 1) ∨ (op = 0x19 ∧ vc = 2) then s.hand (attOwner t) bs
    else s.inc (.att t) ATT_BAD_PKTS_count
  else s.ingressTlink port vc bs

/-- A packet's flits still stand in the input buffer: its frame waits under case 3 of R138, or a LOCAL contribution waits
for its claim (R200). -/
def State.keepsFlits (before after : State) (port : Nat) (bs : List Byte) : Bool :=
  (after.swc.cps.any fun c => c.place == .input && decide (before.swc.nextId ≤ c.fid)) ||
    (before.pers (portGroup port) == .tlinkAttach && hw bs 2 / 2 ^ 24 == 0x20 &&
      decide (before.swc.inbox.length < after.swc.inbox.length))

/-- A packet of a TLink port: its flits leave the input buffer as it is taken. -/
def State.tlinkIn (s : State) (port vc : Nat) (raw : List Byte) : State :=
  let bs := if raw.length < 56 then fit 56 raw else raw
  let s := (s.takeBuf port vc raw).2
  let s' := s.packetIn port vc bs
  if s.keepsFlits s' port bs then s' else s'.freeFlits port vc (flitsOf bs.length)

/-- A frame or packet at a port: MAC control frames are consumed, and a port that admits no new frame drops an Ethernet
frame and leaves a packet in its input buffer (R131, R173). -/
def State.frameIn (s : State) (port vc : Nat) (bs : List Byte) : State :=
  if !s.portExists port ∨ !s.active port then s
  else if s.isEth port then
    if (parseEth bs).ety = 0x8808 then s.pfcRx port bs
    else if s.ingressShut port then s.drop port SWT_DROP_DOWN_count
    else s.ingressEth port bs
  else if s.ingressShut port then s
  else s.tlinkIn port vc bs

/-- FRAME_INGRESS (R100). -/
def execFrameIngress (port : PortNo) (f : Frame) (s : State) : Answer := (s.frameIn port.toNat f.vc.toNat f.bytes).done

/-- A frame that waits is tried again; once it is in the store or in spill, its flits leave the input buffer (R138). A tile
that is leaving admits none, and the copies for a tile that is leaving are dropped (R131). -/
def State.retryIn (s : State) (port vc : Nat) : State :=
  let a := acctOf (portTile port) (localPort port) vc
  if s.ingressShut port then s
  else match s.swc.cps.find? fun c => c.place == .input && c.acct == some a with
  | none => s
  | some c =>
    let s := s.dropDown (portTile port) (s.swc.cps.filter fun x => x.fid == c.fid && s.leaving x.etile)
    let s' := if s.swc.cps.any (·.fid == c.fid) then s.admitRetry a else s
    if c.tlink ∧ !(s'.swc.cps.any fun x => x.fid == c.fid && x.place == .input) then
      s'.freeFlits port vc (flitsOf c.bytes.length)
    else s'

/-- ADMIT_RETRY (R138). -/
def execAdmitRetry (port : PortNo) (vc : BitVec 3) (s : State) : Answer := (s.retryIn port.toNat vc.toNat).done

/-! ## The crossbar and the egress (R115 to R118, R125, R127, R164) -/

/-- XBAR_SLOT (R115). -/
def execXbarSlot (last : TileNo) (s : State) : Answer := (s.xbarSlot last.toNat).done

/-- ETH_RELEASE (R125). -/
def execEthRelease (port : PortNo) (s : State) : Answer :=
  .next (if s.isEth port.toNat then s.ethRelease port.toNat else s)

/-- EGRESS_SELECT (R164). -/
def execEgressSelect (port : PortNo) (s : State) : Answer := (s.egressSelect port.toNat).done

/-- AGE_OSC_TICK (R127). -/
def execAgeOscTick (d : BaseNo) (s : State) : Answer := .next (s.ageTick d.toNat)

/-! ## Level 3 (R119, R121) -/

/-- The cells that leave a tile on the bundle of a device in a slot of level 3: two fill its payload. -/
def State.held3 (s : State) (t d : Nat) : List (Nat × L3Cell) :=
  (s.swc.mids3.filter fun e => e.1 == t && e.2.dev.toNat == d).take 2

/-- The payload of a bundle in slot `k`: its header, then its cells (R119, assumption 174). -/
def payload3 (k : Nat) (cells : List (Nat × L3Cell)) : List Byte :=
  leBytes 48 (Config.l3Header k cells.length).toNat ++ fit 512 (cells.flatMap fun e => fit 256 e.2.data)

/-- One bundle's payload leaves: ten flits, striped over its ports in ascending id (R119). -/
def State.sendBundle (s : State) (t k : Nat) (b : Nat × List Nat) : State :=
  let ps := b.2.filter s.active
  if ps.isEmpty then s
  else
    let cells := s.held3 t b.1
    let bs := payload3 k cells
    let s : State := { s with swc := { s.swc with mids3 := cells.foldl (fun l e => l.erase e) s.swc.mids3 } }
    (upTo 10).foldl (fun s j => s.emit (.tlink (ps.getD (j % ps.length) 0) 0) 3 [k, j] (slice (56 * j) 56 bs)) s

/-- A slot of level 3 is complete on tile `t` with the cells that its payloads brought: those for this part go down its
pattern, the others wait for their device; the payloads of the next slot leave on every bundle, and the count advances. -/
def State.slot3 (s : State) (t : Nat) (cells : List L3Cell) : State :=
  let self := s.selfDev
  let s := cells.foldl (fun s x => s.take3 self t x) s
  let k := (s.g .xbarDev H_XBAR3_k3 + 1) % 2 ^ 64
  let s := (s.bundles t).foldl (fun s b => s.sendBundle t k b) s
  (s.inc .xbarDev XBAR_L3_SLOTS_count).p .xbarDev H_XBAR3_k3 k

/-- L3_SLOT (R119). -/
def execL3Slot (a : L3In) (s : State) : Answer :=
  .next (if 1 < s.devices then s.slot3 a.tile.toNat a.cells else s)

/-- L3_RESEQ_GIVEUP (R121): a missing frame is given up, and the frames behind it are due. -/
def execL3ReseqGiveup (t : TileNo) (s : State) : Answer := .next (s.giveUp3 t.toNat)

/-! ## The lag monitor and evacuation (R130, R131) -/

/-- The tiles that are out, or asked to leave. -/
def State.tilesOut (s : State) : Nat := ((upTo 32).filter fun t => s.gb (.swt t) CTRL_evacuate).length

/-- A member's count at the end of a lag window (R130, R131). -/
def State.lagMember (s : State) (t : Nat) : State :=
  let b := Blk.swt t
  let beyond := decide (s.g .xbarDev XBAR_CFG_lag_threshold * 2 ^ s.g .xbarDev XBAR_CFG_lag_window ≤
    256 * s.g b SWT_SLOT_LAG_last_in_window)
  let s := (s.p b SWT_SLOT_LAG_last_in_window 0).p b SWT_SLOT_LAG_over (b2n beyond)
  if beyond then
    let s := (s.inc b SWT_SLOT_LAG_windows_over).raise b cSLOT_LAG
    if s.gb .xbarDev XBAR_CFG_auto_evac ∧ s.tilesOut < s.g .xbarDev XBAR_CFG_auto_max ∧ !s.gb b CTRL_evacuate then
      ((s.p b CTRL_evacuate 1).p b H_SWT_auto 1).followAll b
    else s
  else s

/-- A lag window ends once its slots are complete: every tile of the pattern is judged and the next window starts (R130). -/
def State.slotLag (s : State) : State :=
  if s.g .xbarDev H_XBAR2_lag < 2 ^ s.g .xbarDev XBAR_CFG_lag_window then s
  else (s.p .xbarDev H_XBAR2_lag 0).members.foldl State.lagMember (s.p .xbarDev H_XBAR2_lag 0)

/-- SLOT_LAG_WINDOW (R130). -/
def execSlotLagWindow (s : State) : Answer := s.slotLag.done

/-- The tiles whose evacuation waits, replaced. -/
def State.setEvacWait (s : State) (l : List Nat) : State := { s with swc := { s.swc with evacWait := l } }

/-- An evacuation has drained. -/
def State.drainedNow (s : State) : State := { s with swc := { s.swc with drained := true } }

/-- EVAC_START_QUEUED (R131). -/
def execEvacStartQueued (s : State) : Answer :=
  .next (if s.swc.evac.isSome then s
    else match s.swc.evacWait with
      | [] => s
      | t :: l =>
        let s := s.setEvacWait l
        if s.members.contains t then s.startEvac t else s)

/-- Steps 2 and 3 of an evacuation end (R131): all has drained, or what is left is discarded. -/
def State.evacDrain (s : State) (t : Nat) (expired : Bool) : State :=
  if s.swc.evac ≠ some t then s
  else if expired then (s.evacDrop t).drainedNow
  else if (s.evacLeft t).isEmpty then s.drainedNow
  else s

/-- EVAC_DRAIN_END (R131). -/
def execEvacDrainEnd (t : TileNo) (expired : Bool) (s : State) : Answer := (s.evacDrain t.toNat expired).done

/-- Steps 4 and 5 (R131): the members renumber, the tile is EVACUATED, and what it still holds is discarded (R146). An
evacuate bit cleared meanwhile takes effect now. -/
def State.evacEnd (s : State) (t : Nat) : State :=
  let s := (s.leavePattern t true).dropTile t
  let s : State := { s with swc := { s.swc with evac := none, drained := false } }
  ((s.p .xbarDev XBAR_STATUS_evac_busy 0).toSt (.swt t) .evacuated).followAll (.swt t)

/-- The slot that comes is the first of a cycle of `n` slots (R131). -/
def State.cycleStart (s : State) (n : Nat) : Bool := s.g .xbarDev H_XBAR_k % max 1 n == 0

/-- EVAC_RENUMBER (R131): at the next slot that starts a cycle of the tile's pattern (assumption 173). -/
def execEvacRenumber (s : State) : Answer :=
  State.done (match s.swc.evac with
    | none => s
    | some t => if s.swc.drained ∧ s.cycleStart (s.level1 t).length then s.evacEnd t else s)

/-- MEMBER_REJOIN (R131): at the next slot that starts a cycle of the enlarged pattern (assumption 173). -/
def execMemberRejoin (t : TileNo) (s : State) : Answer :=
  .next (if s.st (.swt t.toNat) = .inService ∧ !s.members.contains t.toNat ∧ s.cycleStart ((s.level1 t.toNat).length + 1) then
    s.joinPattern t.toNat else s)

/-! ## The mesh (R162) -/

/-- MESH_MC_FORWARD (R162). -/
def execMeshMcForward (h : MeshHead) (s : State) : Answer := .next (if s.mcOk h then s.mcForward h else s)

end Sys2Proof.Machine
end

