-- ==== Sys2Proof/Machine/HostRings.lean ====
section
/-! DEFINITION. The PCI Express endpoint: the BARs, the command rings, interrupts, and the resets of the endpoint
(chapter 18). -/

namespace Sys2Proof.Machine

/-! ## Rings (R446 to R448) -/

/-- The function of a host master: 0 physical, `p + 1` virtual; none for a master that is no function (R443). -/
def hostFn (m : Nat) : Option Nat := if 0x10 ≤ mst m ∧ mst m ≤ 0x20 then some (mst m - 0x10) else none

/-- The ring of page `j` of a function's BAR2: every ring of the physical function, its own rings of a virtual one. -/
def State.hostRing (s : State) (m j : Nat) : Option Nat :=
  match hostFn m with
  | none => none
  | some 0 => if j < 64 then some j else none
  | some fn => (s.ringsOf fn)[j]?

/-- A field of a ring. -/
def State.rg (s : State) (r : Nat) (f : Fld) : Nat := s.t .ring 0 r f
def State.prg (s : State) (r : Nat) (f : Fld) (v : Nat) : State := s.pt .ring 0 r f v

/-- A ring stops: no command is taken until it is enabled again. -/
def State.stopRing (s : State) (r : Nat) : State := s.prg r ring_enable 0

/-- A ring starts with its pointers at 0 (R447). -/
def State.startRing (s : State) (r : Nat) : State :=
  let s := (s.prg r ring_head 0).prg r ring_written 0
  let s := ((s.prg r ring_tail 0).prg r ring_consumed 0).prg r ring_unsignalled 0
  { s with hst := { s.hst with coal := s.hst.coal.filter (· != r) } }

/-- A refused write of a ring's registers is recorded on the PCI page. -/
def State.refuseRing (s : State) (m off : Nat) (c : Code) : State := s.refuse m .pci off c

/-- A write of PCI_RING_CTRL (R447). -/
def State.writeRingCtrl (s : State) (m r v : Nat) : State :=
  let on := s.tb .ring 0 r ring_enable
  let sizes (x : Nat) := bits x 1 8
  if on ∧ sizes v ≠ sizes (s.tw .ring 0 r 0) then s.refuseRing m 0 .refusedState
  else if !tblOk .ring 0 v ∨ fnVectors (s.ringOwner r) ≤ bits v 10 8 then s.refuseRing m 0 .badArg
  else
    let s := s.storeTw .ring 0 r 0 v
    if !on ∧ bit v 0 then s.startRing r else s

/-- A write of one of a ring's base registers (R447). -/
def State.writeRingBase (s : State) (m r wd v : Nat) : State :=
  if s.tb .ring 0 r ring_enable then s.refuseRing m (8 * wd) .refusedState else s.storeTw .ring 0 r wd v

/-- A write of PCI_RING_TAIL: a tail too far ahead of head stops the ring (R447). -/
def State.writeRingTail (s : State) (r v : Nat) : State :=
  let s := s.prg r ring_tail (v % 2 ^ 32)
  if s.tb .ring 0 r ring_enable ∧ 2 ^ s.rg r ring_cmd_log2 < (v + 2 ^ 32 - s.rg r ring_head) % 2 ^ 32 then
    (s.stopRing r).raise .thx cRING_FORMAT
  else s

/-- A write of a ring page (BAR2). -/
def State.ringPageWrite (s : State) (m j off v : Nat) : State :=
  match s.hostRing m j with
  | none => s
  | some r =>
    match off with
    | 0x000 => s.writeRingCtrl m r v
    | 0x008 => s.writeRingBase m r 1 v
    | 0x010 => s.writeRingBase m r 2 v
    | 0x018 => s.writeRingTail r (v % 2 ^ 32)
    | 0x020 => s.prg r ring_consumed (v % 2 ^ 32)
    | _ => s

/-- A read of a ring page. -/
def State.ringPageRead (s : State) (m j off : Nat) : Nat :=
  match s.hostRing m j with
  | none => 0
  | some r =>
    match off with
    | 0x000 | 0x008 | 0x010 | 0x028 | 0x030 => s.tw .ring 0 r (off / 8)
    | _ => 0

/-- RING_ENABLE (R447). -/
def execRingEnable (m : Mst) (r : RingNo) (v : Word) (s : State) : Answer :=
  (s.ringPageWrite m.toNat r.toNat 0x000 v.toNat).done

/-- RING_TAIL (R447). -/
def execRingTail (m : Mst) (r : RingNo) (v : Word) (s : State) : Answer :=
  (s.ringPageWrite m.toNat r.toNat 0x018 v.toNat).done

/-- RING_CONSUMED (R448). -/
def execRingConsumed (m : Mst) (r : RingNo) (v : Word) (s : State) : Answer :=
  (s.ringPageWrite m.toNat r.toNat 0x020 v.toNat).done

/-! ## MSI-X tables (R442, R454) -/

/-- A vector is unmasked: its pending message is sent once. -/
def State.unmask (s : State) (fn v : Nat) : State :=
  if fnVectors fn ≤ v ∨ 16 < fn then s
  else
    let s := s.pt .msix 0 (fn * 256 + v) msix_mask 0
    if s.tb .msix 0 (fn * 256 + v) msix_pba then (s.pt .msix 0 (fn * 256 + v) msix_pba 0).msi fn v else s

/-- MSIX_VECTOR_UNMASK (R454). -/
def execMsixVectorUnmask (fn : BitVec 5) (vector : Byte) (s : State) : Answer := .next (s.unmask fn.toNat vector.toNat)

/-- A write of 4 or 8 bytes of a function's MSI-X table; the PBA takes none. -/
def State.msixWrite (s : State) (fn a len v : Nat) : State :=
  let i := fn * 256 + a / 16
  let wd := a / 8 % 2
  if fnVectors fn * 16 ≤ a then s
  else
    let new := putBits (s.tw .msix 0 i wd) (8 * (a % 8)) (8 * len) v
    let s := s.storeTw .msix 0 i wd new
    if wd = 1 ∧ !s.tb .msix 0 i msix_mask then s.unmask fn (a / 16) else s

/-- A qword of a function's MSI-X table or PBA. -/
def State.msixRead (s : State) (fn a : Nat) : Nat :=
  if a < fnVectors fn * 16 then s.tw .msix 0 (fn * 256 + a / 16) (a / 8 % 2)
  else if 0x1000 ≤ a then
    (upTo 64).foldl (fun w i =>
      let v := 8 * (a - 0x1000) + i
      if v < fnVectors fn then w + s.t .msix 0 (fn * 256 + v) msix_pba * 2 ^ i else w) 0
  else 0

/-! ## BAR accesses (R442, R443, R479) -/

/-- A BAR access that is dropped (R443): it reads zero. -/
def State.badAccess (s : State) : State := (s.inc .pci PCI_BAD_ACCESS_count).raise .pci cPCI_BAD_ACCESS

/-- The access has a size and an alignment that the BAR answers: BAR0 and the ring pages take aligned 8-byte accesses, and
aligned 4-byte reads; the MSI-X table takes both. -/
def barFits (bar a len : Nat) (write : Bool) : Bool :=
  (len == 8 && a % 8 == 0) || (len == 4 && a % 4 == 0 && (bar == 4 || !write))

/-- A write of a BAR. -/
def State.barWrite (s : State) (m bar a len v : Nat) : State :=
  if !barFits bar a len true then s.badAccess
  else match bar with
    | 0 => s.regWrite m (a / 4096) (a % 4096) v
    | 2 => s.ringPageWrite m (a / 4096) (a % 4096) v
    | 4 => match hostFn m with
      | none => s
      | some fn => s.msixWrite fn a len v
    | _ => s.badAccess

/-- A read of a BAR: the word that holds the bytes, and the state. -/
def State.barRead (s : State) (m bar a : Nat) : Nat × State :=
  match bar with
  | 0 =>
    let r := s.regRead m (a / 4096) (a / 8 * 8 % 4096)
    (r.2.1, r.2.2)
  | 2 => (s.ringPageRead m (a / 4096) (a / 8 * 8 % 4096), s)
  | 4 => match hostFn m with
    | none => (0, s)
    | some fn => (s.msixRead fn (a / 8 * 8), s)
  | _ => (0, s.badAccess)

/-- REGISTER_WRITE (R479). -/
def execRegisterWrite (m : Mst) (bar : BitVec 3) (addr : BitVec 26) (len : BitVec 4) (v : Word) (s : State) : Answer :=
  (s.barWrite m.toNat bar.toNat addr.toNat len.toNat v.toNat).done

/-- REGISTER_READ (R39, R443). -/
def execRegisterRead (m : Mst) (bar : BitVec 3) (addr : BitVec 26) (len : BitVec 4) (s : State) : Answer :=
  State.done (if barFits bar.toNat addr.toNat len.toNat false then
      (s.barRead m.toNat bar.toNat addr.toNat).2.emit (.bar (masterFn m.toNat)) 0
        [bits (s.barRead m.toNat bar.toNat addr.toNat).1 (8 * (addr.toNat % 8)) (8 * len.toNat)] []
    else s.badAccess.emit (.bar (masterFn m.toNat)) 0 [0] [])

/-! ## Serving the rings (R448 to R453) -/

/-- A ring has a command to take and room for its record. -/
def State.ringReady (s : State) (r : Nat) : Bool :=
  s.tb .ring 0 r ring_enable && !s.tb .ring 0 r ring_waiting && s.rg r ring_head != s.rg r ring_tail &&
    (s.rg r ring_written + 2 ^ 32 - s.rg r ring_consumed) % 2 ^ 32 != 2 ^ s.rg r ring_cpl_log2

/-- The ring that the Thorax serves next: the first that is ready after the one served last, in cyclic order of ring
number; none while a debug halt holds the Thorax (R387, R448). -/
def State.nextRing (s : State) : Option Nat :=
  if s.gb .dbg DBG_STATUS_all_halted then none
  else ((upTo 64).map fun i => (s.hst.turn + 1 + i) % 64).find? s.ringReady

/-- The words of the command at a ring's head. -/
def State.ringCmd (s : State) (r : Nat) : List Nat :=
  let bs := memReads s.host (hostAddr (s.ringOwner r)
    (s.rg r ring_cmd_base * 4096 + s.rg r ring_head % 2 ^ s.rg r ring_cmd_log2 * 64)) 64
  (upTo 8).map fun i => ofLeBytes (slice (8 * i) 8 bs)

/-- The words that an opcode names, from w0 on. -/
def ringWords (op : Nat) : Nat := [1, 2, 4, 3, 4, 2, 2, 2, 2].getD op 1

/-- A command is malformed (R452): a reserved opcode, or a reserved word that is not zero. -/
def ringBad (w : List Nat) : Bool :=
  8 < bits (w.getD 0 0) 0 8 || bits (w.getD 0 0) 8 24 != 0 || (w.drop (ringWords (bits (w.getD 0 0) 0 8))).any (· != 0)

/-- A ring's interrupt is sent (R454). -/
def State.ringMsi (s : State) (r : Nat) : State :=
  let s : State := { s.prg r ring_unsignalled 0 with hst := { s.hst with coal := s.hst.coal.filter (· != r) } }
  s.msi (s.ringOwner r) (s.rg r ring_vector)

/-- A record counts towards the interrupt of its ring: at coal_count it is sent, and the first starts the timer. -/
def State.ringNote (s : State) (r : Nat) : State :=
  if !s.tb .ring 0 r ring_irq_en then s
  else
    let n := s.rg r ring_unsignalled + 1
    let s := s.prg r ring_unsignalled n
    if s.rg r ring_coal_count ≤ n then s.ringMsi r
    else if s.rg r ring_coal_us ≠ 0 ∧ !s.hst.coal.contains r then
      { s with hst := { s.hst with coal := s.hst.coal ++ [r] } }
    else s

/-- A completion record of the command that its ring took last, and then its interrupt (R448, R452). -/
def State.ringRecord (s : State) (r op tag : Nat) (c : Code) (value : Nat) : State :=
  let n := s.rg r ring_written
  let slot := (s.rg r ring_head + 2 ^ 32 - 1) % 2 ^ s.rg r ring_cmd_log2
  let a := s.rg r ring_cpl_base * 4096 + n % 2 ^ s.rg r ring_cpl_log2 * 32
  let w0 := n + c.val * 2 ^ 32 + op * 2 ^ 40 + slot * 2 ^ 48
  let s := s.writeBuf (s.ringOwner r) true 0 a ([w0, tag, value % 2 ^ 64, 0].flatMap (leBytes 8))
  let s := (s.prg r ring_written ((n + 1) % 2 ^ 32)).inc .pci PCI_CMDS_count
  let s := if c = .ok then s else s.inc .pci PCI_CMD_REFUSED_count
  s.ringNote r

/-- The master that a ring's commands act as, by way of the ring (R450). -/
def State.ringMst (s : State) (r : Nat) : Nat := 0x110 + s.ringOwner r

/-- A ring's command is taken, and the turn is the ring's. -/
def State.ringTake (s : State) (r : Nat) : State :=
  { s.prg r ring_head ((s.rg r ring_head + 1) % 2 ^ 32) with hst := { s.hst with turn := r } }

/-- A ring waits on a status register of a page. -/
def State.ringHold (s : State) (r pg st tag : Nat) : State :=
  { s.prg r ring_waiting 1 with hst := { s.hst with waits := s.hst.waits ++ [(r, pg, st, tag)] } }

/-- The command of an opcode at the head of ring `r` is taken, when it is the ring's turn; `f` carries it out and answers
its code and value, or leaves the ring waiting on a status register. -/
def State.ringServe (s : State) (r op : Nat) (f : Nat → List Nat → State → Code × Nat × Option (Nat × Nat) × State) : State :=
  let w := s.ringCmd r
  let o := bits (w.getD 0 0) 0 8
  let tag := bits (w.getD 0 0) 32 32
  if s.nextRing ≠ some r ∨ (o ≠ op ∧ !(op = 0 ∧ 8 < o)) then s
  else
    let s := s.ringTake r
    if s.boot.thxRestart then s.ringRecord r o tag .notReady 0
    else if ringBad w then s.ringRecord r o tag .badArg 0
    else
      let x := f (s.ringMst r) w s
      match x.2.2.1 with
      | none => x.2.2.2.ringRecord r o tag x.1 x.2.1
      | some e => x.2.2.2.ringHold r e.1 e.2 tag

/-- NOP. -/
def State.ringNop (_m : Nat) (_w : List Nat) (s : State) : Code × Nat × Option (Nat × Nat) × State := (.ok, 0, none, s)

/-- NOP, and the reserved opcodes, which complete with BAD_ARG (R452). -/
def execNop (r : RingNo) (s : State) : Answer := (s.ringServe r.toNat 0 State.ringNop).done

/-- The page and the offset that a command names. -/
def cmdPage (w : List Nat) : Nat := bits (w.getD 1 0) 0 14
def cmdOff (w : List Nat) : Nat := bits (w.getD 1 0) 14 12

/-- REG_READ. -/
def State.ringRegRead (m : Nat) (w : List Nat) (s : State) : Code × Nat × Option (Nat × Nat) × State :=
  if cmdOff w % 8 ≠ 0 then (.badArg, 0, none, s)
  else
    let r := s.regRead m (cmdPage w) (cmdOff w)
    (r.1, r.2.1, none, r.2.2)

/-- REG_READ (R450). -/
def execRegRead (r : RingNo) (s : State) : Answer := (s.ringServe r.toNat 1 State.ringRegRead).done

/-- A register of a page has the layout of SWT_TBL_STATUS: a code, a busy bit and a sequence number (R449). -/
def isStatus (b : Blk) (off : Nat) : Bool :=
  let fs := (fieldsAt b.regs off).map fun d => (d.fld.lo, d.fld.w)
  off % 8 == 0 && fs.contains (0, 8) && fs.contains (8, 1) && fs.contains (32, 32)

/-- REG_WRITE: with wait it completes once the status register shows busy 0, with that register's code (R449); a write that
the page refuses completes with its refusal (R452, assumption 187). -/
def State.ringRegWrite (m : Nat) (w : List Nat) (s : State) : Code × Nat × Option (Nat × Nat) × State :=
  let pg := cmdPage w
  let wait := bit (w.getD 3 0) 0
  let st := bits (w.getD 3 0) 1 12
  let good := match s.blk pg with
    | none => false
    | some b => isStatus b st
  if cmdOff w % 8 ≠ 0 ∨ (wait ∧ !good) then (.badArg, 0, none, s)
  else
    let s' := s.regWrite m pg (cmdOff w) (w.getD 2 0)
    let c := s.writeCode s' pg
    if !wait then (c, 0, none, s')
    else
      let v := (s'.regRead m pg st).2.1
      if c ≠ .ok then (c, v, none, s')
      else if bit v 8 then (.ok, 0, some (pg, st), s')
      else (Code.ofVal (bits v 0 8), v, none, s')

/-- REG_WRITE (R449). -/
def execRegWrite (r : RingNo) (s : State) : Answer := (s.ringServe r.toNat 2 State.ringRegWrite).done

/-- A ring waits no longer. -/
def State.ringFree (s : State) (r : Nat) : State :=
  { s.prg r ring_waiting 0 with hst := { s.hst with waits := s.hst.waits.filter fun e => e.1 != r } }

/-- The command of a waiting ring completes once its status register shows busy 0; a ring that has been stopped meanwhile
gets its record all the same, since the command was taken. -/
def State.waitDone (s : State) (r : Nat) : State :=
  match s.hst.waits.find? fun e => e.1 == r with
  | none => s
  | some (_, pg, st, tag) =>
    let v := (s.regRead (s.ringMst r) pg st).2.1
    if bit v 8 then s
    else
      (s.ringFree r).ringRecord r 2 tag (Code.ofVal (bits v 0 8)) v

/-- RING_WAIT_DONE (R449). -/
def execRingWaitDone (r : RingNo) (s : State) : Answer := (s.waitDone r.toNat).done

/-- The offset of the data register that a table command names. -/
def cmdData (w : List Nat) : Nat := bits (w.getD 1 0) 26 12

/-- A table command that was refused leaves its selection as it was: it has no side effect (R452). -/
def State.unselect (s old : State) (w : List Nat) : State :=
  match old.blk (cmdPage w) with
  | none => s
  | some b => s.setReg b (cmdOff w) (old.reg b (cmdOff w))

/-- TBL_READ: the selection and the data as one step. -/
def State.ringTblRead (m : Nat) (w : List Nat) (s : State) : Code × Nat × Option (Nat × Nat) × State :=
  if cmdOff w % 8 ≠ 0 ∨ cmdData w % 8 ≠ 0 then (.badArg, 0, none, s)
  else
    let s' := s.regWrite m (cmdPage w) (cmdOff w) (w.getD 2 0)
    match s.writeCode s' (cmdPage w) with
    | .ok =>
      let r := s'.regRead m (cmdPage w) (cmdData w)
      (r.1, r.2.1, none, if r.1.refuses then r.2.2.unselect s w else r.2.2)
    | c => (c, 0, none, s')

/-- TBL_READ (R450). -/
def execTblRead (r : RingNo) (s : State) : Answer := (s.ringServe r.toNat 3 State.ringTblRead).done

/-- TBL_WRITE: the selection and the data as one step. -/
def State.ringTblWrite (m : Nat) (w : List Nat) (s : State) : Code × Nat × Option (Nat × Nat) × State :=
  if cmdOff w % 8 ≠ 0 ∨ cmdData w % 8 ≠ 0 then (.badArg, 0, none, s)
  else
    let s' := s.regWrite m (cmdPage w) (cmdOff w) (w.getD 2 0)
    match s.writeCode s' (cmdPage w) with
    | .ok =>
      let s'' := s'.regWrite m (cmdPage w) (cmdData w) (w.getD 3 0)
      let c := s'.writeCode s'' (cmdPage w)
      (c, 0, none, if c.refuses then s''.unselect s w else s'')
    | c => (c, 0, none, s')

/-- TBL_WRITE (R450). -/
def execTblWrite (r : RingNo) (s : State) : Answer := (s.ringServe r.toNat 4 State.ringTblWrite).done

/-- A ring command that names an object rather than a register counts its refusal on the page that it reaches, at the
register that a write of its kind has there (R483, assumption 152). -/
def ringCounted (m : Nat) (b : Blk) (off : Nat) (r : Code × State) : Code × Nat × Option (Nat × Nat) × State :=
  (r.1, 0, none, if r.1.refuses then r.2.refuse m b off r.1 else r.2)

/-- SIGNAL: a virtual id from a virtual function, a physical one from the physical function (R451). -/
def State.ringSig (m : Nat) (w : List Nat) (s : State) : Code × Nat × Option (Nat × Nat) × State :=
  let v := w.getD 1 0
  let r := match vfPart (mst m) with
    | some p => s.signalVirt p (bits v 0 16) (bits v 16 16) (bits v 32 32)
    | none => s.signalPhys (bits v 0 16) (bits v 16 16) (bits v 32 32)
  ringCounted m .syn 0x110 r

/-- RING_SIGNAL (R451). -/
def execRingSignal (r : RingNo) (s : State) : Answer := (s.ringServe r.toNat 5 State.ringSig).done

/-- FLAG: SET or CLR. -/
def State.ringFlg (m : Nat) (w : List Nat) (s : State) : Code × Nat × Option (Nat × Nat) × State :=
  let v := w.getD 1 0
  let id := match vfPart (mst m) with
    | some p => s.xlate p 1 (bits v 0 12)
    | none => some (bits v 0 12)
  match id with
  | none => ringCounted m .syn 0x120 (.denied, s.xlateMiss)
  | some f => ringCounted m .syn 0x120 (s.flagWrite (mst m) f (bits v 12 16) (!bit v 28))

/-- RING_FLAG (R451). -/
def execRingFlag (r : RingNo) (s : State) : Answer := (s.ringServe r.toNat 6 State.ringFlg).done

/-- WATCH: arm or cancel. -/
def State.ringWat (m : Nat) (w : List Nat) (s : State) : Code × Nat × Option (Nat × Nat) × State :=
  let v := w.getD 1 0
  let id := match vfPart (mst m) with
    | some p => s.xlate p 2 (bits v 0 14)
    | none => some (bits v 0 14)
  match id with
  | none => ringCounted m .syn (if bit v 14 then 0x130 else 0x128) (.denied, s)
  | some x => if bit v 14 then ringCounted m .syn 0x130 (s.cancel x) else ringCounted m .syn 0x128 (s.arm x)

/-- RING_WATCH (R451). -/
def execRingWatch (r : RingNo) (s : State) : Answer := (s.ringServe r.toNat 7 State.ringWat).done

/-- STRICT: a partition's strict bit, from its own virtual function (R370). -/
def State.ringStrict (m : Nat) (w : List Nat) (s : State) : Code × Nat × Option (Nat × Nat) × State :=
  match vfPart (mst m) with
  | none => ringCounted m .chr 0x1C8 (.denied, s)
  | some p =>
    if !s.listsIdle p ∨ !s.rdxFree p then ringCounted m .chr 0x1C8 (.refusedState, s)
    else (.ok, 0, none, s.pt .chrPart 0 p chrPart_strict (bits (w.getD 1 0) 0 1))

/-- STRICT (R370). -/
def execStrict (r : RingNo) (s : State) : Answer := (s.ringServe r.toNat 8 State.ringStrict).done

/-- RING_COAL_TIMER (R454). -/
def execRingCoalTimer (r : RingNo) (s : State) : Answer :=
  .next (if s.hst.coal.contains r.toNat then s.ringMsi r.toNat else s)

/-! ## Resets of the endpoint (R445) -/

/-- Rings stop with their configuration kept, and the records of commands already taken are discarded; the MSI-X tables
and PBAs of the functions clear. -/
def State.stopFns (s : State) (fns : List Nat) : State :=
  let rs := (upTo 64).filter fun r => fns.contains (s.ringOwner r)
  let s := rs.foldl (fun s r => (s.stopRing r).prg r ring_waiting 0) s
  let s : State := { s with hst := { s.hst with
    waits := s.hst.waits.filter fun e => !rs.contains e.1
    coal := s.hst.coal.filter fun r => !rs.contains r } }
  fns.foldl (fun s fn => s.clearTab .msix 0 (fn * 256) 256) s

/-- The endpoint resets: every function's rings and vectors, and the host write-outs. -/
def State.endpointReset (s : State) : State := (s.stopFns (upTo 17)).abortHostSnaps

/-- PCIE_PERST_N at a level, and what follows from it. -/
def State.setPerst (s : State) (v : Bool) : State := { s with pins := { s.pins with perstN := v } }
def State.perstActs (s : State) : State :=
  if !s.pins.perstN then s.endpointReset.pciDown else if s.st .pci = .off ∨ s.st .pci = .faulted then s else s.pciUp

/-- PCIE_PERST_N (R445): the endpoint is held in reset while it is low, and trains when it rises. -/
def execPciePerstN (level : Bool) (s : State) : Answer :=
  State.done (if level = s.pins.perstN then s else (s.setPerst level).perstActs)

/-- PCIE_LINK_DOWN (R445). -/
def execPcieLinkDown (s : State) : Answer :=
  ((s.endpointReset.pciDown.inc .pci PCI_LINK_DOWNS_count).raise .pci cPCIE_LINK_DOWN).done

/-- FLR (R445). -/
def execFlr (fn : BitVec 5) (s : State) : Answer :=
  .next (if fn.toNat = 0 then s.endpointReset else if fn.toNat < 17 then s.stopFns [fn.toNat] else s)

end Sys2Proof.Machine
end

