-- ==== Sys2Proof/Machine/LinkLayer.lean ====
section
/-! DEFINITION. The link layer of a TLink port: flits, sidebands, naks and replay (chapter 4). -/

namespace Sys2Proof.Machine

/-- A received flit; a protocol error retrains the port (R68). -/
def State.flitIn (s : State) (port : Nat) (f : List Byte) : State :=
  if s.active port then
    let r := s.rxFlit port f
    if r.1 then r.2.moveStage port 1 else r.2
  else s

/-- FLIT_RX (R73). -/
def execFlitRx (port : PortNo) (f : Flit) (s : State) : Answer := (s.flitIn port.toNat (fit 64 f.bytes)).done

/-- SIDEBAND_RX (R69): its acknowledgement and its credit report, and the acknowledgements that an accepted flit lets the
attach engine send (R210). -/
def execSidebandRx (port : PortNo) (w : BitVec 32) (s : State) : Answer :=
  .next (if s.active port.toNat then (s.rxSide port.toNat w.toNat).acceptOwed port.toNat else s)

/-- NAK_RX (R73). -/
def execNakRx (port : PortNo) (ack : BitVec 16) (s : State) : Answer :=
  State.done (if s.active port.toNat then (s.rxNak port.toNat (ack.toNat % 4096)).acceptOwed port.toNat else s)

/-- The expected flit has not come since the nak (R73). -/
def State.nakAgain (s : State) (port : Nat) : State :=
  match s.ll port with
  | none => s
  | some l => if l.dropping ∧ s.active port then s.sendNak port else s

/-- NAK_REPEAT (R73). -/
def execNakRepeat (port : PortNo) (s : State) : Answer := .next (s.nakAgain port.toNat)

/-- FLIT_TX (R70). -/
def execFlitTx (port : PortNo) (s : State) : Answer :=
  .next (if s.active port.toNat then s.txFlit port.toNat else s)

end Sys2Proof.Machine
end

