-- ==== Sys2Proof/Machine/Mgmt.lean ====
section
/-! DEFINITION. The management I3C port: its requests, its In-Band Interrupts and the recovery commands (chapter 18). -/

namespace Sys2Proof.Machine

/-! ## Requests and responses (R455, R456) -/

/-- A response: the code, the length, the data and the CRC-8 (R455). -/
def State.i3c (s : State) (op : Nat) (c : Code) (data : List Byte) : State :=
  let bs := leBytes 1 c.val ++ leBytes 2 data.length ++ data
  s.emit .mgmt op [c.val] (bs ++ [BitVec.ofNat 8 (crcMsb 8 0x07 0 bs)])

/-- The Thorax serves: started, not restarting, and its cores not halted (R398, R387). -/
def State.thxUp (s : State) : Bool :=
  decide (2 ≤ s.boot.done) && !s.boot.thxRestart && !s.gb .dbg DBG_STATUS_all_halted

/-- A request's frame is sound: its length and its CRC-8 fit. -/
def reqSound (op : Nat) (req : List Byte) : Bool :=
  req.length == ofLeBytes (req.take 2) + 3 &&
    crcMsb 8 0x07 0 (BitVec.ofNat 8 op :: req.take (ofLeBytes (req.take 2) + 2)) == (req.getD (ofLeBytes (req.take 2) + 2) 0).toNat

/-- Recovery mode takes the recovery commands alone, and the running Thorax the others. -/
def State.reqMode (s : State) (op : Nat) : Bool := if s.boot.recovery then decide (0x40 ≤ op) else s.thxUp && decide (op < 0x40)

/-- A request: the opcode, then `req`, its length, arguments and CRC-8. One whose length does not fit is dropped; a bad CRC
completes it with INTEGRITY; recovery commands run in recovery mode alone, and no other command runs there; a command that
takes `n` bytes of arguments (any number where none is given) refuses another number with BAD_ARG. -/
def State.request (s : State) (op : Nat) (req : List Byte) (n : Option Nat) (f : List Byte → State → Code × List Byte × State) :
    State :=
  let len := ofLeBytes (req.take 2)
  let args := slice 2 len req
  if !s.pins.pwrgd then s
  else if req.length ≠ len + 3 then s.raise .thx cI3C_PROTOCOL
  else if crcMsb 8 0x07 0 (BitVec.ofNat 8 op :: req.take (len + 2)) ≠ (req.getD (len + 2) 0).toNat then s.i3c op .integrity []
  else if s.boot.recovery ∧ op < 0x40 then s.i3c op .notReady []
  else if !s.boot.recovery ∧ !s.thxUp then s.i3c op .notReady []
  else if !s.boot.recovery ∧ 0x40 ≤ op then (s.inc .thx THX_I3C_CMDS_count).i3c op .refusedState []
  else
    let s := s.inc .thx THX_I3C_CMDS_count
    if n.any (· != len) then s.i3c op .badArg []
    else
      let r := f args s
      r.2.2.i3c op r.1 r.2.1

/-- What INVENTORY answers: part code, stepping, serial, lifecycle and the Thorax's running revision. -/
def State.mgInventory (_a : List Byte) (s : State) : Code × List Byte × State :=
  let v := s.reg .thx 0x500
  (.ok, leBytes 2 0x0400 ++ leBytes 1 0xB0 ++ leBytes 8 s.serial ++ leBytes 1 s.life ++
    leBytes 2 (if bits v 32 1 = 1 then bits v 16 16 else bits v 0 16), s)

/-- INVENTORY (R9, R455). -/
def execInventory (args : List Byte) (s : State) : Answer := (s.request 0x01 args (some 0) State.mgInventory).done

/-- What HEALTH answers: the power and boot words, the device's level word, heat, power and lanes lost to faults. -/
def State.mgHealth (_a : List Byte) (s : State) : Code × List Byte × State :=
  (.ok, leBytes 8 (s.stored .pwr 0x100) ++ leBytes 8 (s.stored .pwr 0x108) ++ leBytes 8 (s.statusWord .dev) ++
    leBytes 1 (s.g .pwr PWR_THERM_hottest_c) ++ leBytes 1 (s.g .pwr PWR_THERM_hottest_die) ++
    leBytes 2 (s.g .pwr PWR_POWER_window_w) ++ leBytes 8 (s.lostSum LNK_LOST_FAULT_lane_ms), s)

/-- HEALTH (R455). -/
def execHealth (args : List Byte) (s : State) : Answer := (s.request 0x02 args (some 0) State.mgHealth).done

/-- A register read as master 0x06; an offset that names no register is refused. -/
def State.mgReadReg (a : List Byte) (s : State) : Code × List Byte × State :=
  let off := ofLeBytes (slice 2 2 a)
  if off % 8 ≠ 0 ∨ 4096 ≤ off then (.badArg, [], s)
  else
    let r := s.regRead 6 (ofLeBytes (a.take 2)) off
    (r.1, leBytes 8 r.2.1, r.2.2)

/-- READ_REG (R455). -/
def execReadReg (args : List Byte) (s : State) : Answer := (s.request 0x03 args (some 4) State.mgReadReg).done

/-- A register written as master 0x06, and the code that it met. -/
def State.mgmtWrite (s : State) (b : Blk) (off v : Nat) : Code × List Byte × State :=
  let s' := s.regWrite 6 b.page off v
  (s.writeCode s' b.page, [], s')

/-- Faults acknowledged up to a level. -/
def State.mgAckFaults (a : List Byte) (s : State) : Code × List Byte × State :=
  let l := ofLeBytes a
  if 7 < l then (.badArg, [], s) else s.mgmtWrite .fltDev 0x108 (1 + l * 4)

/-- ACK_FAULTS (R455). -/
def execAckFaults (args : List Byte) (s : State) : Answer := (s.request 0x04 args (some 1) State.mgAckFaults).done

/-- A power command: 1 PUPA, 2 DIAPAUSE, 3 WAKE. -/
def State.mgPower (a : List Byte) (s : State) : Code × List Byte × State :=
  let op := ofLeBytes a
  if op = 0 ∨ 3 < op then (.badArg, [], s) else s.mgmtWrite .pwr PWR_CMD_op.off op

/-- POWER (R455). -/
def execPower (args : List Byte) (s : State) : Answer := (s.request 0x05 args (some 1) State.mgPower).done

/-- The watts of PWR_CAP, its other field as it stands. -/
def State.mgSetCap (a : List Byte) (s : State) : Code × List Byte × State :=
  let w := ofLeBytes a
  if 4096 ≤ w then (.badArg, [], s)
  else s.mgmtWrite .pwr PWR_CAP_watts.off (putBits (s.reg .pwr PWR_CAP_watts.off) PWR_CAP_watts.lo PWR_CAP_watts.w w)

/-- SET_CAP (R455). -/
def execSetCap (args : List Byte) (s : State) : Answer := (s.request 0x06 args (some 2) State.mgSetCap).done

/-! ## In-Band Interrupts (R457) -/

/-- The level and the causes of interrupts. -/
def State.mgIbiCfg (a : List Byte) (s : State) : Code × List Byte × State :=
  let l := ofLeBytes (a.take 1)
  if 7 < l then (.badArg, [], s)
  else (.ok, [], (s.p .thx THX_I3C_ibi_level l).p .thx THX_I3C_ibi_en (ofLeBytes (a.drop 1) % 8))

/-- IBI_CFG (R457). -/
def execIbiCfg (args : List Byte) (s : State) : Answer := (s.request 0x07 args (some 2) State.mgIbiCfg).done

/-- The cause of an In-Band Interrupt holds: the DEV level for 1, THERMAL_HOT latched for 2; a change of the power state
and Eclosion have happened. -/
def State.ibiHolds (s : State) (byte : Nat) : Bool :=
  match byte with
  | 1 => decide (s.g .thx THX_I3C_ibi_level ≤ (s.pin 5 .dev).getD 0)
  | 2 => bit (s.latched .pwr) cTHERMAL_HOT.bit
  | _ => true

/-- The interrupt that has waited longest waits no more. -/
def State.dropIbi (s : State) : State := { s with hst := { s.hst with ibiHeld := s.hst.ibiHeld.tail } }

/-- The controller's answer to the interrupt that has waited longest: accepted, or raised again while its cause holds. -/
def State.ibiAnswer (s : State) (accepted : Bool) : State :=
  match s.hst.ibiHeld with
  | [] => s
  | b :: _ => if accepted ∨ s.ibiHolds b = false then s.dropIbi else s.emit .ibi b [b] []

/-- IBI_RETRY (R457). -/
def execIbiRetry (accepted : Bool) (s : State) : Answer := .next (s.ibiAnswer accepted)

/-- DYNAMIC_ADDRESS_ASSIGNMENT (R455). -/
def execDynamicAddressAssignment (addr : BitVec 7) (s : State) : Answer :=
  .next (if s.pins.pwrgd then s.p .thx THX_I3C_dyn_addr addr.toNat else s)

/-! ## Recovery (R395, R456) -/

/-- The cause of recovery, and the slots that failed. -/
def State.mgRecStatus (_a : List Byte) (s : State) : Code × List Byte × State :=
  (.ok, leBytes 1 s.boot.cause ++ s.boot.failed.flatMap (leBytes 1), s)

/-- REC_STATUS (R456). -/
def execRecStatus (args : List Byte) (s : State) : Answer := (s.request 0x40 args (some 0) State.mgRecStatus).done

/-- An image of a kind begins. -/
def State.mgRecBegin (a : List Byte) (s : State) : Code × List Byte × State :=
  let k := ofLeBytes a
  if k ≠ 0 ∧ k ≠ 2 then (.badArg, [], s)
  else (.ok, [], { s with boot := { s.boot with recKind := some k, recData := [], recTop := 0 } })

/-- REC_BEGIN (R456). -/
def execRecBegin (args : List Byte) (s : State) : Answer := (s.request 0x41 args (some 1) State.mgRecBegin).done

/-- The size of a slot that recovery writes (R391). -/
def recSize (k : Nat) : Nat := if k = 0 then 8 * 2 ^ 20 else 2 ^ 20

/-- Bytes of the image that is being written. -/
def State.recWrite (a : List Byte) (s : State) : Code × List Byte × State :=
  let o := ofLeBytes (a.take 4)
  let bs := a.drop 4
  match s.boot.recKind with
  | none => (.refusedState, [], s)
  | some k =>
    if a.length < 4 ∨ 240 < bs.length ∨ recSize k < o + bs.length then (.badArg, [], s)
    else (.ok, [], { s with boot := { s.boot with
      recData := memWrites s.boot.recData o bs, recTop := max s.boot.recTop (o + bs.length) } })

/-- REC_DATA (R456). -/
def execRecData (args : List Byte) (s : State) : Answer := (s.request 0x42 args none State.recWrite).done

/-- An accepted image goes into the slot that failed: the committed one, which boot takes first. -/
def State.recInstall (s : State) (k : Nat) (img : List Byte) : State :=
  let h := img.take 512
  let s : State := { s with boot := { s.boot with recAccepted := k :: s.boot.recAccepted.filter (· != k) } }
  if k = 0 then s.setSlot .thx (s.g .thx THX_FW_SLOTS_committed) (some ⟨hdrRev h, hdrSvn h, imageDigest h, true⟩)
  else
    let c := Config.cfgBody (slice 512 (hdrLen h) img)
    let pr : Profile := ⟨c.1.filter fun e => profileReg e.1, c.2.1.filter fun e => profileTab e.1, c.2.2.1, c.2.2.2⟩
    { s with mram :=
      if s.mram.cfgCommitted = 0 then { s.mram with cfgA := some pr, cfgDigestA := imageDigest h, repairs := c.2.2.2 }
      else { s.mram with cfgB := some pr, cfgDigestB := imageDigest h, repairs := c.2.2.2 } }

/-- The image is complete: the result of R393. -/
def State.recFinish (_a : List Byte) (s : State) : Code × List Byte × State :=
  match s.boot.recKind with
  | none => (.refusedState, [], s)
  | some k =>
    let s : State := { s with boot := { s.boot with recKind := none } }
    let img := memReads s.boot.recData 0 (min s.boot.recTop (recSize k))
    let c := if !s.boot.failed.contains k then Code.refusedState
      else s.judge k 0 (recSize k) (if k = 0 then s.g .thx THX_FW_SVN_floor else 0) img
    if c = .ok then (.ok, [], s.recInstall k img) else (c, [], s)

/-- REC_END (R456). -/
def execRecEnd (args : List Byte) (s : State) : Answer := (s.request 0x43 args (some 0) State.recFinish).done

/-- Boot restarts once every slot that failed has an accepted image. -/
def State.mgRecBoot (_a : List Byte) (s : State) : Code × List Byte × State :=
  if s.boot.failed.all s.boot.recAccepted.contains then (.ok, [], s.startBoot) else (.refusedState, [], s)

/-- REC_BOOT (R456). -/
def execRecBoot (args : List Byte) (s : State) : Answer := (s.request 0x44 args (some 0) State.mgRecBoot).done

end Sys2Proof.Machine
end

