-- ==== Sys2Proof/Machine/Dispatch.lean ====
section
/-! DEFINITION. The dispatch of a command to its meaning, one arm per command. -/

namespace Sys2Proof.Machine

def exec (i : Instr) (s : State) : Host.Outcome State Fault Refusal :=
  match i with
  | .registerWrite m bar addr len v => Sys2Proof.Machine.execRegisterWrite m bar addr len v s
  | .ctrlEnable m pg v => Sys2Proof.Machine.execCtrlEnable m pg v s
  | .ctrlQuiesce m pg v => Sys2Proof.Machine.execCtrlQuiesce m pg v s
  | .ctrlFreeze m pg v => Sys2Proof.Machine.execCtrlFreeze m pg v s
  | .ctrlEvacuate m pg v => Sys2Proof.Machine.execCtrlEvacuate m pg v s
  | .ctrlReset m pg v => Sys2Proof.Machine.execCtrlReset m pg v s
  | .trainingDone pg => Sys2Proof.Machine.execTrainingDone pg s
  | .quiesceDrainDone pg => Sys2Proof.Machine.execQuiesceDrainDone pg s
  | .captureMarker pg => Sys2Proof.Machine.execCaptureMarker pg s
  | .freezeCaptureDone pg => Sys2Proof.Machine.execFreezeCaptureDone pg s
  | .snapTake m pg v => Sys2Proof.Machine.execSnapTake m pg v s
  | .snapWriteoutDone pg => Sys2Proof.Machine.execSnapWriteoutDone pg s
  | .pageNoAnswer m pg => Sys2Proof.Machine.execPageNoAnswer m pg s
  | .errForce m pg v => Sys2Proof.Machine.execErrForce m pg v s
  | .errAck m pg v => Sys2Proof.Machine.execErrAck m pg v s
  | .errorEvent pg cls arg => Sys2Proof.Machine.execErrorEvent pg cls arg s
  | .fltAckBelow m pg v => Sys2Proof.Machine.execFltAckBelow m pg v s
  | .pinMismatch pg child => Sys2Proof.Machine.execPinMismatch pg child s
  | .lostMsTick k => Sys2Proof.Machine.execLostMsTick k s
  | .lnkGrpCfgWrite m pg v => Sys2Proof.Machine.execLnkGrpCfgWrite m pg v s
  | .lanePower m pg v => Sys2Proof.Machine.execLanePower m pg v s
  | .laneCtrlRetrain m pg v => Sys2Proof.Machine.execLaneCtrlRetrain m pg v s
  | .clrCounters m pg v => Sys2Proof.Machine.execClrCounters m pg v s
  | .spareRequest m pg v => Sys2Proof.Machine.execSpareRequest m pg v s
  | .spareRevert m pg v => Sys2Proof.Machine.execSpareRevert m pg v s
  | .spareRequestDequeue k => Sys2Proof.Machine.execSpareRequestDequeue k s
  | .prbsCtrlWrite m pg v => Sys2Proof.Machine.execPrbsCtrlWrite m pg v s
  | .detectRetry port => Sys2Proof.Machine.execDetectRetry port s
  | .partnerDetected port an => Sys2Proof.Machine.execPartnerDetected port an s
  | .trainDone port => Sys2Proof.Machine.execTrainDone port s
  | .trainTimeout port => Sys2Proof.Machine.execTrainTimeout port s
  | .lockDone port => Sys2Proof.Machine.execLockDone port s
  | .lockTimeout port => Sys2Proof.Machine.execLockTimeout port s
  | .capability port msg => Sys2Proof.Machine.execCapability port msg s
  | .capexResend port => Sys2Proof.Machine.execCapexResend port s
  | .addrRecheck g => Sys2Proof.Machine.execAddrRecheck g s
  | .retrain port => Sys2Proof.Machine.execRetrain port s
  | .laneLockLost k n => Sys2Proof.Machine.execLaneLockLost k n s
  | .sparePolicyWindow k n => Sys2Proof.Machine.execSparePolicyWindow k n s
  | .sparePrepare port idx j => Sys2Proof.Machine.execSparePrepare port idx j s
  | .spareTrainDone k => Sys2Proof.Machine.execSpareTrainDone k s
  | .spareTrainFail k => Sys2Proof.Machine.execSpareTrainFail k s
  | .spareSwitch port idx j sw => Sys2Proof.Machine.execSpareSwitch port idx j sw s
  | .spareAck port idx j sw => Sys2Proof.Machine.execSpareAck port idx j sw s
  | .spareSwitchover k => Sys2Proof.Machine.execSpareSwitchover k s
  | .refclkLost k => Sys2Proof.Machine.execRefclkLost k s
  | .refclkRestored k => Sys2Proof.Machine.execRefclkRestored k s
  | .dataCodeword k n side body parity => Sys2Proof.Machine.execDataCodeword k n side body parity s
  | .codewordTx k n => Sys2Proof.Machine.execCodewordTx k n s
  | .flitRx port f => Sys2Proof.Machine.execFlitRx port f s
  | .sidebandRx port w => Sys2Proof.Machine.execSidebandRx port w s
  | .nakRx port ack => Sys2Proof.Machine.execNakRx port ack s
  | .nakRepeat port => Sys2Proof.Machine.execNakRepeat port s
  | .flitTx port => Sys2Proof.Machine.execFlitTx port s
  | .ctxOpen m t v => Sys2Proof.Machine.execCtxOpen m t v s
  | .ctxClose m t v => Sys2Proof.Machine.execCtxClose m t v s
  | .ctxReset m t v => Sys2Proof.Machine.execCtxReset m t v s
  | .ctxEntryWrite m t v => Sys2Proof.Machine.execCtxEntryWrite m t v s
  | .localPut g c => Sys2Proof.Machine.execLocalPut g c s
  | .localGet g c => Sys2Proof.Machine.execLocalGet g c s
  | .localSend g c => Sys2Proof.Machine.execLocalSend g c s
  | .localAtomic g c => Sys2Proof.Machine.execLocalAtomic g c s
  | .localRecvPost g c => Sys2Proof.Machine.execLocalRecvPost g c s
  | .ctxQueueIssue c => Sys2Proof.Machine.execCtxQueueIssue c s
  | .localRdData g tag data => Sys2Proof.Machine.execLocalRdData g tag data s
  | .txPacketSend c => Sys2Proof.Machine.execTxPacketSend c s
  | .put t p => Sys2Proof.Machine.execPut t p s
  | .getReq t p => Sys2Proof.Machine.execGetReq t p s
  | .getResp t p => Sys2Proof.Machine.execGetResp t p s
  | .send t p => Sys2Proof.Machine.execSend t p s
  | .atomicAdd t p => Sys2Proof.Machine.execAtomicAdd t p s
  | .atomicResp t p => Sys2Proof.Machine.execAtomicResp t p s
  | .ack t p => Sys2Proof.Machine.execAck t p s
  | .ackTimer c => Sys2Proof.Machine.execAckTimer c s
  | .localCpl c => Sys2Proof.Machine.execLocalCpl c s
  | .retxTimeout c psn => Sys2Proof.Machine.execRetxTimeout c psn s
  | .noResourceRetry c psn => Sys2Proof.Machine.execNoResourceRetry c psn s
  | .pathHoldExpiry t path => Sys2Proof.Machine.execPathHoldExpiry t path s
  | .frameIngress port f => Sys2Proof.Machine.execFrameIngress port f s
  | .admitRetry port vc => Sys2Proof.Machine.execAdmitRetry port vc s
  | .xbarSlot last => Sys2Proof.Machine.execXbarSlot last s
  | .ethRelease port => Sys2Proof.Machine.execEthRelease port s
  | .egressSelect port => Sys2Proof.Machine.execEgressSelect port s
  | .ageOscTick d => Sys2Proof.Machine.execAgeOscTick d s
  | .l3Slot a => Sys2Proof.Machine.execL3Slot a s
  | .l3ReseqGiveup t => Sys2Proof.Machine.execL3ReseqGiveup t s
  | .tblCmdRead m t v => Sys2Proof.Machine.execTblCmdRead m t v s
  | .tblCmdWrite m t v => Sys2Proof.Machine.execTblCmdWrite m t v s
  | .tblCmdInsert m t v => Sys2Proof.Machine.execTblCmdInsert m t v s
  | .tblCmdDelete m t v => Sys2Proof.Machine.execTblCmdDelete m t v s
  | .tblCmdFind m t v => Sys2Proof.Machine.execTblCmdFind m t v s
  | .tblCmdDone t => Sys2Proof.Machine.execTblCmdDone t s
  | .slotLagWindow => Sys2Proof.Machine.execSlotLagWindow s
  | .evacStartQueued => Sys2Proof.Machine.execEvacStartQueued s
  | .evacDrainEnd t expired => Sys2Proof.Machine.execEvacDrainEnd t expired s
  | .evacRenumber => Sys2Proof.Machine.execEvacRenumber s
  | .memberRejoin t => Sys2Proof.Machine.execMemberRejoin t s
  | .limitEntryWrite m pg v => Sys2Proof.Machine.execLimitEntryWrite m pg v s
  | .spillReadback d acct => Sys2Proof.Machine.execSpillReadback d acct s
  | .spillReadDone d acct uncorr => Sys2Proof.Machine.execSpillReadDone d acct uncorr s
  | .alloc m pg v => Sys2Proof.Machine.execAlloc m pg v s
  | .free m pg v => Sys2Proof.Machine.execFree m pg v s
  | .poolAllocReq d src size => Sys2Proof.Machine.execPoolAllocReq d src size s
  | .poolFreeReq d src addr => Sys2Proof.Machine.execPoolFreeReq d src addr s
  | .poolCacheRefill d pool => Sys2Proof.Machine.execPoolCacheRefill d pool s
  | .poolCacheReturn d pool => Sys2Proof.Machine.execPoolCacheReturn d pool s
  | .poolInitDone d => Sys2Proof.Machine.execPoolInitDone d s
  | .clsEntryWrite m pg v => Sys2Proof.Machine.execClsEntryWrite m pg v s
  | .pfcRx port bytes => Sys2Proof.Machine.execPfcRx port bytes s
  | .pfcPauseExpiry port vc => Sys2Proof.Machine.execPfcPauseExpiry port vc s
  | .pfcRefresh port vc => Sys2Proof.Machine.execPfcRefresh port vc s
  | .tokenAccrual t cycles => Sys2Proof.Machine.execTokenAccrual t cycles s
  | .check m v => Sys2Proof.Machine.execCheck m v s
  | .load m v => Sys2Proof.Machine.execLoad m v s
  | .routeLoadDone => Sys2Proof.Machine.execRouteLoadDone s
  | .dlScan d => Sys2Proof.Machine.execDlScan d s
  | .dlRecover port vc => Sys2Proof.Machine.execDlRecover port vc s
  | .dlHoldExpiry port vc => Sys2Proof.Machine.execDlHoldExpiry port vc s
  | .dlClear m v => Sys2Proof.Machine.execDlClear m v s
  | .meshMcForward h => Sys2Proof.Machine.execMeshMcForward h s
  | .rdxAdmit m n v => Sys2Proof.Machine.execRdxAdmit m n v s
  | .retire m n v => Sys2Proof.Machine.execRetire m n v s
  | .rdxReset m n v => Sys2Proof.Machine.execRdxReset m n v s
  | .save m n v => Sys2Proof.Machine.execSave m n v s
  | .restore m n v => Sys2Proof.Machine.execRestore m n v s
  | .rdxCmdDone n => Sys2Proof.Machine.execRdxCmdDone n s
  | .collContrib port p => Sys2Proof.Machine.execCollContrib port p s
  | .claim c => Sys2Proof.Machine.execClaim c s
  | .claimGrant c => Sys2Proof.Machine.execClaimGrant c s
  | .engineAccumulate n => Sys2Proof.Machine.execEngineAccumulate n s
  | .lineRelease c line => Sys2Proof.Machine.execLineRelease c line s
  | .epilogue c line => Sys2Proof.Machine.execEpilogue c line s
  | .resultSend c => Sys2Proof.Machine.execResultSend c s
  | .collPartial port p => Sys2Proof.Machine.execCollPartial port p s
  | .collResult port p => Sys2Proof.Machine.execCollResult port p s
  | .collSmall port p => Sys2Proof.Machine.execCollSmall port p s
  | .scOpen m v => Sys2Proof.Machine.execScOpen m v s
  | .scClose m v => Sys2Proof.Machine.execScClose m v s
  | .signal src counter epoch amount => Sys2Proof.Machine.execSignal src counter epoch amount s
  | .synSignal m v => Sys2Proof.Machine.execSynSignal m v s
  | .clear m v => Sys2Proof.Machine.execClear m v s
  | .flagSet m v => Sys2Proof.Machine.execFlagSet m v s
  | .flagClr m v => Sys2Proof.Machine.execFlagClr m v s
  | .watchArm m v => Sys2Proof.Machine.execWatchArm m v s
  | .watchCancel m v => Sys2Proof.Machine.execWatchCancel m v s
  | .barArm m v => Sys2Proof.Machine.execBarArm m v s
  | .barDisarm m v => Sys2Proof.Machine.execBarDisarm m v s
  | .synTblWrite m v => Sys2Proof.Machine.execSynTblWrite m v s
  | .waitScan => Sys2Proof.Machine.execWaitScan s
  | .waitClear m v => Sys2Proof.Machine.execWaitClear m v s
  | .start m v => Sys2Proof.Machine.execStart m v s
  | .pause m v => Sys2Proof.Machine.execPause m v s
  | .resume m v => Sys2Proof.Machine.execResume m v s
  | .stop m v => Sys2Proof.Machine.execStop m v s
  | .pauseTakesEffect p l => Sys2Proof.Machine.execPauseTakesEffect p l s
  | .gangSchedule cls => Sys2Proof.Machine.execGangSchedule cls s
  | .halt p l => Sys2Proof.Machine.execHalt p l s
  | .ldw p l => Sys2Proof.Machine.execLdw p l s
  | .stw p l => Sys2Proof.Machine.execStw p l s
  | .mm p l => Sys2Proof.Machine.execMm p l s
  | .mmtDx p l => Sys2Proof.Machine.execMmtDx p l s
  | .mmtDw p l => Sys2Proof.Machine.execMmtDw p l s
  | .epi p l => Sys2Proof.Machine.execEpi p l s
  | .cvt p l => Sys2Proof.Machine.execCvt p l s
  | .rdxOp p l => Sys2Proof.Machine.execRdxOp p l s
  | .snd p l => Sys2Proof.Machine.execSnd p l s
  | .rcvPostWait p l => Sys2Proof.Machine.execRcvPostWait p l s
  | .rcvPost p l => Sys2Proof.Machine.execRcvPost p l s
  | .rcvFirst p l => Sys2Proof.Machine.execRcvFirst p l s
  | .waitCounter p l => Sys2Proof.Machine.execWaitCounter p l s
  | .waitFlag p l => Sys2Proof.Machine.execWaitFlag p l s
  | .gangWatchMessage w code value => Sys2Proof.Machine.execGangWatchMessage w code value s
  | .sigAdd p l => Sys2Proof.Machine.execSigAdd p l s
  | .sigSet p l => Sys2Proof.Machine.execSigSet p l s
  | .sigClr p l => Sys2Proof.Machine.execSigClr p l s
  | .cntFetch p l => Sys2Proof.Machine.execCntFetch p l s
  | .cntCounts p l => Sys2Proof.Machine.execCntCounts p l s
  | .digTree p l => Sys2Proof.Machine.execDigTree p l s
  | .digAudit p l => Sys2Proof.Machine.execDigAudit p l s
  | .smpSeeded p l => Sys2Proof.Machine.execSmpSeeded p l s
  | .smpEntropy p l => Sys2Proof.Machine.execSmpEntropy p l s
  | .gangOpDone p l => Sys2Proof.Machine.execGangOpDone p l s
  | .cplRingResume p l => Sys2Proof.Machine.execCplRingResume p l s
  | .arrayLagWindow => Sys2Proof.Machine.execArrayLagWindow s
  | .releaseRetention m v => Sys2Proof.Machine.execReleaseRetention m v s
  | .clearGrad m v => Sys2Proof.Machine.execClearGrad m v s
  | .trainEntryWrite m v => Sys2Proof.Machine.execTrainEntryWrite m v s
  | .partitionEntryWrite m v => Sys2Proof.Machine.execPartitionEntryWrite m v s
  | .stageMonWindow pg count => Sys2Proof.Machine.execStageMonWindow pg count s
  | .realign m pg v => Sys2Proof.Machine.execRealign m pg v s
  | .xingSlip pg => Sys2Proof.Machine.execXingSlip pg s
  | .xingAlignFail pg => Sys2Proof.Machine.execXingAlignFail pg s
  | .create m slot v => Sys2Proof.Machine.execCreate m slot v s
  | .assign m slot v => Sys2Proof.Machine.execAssign m slot v s
  | .unassign m slot v => Sys2Proof.Machine.execUnassign m slot v s
  | .partitionReset m slot v => Sys2Proof.Machine.execPartitionReset m slot v s
  | .release m slot v => Sys2Proof.Machine.execRelease m slot v s
  | .regionZeroed r ok => Sys2Proof.Machine.execRegionZeroed r ok s
  | .setRegion m slot v => Sys2Proof.Machine.execSetRegion m slot v s
  | .setAcl m slot v => Sys2Proof.Machine.execSetAcl m slot v s
  | .keyImport m slot v => Sys2Proof.Machine.execKeyImport m slot v s
  | .unwrap m slot v => Sys2Proof.Machine.execUnwrap m slot v s
  | .attest m slot v => Sys2Proof.Machine.execAttest m slot v s
  | .claimOwner m slot v => Sys2Proof.Machine.execClaimOwner m slot v s
  | .lifecycle m slot v => Sys2Proof.Machine.execLifecycle m slot v s
  | .chrChallenge m slot v => Sys2Proof.Machine.execChrChallenge m slot v s
  | .putCert m slot v => Sys2Proof.Machine.execPutCert m slot v s
  | .chrCmdDone engine => Sys2Proof.Machine.execChrCmdDone engine s
  | .entropyFail => Sys2Proof.Machine.execEntropyFail s
  | .tapInstruction ir => Sys2Proof.Machine.execTapInstruction ir s
  | .tapReset => Sys2Proof.Machine.execTapReset s
  | .hello => Sys2Proof.Machine.execHello s
  | .dbgChallenge => Sys2Proof.Machine.execDbgChallenge s
  | .token tok => Sys2Proof.Machine.execToken tok s
  | .dbgRead space addr n => Sys2Proof.Machine.execDbgRead space addr n s
  | .dbgWrite space addr data => Sys2Proof.Machine.execDbgWrite space addr data s
  | .dbgHalt p => Sys2Proof.Machine.execDbgHalt p s
  | .dbgResume p => Sys2Proof.Machine.execDbgResume p s
  | .dbgEnd => Sys2Proof.Machine.execDbgEnd s
  | .pwrgdRise => Sys2Proof.Machine.execPwrgdRise s
  | .pwrgdFall => Sys2Proof.Machine.execPwrgdFall s
  | .resetN level => Sys2Proof.Machine.execResetN level s
  | .pciePerstN level => Sys2Proof.Machine.execPciePerstN level s
  | .instar0 bad => Sys2Proof.Machine.execInstar0 bad s
  | .instar1 => Sys2Proof.Machine.execInstar1 s
  | .instar2 bad hbmFail => Sys2Proof.Machine.execInstar2 bad hbmFail s
  | .instar3 => Sys2Proof.Machine.execInstar3 s
  | .eclosion ms => Sys2Proof.Machine.execEclosion ms s
  | .thoraxBootTimeout => Sys2Proof.Machine.execThoraxBootTimeout s
  | .fwWrite m pg v => Sys2Proof.Machine.execFwWrite m pg v s
  | .fwWriteDone pg => Sys2Proof.Machine.execFwWriteDone pg s
  | .activate m pg v => Sys2Proof.Machine.execActivate m pg v s
  | .commit m pg v => Sys2Proof.Machine.execCommit m pg v s
  | .rollback m pg v => Sys2Proof.Machine.execRollback m pg v s
  | .discard m pg v => Sys2Proof.Machine.execDiscard m pg v s
  | .restart m pg v => Sys2Proof.Machine.execRestart m pg v s
  | .fwTrialTimeout pg => Sys2Proof.Machine.execFwTrialTimeout pg s
  | .pupa m v => Sys2Proof.Machine.execPupa m v s
  | .diapause m v => Sys2Proof.Machine.execDiapause m v s
  | .diapauseDrainEnd => Sys2Proof.Machine.execDiapauseDrainEnd s
  | .wake m v => Sys2Proof.Machine.execWake m v s
  | .powerTransitionDone => Sys2Proof.Machine.execPowerTransitionDone s
  | .saveProfile m v => Sys2Proof.Machine.execSaveProfile m v s
  | .saveProfileDone ok => Sys2Proof.Machine.execSaveProfileDone ok s
  | .governorLoop loop => Sys2Proof.Machine.execGovernorLoop loop s
  | .thermalTrip die temp => Sys2Proof.Machine.execThermalTrip die temp s
  | .repair m pg v => Sys2Proof.Machine.execRepair m pg v s
  | .hbmRepairDone pg ok => Sys2Proof.Machine.execHbmRepairDone pg ok s
  | .meterSample pj beyond => Sys2Proof.Machine.execMeterSample pj beyond s
  | .activityReport dom tag count => Sys2Proof.Machine.execActivityReport dom tag count s
  | .tenancyEvent p isCreate createCount => Sys2Proof.Machine.execTenancyEvent p isCreate createCount s
  | .periodEnd restsOnly => Sys2Proof.Machine.execPeriodEnd restsOnly s
  | .clockFallback => Sys2Proof.Machine.execClockFallback s
  | .clockRestored => Sys2Proof.Machine.execClockRestored s
  | .vmtrLoss => Sys2Proof.Machine.execVmtrLoss s
  | .vmtrReturn mramBad => Sys2Proof.Machine.execVmtrReturn mramBad s
  | .mtrUpdateFallback => Sys2Proof.Machine.execMtrUpdateFallback s
  | .ident => Sys2Proof.Machine.execIdent s
  | .readRecord index => Sys2Proof.Machine.execReadRecord index s
  | .readSigned nonce => Sys2Proof.Machine.execReadSigned nonce s
  | .readLog index => Sys2Proof.Machine.execReadLog index s
  | .readCert offset => Sys2Proof.Machine.execReadCert offset s
  | .updBegin => Sys2Proof.Machine.execUpdBegin s
  | .updData offset data => Sys2Proof.Machine.execUpdData offset data s
  | .updEnd => Sys2Proof.Machine.execUpdEnd s
  | .ccnReq m v => Sys2Proof.Machine.execCcnReq m v s
  | .signedReadingDone => Sys2Proof.Machine.execSignedReadingDone s
  | .ringEnable m r v => Sys2Proof.Machine.execRingEnable m r v s
  | .ringTail m r v => Sys2Proof.Machine.execRingTail m r v s
  | .ringConsumed m r v => Sys2Proof.Machine.execRingConsumed m r v s
  | .nop r => Sys2Proof.Machine.execNop r s
  | .regRead r => Sys2Proof.Machine.execRegRead r s
  | .regWrite r => Sys2Proof.Machine.execRegWrite r s
  | .ringWaitDone r => Sys2Proof.Machine.execRingWaitDone r s
  | .tblRead r => Sys2Proof.Machine.execTblRead r s
  | .tblWrite r => Sys2Proof.Machine.execTblWrite r s
  | .ringSignal r => Sys2Proof.Machine.execRingSignal r s
  | .ringFlag r => Sys2Proof.Machine.execRingFlag r s
  | .ringWatch r => Sys2Proof.Machine.execRingWatch r s
  | .strict r => Sys2Proof.Machine.execStrict r s
  | .ringCoalTimer r => Sys2Proof.Machine.execRingCoalTimer r s
  | .pcieLinkDown => Sys2Proof.Machine.execPcieLinkDown s
  | .flr fn => Sys2Proof.Machine.execFlr fn s
  | .inventory args => Sys2Proof.Machine.execInventory args s
  | .health args => Sys2Proof.Machine.execHealth args s
  | .readReg args => Sys2Proof.Machine.execReadReg args s
  | .ackFaults args => Sys2Proof.Machine.execAckFaults args s
  | .power args => Sys2Proof.Machine.execPower args s
  | .setCap args => Sys2Proof.Machine.execSetCap args s
  | .ibiCfg args => Sys2Proof.Machine.execIbiCfg args s
  | .ibiRetry accepted => Sys2Proof.Machine.execIbiRetry accepted s
  | .recStatus args => Sys2Proof.Machine.execRecStatus args s
  | .recBegin args => Sys2Proof.Machine.execRecBegin args s
  | .recData args => Sys2Proof.Machine.execRecData args s
  | .recEnd args => Sys2Proof.Machine.execRecEnd args s
  | .recBoot args => Sys2Proof.Machine.execRecBoot args s
  | .pmbusPoll reads => Sys2Proof.Machine.execPmbusPoll reads s
  | .pmbAlert bad => Sys2Proof.Machine.execPmbAlert bad s
  | .collWindow port p => Sys2Proof.Machine.execCollWindow port p s
  | .fwReady pg => Sys2Proof.Machine.execFwReady pg s
  | .mtrUnseal => Sys2Proof.Machine.execMtrUnseal s
  | .registerRead m bar addr len => Sys2Proof.Machine.execRegisterRead m bar addr len s
  | .msixVectorUnmask fn vector => Sys2Proof.Machine.execMsixVectorUnmask fn vector s
  | .dynamicAddressAssignment addr => Sys2Proof.Machine.execDynamicAddressAssignment addr s

end Sys2Proof.Machine
end

