-- ==== Sys2Proof/Machine/Step.lean ====
section
/-! DEFINITION. One step: the command at the front of the queue is carried out. -/

namespace Sys2Proof.Machine

/-- The state with another queue. -/
def State.queue (s : State) (q : List Instr) : State := { s with pending := q }

/-- The command at the front of the queue, on the state with the queue's rest; the part idles on an empty queue
(assumption 26). -/
def step (s : State) : Host.Outcome State Fault Refusal :=
  match s.pending with
  | [] => .next s
  | c :: rest => exec c (s.queue rest)

/-- The state with the command that a word spells at the front of its queue; itself where the word spells none. -/
def State.withFetchWord (s : State) (nbits w : Nat) : State :=
  match decodeTableWord nbits w with
  | none => s
  | some c => s.queue (c :: s.pending)

end Sys2Proof.Machine
end

