-- ==== Sys2Proof/Safety.lean ====
section
/-! DEFINITION. What the claims about runs speak of: the canonical form that every reachable state keeps, and the states
in which no level action, notice or frozen view waits. -/

namespace Sys2Proof.Machine

/-- The six stores of the state are in canonical form: the registers, the tables, the three memory spaces and the
host's memory. -/
structure State.Wf (s : State) : Prop where
  regs : kvWf resetKey s.regs = true
  tabs : kvWf resetTab s.tabs = true
  hbm : s.hbm.wf = true
  arr : s.arr.wf = true
  vec : s.vec.wf = true
  host : s.host.wf = true

/-- No level action is owed, no change of the DEV level is to be told, and no page shows a captured view. -/
structure State.Calm (s : State) : Prop where
  acts : s.acts = []
  alarm : s.alarm = false
  views : s.views = []

/-- A write at offset `off` of page index `pg` by requester `m` reaches block `b` and passes the checks that every write
passes first: the page is present, its access table grants the write, and its state bars none (R39, R30, R41). -/
def State.opens (s : State) (m pg off : Nat) (b : Blk) : Bool :=
  s.blk pg == some b && s.mayWrite m b off && !s.barred b off

/-- A step ends in a next state, neither in a fault nor in a refusal. -/
def Goes (r : Host.Outcome State Fault Refusal) : Prop := ∃ t, r = .next t

/-- A state that a command has reached from one whose queue was `q`, whose outputs were `o` and whose draws stood at
`n`: the queue is as it was, nothing that left the part is taken back, no draw is taken twice, and the stores are in
canonical form. -/
structure Keeps (q : List Instr) (o : List Emit) (n : Nat) (s : State) : Prop where
  queue : s.pending = q
  out : o <+: s.out
  fresh : n ≤ s.fresh
  wf : s.Wf

/-- The state that a step reached before the actions that error levels owe were carried out (R414). -/
def After (r : Host.Outcome State Fault Refusal) (u : State) : Prop := r = .next u ∨ r = .next u.settle

/-- Registers, outputs and what the levels owe may have changed, and nothing else: every table, every byte of every
memory, every queue and every pin is as it was. -/
def RegsFrame (s : State) (r : Host.Outcome State Fault Refusal) : Prop :=
  ∃ u, After r u ∧
    u = { s with regs := u.regs, out := u.out, acts := u.acts, alarm := u.alarm }

/-- Registers, table entries, the pools' caches and the rings' host side may have changed, with outputs and what the
levels owe, and nothing else: every byte of every memory, every frame, link and context is as it was. -/
def RowsFrame (s : State) (r : Host.Outcome State Fault Refusal) : Prop :=
  ∃ u, After r u ∧
    u = { s with regs := u.regs, tabs := u.tabs, cow := u.cow, hst := u.hst, caches := u.caches, out := u.out,
                   acts := u.acts, alarm := u.alarm }

/-- Registers and the meter may have changed, with outputs and what the levels owe, and nothing else. -/
def MeterFrame (s : State) (r : Host.Outcome State Fault Refusal) : Prop :=
  ∃ u, After r u ∧
    u = { s with regs := u.regs, ccn := u.ccn, out := u.out, acts := u.acts, alarm := u.alarm }

/-- Registers, table entries, frames, links, transport contexts and commands in progress may have changed, with the
count of draws, outputs and what the levels owe, and nothing else: every byte of every memory, the reductions, the
Gang and the meter are as they were. -/
def TrafficFrame (s : State) (r : Host.Outcome State Fault Refusal) : Prop :=
  ∃ u, After r u ∧
    u = { s with regs := u.regs, tabs := u.tabs, cow := u.cow, caches := u.caches, swc := u.swc, sws := u.sws,
                   swWaits := u.swWaits, lls := u.lls, cxs := u.cxs, lrds := u.lrds, jobs := u.jobs,
                   fresh := u.fresh, out := u.out, acts := u.acts, alarm := u.alarm }

/-- Registers, the MRAM, the boot's progress, commands in progress, the regions that wait for a repair and the count
of draws may have changed, with outputs and what the levels owe, and nothing else: every table and every byte of
every memory is as it was. -/
def FirmwareFrame (s : State) (r : Host.Outcome State Fault Refusal) : Prop :=
  ∃ u, After r u ∧
    u = { s with regs := u.regs, mram := u.mram, boot := u.boot, jobs := u.jobs,
                   sec := { s.sec with unzeroed := u.sec.unzeroed }, fresh := u.fresh, out := u.out, acts := u.acts,
                   alarm := u.alarm }

/-- Registers, table entries, bytes of the memories, the Gang, contexts, reductions, the mesh and the regions that
wait for a repair may have changed, with the count of draws, outputs and what the levels owe, and nothing else: the
switch, the links, the pins, the meter and the rest of the security state are as they were. -/
def ComputeFrame (s : State) (r : Host.Outcome State Fault Refusal) : Prop :=
  ∃ u, After r u ∧
    u = { s with regs := u.regs, tabs := u.tabs, cow := u.cow, hbm := u.hbm, arr := u.arr, vec := u.vec,
                   host := u.host, gang := u.gang, cxs := u.cxs, lrds := u.lrds, rcxs := u.rcxs, engq := u.engq,
                   mesh := u.mesh, sec := { s.sec with unzeroed := u.sec.unzeroed }, fresh := u.fresh, out := u.out,
                   acts := u.acts, alarm := u.alarm }

end Sys2Proof.Machine
end

