-- ==== Sys2Proof/Certificates/Slice0/Obligations.lean ====
section
/-! DEFINITION. The statements about the model, each of them one proposition. -/

open Sys2Proof Sys2Proof.Machine

/-- O1. A step carries out the command at the front of the queue on the queue's rest; on an empty queue the part idles
(the model's choice, log entry 26). Rests on 95_what_each_step_holds.md. -/
def Obligations.StepTakesFront : Prop :=
  (∀ (c : Instr) (q : List Instr) (s : State), s.pending = c :: q → step s = exec c (s.queue q)) ∧
  (∀ (s : State), s.pending = [] → step s = .next s)

/-- O2. After reset every register and table word reads its reset value, the stores list nothing, nothing is in flight,
and the queue is empty. Rests on R27, R227, R232, R396, R412. -/
def Obligations.ResetHolds : Prop :=
  (∀ (b : Blk) (off : Nat), State.reset.reg b off = resetKey (regKey b.page off) % 2 ^ 64) ∧
  (∀ (t : Tbl) (sc i wd : Nat), State.reset.tw t sc i wd = resetTab (tabKey t sc i wd) % 2 ^ 64) ∧
  (∀ (sp a : Nat), memRead (State.reset.space sp) a = 0) ∧
  (∀ (a : Nat), memRead State.reset.host a = 0 ∧ State.reset.acts = [] ∧ State.reset.jobs = [] ∧ State.reset.snaps =
    [] ∧ State.reset.out = [] ∧ State.reset.pending = [] ∧ State.reset.pins.thermtripN ∧ State.reset.pins.faultN)

/-- O3. The state after reset is in canonical form and calm. Rests on R2, R396. -/
def Obligations.ResetIsCanonical : Prop :=
  ∀ (s : State), s = State.reset → s.Wf ∧ s.Calm

/-- O4. Every step keeps the registers, the tables and the memories in canonical form. Rests on R2, R60, R281, R396. -/
def Obligations.StepKeepsCanonical : Prop :=
  ∀ (s : State), s.Wf → ∃ t, step s = .next t ∧ t.Wf

/-- O5. No command ends in a fault or a refusal, takes back an output, reuses a draw or touches the queue. Rests on R6,
R28, R39, R479. -/
def Obligations.CommandsGoOn : Prop :=
  ∀ (i : Instr) (s : State), s.Wf → ∃ t, exec i s = .next t ∧ t.pending = s.pending ∧ s.out <+: t.out ∧ s.fresh ≤
    t.fresh

/-- O6. A write of CTRL that no rule bars sets the controls and the subtree follows; one with reset set resets the
subtree. Rests on R24, R27, R29, R30, R32. -/
def Obligations.ControlWritesAct : Prop :=
  (∀ (m : Mst) (pg : Pg) (v : Word) (s : State) (b : Blk) (i : Instr), i ∈ [Instr.ctrlEnable m pg v, Instr.ctrlQuiesce
    m pg v, Instr.ctrlFreeze m pg v, Instr.ctrlEvacuate m pg v] → s.opens m.toNat pg.toNat 0x018 b → b ≠ .ccn → bits
    v.toNat 4 1 = 0 → s.ctrlBarred b v.toNat = false → s.poolMisfit b v.toNat = false → exec i s = .next
    (((s.setCtrl b v.toNat).followAll b).thaw b).settle) ∧
  (∀ (m : Mst) (pg : Pg) (v : Word) (s : State) (b : Blk), s.opens m.toNat pg.toNat 0x018 b → b ≠ .ccn → bits v.toNat
    4 1 = 1 → exec (.ctrlReset m pg v) s = .next (s.pageReset b).settle)

/-- O7. Training, draining, capturing and freezing end on the pages that they concern. Rests on R29, R30, R32, R33. -/
def Obligations.PageProgress : Prop :=
  (∀ (pg : Pg) (s : State) (b : Blk), s.blk pg.toNat = some b → b.trainsPlain → exec (.trainingDone pg) s = .next
    ((s.trained b).followAll b).settle) ∧
  (∀ (pg : Pg) (s : State) (g : Nat), s.blk pg.toNat = some (.grp g) → s.groupTrained g → exec (.trainingDone pg) s =
    .next ((s.trained (.grp g)).followAll (.grp g)).settle) ∧
  (∀ (pg : Pg) (s : State) (d : Nat), s.blk pg.toNat = some (.pool d) → s.st (.pool d) = .training → exec
    (.trainingDone pg) s = .next (((s.poolInit d).trained (.pool d)).followAll (.pool d)).settle) ∧
  (∀ (pg : Pg) (s : State), s.blk pg.toNat = some .pci → s.pins.perstN = false → exec (.trainingDone pg) s = .next
    ((s.trained .pci).followAll .pci).settle) ∧
  (∀ (pg : Pg) (s : State), s.blk pg.toNat = some .pci → s.pins.perstN → ((s.trained .pci).followAll .pci).st .pci =
    .inService → exec (.trainingDone pg) s = .next ((s.trained .pci).followAll .pci).pciUp.settle) ∧
  (∀ (pg : Pg) (s : State) (b : Blk), s.blk pg.toNat = some b → exec (.quiesceDrainDone pg) s = .next (s.p b
    STATE_draining 0)) ∧
  (∀ (pg : Pg) (s : State) (b : Blk), s.blk pg.toNat = some b → s.captureWith b = [b] → s.effFreeze b →
    s.capPages.contains b.page = false → b.kids = [] → exec (.captureMarker pg) s = .next ((s.capture b).p b
    STATE_frozen 1).settle) ∧
  (∀ (pg : Pg) (s : State) (b : Blk), s.blk pg.toNat = some b → s.captureWith b = [b] → s.effFreeze b →
    s.capPages.contains b.page = false → b.kids ≠ [] → exec (.captureMarker pg) s = .next (s.capture b).settle) ∧
  (∀ (pg : Pg) (s : State) (t : Nat), s.blk pg.toNat = some (.swt t) ∨ s.blk pg.toNat = some (.xbarT t) →
    s.members.contains t → exec (.captureMarker pg) s = .next ((s.members.flatMap fun i => [Blk.swt i, Blk.xbarT
    i]).foldl State.captureOne s).settle) ∧
  (∀ (pg : Pg) (s : State) (b : Blk), s.blk pg.toNat = some b → s.effFreeze b → b.subtree.all (fun k =>
    s.capPages.contains k.page) → exec (.freezeCaptureDone pg) s = .next (s.p b STATE_frozen 1))

/-- O8. A take on a page with none in progress starts a snapshot, and its write-out places the image and ends it. Rests
on R35, R36, R37, R364. -/
def Obligations.SnapshotRows : Prop :=
  (∀ (m : Mst) (pg : Pg) (v : Word) (s : State) (b : Blk), s.opens m.toNat pg.toNat 0x048 b → bits v.toNat 0 1 = 1 →
    s.gb b SNAP_SEQ_busy = false → b ≠ .mroot → exec (.snapTake m pg v) s = .next (s.take m.toNat b v.toNat).settle) ∧
  (∀ (pg : Pg) (s : State) (b : Blk) (x : Snap), s.blk pg.toNat = some b → (s.snaps.find? fun y => y.page == b.page) =
    some x → x.code ≠ .ok → exec (.snapWriteoutDone pg) s = .next (s.endSnap b x.code 0 x.implicitFreeze).settle) ∧
  (∀ (pg : Pg) (s : State) (b : Blk) (x : Snap), s.blk pg.toNat = some b → (s.snaps.find? fun y => y.page == b.page) =
    some x → x.code = .ok → s.gb b STATE_frozen → x.dest = 0 → exec (.snapWriteoutDone pg) s = .next (s.endSnap b
    .ok 0 x.implicitFreeze).settle) ∧
  (∀ (pg : Pg) (s : State) (b : Blk) (x : Snap), s.blk pg.toNat = some b → (s.snaps.find? fun y => y.page == b.page) =
    some x → x.code = .ok → s.gb b STATE_frozen → x.dest ≠ 0 → exec (.snapWriteoutDone pg) s = .next ((s.writeBuf
    (masterFn (mst x.master)) x.host 0 x.dest (s.image x.master b)).endSnap b .ok (imageLen b)
    x.implicitFreeze).settle)

/-- O9. Forced and hardware events raise their classes, an acknowledge clears what it names, and the collectors do as
told. Rests on R408, R411, R412, R418, R420, R41. -/
def Obligations.ErrorEventRows : Prop :=
  (∀ (m : Mst) (pg : Pg) (v : Word) (s : State) (b : Blk), s.opens m.toNat pg.toNat 0x030 b → (upTo 48).any (fun c =>
    bit v.toNat c && s.forceHalts b c) = false ∨ s.gb .fltDev FLT_CFG_allow_halt_force = true → exec (.errForce m pg
    v) s = .next (s.forceAll m.toNat b v.toNat).settle) ∧
  (∀ (m : Mst) (pg : Pg) (v : Word) (s : State) (b : Blk), s.opens m.toNat pg.toNat 0x040 b → exec (.errAck m pg v) s
    = .next (s.ackErr b v.toNat).settle) ∧
  (∀ (pg : Pg) (c : BitVec 6) (arg : Word) (s : State) (b : Blk) (k : Cls), s.blk pg.toNat = some b → b.cls c.toNat =
    some k → s.gb b STATE_unpowered = false → exec (.errorEvent pg c arg) s = .next ((s.ownEffect b c.toNat
    arg.toNat).raise b k).settle) ∧
  (∀ (m : Mst) (pg : Pg) (v : Word) (s : State) (b : Blk), s.opens m.toNat pg.toNat 0x108 b → b.collected ≠ b → bits
    v.toNat 0 2 = 1 → exec (.fltAckBelow m pg v) s = .next ((s.ackBelow b.collected (bits v.toNat 2 3)).finish b
    0x110 .ok).settle) ∧
  (∀ (pg : Pg) (n : BitVec 9) (s : State), s.blk pg.toNat = some .fltDev → exec (.pinMismatch pg n) s = .next (s.raise
    .fltDev cPIN_MISMATCH_fltDev).settle) ∧
  (∀ (pg : Pg) (n : BitVec 9) (s : State) (w : Nat), s.blk pg.toNat = some (.fltW w) → exec (.pinMismatch pg n) s =
    .next (s.raise (.fltW w) cPIN_MISMATCH_flt).settle) ∧
  (∀ (pg : Pg) (n : BitVec 9) (s : State) (d : Nat), s.blk pg.toNat = some (.fltB d) → exec (.pinMismatch pg n) s =
    .next (s.raise (.fltB d) cPIN_MISMATCH_flt).settle) ∧
  (∀ (m : Mst) (pg : Pg) (s : State) (b : Blk) (p : Blk), s.blk pg.toNat = some b → b.parent = some p → exec
    (.pageNoAnswer m pg) s = .next ((s.raise p cPAGE_NO_ANSWER).emit (.bar (masterFn m.toNat)) 0 [2 ^ 64 - 1]
    []).settle)

/-- O10. A millisecond adds each reason's lost lanes to the die's counters. Rests on R422. -/
def Obligations.LostServiceTick : Prop :=
  ∀ (k : DieNo) (s : State), s.boot.running = false → (s.g .fltDev FLT_AVAIL_CFG_budget_lane_ms < s.lostSum
    LNK_LOST_FAULT_lane_ms) ∨ ((((s.add (.die k.toNat) LNK_LOST_FAULT_lane_ms (s.lostLanes k.toNat true)).add (.die
    k.toNat) LNK_LOST_OTHER_lane_ms (s.lostLanes k.toNat false)).lostSum LNK_LOST_FAULT_lane_ms) ≤ s.g .fltDev
    FLT_AVAIL_CFG_budget_lane_ms) → exec (.lostMsTick k) s = .next ((s.add (.die k.toNat) LNK_LOST_FAULT_lane_ms
    (s.lostLanes k.toNat true)).add (.die k.toNat) LNK_LOST_OTHER_lane_ms (s.lostLanes k.toNat false)).settle

/-- O11. A write of a lane's or group's control that no rule bars is stored and acts on its port. Rests on R42, R51,
R56, R58, R59, R60, R61, R62. -/
def Obligations.LinkConfigRows : Prop :=
  (∀ (m : Mst) (pg : Pg) (v : Word) (s : State) (g : Nat), s.blk pg.toNat = some (.grp g) → s.opens m.toNat pg.toNat
    0x100 (.grp g) → s.grpCfgBarred g v.toNat = false → grpCfgBad g v.toNat = false → exec (.lnkGrpCfgWrite m pg v)
    s = .next ((s.grpCfgSet g v.toNat).checkBudget (g / 32)).settle) ∧
  (∀ (m : Mst) (pg : Pg) (v : Word) (s : State) (k n : Nat) (i : Instr), i ∈ [Instr.lanePower m pg v,
    Instr.laneCtrlRetrain m pg v, Instr.clrCounters m pg v] → s.blk pg.toNat = some (.lane k n) → s.opens m.toNat
    pg.toNat 0x100 (.lane k n) → bit v.toNat 5 = false → bit v.toNat 6 = false → exec i s = .next (s.laneWrite k n
    v.toNat).settle) ∧
  (∀ (m : Mst) (pg : Pg) (v : Word) (s : State) (k n : Nat), s.blk pg.toNat = some (.lane k n) → s.opens m.toNat
    pg.toNat 0x100 (.lane k n) → bit v.toNat 5 → bit v.toNat 6 = false → s.spareUsable k n → (s.laneWrite k n
    v.toNat).spareUsable k n → exec (.spareRequest m pg v) s = .next ((s.laneWrite k n v.toNat).requestSwitch k n
    false).settle) ∧
  (∀ (m : Mst) (pg : Pg) (v : Word) (s : State) (k n : Nat), s.blk pg.toNat = some (.lane k n) → s.opens m.toNat
    pg.toNat 0x100 (.lane k n) → bit v.toNat 5 = false → bit v.toNat 6 → n < 64 → s.gb (.lane k n)
    LNK_LANE_STATUS_on_spare → s.active (s.lanePort k n) → exec (.spareRevert m pg v) s = .next ((s.laneWrite k n
    v.toNat).requestSwitch k n true).settle) ∧
  (∀ (m : Mst) (pg : Pg) (v : Word) (s : State) (k n : Nat), s.blk pg.toNat = some (.lane k n) → s.opens m.toNat
    pg.toNat 0x128 (.lane k n) → s.prbsMay k n → bits v.toNat 0 4 ≤ 8 → exec (.prbsCtrlWrite m pg v) s = .next
    ((s.startPattern (.lane k n)).setReg (.lane k n) 0x128 (bits v.toNat 0 6)).settle)

/-- O12. Each event of a port's bring-up moves it from the stage that it belongs to. Rests on R51, R52, R65, R72. -/
def Obligations.BringUpRows : Prop :=
  (∀ (port : PortNo) (s : State), exec (.detectRetry port) s = .next s) ∧
  (∀ (port : PortNo) (an : BitVec 4) (s : State), s.stage port.toNat = 1 → s.portMay port.toNat → s.clocked port.toNat
    → (s.pers (portGroup port.toNat) == .eth && s.gb (.grp (portGroup port.toNat)) LNK_GRP_CFG_an_enable) = false →
    exec (.partnerDetected port an) s = .next (s.moveStage port.toNat 2).settle) ∧
  (∀ (port : PortNo) (an : BitVec 4) (s : State) (i : Nat), s.stage port.toNat = 1 → s.portMay port.toNat → s.clocked
    port.toNat → s.pers (portGroup port.toNat) = .eth → s.gb (.grp (portGroup port.toNat)) LNK_GRP_CFG_an_enable →
    s.phyOf port.toNat an.toNat = some i → exec (.partnerDetected port an) s = .next ((s.php port.toNat H_PORT_phy
    (i + 1)).moveStage port.toNat 2).settle) ∧
  (∀ (port : PortNo) (s : State), s.stage port.toNat = 2 → exec (.trainDone port) s = .next ((((s.portLanes
    port.toNat).foldl (fun (t : State) l => (t.adaptLane (t.carrier l)).lockLane (t.carrier l)) s).php port.toNat
    H_PORT_lost 0).moveStage port.toNat 3).settle) ∧
  (∀ (port : PortNo) (s : State), s.stage port.toNat = 2 → exec (.trainTimeout port) s = .next ((s.moveStage
    port.toNat 1).raise (.grp (portGroup port.toNat)) cTRAIN_FAIL).settle) ∧
  (∀ (port : PortNo) (s : State) (t : State), s.stage port.toNat = 3 → t = (s.portLanes port.toNat).foldl (fun (u :
    State) l => u.alignXing (.lane (u.carrier l).1 (u.carrier l).2) 0) s → t.pers (portGroup port.toNat) = .eth →
    exec (.lockDone port) s = .next (t.portUp port.toNat).settle) ∧
  (∀ (port : PortNo) (s : State) (t : State), s.stage port.toNat = 3 → t = (s.portLanes port.toNat).foldl (fun (u :
    State) l => u.alignXing (.lane (u.carrier l).1 (u.carrier l).2) 0) s → t.pers (portGroup port.toNat) ≠ .eth →
    exec (.lockDone port) s = .next (t.capexStart port.toNat).settle) ∧
  (∀ (port : PortNo) (s : State), s.stage port.toNat = 3 → exec (.lockTimeout port) s = .next (s.moveStage port.toNat
    2).settle) ∧
  (∀ (port : PortNo) (msg : CapMsg) (s t : State), s.pers (portGroup port.toNat) ≠ .eth → 4 ≤ s.stage port.toNat → t =
    s.showPartner port.toNat msg → t.stage port.toNat ≠ 5 → t.capsMatch port.toNat msg → exec (.capability port msg)
    s = .next (((t.startLl port.toNat ((upTo 8).map fun v => 8 * beAt msg.caps (3 + 2 * v) 2) (min 4096 (beAt
    msg.caps 0 2))).php port.toNat H_PORT_got 1).capexEnd port.toNat).settle) ∧
  (∀ (port : PortNo) (s : State), s.stage port.toNat = 4 → s.hp port.toNat H_PORT_held = 0 → exec (.capexResend port)
    s = .next (s.sendCaps port.toNat)) ∧
  (∀ (g : GroupNo) (s : State) (p : Nat), s.groupPorts g.toNat = [p] → (s.php p H_PORT_held 0).stage p = 4 → s.hp p
    H_PORT_held = 1 → s.addrMatch g.toNat = false → exec (.addrRecheck g) s = .next (((s.php p H_PORT_held
    0).sendCaps p).capexEnd p).settle) ∧
  (∀ (port : PortNo) (s : State), s.stage port.toNat ≠ 0 → exec (.retrain port) s = .next (s.moveStage port.toNat
    1).settle)

/-- O13. Lane failures, the spare handshake and clock events act as the sparing rules say. Rests on R56, R57, R58, R63. -/
def Obligations.SparingRows : Prop :=
  (∀ (k : DieNo) (n : LaneNo) (s : State) (l port : Nat), n.toNat < 68 → s.served k.toNat n.toNat = some l → port =
    s.lanePort k.toNat l → s.carrier (k.toNat, l) = (k.toNat, n.toNat) → s.stage port = 4 → exec (.laneLockLost k n)
    s = .next (s.moveStage port 1).settle) ∧
  (∀ (k : DieNo) (n : LaneNo) (s : State) (l port : Nat), n.toNat < 68 → s.served k.toNat n.toNat = some l → port =
    s.lanePort k.toNat l → s.carrier (k.toNat, l) = (k.toNat, n.toNat) → s.stage port = 5 → s.pers (portGroup port)
    = .eth → exec (.laneLockLost k n) s = .next ((s.moveStage port 1).raise (.grp (portGroup port))
    cLANE_DOWN).settle) ∧
  (∀ (k : DieNo) (n : LaneNo) (s u : State) (l port : Nat), n.toNat < 68 → s.served k.toNat n.toNat = some l → port =
    s.lanePort k.toNat l → s.carrier (k.toNat, l) = (k.toNat, n.toNat) → s.stage port = 5 → s.pers (portGroup port)
    ≠ .eth → u = s.php port H_PORT_lost (putBits (s.hp port H_PORT_lost) (s.laneIdx k.toNat l) 1 1) → (u.workLanes
    port).isEmpty → exec (.laneLockLost k n) s = .next ((u.moveStage port 1).raise (.grp (portGroup port))
    cLANE_DOWN).settle) ∧
  (∀ (k : DieNo) (n : LaneNo) (s u w : State) (l port : Nat), n.toNat < 68 → s.served k.toNat n.toNat = some l → port
    = s.lanePort k.toNat l → s.carrier (k.toNat, l) = (k.toNat, n.toNat) → s.stage port = 5 → s.pers (portGroup
    port) ≠ .eth → u = s.php port H_PORT_lost (putBits (s.hp port H_PORT_lost) (s.laneIdx k.toNat l) 1 1) →
    (u.workLanes port).isEmpty = false → w = (u.showPort port 5).showLane (u.carrier (k.toNat, l)) 3 → w.sws.any
    (fun x => x.die == k.toNat && x.lane == l) = false → n.toNat < 64 → w.spareUsable k.toNat l → w.gb (.grp
    (laneGroup k.toNat l).1) LNK_GRP_CFG_spare_auto → exec (.laneLockLost k n) s = .next (w.requestSwitch k.toNat l
    false).settle) ∧
  (∀ (k : DieNo) (n : LaneNo) (s u w : State) (l port : Nat), n.toNat < 68 → s.served k.toNat n.toNat = some l → port
    = s.lanePort k.toNat l → s.carrier (k.toNat, l) = (k.toNat, n.toNat) → s.stage port = 5 → s.pers (portGroup
    port) ≠ .eth → u = s.php port H_PORT_lost (putBits (s.hp port H_PORT_lost) (s.laneIdx k.toNat l) 1 1) →
    (u.workLanes port).isEmpty = false → w = (u.showPort port 5).showLane (u.carrier (k.toNat, l)) 3 → w.sws.any
    (fun x => x.die == k.toNat && x.lane == l) = false → (decide (n.toNat < 64) && w.spareUsable k.toNat l) = false
    → exec (.laneLockLost k n) s = .next (w.raise (.die k.toNat) cSPARE_EXHAUSTED).settle) ∧
  (∀ (k : DieNo) (n : LaneNo) (s : State), n.toNat < 68 → exec (.sparePolicyWindow k n) s = .next ((s.p (.lane k.toNat
    n.toNat) H_LWIN_corr 0).p (.lane k.toNat n.toNat) H_LWIN2_uncorr 0)) ∧
  (∀ (port : PortNo) (x : BitVec 3) (j : BitVec 2) (s : State) (k n : Nat), (s.portLanes port.toNat)[x.toNat]? = some
    (k, n) → s.active port.toNat → s.pers (portGroup port.toNat) ≠ .eth → spareOf n = j.toNat → s.sws.any (fun w =>
    w.die == k) = false → s.gb (.lane k n) LNK_LANE_STATUS_on_spare = false → s.spareUsable k n → exec
    (.sparePrepare port x j) s = .next (s.startSwitch k n false false)) ∧
  (∀ (k : DieNo) (s : State) (w : Switchover), s.sw k.toNat = some w → w.phase = .training → w.initiator → exec
    (.spareTrainDone k) s = .next (((s.adaptLane w.trains).setSw
    { w with phase := .switching, count := ((s.adaptLane w.trains).g (.lane ((s.adaptLane w.trains).carrier ((s.adaptLane w.trains).swLane w)).1 ((s.adaptLane w.trains).carrier ((s.adaptLane w.trains).swLane w)).2) H_LANE_ctl_count + 8) % 2 ^ 32 }).swSay
    k.toNat)) ∧
  (∀ (k : DieNo) (s : State) (w : Switchover), s.sw k.toNat = some w → w.phase = .training → exec (.spareTrainFail k)
    s = .next (s.failSwitch w).settle) ∧
  (∀ (port : PortNo) (x : BitVec 3) (j : BitVec 2) (n : BitVec 32) (s : State) (w : Switchover), s.swOf port.toNat
    x.toNat j.toNat = some w → w.initiator = false → exec (.spareSwitch port x j n) s = .next ((s.setSw
    { w with phase := .acked, count := n.toNat }).swSay w.die)) ∧
  (∀ (port : PortNo) (x : BitVec 3) (j : BitVec 2) (n : BitVec 32) (s : State) (w : Switchover), s.swOf port.toNat
    x.toNat j.toNat = some w → w.initiator → w.phase = .switching → w.count = n.toNat → exec (.spareAck port x j n)
    s = .next (s.setSw { w with phase := .acked })) ∧
  (∀ (k : DieNo) (s : State) (w : Switchover), s.sw k.toNat = some w → w.phase = .acked → s.swPassed w → exec
    (.spareSwitchover k) s = .next (s.finishSwitch w).settle) ∧
  (∀ (k : DieNo) (s : State) (w : SwWait), s.sws.any (fun x => x.die == k.toNat) = false → s.nextSwWait k.toNat = some
    w → w.revert = false → ({ s with swWaits := s.swWaits.erase w } : State).spareUsable k.toNat w.lane → exec
    (.spareRequestDequeue k) s = .next (({ s with swWaits := s.swWaits.erase w } : State).startSwitch k.toNat w.lane
    false true)) ∧
  (∀ (k : DieNo) (s : State), exec (.refclkLost k) s = .next ((((s.p (.die k.toNat) LNK_DIE_REFCLK_present 0).p (.die
    k.toNat) LNK_DIE_REFCLK_locked 0).stopPorts k.toNat).raise (.die k.toNat) cREFCLK_LOST).settle) ∧
  (∀ (k : DieNo) (s : State), exec (.refclkRestored k) s = .next (((s.draw.2.p (.die k.toNat) LNK_DIE_REFCLK_present
    1).p (.die k.toNat) LNK_DIE_REFCLK_locked 1).p (.die k.toNat) LNK_DIE_REFCLK_offset s.draw.1))

/-- O14. Codewords, flits, sidebands and naks pass through an ACTIVE port as the link layer says. Rests on R46, R47,
R49, R68, R69, R70, R73. -/
def Obligations.CodewordAndFlitRows : Prop :=
  (∀ (k : DieNo) (n : LaneNo) (side body parity : Line) (s : State) (l port : Nat), n.toNat < 68 → s.gb (.lane k.toNat
    n.toNat) LNK_PRBS_CTRL_rx_check = false → s.served k.toNat n.toNat = some l → port = s.lanePort k.toNat l →
    s.carrier (k.toNat, l) = (k.toNat, n.toNat) → 4 ≤ s.stage port → (if s.active port then s.adaptRx (k.toNat,
    n.toNat) else s).pers (portGroup port) ≠ .eth → exec (.dataCodeword k n side body parity) s = .next ((if
    s.active port then s.adaptRx (k.toNat, n.toNat) else s).rxTlink k.toNat n.toNat l port (polarity (s.gb (.lane
    k.toNat n.toNat) LNK_LANE_CTRL_rx_invert) (codeword side body parity))).settle) ∧
  (∀ (k : DieNo) (n : LaneNo) (side body parity : Line) (s : State) (l port : Nat), n.toNat < 68 → s.gb (.lane k.toNat
    n.toNat) LNK_PRBS_CTRL_rx_check = false → s.served k.toNat n.toNat = some l → port = s.lanePort k.toNat l →
    s.carrier (k.toNat, l) = (k.toNat, n.toNat) → 4 ≤ s.stage port → (if s.active port then s.adaptRx (k.toNat,
    n.toNat) else s).pers (portGroup port) = .eth → exec (.dataCodeword k n side body parity) s = .next ((if
    s.active port then s.adaptRx (k.toNat, n.toNat) else s).rxEth k.toNat n.toNat l port (polarity (s.gb (.lane
    k.toNat n.toNat) LNK_LANE_CTRL_rx_invert) (codeword side body parity))).settle) ∧
  (∀ (k : DieNo) (n : LaneNo) (side body parity : Line) (s : State), n.toNat < 68 → s.gb (.lane k.toNat n.toNat)
    LNK_PRBS_CTRL_rx_check → exec (.dataCodeword k n side body parity) s = .next (s.checkPattern (.lane k.toNat
    n.toNat) ((polarity (s.gb (.lane k.toNat n.toNat) LNK_LANE_CTRL_rx_invert) (codeword side body parity)).flatMap
    pamBits)).settle) ∧
  (∀ (k : DieNo) (n : LaneNo) (s : State), n.toNat < 68 → s.gb (.lane k.toNat n.toNat) LNK_PRBS_CTRL_tx_en → exec
    (.codewordTx k n) s = .next (s.sendPattern k.toNat n.toNat)) ∧
  (∀ (k : DieNo) (n : LaneNo) (s : State) (l port : Nat), n.toNat < 68 → s.gb (.lane k.toNat n.toNat)
    LNK_PRBS_CTRL_tx_en = false → s.served k.toNat n.toNat = some l → port = s.lanePort k.toNat l → s.carrier
    (k.toNat, l) = (k.toNat, n.toNat) → 3 ≤ s.stage port → (s.active port && bit (s.hp port H_PORT_lost) (s.laneIdx
    k.toNat l)) = false → s.pers (portGroup port) ≠ .eth → s.g (.lane k.toNat n.toNat) H_LANE_pos = 19 → exec
    (.codewordTx k n) s = .next ((s.sentCodeword k.toNat n.toNat port).sendControl k.toNat n.toNat port
    (s.codewordSide k.toNat n.toNat port) (s.laneIdx k.toNat l))) ∧
  (∀ (k : DieNo) (n : LaneNo) (s : State) (l port : Nat), n.toNat < 68 → s.gb (.lane k.toNat n.toNat)
    LNK_PRBS_CTRL_tx_en = false → s.served k.toNat n.toNat = some l → port = s.lanePort k.toNat l → s.carrier
    (k.toNat, l) = (k.toNat, n.toNat) → 3 ≤ s.stage port → (s.active port && bit (s.hp port H_PORT_lost) (s.laneIdx
    k.toNat l)) = false → s.pers (portGroup port) ≠ .eth → s.g (.lane k.toNat n.toNat) H_LANE_pos ≠ 19 → exec
    (.codewordTx k n) s = .next ((s.sentCodeword k.toNat n.toNat port).sendData k.toNat n.toNat port (s.codewordSide
    k.toNat n.toNat port) (s.laneIdx k.toNat l))) ∧
  (∀ (port : PortNo) (f : Flit) (s : State), s.active port.toNat → (s.rxFlit port.toNat (fit 64 f.bytes)).1 = false →
    exec (.flitRx port f) s = .next (s.rxFlit port.toNat (fit 64 f.bytes)).2.settle) ∧
  (∀ (port : PortNo) (f : Flit) (s : State), s.active port.toNat → (s.rxFlit port.toNat (fit 64 f.bytes)).1 → exec
    (.flitRx port f) s = .next ((s.rxFlit port.toNat (fit 64 f.bytes)).2.moveStage port.toNat 1).settle) ∧
  (∀ (port : PortNo) (w : BitVec 32) (s : State), s.active port.toNat → exec (.sidebandRx port w) s = .next ((s.rxSide
    port.toNat w.toNat).acceptOwed port.toNat)) ∧
  (∀ (port : PortNo) (a : BitVec 16) (s : State), s.active port.toNat → exec (.nakRx port a) s = .next ((s.rxNak
    port.toNat (a.toNat % 4096)).acceptOwed port.toNat).settle) ∧
  (∀ (port : PortNo) (s : State) (l : Ll), s.ll port.toNat = some l → l.dropping → s.active port.toNat → exec
    (.nakRepeat port) s = .next (s.sendNak port.toNat)) ∧
  (∀ (port : PortNo) (s : State), s.active port.toNat → exec (.flitTx port) s = .next (s.txFlit port.toNat))

/-- O15. A frame enters, waits for admission, crosses and leaves as the forwarding rules say. Rests on R100, R107, R115,
R125, R127, R138, R164, R173. -/
def Obligations.IngressAndEgressRows : Prop :=
  (∀ (port : PortNo) (f : Frame) (s : State), s.portExists port.toNat → s.active port.toNat → s.isEth port.toNat →
    (parseEth f.bytes).ety ≠ 0x8808 → s.ingressShut port.toNat = false → exec (.frameIngress port f) s = .next
    (s.ingressEth port.toNat f.bytes).settle) ∧
  (∀ (port : PortNo) (f : Frame) (s : State), s.portExists port.toNat → s.active port.toNat → s.isEth port.toNat →
    (parseEth f.bytes).ety = 0x8808 → exec (.frameIngress port f) s = .next (s.pfcRx port.toNat f.bytes).settle) ∧
  (∀ (port : PortNo) (f : Frame) (s : State), s.portExists port.toNat → s.active port.toNat → s.isEth port.toNat =
    false → s.ingressShut port.toNat = false → exec (.frameIngress port f) s = .next (s.tlinkIn port.toNat
    f.vc.toNat f.bytes).settle) ∧
  (∀ (port : PortNo) (vc : BitVec 3) (s u : State) (c : Cp), (s.swc.cps.find? fun x => x.place == .input && x.acct ==
    some (acctOf (portTile port.toNat) (localPort port.toNat) vc.toNat)) = some c → c.tlink = false → s.ingressShut
    port.toNat = false → u = s.dropDown (portTile port.toNat) (s.swc.cps.filter fun x => x.fid == c.fid && s.leaving
    x.etile) → u.swc.cps.any (·.fid == c.fid) → exec (.admitRetry port vc) s = .next (u.admitRetry (acctOf (portTile
    port.toNat) (localPort port.toNat) vc.toNat)).settle) ∧
  (∀ (port : PortNo) (vc : BitVec 3) (s u : State) (c : Cp), (s.swc.cps.find? fun x => x.place == .input && x.acct ==
    some (acctOf (portTile port.toNat) (localPort port.toNat) vc.toNat)) = some c → c.tlink → s.ingressShut
    port.toNat = false → u = s.dropDown (portTile port.toNat) (s.swc.cps.filter fun x => x.fid == c.fid && s.leaving
    x.etile) → u.swc.cps.any (·.fid == c.fid) → ((u.admitRetry (acctOf (portTile port.toNat) (localPort port.toNat)
    vc.toNat)).swc.cps.any fun x => x.fid == c.fid && x.place == .input) = false → exec (.admitRetry port vc) s =
    .next ((u.admitRetry (acctOf (portTile port.toNat) (localPort port.toNat) vc.toNat)).freeFlits port.toNat
    vc.toNat (flitsOf c.bytes.length)).settle) ∧
  (∀ (last : TileNo) (s : State), exec (.xbarSlot last) s = .next (s.xbarSlot last.toNat).settle) ∧
  (∀ (port : PortNo) (s : State), s.isEth port.toNat → exec (.ethRelease port) s = .next (s.ethRelease port.toNat)) ∧
  (∀ (port : PortNo) (s u : State) (q : Nat) (c : Cp), u = s.underrun port.toNat → u.active port.toNat → (upTo 8).any
    (u.eligible port.toNat) → (u.nextQ port.toNat 65536 (u.drrOf port.toNat)).1 = some q → (u.setDrr port.toNat
    (u.nextQ port.toNat 65536 (u.drrOf port.toNat)).2).headOf port.toNat q = some c → exec (.egressSelect port) s =
    .next (((u.setDrr port.toNat (u.nextQ port.toNat 65536 (u.drrOf port.toNat)).2).endStall c).startFrame
    port.toNat c).settle) ∧
  (∀ (d : BaseNo) (s : State), exec (.ageOscTick d) s = .next (s.ageTick d.toNat))

/-- O16. Slots of level 3, lag windows and the steps of an evacuation act on the pattern. Rests on R119, R121, R130,
R131, R162. -/
def Obligations.PatternRows : Prop :=
  (∀ (a : L3In) (s u w : State), 1 < s.devices → u = a.cells.foldl (fun (z : State) x => z.take3 s.selfDev
    a.tile.toNat x) s → w = (u.bundles a.tile.toNat).foldl (fun (z : State) b => z.sendBundle a.tile.toNat ((u.g
    .xbarDev H_XBAR3_k3 + 1) % 2 ^ 64) b) u → exec (.l3Slot a) s = .next ((w.inc .xbarDev XBAR_L3_SLOTS_count).p
    .xbarDev H_XBAR3_k3 ((u.g .xbarDev H_XBAR3_k3 + 1) % 2 ^ 64))) ∧
  (∀ (t : TileNo) (s : State), exec (.l3ReseqGiveup t) s = .next (s.giveUp3 t.toNat)) ∧
  (∀ (s : State), 2 ^ s.g .xbarDev XBAR_CFG_lag_window ≤ s.g .xbarDev H_XBAR2_lag → exec .slotLagWindow s = .next
    ((s.p .xbarDev H_XBAR2_lag 0).members.foldl State.lagMember (s.p .xbarDev H_XBAR2_lag 0)).settle) ∧
  (∀ (s : State) (t : Nat) (l : List Nat), s.swc.evac = none → s.swc.evacWait = t :: l → (s.setEvacWait
    l).members.contains t → exec .evacStartQueued s = .next ((s.setEvacWait l).startEvac t)) ∧
  (∀ (t : TileNo) (e : Bool) (s : State), s.swc.evac = some t.toNat → e = true → exec (.evacDrainEnd t e) s = .next
    (s.evacDrop t.toNat).drainedNow.settle) ∧
  (∀ (t : TileNo) (e : Bool) (s : State), s.swc.evac = some t.toNat → e = false → s.evacLeft t.toNat = [] → exec
    (.evacDrainEnd t e) s = .next s.drainedNow.settle) ∧
  (∀ (s : State) (t : Nat), s.swc.evac = some t → s.swc.drained → s.cycleStart (s.level1 t).length → exec
    .evacRenumber s = .next (s.evacEnd t).settle) ∧
  (∀ (t : TileNo) (s : State), s.st (.swt t.toNat) = .inService → s.members.contains t.toNat = false → s.cycleStart
    ((s.level1 t.toNat).length + 1) → exec (.memberRejoin t) s = .next (s.joinPattern t.toNat)) ∧
  (∀ (h : MeshHead) (s : State) (on : List Nat), s.mcOk h → on = (headBranches h).filter (· != 0) → on.all (fun o =>
    s.meshRoom h (headCopy h o)) → exec (.meshMcForward h) s = .next ((s.setHeld (s.mesh.held.erase h ++ on.map
    (headCopy h))).meshCount (h.x.toNat, h.y.toNat) (if h.m3 then 3 else 0) ((headBranches h).length *
    h.flits.toNat))) ∧
  (∀ (h : MeshHead) (s : State), s.mcOk h → ((headBranches h).filter (· != 0)).all (fun o => s.meshRoom h (headCopy h
    o)) = false → s.mesh.held.contains h = false → exec (.meshMcForward h) s = .next ((s.setHeld (s.mesh.held ++
    [h])).inc (.meshB (meshDie (h.x.toNat, h.y.toNat))) MESH_MC_HOLDS_count))

/-- O17. A table command that its tile accepts has its effect at once and its answer waits for its completion. Rests on
R109, R110, R111. -/
def Obligations.TableCommandRows : Prop :=
  (∀ (m : Mst) (t : TileNo) (v : Word) (s : State) (b : Blk) (i : Instr) (k : Nat) (r : TblAns), (i, k) ∈
    [(Instr.tblCmdRead m t v, 1), (Instr.tblCmdDelete m t v, 4), (Instr.tblCmdFind m t v, 5)] → bits v.toNat 0 3 = k
    → s.opens m.toNat (Blk.swt t.toNat).page 0x108 b → s.gb b SWT_TBL_STATUS_busy = false → r = s.tblAct t.toNat k
    (s.g b SWT_TBL_SEL_table) (s.g b SWT_TBL_SEL_index) → r.1 = .ok → exec i s = .next ((r.2.2.setBusy b
    0x110).addJob ⟨.swtTable, b.page, 0x110, .ok, k + 8 * s.g b SWT_TBL_SEL_table, r.2.1.getD (2 ^ 21),
    m.toNat⟩).settle) ∧
  (∀ (m : Mst) (t : TileNo) (v : Word) (s : State) (b : Blk) (i : Instr) (k : Nat) (r : TblAns), (i, k) ∈
    [(Instr.tblCmdWrite m t v, 2), (Instr.tblCmdInsert m t v, 3)] → bits v.toNat 0 3 = k → s.opens m.toNat (Blk.swt
    t.toNat).page 0x108 b → s.gb b SWT_TBL_STATUS_busy = false → r = s.tblAct t.toNat k (s.g b SWT_TBL_SEL_table)
    (s.g b SWT_TBL_SEL_index) → r.1 = .ok → exec i s = .next (((r.2.2.mendCopies (s.g b SWT_TBL_SEL_table)
    (r.2.1.getD (s.g b SWT_TBL_SEL_index))).setBusy b 0x110).addJob ⟨.swtTable, b.page, 0x110, .ok, k + 8 * s.g b
    SWT_TBL_SEL_table, r.2.1.getD (2 ^ 21), m.toNat⟩).settle) ∧
  (∀ (t : TileNo) (s u : State) (j : Job), s.job .swtTable (Blk.swt t.toNat).page 0x110 = some j → u = (if j.code =
    .ok ∧ (j.a % 8 = 1 ∨ j.a % 8 = 5) then (s.dropJob .swtTable (Blk.swt t.toNat).page 0x110).toStage t.toNat (j.a /
    8) j.b else s.dropJob .swtTable (Blk.swt t.toNat).page 0x110) → exec (.tblCmdDone t) s = .next ((u.finish (.swt
    t.toNat) 0x110 j.code).p (.swt t.toNat) SWT_TBL_STATUS_index (if j.code = .ok ∧ (j.a % 8 = 3 ∨ j.a % 8 = 5) then
    j.b else u.g (.swt t.toNat) SWT_TBL_STATUS_index)))

/-- O18. Class and limit entries, pauses, tokens and the deadlock detector. Rests on R141, R167, R171, R172, R173, R176,
R182, R183. -/
def Obligations.ClassRows : Prop :=
  (∀ (m : Mst) (pg : Pg) (v : Word) (s : State) (t n i wd : Nat) (b : Blk), s.blk pg.toNat = some (.swt t) → b = .swt
    t → s.opens m.toNat pg.toNat 0x208 b → n = s.g b SWT_CLS_SEL_table → i = s.g b SWT_CLS_SEL_index → wd = s.g b
    SWT_CLS_SEL_word → n = 1 ∨ n = 2 → i < clsCount n → tblOk (clsTbl n) wd v.toNat → (s.storeTw (clsTbl n) t i wd
    v.toNat).clsBroken t n i [] = false → exec (.clsEntryWrite m pg v) s = .next (if n = 1 then (s.storeTw (clsTbl
    n) t i wd v.toNat).pfcCheck (32 * t + i / 8) else s.storeTw (clsTbl n) t i wd v.toNat).settle) ∧
  (∀ (m : Mst) (pg : Pg) (v : Word) (s : State) (t i : Nat) (b : Blk), s.blk pg.toNat = some (.swt t) → b = .swt t →
    s.opens m.toNat pg.toNat 0x208 b → s.g b SWT_CLS_SEL_table = 0 → s.g b SWT_CLS_SEL_word = 0 → i = s.g b
    SWT_CLS_SEL_index → i < 32 → s.pfcBarred (tilePort t i) (newPfc (s.tw .clsPort t i 0) ((s.storeTw .clsPort t i 0
    v.toNat).tw .clsPort t i 0)) = false → tblOk .clsPort 0 v.toNat → (s.storeTw .clsPort t i 0 v.toNat).clsBroken t
    0 i (newPfc (s.tw .clsPort t i 0) ((s.storeTw .clsPort t i 0 v.toNat).tw .clsPort t i 0)) = false → exec
    (.clsEntryWrite m pg v) s = .next ((((s.storeTw .clsPort t i 0 v.toNat).dropPausing (tilePort t i)).checkBudget
    (t / 4)).pfcCheck (tilePort t i)).settle) ∧
  (∀ (m : Mst) (pg : Pg) (v : Word) (s : State) (d : Nat), s.blk pg.toNat = some (.bse d) → s.opens m.toNat pg.toNat
    0x120 (.bse d) → s.g (.bse d) BSE_TBL_SEL_table < 2 → tblOk (limTbl (s.g (.bse d) BSE_TBL_SEL_table == 1)) 0
    v.toNat → exec (.limitEntryWrite m pg v) s = .next ((s.storeTw (limTbl (s.g (.bse d) BSE_TBL_SEL_table == 1)) d
    (256 * s.g (.bse d) BSE_TBL_SEL_tile + s.g (.bse d) BSE_TBL_SEL_index) 0 v.toNat).checkBudget d).settle) ∧
  (∀ (port : PortNo) (bs : List Byte) (s : State), s.portExists port.toNat → s.active port.toNat → s.isEth port.toNat
    → exec (.pfcRx port bs) s = .next (s.pfcRx port.toNat bs).settle) ∧
  (∀ (port : PortNo) (vc : BitVec 3) (s : State), exec (.pfcPauseExpiry port vc) s = .next (s.unpause port.toNat
    vc.toNat)) ∧
  (∀ (port : PortNo) (vc : BitVec 3) (s : State), s.swc.pausing.contains (port.toNat, vc.toNat) → s.active port.toNat
    → exec (.pfcRefresh port vc) s = .next (s.sendPfc port.toNat vc.toNat 0xFFFF)) ∧
  (∀ (t : TileNo) (n : BitVec 32) (s : State), s.tileClock t.toNat → exec (.tokenAccrual t n) s = .next (s.accrueTile
    t.toNat n.toNat)) ∧
  (∀ (d : BaseNo) (s : State), exec (.dlScan d) s = .next (s.dlScan d.toNat).settle) ∧
  (∀ (port : PortNo) (vc : BitVec 3) (s : State), exec (.dlRecover port vc) s = .next (s.dlRecover port.toNat
    vc.toNat).settle) ∧
  (∀ (port : PortNo) (vc : BitVec 3) (s : State), exec (.dlHoldExpiry port vc) s = .next (s.unhold port.toNat
    vc.toNat)) ∧
  (∀ (m : Mst) (v : Word) (s : State) (b : Blk), s.opens m.toNat Blk.xbarDev.page 0x348 b → bit v.toNat 0 → exec
    (.dlClear m v) s = .next s.dlClear.settle)

/-- O19. Readback from the spill store, and what the buffer pools hand out and take back. Rests on R144, R145, R148,
R149, R150, R151, R152, R154. -/
def Obligations.SpillAndPoolRows : Prop :=
  (∀ (d : BaseNo) (a : BitVec 12) (s : State) (x : SpillBlock), s.oldestBlock (acctEg a) (acctIdx d a) = some x →
    x.reading = false → cellsOf (s.held (acctEg a) (acctIdx d a)) ≤ s.cellLimit (acctEg a) (acctIdx d a) / 2 → exec
    (.spillReadback d a) s = .next (s.setBlocks (s.swc.blocks.map fun y => if y.addr = x.addr ∧ y.die = x.die then
    { y with reading := true } else y)).settle) ∧
  (∀ (d : BaseNo) (a : BitVec 12) (s : State) (x : SpillBlock) (c : Cp) (l : List Cp), s.oldestBlock (acctEg a)
    (acctIdx d a) = some x → x.reading → s.spilledCps x = c :: l → exec (.spillReadDone d a true) s = .next
    ((s.dropSpilled (s.spilledCps x)).raise (.bse d.toNat) cSPILL_READ_UNCORR).settle) ∧
  (∀ (d : BaseNo) (a : BitVec 12) (s u : State) (x : SpillBlock) (c e : Cp) (l q : List Cp), s.oldestBlock (acctEg a)
    (acctIdx d a) = some x → x.reading → s.spilledCps x = c :: l → x.cells ≤ s.freeCells (acctIdx d a).1 → u =
    s.blockBack x c → u.spilledCps x = e :: q → u.swc.blocks.any (fun y => y.egress == acctEg a && y.cid == x.cid) =
    false → exec (.spillReadDone d a false) s = .next (u.unspilled x e).settle) ∧
  (∀ (m : Mst) (pg : Pg) (v : Word) (s : State) (d : Nat) (r : Code × Nat × Nat × State), s.blk pg.toNat = some (.pool
    d) → s.opens m.toNat pg.toNat 0x1A0 (.pool d) → s.gb (.pool d) POOL_CMD_STATUS_busy = false → bits v.toNat 0 2 =
    1 → r = s.poolAlloc d (bits v.toNat 2 19) → r.1 = .ok → exec (.alloc m pg v) s = .next ((r.2.2.2.p (.pool d)
    POOL_CMD_ADDR_addr r.2.1).poolFinish m.toNat (.pool d) .ok (some r.2.2.1)).settle) ∧
  (∀ (m : Mst) (pg : Pg) (v : Word) (s : State) (d : Nat), s.blk pg.toNat = some (.pool d) → s.opens m.toNat pg.toNat
    0x1A0 (.pool d) → s.gb (.pool d) POOL_CMD_STATUS_busy = false → bits v.toNat 0 2 = 2 → (s.poolRelease d (s.g
    (.pool d) POOL_CMD_ADDR_addr)).1 → exec (.free m pg v) s = .next ((s.poolRelease d (s.g (.pool d)
    POOL_CMD_ADDR_addr)).2.poolFinish m.toNat (.pool d) .ok none).settle) ∧
  (∀ (d : BaseNo) (src : BitVec 4) (n : BitVec 32) (s : State) (r : Code × Nat × Nat × State), r = s.poolAlloc d.toNat
    n.toNat → exec (.poolAllocReq d src n) s = .next (r.2.2.2.emit (.agent (0x40 + src.toNat)) 1 [r.1.val, r.2.1,
    r.2.2.1] []).settle) ∧
  (∀ (d : BaseNo) (src : BitVec 4) (a : BitVec 52) (s : State), exec (.poolFreeReq d src a) s = .next (s.hwFree
    d.toNat a.toNat).settle) ∧
  (∀ (d : BaseNo) (n : BitVec 3) (s : State), n.toNat < 6 → s.live (.pool d.toNat) → (s.cache d.toNat n.toNat).length
    < 128 → s.ringLen d.toNat n.toNat ≠ 0 → exec (.poolCacheRefill d n) s = .next (s.refill d.toNat n.toNat).settle) ∧
  (∀ (d : BaseNo) (n : BitVec 3) (s : State), n.toNat < 6 → s.live (.pool d.toNat) → 384 < (s.cache d.toNat
    n.toNat).length → exec (.poolCacheReturn d n) s = .next (s.giveBack d.toNat n.toNat).settle) ∧
  (∀ (d : BaseNo) (s : State), s.blk (Blk.pool d.toNat).page = some (.pool d.toNat) → s.st (.pool d.toNat) = .training
    → exec (.poolInitDone d) s = .next (((s.poolInit d.toNat).trained (.pool d.toNat)).followAll (.pool
    d.toNat)).settle)

/-- O20. The route loader reads and checks an image, and crossings realign. Rests on R178, R180, R181, R337, R352, R354,
R355, R356. -/
def Obligations.RouteAndTimingRows : Prop :=
  (∀ (m : Mst) (v : Word) (s : State) (b : Blk) (r : Code × Nat × List REdge × List Byte), s.opens m.toNat
    Blk.xbarDev.page 0x308 b → s.gb b XBAR_RL_STATUS_busy = false → bits v.toNat 0 2 = 1 → r = s.readImage m.toNat →
    r.1 ≠ .denied → exec (.check m v) s = .next (((s.showCycle r.2.2.1).setBusy b 0x310).addJob ⟨.routeLoad, b.page,
    0x310, r.1, rlShow r.2.2.1 r.2.1, m.toNat, m.toNat⟩).settle) ∧
  (∀ (m : Mst) (v : Word) (s : State) (b : Blk) (r : Code × Nat × List REdge × List Byte), s.opens m.toNat
    Blk.xbarDev.page 0x308 b → s.gb b XBAR_RL_STATUS_busy = false → bits v.toNat 0 2 = 2 → r = s.readImage m.toNat →
    r.1 ≠ .denied → exec (.load m v) s = .next ((((if r.1 = .ok then s.loadImage r.2.2.2 else s).showCycle
    r.2.2.1).setBusy b 0x310).addJob ⟨.routeLoad, b.page, 0x310, r.1, rlShow r.2.2.1 r.2.1, m.toNat + 2 ^ 16,
    m.toNat⟩).settle) ∧
  (∀ (s u : State) (j : Job), s.job .routeLoad Blk.xbarDev.page 0x310 = some j → j.code = .ok → u = ((s.dropJob
    .routeLoad Blk.xbarDev.page 0x310).finish .xbarDev 0x310 .ok) → exec .routeLoadDone s = .next (if 2 ^ 16 ≤ j.b
    then (u.setReg .xbarDev 0x310 (u.reg .xbarDev 0x310 + j.a)).sysFlag 1 true else u.setReg .xbarDev 0x310 (u.reg
    .xbarDev 0x310 + j.a)).settle) ∧
  (∀ (pg : Pg) (n : BitVec 32) (s : State) (t : Nat), s.blk pg.toNat = some (.swt t) → s.tileClock t → exec
    (.stageMonWindow pg n) s = .next (s.stageWindow (.swt t) SWT_STAGE_MON_count.off n.toNat)) ∧
  (∀ (pg : Pg) (n : BitVec 32) (s : State) (t : Nat), s.blk pg.toNat = some (.vec t) → s.tileClock (2 * t) → exec
    (.stageMonWindow pg n) s = .next (s.stageWindow (.vec t) VEC_STAGE_MON_count.off n.toNat)) ∧
  (∀ (m : Mst) (pg : Pg) (v : Word) (s : State) (b : Blk), s.opens m.toNat pg.toNat 0x700 b → b.hasXing → bit v.toNat
    0 → s.st b = .off ∨ s.st b = .quiesced ∨ s.st b = .evacuated → exec (.realign m pg v) s = .next (s.realign
    b).settle) ∧
  (∀ (pg : Pg) (s : State) (b : Blk), s.blk pg.toNat = some b → b.hasXing → exec (.xingSlip pg) s = .next (((s.inc b
    XING_SLIPS_count).inc b XING_REALIGNS_count).raise b (slipCls b)).settle) ∧
  (∀ (pg : Pg) (s : State) (b : Blk), s.blk pg.toNat = some b → b.hasXing → exec (.xingAlignFail pg) s = .next
    ((s.draw.2.p b (XING_STATUS_aligned.at (8 * (s.draw.1 % 2))) 0).raise b (alignFailCls b)).settle)

/-- O21. A context opens, closes and resets as its state allows, and its tables' words are written. Rests on R81, R82,
R363. -/
def Obligations.ContextRows : Prop :=
  (∀ (m : Mst) (t : TileNo) (v : Word) (s : State) (b : Blk) (r : Code × State), s.opens m.toNat (Blk.att
    t.toNat).page 0x120 b → bits v.toNat 0 2 = 1 → r = s.ctxOpen m.toNat (bits v.toNat 2 12) → r.1 = .ok → exec
    (.ctxOpen m t v) s = .next (r.2.finish b 0x128 .ok).settle) ∧
  (∀ (m : Mst) (t : TileNo) (v : Word) (s : State) (b : Blk) (r : Code × State), s.opens m.toNat (Blk.att
    t.toNat).page 0x120 b → bits v.toNat 0 2 = 2 → r = s.ctxClose m.toNat (bits v.toNat 2 12) → r.1 = .ok → exec
    (.ctxClose m t v) s = .next (r.2.finish b 0x128 .ok).settle) ∧
  (∀ (m : Mst) (t : TileNo) (v : Word) (s : State) (b : Blk) (r : Code × State), s.opens m.toNat (Blk.att
    t.toNat).page 0x120 b → bits v.toNat 0 2 = 3 → r = s.ctxReset m.toNat (bits v.toNat 2 12) → r.1 = .ok → exec
    (.ctxReset m t v) s = .next (r.2.finish b 0x128 .ok).settle) ∧
  (∀ (m : Mst) (t : TileNo) (v : Word) (s : State) (b a : Blk) (i wd : Nat), a = .att t.toNat → i = s.g a
    ATT_TBL_SEL_index → wd = s.g a ATT_TBL_SEL_word → s.opens m.toNat a.page 0x118 b → s.attRow m.toNat t.toNat 0 i
    wd v.toNat → s.g a ATT_TBL_SEL_table = 0 → (fieldsAt Tbl.attCtx.fields wd).any (fun d => d.acc == .rw) → s.ctxSt
    i = 0 → exec (.ctxEntryWrite m t v) s = .next (s.storeTw .attCtx 0 i wd v.toNat).settle) ∧
  (∀ (m : Mst) (t : TileNo) (v : Word) (s : State) (b a : Blk) (i wd : Nat), a = .att t.toNat → i = s.g a
    ATT_TBL_SEL_index → wd = s.g a ATT_TBL_SEL_word → s.opens m.toNat a.page 0x118 b → s.attRow m.toNat t.toNat 1 i
    wd v.toNat → s.g a ATT_TBL_SEL_table = 1 → wd = 0 → exec (.ctxEntryWrite m t v) s = .next ((s.storeTw .attPath
    t.toNat i 0 v.toNat).pt .attPath t.toNat i attPath_eff_weight (bits v.toNat 16 4)).settle) ∧
  (∀ (m : Mst) (t : TileNo) (v : Word) (s : State) (b a : Blk) (i wd : Nat), a = .att t.toNat → i = s.g a
    ATT_TBL_SEL_index → wd = s.g a ATT_TBL_SEL_word → s.opens m.toNat a.page 0x118 b → s.attRow m.toNat t.toNat 2 i
    wd v.toNat → s.g a ATT_TBL_SEL_table = 2 → exec (.ctxEntryWrite m t v) s = .next (s.storeTw .attRegion t.toNat i
    wd v.toNat).settle)

/-- O22. An accelerator's sound command on an ACTIVE context starts its message or posts its buffer. Rests on R80, R86,
R87, R88, R91. -/
def Obligations.LocalCommandRows : Prop :=
  (∀ (g : GroupNo) (c : LocalCmd) (s u : State) (i : Instr) (k : Nat) (o : TOp), (i, k, o) ∈ [(Instr.localPut g c,
    0x11, TOp.put), (Instr.localGet g c, 0x12, TOp.get), (Instr.localSend g c, 0x13, TOp.send), (Instr.localAtomic g
    c, 0x14, TOp.atomic)] → u = s.unhand (attOwner (g.toNat / 8)) c.bytes → u.pers g.toNat = .tlinkAttach → u.active
    (u.attPort g.toNat) → 56 ≤ c.bytes.length → pOp c.bytes = k → e2eOk c.bytes → u.ctxGroup (hw c.bytes 0 % 4096) =
    g.toNat → u.ctxSt (hw c.bytes 0 % 4096) = 1 → (o = .atomic → pAddr c.bytes % 8 = 0) → exec i s = .next
    (u.startMsg g.toNat o c.bytes).settle) ∧
  (∀ (g : GroupNo) (c : LocalCmd) (s u : State), u = s.unhand (attOwner (g.toNat / 8)) c.bytes → u.pers g.toNat =
    .tlinkAttach → u.active (u.attPort g.toNat) → 56 ≤ c.bytes.length → pOp c.bytes = 0x15 → e2eOk c.bytes →
    u.ctxGroup (hw c.bytes 0 % 4096) = g.toNat → u.ctxSt (hw c.bytes 0 % 4096) = 1 → (u.cx (hw c.bytes 0 %
    4096)).posted.length < 64 → exec (.localRecvPost g c) s = .next (u.setCx (hw c.bytes 0 % 4096) ((u.cx (hw
    c.bytes 0 % 4096)).post (beAt c.bytes 16 8) (hw c.bytes 6) (hw c.bytes 3))).settle) ∧
  (∀ (c : CtxNo) (s : State), exec (.ctxQueueIssue c) s = .next (s.issue c.toNat).settle) ∧
  (∀ (g : GroupNo) (tag : BitVec 32) (d : List Byte) (s u : State) (l : LocalRd) (w : TxP), (s.lrds.find? fun x =>
    x.tile == g.toNat / 8 && x.tag == tag.toNat && s.ctxGroup x.ctx == g.toNat) = some l → l.fadd = false → l.pkt =
    w → w.buf = none → u = { s with lrds := s.lrds.filter fun x => !(x.tile == l.tile && x.tag == l.tag) } → exec
    (.localRdData g tag d) s = .next (u.addPkt l.ctx (w.withData (fit l.len d))).settle) ∧
  (∀ (c : CtxNo) (s : State), exec (.localCpl c) s = .next (s.oneCpl c.toNat).settle)

/-- O23. A transport packet that passes its checks and is new is carried out, recorded and acknowledged. Rests on R79,
R83, R85, R87, R90, R91, R96. -/
def Obligations.TransportPacketRows : Prop :=
  (∀ (t : TileNo) (p : TPkt) (s u w : State) (c : Nat), s.abortedReq t.toNat p.bytes = false → s.acceptPkt t.toNat
    0x01 p.bytes = (some c, u) → u.seen c (pPsn p.bytes) = false → u.beyond c (pPsn p.bytes) = false → (u.doPut
    p.bytes c).toOption = some w → exec (.put t p) s = .next (w.tookPkt c p.bytes).settle) ∧
  (∀ (t : TileNo) (p : TPkt) (s u w : State) (c : Nat), s.abortedReq t.toNat p.bytes = false → s.acceptPkt t.toNat
    0x02 p.bytes = (some c, u) → u.seen c (pPsn p.bytes) = false → u.beyond c (pPsn p.bytes) = false → (u.doGet
    p.bytes c).toOption = some w → exec (.getReq t p) s = .next (w.tookPkt c p.bytes).settle) ∧
  (∀ (t : TileNo) (p : TPkt) (s u w : State) (c : Nat), s.abortedReq t.toNat p.bytes = false → s.acceptPkt t.toNat
    0x04 p.bytes = (some c, u) → u.seen c (pPsn p.bytes) = false → u.beyond c (pPsn p.bytes) = false → (u.doSend
    p.bytes c).toOption = some w → exec (.send t p) s = .next (w.tookPkt c p.bytes).settle) ∧
  (∀ (t : TileNo) (p : TPkt) (s u w : State) (c : Nat), s.abortedReq t.toNat p.bytes = false → s.acceptPkt t.toNat
    0x05 p.bytes = (some c, u) → u.seen c (pPsn p.bytes) = false → u.beyond c (pPsn p.bytes) = false → (u.doAtomic
    p.bytes c).toOption = some w → exec (.atomicAdd t p) s = .next (w.tookPkt c p.bytes).settle) ∧
  (∀ (t : TileNo) (p : TPkt) (s u w : State) (c : Nat), s.acceptPkt t.toNat 0x03 p.bytes = (some c, u) → u.seen c
    (pPsn p.bytes) = false → u.beyond c (pPsn p.bytes) = false → (u.doResp p.bytes c).toOption = some w → exec
    (.getResp t p) s = .next (w.tookPkt c p.bytes).settle) ∧
  (∀ (t : TileNo) (p : TPkt) (s u w : State) (c : Nat), s.acceptPkt t.toNat 0x06 p.bytes = (some c, u) → u.seen c
    (pPsn p.bytes) = false → u.beyond c (pPsn p.bytes) = false → (u.doAtomicResp p.bytes c).toOption = some w → exec
    (.atomicResp t p) s = .next (w.tookPkt c p.bytes).settle) ∧
  (∀ (t : TileNo) (p : TPkt) (s u w : State) (c : Nat), s.rdxAddr ≠ some (hw p.bytes 0 / 4096) → s.acceptPkt t.toNat
    0x07 p.bytes = (some c, u) → w = (u.ackPkts c (pPsn p.bytes) (beAt p.bytes 20 16) (beAt p.bytes 36 16)).ackNak c
    (hw p.bytes 4 / 2 ^ 24) (hw p.bytes 4 % 2 ^ 24) → w.ctxLive c → exec (.ack t p) s = .next ((w.ackGaps c (pPsn
    p.bytes) (beAt p.bytes 20 16)).drainCx c).settle) ∧
  (∀ (c : CtxNo) (s : State), exec (.txPacketSend c) s = .next (s.sendNext c.toNat).settle)

/-- O24. The transport's timers acknowledge, resend and bring a path back. Rests on R85, R91, R93, R94. -/
def Obligations.TransportTimerRows : Prop :=
  (∀ (c : CtxNo) (s : State), s.ctxSt c.toNat ≠ 4 → s.ctxLive c.toNat → 0 < (s.cx c.toNat).sinceAck → exec (.ackTimer
    c) s = .next (s.sendAck c.toNat .ok 0).settle) ∧
  (∀ (c : CtxNo) (s : State), s.ctxSt c.toNat = 4 → exec (.ackTimer c) s = .next ((upTo (s.rx
    c.toNat).ranks.length).foldl (fun (z : State) i => if 0 < (((z.rx c.toNat).ranks[i]?).map (·.sinceAck)).getD 0
    then z.ackRank c.toNat i .ok 0 else z) s).settle) ∧
  (∀ (c : CtxNo) (psn : BitVec 32) (s : State) (p : TxP) (t n : Nat), s.ctxSt c.toNat ≠ 4 → s.ctxLive c.toNat → ((s.cx
    c.toNat).pkts.find? fun x => x.psn == some (psn.toNat % 2 ^ 24)) = some p → t = s.ctxTile c.toNat → n = s.t
    .attPath t p.path attPath_timeouts + 1 → n < ((s.inc (.att t) ATT_TIMEOUTS_count).pt .attPath t p.path
    attPath_timeouts (min n 255)).g (.att t) ATT_CFG_path_down_after → exec (.retxTimeout c psn) s = .next (((s.inc
    (.att t) ATT_TIMEOUTS_count).pt .attPath t p.path attPath_timeouts (min n 255)).resend c.toNat (psn.toNat % 2 ^
    24)).settle) ∧
  (∀ (c : CtxNo) (psn : BitVec 32) (s : State) (q : Nat) (l : RLine) (i : Instr), i ∈ [Instr.retxTimeout c psn,
    Instr.noResourceRetry c psn] → q = psn.toNat % 2 ^ 24 → s.ctxSt c.toNat = 4 → s.subLive c.toNat → ((s.rx
    c.toNat).lines.find? fun x => x.part.isSome && x.partPsn == some q) = none → ((s.rx c.toNat).lines.find? fun x
    => x.res.isSome && x.resPsn == some q) = some l → exec i s = .next (((s.rx c.toNat).recvs.filter fun e =>
    !l.acked.contains e.1).foldl (fun (z : State) e => z.resendTo c.toNat ((z.rx c.toNat).line l.g) e) s).settle) ∧
  (∀ (c : CtxNo) (psn : BitVec 32) (s : State) (q : Nat) (l : RLine) (i : Instr), i ∈ [Instr.retxTimeout c psn,
    Instr.noResourceRetry c psn] → q = psn.toNat % 2 ^ 24 → s.ctxSt c.toNat = 4 → s.subLive c.toNat → ((s.rx
    c.toNat).lines.find? fun x => x.part.isSome && x.partPsn == some q) = some l → ((s.rx c.toNat).lines.find? fun x
    => x.res.isSome && x.resPsn == some q) = none → exec i s = .next (s.resendPart c.toNat l).settle) ∧
  (∀ (c : CtxNo) (psn : BitVec 32) (s : State), s.ctxSt c.toNat ≠ 4 → s.ctxLive c.toNat → (s.cx c.toNat).pkts.any (fun
    p => p.psn == some (psn.toNat % 2 ^ 24) && p.nakd) → exec (.noResourceRetry c psn) s = .next (s.resend c.toNat
    (psn.toNat % 2 ^ 24)).settle) ∧
  (∀ (t : TileNo) (p : BitVec 20) (s : State), s.tb .attPath t.toNat p.toNat attPath_down → exec (.pathHoldExpiry t p)
    s = .next (((s.pt .attPath t.toNat p.toNat attPath_down 0).pt .attPath t.toNat p.toNat attPath_hold_left 0).pt
    .attPath t.toNat p.toNat attPath_timeouts 0))

/-- O25. A reduction command that its state and its row allow has its effect and reports its code. Rests on R188, R190,
R213, R221. -/
def Obligations.ReductionCommandRows : Prop :=
  (∀ (m : Mst) (n : EngNo) (v : Word) (s : State) (b : Blk) (r : Code × State), s.opens m.toNat (Blk.rdx n.toNat).page
    0x128 b → bit (s.reg b 0x138) 8 = false → bits v.toNat 0 3 = 1 → r = s.rdxAdmit m.toNat n.toNat (bits v.toNat 3
    12) → r.1 = .ok → exec (.rdxAdmit m n v) s = .next (r.2.finish b 0x138 .ok).settle) ∧
  (∀ (m : Mst) (n : EngNo) (v : Word) (s : State) (b : Blk) (c : Nat), s.opens m.toNat (Blk.rdx n.toNat).page 0x128 b
    → bit (s.reg b 0x138) 8 = false → bits v.toNat 0 3 = 2 → c = bits v.toNat 3 12 → s.sub c = 1 → s.rdxRow m.toNat
    c → exec (.retire m n v) s = .next ((s.rdxRetire c).2.finish b 0x138 .ok).settle) ∧
  (∀ (m : Mst) (n : EngNo) (v : Word) (s : State) (b : Blk) (c : Nat), s.opens m.toNat (Blk.rdx n.toNat).page 0x128 b
    → bit (s.reg b 0x138) 8 = false → bits v.toNat 0 3 = 3 → c = bits v.toNat 3 12 → s.sub c ≠ 0 → s.rdxRow m.toNat
    c → exec (.rdxReset m n v) s = .next ((s.resetRdx c).finish b 0x138 .ok).settle) ∧
  (∀ (m : Mst) (n : EngNo) (v : Word) (s : State) (b : Blk) (c : Nat) (r : Code × State), s.opens m.toNat (Blk.rdx
    n.toNat).page 0x128 b → bit (s.reg b 0x138) 8 = false → bits v.toNat 0 3 = 4 → c = bits v.toNat 3 12 → s.sub c =
    1 → s.rdxRow m.toNat c → r = s.rdxSave m.toNat n.toNat c → r.1 = .ok → exec (.save m n v) s = .next
    ((r.2.setBusy b 0x138).addJob ⟨.rdxCmd, b.page, 0x138, .ok, c, 4, m.toNat⟩).settle) ∧
  (∀ (m : Mst) (n : EngNo) (v : Word) (s : State) (b : Blk) (c : Nat) (r : Code × State), s.opens m.toNat (Blk.rdx
    n.toNat).page 0x128 b → bit (s.reg b 0x138) 8 = false → bits v.toNat 0 3 = 5 → c = bits v.toNat 3 12 → s.sub c =
    4 → s.rdxRow m.toNat c → r = s.rdxRestore m.toNat n.toNat c → r.1 = .ok → exec (.restore m n v) s = .next
    ((r.2.setBusy b 0x138).addJob ⟨.rdxCmd, b.page, 0x138, .ok, c, 5, m.toNat⟩).settle) ∧
  (∀ (n : EngNo) (s : State) (j : Job), s.job .rdxCmd (Blk.rdx n.toNat).page 0x138 = some j → exec (.rdxCmdDone n) s =
    .next (((s.dropJob .rdxCmd (Blk.rdx n.toNat).page 0x138).p (.rdx n.toNat) ⟨0x138, 8, 1⟩ 0).finish (.rdx n.toNat)
    0x138 j.code).settle)

/-- O26. A small collective's slot opens and closes, and a sound contribution joins the open sequence. Rests on R215,
R216, R217. -/
def Obligations.SmallCollectiveRows : Prop :=
  (∀ (m : Mst) (v : Word) (s : State) (b : Blk) (r : Code × State), s.opens m.toNat Blk.syn.page 0x418 b → bits
    v.toNat 0 2 = 1 → s.ownSlot m.toNat (bits v.toNat 2 10) → r = s.scOpen (bits v.toNat 2 10) → r.1 = .ok → exec
    (.scOpen m v) s = .next (r.2.finish b 0x420 .ok).settle) ∧
  (∀ (m : Mst) (v : Word) (s : State) (b : Blk) (r : Code × State), s.opens m.toNat Blk.syn.page 0x418 b → bits
    v.toNat 0 2 = 2 → s.ownSlot m.toNat (bits v.toNat 2 10) → r = s.scShut (bits v.toNat 2 10) → r.1 = .ok → exec
    (.scClose m v) s = .next (r.2.finish b 0x420 .ok).settle) ∧
  (∀ (port : PortNo) (p : CPkt) (s u : State) (i k : Nat), u = s.unhand synOwner p.bytes → i = hw p.bytes 0 % 4096 → k
    = cRank p.bytes → pOp p.bytes = 0x24 → 56 ≤ p.bytes.length → i ≤ 1023 → u.scf i scSlot_open = 1 → k < u.scf i
    scSlot_participants → u.tb .scPart 0 (u.scf i scSlot_part_base + k) scPart_valid → (cPay p.bytes).length =
    u.scBytes i → e2eOk p.bytes → (u.sc i).opened → hw p.bytes 4 = u.scf i scSlot_seq → exec (.collSmall port p) s =
    .next (u.scAdd i k (cPay p.bytes)).settle)

/-- O27. Contributions are claimed, granted and accumulated, and what the parent sends is taken. Rests on R198, R200,
R201, R204, R211. -/
def Obligations.ContributionRows : Prop :=
  (∀ (port : PortNo) (p : CPkt) (s : State), exec (.collContrib port p) s = .next (s.collIn 0x20 port.toNat none
    p.bytes).settle) ∧
  (∀ (port : PortNo) (p : CPkt) (s : State), exec (.collPartial port p) s = .next (s.collIn 0x22 port.toNat none
    p.bytes).settle) ∧
  (∀ (port : PortNo) (p : CPkt) (s u : State) (i : Instr) (op c : Nat) (r : RRank), (i, op) ∈ [(Instr.collContrib port
    p, 0x20), (Instr.collPartial port p, 0x22)] → u = s.unhand rdxOwner p.bytes → c = hw p.bytes 0 % 4096 → pOp
    p.bytes = op → 56 ≤ p.bytes.length → e2eOk p.bytes → u.sub c = 1 → hw p.bytes 3 % 256 = u.ctx c attCtx_epoch %
    256 → (u.rx c).ranks[cRank p.bytes]? = some r → r.contrib → r.remote = false → r.portId = port.toNat → u.collOk
    c r.fmt p.bytes → exec i s = .next (u.setRx c
    { u.rx c with claims := (u.rx c).claims ++ [⟨cRank p.bytes, port.toNat, 4, p.bytes, false, true, none⟩] }).settle) ∧
  (∀ (c : CtxNo) (s : State) (k : RClaim) (r : RRank), ((s.rx c.toNat).claims.find? fun x => !x.deferred && !(((s.rx
    c.toNat).claims.filter (·.deferred)).map (·.port)).contains x.port) = some k → (s.rx c.toNat).ranks[k.rank]? =
    some r → r.remote = false → s.fitsWindow c.toNat k.bytes → exec (.claim c) s = .next ((s.claimHops c.toNat
    k).grant c.toNat k).settle) ∧
  (∀ (c : CtxNo) (s : State) (k : RClaim) (r : RRank), ((s.rx c.toNat).claims.find? fun x => !x.deferred && !(((s.rx
    c.toNat).claims.filter (·.deferred)).map (·.port)).contains x.port) = some k → (s.rx c.toNat).ranks[k.rank]? =
    some r → r.remote → exec (.claim c) s = .next ((s.claimHops c.toNat k).judgeRemote c.toNat k r).settle) ∧
  (∀ (c : CtxNo) (s : State) (k : RClaim) (r : RRank), ((s.rx c.toNat).claims.find? fun x => !x.deferred && !(((s.rx
    c.toNat).claims.filter (·.deferred)).map (·.port)).contains x.port) = some k → (s.rx c.toNat).ranks[k.rank]? =
    some r → r.remote = false → s.fitsWindow c.toNat k.bytes = false → exec (.claim c) s = .next (s.setRx c.toNat
    { s.rx c.toNat with claims := (s.rx c.toNat).claims.map fun y => if y = k then { y with deferred := true } else y }).settle) ∧
  (∀ (c : CtxNo) (s : State) (k : RClaim), ((s.rx c.toNat).claims.find? fun x => x.deferred && s.fitsWindow c.toNat
    x.bytes) = some k → exec (.claimGrant c) s = .next ((s.claimHops c.toNat k).grant c.toNat k).settle) ∧
  (∀ (n : EngNo) (s : State) (a : Nat), s.nextTile n.toNat = some a → ∃ e ∈ s.inQueue n.toNat a, exec
    (.engineAccumulate n) s = .next (s.draw.2.takeIn n.toNat e).settle) ∧
  (∀ (port : PortNo) (p : CPkt) (s : State), exec (.collResult port p) s = .next (s.collResult port.toNat
    p.bytes).settle) ∧
  (∀ (port : PortNo) (p : CPkt) (s u w : State) (c d n m out : Nat), s.fromParent 0x21 port.toNat p.bytes = (some c,
    u) → out = u.rc c rdxCtx_out_fmt → u.collOk c out p.bytes → d = (pPsn p.bytes + 2 ^ 24 - (u.rx c).parentCum) % 2
    ^ 24 → d ≠ 0 → d ≤ 128 → bit (u.rx c).parentMap (d - 1) = false → m = putBits (u.rx c).parentMap (d - 1) 1 1 → n
    = runLen 128 m → w = u.setRx c
    { u.rx c with parentCum := ((u.rx c).parentCum + n) % 2 ^ 24, parentMap := m / 2 ^ n } → exec (.collResult port
    p) s = .next (((indexed ((splitLines (decide (out ≤ 4)) out (cElems p.bytes) (cPay p.bytes)).getD [])).foldl
    (fun (z : State) e => if z.inWindow c ((w.firstLine c p.bytes).getD 0 + e.1) && !(z.rx c).done.contains
    ((w.firstLine c p.bytes).getD 0 + e.1) && ((z.rx c).line ((w.firstLine c p.bytes).getD 0 + e.1)).res.isNone then
    z.setResult c ((w.firstLine c p.bytes).getD 0 + e.1) e.2 else z) w).ackParent c).settle) ∧
  (∀ (port : PortNo) (p : CPkt) (s u : State) (c : Nat), s.fromParent 0x23 port.toNat p.bytes = (some c, u) → exec
    (.collWindow port p) s = .next (u.setRx c
    { u.rx c with parentTop := some (max (beAt p.bytes 36 8) ((u.rx c).parentTop.getD 0)) }).settle) ∧
  (∀ (port : PortNo) (p : CPkt) (s : State), exec (.collWindow port p) s = .next (s.collWindow port.toNat
    p.bytes).settle)

/-- O28. Lines that have their counts are released, run their epilogue and leave. Rests on R204, R205, R209. -/
def Obligations.ReleaseRows : Prop :=
  (∀ (c : CtxNo) (g : BitVec 64) (s : State), s.subLive c.toNat → (s.together c.toNat g.toNat).contains g.toNat →
    (s.together c.toNat g.toNat).all (s.reached c.toNat) → exec (.lineRelease c g) s = .next ((s.together c.toNat
    g.toNat).foldl (fun (t : State) x => t.releaseOne c.toNat x) s).settle) ∧
  (∀ (c : CtxNo) (g : BitVec 64) (s : State), exec (.epilogue c g) s = .next (s.epilogue c.toNat g.toNat).settle) ∧
  (∀ (c : CtxNo) (g : BitVec 64) (s u : State) (gs codes : List Nat) (n out : Nat) (r : Code × Exc × State) (bs : List
    Byte), gs = s.together c.toNat g.toNat → s.subLive c.toNat → gs.all (fun x => ((s.rx c.toNat).line x).epi) → n =
    s.engOf c.toNat g.toNat → out = s.rc c.toNat rdxCtx_out_fmt → codes = gs.flatMap (fun x => (s.lineCodes c.toNat
    x 0).1) → u = s.writeSpace 2 (epiScratch 0) (codeBytes 0 codes) → r = State.epiRun (2 ^ 21) (gs.all fun x =>
    s.roundOf c.toNat x == s.roundOf c.toNat g.toNat) (s.rc c.toNat rdxCtx_partition) n (u.rc c.toNat
    rdxCtx_epi_prog) (flatDesc 0 (epiScratch 0) codes.length) (flatDesc out (epiScratch 1) codes.length) u → r.1 =
    .ok → bs = r.2.2.readSpace 2 (epiScratch 1) (codes.length * fmtBytes out) → exec (.epilogue c g) s = .next
    ((({ r.2.2 with vec := memZero r.2.2.vec (epiScratch 0) (2 ^ 33) } : State).rdxFlags c.toNat n r.2.1).putResults
    c.toNat gs bs).settle) ∧
  (∀ (c : CtxNo) (s : State) (p vc : Nat) (bs : List Byte) (l : List (Nat × Nat × List Byte)), (s.rx c.toNat).outq =
    (p, vc, bs) :: l → exec (.resultSend c) s = .next ((s.setRx c.toNat ((s.rx c.toNat).withOut l)).reinject (s.home
    c.toNat) vc [(p, bs)]).settle) ∧
  (∀ (c : CtxNo) (s : State), (s.rx c.toNat).outq = [] → exec (.resultSend c) s = .next (s.resultSend c.toNat).settle) ∧
  (∀ (c : CtxNo) (s u : State) (l : RLine) (ps : List (Nat × List Byte)), (s.rx c.toNat).outq = [] → s.sub c.toNat = 1
    ∨ s.sub c.toNat = 2 → lowest ((s.rx c.toNat).lines.filter fun y => y.res.isSome && y.resPsn.isNone) = some l →
    (s.rx c.toNat).recvs.all (fun e => psnRoom (s.rx c.toNat).psn e.2.txCum) → u = s.setRx c.toNat
    { (s.rx c.toNat).setLine { l with resPsn := some (s.rx c.toNat).psn } with psn := ((s.rx c.toNat).psn + 1) % 2 ^ 24 }
    → ps = (s.rx c.toNat).recvs.filterMap (fun e => e.2.port.map fun q => (q, u.resultPkt c.toNat l.g (s.rx
    c.toNat).psn e.1 e.2 (l.res.getD []))) → exec (.resultSend c) s = .next ((portBatches ps.length ps).foldl (fun
    (z : State) b => z.reinject (z.engOf c.toNat l.g) 5 b) u).settle) ∧
  (∀ (c : CtxNo) (s u : State) (l : RLine) (p : Nat), (s.rx c.toNat).outq = [] → s.sub c.toNat = 1 ∨ s.sub c.toNat = 2
    → lowest ((s.rx c.toNat).lines.filter fun y => y.res.isSome && y.resPsn.isNone) = none → lowest ((s.rx
    c.toNat).lines.filter fun y => y.part.isSome && y.partPsn.isNone && ((s.rx c.toNat).parentTop.all fun t =>
    decide (y.g < t))) = some l → psnRoom (s.rx c.toNat).partPsn (s.rx c.toNat).partCum → (s.rx c.toNat).parentPort
    = some p → u = s.setRx c.toNat
    { (s.rx c.toNat).setLine { l with partPsn := some (s.rx c.toNat).partPsn } with partPsn := ((s.rx c.toNat).partPsn + 1) % 2 ^ 24 }
    → exec (.resultSend c) s = .next (u.reinject (u.engOf c.toNat l.g) 4 [(p, u.partialPkt c.toNat l.g (s.rx
    c.toNat).partPsn (l.part.getD []))]).settle)

/-- O29. A Roost command on a row of the requester has the object's effect and code. Rests on R223, R224, R226, R227,
R229, R232, R235, R236, R242, R243, R244. -/
def Obligations.RoostCommandRows : Prop :=
  (∀ (m : Mst) (v : Word) (s : State) (b : Blk) (r : Code × State), s.opens m.toNat Blk.syn.page 0x110 b → s.synRow
    m.toNat 0 (bits v.toNat 0 16) → r = s.signalPhys (bits v.toNat 0 16) (bits v.toNat 16 16) (bits v.toNat 32 32) →
    r.1 = .ok → exec (.synSignal m v) s = .next r.2.settle) ∧
  (∀ (m : Mst) (v : Word) (s : State) (b : Blk), s.opens m.toNat Blk.syn.page 0x118 b → s.synRow m.toNat 0 (bits
    v.toNat 0 16) → exec (.clear m v) s = .next (s.cntEpoch (bits v.toNat 0 16) true).settle) ∧
  (∀ (m : Mst) (v : Word) (s : State) (b : Blk) (i : Instr) (x : Bool) (r : Code × State), (i, x) ∈ [(Instr.flagSet m
    v, true), (Instr.flagClr m v, false)] → bit v.toNat 28 = !x → s.opens m.toNat Blk.syn.page 0x120 b → s.synRow
    m.toNat 1 (bits v.toNat 0 12) → r = s.flagWrite (mst m.toNat) (bits v.toNat 0 12) (bits v.toNat 12 16) x → r.1 =
    .ok → exec i s = .next r.2.settle) ∧
  (∀ (m : Mst) (v : Word) (s : State) (b : Blk) (r : Code × State), s.opens m.toNat Blk.syn.page 0x128 b → s.synRow
    m.toNat 2 (bits v.toNat 0 14) → r = s.arm (bits v.toNat 0 14) → r.1 = .ok → exec (.watchArm m v) s = .next
    r.2.settle) ∧
  (∀ (m : Mst) (v : Word) (s : State) (b : Blk) (r : Code × State), s.opens m.toNat Blk.syn.page 0x130 b → s.synRow
    m.toNat 2 (bits v.toNat 0 14) → r = s.cancel (bits v.toNat 0 14) → r.1 = .ok → exec (.watchCancel m v) s = .next
    r.2.settle) ∧
  (∀ (m : Mst) (v : Word) (s : State) (b : Blk) (r : Code × State), s.opens m.toNat Blk.syn.page 0x138 b → s.synRow
    m.toNat 4 (bits v.toNat 0 8) → bits v.toNat 8 2 = 1 → r = s.barArm (bits v.toNat 0 8) → r.1 = .ok → exec
    (.barArm m v) s = .next r.2.settle) ∧
  (∀ (m : Mst) (v : Word) (s : State) (b : Blk), s.opens m.toNat Blk.syn.page 0x138 b → s.synRow m.toNat 4 (bits
    v.toNat 0 8) → bits v.toNat 8 2 = 2 → s.tb .synBar 0 (bits v.toNat 0 8) synBar_armed → exec (.barDisarm m v) s =
    .next (s.pt .synBar 0 (bits v.toNat 0 8) synBar_armed 0).settle) ∧
  (∀ (m : Mst) (c e : BitVec 16) (a : BitVec 32) (s : State) (r : Code × State), r = s.signalAs m.toNat c.toNat
    e.toNat a.toNat → exec (.signal m c e a) s = .next (r.2.emit (.agent m.toNat) 2 [r.1.val] []).settle) ∧
  (∀ (m : Mst) (v : Word) (s : State) (b : Blk) (tb i wd : Nat), tb = s.g b SYN_TBL_SEL_table → i = s.g b
    SYN_TBL_SEL_index → wd = s.g b SYN_TBL_SEL_word → s.opens m.toNat Blk.syn.page 0x108 b → s.synRow m.toNat tb i →
    (s.storeTw (synTbl tb) 0 i wd v.toNat).synRow m.toNat tb i → (fieldsAt (synTbl tb).fields wd).any (·.acc == .rw)
    → s.synBarred tb i = false → tb < 3 ∨ tb = 4 → i < synCount tb → tblOk (synTbl tb) wd v.toNat → exec
    (.synTblWrite m v) s = .next (s.storeTw (synTbl tb) 0 i wd v.toNat).settle)

/-- O30. The wait detector scans, and a clear empties its table. Rests on R246, R247. -/
def Obligations.WaitDetectorRows : Prop :=
  (∀ (s : State), exec .waitScan s = .next s.waitScan.settle) ∧
  (∀ (m : Mst) (v : Word) (s : State) (b : Blk), s.opens m.toNat Blk.syn.page 0x150 b → bit v.toNat 0 → exec
    (.waitClear m v) s = .next s.waitClear.settle)

/-- O31. The list commands act as the list's state allows, a pause takes effect, and the schedule starts the next work.
Rests on R287, R306, R307, R313. -/
def Obligations.ListCommandRows : Prop :=
  (∀ (m : Mst) (v : Word) (s : State) (b : Blk) (i : Instr) (k : Nat) (r : Code × State), (i, k, r) ∈ [(Instr.start m
    v, 1, s.gangStart (bits v.toNat 3 4) (bits v.toNat 7 2) (s.g b MAC_CMD_ADDR_pc) (bit v.toNat 9)), (Instr.pause m
    v, 2, s.gangPause (bits v.toNat 3 4) (bits v.toNat 7 2)), (Instr.resume m v, 3, s.gangResume (bits v.toNat 3 4)
    (bits v.toNat 7 2)), (Instr.stop m v, 4, s.gangStop (bits v.toNat 3 4) (bits v.toNat 7 2))] → bits v.toNat 0 3 =
    k → s.opens m.toNat gangPage.page 0x228 b → partRow m.toNat (bits v.toNat 3 4) → r.1 = .ok → exec i s = .next
    (r.2.finish b 0x238 .ok).settle) ∧
  (∀ (p : PartNo) (l : ListNo) (s : State), exec (.pauseTakesEffect p l) s = .next ((s.pauseNow p.toNat
    l.toNat).showHalted p.toNat).settle) ∧
  (∀ (p : PartNo) (l : ListNo) (s w : State) (busy : List GOp), (s.gl p.toNat l.toNat).pausing → s.lst p.toNat l.toNat
    = .running → busy = (s.opsOf p.toNat l.toNat).filter (fun o => !o.saved && (o.wait == .run || (o.wait == .done
    && gangClass o.ins (s.dsc o) != 2))) → busy.all (fun o => (o.ins.family == 3 || o.ins.family == 4) && o.wait ==
    .run) → w = busy.foldl State.saveProduct s → exec (.pauseTakesEffect p l) s = .next (((w.setGl
    { w.gl p.toNat l.toNat with pausing := false }).setLst p.toNat l.toNat .paused).showHalted p.toNat).settle) ∧
  (∀ (c : BitVec 2) (s : State), c.toNat < 2 → s.classBusy c.toNat → exec (.gangSchedule c) s = .next s.settle) ∧
  (∀ (c : BitVec 2) (s : State) (p l : Nat) (r : Option (Nat × Nat) × State), c.toNat < 2 → s.classBusy c.toNat =
    false → ((s.gangOffers c.toNat (s.drawWide 1).1).any fun o => o.2.isSome) = true → r = (s.drawWide 1).2.drrTurn
    c.toNat (s.gangOffers c.toNat (s.drawWide 1).1) (offerTurns (s.gangOffers c.toNat (s.drawWide 1).1)) → r.1 =
    some (p, l) → exec (.gangSchedule c) s = .next ((r.2.turn p l ((s.drawWide 1).1 + 4 * p + l)).serve c.toNat p
    l).settle) ∧
  (∀ (c : BitVec 2) (s : State) (p l : Nat), c.toNat = 2 → s.freeWork = some (p, l) → exec (.gangSchedule c) s = .next
    (s.turn p l 0).settle)

/-- O32. An instruction that its list has issued is carried out as its family says. Rests on R273, R280, R284, R288,
R292, R296, R297, R302, R303, R304, R305, R315. -/
def Obligations.InstructionRows : Prop :=
  (∀ (p : PartNo) (l : ListNo) (s t : State) (o : GOp) (i : Instr) (k : Nat × Nat), (i, k, t) ∈ [(Instr.rcvFirst p l,
    (9, 2), s.carryFirst o), (Instr.cntFetch p l, (12, 0), s.carryFetch o), (Instr.ldw p l, (1, 0), s.carryLdw o),
    (Instr.stw p l, (2, 0), s.carryStw o), (Instr.mm p l, (3, 0), s.carryProduct o), (Instr.mmtDx p l, (4, 1),
    s.carryProduct o), (Instr.mmtDw p l, (4, 2), s.carryProduct o), (Instr.epi p l, (5, 0), s.carryEpi o),
    (Instr.cvt p l, (6, 0), s.carryCvt o), (Instr.rdxOp p l, (7, 0), s.carryRdx o), (Instr.snd p l, (8, 0),
    s.carrySnd o), (Instr.rcvPostWait p l, (9, 0), s.carryRcv o), (Instr.rcvPost p l, (9, 1), s.carryRcv o),
    (Instr.waitCounter p l, (10, 0), s.carryWait o), (Instr.waitFlag p l, (10, 1), s.carryWait o), (Instr.sigAdd p
    l, (11, 0), s.carrySig o), (Instr.sigSet p l, (11, 1), s.carrySig o), (Instr.sigClr p l, (11, 2), s.carrySig o),
    (Instr.cntCounts p l, (12, 1), s.carryCounts o), (Instr.digTree p l, (13, 0), s.carryDig o), (Instr.digAudit p
    l, (13, 1), s.carryDig o), (Instr.smpSeeded p l, (14, 0), s.carrySmp o), (Instr.smpEntropy p l, (14, 1),
    s.carrySmp o)] → s.toRun p.toNat l.toNat k.1 k.2 = some o → s.pins.faultN → exec i s = .next t.settle) ∧
  (∀ (p : PartNo) (l : ListNo) (s : State) (o : GOp), s.toRun p.toNat l.toNat 0 0 = some o → (s.opsOf p.toNat
    l.toNat).head? = some o → s.lst p.toNat l.toNat ≠ .paused → o.code = .ok → exec (.halt p l) s = .next
    (s.completeOp (o.ended .ok)).settle)

/-- O33. A message of a watch, a completion, room in the ring and the end of a lag window do what the Gang's rules say.
Rests on R302, R309, R310, R311. -/
def Obligations.CompletionRows : Prop :=
  (∀ (w : Arming) (code : BitVec 8) (v : Word) (s : State) (o : GOp), (s.gang.ops.find? fun x => x.wait == .watch
    w.slot.toNat w.seq.toNat) = some o → exec (.gangWatchMessage w code v) s = .next (s.setOp (o.answered
    (Code.ofVal code.toNat) v.toNat)).settle) ∧
  (∀ (w : Arming) (code : BitVec 8) (v : Word) (s : State), (s.gang.ops.find? fun x => x.wait == .watch w.slot.toNat
    w.seq.toNat) = none → exec (.gangWatchMessage w code v) s = .next (s.inc gangPage
    MAC_WATCH_UNMATCHED_count).settle) ∧
  (∀ (p : PartNo) (l : ListNo) (s u : State) (o : GOp), s.lst p.toNat l.toNat ≠ .paused ∨ (s.gl p.toNat
    l.toNat).stopping → (s.gl p.toNat l.toNat).full = false → (s.opsOf p.toNat l.toNat).findSome? s.ready = some (o,
    u) → exec (.gangOpDone p l) s = .next (u.completeOp o).settle) ∧
  (∀ (p : PartNo) (l : ListNo) (s : State) (o : GOp), (s.gl p.toNat l.toNat).full → s.ringFull p.toNat = false →
    ((s.noWait p.toNat l.toNat).opsOf p.toNat l.toNat).find? (fun x => x.wait == .done) = some o → exec
    (.cplRingResume p l) s = .next ((s.noWait p.toNat l.toNat).completeOp o).settle) ∧
  (∀ (s : State), 2 ^ s.g gangPage MAC_GANG_CFG_lag_window ≤ s.g gangPage H_LAG_ops → exec .arrayLagWindow s = .next
    (((upTo 16).foldl (fun u q => u.lagOf q (s.g gangPage MAC_GANG_CFG_lag_threshold * 2 ^ s.g gangPage
    MAC_GANG_CFG_lag_window)) (s.p gangPage H_LAG_ops 0))).settle)

/-- O34. The training commands and the writes of training and partition entries act on their entry. Rests on R313, R318,
R322, R324, R328. -/
def Obligations.TrainingRows : Prop :=
  (∀ (m : Mst) (v : Word) (s : State) (b : Blk), s.opens m.toNat gangPage.page 0x310 b → bits v.toNat 0 2 = 1 →
    partRow m.toNat (bits v.toNat 2 4) → s.retained (bits v.toNat 2 4) (bits v.toNat 6 8) → exec (.releaseRetention
    m v) s = .next ((s.dropRetention (bits v.toNat 2 4) (bits v.toNat 6 8)).finish b 0x318 .ok).settle) ∧
  (∀ (m : Mst) (v : Word) (s : State) (b : Blk), s.opens m.toNat gangPage.page 0x310 b → bits v.toNat 0 2 = 2 →
    partRow m.toNat (bits v.toNat 2 4) → exec (.clearGrad m v) s = .next ((s.ple (bits v.toNat 2 4) (bits v.toNat 6
    8) macLayer_grad_count 0).finish b 0x318 .ok).settle) ∧
  (∀ (m : Mst) (v : Word) (s : State) (b : Blk) (p i wd : Nat) (t : Tbl), s.opens m.toNat gangPage.page 0x308 b → p =
    s.g b MAC_TRAIN_SEL_partition → wd = s.g b MAC_TRAIN_SEL_word → t = (if s.gb b MAC_TRAIN_SEL_table then
    Tbl.macTrain else Tbl.macLayer) → i = (if s.gb b MAC_TRAIN_SEL_table then p else p * 256 + s.g b
    MAC_TRAIN_SEL_entry) → ownRow m.toNat p → (fieldsAt t.fields wd).any (·.acc == .rw) → s.listsIdle p → tblOk t wd
    v.toNat ∧ trainAligned (s.gb b MAC_TRAIN_SEL_table) wd v.toNat → exec (.trainEntryWrite m v) s = .next
    (s.storeTw t 0 i wd v.toNat).settle) ∧
  (∀ (m : Mst) (v : Word) (s : State) (b : Blk) (p wd : Nat), s.opens m.toNat gangPage.page 0x220 b → p = s.g b
    MAC_PT_SEL_partition → wd = s.g b MAC_PT_SEL_word → ptWriter m.toNat p → (wd ∈ [1, 2, 3, 5] → s.listsIdle p) →
    (wd = 0 → bit v.toNat 24 → s.otherT p = false) → tblOk .macPart wd v.toNat → (wd = 1 ∨ wd = 3 → bits v.toNat 0
    48 % 4096 = 0) → exec (.partitionEntryWrite m v) s = .next (s.storeTw .macPart 0 p wd v.toNat).settle)

/-- O35. A Chrysalis command of its own slot's function that its rule accepts has its effect, at once or behind an
engine. Rests on R362, R365, R367, R368, R369, R374, R375, R380, R381, R382, R384. -/
def Obligations.ChrysalisCommandRows : Prop :=
  (∀ (m : Mst) (c : ChrSlot) (v : Word) (s : State) (b : Blk) (i : Instr) (k : Nat) (r : Code × State), (i, k, r) ∈
    [(Instr.putCert m c v, 14, s.chrPutCert v.toNat), (Instr.assign m c v, 2, s.chrAssign v.toNat), (Instr.unassign
    m c v, 3, s.chrUnassign v.toNat), (Instr.partitionReset m c v, 4, s.chrReset c.toNat v.toNat), (Instr.release m
    c v, 5, s.chrRelease v.toNat), (Instr.setRegion m c v, 6, s.chrSetRegion v.toNat), (Instr.setAcl m c v, 7,
    s.chrSetAcl v.toNat)] → chrOp v.toNat = k → c.toNat < 17 → s.opens m.toNat Blk.chr.page (0x200 + 0x20 * c.toNat)
    b → mst m.toNat = 0x10 + c.toNat → bit (s.reg b (0x218 + 0x20 * c.toNat)) 8 = false → c.toNat = 0 ∨ k = 4 →
    s.chrAsleep c.toNat k = false → r.1 = .ok → exec i s = .next (r.2.finish b (0x218 + 0x20 * c.toNat) .ok).settle) ∧
  (∀ (m : Mst) (c : ChrSlot) (v : Word) (s : State) (b : Blk) (i : Instr) (k e : Nat) (r : Code × State), (i, k, e, r)
    ∈ [(Instr.claimOwner m c v, 11, 0, s.chrClaim), (Instr.create m c v, 1, 0, s.chrCreate v.toNat),
    (Instr.keyImport m c v, 8, 0, s.chrKeyImport c.toNat), (Instr.unwrap m c v, 9, 1, s.chrUnwrap m.toNat c.toNat),
    (Instr.attest m c v, 10, 0, s.chrAttest m.toNat c.toNat v.toNat), (Instr.lifecycle m c v, 12, 0,
    s.chrLifecycle), (Instr.chrChallenge m c v, 13, 0, s.chrChallenge m.toNat c.toNat)] → chrOp v.toNat = k →
    c.toNat < 17 → s.opens m.toNat Blk.chr.page (0x200 + 0x20 * c.toNat) b → mst m.toNat = 0x10 + c.toNat → bit
    (s.reg b (0x218 + 0x20 * c.toNat)) 8 = false → c.toNat = 0 ∧ k ≠ 8 ∧ k ≠ 9 ∨ c.toNat ≠ 0 ∧ (k = 8 ∨ k = 9 ∨ k =
    10) → s.chrAsleep c.toNat k = false → r.1 = .ok → exec i s = .next ((r.2.setBusy b (0x218 + 0x20 *
    c.toNat)).addJob ⟨.chr, b.page, 0x218 + 0x20 * c.toNat, .ok, e, c.toNat, m.toNat⟩).settle) ∧
  (∀ (e : BitVec 2) (s u : State) (c : Nat) (j : Job), nextSlot (s.sec.turns.getD e.toNat 16) ((s.jobs.filter fun x =>
    x.kind == .chr && x.a == e.toNat).map (·.b)) = some c → (s.jobs.filter fun x => x.kind == .chr && x.a ==
    e.toNat).find? (·.b == c) = some j → u = (s.dropJob .chr j.page j.off).finish .chr j.off j.code → exec
    (.chrCmdDone e) s = .next (u.tookTurn e.toNat c)) ∧
  (∀ (r : BitVec 10) (s : State) (sp : Nat), s.tb .chrRegion 0 r.toNat chrRegion_erasing → s.sec.unzeroed.contains
    r.toNat = false → sp = s.t .chrRegion 0 r.toNat chrRegion_space → exec (.regionZeroed r true) s = .next
    ((((s.setSpace sp (memZero (s.space sp) (s.t .chrRegion 0 r.toNat chrRegion_base) (s.t .chrRegion 0 r.toNat
    chrRegion_length))).setTw .chrRegion 0 r.toNat 2 (2 ^ 5)).setRegionAcl r.toNat []).freePart (s.t .chrRegion 0
    r.toNat chrRegion_partition)).settle) ∧
  (∀ (r : BitVec 10) (s : State), s.tb .chrRegion 0 r.toNat chrRegion_erasing → s.sec.unzeroed.contains r.toNat =
    false → exec (.regionZeroed r false) s = .next (State.raise
    { s with sec := { s.sec with unzeroed := r.toNat :: s.sec.unzeroed } } .chr cERASE_FAIL).settle) ∧
  (∀ (s : State), exec .entropyFail s = .next ((s.entropyLost).raise .chr cENTROPY_FAIL).settle)

/-- O36. The test port selects and resets, and the Proboscis answers each message as its level allows. Rests on R383,
R384, R385, R386, R387, R388. -/
def Obligations.ProboscisRows : Prop :=
  (∀ (ir : Byte) (s : State), s.pins.pwrgd → exec (.tapInstruction ir) s = .next (s.setTap (s.tapOf ir.toNat))) ∧
  (∀ (s : State), exec .tapReset s = .next (s.endSession.setTap .bypass).settle) ∧
  (∀ (s : State), s.probing → exec .hello s = .next (s.reply 1 .ok [s.serial, 0xB0, s.life, s.dbgLevel, s.g .chr
    CHR_DEBUG_consent])) ∧
  (∀ (s : State), s.probing → s.sec.entropyBad = false → exec .dbgChallenge s = .next (s.newChallenge.2.reply 2 .ok
    ((upTo 16).map fun i => ofLeBytes (slice (4 * i) 4 s.newChallenge.1)))) ∧
  (∀ (tok : List Byte) (s : State), s.probing → exec (.token tok) s = .next ((s.takeToken tok).2.reply 3 (s.takeToken
    tok).1 []).settle) ∧
  (∀ (sp : BitVec 2) (a : BitVec 52) (n : BitVec 9) (s : State), s.probing → dbgBad sp.toNat a.toNat n.toNat false =
    false → s.reaches sp.toNat a.toNat n.toNat false → s.dbgTarget sp.toNat a.toNat n.toNat = .ok → exec (.dbgRead
    sp a n) s = .next (s.reply 4 .ok (if sp.toNat = 0 then (upTo n.toNat).map (fun i => s.dbgReg (a.toNat + 4 * i))
    else (upTo n.toNat).map (fun i => ofLeBytes (s.readSpace (sp.toNat - 1) (a.toNat + 4 * i) 4)))).settle) ∧
  (∀ (sp : BitVec 2) (a : BitVec 52) (d : List (BitVec 32)) (s : State) (r : Code × State), s.probing → dbgBad
    sp.toNat a.toNat d.length true = false → s.reaches sp.toNat a.toNat d.length true → s.dbgTarget sp.toNat a.toNat
    d.length = .ok → r = (if sp.toNat = 0 then State.dbgRegs (d.map (·.toNat)) a.toNat s else (.ok, s.writeSpace
    (sp.toNat - 1) a.toNat ((d.map (·.toNat)).flatMap (leBytes 4)))) → exec (.dbgWrite sp a d) s = .next (r.2.reply
    5 r.1 []).settle) ∧
  (∀ (p : Byte) (s : State), s.probing → p.toNat < 16 ∨ p.toNat = 0xFF → s.mayHalt p.toNat → exec (.dbgHalt p) s =
    .next ((if p.toNat = 0xFF then ((upTo 16).foldl State.haltPart s).p .dbg DBG_STATUS_all_halted 1 else s.haltPart
    p.toNat).reply 6 .ok []).settle) ∧
  (∀ (p : Byte) (s : State), s.probing → p.toNat < 16 ∨ p.toNat = 0xFF → s.mayHalt p.toNat → exec (.dbgResume p) s =
    .next ((if p.toNat = 0xFF then ((upTo 16).foldl State.debugResume s).p .dbg DBG_STATUS_all_halted 0 else
    s.debugResume p.toNat).reply 7 .ok []).settle) ∧
  (∀ (s : State), s.probing → exec .dbgEnd s = .next (s.endSession.reply 8 .ok []).settle)

/-- O37. The reset pins start and stop boot, and each instar does its work where boot stands before it. Rests on R394,
R395, R396, R403, R417, R469. -/
def Obligations.BootRows : Prop :=
  (∀ (s : State), s.pins.pwrgd = false → exec .pwrgdRise s = .next (if s.pins.resetN then (s.setPwrgd true).startBoot
    else s.setPwrgd true)) ∧
  (∀ (s : State), exec .pwrgdFall s = .next (((s.deviceReset false).setPwrgd false).pinsHigh).noBoot) ∧
  (∀ (s : State), s.pins.resetN = false → exec (.resetN true) s = .next (if s.pins.pwrgd then (s.setResetN
    true).startBoot else s.setResetN true)) ∧
  (∀ (s : State), exec (.resetN false) s = .next (((s.deviceReset true).setResetN false).noBoot)) ∧
  (∀ (bad : List (BitVec 8)) (s : State), s.bootAt 0 → ((s.pickSlots (bad.map (·.toNat))).bootAlias).boot.recovery =
    false → exec (.instar0 bad) s = .next ((((s.pickSlots (bad.map (·.toNat))).bootAlias).p .pwr PWR_BOOT_instar
    1).setDone 1).settle) ∧
  (∀ (s : State), s.bootAt 1 → exec .instar1 s = .next s.instar1.settle) ∧
  (∀ (bad : List (BitVec 8)) (hf : List (BitVec 4)) (s : State), s.bootAt 2 → exec (.instar2 bad hf) s = .next
    (s.instar2 (bad.map (·.toNat)) (hf.map (·.toNat))).settle) ∧
  (∀ (s : State), s.bootAt 3 → exec .instar3 s = .next s.instar3.settle) ∧
  (∀ (ms : BitVec 16) (s : State), s.boot.done = 4 → s.bootReady → exec (.eclosion ms) s = .next ((((((s.p .pwr
    PWR_BOOT_instar 4).p .pwr PWR_BOOT_eclosion_ms ms.toNat).sysFlag 0 true).powerNotice 4).setDone
    5).noBoot).settle) ∧
  (∀ (s : State), s.bootAt 1 → exec .thoraxBootTimeout s = .next (if s.boot.thxRetries = 0 then s.thxRetry else
    s.enterRecovery 4 0).settle)

/-- O38. Power commands, the governor, the thermal trip, HBM repair and the PMBus polls act as the power rules say.
Rests on R399, R400, R401, R402, R403, R405, R406, R458, R459. -/
def Obligations.PowerRows : Prop :=
  (∀ (m : Mst) (v : Word) (s : State) (b : Blk) (i : Instr) (k : Nat) (r : Code × State), (i, k) ∈ [(Instr.pupa m v,
    1), (Instr.diapause m v, 2), (Instr.wake m v, 3), (Instr.saveProfile m v, 4)] → bits v.toNat 0 3 = k → s.opens
    m.toNat Blk.pwr.page PWR_CMD_op.off b → s.gb b PWR_STATE_busy = false → r = s.pwrRun m.toNat k → r.1 = .ok →
    exec i s = .next r.2.settle) ∧
  (∀ (s : State), s.boot.diapause = 1 → exec .diapauseDrainEnd s = .next ((s.dropAllFrames.portsOff.gate gatedDiapause
    true).setDiapause 2).settle) ∧
  (∀ (s : State) (j : Job), s.job .powerMove Blk.pwr.page 0 = some j → (j.a = 2 → s.boot.diapause = 2) → exec
    .powerTransitionDone s = .next (s.endMove j.a).settle) ∧
  (∀ (s : State) (j : Job), s.job .saveProfile Blk.pwr.page 0 = some j → exec (.saveProfileDone true) s = .next
    ((((s.dropJob .saveProfile Blk.pwr.page 0).p .pwr PWR_STATE_busy 0).commitProfile).finish .pwr
    PWR_CMD_STATUS_code.off .ok).settle) ∧
  (∀ (s : State) (j : Job), s.job .saveProfile Blk.pwr.page 0 = some j → exec (.saveProfileDone false) s = .next
    ((((s.dropJob .saveProfile Blk.pwr.page 0).p .pwr PWR_STATE_busy 0).finish .pwr PWR_CMD_STATUS_code.off
    .integrity).raise .pwr cCFG_WRITE_FAIL).settle) ∧
  (∀ (r : GovReading) (s : State), exec (.governorLoop r) s = .next (((s.showLoop r (s.loopWatts r)).avsCheck
    r).govern (s.loopWatts r) r.hottest.toNat).settle) ∧
  (∀ (d t : Byte) (s : State), s.g .pwr PWR_THERM_trip_c ≤ t.toNat → exec (.thermalTrip d t) s = .next (((s.p .pwr
    PWR_THERM_hottest_c t.toNat).p .pwr PWR_THERM_hottest_die d.toNat).trip.raise .pwr cTHERMAL_TRIP).settle) ∧
  (∀ (m : Mst) (pg : Pg) (v : Word) (s : State) (b : Blk) (h a : Nat), s.blk pg.toNat = some (.hbm h) → b = .hbm h →
    s.opens m.toNat pg.toNat HBM_CMD_op.off b → bit (s.reg b HBM_CMD_STATUS_code.off) 8 = false → bits v.toNat 0 2 =
    1 → a = s.g b HBM_CMD_ADDR_addr → a < 36 * 10 ^ 9 → s.g b HBM_REPAIRS_rows < 256 → exec (.repair m pg v) s =
    .next ((s.setBusy b HBM_CMD_STATUS_code.off).addJob ⟨.hbmRepair, b.page, HBM_CMD_STATUS_code.off, .ok, h, a,
    m.toNat⟩).settle) ∧
  (∀ (pg : Pg) (s : State) (b : Blk) (h : Nat) (j : Job), s.blk pg.toNat = some (.hbm h) → b = .hbm h → s.job
    .hbmRepair b.page HBM_CMD_STATUS_code.off = some j → exec (.hbmRepairDone pg true) s = .next ((((((s.dropJob
    .hbmRepair b.page HBM_CMD_STATUS_code.off).addRepair j.a j.b).eraseAgain j.a j.b).inc b HBM_REPAIRS_rows).finish
    b HBM_CMD_STATUS_code.off .ok)).settle) ∧
  (∀ (pg : Pg) (s : State) (b : Blk) (h : Nat) (j : Job), s.blk pg.toNat = some (.hbm h) → b = .hbm h → s.job
    .hbmRepair b.page HBM_CMD_STATUS_code.off = some j → exec (.hbmRepairDone pg false) s = .next ((((s.dropJob
    .hbmRepair b.page HBM_CMD_STATUS_code.off).refuse j.asker b HBM_CMD_op.off .noResource).finish b
    HBM_CMD_STATUS_code.off .noResource).raise b cHBM_REPAIR_EXHAUSTED).settle) ∧
  (∀ (reads : List (Option (BitVec 32))) (s : State), exec (.pmbusPoll reads) s = .next ((upTo 16).foldl (fun u i =>
    u.pmbusRead i (reads.getD i none)) s).settle) ∧
  (∀ (bad : BitVec 16) (s : State), exec (.pmbAlert bad) s = .next (if s.pmbFault bad.toNat then s.pmbStatus.raise
    .thx cPMBUS_FAIL else s.pmbStatus).settle)

/-- O39. A firmware command in a state that its table lists acts on its slots, and its events end what it began. Rests
on R391, R392, R393, R397, R398. -/
def Obligations.FirmwareRows : Prop :=
  (∀ (m : Mst) (pg : Pg) (v : Word) (s : State) (b : Blk) (i : Instr) (k : Nat) (r : Code × State), (i, k) ∈
    [(Instr.restart m pg v, 6), (Instr.activate m pg v, 2), (Instr.commit m pg v, 3), (Instr.rollback m pg v, 4),
    (Instr.discard m pg v, 5)] → bits v.toNat 0 3 = k → s.blk pg.toNat = some b → b.isSteward ∨ b = .thx → s.opens
    m.toNat pg.toNat (fw b FW_CMD_op).off b → bit (s.reg b (fw b FW_CMD_STATUS_code).off) 8 = false → r = s.fwRun
    m.toNat b v.toNat → r.1 = .ok → exec i s = .next (r.2.finish b (fw b FW_CMD_STATUS_code).off .ok).settle) ∧
  (∀ (m : Mst) (pg : Pg) (v : Word) (s : State) (b : Blk) (r : Code × State), bits v.toNat 0 3 = 1 → s.blk pg.toNat =
    some b → b.isSteward ∨ b = .thx → s.opens m.toNat pg.toNat (fw b FW_CMD_op).off b → bit (s.reg b (fw b
    FW_CMD_STATUS_code).off) 8 = false → s.fwMay m.toNat b → r = s.fwRun m.toNat b v.toNat → r.1 = .ok → exec
    (.fwWrite m pg v) s = .next (r.2.setBusy b (fw b FW_CMD_STATUS_code).off).settle) ∧
  (∀ (pg : Pg) (s : State) (b : Blk) (j : Job), s.fwPage pg.toNat = some b → s.job .fwWrite b.page 0 = some j → j.code
    = .ok → exec (.fwWriteDone pg) s = .next (((s.dropJob .fwWrite b.page 0).endWrite b j).finish b (fw b
    FW_CMD_STATUS_code).off .ok).settle) ∧
  (∀ (pg : Pg) (s u : State) (b : Blk), s.fwPage pg.toNat = some b → u = s.p b (fw b FW_SLOTS_ready) 1 → exec
    (.fwReady pg) s = .next (if b = .thx then u.thxServes else (u.trained b).followAll b).settle) ∧
  (∀ (pg : Pg) (s : State) (b : Blk), s.fwPage pg.toNat = some b → s.g b (fw b FW_SLOTS_state) = 2 → exec
    (.fwTrialTimeout pg) s = .next ((((s.p b (fw b FW_SLOTS_state) 1).fwRestart b (s.g b (fw b
    FW_SLOTS_committed))).inc b (fw b FW_FALLBACKS_count)).raise b (if b = .thx then cFW_FALLBACK_thx else
    cFW_FALLBACK_stw)).settle)

/-- O40. While the meter's supply is up it samples, counts, closes periods and keeps its log. Rests on R423, R424, R425,
R426, R427, R428, R430, R431, R436, R440. -/
def Obligations.MeterRows : Prop :=
  (∀ (pj : List (BitVec 32)) (o : BitVec 6) (s : State), s.ccnUp → exec (.meterSample pj o) s = .next (if
    s.ccn.senseFails (s.ccn.sampled pj o.toNat) then (s.setCcn (s.ccn.sampled pj o.toNat)).raise .ccn
    cMTR_SENSE_FAIL else s.setCcn (s.ccn.sampled pj o.toNat)).settle) ∧
  (∀ (d : BitVec 3) (tag : BitVec 5) (n : BitVec 32) (s : State), s.ccnUp → exec (.activityReport d tag n) s = .next
    (s.setCcn (s.ccn.reported d.toNat tag.toNat n.toNat))) ∧
  (∀ (p : PartNo) (k : Bool) (n : BitVec 32) (s : State), s.ccnUp → exec (.tenancyEvent p k n) s = .next (s.setCcn
    (s.ccn.tenancy p.toNat k n.toNat))) ∧
  (∀ (k : Bool) (s : State), s.ccnUp → exec (.periodEnd k) s = .next ((s.setCcn (s.ccn.closed
    k)).activateMtr).showCcn.settle) ∧
  (∀ (s : State), s.ccnUp → s.ccn.crystal → exec .clockFallback s = .next ((s.setCcn (s.ccn.setCrystal false)).raise
    .ccn cMTR_CLOCK_FALLBACK).settle) ∧
  (∀ (s : State), s.ccnUp → s.ccn.crystal = false → exec .clockRestored s = .next (s.setCcn (s.ccn.setCrystal true))) ∧
  (∀ (s : State), s.ccnUp → exec .vmtrLoss s = .next (s.setCcn s.ccn.powerLost)) ∧
  (∀ (bad : Bool) (s u : State), s.ccnUp = false → u = (s.setCcn s.ccn.resumed).raise .ccn cMTR_VMTR_GAP → exec
    (.vmtrReturn bad) s = .next (if bad then (u.setCcn u.ccn.olderTotals).raise .ccn cMTR_MRAM_UNCORR else
    u).settle) ∧
  (∀ (s : State), s.ccnUp → s.ccn.trial → exec .mtrUpdateFallback s = .next (((s.setCcn (s.ccn.endTrial.changeImage (1
    - s.ccn.slot))).raise .ccn cMTR_IMAGE_CHANGE).showCcn).settle)

/-- O41. While the meter's supply is up its port answers each request and takes updates, and the page gets signed
readings. Rests on R432, R434, R435, R436, R437, R438. -/
def Obligations.MeterPortRows : Prop :=
  (∀ (s : State), s.ccnUp → exec .ident s = .next (s.metro .ok s.identBytes)) ∧
  (∀ (i : BitVec 10) (s : State) (r : List Byte), s.ccnUp → s.ccn.ring[i.toNat]? = some r → exec (.readRecord i) s =
    .next (s.metro .ok r)) ∧
  (∀ (i : BitVec 16) (s : State) (e : List Byte), s.ccnUp → s.ccn.log[i.toNat]? = some e → exec (.readLog i) s = .next
    (s.metro .ok e)) ∧
  (∀ (o : BitVec 16) (s : State), s.ccnUp → exec (.readCert o) s = .next (s.metro .ok (mtrCert o.toNat 256))) ∧
  (∀ (n : List Byte) (s : State), s.ccnUp → s.ccn.nonces.length < 5 → exec (.readSigned n) s = .next (s.setCcn
    (s.ccn.queueNonce n))) ∧
  (∀ (m : Mst) (v : Word) (s : State) (b : Blk), s.opens m.toNat Blk.ccn.page CCN_REQ_sign.off b → bits v.toNat 0 1 =
    1 → bit (s.reg b CCN_REQ_STATUS_code.off) 8 = false → exec (.ccnReq m v) s = .next ((s.setBusy b
    CCN_REQ_STATUS_code.off).setCcn s.ccn.askPage).settle) ∧
  (∀ (s : State) (n : List Byte) (l : List (List Byte)), s.ccnUp → s.ccn.nonces = n :: l → exec .signedReadingDone s =
    .next ((s.setCcn (s.ccn.answered l)).metro .ok (s.signedReading n))) ∧
  (∀ (s : State), s.ccnUp → s.ccn.nonces = [] → s.ccn.reqPage → exec .signedReadingDone s = .next ((s.setCcn
    (s.ccn.signedPage (s.signedReading s.pageNonce))).finish .ccn CCN_REQ_STATUS_code.off .ok)) ∧
  (∀ (s : State), s.ccnUp → s.pins.mtrUnseal = false → exec .updBegin s = .next ((s.setCcn s.ccn.openUpdate).metro .ok
    []).settle) ∧
  (∀ (o : BitVec 32) (d : List Byte) (s : State), s.ccnUp → s.ccn.updOpen → d.length ≤ 256 → o.toNat + d.length ≤ 512
    * 1024 → exec (.updData o d) s = .next ((s.setCcn (s.ccn.takeBytes o.toNat d)).metro .ok [])) ∧
  (∀ (s : State), s.ccnUp → s.ccn.updOpen → s.pins.mtrUnseal = false → exec .updEnd s = .next (if s.judgeMtr
    s.ccn.updImage = .ok then (s.setCcn (s.ccn.stage s.ccn.updImage)).metro .ok [] else (s.metro (s.judgeMtr
    s.ccn.updImage) []).refuseUpdate).settle) ∧
  (∀ (s : State), exec .mtrUnseal s = .next (if s.ccnUp ∧ (s.ccn.updOpen ∨ s.ccn.staged.isSome) then
    s.unseal.refuseUpdate else s.unseal).settle)

/-- O42. A sound BAR access reaches its register, its ring or its vector, and an unsound one is dropped. Rests on R39,
R442, R443, R447, R448, R454, R479. -/
def Obligations.RegisterAccessRows : Prop :=
  (∀ (m : Mst) (a : BitVec 26) (v : Word) (s : State), a.toNat % 8 = 0 → exec (.registerWrite m 0 a 8 v) s = .next
    (s.regWrite m.toNat (a.toNat / 4096) (a.toNat % 4096) v.toNat).settle) ∧
  (∀ (m : Mst) (a : BitVec 26) (v : Word) (s : State), a.toNat % 8 = 0 → exec (.registerWrite m 2 a 8 v) s = .next
    (s.ringPageWrite m.toNat (a.toNat / 4096) (a.toNat % 4096) v.toNat).settle) ∧
  (∀ (m : Mst) (a : BitVec 26) (n : BitVec 4) (v : Word) (s : State) (f : Nat), n = 4 ∨ n = 8 → a.toNat % n.toNat = 0
    → hostFn m.toNat = some f → exec (.registerWrite m 4 a n v) s = .next (s.msixWrite f a.toNat n.toNat
    v.toNat).settle) ∧
  (∀ (m : Mst) (k : BitVec 3) (a : BitVec 26) (n : BitVec 4) (v : Word) (s : State), barFits k.toNat a.toNat n.toNat
    true = false → exec (.registerWrite m k a n v) s = .next s.badAccess.settle) ∧
  (∀ (m : Mst) (k : BitVec 3) (a : BitVec 26) (n : BitVec 4) (s : State) (r : Nat × State), barFits k.toNat a.toNat
    n.toNat false → r = s.barRead m.toNat k.toNat a.toNat → exec (.registerRead m k a n) s = .next (r.2.emit (.bar
    (masterFn m.toNat)) 0 [bits r.1 (8 * (a.toNat % 8)) (8 * n.toNat)] []).settle) ∧
  (∀ (m : Mst) (k : BitVec 3) (a : BitVec 26) (n : BitVec 4) (s : State), barFits k.toNat a.toNat n.toNat false =
    false → exec (.registerRead m k a n) s = .next (s.badAccess.emit (.bar (masterFn m.toNat)) 0 [0] []).settle) ∧
  (∀ (m : Mst) (r : RingNo) (v : Word) (s : State) (k : Nat), s.hostRing m.toNat r.toNat = some k → s.tb .ring 0 k
    ring_enable = false → tblOk .ring 0 v.toNat → bits v.toNat 10 8 < fnVectors (s.ringOwner k) → exec (.ringEnable
    m r v) s = .next (if bit v.toNat 0 then (s.storeTw .ring 0 k 0 v.toNat).startRing k else s.storeTw .ring 0 k 0
    v.toNat).settle) ∧
  (∀ (m : Mst) (r : RingNo) (v : Word) (s u : State) (k : Nat), s.hostRing m.toNat r.toNat = some k → u = s.prg k
    ring_tail (v.toNat % 2 ^ 32) → (u.tb .ring 0 k ring_enable → (v.toNat % 2 ^ 32 + 2 ^ 32 - u.rg k ring_head) % 2
    ^ 32 ≤ 2 ^ u.rg k ring_cmd_log2) → exec (.ringTail m r v) s = .next u.settle) ∧
  (∀ (m : Mst) (r : RingNo) (v : Word) (s : State) (k : Nat), s.hostRing m.toNat r.toNat = some k → exec
    (.ringConsumed m r v) s = .next (s.prg k ring_consumed (v.toNat % 2 ^ 32)).settle) ∧
  (∀ (f : BitVec 5) (n : Byte) (s u : State), f.toNat ≤ 16 → n.toNat < fnVectors f.toNat → u = s.pt .msix 0 (f.toNat *
    256 + n.toNat) msix_mask 0 → exec (.msixVectorUnmask f n) s = .next (if u.tb .msix 0 (f.toNat * 256 + n.toNat)
    msix_pba then (u.pt .msix 0 (f.toNat * 256 + n.toNat) msix_pba 0).msi f.toNat n.toNat else u))

/-- O43. The Thorax takes the command of the ring whose turn it is, carries it out and writes its record. Rests on R370,
R448, R449, R450, R451, R452, R454. -/
def Obligations.RingCommandRows : Prop :=
  (∀ (r : RingNo) (s u : State) (i : Instr) (k : Nat) (w : List Nat) (x : Code × Nat × Option (Nat × Nat) × State),
    (i, k, x) ∈ [(Instr.nop r, 0, State.ringNop (u.ringMst r.toNat) w u), (Instr.regRead r, 1, State.ringRegRead
    (u.ringMst r.toNat) w u), (Instr.regWrite r, 2, State.ringRegWrite (u.ringMst r.toNat) w u), (Instr.tblRead r,
    3, State.ringTblRead (u.ringMst r.toNat) w u), (Instr.tblWrite r, 4, State.ringTblWrite (u.ringMst r.toNat) w
    u), (Instr.ringSignal r, 5, State.ringSig (u.ringMst r.toNat) w u), (Instr.ringFlag r, 6, State.ringFlg
    (u.ringMst r.toNat) w u), (Instr.ringWatch r, 7, State.ringWat (u.ringMst r.toNat) w u), (Instr.strict r, 8,
    State.ringStrict (u.ringMst r.toNat) w u)] → s.nextRing = some r.toNat → w = s.ringCmd r.toNat → bits (w.getD 0
    0) 0 8 = k → u = s.ringTake r.toNat → u.boot.thxRestart = false → ringBad w = false → x.2.2.1 = none → exec i s
    = .next (x.2.2.2.ringRecord r.toNat k (bits (w.getD 0 0) 32 32) x.1 x.2.1).settle) ∧
  (∀ (r : RingNo) (s u : State) (w : List Nat) (x : Code × Nat × Option (Nat × Nat) × State) (e : Nat × Nat),
    s.nextRing = some r.toNat → w = s.ringCmd r.toNat → bits (w.getD 0 0) 0 8 = 2 → u = s.ringTake r.toNat →
    u.boot.thxRestart = false → ringBad w = false → x = State.ringRegWrite (u.ringMst r.toNat) w u → x.2.2.1 = some
    e → exec (.regWrite r) s = .next (x.2.2.2.ringHold r.toNat e.1 e.2 (bits (w.getD 0 0) 32 32)).settle) ∧
  (∀ (r : RingNo) (s : State) (pg st tag v : Nat), (s.hst.waits.find? fun e => e.1 == r.toNat) = some (r.toNat, pg,
    st, tag) → v = (s.regRead (s.ringMst r.toNat) pg st).2.1 → bit v 8 = false → exec (.ringWaitDone r) s = .next
    ((s.ringFree r.toNat).ringRecord r.toNat 2 tag (Code.ofVal (bits v 0 8)) v).settle) ∧
  (∀ (r : RingNo) (s : State), s.hst.coal.contains r.toNat → exec (.ringCoalTimer r) s = .next (s.ringMsi r.toNat))

/-- O44. A PERST_N edge, a link down and a function-level reset reset what they name. Rests on R36, R445. -/
def Obligations.EndpointResetRows : Prop :=
  (∀ (l : Bool) (s : State), l ≠ s.pins.perstN → exec (.pciePerstN l) s = .next (s.setPerst l).perstActs.settle) ∧
  (∀ (s : State), exec .pcieLinkDown s = .next ((s.endpointReset.pciDown.inc .pci PCI_LINK_DOWNS_count).raise .pci
    cPCIE_LINK_DOWN).settle) ∧
  (∀ (f : BitVec 5) (s : State), f.toNat ≤ 16 → exec (.flr f) s = .next (if f.toNat = 0 then s.endpointReset else
    s.stopFns [f.toNat]))

/-- O45. A sound request of the management port in its mode is carried out and answered. Rests on R395, R455, R456,
R457. -/
def Obligations.ManagementRows : Prop :=
  (∀ (a : List Byte) (s u : State) (i : Instr) (k : Nat × Option Nat) (r : Code × List Byte × State) (d : List Byte),
    (i, k, r) ∈ [(Instr.inventory a, (0x01, some 0), State.mgInventory d u), (Instr.health a, (0x02, some 0),
    State.mgHealth d u), (Instr.readReg a, (0x03, some 4), State.mgReadReg d u), (Instr.ackFaults a, (0x04, some 1),
    State.mgAckFaults d u), (Instr.power a, (0x05, some 1), State.mgPower d u), (Instr.setCap a, (0x06, some 2),
    State.mgSetCap d u), (Instr.ibiCfg a, (0x07, some 2), State.mgIbiCfg d u), (Instr.recStatus a, (0x40, some 0),
    State.mgRecStatus d u), (Instr.recBegin a, (0x41, some 1), State.mgRecBegin d u), (Instr.recData a, (0x42,
    none), State.recWrite d u), (Instr.recEnd a, (0x43, some 0), State.recFinish d u), (Instr.recBoot a, (0x44, some
    0), State.mgRecBoot d u)] → u = s.inc .thx THX_I3C_CMDS_count → d = slice 2 (ofLeBytes (a.take 2)) a →
    s.pins.pwrgd → reqSound k.1 a → s.reqMode k.1 → k.2 ∈ [none, some (ofLeBytes (a.take 2))] → exec i s = .next
    (r.2.2.i3c k.1 r.1 r.2.1).settle) ∧
  (∀ (k : Bool) (s : State) (b : Nat) (l : List Nat), s.hst.ibiHeld = b :: l → exec (.ibiRetry k) s = .next (if k ∨
    s.ibiHolds b = false then s.dropIbi else s.emit .ibi b [b] [])) ∧
  (∀ (a : BitVec 7) (s : State), s.pins.pwrgd → exec (.dynamicAddressAssignment a) s = .next (s.p .thx
    THX_I3C_dyn_addr a.toNat))

/-- O46. A denied register read returns zero and a denied write is ignored; both are counted, and the write is recorded
with DENIED. Formalises R39. -/
def Obligations.DeniedAccess : Prop :=
  (∀ (m pg off : Nat) (s : State) (b : Blk), s.blk pg = some b → s.mayRead m b off = false → s.regRead m pg off =
    (.denied, 0, s.inc b DENIED_ACCESSES_count)) ∧
  (∀ (m pg off v : Nat) (s : State) (b : Blk), s.Wf → s.blk pg = some b → s.mayWrite m b off = false → ∃ t : State,
    s.regWrite m pg off v = t ∧ t.g b DENIED_ACCESSES_count = min (s.g b DENIED_ACCESSES_count + 1) (2 ^ 64 - 1) ∧
    t.g b REFUSED_CMDS_count = min (s.g b REFUSED_CMDS_count + 1) (2 ^ 64 - 1) ∧ t.g b LAST_REFUSAL_code =
    Code.denied.val ∧ t.tabs = s.tabs ∧ t.hbm = s.hbm ∧ t.arr = s.arr ∧ t.vec = s.vec ∧ t.host = s.host ∧ ∀ (c :
    Blk) (o : Nat), (c.page ≠ b.page ∨ o ∉ [0x28, 0x80, 0x88, 0xA0, 0xA8, 0x740, 0x758, 0x1000]) → o < 0x2000 →
    t.reg c o = s.reg c o)

/-- O47. A write of the address 0xF_FFFF to a group's address register is refused with BAD_ARG and the register keeps
its value. Formalises R65. -/
def Obligations.ReservedAddress : Prop :=
  (∀ (m pg k v : Nat) (s : State) (t : Nat), s.opens m pg (0x200 + 0x40 * k) (.att t) → k < 8 → bits v 0 20 = 0xFFFFF
    → s.regWrite m pg (0x200 + 0x40 * k) v = s.refuse m (.att t) (0x200 + 0x40 * k) (if s.st (.grp (8 * t + k)) =
    .off then .badArg else .refusedState)) ∧
  (∀ (m k : Nat) (s : State) (t : Nat) (c : Code), s.Wf → k < 8 → (s.refuse m (.att t) (0x200 + 0x40 * k) c).reg (.att
    t) (0x200 + 0x40 * k) = s.reg (.att t) (0x200 + 0x40 * k))

/-- O48. The pool layout is written only while the page is OFF, a region stays on its die, and no command is taken while
one runs. Formalises R154. -/
def Obligations.PoolLayoutRules : Prop :=
  (∀ (m pg off v : Nat) (s : State) (d : Nat), s.opens m pg off (.pool d) → off = 0x100 ∨ off = 0x108 ∨ off ∈ [0x110,
    0x118, 0x120, 0x128, 0x130, 0x138] → s.st (.pool d) ≠ .off → s.regWrite m pg off v = s.refuse m (.pool d) off
    .refusedState) ∧
  (∀ (m pg off v : Nat) (s u : State) (d : Nat), s.opens m pg off (.pool d) → off = 0x100 ∨ off = 0x108 → s.st (.pool
    d) = .off → u = s.store (.pool d) off v → u.reg (.pool d) 0x100 < d * 72 * 10 ^ 9 ∨ (d + 1) * 72 * 10 ^ 9 <
    u.reg (.pool d) 0x100 + u.reg (.pool d) 0x108 → s.regWrite m pg off v = s.refuse m (.pool d) off .badArg) ∧
  (∀ (m : Mst) (pg : Pg) (v : Word) (s : State) (d : Nat) (i : Instr), i ∈ [Instr.alloc m pg v, Instr.free m pg v] →
    s.opens m.toNat pg.toNat 0x1A0 (.pool d) → s.gb (.pool d) POOL_CMD_STATUS_busy → exec i s = .next (s.refuse
    m.toNat (.pool d) 0x1A0 .refusedState).settle)

/-- O49. A class-table write of a quantum outside 64 to 262,143 bytes is refused with BAD_ARG. Formalises R166. -/
def Obligations.QuantumRange : Prop :=
  ∀ (m : Mst) (pg : Pg) (v : Word) (s : State) (t : Nat), s.opens m.toNat pg.toNat 0x208 (.swt t) → s.g (.swt t)
    SWT_CLS_SEL_table = 1 → s.g (.swt t) SWT_CLS_SEL_word = 0 → bits v.toNat 0 18 < 64 ∨ 262143 < bits v.toNat 0 18
    → exec (.clsEntryWrite m pg v) s = .next (s.refuse m.toNat (.swt t) 0x208 .badArg).settle

/-- O50. Losing the meter's supply loses the ring and the open period; its return resumes the totals, logs the first
lost period and marks the gap. Formalises R431. -/
def Obligations.SupplyLoss : Prop :=
  (∀ (s : State), s.ccnUp → ∃ t : State, exec .vmtrLoss s = .next t ∧ t.ccn.ring = [] ∧ t.ccn.joules = List.replicate
    6 0 ∧ (∀ b ∈ t.ccn.open_, b.energy = 0 ∧ b.array = 0 ∧ b.vector = 0 ∧ b.port = 0 ∧ b.hbm = 0) ∧ t.ccn.totals =
    s.ccn.totals ∧ t.ccn.totalE = s.ccn.totalE ∧ t.ccn.lost = some s.ccn.period ∧ t.ccnUp = false) ∧
  (∀ (s : State) (p : Nat) (k : Bool), s.ccn.vmtr = false → s.ccn.lost = some p → ∃ u : State, exec (.vmtrReturn
    false) s = .next u.settle ∧ u.ccn.vmtr ∧ u.ccn.totals = s.ccn.totals ∧ u.ccn.totalE = s.ccn.totalE ∧ u.ccn.open_
    = s.ccn.open_ ∧ u.ccn.joules = s.ccn.joules ∧ u.ccn.log.getLast? = some (fit 32 (leBytes 1 3 ++ leBytes 7
    s.ccn.period ++ leBytes 8 p)) ∧ bit (u.ccn.flags k) 1)

/-- O51. Arming refuses armed slots and flag targets beyond 4,095 and fires on a stale stamp; CANCEL ends an armed slot
with ABORTED. Formalises R236. -/
def Obligations.WatchArmCancel : Prop :=
  (∀ (m : Mst) (v : Word) (s : State) (b : Blk), s.opens m.toNat Blk.syn.page 0x128 b → s.synRow m.toNat 2 (bits
    v.toNat 0 14) → s.tb .synWatch 0 (bits v.toNat 0 14) synWatch_state → exec (.watchArm m v) s = .next (s.refuse
    m.toNat b 0x128 .refusedState).settle) ∧
  (∀ (m : Mst) (v : Word) (s : State) (b : Blk), s.opens m.toNat Blk.syn.page 0x128 b → s.synRow m.toNat 2 (bits
    v.toNat 0 14) → s.tb .synWatch 0 (bits v.toNat 0 14) synWatch_state = false → s.tb .synWatch 0 (bits v.toNat 0
    14) synWatch_kind → 4095 < s.t .synWatch 0 (bits v.toNat 0 14) synWatch_target_id → exec (.watchArm m v) s =
    .next (s.refuse m.toNat b 0x128 .badArg).settle) ∧
  (∀ (m : Mst) (v : Word) (s u t : State) (b : Blk) (w : Nat) (r : State × List Obj), s.opens m.toNat Blk.syn.page
    0x128 b → w = bits v.toNat 0 14 → s.synRow m.toNat 2 w → s.tb .synWatch 0 w synWatch_state = false → s.tb
    .synWatch 0 w synWatch_kind = false ∨ s.t .synWatch 0 w synWatch_target_id ≤ 4095 → u = ((s.pt .synWatch 0 w
    synWatch_reg_seq (s.t .synWatch 0 w synWatch_reg_seq + 1)).pt .synWatch 0 w synWatch_wait_ticks 0).pt .synWatch
    0 w synWatch_state 1 → t = u.watchCount (s.watchObj w) true → t.t .synWatch 0 w synWatch_epoch ≠ t.objEpoch
    (s.watchObj w) → r = t.sendWatch w .ownerLost (t.objVal (s.watchObj w)) → exec (.watchArm m v) s = .next
    (r.2.foldl State.follows r.1).settle) ∧
  (∀ (m : Mst) (v : Word) (s : State) (b : Blk) (w : Nat) (r : State × List Obj), s.opens m.toNat Blk.syn.page 0x130 b
    → w = bits v.toNat 0 14 → s.synRow m.toNat 2 w → s.tb .synWatch 0 w synWatch_state → r = s.sendWatch w .aborted
    (s.objVal (s.watchObj w)) → exec (.watchCancel m v) s = .next (r.2.foldl State.follows r.1).settle) ∧
  (∀ (m : Mst) (v : Word) (s : State) (b : Blk), s.opens m.toNat Blk.syn.page 0x130 b → s.synRow m.toNat 2 (bits
    v.toNat 0 14) → s.tb .synWatch 0 (bits v.toNat 0 14) synWatch_state = false → exec (.watchCancel m v) s = .next
    (s.refuse m.toNat b 0x130 .refusedState).settle) ∧
  (∀ (s : State) (w : Nat) (c : Code) (x : Nat), s.Wf → w < 16384 → (s.sendWatch w c x).1.tb .synWatch 0 w
    synWatch_state = false)

/-- O52. An event counts, latches its class at its level or raises a latched one once, and leaves the other classes, the
tables and memories alone. Rests on R408, R410, R411. -/
def Obligations.EventLatches : Prop :=
  ∀ (s t : State) (b : Blk) (k : Cls) (f : Option Nat), s.Wf → k.bit < 48 → k.level ≤ 5 → t = s.raiseBy b k f → t.g b
    ERR_EVENTS_count = min (s.g b ERR_EVENTS_count + 1) (2 ^ 64 - 1) ∧ bit (t.latched b) k.bit ∧ (∀ j, j < 48 → j ≠
    k.bit → bit (t.latched b) j = bit (s.latched b) j ∧ t.clsLevel b j = s.clsLevel b j ∧ t.clsEsc b j = s.clsEsc b
    j) ∧ (bit (s.latched b) k.bit = false → t.clsLevel b k.bit = k.level ∧ t.clsEsc b k.bit = false) ∧ (bit
    (s.latched b) k.bit → s.masked b k.bit = false → s.clsEsc b k.bit = false → t.clsLevel b k.bit = min 5
    (s.clsLevel b k.bit + 1) ∧ t.clsEsc b k.bit) ∧ t.tabs = s.tabs ∧ t.hbm = s.hbm ∧ t.arr = s.arr ∧ t.vec = s.vec ∧
    t.host = s.host

/-- O53. An acknowledgement clears the latch, level and repeat mark of the latched classes that it names, and of no
other. Rests on R412. -/
def Obligations.AcknowledgeClears : Prop :=
  ∀ (s t : State) (b : Blk) (mask j : Nat), s.Wf → j < 48 → t = s.ackErr b mask → bit (t.latched b) j = (bit
    (s.latched b) j && !bit mask j) ∧ (if bit mask j && bit (s.latched b) j then t.clsLevel b j = 0 ∧ t.clsEsc b j =
    false else t.clsLevel b j = s.clsLevel b j ∧ t.clsEsc b j = s.clsEsc b j) ∧ (∀ (c : Blk) (o : Nat), c.page ≠
    b.page → o < 0x2000 → t.reg c o = s.reg c o) ∧ t.tabs = s.tabs ∧ t.hbm = s.hbm ∧ t.arr = s.arr ∧ t.vec = s.vec ∧
    t.host = s.host

/-- O54. A store places its bytes and leaves every other byte of every memory alone; a debug write and a zeroed region
touch their own bytes only. Rests on R2, R281, R370, R386. -/
def Obligations.MemoryBytes : Prop :=
  (∀ (s t : State) (sp a c : Nat) (bs : List Byte), s.Wf → sp < 3 → (sp = 0 → s.poolTouched a bs.length = false) → t =
    s.writeSpace sp a bs → memRead (t.space sp) c = (if a ≤ c ∧ c < a + bs.length then bs.getD (c - a) 0 else
    memRead (s.space sp) c) ∧ (∀ q, q < 3 → q ≠ sp → t.space q = s.space q) ∧ t.host = s.host) ∧
  (∀ (sp : BitVec 2) (a : BitVec 52) (ws : List (BitVec 32)) (s : State), s.Wf → sp ≠ 0 → (sp = 1 → s.poolTouched
    a.toNat (4 * ws.length) = false) → ∃ u : State, exec (.dbgWrite sp a ws) s = .next u.settle ∧ u.host = s.host ∧
    ∀ q c, q < 3 → (q + 1 = sp.toNat → c < a.toNat ∨ a.toNat + 4 * ws.length ≤ c) → memRead (u.space q) c = memRead
    (s.space q) c) ∧
  (∀ (r : BitVec 10) (s : State) (sp lo n : Nat), s.Wf → s.tb .chrRegion 0 r.toNat chrRegion_erasing → sp = s.t
    .chrRegion 0 r.toNat chrRegion_space → sp < 3 → lo = s.t .chrRegion 0 r.toNat chrRegion_base → n = s.t
    .chrRegion 0 r.toNat chrRegion_length → ∃ u : State, exec (.regionZeroed r true) s = .next u.settle ∧ u.host =
    s.host ∧ ∀ q c, q < 3 → memRead (u.space q) c = if q = sp ∧ lo ≤ c ∧ c < lo + n then 0 else memRead (s.space q)
    c)

/-- O55. Commands of the register kind change registers alone. Rests on R28, R56, R60, R412, R418, R437, R457. -/
def Obligations.RegsFrameHolds : Prop :=
  (∀ (pg : Pg) (s : State), RegsFrame s (exec (.quiesceDrainDone pg) s)) ∧
  (∀ (pg : Pg) (s : State), RegsFrame s (exec (.freezeCaptureDone pg) s)) ∧
  (∀ (m : Mst) (pg : Pg) (s : State), RegsFrame s (exec (.pageNoAnswer m pg) s)) ∧
  (∀ (m : Mst) (pg : Pg) (v : Word) (s : State), RegsFrame s (exec (.errForce m pg v) s)) ∧
  (∀ (m : Mst) (pg : Pg) (v : Word) (s : State), RegsFrame s (exec (.errAck m pg v) s)) ∧
  (∀ (m : Mst) (pg : Pg) (v : Word) (s : State), RegsFrame s (exec (.fltAckBelow m pg v) s)) ∧
  (∀ (pg : Pg) (child : BitVec 9) (s : State), RegsFrame s (exec (.pinMismatch pg child) s)) ∧
  (∀ (k : DieNo) (s : State), RegsFrame s (exec (.lostMsTick k) s)) ∧
  (∀ (m : Mst) (pg : Pg) (v : Word) (s : State), RegsFrame s (exec (.lnkGrpCfgWrite m pg v) s)) ∧
  (∀ (port : PortNo) (s : State), RegsFrame s (exec (.detectRetry port) s)) ∧
  (∀ (port : PortNo) (s : State), RegsFrame s (exec (.capexResend port) s)) ∧
  (∀ (k : DieNo) (n : LaneNo) (s : State), RegsFrame s (exec (.sparePolicyWindow k n) s)) ∧
  (∀ (t : TileNo) (s : State), RegsFrame s (exec (.memberRejoin t) s)) ∧
  (∀ (port : PortNo) (vc : BitVec 3) (s : State), RegsFrame s (exec (.pfcRefresh port vc) s)) ∧
  (∀ (pg : Pg) (count : BitVec 32) (s : State), RegsFrame s (exec (.stageMonWindow pg count) s)) ∧
  (∀ (m : Mst) (pg : Pg) (v : Word) (s : State), RegsFrame s (exec (.realign m pg v) s)) ∧
  (∀ (pg : Pg) (s : State), RegsFrame s (exec (.xingSlip pg) s)) ∧
  (∀ (s : State), RegsFrame s (exec .hello s)) ∧
  (∀ (s : State), RegsFrame s (exec .ident s)) ∧
  (∀ (index : BitVec 10) (s : State), RegsFrame s (exec (.readRecord index) s)) ∧
  (∀ (index : BitVec 16) (s : State), RegsFrame s (exec (.readLog index) s)) ∧
  (∀ (offset : BitVec 16) (s : State), RegsFrame s (exec (.readCert offset) s)) ∧
  (∀ (args : List Byte) (s : State), RegsFrame s (exec (.inventory args) s)) ∧
  (∀ (args : List Byte) (s : State), RegsFrame s (exec (.health args) s)) ∧
  (∀ (args : List Byte) (s : State), RegsFrame s (exec (.ibiCfg args) s)) ∧
  (∀ (args : List Byte) (s : State), RegsFrame s (exec (.recStatus args) s)) ∧
  (∀ (bad : BitVec 16) (s : State), RegsFrame s (exec (.pmbAlert bad) s)) ∧
  (∀ (addr : BitVec 7) (s : State), RegsFrame s (exec (.dynamicAddressAssignment addr) s))

/-- O56. Commands on table rows, pools and rings change no byte of memory, no frame, link or context. Rests on R112,
R136, R149, R152, R241, R446. -/
def Obligations.RowsFrameHolds : Prop :=
  (∀ (m : Mst) (t : TileNo) (v : Word) (s : State), RowsFrame s (exec (.ctxEntryWrite m t v) s)) ∧
  (∀ (t : TileNo) (path : BitVec 20) (s : State), RowsFrame s (exec (.pathHoldExpiry t path) s)) ∧
  (∀ (m : Mst) (pg : Pg) (v : Word) (s : State), RowsFrame s (exec (.limitEntryWrite m pg v) s)) ∧
  (∀ (m : Mst) (pg : Pg) (v : Word) (s : State), RowsFrame s (exec (.alloc m pg v) s)) ∧
  (∀ (m : Mst) (pg : Pg) (v : Word) (s : State), RowsFrame s (exec (.free m pg v) s)) ∧
  (∀ (d : BaseNo) (src : BitVec 4) (size : BitVec 32) (s : State), RowsFrame s (exec (.poolAllocReq d src size) s)) ∧
  (∀ (d : BaseNo) (src : BitVec 4) (addr : BitVec 52) (s : State), RowsFrame s (exec (.poolFreeReq d src addr) s)) ∧
  (∀ (d : BaseNo) (pool : BitVec 3) (s : State), RowsFrame s (exec (.poolCacheRefill d pool) s)) ∧
  (∀ (d : BaseNo) (pool : BitVec 3) (s : State), RowsFrame s (exec (.poolCacheReturn d pool) s)) ∧
  (∀ (m : Mst) (v : Word) (s : State), RowsFrame s (exec (.dlClear m v) s)) ∧
  (∀ (m : Mst) (v : Word) (s : State), RowsFrame s (exec (.barArm m v) s)) ∧
  (∀ (m : Mst) (v : Word) (s : State), RowsFrame s (exec (.barDisarm m v) s)) ∧
  (∀ (m : Mst) (v : Word) (s : State), RowsFrame s (exec (.synTblWrite m v) s)) ∧
  (∀ (s : State), RowsFrame s (exec .waitScan s)) ∧
  (∀ (m : Mst) (v : Word) (s : State), RowsFrame s (exec (.waitClear m v) s)) ∧
  (∀ (m : Mst) (v : Word) (s : State), RowsFrame s (exec (.trainEntryWrite m v) s)) ∧
  (∀ (m : Mst) (v : Word) (s : State), RowsFrame s (exec (.partitionEntryWrite m v) s)) ∧
  (∀ (m : Mst) (r : RingNo) (v : Word) (s : State), RowsFrame s (exec (.ringEnable m r v) s)) ∧
  (∀ (m : Mst) (r : RingNo) (v : Word) (s : State), RowsFrame s (exec (.ringTail m r v) s)) ∧
  (∀ (m : Mst) (r : RingNo) (v : Word) (s : State), RowsFrame s (exec (.ringConsumed m r v) s)) ∧
  (∀ (r : RingNo) (s : State), RowsFrame s (exec (.ringCoalTimer r) s)) ∧
  (∀ (accepted : Bool) (s : State), RowsFrame s (exec (.ibiRetry accepted) s)) ∧
  (∀ (reads : List (Option (BitVec 32))) (s : State), RowsFrame s (exec (.pmbusPoll reads) s)) ∧
  (∀ (fn : BitVec 5) (vector : Byte) (s : State), RowsFrame s (exec (.msixVectorUnmask fn vector) s))

/-- O57. Commands of the meter change the meter and registers alone. Rests on R424, R425, R431, R436, R439. -/
def Obligations.MeterFrameHolds : Prop :=
  (∀ (pj : List (BitVec 32)) (beyond : BitVec 6) (s : State), MeterFrame s (exec (.meterSample pj beyond) s)) ∧
  (∀ (dom : BitVec 3) (tag : BitVec 5) (count : BitVec 32) (s : State), MeterFrame s (exec (.activityReport dom tag
    count) s)) ∧
  (∀ (p : PartNo) (isCreate : Bool) (createCount : BitVec 32) (s : State), MeterFrame s (exec (.tenancyEvent p
    isCreate createCount) s)) ∧
  (∀ (restsOnly : Bool) (s : State), MeterFrame s (exec (.periodEnd restsOnly) s)) ∧
  (∀ (s : State), MeterFrame s (exec .clockFallback s)) ∧
  (∀ (s : State), MeterFrame s (exec .clockRestored s)) ∧
  (∀ (s : State), MeterFrame s (exec .vmtrLoss s)) ∧
  (∀ (mramBad : Bool) (s : State), MeterFrame s (exec (.vmtrReturn mramBad) s)) ∧
  (∀ (s : State), MeterFrame s (exec .mtrUpdateFallback s)) ∧
  (∀ (nonce : List Byte) (s : State), MeterFrame s (exec (.readSigned nonce) s)) ∧
  (∀ (s : State), MeterFrame s (exec .updBegin s)) ∧
  (∀ (offset : BitVec 32) (data : List Byte) (s : State), MeterFrame s (exec (.updData offset data) s)) ∧
  (∀ (s : State), MeterFrame s (exec .updEnd s)) ∧
  (∀ (m : Mst) (v : Word) (s : State), MeterFrame s (exec (.ccnReq m v) s)) ∧
  (∀ (s : State), MeterFrame s (exec .signedReadingDone s))

/-- O58. Commands of the links and the switch change no byte of memory, no reduction, no Gang list and no meter. Rests
on R57, R75, R111, R144, R167, R172, R173. -/
def Obligations.TrafficFrameHolds : Prop :=
  (∀ (m : Mst) (pg : Pg) (v : Word) (s : State), TrafficFrame s (exec (.lanePower m pg v) s)) ∧
  (∀ (m : Mst) (pg : Pg) (v : Word) (s : State), TrafficFrame s (exec (.laneCtrlRetrain m pg v) s)) ∧
  (∀ (m : Mst) (pg : Pg) (v : Word) (s : State), TrafficFrame s (exec (.clrCounters m pg v) s)) ∧
  (∀ (m : Mst) (pg : Pg) (v : Word) (s : State), TrafficFrame s (exec (.spareRequest m pg v) s)) ∧
  (∀ (m : Mst) (pg : Pg) (v : Word) (s : State), TrafficFrame s (exec (.spareRevert m pg v) s)) ∧
  (∀ (k : DieNo) (s : State), TrafficFrame s (exec (.spareRequestDequeue k) s)) ∧
  (∀ (port : PortNo) (an : BitVec 4) (s : State), TrafficFrame s (exec (.partnerDetected port an) s)) ∧
  (∀ (port : PortNo) (s : State), TrafficFrame s (exec (.trainDone port) s)) ∧
  (∀ (port : PortNo) (s : State), TrafficFrame s (exec (.trainTimeout port) s)) ∧
  (∀ (port : PortNo) (s : State), TrafficFrame s (exec (.lockTimeout port) s)) ∧
  (∀ (port : PortNo) (s : State), TrafficFrame s (exec (.retrain port) s)) ∧
  (∀ (k : DieNo) (n : LaneNo) (s : State), TrafficFrame s (exec (.laneLockLost k n) s)) ∧
  (∀ (port : PortNo) (idx : BitVec 3) (j : BitVec 2) (s : State), TrafficFrame s (exec (.sparePrepare port idx j) s)) ∧
  (∀ (k : DieNo) (s : State), TrafficFrame s (exec (.spareTrainDone k) s)) ∧
  (∀ (k : DieNo) (s : State), TrafficFrame s (exec (.spareTrainFail k) s)) ∧
  (∀ (port : PortNo) (idx : BitVec 3) (j : BitVec 2) (sw : BitVec 32) (s : State), TrafficFrame s (exec (.spareSwitch
    port idx j sw) s)) ∧
  (∀ (port : PortNo) (idx : BitVec 3) (j : BitVec 2) (sw : BitVec 32) (s : State), TrafficFrame s (exec (.spareAck
    port idx j sw) s)) ∧
  (∀ (k : DieNo) (s : State), TrafficFrame s (exec (.spareSwitchover k) s)) ∧
  (∀ (k : DieNo) (s : State), TrafficFrame s (exec (.refclkLost k) s)) ∧
  (∀ (k : DieNo) (n : LaneNo) (side : Line) (body : Line) (parity : Line) (s : State), TrafficFrame s (exec
    (.dataCodeword k n side body parity) s)) ∧
  (∀ (k : DieNo) (n : LaneNo) (s : State), TrafficFrame s (exec (.codewordTx k n) s)) ∧
  (∀ (port : PortNo) (f : Flit) (s : State), TrafficFrame s (exec (.flitRx port f) s)) ∧
  (∀ (port : PortNo) (w : BitVec 32) (s : State), TrafficFrame s (exec (.sidebandRx port w) s)) ∧
  (∀ (port : PortNo) (ack : BitVec 16) (s : State), TrafficFrame s (exec (.nakRx port ack) s)) ∧
  (∀ (port : PortNo) (s : State), TrafficFrame s (exec (.nakRepeat port) s)) ∧
  (∀ (port : PortNo) (s : State), TrafficFrame s (exec (.flitTx port) s)) ∧
  (∀ (g : GroupNo) (c : LocalCmd) (s : State), TrafficFrame s (exec (.localPut g c) s)) ∧
  (∀ (g : GroupNo) (c : LocalCmd) (s : State), TrafficFrame s (exec (.localGet g c) s)) ∧
  (∀ (g : GroupNo) (c : LocalCmd) (s : State), TrafficFrame s (exec (.localSend g c) s)) ∧
  (∀ (g : GroupNo) (c : LocalCmd) (s : State), TrafficFrame s (exec (.localAtomic g c) s)) ∧
  (∀ (g : GroupNo) (c : LocalCmd) (s : State), TrafficFrame s (exec (.localRecvPost g c) s)) ∧
  (∀ (c : CtxNo) (s : State), TrafficFrame s (exec (.ctxQueueIssue c) s)) ∧
  (∀ (port : PortNo) (s : State), TrafficFrame s (exec (.ethRelease port) s)) ∧
  (∀ (port : PortNo) (s : State), TrafficFrame s (exec (.egressSelect port) s)) ∧
  (∀ (d : BaseNo) (s : State), TrafficFrame s (exec (.ageOscTick d) s)) ∧
  (∀ (a : L3In) (s : State), TrafficFrame s (exec (.l3Slot a) s)) ∧
  (∀ (t : TileNo) (s : State), TrafficFrame s (exec (.l3ReseqGiveup t) s)) ∧
  (∀ (m : Mst) (t : TileNo) (v : Word) (s : State), TrafficFrame s (exec (.tblCmdRead m t v) s)) ∧
  (∀ (m : Mst) (t : TileNo) (v : Word) (s : State), TrafficFrame s (exec (.tblCmdWrite m t v) s)) ∧
  (∀ (m : Mst) (t : TileNo) (v : Word) (s : State), TrafficFrame s (exec (.tblCmdInsert m t v) s)) ∧
  (∀ (m : Mst) (t : TileNo) (v : Word) (s : State), TrafficFrame s (exec (.tblCmdDelete m t v) s)) ∧
  (∀ (m : Mst) (t : TileNo) (v : Word) (s : State), TrafficFrame s (exec (.tblCmdFind m t v) s)) ∧
  (∀ (t : TileNo) (s : State), TrafficFrame s (exec (.tblCmdDone t) s)) ∧
  (∀ (s : State), TrafficFrame s (exec .evacStartQueued s)) ∧
  (∀ (t : TileNo) (expired : Bool) (s : State), TrafficFrame s (exec (.evacDrainEnd t expired) s)) ∧
  (∀ (d : BaseNo) (acct : BitVec 12) (s : State), TrafficFrame s (exec (.spillReadback d acct) s)) ∧
  (∀ (m : Mst) (pg : Pg) (v : Word) (s : State), TrafficFrame s (exec (.clsEntryWrite m pg v) s)) ∧
  (∀ (port : PortNo) (bytes : List Byte) (s : State), TrafficFrame s (exec (.pfcRx port bytes) s)) ∧
  (∀ (port : PortNo) (vc : BitVec 3) (s : State), TrafficFrame s (exec (.pfcPauseExpiry port vc) s)) ∧
  (∀ (t : TileNo) (cycles : BitVec 32) (s : State), TrafficFrame s (exec (.tokenAccrual t cycles) s)) ∧
  (∀ (m : Mst) (v : Word) (s : State), TrafficFrame s (exec (.check m v) s)) ∧
  (∀ (m : Mst) (v : Word) (s : State), TrafficFrame s (exec (.load m v) s)) ∧
  (∀ (d : BaseNo) (s : State), TrafficFrame s (exec (.dlScan d) s)) ∧
  (∀ (port : PortNo) (vc : BitVec 3) (s : State), TrafficFrame s (exec (.dlRecover port vc) s)) ∧
  (∀ (port : PortNo) (vc : BitVec 3) (s : State), TrafficFrame s (exec (.dlHoldExpiry port vc) s)) ∧
  (∀ (n : EngNo) (s : State), TrafficFrame s (exec (.rdxCmdDone n) s)) ∧
  (∀ (pg : Pg) (s : State), TrafficFrame s (exec (.fwWriteDone pg) s)) ∧
  (∀ (m : Mst) (pg : Pg) (v : Word) (s : State), TrafficFrame s (exec (.repair m pg v) s))

/-- O59. Commands of firmware, recovery and repair change no table and no byte of memory. Rests on R397, R398, R395. -/
def Obligations.FirmwareFrameHolds : Prop :=
  (∀ (m : Mst) (pg : Pg) (v : Word) (s : State), FirmwareFrame s (exec (.prbsCtrlWrite m pg v) s)) ∧
  (∀ (k : DieNo) (s : State), FirmwareFrame s (exec (.refclkRestored k) s)) ∧
  (∀ (pg : Pg) (s : State), FirmwareFrame s (exec (.xingAlignFail pg) s)) ∧
  (∀ (s : State), FirmwareFrame s (exec .thoraxBootTimeout s)) ∧
  (∀ (m : Mst) (pg : Pg) (v : Word) (s : State), FirmwareFrame s (exec (.fwWrite m pg v) s)) ∧
  (∀ (m : Mst) (pg : Pg) (v : Word) (s : State), FirmwareFrame s (exec (.activate m pg v) s)) ∧
  (∀ (m : Mst) (pg : Pg) (v : Word) (s : State), FirmwareFrame s (exec (.commit m pg v) s)) ∧
  (∀ (m : Mst) (pg : Pg) (v : Word) (s : State), FirmwareFrame s (exec (.rollback m pg v) s)) ∧
  (∀ (m : Mst) (pg : Pg) (v : Word) (s : State), FirmwareFrame s (exec (.discard m pg v) s)) ∧
  (∀ (m : Mst) (pg : Pg) (v : Word) (s : State), FirmwareFrame s (exec (.restart m pg v) s)) ∧
  (∀ (pg : Pg) (s : State), FirmwareFrame s (exec (.fwTrialTimeout pg) s)) ∧
  (∀ (ok : Bool) (s : State), FirmwareFrame s (exec (.saveProfileDone ok) s)) ∧
  (∀ (pg : Pg) (ok : Bool) (s : State), FirmwareFrame s (exec (.hbmRepairDone pg ok) s)) ∧
  (∀ (args : List Byte) (s : State), FirmwareFrame s (exec (.recBegin args) s)) ∧
  (∀ (args : List Byte) (s : State), FirmwareFrame s (exec (.recData args) s)) ∧
  (∀ (args : List Byte) (s : State), FirmwareFrame s (exec (.recEnd args) s)) ∧
  (∀ (args : List Byte) (s : State), FirmwareFrame s (exec (.recBoot args) s))

/-- O60. Commands of the Gang and the reductions change no frame, no link, no pin and no meter. Rests on R205, R280,
R287, R318. -/
def Obligations.ComputeFrameHolds : Prop :=
  (∀ (g : GroupNo) (tag : BitVec 32) (data : List Byte) (s : State), ComputeFrame s (exec (.localRdData g tag data)
    s)) ∧
  (∀ (h : MeshHead) (s : State), ComputeFrame s (exec (.meshMcForward h) s)) ∧
  (∀ (n : EngNo) (s : State), ComputeFrame s (exec (.engineAccumulate n) s)) ∧
  (∀ (src : Mst) (counter : BitVec 16) (epoch : BitVec 16) (amount : BitVec 32) (s : State), ComputeFrame s (exec
    (.signal src counter epoch amount) s)) ∧
  (∀ (m : Mst) (v : Word) (s : State), ComputeFrame s (exec (.synSignal m v) s)) ∧
  (∀ (m : Mst) (v : Word) (s : State), ComputeFrame s (exec (.clear m v) s)) ∧
  (∀ (m : Mst) (v : Word) (s : State), ComputeFrame s (exec (.flagSet m v) s)) ∧
  (∀ (m : Mst) (v : Word) (s : State), ComputeFrame s (exec (.flagClr m v) s)) ∧
  (∀ (m : Mst) (v : Word) (s : State), ComputeFrame s (exec (.watchArm m v) s)) ∧
  (∀ (m : Mst) (v : Word) (s : State), ComputeFrame s (exec (.watchCancel m v) s)) ∧
  (∀ (m : Mst) (v : Word) (s : State), ComputeFrame s (exec (.start m v) s)) ∧
  (∀ (m : Mst) (v : Word) (s : State), ComputeFrame s (exec (.pause m v) s)) ∧
  (∀ (m : Mst) (v : Word) (s : State), ComputeFrame s (exec (.resume m v) s)) ∧
  (∀ (m : Mst) (v : Word) (s : State), ComputeFrame s (exec (.stop m v) s)) ∧
  (∀ (p : PartNo) (l : ListNo) (s : State), ComputeFrame s (exec (.pauseTakesEffect p l) s)) ∧
  (∀ (cls : BitVec 2) (s : State), ComputeFrame s (exec (.gangSchedule cls) s)) ∧
  (∀ (p : PartNo) (l : ListNo) (s : State), ComputeFrame s (exec (.halt p l) s)) ∧
  (∀ (p : PartNo) (l : ListNo) (s : State), ComputeFrame s (exec (.ldw p l) s)) ∧
  (∀ (p : PartNo) (l : ListNo) (s : State), ComputeFrame s (exec (.stw p l) s)) ∧
  (∀ (p : PartNo) (l : ListNo) (s : State), ComputeFrame s (exec (.mm p l) s)) ∧
  (∀ (p : PartNo) (l : ListNo) (s : State), ComputeFrame s (exec (.mmtDx p l) s)) ∧
  (∀ (p : PartNo) (l : ListNo) (s : State), ComputeFrame s (exec (.mmtDw p l) s)) ∧
  (∀ (p : PartNo) (l : ListNo) (s : State), ComputeFrame s (exec (.epi p l) s)) ∧
  (∀ (p : PartNo) (l : ListNo) (s : State), ComputeFrame s (exec (.cvt p l) s)) ∧
  (∀ (p : PartNo) (l : ListNo) (s : State), ComputeFrame s (exec (.rcvPostWait p l) s)) ∧
  (∀ (p : PartNo) (l : ListNo) (s : State), ComputeFrame s (exec (.rcvPost p l) s)) ∧
  (∀ (p : PartNo) (l : ListNo) (s : State), ComputeFrame s (exec (.rcvFirst p l) s)) ∧
  (∀ (p : PartNo) (l : ListNo) (s : State), ComputeFrame s (exec (.waitCounter p l) s)) ∧
  (∀ (p : PartNo) (l : ListNo) (s : State), ComputeFrame s (exec (.waitFlag p l) s)) ∧
  (∀ (w : Arming) (code : BitVec 8) (value : Word) (s : State), ComputeFrame s (exec (.gangWatchMessage w code value)
    s)) ∧
  (∀ (p : PartNo) (l : ListNo) (s : State), ComputeFrame s (exec (.sigAdd p l) s)) ∧
  (∀ (p : PartNo) (l : ListNo) (s : State), ComputeFrame s (exec (.sigSet p l) s)) ∧
  (∀ (p : PartNo) (l : ListNo) (s : State), ComputeFrame s (exec (.sigClr p l) s)) ∧
  (∀ (p : PartNo) (l : ListNo) (s : State), ComputeFrame s (exec (.cntFetch p l) s)) ∧
  (∀ (p : PartNo) (l : ListNo) (s : State), ComputeFrame s (exec (.cntCounts p l) s)) ∧
  (∀ (p : PartNo) (l : ListNo) (s : State), ComputeFrame s (exec (.digTree p l) s)) ∧
  (∀ (p : PartNo) (l : ListNo) (s : State), ComputeFrame s (exec (.digAudit p l) s)) ∧
  (∀ (p : PartNo) (l : ListNo) (s : State), ComputeFrame s (exec (.smpSeeded p l) s)) ∧
  (∀ (p : PartNo) (l : ListNo) (s : State), ComputeFrame s (exec (.smpEntropy p l) s)) ∧
  (∀ (p : PartNo) (l : ListNo) (s : State), ComputeFrame s (exec (.gangOpDone p l) s)) ∧
  (∀ (p : PartNo) (l : ListNo) (s : State), ComputeFrame s (exec (.cplRingResume p l) s)) ∧
  (∀ (m : Mst) (v : Word) (s : State), ComputeFrame s (exec (.releaseRetention m v) s)) ∧
  (∀ (m : Mst) (v : Word) (s : State), ComputeFrame s (exec (.clearGrad m v) s)) ∧
  (∀ (r : BitVec 10) (ok : Bool) (s : State), ComputeFrame s (exec (.regionZeroed r ok) s))
end

