-- ==== Sys2Proof/Laws/Kv.lean ====
section
/-! SUPPORT. The laws of the two sparse stores: what a read gives after a write, and that every operation keeps the
canonical form. -/

namespace Sys2Proof.Machine

/-! ## Words by key -/

theorem kvWfFrom_mono {d : Nat → Nat} {l : Kv} {lo lo' : Nat} (h : kvWfFrom d lo' l = true) (hl : lo ≤ lo') :
    kvWfFrom d lo l = true := by
  cases l with
  | nil => rfl
  | cons e l =>
    obtain ⟨k, w⟩ := e
    simp only [kvWfFrom, Bool.and_eq_true, decide_eq_true_eq] at h ⊢
    exact ⟨⟨Nat.le_trans hl h.1.1, h.1.2⟩, h.2⟩

theorem kvWf_of_from {d : Nat → Nat} {l : Kv} {lo : Nat} (h : kvWfFrom d lo l = true) : kvWf d l = true :=
  kvWfFrom_mono h (Nat.zero_le _)

theorem kvWfFrom_erase {d : Nat → Nat} {l : Kv} {lo : Nat} (k : Nat) (h : kvWfFrom d lo l = true) :
    kvWfFrom d lo (kvErase l k) = true := by
  induction l generalizing lo with
  | nil => rfl
  | cons e l ih =>
    obtain ⟨k', w⟩ := e
    have h0 := h
    simp only [kvWfFrom, Bool.and_eq_true, decide_eq_true_eq] at h
    unfold kvErase
    split
    · exact kvWfFrom_mono h.2 (by omega)
    · split
      · exact h0
      · simp only [kvWfFrom, Bool.and_eq_true, decide_eq_true_eq]
        exact ⟨h.1, ih h.2⟩

theorem kvWfFrom_insert {d : Nat → Nat} {l : Kv} {lo k : Nat} {w : Word} (hk : lo ≤ k) (hw : w ≠ BitVec.ofNat 64 (d k))
    (h : kvWfFrom d lo l = true) : kvWfFrom d lo (kvInsert l k w) = true := by
  induction l generalizing lo with
  | nil => simp [kvInsert, kvWfFrom, hk, hw]
  | cons e l ih =>
    obtain ⟨k', w'⟩ := e
    simp only [kvWfFrom, Bool.and_eq_true, decide_eq_true_eq] at h
    unfold kvInsert
    split
    · subst_vars
      simp only [kvWfFrom, Bool.and_eq_true, decide_eq_true_eq]
      exact ⟨⟨hk, hw⟩, h.2⟩
    · split
      · simp only [kvWfFrom, Bool.and_eq_true, decide_eq_true_eq]
        exact ⟨⟨hk, hw⟩, ⟨by omega, h.1.2⟩, h.2⟩
      · simp only [kvWfFrom, Bool.and_eq_true, decide_eq_true_eq]
        exact ⟨h.1, ih (by omega) h.2⟩

/-- A write keeps the canonical form. -/
theorem kvWf_put {d : Nat → Nat} {l : Kv} (k : Nat) (w : Word) (h : kvWf d l = true) : kvWf d (kvPut d l k w) = true := by
  unfold kvPut
  split
  · exact kvWfFrom_erase k h
  · exact kvWfFrom_insert (Nat.zero_le _) ‹_› h

theorem kvWfFrom_filter {d : Nat → Nat} {l : Kv} {lo : Nat} (p : Nat × Word → Bool) (h : kvWfFrom d lo l = true) :
    kvWfFrom d lo (l.filter p) = true := by
  induction l generalizing lo with
  | nil => rfl
  | cons e l ih =>
    obtain ⟨k, w⟩ := e
    simp only [kvWfFrom, Bool.and_eq_true, decide_eq_true_eq] at h
    rw [List.filter_cons]
    split
    · simp only [kvWfFrom, Bool.and_eq_true, decide_eq_true_eq]
      exact ⟨h.1, ih h.2⟩
    · exact kvWfFrom_mono (ih h.2) (by omega)

/-- Taking entries out keeps the canonical form. -/
theorem kvWf_filter {d : Nat → Nat} {l : Kv} (p : Nat × Word → Bool) (h : kvWf d l = true) : kvWf d (l.filter p) = true :=
  kvWfFrom_filter p h

/-- Clearing a range keeps the canonical form. -/
theorem kvWf_clear {d : Nat → Nat} {l : Kv} (lo hi : Nat) (h : kvWf d l = true) : kvWf d (kvClear l lo hi) = true :=
  kvWfFrom_filter _ h

theorem kvWf_nil (d : Nat → Nat) : kvWf d [] = true := rfl

/-- A run of writes keeps the canonical form. -/
theorem kvWf_foldl_put {α : Type} {d : Nat → Nat} (key : α → Nat) (val : Kv → α → Word) (es : List α) {l : Kv}
    (h : kvWf d l = true) : kvWf d (es.foldl (fun l e => kvPut d l (key e) (val l e)) l) = true := by
  induction es generalizing l with
  | nil => exact h
  | cons e es ih => exact ih (kvWf_put _ _ h)

/-- A run of operations that each keep the canonical form keeps it. -/
theorem kvWf_foldl {α : Type} {d : Nat → Nat} {f : Kv → α → Kv} (hf : ∀ l e, kvWf d l = true → kvWf d (f l e) = true)
    (es : List α) {l : Kv} (h : kvWf d l = true) : kvWf d (es.foldl f l) = true := by
  induction es generalizing l with
  | nil => exact h
  | cons e es ih => exact ih (hf _ _ h)

theorem kvFind_lt {d : Nat → Nat} {l : Kv} {lo k : Nat} (h : kvWfFrom d lo l = true) (hk : k < lo) : kvFind l k = none := by
  cases l with
  | nil => rfl
  | cons e l =>
    obtain ⟨k', w⟩ := e
    simp only [kvWfFrom, Bool.and_eq_true, decide_eq_true_eq] at h
    unfold kvFind
    rw [if_neg (by omega), if_pos (by omega)]

theorem kvFind_erase {d : Nat → Nat} {l : Kv} {lo : Nat} (k j : Nat) (h : kvWfFrom d lo l = true) :
    kvFind (kvErase l k) j = if j = k then none else kvFind l j := by
  induction l generalizing lo with
  | nil => simp [kvErase, kvFind]
  | cons e l ih =>
    obtain ⟨k', w⟩ := e
    simp only [kvWfFrom, Bool.and_eq_true, decide_eq_true_eq] at h
    unfold kvErase
    by_cases h1 : k' = k
    · subst h1
      rw [if_pos rfl]
      by_cases hj : j = k'
      · subst hj; rw [if_pos rfl]; exact kvFind_lt h.2 (by omega)
      · rw [if_neg hj, kvFind, if_neg (Ne.symm hj)]
        split
        · exact kvFind_lt h.2 (by omega)
        · rfl
    · rw [if_neg h1]
      by_cases h2 : k < k'
      · rw [if_pos h2]
        by_cases hj : j = k
        · subst hj; rw [if_pos rfl, kvFind, if_neg h1, if_pos h2]
        · rw [if_neg hj]
      · rw [if_neg h2, kvFind, kvFind, ih h.2]
        by_cases hj : j = k
        · subst hj; rw [if_neg h1, if_neg h2]; simp
        · simp [hj]

theorem kvFind_insert {d : Nat → Nat} {l : Kv} {lo : Nat} (k j : Nat) (w : Word) (h : kvWfFrom d lo l = true) :
    kvFind (kvInsert l k w) j = if j = k then some w else kvFind l j := by
  induction l generalizing lo with
  | nil =>
    simp only [kvInsert, kvFind]
    by_cases hj : j = k
    · simp [hj]
    · rw [if_neg (Ne.symm hj), if_neg hj]; split <;> rfl
  | cons e l ih =>
    obtain ⟨k', w'⟩ := e
    simp only [kvWfFrom, Bool.and_eq_true, decide_eq_true_eq] at h
    unfold kvInsert
    by_cases h1 : k' = k
    · subst h1
      rw [if_pos rfl, kvFind, kvFind]
      by_cases hj : j = k'
      · simp [hj]
      · rw [if_neg hj, if_neg (Ne.symm hj), if_neg (Ne.symm hj)]
    · rw [if_neg h1]
      by_cases h2 : k < k'
      · rw [if_pos h2, kvFind]
        by_cases hj : j = k
        · simp [hj]
        · rw [if_neg (Ne.symm hj), if_neg hj]
          split
          · symm; rw [kvFind, if_neg (by omega), if_pos (by omega)]
          · rfl
      · rw [if_neg h2, kvFind, kvFind, ih h.2]
        by_cases hj : j = k
        · subst hj; rw [if_neg h1, if_neg h2]; simp
        · simp [hj]

/-- Reading a store after a write: the word written at its key, every other key as before. -/
theorem kvGet_put {d : Nat → Nat} {l : Kv} (k j : Nat) (w : Word) (h : kvWf d l = true) :
    kvGet d (kvPut d l k w) j = if j = k then w else kvGet d l j := by
  unfold kvPut kvGet
  by_cases hw : w = BitVec.ofNat 64 (d k)
  · rw [if_pos hw, kvFind_erase k j h]
    by_cases hj : j = k
    · subst hj; simp [hw]
    · simp [hj]
  · rw [if_neg hw, kvFind_insert k j w h]
    by_cases hj : j = k
    · simp [hj]
    · simp [hj]

/-! ## Bytes by address -/

theorem memWfFrom_mono {m : Memory} {lo lo' : Nat} (h : memWfFrom lo' m = true) (hl : lo ≤ lo') : memWfFrom lo m = true := by
  cases m with
  | nil => rfl
  | cons e m =>
    obtain ⟨a, b⟩ := e
    simp only [memWfFrom, Bool.and_eq_true, decide_eq_true_eq] at h ⊢
    exact ⟨⟨Nat.le_trans hl h.1.1, h.1.2⟩, h.2⟩

theorem memWfFrom_erase {m : Memory} {lo : Nat} (a : Nat) (h : memWfFrom lo m = true) : memWfFrom lo (memErase m a) = true := by
  induction m generalizing lo with
  | nil => rfl
  | cons e m ih =>
    obtain ⟨a', b⟩ := e
    have h0 := h
    simp only [memWfFrom, Bool.and_eq_true, decide_eq_true_eq] at h
    unfold memErase
    split
    · exact memWfFrom_mono h.2 (by omega)
    · split
      · exact h0
      · simp only [memWfFrom, Bool.and_eq_true, decide_eq_true_eq]
        exact ⟨h.1, ih h.2⟩

theorem memWfFrom_insert {m : Memory} {lo a : Nat} {v : Byte} (ha : lo ≤ a) (hv : v ≠ 0) (h : memWfFrom lo m = true) :
    memWfFrom lo (memInsert m a v) = true := by
  induction m generalizing lo with
  | nil => simp only [memInsert, memWfFrom, Bool.and_eq_true, decide_eq_true_eq]; exact ⟨⟨ha, hv⟩, trivial⟩
  | cons e m ih =>
    obtain ⟨a', b⟩ := e
    simp only [memWfFrom, Bool.and_eq_true, decide_eq_true_eq] at h
    unfold memInsert
    split
    · subst_vars
      simp only [memWfFrom, Bool.and_eq_true, decide_eq_true_eq]
      exact ⟨⟨ha, hv⟩, h.2⟩
    · split
      · simp only [memWfFrom, Bool.and_eq_true, decide_eq_true_eq]
        exact ⟨⟨ha, hv⟩, ⟨by omega, h.1.2⟩, h.2⟩
      · simp only [memWfFrom, Bool.and_eq_true, decide_eq_true_eq]
        exact ⟨h.1, ih (by omega) h.2⟩

/-- A write of a byte keeps the canonical form. -/
theorem memWf_write {m : Memory} (a : Nat) (v : Byte) (h : m.wf = true) : (memWrite m a v : Memory).wf = true := by
  unfold memWrite
  split
  · exact memWfFrom_erase a h
  · exact memWfFrom_insert (Nat.zero_le _) ‹_› h

/-- A write of bytes keeps the canonical form. -/
theorem memWf_writes {m : Memory} (a : Nat) (bs : List Byte) (h : m.wf = true) : (memWrites m a bs : Memory).wf = true := by
  induction bs generalizing m a with
  | nil => exact h
  | cons b bs ih => exact ih _ (memWf_write a b h)

theorem memWfFrom_filter {m : Memory} {lo : Nat} (p : Host.Cell → Bool) (h : memWfFrom lo m = true) :
    memWfFrom lo (m.filter p) = true := by
  induction m generalizing lo with
  | nil => rfl
  | cons e m ih =>
    obtain ⟨a, b⟩ := e
    simp only [memWfFrom, Bool.and_eq_true, decide_eq_true_eq] at h
    rw [List.filter_cons]
    split
    · simp only [memWfFrom, Bool.and_eq_true, decide_eq_true_eq]
      exact ⟨h.1, ih h.2⟩
    · exact memWfFrom_mono (ih h.2) (by omega)

/-- Zeroing a range keeps the canonical form. -/
theorem memWf_zero {m : Memory} (lo n : Nat) (h : m.wf = true) : (memZero m lo n : Memory).wf = true :=
  memWfFrom_filter _ h

theorem memWf_nil : Memory.wf [] = true := rfl

theorem memRead_lt {m : Memory} {lo a : Nat} (h : memWfFrom lo m = true) (ha : a < lo) : memRead m a = 0 := by
  cases m with
  | nil => rfl
  | cons e m =>
    obtain ⟨a', b⟩ := e
    simp only [memWfFrom, Bool.and_eq_true, decide_eq_true_eq] at h
    unfold memRead
    rw [if_neg (by omega), if_pos (by omega)]

theorem memRead_erase {m : Memory} {lo : Nat} (a c : Nat) (h : memWfFrom lo m = true) :
    memRead (memErase m a) c = if c = a then 0 else memRead m c := by
  induction m generalizing lo with
  | nil => simp [memErase, memRead]
  | cons e m ih =>
    obtain ⟨a', b⟩ := e
    simp only [memWfFrom, Bool.and_eq_true, decide_eq_true_eq] at h
    unfold memErase
    by_cases h1 : a' = a
    · subst h1
      rw [if_pos rfl]
      by_cases hj : c = a'
      · subst hj; rw [if_pos rfl]; exact memRead_lt h.2 (by omega)
      · rw [if_neg hj, memRead, if_neg (Ne.symm hj)]
        split
        · exact memRead_lt h.2 (by omega)
        · rfl
    · rw [if_neg h1]
      by_cases h2 : a < a'
      · rw [if_pos h2]
        by_cases hj : c = a
        · subst hj; rw [if_pos rfl, memRead, if_neg h1, if_pos h2]
        · rw [if_neg hj]
      · rw [if_neg h2, memRead, memRead, ih h.2]
        by_cases hj : c = a
        · subst hj; rw [if_neg h1, if_neg h2]; simp
        · simp [hj]

theorem memRead_insert {m : Memory} {lo : Nat} (a c : Nat) (v : Byte) (h : memWfFrom lo m = true) :
    memRead (memInsert m a v) c = if c = a then v else memRead m c := by
  induction m generalizing lo with
  | nil =>
    simp only [memInsert, memRead]
    by_cases hj : c = a
    · simp [hj]
    · rw [if_neg (Ne.symm hj), if_neg hj]; split <;> rfl
  | cons e m ih =>
    obtain ⟨a', b⟩ := e
    simp only [memWfFrom, Bool.and_eq_true, decide_eq_true_eq] at h
    unfold memInsert
    by_cases h1 : a' = a
    · subst h1
      rw [if_pos rfl, memRead, memRead]
      by_cases hj : c = a'
      · simp [hj]
      · rw [if_neg hj, if_neg (Ne.symm hj), if_neg (Ne.symm hj)]
    · rw [if_neg h1]
      by_cases h2 : a < a'
      · rw [if_pos h2, memRead]
        by_cases hj : c = a
        · simp [hj]
        · rw [if_neg (Ne.symm hj), if_neg hj]
          split
          · symm; rw [memRead, if_neg (by omega), if_pos (by omega)]
          · rfl
      · rw [if_neg h2, memRead, memRead, ih h.2]
        by_cases hj : c = a
        · subst hj; rw [if_neg h1, if_neg h2]; simp
        · simp [hj]

/-- Reading a memory after a write of one byte. -/
theorem memRead_write {m : Memory} (a c : Nat) (v : Byte) (h : m.wf = true) :
    memRead (memWrite m a v) c = if c = a then v else memRead m c := by
  unfold memWrite
  by_cases hv : v = 0
  · rw [if_pos hv, memRead_erase a c h]; simp [hv]
  · rw [if_neg hv, memRead_insert a c v h]

/-- Bytes outside the range of a write read as before. -/
theorem memRead_writes_outside {m : Memory} (a c : Nat) (bs : List Byte) (h : m.wf = true)
    (hc : c < a ∨ a + bs.length ≤ c) : memRead (memWrites m a bs) c = memRead m c := by
  induction bs generalizing m a with
  | nil => rfl
  | cons b bs ih =>
    simp only [List.length_cons] at hc
    rw [memWrites, ih (a + 1) (memWf_write a b h) (by omega), memRead_write a c b h, if_neg (by omega)]

/-- Bytes inside the range of a write read as written. -/
theorem memRead_writes_inside {m : Memory} (a i : Nat) (bs : List Byte) (h : m.wf = true) (hi : i < bs.length) :
    memRead (memWrites m a bs) (a + i) = bs[i] := by
  induction bs generalizing m a i with
  | nil => simp at hi
  | cons b bs ih =>
    rw [memWrites]
    cases i with
    | zero =>
      rw [memRead_writes_outside (a + 1) (a + 0) bs (memWf_write a b h) (by omega), memRead_write a (a + 0) b h]
      simp
    | succ i =>
      have := ih (a + 1) i (memWf_write a b h) (by simpa using hi)
      rw [show a + (i + 1) = a + 1 + i by omega, this]
      simp

end Sys2Proof.Machine
end

