-- ==== Sys2Proof/Laws/State.lean ====
section
/-! SUPPORT. The state under its updates: what each update leaves alone, field by field, and what reads of registers and
table words give after writes of them. -/

namespace Sys2Proof

/-! ## Bit fields -/

/-- The field that was put reads as what was put. -/
@[simp] theorem bits_putBits_same (n lo w v : Nat) : bits (putBits n lo w v) lo w = v % 2 ^ w := by
  unfold bits putBits
  have h1 : n % 2 ^ lo < 2 ^ lo := Nat.mod_lt _ (Nat.two_pow_pos _)
  have h2 : v % 2 ^ w < 2 ^ w := Nat.mod_lt _ (Nat.two_pow_pos _)
  rw [Nat.pow_add, show n / (2 ^ lo * 2 ^ w) * (2 ^ lo * 2 ^ w) + v % 2 ^ w * 2 ^ lo + n % 2 ^ lo
      = n % 2 ^ lo + 2 ^ lo * (v % 2 ^ w + 2 ^ w * (n / (2 ^ lo * 2 ^ w))) by ring]
  rw [Nat.add_mul_div_left _ _ (Nat.two_pow_pos _), Nat.div_eq_of_lt h1, Nat.zero_add, Nat.add_mul_mod_self_left,
    Nat.mod_eq_of_lt h2]

/-- A field and the bits below it are no more than their width. -/
theorem putBits_low (n lo w v : Nat) : v % 2 ^ w * 2 ^ lo + n % 2 ^ lo < 2 ^ (lo + w) := by
  have h1 : n % 2 ^ lo < 2 ^ lo := Nat.mod_lt _ (Nat.two_pow_pos _)
  have h2 : v % 2 ^ w < 2 ^ w := Nat.mod_lt _ (Nat.two_pow_pos _)
  have h4 : (v % 2 ^ w + 1) * 2 ^ lo ≤ 2 ^ w * 2 ^ lo := Nat.mul_le_mul_right _ h2
  rw [Nat.add_mul, Nat.one_mul] at h4
  rw [Nat.pow_add, Nat.mul_comm (2 ^ lo)]
  omega

/-- The bits below the field that was put are as they were. -/
theorem bits_putBits_below (n lo w v lo' w' : Nat) (h : lo' + w' ≤ lo) :
    bits (putBits n lo w v) lo' w' = bits n lo' w' := by
  obtain ⟨k, rfl⟩ := Nat.exists_eq_add_of_le h
  have e : ∀ m : Nat, bits m lo' w' = m % 2 ^ (lo' + w') / 2 ^ lo' := by
    intro m
    rw [bits, Nat.pow_add, Nat.mod_mul_right_div_self]
  rw [e, e]
  congr 1
  unfold putBits
  have d : 2 ^ (lo' + w') ∣ 2 ^ (lo' + w' + k) := Nat.pow_dvd_pow _ (by omega)
  have d2 : 2 ^ (lo' + w') ∣ 2 ^ (lo' + w' + k + w) := Nat.pow_dvd_pow _ (by omega)
  rw [Nat.add_mod, Nat.add_mod (n / _ * _), Nat.mod_eq_zero_of_dvd (Dvd.dvd.mul_left d2 _),
    Nat.mod_eq_zero_of_dvd (Dvd.dvd.mul_left d _)]
  simp [Nat.mod_mod_of_dvd _ d]

/-- The bits above the field that was put are as they were. -/
theorem bits_putBits_above (n lo w v lo' w' : Nat) (h : lo + w ≤ lo') :
    bits (putBits n lo w v) lo' w' = bits n lo' w' := by
  have e : putBits n lo w v / 2 ^ (lo + w) = n / 2 ^ (lo + w) := by
    unfold putBits
    have h3 : v % 2 ^ w * 2 ^ lo + n % 2 ^ lo < 2 ^ (lo + w) := putBits_low n lo w v
    rw [Nat.add_assoc, Nat.add_comm, Nat.add_mul_div_right _ _ (Nat.two_pow_pos _), Nat.div_eq_of_lt h3, Nat.zero_add]
  obtain ⟨k, rfl⟩ := Nat.exists_eq_add_of_le h
  unfold bits
  rw [Nat.pow_add 2 (lo + w) k, ← Nat.div_div_eq_div_mul, ← Nat.div_div_eq_div_mul, e]

/-- Bits are as many as were asked for. -/
theorem bits_lt (n lo w : Nat) : bits n lo w < 2 ^ w := Nat.mod_lt _ (Nat.two_pow_pos _)

/-- A word with a field put is a word. -/
theorem putBits_lt {n lo w k : Nat} (v : Nat) (hn : n < 2 ^ k) (h : lo + w ≤ k) : putBits n lo w v < 2 ^ k := by
  obtain ⟨j, rfl⟩ := Nat.exists_eq_add_of_le h
  unfold putBits
  have h3 : v % 2 ^ w * 2 ^ lo + n % 2 ^ lo < 2 ^ (lo + w) := putBits_low n lo w v
  have h4 : n / 2 ^ (lo + w) < 2 ^ j := by
    rw [Nat.div_lt_iff_lt_mul (Nat.two_pow_pos _), ← Nat.pow_add]
    rwa [Nat.add_comm j]
  have h5 : (n / 2 ^ (lo + w) + 1) * 2 ^ (lo + w) ≤ 2 ^ j * 2 ^ (lo + w) := Nat.mul_le_mul_right _ h4
  rw [Nat.add_mul, Nat.one_mul] at h5
  rw [Nat.pow_add 2 (lo + w) j, Nat.mul_comm (2 ^ (lo + w)) (2 ^ j)]
  omega

end Sys2Proof

namespace Sys2Proof.Machine

/-! ## Registers and table words after writes -/

/-- A register after a write of one: the word written where the keys agree. -/
theorem reg_setReg {s : State} (h : s.Wf) (b c : Blk) (off o v : Nat) :
    (s.setReg b off v).reg c o = if regKey c.page o = regKey b.page off then v % 2 ^ 64 else s.reg c o := by
  unfold State.reg State.setReg
  simp only [kvGet_put _ _ _ h.regs]
  split <;> simp

/-- The register that was written reads as what was written. -/
theorem reg_setReg_same {s : State} (h : s.Wf) (b : Blk) (off v : Nat) : (s.setReg b off v).reg b off = v % 2 ^ 64 := by
  rw [reg_setReg h, if_pos rfl]

/-- A register's word is a word. -/
theorem reg_lt (s : State) (b : Blk) (off : Nat) : s.reg b off < 2 ^ 64 := BitVec.isLt _

/-- The field that was written reads as what was written. -/
theorem g_p_same {s : State} (h : s.Wf) (b : Blk) (f : Fld) (v : Nat) (hf : f.lo + f.w ≤ 64) :
    (s.p b f v).g b f = v % 2 ^ f.w := by
  unfold State.g State.p
  rw [reg_setReg_same h, Nat.mod_eq_of_lt (putBits_lt v (reg_lt s b f.off) hf), bits_putBits_same]

/-- A register other than the one whose field was written is as it was. -/
theorem reg_p_other {s : State} (h : s.Wf) (b c : Blk) (f : Fld) (o v : Nat) (hk : regKey c.page o ≠ regKey b.page f.off) :
    (s.p b f v).reg c o = s.reg c o := by
  rw [State.p, reg_setReg h, if_neg hk]

/-- A write of a register keeps the canonical form. -/
theorem wf_setReg {s : State} (h : s.Wf) (b : Blk) (off v : Nat) : (s.setReg b off v).Wf :=
  ⟨kvWf_put _ _ h.regs, h.tabs, h.hbm, h.arr, h.vec, h.host⟩

/-- A write of a field keeps the canonical form. -/
theorem wf_p {s : State} (h : s.Wf) (b : Blk) (f : Fld) (v : Nat) : (s.p b f v).Wf := wf_setReg h _ _ _

/-- A table word after a write of one: the word written where the keys agree. -/
theorem tw_setTw {s : State} (h : s.Wf) (t u : Tbl) (sc i wd sc' i' wd' v : Nat) :
    (s.setTw t sc i wd v).tw u sc' i' wd' =
      if tabKey u sc' i' wd' = tabKey t sc i wd then v % 2 ^ 64 else s.tw u sc' i' wd' := by
  unfold State.tw State.setTw
  simp only [kvGet_put _ _ _ h.tabs]
  split <;> simp

/-- The table word that was written reads as what was written. -/
theorem tw_setTw_same {s : State} (h : s.Wf) (t : Tbl) (sc i wd v : Nat) :
    (s.setTw t sc i wd v).tw t sc i wd = v % 2 ^ 64 := by
  rw [tw_setTw h, if_pos rfl]

/-- The field of a table that was written reads as what was written. -/
theorem t_pt_same {s : State} (h : s.Wf) (t : Tbl) (sc i : Nat) (f : Fld) (v : Nat) (hf : f.lo + f.w ≤ 64) :
    (s.pt t sc i f v).t t sc i f = v % 2 ^ f.w := by
  unfold State.t State.pt
  have : s.tw t sc i f.off < 2 ^ 64 := BitVec.isLt _
  rw [tw_setTw_same h, Nat.mod_eq_of_lt (putBits_lt v this hf), bits_putBits_same]

/-- A write of a table word keeps the canonical form. -/
theorem wf_setTw {s : State} (h : s.Wf) (t : Tbl) (sc i wd v : Nat) : (s.setTw t sc i wd v).Wf :=
  ⟨h.regs, kvWf_put _ _ h.tabs, h.hbm, h.arr, h.vec, h.host⟩

/-- A counter after it was raised. -/
theorem g_inc_same {s : State} (h : s.Wf) (b : Blk) (f : Fld) (hf : f.lo + f.w ≤ 64) :
    (s.inc b f).g b f = min (s.g b f + 1) (2 ^ f.w - 1) := by
  unfold State.inc State.add
  rw [g_p_same h b f _ hf]
  unfold satAdd
  have := Nat.two_pow_pos f.w
  exact Nat.mod_eq_of_lt (by omega)

/-! ## Pages -/

/-- Every page index below the last one holds a block of that page, or none. -/
theorem blkOf_page_small (m : Bool) (i j : Fin 72) :
    ((blkOf m (72 * i.val + j.val)).all fun b => b.page == 72 * i.val + j.val) = true := by
  revert m i j
  decide +kernel

/-- The block of a page index has that page. -/
theorem blk_page {s : State} {pg : Nat} {b : Blk} (h : s.blk pg = some b) : b.page = pg := by
  unfold State.blk at h
  by_cases hp : pg < 5120
  · have := blkOf_page_small s.multi ⟨pg / 72, by omega⟩ ⟨pg % 72, by omega⟩
    rw [show 72 * (pg / 72) + pg % 72 = pg by omega, h] at this
    simpa using this
  · have : blkOf s.multi pg = none := by
      unfold blkOf
      rw [if_neg (by omega), if_neg (by omega)]
    rw [this] at h
    cases h

/-! ## Settling -/

/-- A state in which nothing is owed, told or frozen is settled. -/
theorem settle_calm {s : State} (h : s.Calm) : s.settle = s := by
  have ho : s.overrun = s := by
    unfold State.overrun State.capPages
    simp [h.views]
  unfold State.settle
  rw [ho, State.settleN.eq_def]
  simp only [h.acts]
  unfold State.levelNotice
  simp [h.alarm]

/-! ## What each update leaves alone -/

@[simp] theorem State.setReg_tabs (s : State) (b : Blk) (off v : Nat) : (s.setReg b off v).tabs = s.tabs := rfl
@[simp] theorem State.setReg_views (s : State) (b : Blk) (off v : Nat) : (s.setReg b off v).views = s.views := rfl
@[simp] theorem State.setReg_cow (s : State) (b : Blk) (off v : Nat) : (s.setReg b off v).cow = s.cow := rfl
@[simp] theorem State.setReg_hbm (s : State) (b : Blk) (off v : Nat) : (s.setReg b off v).hbm = s.hbm := rfl
@[simp] theorem State.setReg_arr (s : State) (b : Blk) (off v : Nat) : (s.setReg b off v).arr = s.arr := rfl
@[simp] theorem State.setReg_vec (s : State) (b : Blk) (off v : Nat) : (s.setReg b off v).vec = s.vec := rfl
@[simp] theorem State.setReg_host (s : State) (b : Blk) (off v : Nat) : (s.setReg b off v).host = s.host := rfl
@[simp] theorem State.setReg_pins (s : State) (b : Blk) (off v : Nat) : (s.setReg b off v).pins = s.pins := rfl
@[simp] theorem State.setReg_acts (s : State) (b : Blk) (off v : Nat) : (s.setReg b off v).acts = s.acts := rfl
@[simp] theorem State.setReg_alarm (s : State) (b : Blk) (off v : Nat) : (s.setReg b off v).alarm = s.alarm := rfl
@[simp] theorem State.setReg_jobs (s : State) (b : Blk) (off v : Nat) : (s.setReg b off v).jobs = s.jobs := rfl
@[simp] theorem State.setReg_snaps (s : State) (b : Blk) (off v : Nat) : (s.setReg b off v).snaps = s.snaps := rfl
@[simp] theorem State.setReg_out (s : State) (b : Blk) (off v : Nat) : (s.setReg b off v).out = s.out := rfl
@[simp] theorem State.setReg_fresh (s : State) (b : Blk) (off v : Nat) : (s.setReg b off v).fresh = s.fresh := rfl
@[simp] theorem State.setReg_mram (s : State) (b : Blk) (off v : Nat) : (s.setReg b off v).mram = s.mram := rfl
@[simp] theorem State.setReg_boot (s : State) (b : Blk) (off v : Nat) : (s.setReg b off v).boot = s.boot := rfl
@[simp] theorem State.setReg_sec (s : State) (b : Blk) (off v : Nat) : (s.setReg b off v).sec = s.sec := rfl
@[simp] theorem State.setReg_dbg (s : State) (b : Blk) (off v : Nat) : (s.setReg b off v).dbg = s.dbg := rfl
@[simp] theorem State.setReg_ccn (s : State) (b : Blk) (off v : Nat) : (s.setReg b off v).ccn = s.ccn := rfl
@[simp] theorem State.setReg_hst (s : State) (b : Blk) (off v : Nat) : (s.setReg b off v).hst = s.hst := rfl
@[simp] theorem State.setReg_sws (s : State) (b : Blk) (off v : Nat) : (s.setReg b off v).sws = s.sws := rfl
@[simp] theorem State.setReg_swWaits (s : State) (b : Blk) (off v : Nat) : (s.setReg b off v).swWaits = s.swWaits := rfl
@[simp] theorem State.setReg_caches (s : State) (b : Blk) (off v : Nat) : (s.setReg b off v).caches = s.caches := rfl
@[simp] theorem State.setReg_swc (s : State) (b : Blk) (off v : Nat) : (s.setReg b off v).swc = s.swc := rfl
@[simp] theorem State.setReg_lls (s : State) (b : Blk) (off v : Nat) : (s.setReg b off v).lls = s.lls := rfl
@[simp] theorem State.setReg_cxs (s : State) (b : Blk) (off v : Nat) : (s.setReg b off v).cxs = s.cxs := rfl
@[simp] theorem State.setReg_lrds (s : State) (b : Blk) (off v : Nat) : (s.setReg b off v).lrds = s.lrds := rfl
@[simp] theorem State.setReg_rcxs (s : State) (b : Blk) (off v : Nat) : (s.setReg b off v).rcxs = s.rcxs := rfl
@[simp] theorem State.setReg_engq (s : State) (b : Blk) (off v : Nat) : (s.setReg b off v).engq = s.engq := rfl
@[simp] theorem State.setReg_mesh (s : State) (b : Blk) (off v : Nat) : (s.setReg b off v).mesh = s.mesh := rfl
@[simp] theorem State.setReg_scs (s : State) (b : Blk) (off v : Nat) : (s.setReg b off v).scs = s.scs := rfl
@[simp] theorem State.setReg_gang (s : State) (b : Blk) (off v : Nat) : (s.setReg b off v).gang = s.gang := rfl
@[simp] theorem State.setReg_pending (s : State) (b : Blk) (off v : Nat) : (s.setReg b off v).pending = s.pending := rfl

@[simp] theorem State.p_tabs (s : State) (b : Blk) (f : Fld) (v : Nat) : (s.p b f v).tabs = s.tabs := rfl
@[simp] theorem State.p_views (s : State) (b : Blk) (f : Fld) (v : Nat) : (s.p b f v).views = s.views := rfl
@[simp] theorem State.p_cow (s : State) (b : Blk) (f : Fld) (v : Nat) : (s.p b f v).cow = s.cow := rfl
@[simp] theorem State.p_hbm (s : State) (b : Blk) (f : Fld) (v : Nat) : (s.p b f v).hbm = s.hbm := rfl
@[simp] theorem State.p_arr (s : State) (b : Blk) (f : Fld) (v : Nat) : (s.p b f v).arr = s.arr := rfl
@[simp] theorem State.p_vec (s : State) (b : Blk) (f : Fld) (v : Nat) : (s.p b f v).vec = s.vec := rfl
@[simp] theorem State.p_host (s : State) (b : Blk) (f : Fld) (v : Nat) : (s.p b f v).host = s.host := rfl
@[simp] theorem State.p_pins (s : State) (b : Blk) (f : Fld) (v : Nat) : (s.p b f v).pins = s.pins := rfl
@[simp] theorem State.p_acts (s : State) (b : Blk) (f : Fld) (v : Nat) : (s.p b f v).acts = s.acts := rfl
@[simp] theorem State.p_alarm (s : State) (b : Blk) (f : Fld) (v : Nat) : (s.p b f v).alarm = s.alarm := rfl
@[simp] theorem State.p_jobs (s : State) (b : Blk) (f : Fld) (v : Nat) : (s.p b f v).jobs = s.jobs := rfl
@[simp] theorem State.p_snaps (s : State) (b : Blk) (f : Fld) (v : Nat) : (s.p b f v).snaps = s.snaps := rfl
@[simp] theorem State.p_out (s : State) (b : Blk) (f : Fld) (v : Nat) : (s.p b f v).out = s.out := rfl
@[simp] theorem State.p_fresh (s : State) (b : Blk) (f : Fld) (v : Nat) : (s.p b f v).fresh = s.fresh := rfl
@[simp] theorem State.p_mram (s : State) (b : Blk) (f : Fld) (v : Nat) : (s.p b f v).mram = s.mram := rfl
@[simp] theorem State.p_boot (s : State) (b : Blk) (f : Fld) (v : Nat) : (s.p b f v).boot = s.boot := rfl
@[simp] theorem State.p_sec (s : State) (b : Blk) (f : Fld) (v : Nat) : (s.p b f v).sec = s.sec := rfl
@[simp] theorem State.p_dbg (s : State) (b : Blk) (f : Fld) (v : Nat) : (s.p b f v).dbg = s.dbg := rfl
@[simp] theorem State.p_ccn (s : State) (b : Blk) (f : Fld) (v : Nat) : (s.p b f v).ccn = s.ccn := rfl
@[simp] theorem State.p_hst (s : State) (b : Blk) (f : Fld) (v : Nat) : (s.p b f v).hst = s.hst := rfl
@[simp] theorem State.p_sws (s : State) (b : Blk) (f : Fld) (v : Nat) : (s.p b f v).sws = s.sws := rfl
@[simp] theorem State.p_swWaits (s : State) (b : Blk) (f : Fld) (v : Nat) : (s.p b f v).swWaits = s.swWaits := rfl
@[simp] theorem State.p_caches (s : State) (b : Blk) (f : Fld) (v : Nat) : (s.p b f v).caches = s.caches := rfl
@[simp] theorem State.p_swc (s : State) (b : Blk) (f : Fld) (v : Nat) : (s.p b f v).swc = s.swc := rfl
@[simp] theorem State.p_lls (s : State) (b : Blk) (f : Fld) (v : Nat) : (s.p b f v).lls = s.lls := rfl
@[simp] theorem State.p_cxs (s : State) (b : Blk) (f : Fld) (v : Nat) : (s.p b f v).cxs = s.cxs := rfl
@[simp] theorem State.p_lrds (s : State) (b : Blk) (f : Fld) (v : Nat) : (s.p b f v).lrds = s.lrds := rfl
@[simp] theorem State.p_rcxs (s : State) (b : Blk) (f : Fld) (v : Nat) : (s.p b f v).rcxs = s.rcxs := rfl
@[simp] theorem State.p_engq (s : State) (b : Blk) (f : Fld) (v : Nat) : (s.p b f v).engq = s.engq := rfl
@[simp] theorem State.p_mesh (s : State) (b : Blk) (f : Fld) (v : Nat) : (s.p b f v).mesh = s.mesh := rfl
@[simp] theorem State.p_scs (s : State) (b : Blk) (f : Fld) (v : Nat) : (s.p b f v).scs = s.scs := rfl
@[simp] theorem State.p_gang (s : State) (b : Blk) (f : Fld) (v : Nat) : (s.p b f v).gang = s.gang := rfl
@[simp] theorem State.p_pending (s : State) (b : Blk) (f : Fld) (v : Nat) : (s.p b f v).pending = s.pending := rfl

@[simp] theorem State.add_tabs (s : State) (b : Blk) (f : Fld) (d : Nat) : (s.add b f d).tabs = s.tabs := rfl
@[simp] theorem State.add_views (s : State) (b : Blk) (f : Fld) (d : Nat) : (s.add b f d).views = s.views := rfl
@[simp] theorem State.add_cow (s : State) (b : Blk) (f : Fld) (d : Nat) : (s.add b f d).cow = s.cow := rfl
@[simp] theorem State.add_hbm (s : State) (b : Blk) (f : Fld) (d : Nat) : (s.add b f d).hbm = s.hbm := rfl
@[simp] theorem State.add_arr (s : State) (b : Blk) (f : Fld) (d : Nat) : (s.add b f d).arr = s.arr := rfl
@[simp] theorem State.add_vec (s : State) (b : Blk) (f : Fld) (d : Nat) : (s.add b f d).vec = s.vec := rfl
@[simp] theorem State.add_host (s : State) (b : Blk) (f : Fld) (d : Nat) : (s.add b f d).host = s.host := rfl
@[simp] theorem State.add_pins (s : State) (b : Blk) (f : Fld) (d : Nat) : (s.add b f d).pins = s.pins := rfl
@[simp] theorem State.add_acts (s : State) (b : Blk) (f : Fld) (d : Nat) : (s.add b f d).acts = s.acts := rfl
@[simp] theorem State.add_alarm (s : State) (b : Blk) (f : Fld) (d : Nat) : (s.add b f d).alarm = s.alarm := rfl
@[simp] theorem State.add_jobs (s : State) (b : Blk) (f : Fld) (d : Nat) : (s.add b f d).jobs = s.jobs := rfl
@[simp] theorem State.add_snaps (s : State) (b : Blk) (f : Fld) (d : Nat) : (s.add b f d).snaps = s.snaps := rfl
@[simp] theorem State.add_out (s : State) (b : Blk) (f : Fld) (d : Nat) : (s.add b f d).out = s.out := rfl
@[simp] theorem State.add_fresh (s : State) (b : Blk) (f : Fld) (d : Nat) : (s.add b f d).fresh = s.fresh := rfl
@[simp] theorem State.add_mram (s : State) (b : Blk) (f : Fld) (d : Nat) : (s.add b f d).mram = s.mram := rfl
@[simp] theorem State.add_boot (s : State) (b : Blk) (f : Fld) (d : Nat) : (s.add b f d).boot = s.boot := rfl
@[simp] theorem State.add_sec (s : State) (b : Blk) (f : Fld) (d : Nat) : (s.add b f d).sec = s.sec := rfl
@[simp] theorem State.add_dbg (s : State) (b : Blk) (f : Fld) (d : Nat) : (s.add b f d).dbg = s.dbg := rfl
@[simp] theorem State.add_ccn (s : State) (b : Blk) (f : Fld) (d : Nat) : (s.add b f d).ccn = s.ccn := rfl
@[simp] theorem State.add_hst (s : State) (b : Blk) (f : Fld) (d : Nat) : (s.add b f d).hst = s.hst := rfl
@[simp] theorem State.add_sws (s : State) (b : Blk) (f : Fld) (d : Nat) : (s.add b f d).sws = s.sws := rfl
@[simp] theorem State.add_swWaits (s : State) (b : Blk) (f : Fld) (d : Nat) : (s.add b f d).swWaits = s.swWaits := rfl
@[simp] theorem State.add_caches (s : State) (b : Blk) (f : Fld) (d : Nat) : (s.add b f d).caches = s.caches := rfl
@[simp] theorem State.add_swc (s : State) (b : Blk) (f : Fld) (d : Nat) : (s.add b f d).swc = s.swc := rfl
@[simp] theorem State.add_lls (s : State) (b : Blk) (f : Fld) (d : Nat) : (s.add b f d).lls = s.lls := rfl
@[simp] theorem State.add_cxs (s : State) (b : Blk) (f : Fld) (d : Nat) : (s.add b f d).cxs = s.cxs := rfl
@[simp] theorem State.add_lrds (s : State) (b : Blk) (f : Fld) (d : Nat) : (s.add b f d).lrds = s.lrds := rfl
@[simp] theorem State.add_rcxs (s : State) (b : Blk) (f : Fld) (d : Nat) : (s.add b f d).rcxs = s.rcxs := rfl
@[simp] theorem State.add_engq (s : State) (b : Blk) (f : Fld) (d : Nat) : (s.add b f d).engq = s.engq := rfl
@[simp] theorem State.add_mesh (s : State) (b : Blk) (f : Fld) (d : Nat) : (s.add b f d).mesh = s.mesh := rfl
@[simp] theorem State.add_scs (s : State) (b : Blk) (f : Fld) (d : Nat) : (s.add b f d).scs = s.scs := rfl
@[simp] theorem State.add_gang (s : State) (b : Blk) (f : Fld) (d : Nat) : (s.add b f d).gang = s.gang := rfl
@[simp] theorem State.add_pending (s : State) (b : Blk) (f : Fld) (d : Nat) : (s.add b f d).pending = s.pending := rfl

@[simp] theorem State.inc_tabs (s : State) (b : Blk) (f : Fld) : (s.inc b f).tabs = s.tabs := rfl
@[simp] theorem State.inc_views (s : State) (b : Blk) (f : Fld) : (s.inc b f).views = s.views := rfl
@[simp] theorem State.inc_cow (s : State) (b : Blk) (f : Fld) : (s.inc b f).cow = s.cow := rfl
@[simp] theorem State.inc_hbm (s : State) (b : Blk) (f : Fld) : (s.inc b f).hbm = s.hbm := rfl
@[simp] theorem State.inc_arr (s : State) (b : Blk) (f : Fld) : (s.inc b f).arr = s.arr := rfl
@[simp] theorem State.inc_vec (s : State) (b : Blk) (f : Fld) : (s.inc b f).vec = s.vec := rfl
@[simp] theorem State.inc_host (s : State) (b : Blk) (f : Fld) : (s.inc b f).host = s.host := rfl
@[simp] theorem State.inc_pins (s : State) (b : Blk) (f : Fld) : (s.inc b f).pins = s.pins := rfl
@[simp] theorem State.inc_acts (s : State) (b : Blk) (f : Fld) : (s.inc b f).acts = s.acts := rfl
@[simp] theorem State.inc_alarm (s : State) (b : Blk) (f : Fld) : (s.inc b f).alarm = s.alarm := rfl
@[simp] theorem State.inc_jobs (s : State) (b : Blk) (f : Fld) : (s.inc b f).jobs = s.jobs := rfl
@[simp] theorem State.inc_snaps (s : State) (b : Blk) (f : Fld) : (s.inc b f).snaps = s.snaps := rfl
@[simp] theorem State.inc_out (s : State) (b : Blk) (f : Fld) : (s.inc b f).out = s.out := rfl
@[simp] theorem State.inc_fresh (s : State) (b : Blk) (f : Fld) : (s.inc b f).fresh = s.fresh := rfl
@[simp] theorem State.inc_mram (s : State) (b : Blk) (f : Fld) : (s.inc b f).mram = s.mram := rfl
@[simp] theorem State.inc_boot (s : State) (b : Blk) (f : Fld) : (s.inc b f).boot = s.boot := rfl
@[simp] theorem State.inc_sec (s : State) (b : Blk) (f : Fld) : (s.inc b f).sec = s.sec := rfl
@[simp] theorem State.inc_dbg (s : State) (b : Blk) (f : Fld) : (s.inc b f).dbg = s.dbg := rfl
@[simp] theorem State.inc_ccn (s : State) (b : Blk) (f : Fld) : (s.inc b f).ccn = s.ccn := rfl
@[simp] theorem State.inc_hst (s : State) (b : Blk) (f : Fld) : (s.inc b f).hst = s.hst := rfl
@[simp] theorem State.inc_sws (s : State) (b : Blk) (f : Fld) : (s.inc b f).sws = s.sws := rfl
@[simp] theorem State.inc_swWaits (s : State) (b : Blk) (f : Fld) : (s.inc b f).swWaits = s.swWaits := rfl
@[simp] theorem State.inc_caches (s : State) (b : Blk) (f : Fld) : (s.inc b f).caches = s.caches := rfl
@[simp] theorem State.inc_swc (s : State) (b : Blk) (f : Fld) : (s.inc b f).swc = s.swc := rfl
@[simp] theorem State.inc_lls (s : State) (b : Blk) (f : Fld) : (s.inc b f).lls = s.lls := rfl
@[simp] theorem State.inc_cxs (s : State) (b : Blk) (f : Fld) : (s.inc b f).cxs = s.cxs := rfl
@[simp] theorem State.inc_lrds (s : State) (b : Blk) (f : Fld) : (s.inc b f).lrds = s.lrds := rfl
@[simp] theorem State.inc_rcxs (s : State) (b : Blk) (f : Fld) : (s.inc b f).rcxs = s.rcxs := rfl
@[simp] theorem State.inc_engq (s : State) (b : Blk) (f : Fld) : (s.inc b f).engq = s.engq := rfl
@[simp] theorem State.inc_mesh (s : State) (b : Blk) (f : Fld) : (s.inc b f).mesh = s.mesh := rfl
@[simp] theorem State.inc_scs (s : State) (b : Blk) (f : Fld) : (s.inc b f).scs = s.scs := rfl
@[simp] theorem State.inc_gang (s : State) (b : Blk) (f : Fld) : (s.inc b f).gang = s.gang := rfl
@[simp] theorem State.inc_pending (s : State) (b : Blk) (f : Fld) : (s.inc b f).pending = s.pending := rfl

@[simp] theorem State.setTw_regs (s : State) (t : Tbl) (sc i wd v : Nat) : (s.setTw t sc i wd v).regs = s.regs := rfl
@[simp] theorem State.setTw_views (s : State) (t : Tbl) (sc i wd v : Nat) : (s.setTw t sc i wd v).views = s.views := rfl
@[simp] theorem State.setTw_hbm (s : State) (t : Tbl) (sc i wd v : Nat) : (s.setTw t sc i wd v).hbm = s.hbm := rfl
@[simp] theorem State.setTw_arr (s : State) (t : Tbl) (sc i wd v : Nat) : (s.setTw t sc i wd v).arr = s.arr := rfl
@[simp] theorem State.setTw_vec (s : State) (t : Tbl) (sc i wd v : Nat) : (s.setTw t sc i wd v).vec = s.vec := rfl
@[simp] theorem State.setTw_host (s : State) (t : Tbl) (sc i wd v : Nat) : (s.setTw t sc i wd v).host = s.host := rfl
@[simp] theorem State.setTw_pins (s : State) (t : Tbl) (sc i wd v : Nat) : (s.setTw t sc i wd v).pins = s.pins := rfl
@[simp] theorem State.setTw_acts (s : State) (t : Tbl) (sc i wd v : Nat) : (s.setTw t sc i wd v).acts = s.acts := rfl
@[simp] theorem State.setTw_alarm (s : State) (t : Tbl) (sc i wd v : Nat) : (s.setTw t sc i wd v).alarm = s.alarm := rfl
@[simp] theorem State.setTw_jobs (s : State) (t : Tbl) (sc i wd v : Nat) : (s.setTw t sc i wd v).jobs = s.jobs := rfl
@[simp] theorem State.setTw_snaps (s : State) (t : Tbl) (sc i wd v : Nat) : (s.setTw t sc i wd v).snaps = s.snaps := rfl
@[simp] theorem State.setTw_out (s : State) (t : Tbl) (sc i wd v : Nat) : (s.setTw t sc i wd v).out = s.out := rfl
@[simp] theorem State.setTw_fresh (s : State) (t : Tbl) (sc i wd v : Nat) : (s.setTw t sc i wd v).fresh = s.fresh := rfl
@[simp] theorem State.setTw_mram (s : State) (t : Tbl) (sc i wd v : Nat) : (s.setTw t sc i wd v).mram = s.mram := rfl
@[simp] theorem State.setTw_boot (s : State) (t : Tbl) (sc i wd v : Nat) : (s.setTw t sc i wd v).boot = s.boot := rfl
@[simp] theorem State.setTw_sec (s : State) (t : Tbl) (sc i wd v : Nat) : (s.setTw t sc i wd v).sec = s.sec := rfl
@[simp] theorem State.setTw_dbg (s : State) (t : Tbl) (sc i wd v : Nat) : (s.setTw t sc i wd v).dbg = s.dbg := rfl
@[simp] theorem State.setTw_ccn (s : State) (t : Tbl) (sc i wd v : Nat) : (s.setTw t sc i wd v).ccn = s.ccn := rfl
@[simp] theorem State.setTw_hst (s : State) (t : Tbl) (sc i wd v : Nat) : (s.setTw t sc i wd v).hst = s.hst := rfl
@[simp] theorem State.setTw_sws (s : State) (t : Tbl) (sc i wd v : Nat) : (s.setTw t sc i wd v).sws = s.sws := rfl
@[simp] theorem State.setTw_swWaits (s : State) (t : Tbl) (sc i wd v : Nat) : (s.setTw t sc i wd v).swWaits = s.swWaits := rfl
@[simp] theorem State.setTw_caches (s : State) (t : Tbl) (sc i wd v : Nat) : (s.setTw t sc i wd v).caches = s.caches := rfl
@[simp] theorem State.setTw_swc (s : State) (t : Tbl) (sc i wd v : Nat) : (s.setTw t sc i wd v).swc = s.swc := rfl
@[simp] theorem State.setTw_lls (s : State) (t : Tbl) (sc i wd v : Nat) : (s.setTw t sc i wd v).lls = s.lls := rfl
@[simp] theorem State.setTw_cxs (s : State) (t : Tbl) (sc i wd v : Nat) : (s.setTw t sc i wd v).cxs = s.cxs := rfl
@[simp] theorem State.setTw_lrds (s : State) (t : Tbl) (sc i wd v : Nat) : (s.setTw t sc i wd v).lrds = s.lrds := rfl
@[simp] theorem State.setTw_rcxs (s : State) (t : Tbl) (sc i wd v : Nat) : (s.setTw t sc i wd v).rcxs = s.rcxs := rfl
@[simp] theorem State.setTw_engq (s : State) (t : Tbl) (sc i wd v : Nat) : (s.setTw t sc i wd v).engq = s.engq := rfl
@[simp] theorem State.setTw_mesh (s : State) (t : Tbl) (sc i wd v : Nat) : (s.setTw t sc i wd v).mesh = s.mesh := rfl
@[simp] theorem State.setTw_scs (s : State) (t : Tbl) (sc i wd v : Nat) : (s.setTw t sc i wd v).scs = s.scs := rfl
@[simp] theorem State.setTw_gang (s : State) (t : Tbl) (sc i wd v : Nat) : (s.setTw t sc i wd v).gang = s.gang := rfl
@[simp] theorem State.setTw_pending (s : State) (t : Tbl) (sc i wd v : Nat) : (s.setTw t sc i wd v).pending = s.pending := rfl

@[simp] theorem State.pt_regs (s : State) (t : Tbl) (sc i : Nat) (f : Fld) (v : Nat) : (s.pt t sc i f v).regs = s.regs := rfl
@[simp] theorem State.pt_views (s : State) (t : Tbl) (sc i : Nat) (f : Fld) (v : Nat) : (s.pt t sc i f v).views = s.views := rfl
@[simp] theorem State.pt_hbm (s : State) (t : Tbl) (sc i : Nat) (f : Fld) (v : Nat) : (s.pt t sc i f v).hbm = s.hbm := rfl
@[simp] theorem State.pt_arr (s : State) (t : Tbl) (sc i : Nat) (f : Fld) (v : Nat) : (s.pt t sc i f v).arr = s.arr := rfl
@[simp] theorem State.pt_vec (s : State) (t : Tbl) (sc i : Nat) (f : Fld) (v : Nat) : (s.pt t sc i f v).vec = s.vec := rfl
@[simp] theorem State.pt_host (s : State) (t : Tbl) (sc i : Nat) (f : Fld) (v : Nat) : (s.pt t sc i f v).host = s.host := rfl
@[simp] theorem State.pt_pins (s : State) (t : Tbl) (sc i : Nat) (f : Fld) (v : Nat) : (s.pt t sc i f v).pins = s.pins := rfl
@[simp] theorem State.pt_acts (s : State) (t : Tbl) (sc i : Nat) (f : Fld) (v : Nat) : (s.pt t sc i f v).acts = s.acts := rfl
@[simp] theorem State.pt_alarm (s : State) (t : Tbl) (sc i : Nat) (f : Fld) (v : Nat) : (s.pt t sc i f v).alarm = s.alarm := rfl
@[simp] theorem State.pt_jobs (s : State) (t : Tbl) (sc i : Nat) (f : Fld) (v : Nat) : (s.pt t sc i f v).jobs = s.jobs := rfl
@[simp] theorem State.pt_snaps (s : State) (t : Tbl) (sc i : Nat) (f : Fld) (v : Nat) : (s.pt t sc i f v).snaps = s.snaps := rfl
@[simp] theorem State.pt_out (s : State) (t : Tbl) (sc i : Nat) (f : Fld) (v : Nat) : (s.pt t sc i f v).out = s.out := rfl
@[simp] theorem State.pt_fresh (s : State) (t : Tbl) (sc i : Nat) (f : Fld) (v : Nat) : (s.pt t sc i f v).fresh = s.fresh := rfl
@[simp] theorem State.pt_mram (s : State) (t : Tbl) (sc i : Nat) (f : Fld) (v : Nat) : (s.pt t sc i f v).mram = s.mram := rfl
@[simp] theorem State.pt_boot (s : State) (t : Tbl) (sc i : Nat) (f : Fld) (v : Nat) : (s.pt t sc i f v).boot = s.boot := rfl
@[simp] theorem State.pt_sec (s : State) (t : Tbl) (sc i : Nat) (f : Fld) (v : Nat) : (s.pt t sc i f v).sec = s.sec := rfl
@[simp] theorem State.pt_dbg (s : State) (t : Tbl) (sc i : Nat) (f : Fld) (v : Nat) : (s.pt t sc i f v).dbg = s.dbg := rfl
@[simp] theorem State.pt_ccn (s : State) (t : Tbl) (sc i : Nat) (f : Fld) (v : Nat) : (s.pt t sc i f v).ccn = s.ccn := rfl
@[simp] theorem State.pt_hst (s : State) (t : Tbl) (sc i : Nat) (f : Fld) (v : Nat) : (s.pt t sc i f v).hst = s.hst := rfl
@[simp] theorem State.pt_sws (s : State) (t : Tbl) (sc i : Nat) (f : Fld) (v : Nat) : (s.pt t sc i f v).sws = s.sws := rfl
@[simp] theorem State.pt_swWaits (s : State) (t : Tbl) (sc i : Nat) (f : Fld) (v : Nat) : (s.pt t sc i f v).swWaits = s.swWaits := rfl
@[simp] theorem State.pt_caches (s : State) (t : Tbl) (sc i : Nat) (f : Fld) (v : Nat) : (s.pt t sc i f v).caches = s.caches := rfl
@[simp] theorem State.pt_swc (s : State) (t : Tbl) (sc i : Nat) (f : Fld) (v : Nat) : (s.pt t sc i f v).swc = s.swc := rfl
@[simp] theorem State.pt_lls (s : State) (t : Tbl) (sc i : Nat) (f : Fld) (v : Nat) : (s.pt t sc i f v).lls = s.lls := rfl
@[simp] theorem State.pt_cxs (s : State) (t : Tbl) (sc i : Nat) (f : Fld) (v : Nat) : (s.pt t sc i f v).cxs = s.cxs := rfl
@[simp] theorem State.pt_lrds (s : State) (t : Tbl) (sc i : Nat) (f : Fld) (v : Nat) : (s.pt t sc i f v).lrds = s.lrds := rfl
@[simp] theorem State.pt_rcxs (s : State) (t : Tbl) (sc i : Nat) (f : Fld) (v : Nat) : (s.pt t sc i f v).rcxs = s.rcxs := rfl
@[simp] theorem State.pt_engq (s : State) (t : Tbl) (sc i : Nat) (f : Fld) (v : Nat) : (s.pt t sc i f v).engq = s.engq := rfl
@[simp] theorem State.pt_mesh (s : State) (t : Tbl) (sc i : Nat) (f : Fld) (v : Nat) : (s.pt t sc i f v).mesh = s.mesh := rfl
@[simp] theorem State.pt_scs (s : State) (t : Tbl) (sc i : Nat) (f : Fld) (v : Nat) : (s.pt t sc i f v).scs = s.scs := rfl
@[simp] theorem State.pt_gang (s : State) (t : Tbl) (sc i : Nat) (f : Fld) (v : Nat) : (s.pt t sc i f v).gang = s.gang := rfl
@[simp] theorem State.pt_pending (s : State) (t : Tbl) (sc i : Nat) (f : Fld) (v : Nat) : (s.pt t sc i f v).pending = s.pending := rfl

@[simp] theorem State.setBusy_tabs (s : State) (b : Blk) (off : Nat) : (s.setBusy b off).tabs = s.tabs := rfl
@[simp] theorem State.setBusy_views (s : State) (b : Blk) (off : Nat) : (s.setBusy b off).views = s.views := rfl
@[simp] theorem State.setBusy_cow (s : State) (b : Blk) (off : Nat) : (s.setBusy b off).cow = s.cow := rfl
@[simp] theorem State.setBusy_hbm (s : State) (b : Blk) (off : Nat) : (s.setBusy b off).hbm = s.hbm := rfl
@[simp] theorem State.setBusy_arr (s : State) (b : Blk) (off : Nat) : (s.setBusy b off).arr = s.arr := rfl
@[simp] theorem State.setBusy_vec (s : State) (b : Blk) (off : Nat) : (s.setBusy b off).vec = s.vec := rfl
@[simp] theorem State.setBusy_host (s : State) (b : Blk) (off : Nat) : (s.setBusy b off).host = s.host := rfl
@[simp] theorem State.setBusy_pins (s : State) (b : Blk) (off : Nat) : (s.setBusy b off).pins = s.pins := rfl
@[simp] theorem State.setBusy_acts (s : State) (b : Blk) (off : Nat) : (s.setBusy b off).acts = s.acts := rfl
@[simp] theorem State.setBusy_alarm (s : State) (b : Blk) (off : Nat) : (s.setBusy b off).alarm = s.alarm := rfl
@[simp] theorem State.setBusy_jobs (s : State) (b : Blk) (off : Nat) : (s.setBusy b off).jobs = s.jobs := rfl
@[simp] theorem State.setBusy_snaps (s : State) (b : Blk) (off : Nat) : (s.setBusy b off).snaps = s.snaps := rfl
@[simp] theorem State.setBusy_out (s : State) (b : Blk) (off : Nat) : (s.setBusy b off).out = s.out := rfl
@[simp] theorem State.setBusy_fresh (s : State) (b : Blk) (off : Nat) : (s.setBusy b off).fresh = s.fresh := rfl
@[simp] theorem State.setBusy_mram (s : State) (b : Blk) (off : Nat) : (s.setBusy b off).mram = s.mram := rfl
@[simp] theorem State.setBusy_boot (s : State) (b : Blk) (off : Nat) : (s.setBusy b off).boot = s.boot := rfl
@[simp] theorem State.setBusy_sec (s : State) (b : Blk) (off : Nat) : (s.setBusy b off).sec = s.sec := rfl
@[simp] theorem State.setBusy_dbg (s : State) (b : Blk) (off : Nat) : (s.setBusy b off).dbg = s.dbg := rfl
@[simp] theorem State.setBusy_ccn (s : State) (b : Blk) (off : Nat) : (s.setBusy b off).ccn = s.ccn := rfl
@[simp] theorem State.setBusy_hst (s : State) (b : Blk) (off : Nat) : (s.setBusy b off).hst = s.hst := rfl
@[simp] theorem State.setBusy_sws (s : State) (b : Blk) (off : Nat) : (s.setBusy b off).sws = s.sws := rfl
@[simp] theorem State.setBusy_swWaits (s : State) (b : Blk) (off : Nat) : (s.setBusy b off).swWaits = s.swWaits := rfl
@[simp] theorem State.setBusy_caches (s : State) (b : Blk) (off : Nat) : (s.setBusy b off).caches = s.caches := rfl
@[simp] theorem State.setBusy_swc (s : State) (b : Blk) (off : Nat) : (s.setBusy b off).swc = s.swc := rfl
@[simp] theorem State.setBusy_lls (s : State) (b : Blk) (off : Nat) : (s.setBusy b off).lls = s.lls := rfl
@[simp] theorem State.setBusy_cxs (s : State) (b : Blk) (off : Nat) : (s.setBusy b off).cxs = s.cxs := rfl
@[simp] theorem State.setBusy_lrds (s : State) (b : Blk) (off : Nat) : (s.setBusy b off).lrds = s.lrds := rfl
@[simp] theorem State.setBusy_rcxs (s : State) (b : Blk) (off : Nat) : (s.setBusy b off).rcxs = s.rcxs := rfl
@[simp] theorem State.setBusy_engq (s : State) (b : Blk) (off : Nat) : (s.setBusy b off).engq = s.engq := rfl
@[simp] theorem State.setBusy_mesh (s : State) (b : Blk) (off : Nat) : (s.setBusy b off).mesh = s.mesh := rfl
@[simp] theorem State.setBusy_scs (s : State) (b : Blk) (off : Nat) : (s.setBusy b off).scs = s.scs := rfl
@[simp] theorem State.setBusy_gang (s : State) (b : Blk) (off : Nat) : (s.setBusy b off).gang = s.gang := rfl
@[simp] theorem State.setBusy_pending (s : State) (b : Blk) (off : Nat) : (s.setBusy b off).pending = s.pending := rfl

@[simp] theorem State.finish_tabs (s : State) (b : Blk) (off : Nat) (c : Code) : (s.finish b off c).tabs = s.tabs := by unfold State.finish; exact State.setReg_tabs _ _ _ _
@[simp] theorem State.finish_views (s : State) (b : Blk) (off : Nat) (c : Code) : (s.finish b off c).views = s.views := by unfold State.finish; exact State.setReg_views _ _ _ _
@[simp] theorem State.finish_cow (s : State) (b : Blk) (off : Nat) (c : Code) : (s.finish b off c).cow = s.cow := by unfold State.finish; exact State.setReg_cow _ _ _ _
@[simp] theorem State.finish_hbm (s : State) (b : Blk) (off : Nat) (c : Code) : (s.finish b off c).hbm = s.hbm := by unfold State.finish; exact State.setReg_hbm _ _ _ _
@[simp] theorem State.finish_arr (s : State) (b : Blk) (off : Nat) (c : Code) : (s.finish b off c).arr = s.arr := by unfold State.finish; exact State.setReg_arr _ _ _ _
@[simp] theorem State.finish_vec (s : State) (b : Blk) (off : Nat) (c : Code) : (s.finish b off c).vec = s.vec := by unfold State.finish; exact State.setReg_vec _ _ _ _
@[simp] theorem State.finish_host (s : State) (b : Blk) (off : Nat) (c : Code) : (s.finish b off c).host = s.host := by unfold State.finish; exact State.setReg_host _ _ _ _
@[simp] theorem State.finish_pins (s : State) (b : Blk) (off : Nat) (c : Code) : (s.finish b off c).pins = s.pins := by unfold State.finish; exact State.setReg_pins _ _ _ _
@[simp] theorem State.finish_acts (s : State) (b : Blk) (off : Nat) (c : Code) : (s.finish b off c).acts = s.acts := by unfold State.finish; exact State.setReg_acts _ _ _ _
@[simp] theorem State.finish_alarm (s : State) (b : Blk) (off : Nat) (c : Code) : (s.finish b off c).alarm = s.alarm := by unfold State.finish; exact State.setReg_alarm _ _ _ _
@[simp] theorem State.finish_jobs (s : State) (b : Blk) (off : Nat) (c : Code) : (s.finish b off c).jobs = s.jobs := by unfold State.finish; exact State.setReg_jobs _ _ _ _
@[simp] theorem State.finish_snaps (s : State) (b : Blk) (off : Nat) (c : Code) : (s.finish b off c).snaps = s.snaps := by unfold State.finish; exact State.setReg_snaps _ _ _ _
@[simp] theorem State.finish_out (s : State) (b : Blk) (off : Nat) (c : Code) : (s.finish b off c).out = s.out := by unfold State.finish; exact State.setReg_out _ _ _ _
@[simp] theorem State.finish_fresh (s : State) (b : Blk) (off : Nat) (c : Code) : (s.finish b off c).fresh = s.fresh := by unfold State.finish; exact State.setReg_fresh _ _ _ _
@[simp] theorem State.finish_mram (s : State) (b : Blk) (off : Nat) (c : Code) : (s.finish b off c).mram = s.mram := by unfold State.finish; exact State.setReg_mram _ _ _ _
@[simp] theorem State.finish_boot (s : State) (b : Blk) (off : Nat) (c : Code) : (s.finish b off c).boot = s.boot := by unfold State.finish; exact State.setReg_boot _ _ _ _
@[simp] theorem State.finish_sec (s : State) (b : Blk) (off : Nat) (c : Code) : (s.finish b off c).sec = s.sec := by unfold State.finish; exact State.setReg_sec _ _ _ _
@[simp] theorem State.finish_dbg (s : State) (b : Blk) (off : Nat) (c : Code) : (s.finish b off c).dbg = s.dbg := by unfold State.finish; exact State.setReg_dbg _ _ _ _
@[simp] theorem State.finish_ccn (s : State) (b : Blk) (off : Nat) (c : Code) : (s.finish b off c).ccn = s.ccn := by unfold State.finish; exact State.setReg_ccn _ _ _ _
@[simp] theorem State.finish_hst (s : State) (b : Blk) (off : Nat) (c : Code) : (s.finish b off c).hst = s.hst := by unfold State.finish; exact State.setReg_hst _ _ _ _
@[simp] theorem State.finish_sws (s : State) (b : Blk) (off : Nat) (c : Code) : (s.finish b off c).sws = s.sws := by unfold State.finish; exact State.setReg_sws _ _ _ _
@[simp] theorem State.finish_swWaits (s : State) (b : Blk) (off : Nat) (c : Code) : (s.finish b off c).swWaits = s.swWaits := by unfold State.finish; exact State.setReg_swWaits _ _ _ _
@[simp] theorem State.finish_caches (s : State) (b : Blk) (off : Nat) (c : Code) : (s.finish b off c).caches = s.caches := by unfold State.finish; exact State.setReg_caches _ _ _ _
@[simp] theorem State.finish_swc (s : State) (b : Blk) (off : Nat) (c : Code) : (s.finish b off c).swc = s.swc := by unfold State.finish; exact State.setReg_swc _ _ _ _
@[simp] theorem State.finish_lls (s : State) (b : Blk) (off : Nat) (c : Code) : (s.finish b off c).lls = s.lls := by unfold State.finish; exact State.setReg_lls _ _ _ _
@[simp] theorem State.finish_cxs (s : State) (b : Blk) (off : Nat) (c : Code) : (s.finish b off c).cxs = s.cxs := by unfold State.finish; exact State.setReg_cxs _ _ _ _
@[simp] theorem State.finish_lrds (s : State) (b : Blk) (off : Nat) (c : Code) : (s.finish b off c).lrds = s.lrds := by unfold State.finish; exact State.setReg_lrds _ _ _ _
@[simp] theorem State.finish_rcxs (s : State) (b : Blk) (off : Nat) (c : Code) : (s.finish b off c).rcxs = s.rcxs := by unfold State.finish; exact State.setReg_rcxs _ _ _ _
@[simp] theorem State.finish_engq (s : State) (b : Blk) (off : Nat) (c : Code) : (s.finish b off c).engq = s.engq := by unfold State.finish; exact State.setReg_engq _ _ _ _
@[simp] theorem State.finish_mesh (s : State) (b : Blk) (off : Nat) (c : Code) : (s.finish b off c).mesh = s.mesh := by unfold State.finish; exact State.setReg_mesh _ _ _ _
@[simp] theorem State.finish_scs (s : State) (b : Blk) (off : Nat) (c : Code) : (s.finish b off c).scs = s.scs := by unfold State.finish; exact State.setReg_scs _ _ _ _
@[simp] theorem State.finish_gang (s : State) (b : Blk) (off : Nat) (c : Code) : (s.finish b off c).gang = s.gang := by unfold State.finish; exact State.setReg_gang _ _ _ _
@[simp] theorem State.finish_pending (s : State) (b : Blk) (off : Nat) (c : Code) : (s.finish b off c).pending = s.pending := by unfold State.finish; exact State.setReg_pending _ _ _ _

@[simp] theorem State.addJob_regs (s : State) (j : Job) : (s.addJob j).regs = s.regs := rfl
@[simp] theorem State.addJob_tabs (s : State) (j : Job) : (s.addJob j).tabs = s.tabs := rfl
@[simp] theorem State.addJob_views (s : State) (j : Job) : (s.addJob j).views = s.views := rfl
@[simp] theorem State.addJob_cow (s : State) (j : Job) : (s.addJob j).cow = s.cow := rfl
@[simp] theorem State.addJob_hbm (s : State) (j : Job) : (s.addJob j).hbm = s.hbm := rfl
@[simp] theorem State.addJob_arr (s : State) (j : Job) : (s.addJob j).arr = s.arr := rfl
@[simp] theorem State.addJob_vec (s : State) (j : Job) : (s.addJob j).vec = s.vec := rfl
@[simp] theorem State.addJob_host (s : State) (j : Job) : (s.addJob j).host = s.host := rfl
@[simp] theorem State.addJob_pins (s : State) (j : Job) : (s.addJob j).pins = s.pins := rfl
@[simp] theorem State.addJob_acts (s : State) (j : Job) : (s.addJob j).acts = s.acts := rfl
@[simp] theorem State.addJob_alarm (s : State) (j : Job) : (s.addJob j).alarm = s.alarm := rfl
@[simp] theorem State.addJob_snaps (s : State) (j : Job) : (s.addJob j).snaps = s.snaps := rfl
@[simp] theorem State.addJob_out (s : State) (j : Job) : (s.addJob j).out = s.out := rfl
@[simp] theorem State.addJob_fresh (s : State) (j : Job) : (s.addJob j).fresh = s.fresh := rfl
@[simp] theorem State.addJob_mram (s : State) (j : Job) : (s.addJob j).mram = s.mram := rfl
@[simp] theorem State.addJob_boot (s : State) (j : Job) : (s.addJob j).boot = s.boot := rfl
@[simp] theorem State.addJob_sec (s : State) (j : Job) : (s.addJob j).sec = s.sec := rfl
@[simp] theorem State.addJob_dbg (s : State) (j : Job) : (s.addJob j).dbg = s.dbg := rfl
@[simp] theorem State.addJob_ccn (s : State) (j : Job) : (s.addJob j).ccn = s.ccn := rfl
@[simp] theorem State.addJob_hst (s : State) (j : Job) : (s.addJob j).hst = s.hst := rfl
@[simp] theorem State.addJob_sws (s : State) (j : Job) : (s.addJob j).sws = s.sws := rfl
@[simp] theorem State.addJob_swWaits (s : State) (j : Job) : (s.addJob j).swWaits = s.swWaits := rfl
@[simp] theorem State.addJob_caches (s : State) (j : Job) : (s.addJob j).caches = s.caches := rfl
@[simp] theorem State.addJob_swc (s : State) (j : Job) : (s.addJob j).swc = s.swc := rfl
@[simp] theorem State.addJob_lls (s : State) (j : Job) : (s.addJob j).lls = s.lls := rfl
@[simp] theorem State.addJob_cxs (s : State) (j : Job) : (s.addJob j).cxs = s.cxs := rfl
@[simp] theorem State.addJob_lrds (s : State) (j : Job) : (s.addJob j).lrds = s.lrds := rfl
@[simp] theorem State.addJob_rcxs (s : State) (j : Job) : (s.addJob j).rcxs = s.rcxs := rfl
@[simp] theorem State.addJob_engq (s : State) (j : Job) : (s.addJob j).engq = s.engq := rfl
@[simp] theorem State.addJob_mesh (s : State) (j : Job) : (s.addJob j).mesh = s.mesh := rfl
@[simp] theorem State.addJob_scs (s : State) (j : Job) : (s.addJob j).scs = s.scs := rfl
@[simp] theorem State.addJob_gang (s : State) (j : Job) : (s.addJob j).gang = s.gang := rfl
@[simp] theorem State.addJob_pending (s : State) (j : Job) : (s.addJob j).pending = s.pending := rfl

@[simp] theorem State.dropJob_regs (s : State) (k : JobKind) (pg off : Nat) : (s.dropJob k pg off).regs = s.regs := rfl
@[simp] theorem State.dropJob_tabs (s : State) (k : JobKind) (pg off : Nat) : (s.dropJob k pg off).tabs = s.tabs := rfl
@[simp] theorem State.dropJob_views (s : State) (k : JobKind) (pg off : Nat) : (s.dropJob k pg off).views = s.views := rfl
@[simp] theorem State.dropJob_cow (s : State) (k : JobKind) (pg off : Nat) : (s.dropJob k pg off).cow = s.cow := rfl
@[simp] theorem State.dropJob_hbm (s : State) (k : JobKind) (pg off : Nat) : (s.dropJob k pg off).hbm = s.hbm := rfl
@[simp] theorem State.dropJob_arr (s : State) (k : JobKind) (pg off : Nat) : (s.dropJob k pg off).arr = s.arr := rfl
@[simp] theorem State.dropJob_vec (s : State) (k : JobKind) (pg off : Nat) : (s.dropJob k pg off).vec = s.vec := rfl
@[simp] theorem State.dropJob_host (s : State) (k : JobKind) (pg off : Nat) : (s.dropJob k pg off).host = s.host := rfl
@[simp] theorem State.dropJob_pins (s : State) (k : JobKind) (pg off : Nat) : (s.dropJob k pg off).pins = s.pins := rfl
@[simp] theorem State.dropJob_acts (s : State) (k : JobKind) (pg off : Nat) : (s.dropJob k pg off).acts = s.acts := rfl
@[simp] theorem State.dropJob_alarm (s : State) (k : JobKind) (pg off : Nat) : (s.dropJob k pg off).alarm = s.alarm := rfl
@[simp] theorem State.dropJob_snaps (s : State) (k : JobKind) (pg off : Nat) : (s.dropJob k pg off).snaps = s.snaps := rfl
@[simp] theorem State.dropJob_out (s : State) (k : JobKind) (pg off : Nat) : (s.dropJob k pg off).out = s.out := rfl
@[simp] theorem State.dropJob_fresh (s : State) (k : JobKind) (pg off : Nat) : (s.dropJob k pg off).fresh = s.fresh := rfl
@[simp] theorem State.dropJob_mram (s : State) (k : JobKind) (pg off : Nat) : (s.dropJob k pg off).mram = s.mram := rfl
@[simp] theorem State.dropJob_boot (s : State) (k : JobKind) (pg off : Nat) : (s.dropJob k pg off).boot = s.boot := rfl
@[simp] theorem State.dropJob_sec (s : State) (k : JobKind) (pg off : Nat) : (s.dropJob k pg off).sec = s.sec := rfl
@[simp] theorem State.dropJob_dbg (s : State) (k : JobKind) (pg off : Nat) : (s.dropJob k pg off).dbg = s.dbg := rfl
@[simp] theorem State.dropJob_ccn (s : State) (k : JobKind) (pg off : Nat) : (s.dropJob k pg off).ccn = s.ccn := rfl
@[simp] theorem State.dropJob_hst (s : State) (k : JobKind) (pg off : Nat) : (s.dropJob k pg off).hst = s.hst := rfl
@[simp] theorem State.dropJob_sws (s : State) (k : JobKind) (pg off : Nat) : (s.dropJob k pg off).sws = s.sws := rfl
@[simp] theorem State.dropJob_swWaits (s : State) (k : JobKind) (pg off : Nat) : (s.dropJob k pg off).swWaits = s.swWaits := rfl
@[simp] theorem State.dropJob_caches (s : State) (k : JobKind) (pg off : Nat) : (s.dropJob k pg off).caches = s.caches := rfl
@[simp] theorem State.dropJob_swc (s : State) (k : JobKind) (pg off : Nat) : (s.dropJob k pg off).swc = s.swc := rfl
@[simp] theorem State.dropJob_lls (s : State) (k : JobKind) (pg off : Nat) : (s.dropJob k pg off).lls = s.lls := rfl
@[simp] theorem State.dropJob_cxs (s : State) (k : JobKind) (pg off : Nat) : (s.dropJob k pg off).cxs = s.cxs := rfl
@[simp] theorem State.dropJob_lrds (s : State) (k : JobKind) (pg off : Nat) : (s.dropJob k pg off).lrds = s.lrds := rfl
@[simp] theorem State.dropJob_rcxs (s : State) (k : JobKind) (pg off : Nat) : (s.dropJob k pg off).rcxs = s.rcxs := rfl
@[simp] theorem State.dropJob_engq (s : State) (k : JobKind) (pg off : Nat) : (s.dropJob k pg off).engq = s.engq := rfl
@[simp] theorem State.dropJob_mesh (s : State) (k : JobKind) (pg off : Nat) : (s.dropJob k pg off).mesh = s.mesh := rfl
@[simp] theorem State.dropJob_scs (s : State) (k : JobKind) (pg off : Nat) : (s.dropJob k pg off).scs = s.scs := rfl
@[simp] theorem State.dropJob_gang (s : State) (k : JobKind) (pg off : Nat) : (s.dropJob k pg off).gang = s.gang := rfl
@[simp] theorem State.dropJob_pending (s : State) (k : JobKind) (pg off : Nat) : (s.dropJob k pg off).pending = s.pending := rfl

@[simp] theorem State.setCcn_regs (s : State) (c : CcnSt) : (s.setCcn c).regs = s.regs := rfl
@[simp] theorem State.setCcn_tabs (s : State) (c : CcnSt) : (s.setCcn c).tabs = s.tabs := rfl
@[simp] theorem State.setCcn_views (s : State) (c : CcnSt) : (s.setCcn c).views = s.views := rfl
@[simp] theorem State.setCcn_cow (s : State) (c : CcnSt) : (s.setCcn c).cow = s.cow := rfl
@[simp] theorem State.setCcn_hbm (s : State) (c : CcnSt) : (s.setCcn c).hbm = s.hbm := rfl
@[simp] theorem State.setCcn_arr (s : State) (c : CcnSt) : (s.setCcn c).arr = s.arr := rfl
@[simp] theorem State.setCcn_vec (s : State) (c : CcnSt) : (s.setCcn c).vec = s.vec := rfl
@[simp] theorem State.setCcn_host (s : State) (c : CcnSt) : (s.setCcn c).host = s.host := rfl
@[simp] theorem State.setCcn_pins (s : State) (c : CcnSt) : (s.setCcn c).pins = s.pins := rfl
@[simp] theorem State.setCcn_acts (s : State) (c : CcnSt) : (s.setCcn c).acts = s.acts := rfl
@[simp] theorem State.setCcn_alarm (s : State) (c : CcnSt) : (s.setCcn c).alarm = s.alarm := rfl
@[simp] theorem State.setCcn_jobs (s : State) (c : CcnSt) : (s.setCcn c).jobs = s.jobs := rfl
@[simp] theorem State.setCcn_snaps (s : State) (c : CcnSt) : (s.setCcn c).snaps = s.snaps := rfl
@[simp] theorem State.setCcn_out (s : State) (c : CcnSt) : (s.setCcn c).out = s.out := rfl
@[simp] theorem State.setCcn_fresh (s : State) (c : CcnSt) : (s.setCcn c).fresh = s.fresh := rfl
@[simp] theorem State.setCcn_mram (s : State) (c : CcnSt) : (s.setCcn c).mram = s.mram := rfl
@[simp] theorem State.setCcn_boot (s : State) (c : CcnSt) : (s.setCcn c).boot = s.boot := rfl
@[simp] theorem State.setCcn_sec (s : State) (c : CcnSt) : (s.setCcn c).sec = s.sec := rfl
@[simp] theorem State.setCcn_dbg (s : State) (c : CcnSt) : (s.setCcn c).dbg = s.dbg := rfl
@[simp] theorem State.setCcn_hst (s : State) (c : CcnSt) : (s.setCcn c).hst = s.hst := rfl
@[simp] theorem State.setCcn_sws (s : State) (c : CcnSt) : (s.setCcn c).sws = s.sws := rfl
@[simp] theorem State.setCcn_swWaits (s : State) (c : CcnSt) : (s.setCcn c).swWaits = s.swWaits := rfl
@[simp] theorem State.setCcn_caches (s : State) (c : CcnSt) : (s.setCcn c).caches = s.caches := rfl
@[simp] theorem State.setCcn_swc (s : State) (c : CcnSt) : (s.setCcn c).swc = s.swc := rfl
@[simp] theorem State.setCcn_lls (s : State) (c : CcnSt) : (s.setCcn c).lls = s.lls := rfl
@[simp] theorem State.setCcn_cxs (s : State) (c : CcnSt) : (s.setCcn c).cxs = s.cxs := rfl
@[simp] theorem State.setCcn_lrds (s : State) (c : CcnSt) : (s.setCcn c).lrds = s.lrds := rfl
@[simp] theorem State.setCcn_rcxs (s : State) (c : CcnSt) : (s.setCcn c).rcxs = s.rcxs := rfl
@[simp] theorem State.setCcn_engq (s : State) (c : CcnSt) : (s.setCcn c).engq = s.engq := rfl
@[simp] theorem State.setCcn_mesh (s : State) (c : CcnSt) : (s.setCcn c).mesh = s.mesh := rfl
@[simp] theorem State.setCcn_scs (s : State) (c : CcnSt) : (s.setCcn c).scs = s.scs := rfl
@[simp] theorem State.setCcn_gang (s : State) (c : CcnSt) : (s.setCcn c).gang = s.gang := rfl
@[simp] theorem State.setCcn_pending (s : State) (c : CcnSt) : (s.setCcn c).pending = s.pending := rfl

@[simp] theorem State.emit_regs (s : State) (ch : Chan) (tag : Nat) (ns : List Nat) (bs : List Byte) : (s.emit ch tag ns bs).regs = s.regs := by unfold State.emit; split <;> rfl
@[simp] theorem State.emit_tabs (s : State) (ch : Chan) (tag : Nat) (ns : List Nat) (bs : List Byte) : (s.emit ch tag ns bs).tabs = s.tabs := by unfold State.emit; split <;> rfl
@[simp] theorem State.emit_views (s : State) (ch : Chan) (tag : Nat) (ns : List Nat) (bs : List Byte) : (s.emit ch tag ns bs).views = s.views := by unfold State.emit; split <;> rfl
@[simp] theorem State.emit_cow (s : State) (ch : Chan) (tag : Nat) (ns : List Nat) (bs : List Byte) : (s.emit ch tag ns bs).cow = s.cow := by unfold State.emit; split <;> rfl
@[simp] theorem State.emit_hbm (s : State) (ch : Chan) (tag : Nat) (ns : List Nat) (bs : List Byte) : (s.emit ch tag ns bs).hbm = s.hbm := by unfold State.emit; split <;> rfl
@[simp] theorem State.emit_arr (s : State) (ch : Chan) (tag : Nat) (ns : List Nat) (bs : List Byte) : (s.emit ch tag ns bs).arr = s.arr := by unfold State.emit; split <;> rfl
@[simp] theorem State.emit_vec (s : State) (ch : Chan) (tag : Nat) (ns : List Nat) (bs : List Byte) : (s.emit ch tag ns bs).vec = s.vec := by unfold State.emit; split <;> rfl
@[simp] theorem State.emit_host (s : State) (ch : Chan) (tag : Nat) (ns : List Nat) (bs : List Byte) : (s.emit ch tag ns bs).host = s.host := by unfold State.emit; split <;> rfl
@[simp] theorem State.emit_pins (s : State) (ch : Chan) (tag : Nat) (ns : List Nat) (bs : List Byte) : (s.emit ch tag ns bs).pins = s.pins := by unfold State.emit; split <;> rfl
@[simp] theorem State.emit_acts (s : State) (ch : Chan) (tag : Nat) (ns : List Nat) (bs : List Byte) : (s.emit ch tag ns bs).acts = s.acts := by unfold State.emit; split <;> rfl
@[simp] theorem State.emit_alarm (s : State) (ch : Chan) (tag : Nat) (ns : List Nat) (bs : List Byte) : (s.emit ch tag ns bs).alarm = s.alarm := by unfold State.emit; split <;> rfl
@[simp] theorem State.emit_jobs (s : State) (ch : Chan) (tag : Nat) (ns : List Nat) (bs : List Byte) : (s.emit ch tag ns bs).jobs = s.jobs := by unfold State.emit; split <;> rfl
@[simp] theorem State.emit_snaps (s : State) (ch : Chan) (tag : Nat) (ns : List Nat) (bs : List Byte) : (s.emit ch tag ns bs).snaps = s.snaps := by unfold State.emit; split <;> rfl
@[simp] theorem State.emit_fresh (s : State) (ch : Chan) (tag : Nat) (ns : List Nat) (bs : List Byte) : (s.emit ch tag ns bs).fresh = s.fresh := by unfold State.emit; split <;> rfl
@[simp] theorem State.emit_mram (s : State) (ch : Chan) (tag : Nat) (ns : List Nat) (bs : List Byte) : (s.emit ch tag ns bs).mram = s.mram := by unfold State.emit; split <;> rfl
@[simp] theorem State.emit_boot (s : State) (ch : Chan) (tag : Nat) (ns : List Nat) (bs : List Byte) : (s.emit ch tag ns bs).boot = s.boot := by unfold State.emit; split <;> rfl
@[simp] theorem State.emit_sec (s : State) (ch : Chan) (tag : Nat) (ns : List Nat) (bs : List Byte) : (s.emit ch tag ns bs).sec = s.sec := by unfold State.emit; split <;> rfl
@[simp] theorem State.emit_dbg (s : State) (ch : Chan) (tag : Nat) (ns : List Nat) (bs : List Byte) : (s.emit ch tag ns bs).dbg = s.dbg := by unfold State.emit; split <;> rfl
@[simp] theorem State.emit_ccn (s : State) (ch : Chan) (tag : Nat) (ns : List Nat) (bs : List Byte) : (s.emit ch tag ns bs).ccn = s.ccn := by unfold State.emit; split <;> rfl
@[simp] theorem State.emit_hst (s : State) (ch : Chan) (tag : Nat) (ns : List Nat) (bs : List Byte) : (s.emit ch tag ns bs).hst = s.hst := by unfold State.emit; split <;> rfl
@[simp] theorem State.emit_sws (s : State) (ch : Chan) (tag : Nat) (ns : List Nat) (bs : List Byte) : (s.emit ch tag ns bs).sws = s.sws := by unfold State.emit; split <;> rfl
@[simp] theorem State.emit_swWaits (s : State) (ch : Chan) (tag : Nat) (ns : List Nat) (bs : List Byte) : (s.emit ch tag ns bs).swWaits = s.swWaits := by unfold State.emit; split <;> rfl
@[simp] theorem State.emit_caches (s : State) (ch : Chan) (tag : Nat) (ns : List Nat) (bs : List Byte) : (s.emit ch tag ns bs).caches = s.caches := by unfold State.emit; split <;> rfl
@[simp] theorem State.emit_swc (s : State) (ch : Chan) (tag : Nat) (ns : List Nat) (bs : List Byte) : (s.emit ch tag ns bs).swc = s.swc := by unfold State.emit; split <;> rfl
@[simp] theorem State.emit_lls (s : State) (ch : Chan) (tag : Nat) (ns : List Nat) (bs : List Byte) : (s.emit ch tag ns bs).lls = s.lls := by unfold State.emit; split <;> rfl
@[simp] theorem State.emit_cxs (s : State) (ch : Chan) (tag : Nat) (ns : List Nat) (bs : List Byte) : (s.emit ch tag ns bs).cxs = s.cxs := by unfold State.emit; split <;> rfl
@[simp] theorem State.emit_lrds (s : State) (ch : Chan) (tag : Nat) (ns : List Nat) (bs : List Byte) : (s.emit ch tag ns bs).lrds = s.lrds := by unfold State.emit; split <;> rfl
@[simp] theorem State.emit_rcxs (s : State) (ch : Chan) (tag : Nat) (ns : List Nat) (bs : List Byte) : (s.emit ch tag ns bs).rcxs = s.rcxs := by unfold State.emit; split <;> rfl
@[simp] theorem State.emit_engq (s : State) (ch : Chan) (tag : Nat) (ns : List Nat) (bs : List Byte) : (s.emit ch tag ns bs).engq = s.engq := by unfold State.emit; split <;> rfl
@[simp] theorem State.emit_mesh (s : State) (ch : Chan) (tag : Nat) (ns : List Nat) (bs : List Byte) : (s.emit ch tag ns bs).mesh = s.mesh := by unfold State.emit; split <;> rfl
@[simp] theorem State.emit_scs (s : State) (ch : Chan) (tag : Nat) (ns : List Nat) (bs : List Byte) : (s.emit ch tag ns bs).scs = s.scs := by unfold State.emit; split <;> rfl
@[simp] theorem State.emit_gang (s : State) (ch : Chan) (tag : Nat) (ns : List Nat) (bs : List Byte) : (s.emit ch tag ns bs).gang = s.gang := by unfold State.emit; split <;> rfl
@[simp] theorem State.emit_pending (s : State) (ch : Chan) (tag : Nat) (ns : List Nat) (bs : List Byte) : (s.emit ch tag ns bs).pending = s.pending := by unfold State.emit; split <;> rfl

end Sys2Proof.Machine
end

