-- ==== Sys2Proof/Laws/Errors.lean ====
section
/-! SUPPORT. What an event of a class and a refusal do: the error record of their page, and nothing else. -/
namespace Sys2Proof.Machine

/-- A counter raised keeps the canonical form. -/
theorem wf_inc {s : State} (h : s.Wf) (b : Blk) (f : Fld) : (s.inc b f).Wf := by
  unfold State.inc State.add
  exact wf_p h _ _ _

/-- A counter raised leaves every other register alone. -/
theorem reg_inc_other {s : State} (h : s.Wf) (b c : Blk) (f : Fld) (o : Nat)
    (hk : regKey c.page o ≠ regKey b.page f.off) : (s.inc b f).reg c o = s.reg c o := by
  unfold State.inc State.add
  exact reg_p_other h _ _ _ _ _ hk

/-- The registers of a page that an event of a class writes. -/
def errRegs (k : Cls) : List Nat := [0xA0, 0x28, 0x740 + 8 * (k.bit / 16), 0x1000, 0x758]

/-- The offsets of the registers of a class's record. -/
theorem errRegs_off (k : Cls) : errRegs k = [ERR_EVENTS_count.off, ERR_STATUS_local.off, 0x740 + 8 * (k.bit / 16),
    H_FORCED_bits.off, 0x758] := rfl

theorem setErrLast_reg {s : State} (h : s.Wf) (b c : Blk) (k l : Nat) (f : Option Nat) (o : Nat)
    (ho : regKey c.page o ≠ regKey b.page 0x758) : (s.setErrLast b k l f).reg c o = s.reg c o := by
  unfold State.setErrLast
  rw [reg_setReg h, if_neg ho]

theorem setErrLast_wf {s : State} (h : s.Wf) (b : Blk) (k l : Nat) (f : Option Nat) : (s.setErrLast b k l f).Wf := by
  unfold State.setErrLast
  exact wf_setReg h _ _ _

theorem setClsLevel_reg {s : State} (h : s.Wf) (b c : Blk) (k l : Nat) (e : Bool) (o : Nat)
    (ho : regKey c.page o ≠ regKey b.page (0x740 + 8 * (k / 16))) : (s.setClsLevel b k l e).reg c o = s.reg c o := by
  unfold State.setClsLevel
  exact reg_p_other h _ _ _ _ _ ho

theorem setClsLevel_wf {s : State} (h : s.Wf) (b : Blk) (k l : Nat) (e : Bool) : (s.setClsLevel b k l e).Wf := by
  unfold State.setClsLevel
  exact wf_p h _ _ _

theorem owe_reg (s : State) (b c : Blk) (k l : Nat) (x y : Bool) (o : Nat) : (s.owe b k l x y).reg c o = s.reg c o := by
  unfold State.owe
  split <;> rfl

theorem owe_wf {s : State} (h : s.Wf) (b : Blk) (k l : Nat) (x y : Bool) : (s.owe b k l x y).Wf := by
  unfold State.owe
  split
  · exact ⟨h.regs, h.tabs, h.hbm, h.arr, h.vec, h.host⟩
  · exact h

/-- The state with a change of level to be told. -/
theorem alarm_reg (s : State) (c : Blk) (o : Nat) : State.reg { s with alarm := true } c o = s.reg c o := rfl

theorem alarm_wf {s : State} (h : s.Wf) : State.Wf { s with alarm := true } :=
  ⟨h.regs, h.tabs, h.hbm, h.arr, h.vec, h.host⟩

/-- An event of a class writes nothing but the error record of its page, and keeps the canonical form. -/
theorem raiseBy_reg {s : State} (h : s.Wf) (b c : Blk) (k : Cls) (f : Option Nat) (o : Nat)
    (ho : ∀ x ∈ errRegs k, regKey c.page o ≠ regKey b.page x) :
    (s.raiseBy b k f).reg c o = s.reg c o ∧ (s.raiseBy b k f).Wf := by
  rw [errRegs_off] at ho
  simp only [List.mem_cons, List.not_mem_nil, or_false, forall_eq_or_imp, forall_eq] at ho
  obtain ⟨h1, h2, h3, h4, h5⟩ := ho
  have w0 := alarm_wf (wf_inc h b ERR_EVENTS_count)
  have r0 := (alarm_reg (s.inc b ERR_EVENTS_count) c o).trans (reg_inc_other h b c ERR_EVENTS_count o h1)
  unfold State.raiseBy
  generalize ({ s.inc b ERR_EVENTS_count with alarm := true } : State) = u at w0 r0
  simp only
  split
  · have w1 := wf_p w0 b ⟨ERR_STATUS_local.off, k.bit, 1⟩ 1
    have r1 := reg_p_other w0 b c ⟨ERR_STATUS_local.off, k.bit, 1⟩ o 1 h2
    have w2 := setClsLevel_wf w1 b k.bit k.level false
    have r2 := setClsLevel_reg w1 b c k.bit k.level false o h3
    have w3 := wf_p w2 b ⟨H_FORCED_bits.off, k.bit, 1⟩ (b2n f.isSome)
    have r3 := reg_p_other w2 b c ⟨H_FORCED_bits.off, k.bit, 1⟩ o (b2n f.isSome) h4
    have w4 := setErrLast_wf w3 b k.bit k.level f
    have r4 := setErrLast_reg w3 b c k.bit k.level f o h5
    split
    · exact ⟨by rw [r4, r3, r2, r1, r0], w4⟩
    · exact ⟨by rw [owe_reg, r4, r3, r2, r1, r0], owe_wf w4 _ _ _ _ _⟩
  · split
    · have w1 := setClsLevel_wf w0 b k.bit (min 5 (u.clsLevel b k.bit + 1)) true
      have r1 := setClsLevel_reg w0 b c k.bit (min 5 (u.clsLevel b k.bit + 1)) true o h3
      split
      · have w2 := wf_p w1 b ⟨H_FORCED_bits.off, k.bit, 1⟩ 1
        have r2 := reg_p_other w1 b c ⟨H_FORCED_bits.off, k.bit, 1⟩ o 1 h4
        exact ⟨by rw [owe_reg, setErrLast_reg w2 _ _ _ _ _ _ h5, r2, r1, r0], owe_wf (setErrLast_wf w2 _ _ _ _) _ _ _ _ _⟩
      · exact ⟨by rw [owe_reg, setErrLast_reg w1 _ _ _ _ _ _ h5, r1, r0], owe_wf (setErrLast_wf w1 _ _ _ _) _ _ _ _ _⟩
    · exact ⟨r0, w0⟩

/-- A refusal on a page leaves its requester, register and code in LAST_REFUSAL, counts, and touches no register beside
those and the error record (R483). -/
theorem refuse_reg {s : State} (h : s.Wf) (m : Nat) (b c : Blk) (off : Nat) (k : Code) (o : Nat)
    (ho : ∀ x ∈ 0x80 :: 0x88 :: errRegs cCMD_REFUSED, regKey c.page o ≠ regKey b.page x) :
    (s.refuse m b off k).reg c o = s.reg c o := by
  rw [List.forall_mem_cons, List.forall_mem_cons] at ho
  have w1 := wf_inc h b REFUSED_CMDS_count
  refine (raiseBy_reg (wf_setReg w1 _ _ _) b c _ none o ho.2.2).1.trans ?_
  rw [reg_setReg w1, if_neg ho.2.1]
  exact reg_inc_other h b c REFUSED_CMDS_count o ho.1

theorem refuse_last {s : State} (h : s.Wf) (m : Nat) (b : Blk) (off : Nat) (k : Code) :
    (s.refuse m b off k).g b LAST_REFUSAL_code = k.val ∧
      (s.refuse m b off k).g b REFUSED_CMDS_count = min (s.g b REFUSED_CMDS_count + 1) (2 ^ 64 - 1) := by
  have w1 := wf_inc h b REFUSED_CMDS_count
  have key : ∀ o, o = 0x80 ∨ o = 0x88 → ∀ x ∈ errRegs cCMD_REFUSED, regKey b.page o ≠ regKey b.page x := by
    intro o ho x hx
    simp only [errRegs, List.mem_cons, List.not_mem_nil, or_false, cCMD_REFUSED] at hx
    unfold regKey
    omega
  constructor
  · unfold State.g
    rw [show LAST_REFUSAL_code.off = 0x88 from rfl]
    rw [show (s.refuse m b off k).reg b 0x88 = _ from (raiseBy_reg (wf_setReg w1 _ _ _) b b _ none 0x88 (key _ (.inr rfl))).1]
    rw [reg_setReg_same w1]
    have : k.val < 256 := by cases k <;> decide
    unfold bits
    simp only [show LAST_REFUSAL_code.lo = 0 from rfl, show LAST_REFUSAL_code.w = 8 from rfl]
    omega
  · unfold State.g
    rw [show REFUSED_CMDS_count.off = 0x80 from rfl]
    rw [show (s.refuse m b off k).reg b 0x80 = _ from (raiseBy_reg (wf_setReg w1 _ _ _) b b _ none 0x80 (key _ (.inl rfl))).1]
    rw [reg_setReg w1, if_neg (by unfold regKey; omega)]
    exact g_inc_same h b REFUSED_CMDS_count (by decide)

/-! ## What an event leaves alone -/

/-- Two states that agree in everything but the registers, the level actions owed and the notice of a change of level. -/
def RegsOnly (s t : State) : Prop := ∃ r a l, t = { s with regs := r, acts := a, alarm := l }

theorem RegsOnly.refl (s : State) : RegsOnly s s := ⟨s.regs, s.acts, s.alarm, rfl⟩

theorem RegsOnly.trans {s t u : State} (h : RegsOnly s t) (k : RegsOnly t u) : RegsOnly s u := by
  obtain ⟨r, a, l, rfl⟩ := h
  obtain ⟨r', a', l', rfl⟩ := k
  exact ⟨r', a', l', rfl⟩

theorem setReg_regsOnly (s : State) (b : Blk) (off v : Nat) : RegsOnly s (s.setReg b off v) := ⟨_, s.acts, s.alarm, rfl⟩

theorem p_regsOnly (s : State) (b : Blk) (f : Fld) (v : Nat) : RegsOnly s (s.p b f v) := setReg_regsOnly s b _ _

theorem inc_regsOnly (s : State) (b : Blk) (f : Fld) : RegsOnly s (s.inc b f) := by
  unfold State.inc State.add
  exact p_regsOnly s b _ _

theorem setClsLevel_regsOnly (s : State) (b : Blk) (c l : Nat) (e : Bool) : RegsOnly s (s.setClsLevel b c l e) := by
  unfold State.setClsLevel
  exact p_regsOnly s b _ _

theorem setErrLast_regsOnly (s : State) (b : Blk) (c l : Nat) (f : Option Nat) : RegsOnly s (s.setErrLast b c l f) := by
  unfold State.setErrLast
  exact setReg_regsOnly s b _ _

theorem owe_regsOnly (s : State) (b : Blk) (c l : Nat) (x y : Bool) : RegsOnly s (s.owe b c l x y) := by
  unfold State.owe
  split
  · exact ⟨s.regs, _, s.alarm, rfl⟩
  · exact .refl s

theorem alarm_regsOnly (s : State) : RegsOnly s { s with alarm := true } := ⟨s.regs, s.acts, _, rfl⟩

/-- An event of a class changes registers alone, beside the level action that it owes (R411). -/
theorem raiseBy_regsOnly (s : State) (b : Blk) (k : Cls) (f : Option Nat) : RegsOnly s (s.raiseBy b k f) := by
  have r0 := (inc_regsOnly s b ERR_EVENTS_count).trans (alarm_regsOnly _)
  unfold State.raiseBy
  generalize ({ s.inc b ERR_EVENTS_count with alarm := true } : State) = u at r0
  simp only
  split
  · have r := (((r0.trans (p_regsOnly _ b ⟨ERR_STATUS_local.off, k.bit, 1⟩ 1)).trans
      (setClsLevel_regsOnly _ b k.bit k.level false)).trans (p_regsOnly _ b ⟨H_FORCED_bits.off, k.bit, 1⟩ (b2n f.isSome))).trans
      (setErrLast_regsOnly _ b k.bit k.level f)
    split
    · exact r
    · exact r.trans (owe_regsOnly _ _ _ _ _ _)
  · split
    · have r := r0.trans (setClsLevel_regsOnly _ b k.bit (min 5 (u.clsLevel b k.bit + 1)) true)
      split
      · exact ((r.trans (p_regsOnly _ _ _ _)).trans (setErrLast_regsOnly _ _ _ _ _)).trans (owe_regsOnly _ _ _ _ _ _)
      · exact (r.trans (setErrLast_regsOnly _ _ _ _ _)).trans (owe_regsOnly _ _ _ _ _ _)
    · exact r0

/-- A refusal changes registers alone, beside what its class owes (R483). -/
theorem refuse_regsOnly (s : State) (m : Nat) (b : Blk) (off : Nat) (k : Code) : RegsOnly s (s.refuse m b off k) := by
  unfold State.refuse State.raise
  exact ((inc_regsOnly s b REFUSED_CMDS_count).trans (setReg_regsOnly _ _ _ _)).trans (raiseBy_regsOnly _ _ _ _)

/-- A denied write changes registers alone, beside what its class owes (R39). -/
theorem denyWrite_regsOnly (s : State) (m : Nat) (b : Blk) (off : Nat) : RegsOnly s (s.denyWrite m b off) := by
  unfold State.denyWrite
  exact (inc_regsOnly s b DENIED_ACCESSES_count).trans (refuse_regsOnly _ _ _ _ _)

end Sys2Proof.Machine
end

