-- ==== Sys2Proof/Laws/Exec.lean ====
section
/-! SUPPORT. Each arm of the dispatch as an equation, so that no proof unfolds the dispatch itself. -/

namespace Sys2Proof.Machine

@[simp] theorem exec_registerWrite (m : Mst) (bar : BitVec 3) (addr : BitVec 26) (len : BitVec 4) (v : Word) (s : State) :
    exec (.registerWrite m bar addr len v) s = execRegisterWrite m bar addr len v s := rfl
@[simp] theorem exec_ctrlEnable (m : Mst) (pg : Pg) (v : Word) (s : State) :
    exec (.ctrlEnable m pg v) s = execCtrlEnable m pg v s := rfl
@[simp] theorem exec_ctrlQuiesce (m : Mst) (pg : Pg) (v : Word) (s : State) :
    exec (.ctrlQuiesce m pg v) s = execCtrlQuiesce m pg v s := rfl
@[simp] theorem exec_ctrlFreeze (m : Mst) (pg : Pg) (v : Word) (s : State) :
    exec (.ctrlFreeze m pg v) s = execCtrlFreeze m pg v s := rfl
@[simp] theorem exec_ctrlEvacuate (m : Mst) (pg : Pg) (v : Word) (s : State) :
    exec (.ctrlEvacuate m pg v) s = execCtrlEvacuate m pg v s := rfl
@[simp] theorem exec_ctrlReset (m : Mst) (pg : Pg) (v : Word) (s : State) :
    exec (.ctrlReset m pg v) s = execCtrlReset m pg v s := rfl
@[simp] theorem exec_trainingDone (pg : Pg) (s : State) : exec (.trainingDone pg) s = execTrainingDone pg s := rfl
@[simp] theorem exec_quiesceDrainDone (pg : Pg) (s : State) :
    exec (.quiesceDrainDone pg) s = execQuiesceDrainDone pg s := rfl
@[simp] theorem exec_captureMarker (pg : Pg) (s : State) : exec (.captureMarker pg) s = execCaptureMarker pg s := rfl
@[simp] theorem exec_freezeCaptureDone (pg : Pg) (s : State) :
    exec (.freezeCaptureDone pg) s = execFreezeCaptureDone pg s := rfl
@[simp] theorem exec_snapTake (m : Mst) (pg : Pg) (v : Word) (s : State) :
    exec (.snapTake m pg v) s = execSnapTake m pg v s := rfl
@[simp] theorem exec_snapWriteoutDone (pg : Pg) (s : State) :
    exec (.snapWriteoutDone pg) s = execSnapWriteoutDone pg s := rfl
@[simp] theorem exec_pageNoAnswer (m : Mst) (pg : Pg) (s : State) :
    exec (.pageNoAnswer m pg) s = execPageNoAnswer m pg s := rfl
@[simp] theorem exec_errForce (m : Mst) (pg : Pg) (v : Word) (s : State) :
    exec (.errForce m pg v) s = execErrForce m pg v s := rfl
@[simp] theorem exec_errAck (m : Mst) (pg : Pg) (v : Word) (s : State) :
    exec (.errAck m pg v) s = execErrAck m pg v s := rfl
@[simp] theorem exec_errorEvent (pg : Pg) (cls : BitVec 6) (arg : Word) (s : State) :
    exec (.errorEvent pg cls arg) s = execErrorEvent pg cls arg s := rfl
@[simp] theorem exec_fltAckBelow (m : Mst) (pg : Pg) (v : Word) (s : State) :
    exec (.fltAckBelow m pg v) s = execFltAckBelow m pg v s := rfl
@[simp] theorem exec_pinMismatch (pg : Pg) (child : BitVec 9) (s : State) :
    exec (.pinMismatch pg child) s = execPinMismatch pg child s := rfl
@[simp] theorem exec_lostMsTick (k : DieNo) (s : State) : exec (.lostMsTick k) s = execLostMsTick k s := rfl
@[simp] theorem exec_lnkGrpCfgWrite (m : Mst) (pg : Pg) (v : Word) (s : State) :
    exec (.lnkGrpCfgWrite m pg v) s = execLnkGrpCfgWrite m pg v s := rfl
@[simp] theorem exec_lanePower (m : Mst) (pg : Pg) (v : Word) (s : State) :
    exec (.lanePower m pg v) s = execLanePower m pg v s := rfl
@[simp] theorem exec_laneCtrlRetrain (m : Mst) (pg : Pg) (v : Word) (s : State) :
    exec (.laneCtrlRetrain m pg v) s = execLaneCtrlRetrain m pg v s := rfl
@[simp] theorem exec_clrCounters (m : Mst) (pg : Pg) (v : Word) (s : State) :
    exec (.clrCounters m pg v) s = execClrCounters m pg v s := rfl
@[simp] theorem exec_spareRequest (m : Mst) (pg : Pg) (v : Word) (s : State) :
    exec (.spareRequest m pg v) s = execSpareRequest m pg v s := rfl
@[simp] theorem exec_spareRevert (m : Mst) (pg : Pg) (v : Word) (s : State) :
    exec (.spareRevert m pg v) s = execSpareRevert m pg v s := rfl
@[simp] theorem exec_spareRequestDequeue (k : DieNo) (s : State) :
    exec (.spareRequestDequeue k) s = execSpareRequestDequeue k s := rfl
@[simp] theorem exec_prbsCtrlWrite (m : Mst) (pg : Pg) (v : Word) (s : State) :
    exec (.prbsCtrlWrite m pg v) s = execPrbsCtrlWrite m pg v s := rfl
@[simp] theorem exec_detectRetry (port : PortNo) (s : State) :
    exec (.detectRetry port) s = execDetectRetry port s := rfl
@[simp] theorem exec_partnerDetected (port : PortNo) (an : BitVec 4) (s : State) :
    exec (.partnerDetected port an) s = execPartnerDetected port an s := rfl
@[simp] theorem exec_trainDone (port : PortNo) (s : State) : exec (.trainDone port) s = execTrainDone port s := rfl
@[simp] theorem exec_trainTimeout (port : PortNo) (s : State) :
    exec (.trainTimeout port) s = execTrainTimeout port s := rfl
@[simp] theorem exec_lockDone (port : PortNo) (s : State) : exec (.lockDone port) s = execLockDone port s := rfl
@[simp] theorem exec_lockTimeout (port : PortNo) (s : State) :
    exec (.lockTimeout port) s = execLockTimeout port s := rfl
@[simp] theorem exec_capability (port : PortNo) (msg : CapMsg) (s : State) :
    exec (.capability port msg) s = execCapability port msg s := rfl
@[simp] theorem exec_capexResend (port : PortNo) (s : State) :
    exec (.capexResend port) s = execCapexResend port s := rfl
@[simp] theorem exec_addrRecheck (g : GroupNo) (s : State) : exec (.addrRecheck g) s = execAddrRecheck g s := rfl
@[simp] theorem exec_retrain (port : PortNo) (s : State) : exec (.retrain port) s = execRetrain port s := rfl
@[simp] theorem exec_laneLockLost (k : DieNo) (n : LaneNo) (s : State) :
    exec (.laneLockLost k n) s = execLaneLockLost k n s := rfl
@[simp] theorem exec_sparePolicyWindow (k : DieNo) (n : LaneNo) (s : State) :
    exec (.sparePolicyWindow k n) s = execSparePolicyWindow k n s := rfl
@[simp] theorem exec_sparePrepare (port : PortNo) (idx : BitVec 3) (j : BitVec 2) (s : State) :
    exec (.sparePrepare port idx j) s = execSparePrepare port idx j s := rfl
@[simp] theorem exec_spareTrainDone (k : DieNo) (s : State) : exec (.spareTrainDone k) s = execSpareTrainDone k s := rfl
@[simp] theorem exec_spareTrainFail (k : DieNo) (s : State) : exec (.spareTrainFail k) s = execSpareTrainFail k s := rfl
@[simp] theorem exec_spareSwitch (port : PortNo) (idx : BitVec 3) (j : BitVec 2) (sw : BitVec 32) (s : State) :
    exec (.spareSwitch port idx j sw) s = execSpareSwitch port idx j sw s := rfl
@[simp] theorem exec_spareAck (port : PortNo) (idx : BitVec 3) (j : BitVec 2) (sw : BitVec 32) (s : State) :
    exec (.spareAck port idx j sw) s = execSpareAck port idx j sw s := rfl
@[simp] theorem exec_spareSwitchover (k : DieNo) (s : State) :
    exec (.spareSwitchover k) s = execSpareSwitchover k s := rfl
@[simp] theorem exec_refclkLost (k : DieNo) (s : State) : exec (.refclkLost k) s = execRefclkLost k s := rfl
@[simp] theorem exec_refclkRestored (k : DieNo) (s : State) : exec (.refclkRestored k) s = execRefclkRestored k s := rfl
@[simp] theorem exec_dataCodeword (k : DieNo) (n : LaneNo) (side : Line) (body : Line) (parity : Line) (s : State) :
    exec (.dataCodeword k n side body parity) s = execDataCodeword k n side body parity s := rfl
@[simp] theorem exec_codewordTx (k : DieNo) (n : LaneNo) (s : State) :
    exec (.codewordTx k n) s = execCodewordTx k n s := rfl
@[simp] theorem exec_flitRx (port : PortNo) (f : Flit) (s : State) :
    exec (.flitRx port f) s = execFlitRx port f s := rfl
@[simp] theorem exec_sidebandRx (port : PortNo) (w : BitVec 32) (s : State) :
    exec (.sidebandRx port w) s = execSidebandRx port w s := rfl
@[simp] theorem exec_nakRx (port : PortNo) (ack : BitVec 16) (s : State) :
    exec (.nakRx port ack) s = execNakRx port ack s := rfl
@[simp] theorem exec_nakRepeat (port : PortNo) (s : State) : exec (.nakRepeat port) s = execNakRepeat port s := rfl
@[simp] theorem exec_flitTx (port : PortNo) (s : State) : exec (.flitTx port) s = execFlitTx port s := rfl
@[simp] theorem exec_ctxOpen (m : Mst) (t : TileNo) (v : Word) (s : State) :
    exec (.ctxOpen m t v) s = execCtxOpen m t v s := rfl
@[simp] theorem exec_ctxClose (m : Mst) (t : TileNo) (v : Word) (s : State) :
    exec (.ctxClose m t v) s = execCtxClose m t v s := rfl
@[simp] theorem exec_ctxReset (m : Mst) (t : TileNo) (v : Word) (s : State) :
    exec (.ctxReset m t v) s = execCtxReset m t v s := rfl
@[simp] theorem exec_ctxEntryWrite (m : Mst) (t : TileNo) (v : Word) (s : State) :
    exec (.ctxEntryWrite m t v) s = execCtxEntryWrite m t v s := rfl
@[simp] theorem exec_localPut (g : GroupNo) (c : LocalCmd) (s : State) :
    exec (.localPut g c) s = execLocalPut g c s := rfl
@[simp] theorem exec_localGet (g : GroupNo) (c : LocalCmd) (s : State) :
    exec (.localGet g c) s = execLocalGet g c s := rfl
@[simp] theorem exec_localSend (g : GroupNo) (c : LocalCmd) (s : State) :
    exec (.localSend g c) s = execLocalSend g c s := rfl
@[simp] theorem exec_localAtomic (g : GroupNo) (c : LocalCmd) (s : State) :
    exec (.localAtomic g c) s = execLocalAtomic g c s := rfl
@[simp] theorem exec_localRecvPost (g : GroupNo) (c : LocalCmd) (s : State) :
    exec (.localRecvPost g c) s = execLocalRecvPost g c s := rfl
@[simp] theorem exec_ctxQueueIssue (c : CtxNo) (s : State) : exec (.ctxQueueIssue c) s = execCtxQueueIssue c s := rfl
@[simp] theorem exec_localRdData (g : GroupNo) (tag : BitVec 32) (data : List Byte) (s : State) :
    exec (.localRdData g tag data) s = execLocalRdData g tag data s := rfl
@[simp] theorem exec_txPacketSend (c : CtxNo) (s : State) : exec (.txPacketSend c) s = execTxPacketSend c s := rfl
@[simp] theorem exec_put (t : TileNo) (p : TPkt) (s : State) : exec (.put t p) s = execPut t p s := rfl
@[simp] theorem exec_getReq (t : TileNo) (p : TPkt) (s : State) : exec (.getReq t p) s = execGetReq t p s := rfl
@[simp] theorem exec_getResp (t : TileNo) (p : TPkt) (s : State) : exec (.getResp t p) s = execGetResp t p s := rfl
@[simp] theorem exec_send (t : TileNo) (p : TPkt) (s : State) : exec (.send t p) s = execSend t p s := rfl
@[simp] theorem exec_atomicAdd (t : TileNo) (p : TPkt) (s : State) :
    exec (.atomicAdd t p) s = execAtomicAdd t p s := rfl
@[simp] theorem exec_atomicResp (t : TileNo) (p : TPkt) (s : State) :
    exec (.atomicResp t p) s = execAtomicResp t p s := rfl
@[simp] theorem exec_ack (t : TileNo) (p : TPkt) (s : State) : exec (.ack t p) s = execAck t p s := rfl
@[simp] theorem exec_ackTimer (c : CtxNo) (s : State) : exec (.ackTimer c) s = execAckTimer c s := rfl
@[simp] theorem exec_localCpl (c : CtxNo) (s : State) : exec (.localCpl c) s = execLocalCpl c s := rfl
@[simp] theorem exec_retxTimeout (c : CtxNo) (psn : BitVec 32) (s : State) :
    exec (.retxTimeout c psn) s = execRetxTimeout c psn s := rfl
@[simp] theorem exec_noResourceRetry (c : CtxNo) (psn : BitVec 32) (s : State) :
    exec (.noResourceRetry c psn) s = execNoResourceRetry c psn s := rfl
@[simp] theorem exec_pathHoldExpiry (t : TileNo) (path : BitVec 20) (s : State) :
    exec (.pathHoldExpiry t path) s = execPathHoldExpiry t path s := rfl
@[simp] theorem exec_frameIngress (port : PortNo) (f : Frame) (s : State) :
    exec (.frameIngress port f) s = execFrameIngress port f s := rfl
@[simp] theorem exec_admitRetry (port : PortNo) (vc : BitVec 3) (s : State) :
    exec (.admitRetry port vc) s = execAdmitRetry port vc s := rfl
@[simp] theorem exec_xbarSlot (last : TileNo) (s : State) : exec (.xbarSlot last) s = execXbarSlot last s := rfl
@[simp] theorem exec_ethRelease (port : PortNo) (s : State) : exec (.ethRelease port) s = execEthRelease port s := rfl
@[simp] theorem exec_egressSelect (port : PortNo) (s : State) :
    exec (.egressSelect port) s = execEgressSelect port s := rfl
@[simp] theorem exec_ageOscTick (d : BaseNo) (s : State) : exec (.ageOscTick d) s = execAgeOscTick d s := rfl
@[simp] theorem exec_l3Slot (a : L3In) (s : State) : exec (.l3Slot a) s = execL3Slot a s := rfl
@[simp] theorem exec_l3ReseqGiveup (t : TileNo) (s : State) : exec (.l3ReseqGiveup t) s = execL3ReseqGiveup t s := rfl
@[simp] theorem exec_tblCmdRead (m : Mst) (t : TileNo) (v : Word) (s : State) :
    exec (.tblCmdRead m t v) s = execTblCmdRead m t v s := rfl
@[simp] theorem exec_tblCmdWrite (m : Mst) (t : TileNo) (v : Word) (s : State) :
    exec (.tblCmdWrite m t v) s = execTblCmdWrite m t v s := rfl
@[simp] theorem exec_tblCmdInsert (m : Mst) (t : TileNo) (v : Word) (s : State) :
    exec (.tblCmdInsert m t v) s = execTblCmdInsert m t v s := rfl
@[simp] theorem exec_tblCmdDelete (m : Mst) (t : TileNo) (v : Word) (s : State) :
    exec (.tblCmdDelete m t v) s = execTblCmdDelete m t v s := rfl
@[simp] theorem exec_tblCmdFind (m : Mst) (t : TileNo) (v : Word) (s : State) :
    exec (.tblCmdFind m t v) s = execTblCmdFind m t v s := rfl
@[simp] theorem exec_tblCmdDone (t : TileNo) (s : State) : exec (.tblCmdDone t) s = execTblCmdDone t s := rfl
@[simp] theorem exec_slotLagWindow (s : State) : exec (.slotLagWindow) s = execSlotLagWindow s := rfl
@[simp] theorem exec_evacStartQueued (s : State) : exec (.evacStartQueued) s = execEvacStartQueued s := rfl
@[simp] theorem exec_evacDrainEnd (t : TileNo) (expired : Bool) (s : State) :
    exec (.evacDrainEnd t expired) s = execEvacDrainEnd t expired s := rfl
@[simp] theorem exec_evacRenumber (s : State) : exec (.evacRenumber) s = execEvacRenumber s := rfl
@[simp] theorem exec_memberRejoin (t : TileNo) (s : State) : exec (.memberRejoin t) s = execMemberRejoin t s := rfl
@[simp] theorem exec_limitEntryWrite (m : Mst) (pg : Pg) (v : Word) (s : State) :
    exec (.limitEntryWrite m pg v) s = execLimitEntryWrite m pg v s := rfl
@[simp] theorem exec_spillReadback (d : BaseNo) (acct : BitVec 12) (s : State) :
    exec (.spillReadback d acct) s = execSpillReadback d acct s := rfl
@[simp] theorem exec_spillReadDone (d : BaseNo) (acct : BitVec 12) (uncorr : Bool) (s : State) :
    exec (.spillReadDone d acct uncorr) s = execSpillReadDone d acct uncorr s := rfl
@[simp] theorem exec_alloc (m : Mst) (pg : Pg) (v : Word) (s : State) :
    exec (.alloc m pg v) s = execAlloc m pg v s := rfl
@[simp] theorem exec_free (m : Mst) (pg : Pg) (v : Word) (s : State) : exec (.free m pg v) s = execFree m pg v s := rfl
@[simp] theorem exec_poolAllocReq (d : BaseNo) (src : BitVec 4) (size : BitVec 32) (s : State) :
    exec (.poolAllocReq d src size) s = execPoolAllocReq d src size s := rfl
@[simp] theorem exec_poolFreeReq (d : BaseNo) (src : BitVec 4) (addr : BitVec 52) (s : State) :
    exec (.poolFreeReq d src addr) s = execPoolFreeReq d src addr s := rfl
@[simp] theorem exec_poolCacheRefill (d : BaseNo) (pool : BitVec 3) (s : State) :
    exec (.poolCacheRefill d pool) s = execPoolCacheRefill d pool s := rfl
@[simp] theorem exec_poolCacheReturn (d : BaseNo) (pool : BitVec 3) (s : State) :
    exec (.poolCacheReturn d pool) s = execPoolCacheReturn d pool s := rfl
@[simp] theorem exec_poolInitDone (d : BaseNo) (s : State) : exec (.poolInitDone d) s = execPoolInitDone d s := rfl
@[simp] theorem exec_clsEntryWrite (m : Mst) (pg : Pg) (v : Word) (s : State) :
    exec (.clsEntryWrite m pg v) s = execClsEntryWrite m pg v s := rfl
@[simp] theorem exec_pfcRx (port : PortNo) (bytes : List Byte) (s : State) :
    exec (.pfcRx port bytes) s = execPfcRx port bytes s := rfl
@[simp] theorem exec_pfcPauseExpiry (port : PortNo) (vc : BitVec 3) (s : State) :
    exec (.pfcPauseExpiry port vc) s = execPfcPauseExpiry port vc s := rfl
@[simp] theorem exec_pfcRefresh (port : PortNo) (vc : BitVec 3) (s : State) :
    exec (.pfcRefresh port vc) s = execPfcRefresh port vc s := rfl
@[simp] theorem exec_tokenAccrual (t : TileNo) (cycles : BitVec 32) (s : State) :
    exec (.tokenAccrual t cycles) s = execTokenAccrual t cycles s := rfl
@[simp] theorem exec_check (m : Mst) (v : Word) (s : State) : exec (.check m v) s = execCheck m v s := rfl
@[simp] theorem exec_load (m : Mst) (v : Word) (s : State) : exec (.load m v) s = execLoad m v s := rfl
@[simp] theorem exec_routeLoadDone (s : State) : exec (.routeLoadDone) s = execRouteLoadDone s := rfl
@[simp] theorem exec_dlScan (d : BaseNo) (s : State) : exec (.dlScan d) s = execDlScan d s := rfl
@[simp] theorem exec_dlRecover (port : PortNo) (vc : BitVec 3) (s : State) :
    exec (.dlRecover port vc) s = execDlRecover port vc s := rfl
@[simp] theorem exec_dlHoldExpiry (port : PortNo) (vc : BitVec 3) (s : State) :
    exec (.dlHoldExpiry port vc) s = execDlHoldExpiry port vc s := rfl
@[simp] theorem exec_dlClear (m : Mst) (v : Word) (s : State) : exec (.dlClear m v) s = execDlClear m v s := rfl
@[simp] theorem exec_meshMcForward (h : MeshHead) (s : State) : exec (.meshMcForward h) s = execMeshMcForward h s := rfl
@[simp] theorem exec_rdxAdmit (m : Mst) (n : EngNo) (v : Word) (s : State) :
    exec (.rdxAdmit m n v) s = execRdxAdmit m n v s := rfl
@[simp] theorem exec_retire (m : Mst) (n : EngNo) (v : Word) (s : State) :
    exec (.retire m n v) s = execRetire m n v s := rfl
@[simp] theorem exec_rdxReset (m : Mst) (n : EngNo) (v : Word) (s : State) :
    exec (.rdxReset m n v) s = execRdxReset m n v s := rfl
@[simp] theorem exec_save (m : Mst) (n : EngNo) (v : Word) (s : State) : exec (.save m n v) s = execSave m n v s := rfl
@[simp] theorem exec_restore (m : Mst) (n : EngNo) (v : Word) (s : State) :
    exec (.restore m n v) s = execRestore m n v s := rfl
@[simp] theorem exec_rdxCmdDone (n : EngNo) (s : State) : exec (.rdxCmdDone n) s = execRdxCmdDone n s := rfl
@[simp] theorem exec_collContrib (port : PortNo) (p : CPkt) (s : State) :
    exec (.collContrib port p) s = execCollContrib port p s := rfl
@[simp] theorem exec_claim (c : CtxNo) (s : State) : exec (.claim c) s = execClaim c s := rfl
@[simp] theorem exec_claimGrant (c : CtxNo) (s : State) : exec (.claimGrant c) s = execClaimGrant c s := rfl
@[simp] theorem exec_engineAccumulate (n : EngNo) (s : State) :
    exec (.engineAccumulate n) s = execEngineAccumulate n s := rfl
@[simp] theorem exec_lineRelease (c : CtxNo) (line : BitVec 64) (s : State) :
    exec (.lineRelease c line) s = execLineRelease c line s := rfl
@[simp] theorem exec_epilogue (c : CtxNo) (line : BitVec 64) (s : State) :
    exec (.epilogue c line) s = execEpilogue c line s := rfl
@[simp] theorem exec_resultSend (c : CtxNo) (s : State) : exec (.resultSend c) s = execResultSend c s := rfl
@[simp] theorem exec_collPartial (port : PortNo) (p : CPkt) (s : State) :
    exec (.collPartial port p) s = execCollPartial port p s := rfl
@[simp] theorem exec_collResult (port : PortNo) (p : CPkt) (s : State) :
    exec (.collResult port p) s = execCollResult port p s := rfl
@[simp] theorem exec_collSmall (port : PortNo) (p : CPkt) (s : State) :
    exec (.collSmall port p) s = execCollSmall port p s := rfl
@[simp] theorem exec_scOpen (m : Mst) (v : Word) (s : State) : exec (.scOpen m v) s = execScOpen m v s := rfl
@[simp] theorem exec_scClose (m : Mst) (v : Word) (s : State) : exec (.scClose m v) s = execScClose m v s := rfl
@[simp] theorem exec_signal (src : Mst) (counter : BitVec 16) (epoch : BitVec 16) (amount : BitVec 32) (s : State) :
    exec (.signal src counter epoch amount) s = execSignal src counter epoch amount s := rfl
@[simp] theorem exec_synSignal (m : Mst) (v : Word) (s : State) : exec (.synSignal m v) s = execSynSignal m v s := rfl
@[simp] theorem exec_clear (m : Mst) (v : Word) (s : State) : exec (.clear m v) s = execClear m v s := rfl
@[simp] theorem exec_flagSet (m : Mst) (v : Word) (s : State) : exec (.flagSet m v) s = execFlagSet m v s := rfl
@[simp] theorem exec_flagClr (m : Mst) (v : Word) (s : State) : exec (.flagClr m v) s = execFlagClr m v s := rfl
@[simp] theorem exec_watchArm (m : Mst) (v : Word) (s : State) : exec (.watchArm m v) s = execWatchArm m v s := rfl
@[simp] theorem exec_watchCancel (m : Mst) (v : Word) (s : State) :
    exec (.watchCancel m v) s = execWatchCancel m v s := rfl
@[simp] theorem exec_barArm (m : Mst) (v : Word) (s : State) : exec (.barArm m v) s = execBarArm m v s := rfl
@[simp] theorem exec_barDisarm (m : Mst) (v : Word) (s : State) : exec (.barDisarm m v) s = execBarDisarm m v s := rfl
@[simp] theorem exec_synTblWrite (m : Mst) (v : Word) (s : State) :
    exec (.synTblWrite m v) s = execSynTblWrite m v s := rfl
@[simp] theorem exec_waitScan (s : State) : exec (.waitScan) s = execWaitScan s := rfl
@[simp] theorem exec_waitClear (m : Mst) (v : Word) (s : State) : exec (.waitClear m v) s = execWaitClear m v s := rfl
@[simp] theorem exec_start (m : Mst) (v : Word) (s : State) : exec (.start m v) s = execStart m v s := rfl
@[simp] theorem exec_pause (m : Mst) (v : Word) (s : State) : exec (.pause m v) s = execPause m v s := rfl
@[simp] theorem exec_resume (m : Mst) (v : Word) (s : State) : exec (.resume m v) s = execResume m v s := rfl
@[simp] theorem exec_stop (m : Mst) (v : Word) (s : State) : exec (.stop m v) s = execStop m v s := rfl
@[simp] theorem exec_pauseTakesEffect (p : PartNo) (l : ListNo) (s : State) :
    exec (.pauseTakesEffect p l) s = execPauseTakesEffect p l s := rfl
@[simp] theorem exec_gangSchedule (cls : BitVec 2) (s : State) :
    exec (.gangSchedule cls) s = execGangSchedule cls s := rfl
@[simp] theorem exec_halt (p : PartNo) (l : ListNo) (s : State) : exec (.halt p l) s = execHalt p l s := rfl
@[simp] theorem exec_ldw (p : PartNo) (l : ListNo) (s : State) : exec (.ldw p l) s = execLdw p l s := rfl
@[simp] theorem exec_stw (p : PartNo) (l : ListNo) (s : State) : exec (.stw p l) s = execStw p l s := rfl
@[simp] theorem exec_mm (p : PartNo) (l : ListNo) (s : State) : exec (.mm p l) s = execMm p l s := rfl
@[simp] theorem exec_mmtDx (p : PartNo) (l : ListNo) (s : State) : exec (.mmtDx p l) s = execMmtDx p l s := rfl
@[simp] theorem exec_mmtDw (p : PartNo) (l : ListNo) (s : State) : exec (.mmtDw p l) s = execMmtDw p l s := rfl
@[simp] theorem exec_epi (p : PartNo) (l : ListNo) (s : State) : exec (.epi p l) s = execEpi p l s := rfl
@[simp] theorem exec_cvt (p : PartNo) (l : ListNo) (s : State) : exec (.cvt p l) s = execCvt p l s := rfl
@[simp] theorem exec_rdxOp (p : PartNo) (l : ListNo) (s : State) : exec (.rdxOp p l) s = execRdxOp p l s := rfl
@[simp] theorem exec_snd (p : PartNo) (l : ListNo) (s : State) : exec (.snd p l) s = execSnd p l s := rfl
@[simp] theorem exec_rcvPostWait (p : PartNo) (l : ListNo) (s : State) :
    exec (.rcvPostWait p l) s = execRcvPostWait p l s := rfl
@[simp] theorem exec_rcvPost (p : PartNo) (l : ListNo) (s : State) : exec (.rcvPost p l) s = execRcvPost p l s := rfl
@[simp] theorem exec_rcvFirst (p : PartNo) (l : ListNo) (s : State) : exec (.rcvFirst p l) s = execRcvFirst p l s := rfl
@[simp] theorem exec_waitCounter (p : PartNo) (l : ListNo) (s : State) :
    exec (.waitCounter p l) s = execWaitCounter p l s := rfl
@[simp] theorem exec_waitFlag (p : PartNo) (l : ListNo) (s : State) : exec (.waitFlag p l) s = execWaitFlag p l s := rfl
@[simp] theorem exec_gangWatchMessage (w : Arming) (code : BitVec 8) (value : Word) (s : State) :
    exec (.gangWatchMessage w code value) s = execGangWatchMessage w code value s := rfl
@[simp] theorem exec_sigAdd (p : PartNo) (l : ListNo) (s : State) : exec (.sigAdd p l) s = execSigAdd p l s := rfl
@[simp] theorem exec_sigSet (p : PartNo) (l : ListNo) (s : State) : exec (.sigSet p l) s = execSigSet p l s := rfl
@[simp] theorem exec_sigClr (p : PartNo) (l : ListNo) (s : State) : exec (.sigClr p l) s = execSigClr p l s := rfl
@[simp] theorem exec_cntFetch (p : PartNo) (l : ListNo) (s : State) : exec (.cntFetch p l) s = execCntFetch p l s := rfl
@[simp] theorem exec_cntCounts (p : PartNo) (l : ListNo) (s : State) :
    exec (.cntCounts p l) s = execCntCounts p l s := rfl
@[simp] theorem exec_digTree (p : PartNo) (l : ListNo) (s : State) : exec (.digTree p l) s = execDigTree p l s := rfl
@[simp] theorem exec_digAudit (p : PartNo) (l : ListNo) (s : State) : exec (.digAudit p l) s = execDigAudit p l s := rfl
@[simp] theorem exec_smpSeeded (p : PartNo) (l : ListNo) (s : State) :
    exec (.smpSeeded p l) s = execSmpSeeded p l s := rfl
@[simp] theorem exec_smpEntropy (p : PartNo) (l : ListNo) (s : State) :
    exec (.smpEntropy p l) s = execSmpEntropy p l s := rfl
@[simp] theorem exec_gangOpDone (p : PartNo) (l : ListNo) (s : State) :
    exec (.gangOpDone p l) s = execGangOpDone p l s := rfl
@[simp] theorem exec_cplRingResume (p : PartNo) (l : ListNo) (s : State) :
    exec (.cplRingResume p l) s = execCplRingResume p l s := rfl
@[simp] theorem exec_arrayLagWindow (s : State) : exec (.arrayLagWindow) s = execArrayLagWindow s := rfl
@[simp] theorem exec_releaseRetention (m : Mst) (v : Word) (s : State) :
    exec (.releaseRetention m v) s = execReleaseRetention m v s := rfl
@[simp] theorem exec_clearGrad (m : Mst) (v : Word) (s : State) : exec (.clearGrad m v) s = execClearGrad m v s := rfl
@[simp] theorem exec_trainEntryWrite (m : Mst) (v : Word) (s : State) :
    exec (.trainEntryWrite m v) s = execTrainEntryWrite m v s := rfl
@[simp] theorem exec_partitionEntryWrite (m : Mst) (v : Word) (s : State) :
    exec (.partitionEntryWrite m v) s = execPartitionEntryWrite m v s := rfl
@[simp] theorem exec_stageMonWindow (pg : Pg) (count : BitVec 32) (s : State) :
    exec (.stageMonWindow pg count) s = execStageMonWindow pg count s := rfl
@[simp] theorem exec_realign (m : Mst) (pg : Pg) (v : Word) (s : State) :
    exec (.realign m pg v) s = execRealign m pg v s := rfl
@[simp] theorem exec_xingSlip (pg : Pg) (s : State) : exec (.xingSlip pg) s = execXingSlip pg s := rfl
@[simp] theorem exec_xingAlignFail (pg : Pg) (s : State) : exec (.xingAlignFail pg) s = execXingAlignFail pg s := rfl
@[simp] theorem exec_create (m : Mst) (slot : ChrSlot) (v : Word) (s : State) :
    exec (.create m slot v) s = execCreate m slot v s := rfl
@[simp] theorem exec_assign (m : Mst) (slot : ChrSlot) (v : Word) (s : State) :
    exec (.assign m slot v) s = execAssign m slot v s := rfl
@[simp] theorem exec_unassign (m : Mst) (slot : ChrSlot) (v : Word) (s : State) :
    exec (.unassign m slot v) s = execUnassign m slot v s := rfl
@[simp] theorem exec_partitionReset (m : Mst) (slot : ChrSlot) (v : Word) (s : State) :
    exec (.partitionReset m slot v) s = execPartitionReset m slot v s := rfl
@[simp] theorem exec_release (m : Mst) (slot : ChrSlot) (v : Word) (s : State) :
    exec (.release m slot v) s = execRelease m slot v s := rfl
@[simp] theorem exec_regionZeroed (r : BitVec 10) (ok : Bool) (s : State) :
    exec (.regionZeroed r ok) s = execRegionZeroed r ok s := rfl
@[simp] theorem exec_setRegion (m : Mst) (slot : ChrSlot) (v : Word) (s : State) :
    exec (.setRegion m slot v) s = execSetRegion m slot v s := rfl
@[simp] theorem exec_setAcl (m : Mst) (slot : ChrSlot) (v : Word) (s : State) :
    exec (.setAcl m slot v) s = execSetAcl m slot v s := rfl
@[simp] theorem exec_keyImport (m : Mst) (slot : ChrSlot) (v : Word) (s : State) :
    exec (.keyImport m slot v) s = execKeyImport m slot v s := rfl
@[simp] theorem exec_unwrap (m : Mst) (slot : ChrSlot) (v : Word) (s : State) :
    exec (.unwrap m slot v) s = execUnwrap m slot v s := rfl
@[simp] theorem exec_attest (m : Mst) (slot : ChrSlot) (v : Word) (s : State) :
    exec (.attest m slot v) s = execAttest m slot v s := rfl
@[simp] theorem exec_claimOwner (m : Mst) (slot : ChrSlot) (v : Word) (s : State) :
    exec (.claimOwner m slot v) s = execClaimOwner m slot v s := rfl
@[simp] theorem exec_lifecycle (m : Mst) (slot : ChrSlot) (v : Word) (s : State) :
    exec (.lifecycle m slot v) s = execLifecycle m slot v s := rfl
@[simp] theorem exec_chrChallenge (m : Mst) (slot : ChrSlot) (v : Word) (s : State) :
    exec (.chrChallenge m slot v) s = execChrChallenge m slot v s := rfl
@[simp] theorem exec_putCert (m : Mst) (slot : ChrSlot) (v : Word) (s : State) :
    exec (.putCert m slot v) s = execPutCert m slot v s := rfl
@[simp] theorem exec_chrCmdDone (engine : BitVec 2) (s : State) :
    exec (.chrCmdDone engine) s = execChrCmdDone engine s := rfl
@[simp] theorem exec_entropyFail (s : State) : exec (.entropyFail) s = execEntropyFail s := rfl
@[simp] theorem exec_tapInstruction (ir : Byte) (s : State) :
    exec (.tapInstruction ir) s = execTapInstruction ir s := rfl
@[simp] theorem exec_tapReset (s : State) : exec (.tapReset) s = execTapReset s := rfl
@[simp] theorem exec_hello (s : State) : exec (.hello) s = execHello s := rfl
@[simp] theorem exec_dbgChallenge (s : State) : exec (.dbgChallenge) s = execDbgChallenge s := rfl
@[simp] theorem exec_token (tok : List Byte) (s : State) : exec (.token tok) s = execToken tok s := rfl
@[simp] theorem exec_dbgRead (space : BitVec 2) (addr : BitVec 52) (n : BitVec 9) (s : State) :
    exec (.dbgRead space addr n) s = execDbgRead space addr n s := rfl
@[simp] theorem exec_dbgWrite (space : BitVec 2) (addr : BitVec 52) (data : List (BitVec 32)) (s : State) :
    exec (.dbgWrite space addr data) s = execDbgWrite space addr data s := rfl
@[simp] theorem exec_dbgHalt (p : Byte) (s : State) : exec (.dbgHalt p) s = execDbgHalt p s := rfl
@[simp] theorem exec_dbgResume (p : Byte) (s : State) : exec (.dbgResume p) s = execDbgResume p s := rfl
@[simp] theorem exec_dbgEnd (s : State) : exec (.dbgEnd) s = execDbgEnd s := rfl
@[simp] theorem exec_pwrgdRise (s : State) : exec (.pwrgdRise) s = execPwrgdRise s := rfl
@[simp] theorem exec_pwrgdFall (s : State) : exec (.pwrgdFall) s = execPwrgdFall s := rfl
@[simp] theorem exec_resetN (level : Bool) (s : State) : exec (.resetN level) s = execResetN level s := rfl
@[simp] theorem exec_pciePerstN (level : Bool) (s : State) : exec (.pciePerstN level) s = execPciePerstN level s := rfl
@[simp] theorem exec_instar0 (bad : List (BitVec 8)) (s : State) : exec (.instar0 bad) s = execInstar0 bad s := rfl
@[simp] theorem exec_instar1 (s : State) : exec (.instar1) s = execInstar1 s := rfl
@[simp] theorem exec_instar2 (bad : List (BitVec 8)) (hbmFail : List (BitVec 4)) (s : State) :
    exec (.instar2 bad hbmFail) s = execInstar2 bad hbmFail s := rfl
@[simp] theorem exec_instar3 (s : State) : exec (.instar3) s = execInstar3 s := rfl
@[simp] theorem exec_eclosion (ms : BitVec 16) (s : State) : exec (.eclosion ms) s = execEclosion ms s := rfl
@[simp] theorem exec_thoraxBootTimeout (s : State) : exec (.thoraxBootTimeout) s = execThoraxBootTimeout s := rfl
@[simp] theorem exec_fwWrite (m : Mst) (pg : Pg) (v : Word) (s : State) :
    exec (.fwWrite m pg v) s = execFwWrite m pg v s := rfl
@[simp] theorem exec_fwWriteDone (pg : Pg) (s : State) : exec (.fwWriteDone pg) s = execFwWriteDone pg s := rfl
@[simp] theorem exec_activate (m : Mst) (pg : Pg) (v : Word) (s : State) :
    exec (.activate m pg v) s = execActivate m pg v s := rfl
@[simp] theorem exec_commit (m : Mst) (pg : Pg) (v : Word) (s : State) :
    exec (.commit m pg v) s = execCommit m pg v s := rfl
@[simp] theorem exec_rollback (m : Mst) (pg : Pg) (v : Word) (s : State) :
    exec (.rollback m pg v) s = execRollback m pg v s := rfl
@[simp] theorem exec_discard (m : Mst) (pg : Pg) (v : Word) (s : State) :
    exec (.discard m pg v) s = execDiscard m pg v s := rfl
@[simp] theorem exec_restart (m : Mst) (pg : Pg) (v : Word) (s : State) :
    exec (.restart m pg v) s = execRestart m pg v s := rfl
@[simp] theorem exec_fwTrialTimeout (pg : Pg) (s : State) : exec (.fwTrialTimeout pg) s = execFwTrialTimeout pg s := rfl
@[simp] theorem exec_pupa (m : Mst) (v : Word) (s : State) : exec (.pupa m v) s = execPupa m v s := rfl
@[simp] theorem exec_diapause (m : Mst) (v : Word) (s : State) : exec (.diapause m v) s = execDiapause m v s := rfl
@[simp] theorem exec_diapauseDrainEnd (s : State) : exec (.diapauseDrainEnd) s = execDiapauseDrainEnd s := rfl
@[simp] theorem exec_wake (m : Mst) (v : Word) (s : State) : exec (.wake m v) s = execWake m v s := rfl
@[simp] theorem exec_powerTransitionDone (s : State) : exec (.powerTransitionDone) s = execPowerTransitionDone s := rfl
@[simp] theorem exec_saveProfile (m : Mst) (v : Word) (s : State) :
    exec (.saveProfile m v) s = execSaveProfile m v s := rfl
@[simp] theorem exec_saveProfileDone (ok : Bool) (s : State) :
    exec (.saveProfileDone ok) s = execSaveProfileDone ok s := rfl
@[simp] theorem exec_governorLoop (loop : GovReading) (s : State) :
    exec (.governorLoop loop) s = execGovernorLoop loop s := rfl
@[simp] theorem exec_thermalTrip (die : Byte) (temp : Byte) (s : State) :
    exec (.thermalTrip die temp) s = execThermalTrip die temp s := rfl
@[simp] theorem exec_repair (m : Mst) (pg : Pg) (v : Word) (s : State) :
    exec (.repair m pg v) s = execRepair m pg v s := rfl
@[simp] theorem exec_hbmRepairDone (pg : Pg) (ok : Bool) (s : State) :
    exec (.hbmRepairDone pg ok) s = execHbmRepairDone pg ok s := rfl
@[simp] theorem exec_meterSample (pj : List (BitVec 32)) (beyond : BitVec 6) (s : State) :
    exec (.meterSample pj beyond) s = execMeterSample pj beyond s := rfl
@[simp] theorem exec_activityReport (dom : BitVec 3) (tag : BitVec 5) (count : BitVec 32) (s : State) :
    exec (.activityReport dom tag count) s = execActivityReport dom tag count s := rfl
@[simp] theorem exec_tenancyEvent (p : PartNo) (isCreate : Bool) (createCount : BitVec 32) (s : State) :
    exec (.tenancyEvent p isCreate createCount) s = execTenancyEvent p isCreate createCount s := rfl
@[simp] theorem exec_periodEnd (restsOnly : Bool) (s : State) :
    exec (.periodEnd restsOnly) s = execPeriodEnd restsOnly s := rfl
@[simp] theorem exec_clockFallback (s : State) : exec (.clockFallback) s = execClockFallback s := rfl
@[simp] theorem exec_clockRestored (s : State) : exec (.clockRestored) s = execClockRestored s := rfl
@[simp] theorem exec_vmtrLoss (s : State) : exec (.vmtrLoss) s = execVmtrLoss s := rfl
@[simp] theorem exec_vmtrReturn (mramBad : Bool) (s : State) :
    exec (.vmtrReturn mramBad) s = execVmtrReturn mramBad s := rfl
@[simp] theorem exec_mtrUpdateFallback (s : State) : exec (.mtrUpdateFallback) s = execMtrUpdateFallback s := rfl
@[simp] theorem exec_ident (s : State) : exec (.ident) s = execIdent s := rfl
@[simp] theorem exec_readRecord (index : BitVec 10) (s : State) :
    exec (.readRecord index) s = execReadRecord index s := rfl
@[simp] theorem exec_readSigned (nonce : List Byte) (s : State) :
    exec (.readSigned nonce) s = execReadSigned nonce s := rfl
@[simp] theorem exec_readLog (index : BitVec 16) (s : State) : exec (.readLog index) s = execReadLog index s := rfl
@[simp] theorem exec_readCert (offset : BitVec 16) (s : State) :
    exec (.readCert offset) s = execReadCert offset s := rfl
@[simp] theorem exec_updBegin (s : State) : exec (.updBegin) s = execUpdBegin s := rfl
@[simp] theorem exec_updData (offset : BitVec 32) (data : List Byte) (s : State) :
    exec (.updData offset data) s = execUpdData offset data s := rfl
@[simp] theorem exec_updEnd (s : State) : exec (.updEnd) s = execUpdEnd s := rfl
@[simp] theorem exec_ccnReq (m : Mst) (v : Word) (s : State) : exec (.ccnReq m v) s = execCcnReq m v s := rfl
@[simp] theorem exec_signedReadingDone (s : State) : exec (.signedReadingDone) s = execSignedReadingDone s := rfl
@[simp] theorem exec_ringEnable (m : Mst) (r : RingNo) (v : Word) (s : State) :
    exec (.ringEnable m r v) s = execRingEnable m r v s := rfl
@[simp] theorem exec_ringTail (m : Mst) (r : RingNo) (v : Word) (s : State) :
    exec (.ringTail m r v) s = execRingTail m r v s := rfl
@[simp] theorem exec_ringConsumed (m : Mst) (r : RingNo) (v : Word) (s : State) :
    exec (.ringConsumed m r v) s = execRingConsumed m r v s := rfl
@[simp] theorem exec_nop (r : RingNo) (s : State) : exec (.nop r) s = execNop r s := rfl
@[simp] theorem exec_regRead (r : RingNo) (s : State) : exec (.regRead r) s = execRegRead r s := rfl
@[simp] theorem exec_regWrite (r : RingNo) (s : State) : exec (.regWrite r) s = execRegWrite r s := rfl
@[simp] theorem exec_ringWaitDone (r : RingNo) (s : State) : exec (.ringWaitDone r) s = execRingWaitDone r s := rfl
@[simp] theorem exec_tblRead (r : RingNo) (s : State) : exec (.tblRead r) s = execTblRead r s := rfl
@[simp] theorem exec_tblWrite (r : RingNo) (s : State) : exec (.tblWrite r) s = execTblWrite r s := rfl
@[simp] theorem exec_ringSignal (r : RingNo) (s : State) : exec (.ringSignal r) s = execRingSignal r s := rfl
@[simp] theorem exec_ringFlag (r : RingNo) (s : State) : exec (.ringFlag r) s = execRingFlag r s := rfl
@[simp] theorem exec_ringWatch (r : RingNo) (s : State) : exec (.ringWatch r) s = execRingWatch r s := rfl
@[simp] theorem exec_strict (r : RingNo) (s : State) : exec (.strict r) s = execStrict r s := rfl
@[simp] theorem exec_ringCoalTimer (r : RingNo) (s : State) : exec (.ringCoalTimer r) s = execRingCoalTimer r s := rfl
@[simp] theorem exec_pcieLinkDown (s : State) : exec (.pcieLinkDown) s = execPcieLinkDown s := rfl
@[simp] theorem exec_flr (fn : BitVec 5) (s : State) : exec (.flr fn) s = execFlr fn s := rfl
@[simp] theorem exec_inventory (args : List Byte) (s : State) : exec (.inventory args) s = execInventory args s := rfl
@[simp] theorem exec_health (args : List Byte) (s : State) : exec (.health args) s = execHealth args s := rfl
@[simp] theorem exec_readReg (args : List Byte) (s : State) : exec (.readReg args) s = execReadReg args s := rfl
@[simp] theorem exec_ackFaults (args : List Byte) (s : State) : exec (.ackFaults args) s = execAckFaults args s := rfl
@[simp] theorem exec_power (args : List Byte) (s : State) : exec (.power args) s = execPower args s := rfl
@[simp] theorem exec_setCap (args : List Byte) (s : State) : exec (.setCap args) s = execSetCap args s := rfl
@[simp] theorem exec_ibiCfg (args : List Byte) (s : State) : exec (.ibiCfg args) s = execIbiCfg args s := rfl
@[simp] theorem exec_ibiRetry (accepted : Bool) (s : State) :
    exec (.ibiRetry accepted) s = execIbiRetry accepted s := rfl
@[simp] theorem exec_recStatus (args : List Byte) (s : State) : exec (.recStatus args) s = execRecStatus args s := rfl
@[simp] theorem exec_recBegin (args : List Byte) (s : State) : exec (.recBegin args) s = execRecBegin args s := rfl
@[simp] theorem exec_recData (args : List Byte) (s : State) : exec (.recData args) s = execRecData args s := rfl
@[simp] theorem exec_recEnd (args : List Byte) (s : State) : exec (.recEnd args) s = execRecEnd args s := rfl
@[simp] theorem exec_recBoot (args : List Byte) (s : State) : exec (.recBoot args) s = execRecBoot args s := rfl
@[simp] theorem exec_pmbusPoll (reads : List (Option (BitVec 32))) (s : State) :
    exec (.pmbusPoll reads) s = execPmbusPoll reads s := rfl
@[simp] theorem exec_pmbAlert (bad : BitVec 16) (s : State) : exec (.pmbAlert bad) s = execPmbAlert bad s := rfl
@[simp] theorem exec_collWindow (port : PortNo) (p : CPkt) (s : State) :
    exec (.collWindow port p) s = execCollWindow port p s := rfl
@[simp] theorem exec_fwReady (pg : Pg) (s : State) : exec (.fwReady pg) s = execFwReady pg s := rfl
@[simp] theorem exec_mtrUnseal (s : State) : exec (.mtrUnseal) s = execMtrUnseal s := rfl
@[simp] theorem exec_registerRead (m : Mst) (bar : BitVec 3) (addr : BitVec 26) (len : BitVec 4) (s : State) :
    exec (.registerRead m bar addr len) s = execRegisterRead m bar addr len s := rfl
@[simp] theorem exec_msixVectorUnmask (fn : BitVec 5) (vector : Byte) (s : State) :
    exec (.msixVectorUnmask fn vector) s = execMsixVectorUnmask fn vector s := rfl
@[simp] theorem exec_dynamicAddressAssignment (addr : BitVec 7) (s : State) :
    exec (.dynamicAddressAssignment addr) s = execDynamicAddressAssignment addr s := rfl

end Sys2Proof.Machine
end

