-- ==== Sys2Proof/Laws/Keeps.lean ====
section
/-! SUPPORT. `Keeps` through the writes of a state: the shared forms that the laws of every operation are built from. -/

namespace Sys2Proof.Machine

variable {kq : List Instr} {ko : List Emit} {kn : Nat}

/-- A choice between two states keeps what both keep. -/
theorem keeps_ite {c : Prop} [Decidable c] {s t : State} (hs : Keeps kq ko kn s) (ht : Keeps kq ko kn t) :
    Keeps kq ko kn (if c then s else t) := by
  split
  · exact hs
  · exact ht

/-- A state that differs in none of the queue, outputs, draws and stores. -/
theorem keeps_of_eq {s t : State} (hs : Keeps kq ko kn s) (h1 : t.pending = s.pending) (h2 : t.out = s.out)
    (h3 : t.fresh = s.fresh) (h4 : t.regs = s.regs) (h5 : t.tabs = s.tabs) (h6 : t.hbm = s.hbm) (h7 : t.arr = s.arr)
    (h8 : t.vec = s.vec) (h9 : t.host = s.host) : Keeps kq ko kn t :=
  ⟨h1.trans hs.queue, h2 ▸ hs.out, h3 ▸ hs.fresh,
    ⟨h4 ▸ hs.wf.regs, h5 ▸ hs.wf.tabs, h6 ▸ hs.wf.hbm, h7 ▸ hs.wf.arr, h8 ▸ hs.wf.vec, h9 ▸ hs.wf.host⟩⟩

theorem keeps_mk {s : State} {views cow pins acts alarm jobs snaps mram boot sec dbg ccn hst sws swWaits caches swc lls cxs
    lrds rcxs engq mesh scs gang} (hs : Keeps kq ko kn s) :
    Keeps kq ko kn ⟨s.regs, s.tabs, views, cow, s.hbm, s.arr, s.vec, s.host, pins, acts, alarm, jobs, snaps, s.out, s.fresh,
      mram, boot, sec, dbg, ccn, hst, sws, swWaits, caches, swc, lls, cxs, lrds, rcxs, engq, mesh, scs, gang, s.pending⟩ :=
  keeps_of_eq hs rfl rfl rfl rfl rfl rfl rfl rfl rfl

/-- A state that is kept, named on the way to a claim. -/
theorem keeps_cut {t : State} {p : Prop} (ht : Keeps kq ko kn t) (h : Keeps kq ko kn t → p) : p := h ht

/-- The registers replaced by a store in canonical form. -/
theorem keeps_regs {s : State} {r : Kv} (hs : Keeps kq ko kn s) (hr : kvWf resetKey r = true) :
    Keeps kq ko kn { s with regs := r } :=
  ⟨hs.queue, hs.out, hs.fresh, ⟨hr, hs.wf.tabs, hs.wf.hbm, hs.wf.arr, hs.wf.vec, hs.wf.host⟩⟩

/-- The tables replaced by a store in canonical form. -/
theorem keeps_tabs {s : State} {r : Kv} {c : List Nat} (hs : Keeps kq ko kn s) (hr : kvWf resetTab r = true) :
    Keeps kq ko kn { s with tabs := r, cow := c } :=
  ⟨hs.queue, hs.out, hs.fresh, ⟨hs.wf.regs, hr, hs.wf.hbm, hs.wf.arr, hs.wf.vec, hs.wf.host⟩⟩

theorem keeps_tabs' {s : State} {r : Kv} (hs : Keeps kq ko kn s) (hr : kvWf resetTab r = true) :
    Keeps kq ko kn { s with tabs := r } :=
  ⟨hs.queue, hs.out, hs.fresh, ⟨hs.wf.regs, hr, hs.wf.hbm, hs.wf.arr, hs.wf.vec, hs.wf.host⟩⟩

/-- The HBM replaced by a memory in canonical form. -/
theorem keeps_hbm {s : State} {r : Memory} (hs : Keeps kq ko kn s) (hr : r.wf = true) : Keeps kq ko kn { s with hbm := r } :=
  ⟨hs.queue, hs.out, hs.fresh, ⟨hs.wf.regs, hs.wf.tabs, hr, hs.wf.arr, hs.wf.vec, hs.wf.host⟩⟩

theorem keeps_arr {s : State} {r : Memory} (hs : Keeps kq ko kn s) (hr : r.wf = true) : Keeps kq ko kn { s with arr := r } :=
  ⟨hs.queue, hs.out, hs.fresh, ⟨hs.wf.regs, hs.wf.tabs, hs.wf.hbm, hr, hs.wf.vec, hs.wf.host⟩⟩

theorem keeps_vec {s : State} {r : Memory} (hs : Keeps kq ko kn s) (hr : r.wf = true) : Keeps kq ko kn { s with vec := r } :=
  ⟨hs.queue, hs.out, hs.fresh, ⟨hs.wf.regs, hs.wf.tabs, hs.wf.hbm, hs.wf.arr, hr, hs.wf.host⟩⟩

theorem keeps_host {s : State} {r : Memory} (hs : Keeps kq ko kn s) (hr : r.wf = true) : Keeps kq ko kn { s with host := r } :=
  ⟨hs.queue, hs.out, hs.fresh, ⟨hs.wf.regs, hs.wf.tabs, hs.wf.hbm, hs.wf.arr, hs.wf.vec, hr⟩⟩

/-- Draws taken. -/
theorem keeps_fresh {s : State} {n : Nat} (hs : Keeps kq ko kn s) : Keeps kq ko kn { s with fresh := s.fresh + n } :=
  ⟨hs.queue, hs.out, Nat.le_trans hs.fresh (Nat.le_add_right _ _), hs.wf.1, hs.wf.2, hs.wf.3, hs.wf.4, hs.wf.5, hs.wf.6⟩

/-- A range of the vector stores zeroed. -/
theorem keeps_zeroVec {s : State} {a n : Nat} (hs : Keeps kq ko kn s) :
    Keeps kq ko kn { s with vec := memZero s.vec a n } := keeps_vec hs (memWf_zero _ _ hs.wf.vec)

/-- A run of operations over a list. -/
theorem keeps_foldl {α : Type} {f : State → α → State} {l : List α} {s : State}
    (hf : ∀ t x, Keeps kq ko kn t → Keeps kq ko kn (f t x)) (hs : Keeps kq ko kn s) : Keeps kq ko kn (l.foldl f s) := by
  induction l generalizing s with
  | nil => exact hs
  | cons x l ih => exact ih (hf _ _ hs)

theorem keeps_foldl1 {α β : Type} {f : State × β → α → State × β} {l : List α} {s : State × β}
    (hf : ∀ t x, Keeps kq ko kn t.1 → Keeps kq ko kn (f t x).1) (hs : Keeps kq ko kn s.1) :
    Keeps kq ko kn (l.foldl f s).1 := by
  induction l generalizing s with
  | nil => exact hs
  | cons x l ih => exact ih (hf _ _ hs)

theorem keeps_foldl2 {α β : Type} {f : β × State → α → β × State} {l : List α} {s : β × State}
    (hf : ∀ t x, Keeps kq ko kn t.2 → Keeps kq ko kn (f t x).2) (hs : Keeps kq ko kn s.2) :
    Keeps kq ko kn (l.foldl f s).2 := by
  induction l generalizing s with
  | nil => exact hs
  | cons x l ih => exact ih (hf _ _ hs)

theorem keeps_foldl22 {α β γ : Type} {f : β × γ × State → α → β × γ × State} {l : List α} {s : β × γ × State}
    (hf : ∀ t x, Keeps kq ko kn t.2.2 → Keeps kq ko kn (f t x).2.2) (hs : Keeps kq ko kn s.2.2) :
    Keeps kq ko kn (l.foldl f s).2.2 := by
  induction l generalizing s with
  | nil => exact hs
  | cons x l ih => exact ih (hf _ _ hs)

end Sys2Proof.Machine
end

