-- ==== Sys2Proof/Laws/KeepsOps.lean ====
section
/-! SUPPORT. What every operation of Machine/Ops.lean keeps. -/

namespace Sys2Proof.Machine

variable {kqu : List Instr} {kou : List Emit} {kfr : Nat}

theorem keeps_setReg {s : State} {b : Blk} {off v : Nat} (hs : Keeps kqu kou kfr s) : Keeps kqu kou kfr (s.setReg b off v) :=
  keeps_regs hs (kvWf_put _ _ hs.wf.regs)

theorem keeps_p (s : State) (b : Blk) (f : Fld) (v : Nat) (hs : Keeps kqu kou kfr s) : Keeps kqu kou kfr (State.p s b f v) := by
  unfold State.p
  try dsimp only
  with_reducible
    apply keeps_setReg
    assumption

theorem keeps_add (s : State) (b : Blk) (f : Fld) (d : Nat) (hs : Keeps kqu kou kfr s) : Keeps kqu kou kfr (State.add s b f d) := by
  unfold State.add
  try dsimp only
  with_reducible
    apply keeps_p
    assumption

theorem keeps_inc (s : State) (b : Blk) (f : Fld) (hs : Keeps kqu kou kfr s) : Keeps kqu kou kfr (State.inc s b f) := by
  unfold State.inc
  try dsimp only
  with_reducible
    apply keeps_add
    assumption

theorem keeps_setTw {s : State} {t : Tbl} {sc i wd v : Nat} (hs : Keeps kqu kou kfr s) : Keeps kqu kou kfr (s.setTw t sc i wd v) :=
  keeps_tabs hs (kvWf_put _ _ hs.wf.tabs)

theorem keeps_pt (s : State) (t : Tbl) (sc i : Nat) (f : Fld) (v : Nat) (hs : Keeps kqu kou kfr s) : Keeps kqu kou kfr (State.pt s t sc i f v) := by
  unfold State.pt
  try dsimp only
  with_reducible
    apply keeps_setTw
    assumption

theorem keeps_setEntry (s : State) (t : Tbl) (sc i : Nat) (ws : List Nat) (hs : Keeps kqu kou kfr s) : Keeps kqu kou kfr (State.setEntry s t sc i ws) := by
  unfold State.setEntry
  try dsimp only
  with_reducible
    apply keeps_foldl
    intro _
    intro _
    intro _
    apply keeps_setTw
    assumption
    assumption

theorem keeps_clearTab {s : State} {t : Tbl} {sc lo n : Nat} (hs : Keeps kqu kou kfr s) : Keeps kqu kou kfr (s.clearTab t sc lo n) :=
  keeps_tabs hs (kvWf_clear _ _ hs.wf.tabs)

theorem keeps_setWide (s : State) (b : Blk) (off n v : Nat) (hs : Keeps kqu kou kfr s) : Keeps kqu kou kfr (State.setWide s b off n v) := by
  unfold State.setWide
  try dsimp only
  with_reducible
    apply keeps_foldl
    intro _
    intro _
    intro _
    apply keeps_setReg
    assumption
    assumption

theorem keeps_storeTw (s : State) (t : Tbl) (sc i wd v : Nat) (hs : Keeps kqu kou kfr s) : Keeps kqu kou kfr (State.storeTw s t sc i wd v) := by
  unfold State.storeTw
  try dsimp only
  with_reducible
    apply keeps_setTw
    assumption

theorem keeps_draw {s : State} (hs : Keeps kqu kou kfr s) : Keeps kqu kou kfr s.draw.2 :=
  ⟨hs.queue, hs.out, Nat.le_succ_of_le hs.fresh, hs.wf.1, hs.wf.2, hs.wf.3, hs.wf.4, hs.wf.5, hs.wf.6⟩
theorem keeps_draw_eq {s t : State} {x : Nat} (ke : s.draw = (x, t)) (hs : Keeps kqu kou kfr s) : Keeps kqu kou kfr t := by
  have k := keeps_draw hs
  rw [ke] at k
  exact k

theorem keeps_drawWide {s : State} {n : Nat} (hs : Keeps kqu kou kfr s) : Keeps kqu kou kfr (s.drawWide n).2 :=
  ⟨hs.queue, hs.out, Nat.le_trans hs.fresh (Nat.le_add_right _ _), hs.wf.1, hs.wf.2, hs.wf.3, hs.wf.4, hs.wf.5, hs.wf.6⟩
theorem keeps_drawWide_eq {s t : State} {n x : Nat} (ke : s.drawWide n = (x, t)) (hs : Keeps kqu kou kfr s) : Keeps kqu kou kfr t := by
  have k := keeps_drawWide (n := n) hs
  rw [ke] at k
  exact k

theorem keeps_emit {s : State} {ch : Chan} {tag : Nat} {ns : List Nat} {bs : List Byte} (hs : Keeps kqu kou kfr s) :
    Keeps kqu kou kfr (s.emit ch tag ns bs) := by
  unfold State.emit
  split
  · exact hs
  · exact ⟨hs.queue, hs.out.trans (List.prefix_append _ _), hs.fresh, hs.wf.1, hs.wf.2, hs.wf.3, hs.wf.4, hs.wf.5, hs.wf.6⟩

theorem keeps_setClsLevel (s : State) (b : Blk) (c l : Nat) (esc : Bool) (hs : Keeps kqu kou kfr s) : Keeps kqu kou kfr (State.setClsLevel s b c l esc) := by
  unfold State.setClsLevel
  try dsimp only
  with_reducible
    apply keeps_p
    assumption

theorem keeps_setErrLast (s : State) (b : Blk) (c l : Nat) (force : Option Nat) (hs : Keeps kqu kou kfr s) : Keeps kqu kou kfr (State.setErrLast s b c l force) := by
  unfold State.setErrLast
  try dsimp only
  with_reducible
    apply keeps_setReg
    assumption

theorem keeps_owe (s : State) (b : Blk) (c l : Nat) (force esc : Bool) (hs : Keeps kqu kou kfr s) : Keeps kqu kou kfr (State.owe s b c l force esc) := by
  unfold State.owe
  try dsimp only
  with_reducible
    apply keeps_ite
    refine keeps_mk ?_
    assumption
    assumption

theorem keeps_raiseBy (s : State) (b : Blk) (c : Cls) (force : Option Nat) (hs : Keeps kqu kou kfr s) : Keeps kqu kou kfr (State.raiseBy s b c force) := by
  unfold State.raiseBy
  try dsimp only
  with_reducible
    apply keeps_ite
    apply keeps_ite
    apply keeps_setErrLast
    apply keeps_p
    apply keeps_setClsLevel
    apply keeps_p
    refine keeps_mk ?_
    apply keeps_inc
    assumption
    apply keeps_owe
    apply keeps_setErrLast
    apply keeps_p
    apply keeps_setClsLevel
    apply keeps_p
    refine keeps_mk ?_
    apply keeps_inc
    assumption
    apply keeps_ite
    apply keeps_owe
    apply keeps_setErrLast
    apply keeps_ite
    apply keeps_p
    apply keeps_setClsLevel
    refine keeps_mk ?_
    apply keeps_inc
    assumption
    apply keeps_setClsLevel
    refine keeps_mk ?_
    apply keeps_inc
    assumption
    refine keeps_mk ?_
    apply keeps_inc
    assumption

theorem keeps_raise (s : State) (b : Blk) (c : Cls) (hs : Keeps kqu kou kfr s) : Keeps kqu kou kfr (State.raise s b c) := by
  unfold State.raise
  try dsimp only
  with_reducible
    apply keeps_raiseBy
    assumption

theorem keeps_ackErr (s : State) (b : Blk) (mask : Nat) (hs : Keeps kqu kou kfr s) : Keeps kqu kou kfr (State.ackErr s b mask) := by
  unfold State.ackErr
  try dsimp only
  with_reducible
    refine keeps_mk ?_
    apply keeps_foldl
    intro _
    intro _
    intro _
    apply keeps_ite
    apply keeps_p
    apply keeps_setClsLevel
    apply keeps_p
    assumption
    assumption
    assumption

theorem keeps_refuse (s : State) (m : Nat) (b : Blk) (off : Nat) (c : Code) (hs : Keeps kqu kou kfr s) : Keeps kqu kou kfr (State.refuse s m b off c) := by
  unfold State.refuse
  try dsimp only
  with_reducible
    apply keeps_raise
    apply keeps_setReg
    apply keeps_inc
    assumption

theorem keeps_denyWrite (s : State) (m : Nat) (b : Blk) (off : Nat) (hs : Keeps kqu kou kfr s) : Keeps kqu kou kfr (State.denyWrite s m b off) := by
  unfold State.denyWrite
  try dsimp only
  with_reducible
    apply keeps_refuse
    apply keeps_inc
    assumption

theorem keeps_onWrite (s : State) (m pg off : Nat) (f : Blk → State) (hs : Keeps kqu kou kfr s) (k_f : ∀ b, Keeps kqu kou kfr (f b)) : Keeps kqu kou kfr (State.onWrite s m pg off f) := by
  unfold State.onWrite
  try dsimp only
  with_reducible
    split
    assumption
    apply keeps_ite
    apply keeps_denyWrite
    assumption
    apply keeps_ite
    apply keeps_refuse
    assumption
    apply k_f

theorem keeps_store (s : State) (b : Blk) (off v : Nat) (hs : Keeps kqu kou kfr s) : Keeps kqu kou kfr (State.store s b off v) := by
  unfold State.store
  try dsimp only
  with_reducible
    apply keeps_setReg
    assumption

theorem keeps_countRedundant (s : State) (b : Blk) (off v : Nat) (hs : Keeps kqu kou kfr s) : Keeps kqu kou kfr (State.countRedundant s b off v) := by
  unfold State.countRedundant
  try dsimp only
  with_reducible
    apply keeps_ite
    apply keeps_inc
    assumption
    assumption

theorem keeps_setSt (s : State) (b : Blk) (p : PState) (hs : Keeps kqu kou kfr s) : Keeps kqu kou kfr (State.setSt s b p) := by
  unfold State.setSt
  try dsimp only
  with_reducible
    apply keeps_ite
    assumption
    apply keeps_inc
    apply keeps_p
    assumption

theorem keeps_setRing (s : State) (d p e v : Nat) (hs : Keeps kqu kou kfr s) : Keeps kqu kou kfr (State.setRing s d p e v) := by
  unfold State.setRing
  try dsimp only
  with_reducible
    apply keeps_setTw
    assumption

theorem keeps_setPoolBit (s : State) (d p i : Nat) (v : Bool) (hs : Keeps kqu kou kfr s) : Keeps kqu kou kfr (State.setPoolBit s d p i v) := by
  unfold State.setPoolBit
  try dsimp only
  with_reducible
    apply keeps_setTw
    assumption

theorem keeps_setHbmByte {s : State} {a : Nat} {v : Byte} (hs : Keeps kqu kou kfr s) : Keeps kqu kou kfr (s.setHbmByte a v) := by
  unfold State.setHbmByte
  split
  · exact keeps_hbm hs (memWf_write _ _ hs.wf.hbm)
  · exact keeps_setTw hs
  · exact keeps_setTw hs

theorem wf_space {s : State} {sp : Nat} (hs : Keeps kqu kou kfr s) : (s.space sp).wf = true := by
  unfold State.space
  split
  · exact hs.wf.hbm
  · exact hs.wf.arr
  · exact hs.wf.vec
theorem keeps_setSpace {s : State} {sp : Nat} {m : Memory} (hs : Keeps kqu kou kfr s) (hm : m.wf = true) :
    Keeps kqu kou kfr (s.setSpace sp m) := by
  unfold State.setSpace
  split
  · exact keeps_hbm hs hm
  · exact keeps_arr hs hm
  · exact keeps_vec hs hm
theorem keeps_zeroSpace {s t : State} {sp a n : Nat} (hs : Keeps kqu kou kfr s) (ht : Keeps kqu kou kfr t) :
    Keeps kqu kou kfr (s.setSpace sp (memZero (t.space sp) a n)) := keeps_setSpace hs (memWf_zero _ _ (wf_space ht))

theorem keeps_writeSpace {s : State} {sp a : Nat} {bs : List Byte} (hs : Keeps kqu kou kfr s) :
    Keeps kqu kou kfr (s.writeSpace sp a bs) := by
  unfold State.writeSpace
  split
  · exact keeps_foldl (fun t x ht => keeps_setHbmByte ht) hs
  · exact keeps_setSpace hs (memWf_writes _ _ (wf_space hs))

theorem keeps_writeBuf {s : State} {fn : Nat} {host : Bool} {sp a : Nat} {bs : List Byte} (hs : Keeps kqu kou kfr s) :
    Keeps kqu kou kfr (s.writeBuf fn host sp a bs) := by
  unfold State.writeBuf
  split
  · exact keeps_host hs (memWf_writes _ _ hs.wf.host)
  · exact keeps_writeSpace hs

theorem keeps_memDenied (s : State) (hs : Keeps kqu kou kfr s) : Keeps kqu kou kfr (State.memDenied s) := by
  unfold State.memDenied
  try dsimp only
  with_reducible
    apply keeps_raise
    assumption

theorem keeps_addJob (s : State) (j : Job) (hs : Keeps kqu kou kfr s) : Keeps kqu kou kfr (State.addJob s j) := by
  unfold State.addJob
  try dsimp only
  with_reducible
    refine keeps_mk ?_
    assumption

theorem keeps_dropJob (s : State) (k : JobKind) (pg off : Nat) (hs : Keeps kqu kou kfr s) : Keeps kqu kou kfr (State.dropJob s k pg off) := by
  unfold State.dropJob
  try dsimp only
  with_reducible
    refine keeps_mk ?_
    assumption

theorem keeps_setBusy (s : State) (b : Blk) (off : Nat) (hs : Keeps kqu kou kfr s) : Keeps kqu kou kfr (State.setBusy s b off) := by
  unfold State.setBusy
  try dsimp only
  with_reducible
    apply keeps_p
    assumption

theorem keeps_finish (s : State) (b : Blk) (off : Nat) (c : Code) (hs : Keeps kqu kou kfr s) : Keeps kqu kou kfr (State.finish s b off c) := by
  unfold State.finish
  try dsimp only
  with_reducible
    apply keeps_setReg
    assumption

theorem keeps_refuseOp (s : State) (m : Nat) (b : Blk) (off st : Nat) (hs : Keeps kqu kou kfr s) : Keeps kqu kou kfr (State.refuseOp s m b off st) := by
  unfold State.refuseOp
  try dsimp only
  with_reducible
    apply keeps_finish
    apply keeps_refuse
    assumption

theorem keeps_msi (s : State) (fn v : Nat) (hs : Keeps kqu kou kfr s) : Keeps kqu kou kfr (State.msi s fn v) := by
  unfold State.msi
  try dsimp only
  with_reducible
    apply keeps_ite
    assumption
    apply keeps_ite
    apply keeps_pt
    assumption
    apply keeps_inc
    apply keeps_emit
    assumption

theorem keeps_ibi (s : State) (byte : Nat) (hs : Keeps kqu kou kfr s) : Keeps kqu kou kfr (State.ibi s byte) := by
  unfold State.ibi
  try dsimp only
  with_reducible
    refine keeps_mk ?_
    apply keeps_emit
    assumption

theorem keeps_levelNotice (s : State) (hs : Keeps kqu kou kfr s) : Keeps kqu kou kfr (State.levelNotice s) := by
  unfold State.levelNotice
  try dsimp only
  with_reducible
    apply keeps_ite
    refine keeps_mk ?_
    apply keeps_ite
    apply keeps_ite
    apply keeps_ibi
    apply keeps_msi
    assumption
    apply keeps_msi
    assumption
    assumption
    assumption

theorem keeps_powerNotice (s : State) (byte : Nat) (hs : Keeps kqu kou kfr s) : Keeps kqu kou kfr (State.powerNotice s byte) := by
  unfold State.powerNotice
  try dsimp only
  with_reducible
    apply keeps_ite
    apply keeps_ibi
    apply keeps_msi
    assumption
    apply keeps_msi
    assumption

theorem keeps_setRail (s : State) (core : Bool) (mv : Nat) (hs : Keeps kqu kou kfr s) : Keeps kqu kou kfr (State.setRail s core mv) := by
  unfold State.setRail
  try dsimp only
  with_reducible
    apply keeps_ite
    apply keeps_ite
    assumption
    apply keeps_emit
    apply keeps_p
    assumption
    apply keeps_ite
    assumption
    apply keeps_emit
    apply keeps_p
    assumption

theorem keeps_clampRail (s : State) (core : Bool) (hs : Keeps kqu kou kfr s) : Keeps kqu kou kfr (State.clampRail s core) := by
  unfold State.clampRail
  try dsimp only
  with_reducible
    apply keeps_ite
    apply keeps_setRail
    assumption
    assumption

theorem keeps_hotNotice (s : State) (hs : Keeps kqu kou kfr s) : Keeps kqu kou kfr (State.hotNotice s) := by
  unfold State.hotNotice
  try dsimp only
  with_reducible
    apply keeps_ite
    apply keeps_ibi
    apply keeps_msi
    assumption
    apply keeps_msi
    assumption

end Sys2Proof.Machine
end

