-- ==== Sys2Proof/Laws/KeepsLinkOps.lean ====
section
/-! SUPPORT. What every operation of Machine/LinkOps.lean keeps. -/

namespace Sys2Proof.Machine

variable {kqu : List Instr} {kou : List Emit} {kfr : Nat}

theorem keeps_php (s : State) (port : Nat) (f : Fld) (v : Nat) (hs : Keeps kqu kou kfr s) : Keeps kqu kou kfr (State.php s port f v) := by
  unfold State.php
  try dsimp only
  with_reducible
    apply keeps_p
    assumption

theorem keeps_showLane (s : State) (kn : Nat × Nat) (st : Nat) (hs : Keeps kqu kou kfr s) : Keeps kqu kou kfr (State.showLane s kn st) := by
  unfold State.showLane
  try dsimp only
  with_reducible
    apply keeps_p
    apply keeps_p
    apply keeps_p
    apply keeps_p
    assumption

theorem keeps_showPort (s : State) (port st : Nat) (hs : Keeps kqu kou kfr s) : Keeps kqu kou kfr (State.showPort s port st) := by
  unfold State.showPort
  try dsimp only
  with_reducible
    apply keeps_foldl
    intro _
    intro _
    intro _
    apply keeps_ite
    apply keeps_showLane
    assumption
    apply keeps_showLane
    apply keeps_showLane
    assumption
    apply keeps_foldl
    intro _
    intro _
    intro _
    apply keeps_p
    apply keeps_p
    apply keeps_p
    assumption
    assumption

theorem keeps_showSpares (s : State) (port : Nat) (hs : Keeps kqu kou kfr s) : Keeps kqu kou kfr (State.showSpares s port) := by
  unfold State.showSpares
  try dsimp only
  with_reducible
    split
    assumption
    apply keeps_foldl
    intro _
    intro _
    intro _
    apply keeps_p
    assumption
    assumption

theorem keeps_ctlMsg (s : State) (kn : Nat × Nat) (msg : Nat) (body : List Byte) (hs : Keeps kqu kou kfr s) : Keeps kqu kou kfr (State.ctlMsg s kn msg body) := by
  unfold State.ctlMsg
  try dsimp only
  with_reducible
    apply keeps_setReg
    assumption

theorem keeps_swSay (s : State) (k : Nat) (hs : Keeps kqu kou kfr s) : Keeps kqu kou kfr (State.swSay s k) := by
  unfold State.swSay
  try dsimp only
  with_reducible
    split
    assumption
    apply keeps_ctlMsg
    assumption

theorem keeps_startSwitch (s : State) (k n : Nat) (revert initiator : Bool) (hs : Keeps kqu kou kfr s) : Keeps kqu kou kfr (State.startSwitch s k n revert initiator) := by
  unfold State.startSwitch
  try dsimp only
  with_reducible
    apply keeps_swSay
    apply keeps_ite
    apply keeps_showLane
    refine keeps_mk ?_
    assumption
    apply keeps_p
    apply keeps_showLane
    refine keeps_mk ?_
    assumption

theorem keeps_requestSwitch (s : State) (k n : Nat) (revert : Bool) (hs : Keeps kqu kou kfr s) : Keeps kqu kou kfr (State.requestSwitch s k n revert) := by
  unfold State.requestSwitch
  try dsimp only
  with_reducible
    apply keeps_ite
    assumption
    apply keeps_ite
    refine keeps_mk ?_
    assumption
    apply keeps_startSwitch
    assumption

theorem keeps_setSw (s : State) (w : Switchover) (hs : Keeps kqu kou kfr s) : Keeps kqu kou kfr (State.setSw s w) := by
  unfold State.setSw
  try dsimp only
  with_reducible
    refine keeps_mk ?_
    assumption

theorem keeps_endSw (s : State) (k : Nat) (hs : Keeps kqu kou kfr s) : Keeps kqu kou kfr (State.endSw s k) := by
  unfold State.endSw
  try dsimp only
  with_reducible
    refine keeps_mk ?_
    assumption

theorem keeps_undoSwitch (s : State) (w : Switchover) (hs : Keeps kqu kou kfr s) : Keeps kqu kou kfr (State.undoSwitch s w) := by
  unfold State.undoSwitch
  try dsimp only
  with_reducible
    apply keeps_ite
    apply keeps_showLane
    apply keeps_endSw
    apply keeps_ctlMsg
    assumption
    apply keeps_p
    apply keeps_showLane
    apply keeps_endSw
    apply keeps_ctlMsg
    assumption

theorem keeps_carryOn (s : State) (k src dst : Nat) (hs : Keeps kqu kou kfr s) : Keeps kqu kou kfr (State.carryOn s k src dst) := by
  unfold State.carryOn
  try dsimp only
  with_reducible
    apply keeps_foldl
    intro _
    intro _
    intro _
    apply keeps_setReg
    assumption
    assumption

theorem keeps_finishSwitch (s : State) (w : Switchover) (hs : Keeps kqu kou kfr s) : Keeps kqu kou kfr (State.finishSwitch s w) := by
  unfold State.finishSwitch
  try dsimp only
  with_reducible
    apply keeps_ite
    apply keeps_showPort
    apply keeps_ite
    apply keeps_p
    apply keeps_p
    apply keeps_showLane
    apply keeps_p
    apply keeps_p
    apply keeps_p
    apply keeps_p
    apply keeps_p
    apply keeps_carryOn
    apply keeps_php
    apply keeps_endSw
    apply keeps_ctlMsg
    assumption
    apply keeps_p
    apply keeps_p
    apply keeps_p
    apply keeps_p
    apply keeps_p
    apply keeps_p
    apply keeps_p
    apply keeps_carryOn
    apply keeps_php
    apply keeps_endSw
    apply keeps_ctlMsg
    assumption
    apply keeps_raise
    apply keeps_showPort
    apply keeps_ite
    apply keeps_p
    apply keeps_p
    apply keeps_showLane
    apply keeps_p
    apply keeps_p
    apply keeps_p
    apply keeps_p
    apply keeps_p
    apply keeps_carryOn
    apply keeps_php
    apply keeps_endSw
    apply keeps_ctlMsg
    assumption
    apply keeps_p
    apply keeps_p
    apply keeps_p
    apply keeps_p
    apply keeps_p
    apply keeps_p
    apply keeps_p
    apply keeps_carryOn
    apply keeps_php
    apply keeps_endSw
    apply keeps_ctlMsg
    assumption

theorem keeps_failSwitch (s : State) (w : Switchover) (hs : Keeps kqu kou kfr s) : Keeps kqu kou kfr (State.failSwitch s w) := by
  unfold State.failSwitch
  try dsimp only
  with_reducible
    apply keeps_ite
    apply keeps_raise
    apply keeps_ite
    apply keeps_undoSwitch
    assumption
    apply keeps_p
    apply keeps_undoSwitch
    assumption
    apply keeps_ite
    apply keeps_undoSwitch
    assumption
    apply keeps_p
    apply keeps_undoSwitch
    assumption

theorem keeps_clearLane (s : State) (k n : Nat) (hs : Keeps kqu kou kfr s) : Keeps kqu kou kfr (State.clearLane s k n) := by
  unfold State.clearLane
  try dsimp only
  with_reducible
    apply keeps_foldl
    intro _
    intro _
    intro _
    apply keeps_setReg
    assumption
    apply keeps_foldl
    intro _
    intro _
    intro _
    apply keeps_setReg
    assumption
    assumption

theorem keeps_countFec (s : State) (k n : Nat) (fec : Option Nat) (hs : Keeps kqu kou kfr s) : Keeps kqu kou kfr (State.countFec s k n fec) := by
  unfold State.countFec
  try dsimp only
  with_reducible
    split
    apply keeps_inc
    apply keeps_inc
    apply keeps_inc
    assumption
    apply keeps_ite
    apply keeps_inc
    apply keeps_inc
    assumption
    apply keeps_add
    apply keeps_add
    apply keeps_inc
    apply keeps_inc
    apply keeps_inc
    assumption

theorem keeps_applyPolicy (s : State) (k n l : Nat) (hs : Keeps kqu kou kfr s) : Keeps kqu kou kfr (State.applyPolicy s k n l) := by
  unfold State.applyPolicy
  try dsimp only
  with_reducible
    apply keeps_ite
    apply keeps_ite
    apply keeps_requestSwitch
    apply keeps_p
    apply keeps_p
    assumption
    apply keeps_raise
    apply keeps_p
    apply keeps_p
    assumption
    assumption

theorem keeps_alignXing (s : State) (b : Blk) (n : Nat) (hs : Keeps kqu kou kfr s) : Keeps kqu kou kfr (State.alignXing s b n) := by
  unfold State.alignXing
  try dsimp only
  with_reducible
    apply keeps_inc
    apply keeps_p
    apply keeps_p
    assumption

theorem keeps_alignTrained (s : State) (b : Blk) (hs : Keeps kqu kou kfr s) : Keeps kqu kou kfr (State.alignTrained s b) := by
  unfold State.alignTrained
  try dsimp only
  with_reducible
    split
    apply keeps_alignXing
    apply keeps_alignXing
    assumption
    apply keeps_alignXing
    apply keeps_alignXing
    assumption
    apply keeps_alignXing
    assumption
    assumption

end Sys2Proof.Machine
end

