-- ==== Sys2Proof/Laws/KeepsRoostOps.lean ====
section
/-! SUPPORT. What every operation of Machine/RoostOps.lean keeps. -/

namespace Sys2Proof.Machine

variable {kqu : List Instr} {kou : List Emit} {kfr : Nat}

theorem keeps_watchCount (s : State) (o : Obj) (up : Bool) (hs : Keeps kqu kou kfr s) : Keeps kqu kou kfr (State.watchCount s o up) := by
  unfold State.watchCount
  try dsimp only
  with_reducible
    split
    apply keeps_pt
    assumption
    apply keeps_pt
    assumption

theorem keeps_putFlag (s : State) (f : Nat) (v : Bool) (hs : Keeps kqu kou kfr s) : Keeps kqu kou kfr (State.putFlag s f v).2 := by
  unfold State.putFlag
  try dsimp only
  with_reducible
    split
    dsimp only
    apply keeps_ite
    apply keeps_inc
    apply keeps_pt
    assumption
    apply keeps_pt
    assumption
    dsimp only
    apply keeps_pt
    assumption

theorem keeps_putFlag_eq {s : State} {f : Nat} {v : Bool} {x0 : Bool} {x1 : State} (ke : State.putFlag s f v = (x0, x1)) (hs : Keeps kqu kou kfr s) : Keeps kqu kou kfr x1 := by
  have k := keeps_putFlag (kqu := kqu) (kou := kou) (kfr := kfr) s f v hs
  rw [ke] at k
  exact k

theorem keeps_sendWatch (s : State) (w : Nat) (c : Code) (value : Nat) (hs : Keeps kqu kou kfr s) : Keeps kqu kou kfr (State.sendWatch s w c value).1 := by
  unfold State.sendWatch
  try dsimp only
  with_reducible
    split
    dsimp only
    apply keeps_emit
    apply keeps_inc
    apply keeps_pt
    apply keeps_watchCount
    assumption
    dsimp only
    apply keeps_ite
    apply keeps_msi
    apply keeps_writeBuf
    apply keeps_inc
    apply keeps_pt
    apply keeps_watchCount
    assumption
    apply keeps_writeBuf
    apply keeps_inc
    apply keeps_pt
    apply keeps_watchCount
    assumption
    split
    dsimp only
    apply keeps_inc
    apply keeps_pt
    apply keeps_watchCount
    assumption
    dsimp only
    apply keeps_putFlag
    apply keeps_inc
    apply keeps_pt
    apply keeps_watchCount
    assumption

theorem keeps_sendWatch_eq {s : State} {w : Nat} {c : Code} {value : Nat} {x0 : State} {x1 : List Obj} (ke : State.sendWatch s w c value = (x0, x1)) (hs : Keeps kqu kou kfr s) : Keeps kqu kou kfr x0 := by
  have k := keeps_sendWatch (kqu := kqu) (kou := kou) (kfr := kfr) s w c value hs
  rw [ke] at k
  exact k

theorem keeps_fireAll (s : State) (ws : List Nat) (hs : Keeps kqu kou kfr s) : Keeps kqu kou kfr (State.fireAll s ws).1 := by
  unfold State.fireAll
  try dsimp only
  with_reducible
    apply keeps_foldl1
    intro _
    intro _
    intro _
    dsimp only
    apply keeps_sendWatch
    assumption
    dsimp only
    assumption

theorem keeps_fireAll_eq {s : State} {ws : List Nat} {x0 : State} {x1 : List Obj} (ke : State.fireAll s ws = (x0, x1)) (hs : Keeps kqu kou kfr s) : Keeps kqu kou kfr x0 := by
  have k := keeps_fireAll (kqu := kqu) (kou := kou) (kfr := kfr) s ws hs
  rw [ke] at k
  exact k

theorem keeps_addCnt (s : State) (c amt : Nat) (hs : Keeps kqu kou kfr s) : Keeps kqu kou kfr (State.addCnt s c amt) := by
  unfold State.addCnt
  try dsimp only
  with_reducible
    apply keeps_ite
    apply keeps_raise
    apply keeps_pt
    apply keeps_inc
    assumption
    apply keeps_pt
    apply keeps_inc
    assumption

theorem keeps_barsOf (s : State) (c : Nat) (hs : Keeps kqu kou kfr s) : Keeps kqu kou kfr (State.barsOf s c).1 := by
  unfold State.barsOf
  try dsimp only
  with_reducible
    apply keeps_foldl1
    intro _
    intro _
    intro _
    split
    dsimp only
    apply keeps_addCnt
    apply keeps_add
    apply keeps_pt
    apply keeps_setTw
    assumption
    assumption
    dsimp only
    assumption

theorem keeps_barsOf_eq {s : State} {c : Nat} {x0 : State} {x1 : List Obj} (ke : State.barsOf s c = (x0, x1)) (hs : Keeps kqu kou kfr s) : Keeps kqu kou kfr x0 := by
  have k := keeps_barsOf (kqu := kqu) (kou := kou) (kfr := kfr) s c hs
  rw [ke] at k
  exact k

theorem keeps_changed (n : Nat) (l : List Obj) (s : State) (hs : Keeps kqu kou kfr s) : Keeps kqu kou kfr (State.changed n l s) := by
  induction n generalizing l s with
  | zero =>
    unfold State.changed
    exact hs
  | succ n k_ih =>
    cases l with
    | nil =>
      unfold State.changed
      exact hs
    | cons a l =>
      unfold State.changed
      try dsimp only
      with_reducible
        split
        apply k_ih
        apply keeps_fireAll
        assumption
        apply k_ih
        apply keeps_barsOf
        apply keeps_fireAll
        assumption

theorem keeps_follows (s : State) (o : Obj) (hs : Keeps kqu kou kfr s) : Keeps kqu kou kfr (State.follows s o) := by
  unfold State.follows
  try dsimp only
  with_reducible
    apply keeps_changed
    assumption

theorem keeps_stale (s : State) (hs : Keeps kqu kou kfr s) : Keeps kqu kou kfr (State.stale s) := by
  unfold State.stale
  try dsimp only
  with_reducible
    apply keeps_raise
    apply keeps_inc
    assumption

theorem keeps_signalPhys (s : State) (c ep amt : Nat) (hs : Keeps kqu kou kfr s) : Keeps kqu kou kfr (State.signalPhys s c ep amt).2 := by
  unfold State.signalPhys
  try dsimp only
  with_reducible
    split
    dsimp only
    apply keeps_stale
    assumption
    split
    dsimp only
    apply keeps_inc
    assumption
    dsimp only
    apply keeps_follows
    apply keeps_addCnt
    assumption

theorem keeps_signalPhys_eq {s : State} {c ep amt : Nat} {x0 : Code} {x1 : State} (ke : State.signalPhys s c ep amt = (x0, x1)) (hs : Keeps kqu kou kfr s) : Keeps kqu kou kfr x1 := by
  have k := keeps_signalPhys (kqu := kqu) (kou := kou) (kfr := kfr) s c ep amt hs
  rw [ke] at k
  exact k

theorem keeps_xlateMiss (s : State) (hs : Keeps kqu kou kfr s) : Keeps kqu kou kfr (State.xlateMiss s) := by
  unfold State.xlateMiss
  try dsimp only
  with_reducible
    apply keeps_raise
    apply keeps_inc
    assumption

theorem keeps_signalVirt (s : State) (p id ep amt : Nat) (hs : Keeps kqu kou kfr s) : Keeps kqu kou kfr (State.signalVirt s p id ep amt).2 := by
  unfold State.signalVirt
  try dsimp only
  with_reducible
    split
    dsimp only
    apply keeps_xlateMiss
    assumption
    apply keeps_signalPhys
    assumption

theorem keeps_signalVirt_eq {s : State} {p id ep amt : Nat} {x0 : Code} {x1 : State} (ke : State.signalVirt s p id ep amt = (x0, x1)) (hs : Keeps kqu kou kfr s) : Keeps kqu kou kfr x1 := by
  have k := keeps_signalVirt (kqu := kqu) (kou := kou) (kfr := kfr) s p id ep amt hs
  rw [ke] at k
  exact k

theorem keeps_signalCtx (s : State) (p id ep : Nat) (hs : Keeps kqu kou kfr s) : Keeps kqu kou kfr (State.signalCtx s p id ep) := by
  unfold State.signalCtx
  try dsimp only
  with_reducible
    apply keeps_ite
    assumption
    apply keeps_signalVirt
    assumption

theorem keeps_loseWatches (s : State) (ws : List Nat) (value : Nat) (hs : Keeps kqu kou kfr s) : Keeps kqu kou kfr (State.loseWatches s ws value).1 := by
  unfold State.loseWatches
  try dsimp only
  with_reducible
    apply keeps_foldl1
    intro _
    intro _
    intro _
    dsimp only
    apply keeps_sendWatch
    assumption
    dsimp only
    assumption

theorem keeps_loseWatches_eq {s : State} {ws : List Nat} {value : Nat} {x0 : State} {x1 : List Obj} (ke : State.loseWatches s ws value = (x0, x1)) (hs : Keeps kqu kou kfr s) : Keeps kqu kou kfr x0 := by
  have k := keeps_loseWatches (kqu := kqu) (kou := kou) (kfr := kfr) s ws value hs
  rw [ke] at k
  exact k

theorem keeps_loseBars (s : State) (c : Nat) (hs : Keeps kqu kou kfr s) : Keeps kqu kou kfr (State.loseBars s c) := by
  unfold State.loseBars
  try dsimp only
  with_reducible
    apply keeps_foldl
    intro _
    intro _
    intro _
    apply keeps_raise
    apply keeps_pt
    assumption
    assumption

theorem keeps_cntEpoch (s : State) (c : Nat) (clear : Bool) (hs : Keeps kqu kou kfr s) : Keeps kqu kou kfr (State.cntEpoch s c clear) := by
  unfold State.cntEpoch
  try dsimp only
  with_reducible
    apply keeps_foldl
    intro _
    intro _
    intro _
    apply keeps_follows
    assumption
    apply keeps_loseBars
    apply keeps_loseWatches
    apply keeps_ite
    apply keeps_pt
    apply keeps_pt
    assumption
    apply keeps_pt
    assumption

theorem keeps_flagEpoch (s : State) (f : Nat) (hs : Keeps kqu kou kfr s) : Keeps kqu kou kfr (State.flagEpoch s f) := by
  unfold State.flagEpoch
  try dsimp only
  with_reducible
    apply keeps_foldl
    intro _
    intro _
    intro _
    apply keeps_follows
    assumption
    apply keeps_loseWatches
    apply keeps_pt
    apply keeps_pt
    assumption

theorem keeps_ctxEpochs (s : State) (p c id : Nat) (hs : Keeps kqu kou kfr s) : Keeps kqu kou kfr (State.ctxEpochs s p c id) := by
  unfold State.ctxEpochs
  try dsimp only
  with_reducible
    apply keeps_foldl
    intro _
    intro _
    intro _
    apply keeps_cntEpoch
    assumption
    assumption

theorem keeps_roostReset (s : State) (p : Nat) (ctxs : Nat → Bool) (hs : Keeps kqu kou kfr s) : Keeps kqu kou kfr (State.roostReset s p ctxs) := by
  unfold State.roostReset
  try dsimp only
  with_reducible
    apply keeps_foldl
    intro _
    intro _
    intro _
    apply keeps_flagEpoch
    assumption
    apply keeps_foldl
    intro _
    intro _
    intro _
    apply keeps_cntEpoch
    assumption
    apply keeps_foldl
    intro _
    intro _
    intro _
    apply keeps_inc
    apply keeps_pt
    apply keeps_watchCount
    assumption
    assumption

theorem keeps_flagWrite (s : State) (m f ep : Nat) (v : Bool) (hs : Keeps kqu kou kfr s) : Keeps kqu kou kfr (State.flagWrite s m f ep v).2 := by
  unfold State.flagWrite
  try dsimp only
  with_reducible
    split
    dsimp only
    assumption
    split
    dsimp only
    apply keeps_stale
    assumption
    dsimp only
    apply keeps_ite
    apply keeps_follows
    apply keeps_putFlag
    assumption
    apply keeps_putFlag
    assumption

theorem keeps_flagWrite_eq {s : State} {m f ep : Nat} {v : Bool} {x0 : Code} {x1 : State} (ke : State.flagWrite s m f ep v = (x0, x1)) (hs : Keeps kqu kou kfr s) : Keeps kqu kou kfr x1 := by
  have k := keeps_flagWrite (kqu := kqu) (kou := kou) (kfr := kfr) s m f ep v hs
  rw [ke] at k
  exact k

theorem keeps_sysFlag (s : State) (n : Nat) (v : Bool) (hs : Keeps kqu kou kfr s) : Keeps kqu kou kfr (State.sysFlag s n v) := by
  unfold State.sysFlag
  try dsimp only
  with_reducible
    apply keeps_ite
    assumption
    apply keeps_follows
    apply keeps_pt
    assumption

theorem keeps_arm (s : State) (w : Nat) (hs : Keeps kqu kou kfr s) : Keeps kqu kou kfr (State.arm s w).2 := by
  unfold State.arm
  try dsimp only
  with_reducible
    split
    dsimp only
    assumption
    split
    dsimp only
    assumption
    split
    dsimp only
    apply keeps_foldl
    intro _
    intro _
    intro _
    apply keeps_follows
    assumption
    apply keeps_sendWatch
    apply keeps_watchCount
    apply keeps_pt
    apply keeps_pt
    apply keeps_pt
    assumption
    split
    dsimp only
    apply keeps_foldl
    intro _
    intro _
    intro _
    apply keeps_follows
    assumption
    apply keeps_fireAll
    apply keeps_watchCount
    apply keeps_pt
    apply keeps_pt
    apply keeps_pt
    assumption
    dsimp only
    apply keeps_watchCount
    apply keeps_pt
    apply keeps_pt
    apply keeps_pt
    assumption

theorem keeps_arm_eq {s : State} {w : Nat} {x0 : Code} {x1 : State} (ke : State.arm s w = (x0, x1)) (hs : Keeps kqu kou kfr s) : Keeps kqu kou kfr x1 := by
  have k := keeps_arm (kqu := kqu) (kou := kou) (kfr := kfr) s w hs
  rw [ke] at k
  exact k

theorem keeps_cancel (s : State) (w : Nat) (hs : Keeps kqu kou kfr s) : Keeps kqu kou kfr (State.cancel s w).2 := by
  unfold State.cancel
  try dsimp only
  with_reducible
    split
    dsimp only
    apply keeps_foldl
    intro _
    intro _
    intro _
    apply keeps_follows
    assumption
    apply keeps_sendWatch
    assumption
    dsimp only
    assumption

theorem keeps_cancel_eq {s : State} {w : Nat} {x0 : Code} {x1 : State} (ke : State.cancel s w = (x0, x1)) (hs : Keeps kqu kou kfr s) : Keeps kqu kou kfr x1 := by
  have k := keeps_cancel (kqu := kqu) (kou := kou) (kfr := kfr) s w hs
  rw [ke] at k
  exact k

theorem keeps_barArm (s : State) (b : Nat) (hs : Keeps kqu kou kfr s) : Keeps kqu kou kfr (State.barArm s b).2 := by
  unfold State.barArm
  try dsimp only
  with_reducible
    split
    dsimp only
    assumption
    split
    dsimp only
    assumption
    dsimp only
    apply keeps_setTw
    apply keeps_pt
    apply keeps_pt
    assumption

theorem keeps_barArm_eq {s : State} {b : Nat} {x0 : Code} {x1 : State} (ke : State.barArm s b = (x0, x1)) (hs : Keeps kqu kou kfr s) : Keeps kqu kou kfr x1 := by
  have k := keeps_barArm (kqu := kqu) (kou := kou) (kfr := kfr) s b hs
  rw [ke] at k
  exact k

theorem keeps_barDisarm (s : State) (b : Nat) (hs : Keeps kqu kou kfr s) : Keeps kqu kou kfr (State.barDisarm s b).2 := by
  unfold State.barDisarm
  try dsimp only
  with_reducible
    split
    dsimp only
    apply keeps_pt
    assumption
    dsimp only
    assumption

theorem keeps_barDisarm_eq {s : State} {b : Nat} {x0 : Code} {x1 : State} (ke : State.barDisarm s b = (x0, x1)) (hs : Keeps kqu kou kfr s) : Keeps kqu kou kfr x1 := by
  have k := keeps_barDisarm (kqu := kqu) (kou := kou) (kfr := kfr) s b hs
  rw [ke] at k
  exact k

theorem keeps_addWait (s : State) (w : Nat) (hs : Keeps kqu kou kfr s) : Keeps kqu kou kfr (State.addWait s w) := by
  unfold State.addWait
  try dsimp only
  with_reducible
    apply keeps_ite
    apply keeps_p
    assumption
    apply keeps_raise
    apply keeps_p
    apply keeps_setEntry
    assumption

theorem keeps_markCycles (s : State) (hs : Keeps kqu kou kfr s) : Keeps kqu kou kfr (State.markCycles s) := by
  unfold State.markCycles
  try dsimp only
  with_reducible
    apply keeps_ite
    assumption
    apply keeps_raise
    apply keeps_p
    apply keeps_foldl
    intro _
    intro _
    intro _
    apply keeps_pt
    assumption
    assumption

theorem keeps_waitScan (s : State) (hs : Keeps kqu kou kfr s) : Keeps kqu kou kfr (State.waitScan s) := by
  unfold State.waitScan
  try dsimp only
  with_reducible
    apply keeps_ite
    apply keeps_markCycles
    apply keeps_foldl
    intro _
    intro _
    intro _
    apply keeps_addWait
    assumption
    apply keeps_foldl
    intro _
    intro _
    intro _
    apply keeps_pt
    assumption
    assumption
    apply keeps_foldl
    intro _
    intro _
    intro _
    apply keeps_pt
    assumption
    assumption

theorem keeps_waitClear (s : State) (hs : Keeps kqu kou kfr s) : Keeps kqu kou kfr (State.waitClear s) := by
  unfold State.waitClear
  try dsimp only
  with_reducible
    apply keeps_p
    apply keeps_p
    apply keeps_p
    apply keeps_clearTab
    assumption

end Sys2Proof.Machine
end

