-- ==== Sys2Proof/Laws/KeepsPoolOps.lean ====
section
/-! SUPPORT. What every operation of Machine/PoolOps.lean keeps. -/

namespace Sys2Proof.Machine

variable {kqu : List Instr} {kou : List Emit} {kfr : Nat}

theorem keeps_setCache (s : State) (d p : Nat) (l : List Nat) (hs : Keeps kqu kou kfr s) : Keeps kqu kou kfr (State.setCache s d p l) := by
  unfold State.setCache
  try dsimp only
  with_reducible
    refine keeps_mk ?_
    apply keeps_p
    assumption

theorem keeps_setFree (s : State) (d p n : Nat) (hs : Keeps kqu kou kfr s) : Keeps kqu kou kfr (State.setFree s d p n) := by
  unfold State.setFree
  try dsimp only
  with_reducible
    apply keeps_ite
    apply keeps_raise
    apply keeps_ite
    apply keeps_p
    apply keeps_p
    assumption
    apply keeps_p
    assumption
    apply keeps_ite
    apply keeps_p
    apply keeps_p
    assumption
    apply keeps_p
    assumption

theorem keeps_refillN (k d p : Nat) (s : State) (hs : Keeps kqu kou kfr s) : Keeps kqu kou kfr (State.refillN k d p s) := by
  induction k generalizing s with
  | zero =>
    unfold State.refillN
    exact hs
  | succ k k_ih =>
    unfold State.refillN
    try dsimp only
    with_reducible
      apply k_ih
      apply keeps_ite
      apply keeps_setCache
      apply keeps_p
      assumption
      apply keeps_raise
      apply keeps_setFree
      apply keeps_p
      assumption

theorem keeps_refill (s : State) (d p : Nat) (hs : Keeps kqu kou kfr s) : Keeps kqu kou kfr (State.refill s d p) := by
  unfold State.refill
  try dsimp only
  with_reducible
    apply keeps_refillN
    assumption

theorem keeps_giveBack (s : State) (d p : Nat) (hs : Keeps kqu kou kfr s) : Keeps kqu kou kfr (State.giveBack s d p) := by
  unfold State.giveBack
  try dsimp only
  with_reducible
    apply keeps_setCache
    apply keeps_foldl
    intro _
    intro _
    intro _
    apply keeps_p
    apply keeps_setRing
    assumption
    assumption

theorem keeps_markTaken (s : State) (d p a : Nat) (hs : Keeps kqu kou kfr s) : Keeps kqu kou kfr (State.markTaken s d p a) := by
  unfold State.markTaken
  try dsimp only
  with_reducible
    split
    assumption
    apply keeps_setPoolBit
    assumption

theorem keeps_takeFrom (s : State) (d p : Nat) (hs : Keeps kqu kou kfr s) : Keeps kqu kou kfr (State.takeFrom s d p).2 := by
  unfold State.takeFrom
  try dsimp only
  with_reducible
    split
    dsimp only
    apply keeps_ite
    apply keeps_refill
    assumption
    assumption
    dsimp only
    apply keeps_markTaken
    apply keeps_setFree
    apply keeps_setCache
    apply keeps_ite
    apply keeps_refill
    assumption
    assumption

theorem keeps_takeFrom_eq {s : State} {d p : Nat} {x0 : Option Nat} {x1 : State} (ke : State.takeFrom s d p = (x0, x1)) (hs : Keeps kqu kou kfr s) : Keeps kqu kou kfr x1 := by
  have k := keeps_takeFrom (kqu := kqu) (kou := kou) (kfr := kfr) s d p hs
  rw [ke] at k
  exact k

theorem keeps_takeUp (k d p : Nat) (s : State) (hs : Keeps kqu kou kfr s) : Keeps kqu kou kfr (State.takeUp k d p s).2 := by
  induction k generalizing p s with
  | zero =>
    unfold State.takeUp
    exact hs
  | succ k k_ih =>
    unfold State.takeUp
    try dsimp only
    with_reducible
      split
      apply k_ih
      assumption
      split
      apply k_ih
      refine keeps_takeFrom_eq (by assumption) ?_
      assumption
      dsimp only
      refine keeps_takeFrom_eq (by assumption) ?_
      assumption
theorem keeps_takeUp_eq {k d p : Nat} {s : State} {x0 : Option (Nat × Nat)} {x1 : State} (ke : State.takeUp k d p s = (x0, x1)) (hs : Keeps kqu kou kfr s) : Keeps kqu kou kfr x1 := by
  have k := keeps_takeUp (kqu := kqu) (kou := kou) (kfr := kfr) k d p s hs
  rw [ke] at k
  exact k

theorem keeps_poolAlloc (s : State) (d b : Nat) (hs : Keeps kqu kou kfr s) : Keeps kqu kou kfr (State.poolAlloc s d b).2.2.2 := by
  unfold State.poolAlloc
  try dsimp only
  with_reducible
    split
    dsimp only
    assumption
    split
    dsimp only
    assumption
    split
    dsimp only
    apply keeps_ite
    apply keeps_inc
    refine keeps_takeUp_eq (by assumption) ?_
    assumption
    apply keeps_inc
    apply keeps_inc
    refine keeps_takeUp_eq (by assumption) ?_
    assumption
    dsimp only
    apply keeps_raise
    apply keeps_inc
    refine keeps_takeUp_eq (by assumption) ?_
    assumption

theorem keeps_poolAlloc_eq {s : State} {d b : Nat} {x0 : Code} {x1 : Nat} {x2 : Nat} {x3 : State} (ke : State.poolAlloc s d b = (x0, x1, x2, x3)) (hs : Keeps kqu kou kfr s) : Keeps kqu kou kfr x3 := by
  have k := keeps_poolAlloc (kqu := kqu) (kou := kou) (kfr := kfr) s d b hs
  rw [ke] at k
  exact k

theorem keeps_poolRelease (s : State) (d a : Nat) (hs : Keeps kqu kou kfr s) : Keeps kqu kou kfr (State.poolRelease s d a).2 := by
  unfold State.poolRelease
  try dsimp only
  with_reducible
    split
    dsimp only
    apply keeps_inc
    assumption
    split
    dsimp only
    apply keeps_inc
    apply keeps_setFree
    apply keeps_setCache
    apply keeps_setPoolBit
    apply keeps_ite
    assumption
    apply keeps_giveBack
    assumption
    dsimp only
    apply keeps_inc
    assumption

theorem keeps_poolRelease_eq {s : State} {d a : Nat} {x0 : Bool} {x1 : State} (ke : State.poolRelease s d a = (x0, x1)) (hs : Keeps kqu kou kfr s) : Keeps kqu kou kfr x1 := by
  have k := keeps_poolRelease (kqu := kqu) (kou := kou) (kfr := kfr) s d a hs
  rw [ke] at k
  exact k

theorem keeps_hwFree (s : State) (d a : Nat) (hs : Keeps kqu kou kfr s) : Keeps kqu kou kfr (State.hwFree s d a) := by
  unfold State.hwFree
  try dsimp only
  with_reducible
    apply keeps_ite
    apply keeps_poolRelease
    assumption
    apply keeps_raise
    apply keeps_poolRelease
    assumption

theorem keeps_poolInit (s : State) (d : Nat) (hs : Keeps kqu kou kfr s) : Keeps kqu kou kfr (State.poolInit s d) := by
  unfold State.poolInit
  try dsimp only
  with_reducible
    apply keeps_foldl
    intro _
    intro _
    intro _
    apply keeps_p
    apply keeps_p
    apply keeps_p
    apply keeps_p
    apply keeps_setCache
    assumption
    apply keeps_clearTab
    apply keeps_clearTab
    assumption

end Sys2Proof.Machine
end

