-- ==== Sys2Proof/Laws/KeepsSwitchOps.lean ====
section
/-! SUPPORT. What every operation of Machine/SwitchOps.lean keeps. -/

namespace Sys2Proof.Machine

variable {kqu : List Instr} {kou : List Emit} {kfr : Nat}

theorem keeps_setFreeCells (s : State) (d n : Nat) (hs : Keeps kqu kou kfr s) : Keeps kqu kou kfr (State.setFreeCells s d n) := by
  unfold State.setFreeCells
  try dsimp only
  with_reducible
    apply keeps_ite
    apply keeps_p
    apply keeps_p
    assumption
    apply keeps_p
    assumption

theorem keeps_charge (s : State) (eg : Bool) (a : Nat × Nat) (n : Nat) (hs : Keeps kqu kou kfr s) : Keeps kqu kou kfr (State.charge s eg a n) := by
  unfold State.charge
  try dsimp only
  with_reducible
    apply keeps_setFreeCells
    apply keeps_pt
    assumption

theorem keeps_freeStore (s : State) (eg : Bool) (a : Nat × Nat) (n cells : Nat) (hs : Keeps kqu kou kfr s) : Keeps kqu kou kfr (State.freeStore s eg a n cells) := by
  unfold State.freeStore
  try dsimp only
  with_reducible
    apply keeps_setFreeCells
    apply keeps_pt
    assumption

theorem keeps_uncharge (s : State) (eg : Bool) (a : Nat × Nat) (n : Nat) (hs : Keeps kqu kou kfr s) : Keeps kqu kou kfr (State.uncharge s eg a n) := by
  unfold State.uncharge
  try dsimp only
  with_reducible
    apply keeps_freeStore
    assumption

theorem keeps_checkBudget (s : State) (d : Nat) (hs : Keeps kqu kou kfr s) : Keeps kqu kou kfr (State.checkBudget s d) := by
  unfold State.checkBudget
  try dsimp only
  with_reducible
    apply keeps_ite
    apply keeps_raise
    apply keeps_p
    assumption
    apply keeps_p
    assumption

theorem keeps_setCps (s : State) (l : List Cp) (hs : Keeps kqu kou kfr s) : Keeps kqu kou kfr (State.setCps s l) := by
  unfold State.setCps
  try dsimp only
  with_reducible
    refine keeps_mk ?_
    assumption

theorem keeps_mapCps (s : State) (f : Cp → Cp) (hs : Keeps kqu kou kfr s) : Keeps kqu kou kfr (State.mapCps s f) := by
  unfold State.mapCps
  try dsimp only
  with_reducible
    apply keeps_setCps
    assumption

theorem keeps_dropCp (s : State) (cid : Nat) (hs : Keeps kqu kou kfr s) : Keeps kqu kou kfr (State.dropCp s cid) := by
  unfold State.dropCp
  try dsimp only
  with_reducible
    apply keeps_setCps
    assumption

theorem keeps_newId (s : State) (hs : Keeps kqu kou kfr s) : Keeps kqu kou kfr (State.newId s).2 := by
  unfold State.newId
  try dsimp only
  with_reducible
    refine keeps_mk ?_
    assumption

theorem keeps_newId_eq {s : State} {x0 : Nat} {x1 : State} (ke : State.newId s = (x0, x1)) (hs : Keeps kqu kou kfr s) : Keeps kqu kou kfr x1 := by
  have k := keeps_newId (kqu := kqu) (kou := kou) (kfr := kfr) s hs
  rw [ke] at k
  exact k

theorem keeps_putCp (s : State) (cid : Nat) (p : Place) (hs : Keeps kqu kou kfr s) : Keeps kqu kou kfr (State.putCp s cid p) := by
  unfold State.putCp
  try dsimp only
  with_reducible
    apply keeps_mapCps
    assumption

theorem keeps_ingressSent (s : State) (c : Cp) (n : Nat) (hs : Keeps kqu kou kfr s) : Keeps kqu kou kfr (State.ingressSent s c n) := by
  unfold State.ingressSent
  try dsimp only
  with_reducible
    split
    assumption
    apply keeps_ite
    assumption
    apply keeps_freeStore
    assumption

theorem keeps_ingressDone (s : State) (c : Cp) (hs : Keeps kqu kou kfr s) : Keeps kqu kou kfr (State.ingressDone s c) := by
  unfold State.ingressDone
  try dsimp only
  with_reducible
    apply keeps_ite
    assumption
    split
    assumption
    apply keeps_uncharge
    apply keeps_mapCps
    assumption

theorem keeps_setBlocks (s : State) (l : List SpillBlock) (hs : Keeps kqu kou kfr s) : Keeps kqu kou kfr (State.setBlocks s l) := by
  unfold State.setBlocks
  try dsimp only
  with_reducible
    refine keeps_mk ?_
    assumption

theorem keeps_spillBufs (k d n : Nat) (l : List (Nat × Nat)) (s : State) (hs : Keeps kqu kou kfr s) : Keeps kqu kou kfr (State.spillBufs k d n l s).2 := by
  induction k generalizing n l s with
  | zero =>
    unfold State.spillBufs
    exact hs
  | succ k k_ih =>
    unfold State.spillBufs
    try dsimp only
    with_reducible
      split
      dsimp only
      assumption
      split
      apply k_ih
      refine keeps_poolAlloc_eq (by assumption) ?_
      assumption
      dsimp only
      apply keeps_foldl
      intro _
      intro _
      intro _
      apply keeps_hwFree
      assumption
      refine keeps_poolAlloc_eq (by assumption) ?_
      assumption
theorem keeps_spillBufs_eq {k d n : Nat} {l : List (Nat × Nat)} {s : State} {x0 : Option (List (Nat × Nat))} {x1 : State} (ke : State.spillBufs k d n l s = (x0, x1)) (hs : Keeps kqu kou kfr s) : Keeps kqu kou kfr x1 := by
  have k := keeps_spillBufs (kqu := kqu) (kou := kou) (kfr := kfr) k d n l s hs
  rw [ke] at k
  exact k

theorem keeps_setWq (s : State) (d n : Nat) (hs : Keeps kqu kou kfr s) : Keeps kqu kou kfr (State.setWq s d n) := by
  unfold State.setWq
  try dsimp only
  with_reducible
    apply keeps_p
    assumption

theorem keeps_addSpilled (s : State) (eg : Bool) (a : Nat × Nat) (segs : Nat) (hs : Keeps kqu kou kfr s) : Keeps kqu kou kfr (State.addSpilled s eg a segs) := by
  unfold State.addSpilled
  try dsimp only
  with_reducible
    apply keeps_p
    apply keeps_pt
    assumption

theorem keeps_writeBlocks (s : State) (eg : Bool) (a : Nat × Nat) (key : Nat) (c : Cp) (hs : Keeps kqu kou kfr s) : Keeps kqu kou kfr (State.writeBlocks s eg a key c).2 := by
  unfold State.writeBlocks
  try dsimp only
  with_reducible
    split
    dsimp only
    refine keeps_spillBufs_eq (by assumption) ?_
    assumption
    dsimp only
    apply keeps_add
    apply keeps_foldl2
    intro _
    intro _
    intro _
    dsimp only
    apply keeps_setBlocks
    apply keeps_writeSpace
    apply keeps_writeSpace
    assumption
    dsimp only
    refine keeps_spillBufs_eq (by assumption) ?_
    assumption

theorem keeps_writeBlocks_eq {s : State} {eg : Bool} {a : Nat × Nat} {key : Nat} {c : Cp} {x0 : Bool} {x1 : State} (ke : State.writeBlocks s eg a key c = (x0, x1)) (hs : Keeps kqu kou kfr s) : Keeps kqu kou kfr x1 := by
  have k := keeps_writeBlocks (kqu := kqu) (kou := kou) (kfr := kfr) s eg a key c hs
  rw [ke] at k
  exact k

theorem keeps_spillFrame (s : State) (eg : Bool) (a : Nat × Nat) (key : Nat) (c : Cp) (hs : Keeps kqu kou kfr s) : Keeps kqu kou kfr (State.spillFrame s eg a key c).2 := by
  unfold State.spillFrame
  try dsimp only
  with_reducible
    apply keeps_ite
    apply keeps_addSpilled
    apply keeps_writeBlocks
    assumption
    apply keeps_writeBlocks
    assumption

theorem keeps_spillFrame_eq {s : State} {eg : Bool} {a : Nat × Nat} {key : Nat} {c : Cp} {x0 : Bool} {x1 : State} (ke : State.spillFrame s eg a key c = (x0, x1)) (hs : Keeps kqu kou kfr s) : Keeps kqu kou kfr x1 := by
  have k := keeps_spillFrame (kqu := kqu) (kou := kou) (kfr := kfr) s eg a key c hs
  rw [ke] at k
  exact k

theorem keeps_unspill (s : State) (eg : Bool) (a : Nat × Nat) (segs : Nat) (hs : Keeps kqu kou kfr s) : Keeps kqu kou kfr (State.unspill s eg a segs) := by
  unfold State.unspill
  try dsimp only
  with_reducible
    apply keeps_p
    apply keeps_pt
    assumption

theorem keeps_dropBlocks (s : State) (eg : Bool) (key : Nat) (hs : Keeps kqu kou kfr s) : Keeps kqu kou kfr (State.dropBlocks s eg key) := by
  unfold State.dropBlocks
  try dsimp only
  with_reducible
    apply keeps_foldl
    intro _
    intro _
    intro _
    apply keeps_hwFree
    assumption
    apply keeps_setBlocks
    assumption

theorem keeps_freeSpilled (s : State) (eg : Bool) (a : Nat × Nat) (key segs : Nat) (hs : Keeps kqu kou kfr s) : Keeps kqu kou kfr (State.freeSpilled s eg a key segs) := by
  unfold State.freeSpilled
  try dsimp only
  with_reducible
    apply keeps_uncharge
    apply keeps_unspill
    apply keeps_dropBlocks
    assumption

theorem keeps_showWaiting (s : State) (a : Nat × Nat) (hs : Keeps kqu kou kfr s) : Keeps kqu kou kfr (State.showWaiting s a) := by
  unfold State.showWaiting
  try dsimp only
  with_reducible
    apply keeps_pt
    assumption

theorem keeps_discard (s : State) (c : Cp) (hs : Keeps kqu kou kfr s) : Keeps kqu kou kfr (State.discard s c) := by
  unfold State.discard
  try dsimp only
  with_reducible
    split
    apply keeps_freeStore
    refine keeps_mk ?_
    apply keeps_dropCp
    assumption
    apply keeps_freeStore
    refine keeps_mk ?_
    apply keeps_dropCp
    assumption
    apply keeps_freeStore
    refine keeps_mk ?_
    apply keeps_dropCp
    assumption
    apply keeps_setWq
    apply keeps_freeSpilled
    refine keeps_mk ?_
    apply keeps_dropCp
    assumption
    apply keeps_ite
    refine keeps_mk ?_
    apply keeps_dropCp
    assumption
    split
    refine keeps_mk ?_
    apply keeps_dropCp
    assumption
    apply keeps_freeSpilled
    refine keeps_mk ?_
    apply keeps_dropCp
    assumption
    split
    refine keeps_mk ?_
    apply keeps_dropCp
    assumption
    apply keeps_showWaiting
    refine keeps_mk ?_
    apply keeps_dropCp
    assumption
    refine keeps_mk ?_
    apply keeps_dropCp
    assumption
    apply keeps_ingressDone
    refine keeps_mk ?_
    apply keeps_dropCp
    assumption

theorem keeps_dropDown (s : State) (tile : Nat) (cs : List Cp) (hs : Keeps kqu kou kfr s) : Keeps kqu kou kfr (State.dropDown s tile cs) := by
  unfold State.dropDown
  try dsimp only
  with_reducible
    apply keeps_foldl
    intro _
    intro _
    intro _
    apply keeps_inc
    apply keeps_discard
    assumption
    assumption

theorem keeps_sendPfc (s : State) (port vc time : Nat) (hs : Keeps kqu kou kfr s) : Keeps kqu kou kfr (State.sendPfc s port vc time) := by
  unfold State.sendPfc
  try dsimp only
  with_reducible
    apply keeps_inc
    apply keeps_emit
    assumption

theorem keeps_pfcCheck (s : State) (port : Nat) (hs : Keeps kqu kou kfr s) : Keeps kqu kou kfr (State.pfcCheck s port) := by
  unfold State.pfcCheck
  try dsimp only
  with_reducible
    apply keeps_ite
    apply keeps_foldl
    intro _
    intro _
    intro _
    apply keeps_ite
    apply keeps_ite
    refine keeps_mk ?_
    apply keeps_sendPfc
    assumption
    apply keeps_ite
    refine keeps_mk ?_
    apply keeps_sendPfc
    assumption
    assumption
    assumption
    assumption
    assumption

theorem keeps_setTokens (s : State) (k : Nat) (v : Int) (hs : Keeps kqu kou kfr s) : Keeps kqu kou kfr (State.setTokens s k v) := by
  unfold State.setTokens
  try dsimp only
  with_reducible
    refine keeps_mk ?_
    assumption

theorem keeps_police (s : State) (port vc : Nat) (tlink : Bool) (n : Nat) (hs : Keeps kqu kou kfr s) : Keeps kqu kou kfr (State.police s port vc tlink n).2 := by
  unfold State.police
  try dsimp only
  with_reducible
    split
    dsimp only
    assumption
    split
    dsimp only
    assumption
    split
    dsimp only
    apply keeps_setTokens
    assumption
    dsimp only
    apply keeps_raise
    apply keeps_inc
    apply keeps_pt
    assumption

theorem keeps_police_eq {s : State} {port vc : Nat} {tlink : Bool} {n : Nat} {x0 : Bool} {x1 : State} (ke : State.police s port vc tlink n = (x0, x1)) (hs : Keeps kqu kou kfr s) : Keeps kqu kou kfr x1 := by
  have k := keeps_police (kqu := kqu) (kou := kou) (kfr := kfr) s port vc tlink n hs
  rw [ke] at k
  exact k

theorem keeps_hand (s : State) (owner : Nat) (bs : List Byte) (hs : Keeps kqu kou kfr s) : Keeps kqu kou kfr (State.hand s owner bs) := by
  unfold State.hand
  try dsimp only
  with_reducible
    refine keeps_mk ?_
    assumption

theorem keeps_unhand (s : State) (owner : Nat) (bs : List Byte) (hs : Keeps kqu kou kfr s) : Keeps kqu kou kfr (State.unhand s owner bs) := by
  unfold State.unhand
  try dsimp only
  with_reducible
    refine keeps_mk ?_
    assumption

theorem keeps_dropEgress (s : State) (d : Nat) (hs : Keeps kqu kou kfr s) : Keeps kqu kou kfr (State.dropEgress s d) := by
  unfold State.dropEgress
  try dsimp only
  with_reducible
    apply keeps_raise
    apply keeps_inc
    assumption

theorem keeps_egressPlace (s : State) (c : Cp) (hs : Keeps kqu kou kfr s) : Keeps kqu kou kfr (State.egressPlace s c) := by
  unfold State.egressPlace
  try dsimp only
  with_reducible
    apply keeps_ite
    apply keeps_setFreeCells
    apply keeps_setCps
    assumption
    apply keeps_ite
    apply keeps_ite
    apply keeps_inc
    apply keeps_addSpilled
    apply keeps_setCps
    assumption
    apply keeps_addSpilled
    apply keeps_setCps
    assumption
    apply keeps_dropEgress
    assumption

theorem keeps_spillMore (s : State) (c : Cp) (n : Nat) (hs : Keeps kqu kou kfr s) : Keeps kqu kou kfr (State.spillMore s c n) := by
  unfold State.spillMore
  try dsimp only
  with_reducible
    apply keeps_ite
    apply keeps_dropEgress
    apply keeps_discard
    assumption
    apply keeps_ite
    apply keeps_setWq
    apply keeps_mapCps
    assumption
    apply keeps_ite
    apply keeps_writeBlocks
    apply keeps_setWq
    apply keeps_mapCps
    assumption
    apply keeps_dropEgress
    apply keeps_discard
    apply keeps_writeBlocks
    apply keeps_setWq
    apply keeps_mapCps
    assumption

theorem keeps_sendWhole (s : State) (c : Cp) (hs : Keeps kqu kou kfr s) : Keeps kqu kou kfr (State.sendWhole s c) := by
  unfold State.sendWhole
  try dsimp only
  with_reducible
    apply keeps_emit
    apply keeps_discard
    assumption

theorem keeps_landPort (s : State) (c : Cp) (n : Nat) (hs : Keeps kqu kou kfr s) : Keeps kqu kou kfr (State.landPort s c n) := by
  unfold State.landPort
  try dsimp only
  with_reducible
    apply keeps_ite
    apply keeps_spillMore
    assumption
    apply keeps_ite
    apply keeps_sendWhole
    apply keeps_pt
    apply keeps_mapCps
    assumption
    apply keeps_pt
    apply keeps_mapCps
    assumption

theorem keeps_openPorts (s : State) (c : Cp) (hs : Keeps kqu kou kfr s) : Keeps kqu kou kfr (State.openPorts s c) := by
  unfold State.openPorts
  try dsimp only
  with_reducible
    apply keeps_foldl
    intro _
    intro _
    intro _
    apply keeps_ite
    apply keeps_ite
    apply keeps_egressPlace
    apply keeps_newId
    assumption
    apply keeps_inc
    assumption
    assumption
    assumption

theorem keeps_arrive (s : State) (c : Cp) (n : Nat) (hs : Keeps kqu kou kfr s) : Keeps kqu kou kfr (State.arrive s c n) := by
  unfold State.arrive
  try dsimp only
  with_reducible
    apply keeps_ite
    apply keeps_ite
    apply keeps_mapCps
    assumption
    apply keeps_ite
    apply keeps_hand
    apply keeps_dropCp
    assumption
    apply keeps_inc
    apply keeps_dropCp
    assumption
    apply keeps_ite
    apply keeps_dropCp
    apply keeps_foldl
    intro _
    intro _
    intro _
    apply keeps_landPort
    assumption
    apply keeps_ite
    apply keeps_openPorts
    assumption
    assumption
    apply keeps_mapCps
    apply keeps_foldl
    intro _
    intro _
    intro _
    apply keeps_landPort
    assumption
    apply keeps_ite
    apply keeps_openPorts
    assumption
    assumption

theorem keeps_nextSeq (s : State) (i e vc : Nat) (hs : Keeps kqu kou kfr s) : Keeps kqu kou kfr (State.nextSeq s i e vc).2 := by
  unfold State.nextSeq
  try dsimp only
  with_reducible
    refine keeps_mk ?_
    assumption

theorem keeps_nextSeq_eq {s : State} {i e vc : Nat} {x0 : Nat} {x1 : State} (ke : State.nextSeq s i e vc = (x0, x1)) (hs : Keeps kqu kou kfr s) : Keeps kqu kou kfr x1 := by
  have k := keeps_nextSeq (kqu := kqu) (kou := kou) (kfr := kfr) s i e vc hs
  rw [ke] at k
  exact k

theorem keeps_bypass (s : State) (fid : Nat) (hs : Keeps kqu kou kfr s) : Keeps kqu kou kfr (State.bypass s fid) := by
  unfold State.bypass
  try dsimp only
  with_reducible
    apply keeps_foldl
    intro _
    intro _
    intro _
    apply keeps_arrive
    apply keeps_ingressDone
    apply keeps_inc
    apply keeps_putCp
    assumption
    assumption

theorem keeps_makeCopies (s : State) (c : Cp) (ts : List (Nat × Nat × Bool)) (p : Place) (hs : Keeps kqu kou kfr s) : Keeps kqu kou kfr (State.makeCopies s c ts p) := by
  unfold State.makeCopies
  try dsimp only
  with_reducible
    apply keeps_foldl
    intro _
    intro _
    intro _
    apply keeps_setCps
    apply keeps_nextSeq
    apply keeps_newId
    assumption
    assumption

theorem keeps_dropAdmit (s : State) (a : Nat × Nat) (hs : Keeps kqu kou kfr s) : Keeps kqu kou kfr (State.dropAdmit s a) := by
  unfold State.dropAdmit
  try dsimp only
  with_reducible
    apply keeps_raise
    apply keeps_inc
    assumption

theorem keeps_admitWait (s : State) (a : Nat × Nat) (c : Cp) (ts : List (Nat × Nat × Bool)) (hs : Keeps kqu kou kfr s) : Keeps kqu kou kfr (State.admitWait s a c ts) := by
  unfold State.admitWait
  try dsimp only
  with_reducible
    apply keeps_makeCopies
    apply keeps_pt
    apply keeps_inc
    assumption

theorem keeps_countMc (s : State) (c : Cp) (ts : List (Nat × Nat × Bool)) (hs : Keeps kqu kou kfr s) : Keeps kqu kou kfr (State.countMc s c ts) := by
  unfold State.countMc
  try dsimp only
  with_reducible
    apply keeps_ite
    apply keeps_add
    assumption
    assumption

theorem keeps_admitCp (s : State) (c : Cp) (ts : List (Nat × Nat × Bool)) (res : Nat) (hs : Keeps kqu kou kfr s) : Keeps kqu kou kfr (State.admitCp s c ts res) := by
  unfold State.admitCp
  try dsimp only
  with_reducible
    split
    apply keeps_bypass
    apply keeps_makeCopies
    assumption
    split
    apply keeps_pfcCheck
    apply keeps_bypass
    apply keeps_makeCopies
    apply keeps_countMc
    apply keeps_charge
    assumption
    apply keeps_ite
    apply keeps_makeCopies
    apply keeps_countMc
    apply keeps_spillFrame
    assumption
    apply keeps_ite
    apply keeps_pfcCheck
    apply keeps_admitWait
    apply keeps_countMc
    apply keeps_spillFrame
    assumption
    apply keeps_dropAdmit
    apply keeps_spillFrame
    assumption
    apply keeps_pfcCheck
    apply keeps_admitWait
    apply keeps_countMc
    assumption
    apply keeps_dropAdmit
    assumption

theorem keeps_admitRetry (s : State) (a : Nat × Nat) (hs : Keeps kqu kou kfr s) : Keeps kqu kou kfr (State.admitRetry s a) := by
  unfold State.admitRetry
  try dsimp only
  with_reducible
    split
    assumption
    split
    apply keeps_pfcCheck
    apply keeps_bypass
    apply keeps_showWaiting
    apply keeps_mapCps
    apply keeps_charge
    apply keeps_pt
    assumption
    apply keeps_ite
    apply keeps_pfcCheck
    apply keeps_showWaiting
    apply keeps_mapCps
    apply keeps_spillFrame
    apply keeps_pt
    assumption
    apply keeps_showWaiting
    apply keeps_spillFrame
    apply keeps_pt
    assumption
    assumption
    apply keeps_pfcCheck
    apply keeps_dropAdmit
    apply keeps_foldl
    intro _
    intro _
    intro _
    apply keeps_discard
    assumption
    assumption

theorem keeps_copyOf (s : State) (d : Nat) (hs : Keeps kqu kou kfr s) : Keeps kqu kou kfr (s.copyOf d) := by
  unfold State.copyOf
  refine keeps_tabs' hs (kvWf_foldl (fun l e hl => ?_) _ hs.wf.tabs)
  split
  · exact hl
  · exact kvWf_put _ _ hl

theorem keeps_mendCopies (s : State) (n i : Nat) (hs : Keeps kqu kou kfr s) : Keeps kqu kou kfr (State.mendCopies s n i) := by
  unfold State.mendCopies
  try dsimp only
  with_reducible
    refine keeps_mk ?_
    assumption

theorem keeps_drop (s : State) (port : Nat) (f : Fld) (hs : Keeps kqu kou kfr s) : Keeps kqu kou kfr (State.drop s port f) := by
  unfold State.drop
  try dsimp only
  with_reducible
    apply keeps_inc
    assumption

theorem keeps_tlinkTo (s : State) (port vc out : Nat) (att : Bool) (bs : List Byte) (hs : Keeps kqu kou kfr s) : Keeps kqu kou kfr (State.tlinkTo s port vc out att bs) := by
  unfold State.tlinkTo
  try dsimp only
  with_reducible
    apply keeps_ite
    apply keeps_drop
    assumption
    apply keeps_ite
    apply keeps_drop
    assumption
    apply keeps_ite
    apply keeps_drop
    assumption
    apply keeps_ite
    apply keeps_raise
    apply keeps_drop
    assumption
    apply keeps_ite
    apply keeps_police
    apply keeps_ite
    apply keeps_drop
    assumption
    assumption
    apply keeps_admitCp
    apply keeps_newId
    apply keeps_police
    apply keeps_ite
    apply keeps_drop
    assumption
    assumption

theorem keeps_ingressTlink (s : State) (port vc : Nat) (bs : List Byte) (hs : Keeps kqu kou kfr s) : Keeps kqu kou kfr (State.ingressTlink s port vc bs) := by
  unfold State.ingressTlink
  try dsimp only
  with_reducible
    apply keeps_ite
    apply keeps_ite
    apply keeps_hand
    assumption
    apply keeps_inc
    assumption
    apply keeps_ite
    apply keeps_ite
    apply keeps_hand
    assumption
    apply keeps_raise
    apply keeps_inc
    assumption
    split
    apply keeps_tlinkTo
    apply keeps_drop
    assumption
    split
    apply keeps_drop
    apply keeps_drop
    assumption
    apply keeps_tlinkTo
    apply keeps_drop
    assumption

theorem keeps_ethPorts (s : State) (port vc : Nat) (ps : List Nat) (hs : Keeps kqu kou kfr s) : Keeps kqu kou kfr (State.ethPorts s port vc ps).2 := by
  unfold State.ethPorts
  try dsimp only
  with_reducible
    apply keeps_foldl2
    intro _
    intro _
    intro _
    split
    dsimp only
    apply keeps_drop
    assumption
    split
    dsimp only
    apply keeps_drop
    assumption
    split
    dsimp only
    apply keeps_raise
    apply keeps_drop
    assumption
    dsimp only
    assumption
    dsimp only
    assumption

theorem keeps_ethPorts_eq {s : State} {port vc : Nat} {ps : List Nat} {x0 : List Nat} {x1 : State} (ke : State.ethPorts s port vc ps = (x0, x1)) (hs : Keeps kqu kou kfr s) : Keeps kqu kou kfr x1 := by
  have k := keeps_ethPorts (kqu := kqu) (kou := kou) (kfr := kfr) s port vc ps hs
  rw [ke] at k
  exact k

theorem keeps_ethTo (s : State) (port vc : Nat) (e : Eth) (bs : List Byte) (mc : Option (List Nat)) (w : Option Rewrite)
    (ps : List Nat) (hs : Keeps kqu kou kfr s) : Keeps kqu kou kfr (State.ethTo s port vc e bs mc w ps) := by
  unfold State.ethTo
  try dsimp only
  with_reducible
    apply keeps_ite
    apply keeps_ethPorts
    assumption
    apply keeps_ite
    apply keeps_police
    apply keeps_ethPorts
    assumption
    apply keeps_ite
    apply keeps_ite
    apply keeps_foldl
    intro _
    intro _
    intro _
    apply keeps_ite
    apply keeps_drop
    assumption
    assumption
    apply keeps_police
    apply keeps_ethPorts
    assumption
    apply keeps_foldl
    intro _
    intro _
    intro _
    apply keeps_drop
    assumption
    apply keeps_foldl
    intro _
    intro _
    intro _
    apply keeps_ite
    apply keeps_drop
    assumption
    assumption
    apply keeps_police
    apply keeps_ethPorts
    assumption
    apply keeps_admitCp
    apply keeps_newId
    apply keeps_ite
    apply keeps_foldl
    intro _
    intro _
    intro _
    apply keeps_ite
    apply keeps_drop
    assumption
    assumption
    apply keeps_police
    apply keeps_ethPorts
    assumption
    apply keeps_foldl
    intro _
    intro _
    intro _
    apply keeps_drop
    assumption
    apply keeps_foldl
    intro _
    intro _
    intro _
    apply keeps_ite
    apply keeps_drop
    assumption
    assumption
    apply keeps_police
    apply keeps_ethPorts
    assumption

theorem keeps_ingressEth (s : State) (port : Nat) (bs : List Byte) (hs : Keeps kqu kou kfr s) : Keeps kqu kou kfr (State.ingressEth s port bs) := by
  unfold State.ingressEth
  try dsimp only
  with_reducible
    apply keeps_ite
    apply keeps_drop
    apply keeps_drop
    assumption
    apply keeps_ite
    apply keeps_ite
    apply keeps_drop
    apply keeps_drop
    assumption
    apply keeps_ite
    apply keeps_drop
    apply keeps_drop
    assumption
    split
    apply keeps_drop
    apply keeps_drop
    assumption
    apply keeps_ethTo
    apply keeps_drop
    assumption
    apply keeps_ite
    apply keeps_drop
    apply keeps_drop
    assumption
    split
    apply keeps_drop
    apply keeps_drop
    assumption
    apply keeps_ite
    apply keeps_drop
    assumption
    apply keeps_ethTo
    apply keeps_drop
    assumption
    apply keeps_ite
    apply keeps_drop
    apply keeps_drop
    assumption
    apply keeps_ethTo
    apply keeps_drop
    assumption

end Sys2Proof.Machine
end

