-- ==== Sys2Proof/Laws/KeepsXbarOps.lean ====
section
/-! SUPPORT. What every operation of Machine/XbarOps.lean keeps. -/

namespace Sys2Proof.Machine

variable {kqu : List Instr} {kou : List Emit} {kfr : Nat}

theorem keeps_showPos (s : State) (hs : Keeps kqu kou kfr s) : Keeps kqu kou kfr (State.showPos s) := by
  unfold State.showPos
  try dsimp only
  with_reducible
    apply keeps_foldl
    intro _
    intro _
    intro _
    apply keeps_p
    apply keeps_p
    apply keeps_p
    apply keeps_p
    assumption
    assumption

theorem keeps_joinPattern (s : State) (t : Nat) (hs : Keeps kqu kou kfr s) : Keeps kqu kou kfr (State.joinPattern s t) := by
  unfold State.joinPattern
  try dsimp only
  with_reducible
    apply keeps_showPos
    apply keeps_p
    apply keeps_p
    apply keeps_ite
    apply keeps_p
    assumption
    assumption

theorem keeps_leavePattern (s : State) (t : Nat) (evacuated : Bool) (hs : Keeps kqu kou kfr s) : Keeps kqu kou kfr (State.leavePattern s t evacuated) := by
  unfold State.leavePattern
  try dsimp only
  with_reducible
    apply keeps_showPos
    apply keeps_p
    apply keeps_p
    assumption

theorem keeps_nextCell (s : State) (i e vc k : Nat) (hs : Keeps kqu kou kfr s) : Keeps kqu kou kfr (State.nextCell s i e vc k).2 := by
  induction k generalizing s with
  | zero =>
    unfold State.nextCell
    exact hs
  | succ k k_ih =>
    unfold State.nextCell
    try dsimp only
    with_reducible
      split
      dsimp only
      assumption
      apply k_ih
      apply keeps_raise
      apply keeps_inc
      apply keeps_pfcCheck
      apply keeps_discard
      assumption
theorem keeps_nextCell_eq {s : State} {i e vc k : Nat} {x0 : List (Nat × Nat)} {x1 : State} (ke : State.nextCell s i e vc k = (x0, x1)) (hs : Keeps kqu kou kfr s) : Keeps kqu kou kfr x1 := by
  have k := keeps_nextCell (kqu := kqu) (kou := kou) (kfr := kfr) s i e vc k hs
  rw [ke] at k
  exact k

theorem keeps_leave (s : State) (k : Nat) (parts : List (Nat × Nat)) (hs : Keeps kqu kou kfr s) : Keeps kqu kou kfr (State.leave s k parts) := by
  unfold State.leave
  try dsimp only
  with_reducible
    apply keeps_foldl
    intro _
    intro _
    intro _
    split
    assumption
    apply keeps_pfcCheck
    apply keeps_ite
    apply keeps_ingressDone
    apply keeps_ingressSent
    apply keeps_mapCps
    assumption
    apply keeps_ingressSent
    apply keeps_mapCps
    assumption
    assumption

theorem keeps_spreadOne (s : State) (k i : Nat) (grant : Nat → Bool) (hs : Keeps kqu kou kfr s) : Keeps kqu kou kfr (State.spreadOne s k i grant) := by
  unfold State.spreadOne
  try dsimp only
  with_reducible
    split
    assumption
    apply keeps_ite
    apply keeps_p
    apply keeps_nextCell
    assumption
    apply keeps_ite
    apply keeps_inc
    apply keeps_leave
    refine keeps_mk ?_
    apply keeps_p
    apply keeps_nextCell
    assumption
    apply keeps_inc
    apply keeps_inc
    apply keeps_leave
    refine keeps_mk ?_
    apply keeps_p
    apply keeps_nextCell
    assumption

theorem keeps_spread (s : State) (k i : Nat) (hs : Keeps kqu kou kfr s) : Keeps kqu kou kfr (State.spread s k i) := by
  unfold State.spread
  try dsimp only
  with_reducible
    apply keeps_spreadOne
    apply keeps_spreadOne
    apply keeps_p
    assumption

theorem keeps_landCell (s : State) (c : Cell) (hs : Keeps kqu kou kfr s) : Keeps kqu kou kfr (State.landCell s c) := by
  unfold State.landCell
  try dsimp only
  with_reducible
    apply keeps_foldl
    intro _
    intro _
    intro _
    split
    assumption
    apply keeps_arrive
    assumption
    assumption

theorem keeps_deliverOne (s : State) (m : Mid) (hs : Keeps kqu kou kfr s) : Keeps kqu kou kfr (State.deliverOne s m) := by
  unfold State.deliverOne
  try dsimp only
  with_reducible
    apply keeps_ite
    refine keeps_mk ?_
    apply keeps_inc
    refine keeps_mk ?_
    assumption
    apply keeps_landCell
    apply keeps_inc
    refine keeps_mk ?_
    assumption

theorem keeps_deliver (s : State) (k level : Nat) (hs : Keeps kqu kou kfr s) : Keeps kqu kou kfr (State.deliver s k level) := by
  unfold State.deliver
  try dsimp only
  with_reducible
    apply keeps_foldl
    intro _
    intro _
    intro _
    apply keeps_foldl
    intro _
    intro _
    intro _
    apply keeps_deliverOne
    assumption
    assumption
    assumption

theorem keeps_showMid (s : State) (t : Nat) (hs : Keeps kqu kou kfr s) : Keeps kqu kou kfr (State.showMid s t) := by
  unfold State.showMid
  try dsimp only
  with_reducible
    apply keeps_ite
    apply keeps_p
    apply keeps_p
    assumption
    apply keeps_p
    assumption

theorem keeps_xbarSlot (s : State) (last : Nat) (hs : Keeps kqu kou kfr s) : Keeps kqu kou kfr (State.xbarSlot s last) := by
  unfold State.xbarSlot
  try dsimp only
  with_reducible
    apply keeps_ite
    assumption
    apply keeps_ite
    apply keeps_inc
    apply keeps_inc
    apply keeps_p
    apply keeps_p
    apply keeps_inc
    apply keeps_foldl
    intro _
    intro _
    intro _
    apply keeps_showMid
    assumption
    apply keeps_deliver
    apply keeps_deliver
    apply keeps_foldl
    intro _
    intro _
    intro _
    apply keeps_spread
    assumption
    assumption
    apply keeps_p
    apply keeps_p
    apply keeps_inc
    apply keeps_foldl
    intro _
    intro _
    intro _
    apply keeps_showMid
    assumption
    apply keeps_deliver
    apply keeps_deliver
    apply keeps_foldl
    intro _
    intro _
    intro _
    apply keeps_spread
    assumption
    assumption

theorem keeps_ethRelease (s : State) (port : Nat) (hs : Keeps kqu kou kfr s) : Keeps kqu kou kfr (State.ethRelease s port) := by
  unfold State.ethRelease
  try dsimp only
  with_reducible
    split
    assumption
    apply keeps_setCps
    assumption

theorem keeps_setDrr (s : State) (port : Nat) (d : Drr) (hs : Keeps kqu kou kfr s) : Keeps kqu kou kfr (State.setDrr s port d) := by
  unfold State.setDrr
  try dsimp only
  with_reducible
    refine keeps_mk ?_
    assumption

theorem keeps_ecn (s : State) (port : Nat) (c : Cp) (hs : Keeps kqu kou kfr s) : Keeps kqu kou kfr (State.ecn s port c).2 := by
  unfold State.ecn
  try dsimp only
  with_reducible
    split
    dsimp only
    apply keeps_ite
    apply keeps_inc
    assumption
    assumption
    dsimp only
    assumption

theorem keeps_ecn_eq {s : State} {port : Nat} {c : Cp} {x0 : Cp} {x1 : State} (ke : State.ecn s port c = (x0, x1)) (hs : Keeps kqu kou kfr s) : Keeps kqu kou kfr x1 := by
  have k := keeps_ecn (kqu := kqu) (kou := kou) (kfr := kfr) s port c hs
  rw [ke] at k
  exact k

theorem keeps_spend (s : State) (port vc n : Nat) (hs : Keeps kqu kou kfr s) : Keeps kqu kou kfr (State.spend s port vc n) := by
  unfold State.spend
  try dsimp only
  with_reducible
    apply keeps_ite
    apply keeps_setTokens
    apply keeps_ite
    apply keeps_setTokens
    assumption
    assumption
    apply keeps_ite
    apply keeps_setTokens
    assumption
    assumption

theorem keeps_startFrame (s : State) (port : Nat) (c : Cp) (hs : Keeps kqu kou kfr s) : Keeps kqu kou kfr (State.startFrame s port c) := by
  unfold State.startFrame
  try dsimp only
  with_reducible
    apply keeps_ite
    apply keeps_raise
    apply keeps_inc
    apply keeps_discard
    assumption
    apply keeps_ite
    apply keeps_sendWhole
    apply keeps_mapCps
    apply keeps_inc
    apply keeps_spend
    apply keeps_ecn
    assumption
    apply keeps_mapCps
    apply keeps_inc
    apply keeps_spend
    apply keeps_ecn
    assumption

theorem keeps_underrun (s : State) (port : Nat) (hs : Keeps kqu kou kfr s) : Keeps kqu kou kfr (State.underrun s port) := by
  unfold State.underrun
  try dsimp only
  with_reducible
    split
    assumption
    apply keeps_raise
    apply keeps_inc
    apply keeps_inc
    apply keeps_emit
    apply keeps_discard
    assumption

theorem keeps_endStall (s : State) (c : Cp) (hs : Keeps kqu kou kfr s) : Keeps kqu kou kfr (State.endStall s c) := by
  unfold State.endStall
  try dsimp only
  with_reducible
    refine keeps_mk ?_
    assumption

theorem keeps_egressSelect (s : State) (port : Nat) (hs : Keeps kqu kou kfr s) : Keeps kqu kou kfr (State.egressSelect s port) := by
  unfold State.egressSelect
  try dsimp only
  with_reducible
    apply keeps_ite
    apply keeps_underrun
    assumption
    split
    apply keeps_setDrr
    apply keeps_underrun
    assumption
    apply keeps_startFrame
    apply keeps_endStall
    apply keeps_setDrr
    apply keeps_underrun
    assumption

theorem keeps_accrueTile (s : State) (t cycles : Nat) (hs : Keeps kqu kou kfr s) : Keeps kqu kou kfr (State.accrueTile s t cycles) := by
  unfold State.accrueTile
  try dsimp only
  with_reducible
    apply keeps_foldl
    intro _
    intro _
    intro _
    apply keeps_ite
    apply keeps_setTokens
    assumption
    assumption
    apply keeps_foldl
    intro _
    intro _
    intro _
    apply keeps_foldl
    intro _
    intro _
    intro _
    apply keeps_ite
    apply keeps_setTokens
    assumption
    assumption
    apply keeps_ite
    apply keeps_setTokens
    assumption
    assumption
    assumption

theorem keeps_ageTick (s : State) (d : Nat) (hs : Keeps kqu kou kfr s) : Keeps kqu kou kfr (State.ageTick s d) := by
  unfold State.ageTick
  try dsimp only
  with_reducible
    apply keeps_foldl
    intro _
    intro _
    intro _
    apply keeps_foldl
    intro _
    intro _
    intro _
    apply keeps_pt
    assumption
    apply keeps_p
    assumption
    apply keeps_mapCps
    assumption

theorem keeps_readback (s : State) (eg : Bool) (a : Nat × Nat) (hs : Keeps kqu kou kfr s) : Keeps kqu kou kfr (State.readback s eg a) := by
  unfold State.readback
  try dsimp only
  with_reducible
    split
    assumption
    apply keeps_ite
    assumption
    apply keeps_setBlocks
    assumption

theorem keeps_dropSpilled (s : State) (cs : List Cp) (hs : Keeps kqu kou kfr s) : Keeps kqu kou kfr (State.dropSpilled s cs) := by
  unfold State.dropSpilled
  try dsimp only
  with_reducible
    split
    assumption
    apply keeps_pfcCheck
    apply keeps_inc
    apply keeps_foldl
    intro _
    intro _
    intro _
    apply keeps_discard
    assumption
    assumption

theorem keeps_dropSpills (s : State) (cs : List Cp) (hs : Keeps kqu kou kfr s) : Keeps kqu kou kfr (State.dropSpills s cs) := by
  unfold State.dropSpills
  try dsimp only
  with_reducible
    apply keeps_foldl
    intro _
    intro _
    intro _
    apply keeps_dropSpilled
    assumption
    apply keeps_foldl
    intro _
    intro _
    intro _
    apply keeps_dropSpilled
    assumption
    assumption

theorem keeps_unspilled (s : State) (b : SpillBlock) (c : Cp) (hs : Keeps kqu kou kfr s) : Keeps kqu kou kfr (State.unspilled s b c) := by
  unfold State.unspilled
  try dsimp only
  with_reducible
    apply keeps_ite
    apply keeps_ite
    apply keeps_raise
    apply keeps_inc
    apply keeps_discard
    apply keeps_mapCps
    assumption
    apply keeps_mapCps
    assumption
    apply keeps_ite
    apply keeps_raise
    apply keeps_inc
    apply keeps_pfcCheck
    apply keeps_foldl
    intro _
    intro _
    intro _
    apply keeps_discard
    assumption
    apply keeps_mapCps
    assumption
    apply keeps_pfcCheck
    apply keeps_bypass
    apply keeps_mapCps
    assumption

theorem keeps_blockBack (s : State) (b : SpillBlock) (c : Cp) (hs : Keeps kqu kou kfr s) : Keeps kqu kou kfr (State.blockBack s b c) := by
  unfold State.blockBack
  try dsimp only
  with_reducible
    apply keeps_charge
    apply keeps_unspill
    apply keeps_add
    apply keeps_hwFree
    apply keeps_setBlocks
    apply keeps_mapCps
    assumption

theorem keeps_readDone (s : State) (eg : Bool) (a : Nat × Nat) (uncorr : Bool) (hs : Keeps kqu kou kfr s) : Keeps kqu kou kfr (State.readDone s eg a uncorr) := by
  unfold State.readDone
  try dsimp only
  with_reducible
    split
    assumption
    apply keeps_ite
    assumption
    split
    apply keeps_dropBlocks
    assumption
    apply keeps_ite
    apply keeps_raise
    apply keeps_dropSpilled
    assumption
    apply keeps_ite
    apply keeps_ite
    apply keeps_inc
    apply keeps_setBlocks
    assumption
    apply keeps_setBlocks
    assumption
    split
    apply keeps_blockBack
    assumption
    apply keeps_ite
    apply keeps_blockBack
    assumption
    apply keeps_unspilled
    apply keeps_blockBack
    assumption

theorem keeps_unpause (s : State) (port vc : Nat) (hs : Keeps kqu kou kfr s) : Keeps kqu kou kfr (State.unpause s port vc) := by
  unfold State.unpause
  try dsimp only
  with_reducible
    refine keeps_mk ?_
    assumption

theorem keeps_pfcRx (s : State) (port : Nat) (bs : List Byte) (hs : Keeps kqu kou kfr s) : Keeps kqu kou kfr (State.pfcRx s port bs) := by
  unfold State.pfcRx
  try dsimp only
  with_reducible
    apply keeps_ite
    assumption
    apply keeps_ite
    apply keeps_inc
    assumption
    apply keeps_foldl
    intro _
    intro _
    intro _
    apply keeps_ite
    apply keeps_unpause
    assumption
    refine keeps_mk ?_
    apply keeps_unpause
    assumption
    apply keeps_ite
    apply keeps_ite
    assumption
    apply keeps_inc
    assumption
    apply keeps_inc
    apply keeps_ite
    assumption
    apply keeps_inc
    assumption

theorem keeps_recordStall (s : State) (eg : Bool) (a : Nat × Nat) (ticks : Nat) (hs : Keeps kqu kou kfr s) : Keeps kqu kou kfr (State.recordStall s eg a ticks) := by
  unfold State.recordStall
  try dsimp only
  with_reducible
    split
    apply keeps_ite
    apply keeps_raise
    apply keeps_pt
    assumption
    apply keeps_pt
    assumption
    apply keeps_ite
    apply keeps_p
    apply keeps_raise
    assumption
    apply keeps_p
    apply keeps_setEntry
    apply keeps_raise
    assumption

theorem keeps_dlScan (s : State) (d : Nat) (hs : Keeps kqu kou kfr s) : Keeps kqu kou kfr (State.dlScan s d) := by
  unfold State.dlScan
  try dsimp only
  with_reducible
    apply keeps_foldl
    intro _
    intro _
    intro _
    apply keeps_ite
    apply keeps_recordStall
    assumption
    assumption
    refine keeps_mk ?_
    assumption

theorem keeps_dlRecover (s : State) (port vc : Nat) (hs : Keeps kqu kou kfr s) : Keeps kqu kou kfr (State.dlRecover s port vc) := by
  unfold State.dlRecover
  try dsimp only
  with_reducible
    split
    assumption
    apply keeps_ite
    assumption
    apply keeps_ite
    refine keeps_mk ?_
    apply keeps_unpause
    apply keeps_pt
    apply keeps_raise
    apply keeps_foldl
    intro _
    intro _
    intro _
    apply keeps_inc
    apply keeps_discard
    assumption
    assumption
    apply keeps_pt
    apply keeps_raise
    apply keeps_foldl
    intro _
    intro _
    intro _
    apply keeps_inc
    apply keeps_discard
    assumption
    assumption

theorem keeps_dlClear (s : State) (hs : Keeps kqu kou kfr s) : Keeps kqu kou kfr (State.dlClear s) := by
  unfold State.dlClear
  try dsimp only
  with_reducible
    apply keeps_p
    apply keeps_p
    apply keeps_clearTab
    assumption

theorem keeps_startEvac (s : State) (t : Nat) (hs : Keeps kqu kou kfr s) : Keeps kqu kou kfr (State.startEvac s t) := by
  unfold State.startEvac
  try dsimp only
  with_reducible
    apply keeps_ite
    apply keeps_ite
    assumption
    refine keeps_mk ?_
    assumption
    apply keeps_p
    apply keeps_p
    refine keeps_mk ?_
    assumption

theorem keeps_evacDrop (s : State) (t : Nat) (hs : Keeps kqu kou kfr s) : Keeps kqu kou kfr (State.evacDrop s t) := by
  unfold State.evacDrop
  try dsimp only
  with_reducible
    split
    assumption
    apply keeps_raise
    apply keeps_add
    apply keeps_foldl
    intro _
    intro _
    intro _
    apply keeps_pfcCheck
    apply keeps_discard
    assumption
    assumption

theorem keeps_dropTile (s : State) (t : Nat) (hs : Keeps kqu kou kfr s) : Keeps kqu kou kfr (State.dropTile s t) := by
  unfold State.dropTile
  try dsimp only
  with_reducible
    apply keeps_foldl
    intro _
    intro _
    intro _
    apply keeps_pfcCheck
    assumption
    refine keeps_mk ?_
    apply keeps_dropDown
    apply keeps_dropSpills
    assumption

theorem keeps_dropPort (s : State) (port : Nat) (hs : Keeps kqu kou kfr s) : Keeps kqu kou kfr (State.dropPort s port) := by
  unfold State.dropPort
  try dsimp only
  with_reducible
    apply keeps_dropDown
    assumption

theorem keeps_seen3 (s : State) (d etile q : Nat) (hs : Keeps kqu kou kfr s) : Keeps kqu kou kfr (State.seen3 s d etile q) := by
  unfold State.seen3
  try dsimp only
  with_reducible
    refine keeps_mk ?_
    assumption

theorem keeps_down3 (s : State) (t : Nat) (x : L3Cell) (hs : Keeps kqu kou kfr s) : Keeps kqu kou kfr (State.down3 s t x) := by
  unfold State.down3
  try dsimp only
  with_reducible
    refine keeps_mk ?_
    apply keeps_ite
    apply keeps_seen3
    split
    dsimp only
    apply keeps_mapCps
    assumption
    dsimp only
    apply keeps_setCps
    apply keeps_newId
    assumption
    split
    dsimp only
    apply keeps_mapCps
    assumption
    dsimp only
    apply keeps_setCps
    apply keeps_newId
    assumption

theorem keeps_take3 (s : State) (self t : Nat) (x : L3Cell) (hs : Keeps kqu kou kfr s) : Keeps kqu kou kfr (State.take3 s self t x) := by
  unfold State.take3
  try dsimp only
  with_reducible
    apply keeps_ite
    apply keeps_down3
    assumption
    refine keeps_mk ?_
    assumption

theorem keeps_giveUp3 (s : State) (t : Nat) (hs : Keeps kqu kou kfr s) : Keeps kqu kou kfr (State.giveUp3 s t) := by
  unfold State.giveUp3
  try dsimp only
  with_reducible
    apply keeps_foldl
    intro _
    intro _
    intro _
    apply keeps_ite
    apply keeps_inc
    refine keeps_mk ?_
    assumption
    assumption
    assumption

end Sys2Proof.Machine
end

