-- ==== Sys2Proof/Laws/KeepsLlOps.lean ====
section
/-! SUPPORT. What every operation of Machine/LlOps.lean keeps. -/

namespace Sys2Proof.Machine

variable {kqu : List Instr} {kou : List Emit} {kfr : Nat}

theorem keeps_setLl (s : State) (port : Nat) (l : Ll) (hs : Keeps kqu kou kfr s) : Keeps kqu kou kfr (State.setLl s port l) := by
  unfold State.setLl
  try dsimp only
  with_reducible
    refine keeps_mk ?_
    assumption

theorem keeps_showLl (s : State) (port : Nat) (hs : Keeps kqu kou kfr s) : Keeps kqu kou kfr (State.showLl s port) := by
  unfold State.showLl
  try dsimp only
  with_reducible
    apply keeps_ite
    assumption
    apply keeps_setReg
    apply keeps_setReg
    apply keeps_p
    apply keeps_p
    apply keeps_p
    apply keeps_p
    assumption

theorem keeps_startLl (s : State) (port : Nat) (cred : List Nat) (limit : Nat) (hs : Keeps kqu kou kfr s) : Keeps kqu kou kfr (State.startLl s port cred limit) := by
  unfold State.startLl
  try dsimp only
  with_reducible
    apply keeps_showLl
    apply keeps_setLl
    assumption

theorem keeps_endLl (s : State) (port : Nat) (hs : Keeps kqu kou kfr s) : Keeps kqu kou kfr (State.endLl s port) := by
  unfold State.endLl
  try dsimp only
  with_reducible
    apply keeps_showLl
    refine keeps_mk ?_
    assumption

theorem keeps_grpCount (s : State) (port : Nat) (f : Fld) (hs : Keeps kqu kou kfr s) : Keeps kqu kou kfr (State.grpCount s port f) := by
  unfold State.grpCount
  try dsimp only
  with_reducible
    apply keeps_inc
    assumption

theorem keeps_outFlit (s : State) (port : Nat) (l : Ll) (f : List Byte) (hs : Keeps kqu kou kfr s) : Keeps kqu kou kfr (State.outFlit s port l f) := by
  unfold State.outFlit
  try dsimp only
  with_reducible
    apply keeps_showLl
    apply keeps_emit
    apply keeps_setLl
    assumption

theorem keeps_txFlit (s : State) (port : Nat) (hs : Keeps kqu kou kfr s) : Keeps kqu kou kfr (State.txFlit s port) := by
  unfold State.txFlit
  try dsimp only
  with_reducible
    split
    assumption
    apply keeps_ite
    apply keeps_outFlit
    assumption
    split
    apply keeps_outFlit
    assumption
    apply keeps_ite
    apply keeps_outFlit
    assumption
    apply keeps_outFlit
    apply keeps_ite
    apply keeps_discard
    assumption
    apply keeps_freeStore
    apply keeps_mapCps
    assumption

theorem keeps_sendSide (s : State) (port : Nat) (nak : Bool) (hs : Keeps kqu kou kfr s) : Keeps kqu kou kfr (State.sendSide s port nak).2 := by
  unfold State.sendSide
  try dsimp only
  with_reducible
    split
    dsimp only
    assumption
    dsimp only
    apply keeps_setLl
    assumption

theorem keeps_sendSide_eq {s : State} {port : Nat} {nak : Bool} {x0 : Nat} {x1 : State} (ke : State.sendSide s port nak = (x0, x1)) (hs : Keeps kqu kou kfr s) : Keeps kqu kou kfr x1 := by
  have k := keeps_sendSide (kqu := kqu) (kou := kou) (kfr := kfr) s port nak hs
  rw [ke] at k
  exact k

theorem keeps_sendNak (s : State) (port : Nat) (hs : Keeps kqu kou kfr s) : Keeps kqu kou kfr (State.sendNak s port) := by
  unfold State.sendNak
  try dsimp only
  with_reducible
    apply keeps_grpCount
    apply keeps_emit
    apply keeps_sendSide
    assumption

theorem keeps_freeFlits (s : State) (port vc n : Nat) (hs : Keeps kqu kou kfr s) : Keeps kqu kou kfr (State.freeFlits s port vc n) := by
  unfold State.freeFlits
  try dsimp only
  with_reducible
    split
    assumption
    apply keeps_ite
    assumption
    apply keeps_setLl
    assumption

theorem keeps_rxSide (s : State) (port w : Nat) (hs : Keeps kqu kou kfr s) : Keeps kqu kou kfr (State.rxSide s port w) := by
  unfold State.rxSide
  try dsimp only
  with_reducible
    split
    assumption
    apply keeps_ite
    apply keeps_setLl
    assumption
    apply keeps_showLl
    apply keeps_setLl
    assumption

theorem keeps_rxNak (s : State) (port ack : Nat) (hs : Keeps kqu kou kfr s) : Keeps kqu kou kfr (State.rxNak s port ack) := by
  unfold State.rxNak
  try dsimp only
  with_reducible
    split
    assumption
    split
    apply keeps_showLl
    apply keeps_setLl
    assumption
    apply keeps_ite
    apply keeps_showLl
    apply keeps_setLl
    assumption
    apply keeps_raise
    apply keeps_grpCount
    apply keeps_showLl
    apply keeps_setLl
    assumption

theorem keeps_rxFlit (s : State) (port : Nat) (f : List Byte) (hs : Keeps kqu kou kfr s) : Keeps kqu kou kfr (State.rxFlit s port f).2 := by
  unfold State.rxFlit
  try dsimp only
  with_reducible
    split
    dsimp only
    assumption
    split
    split
    dsimp only
    apply keeps_setLl
    assumption
    dsimp only
    apply keeps_raise
    apply keeps_setLl
    assumption
    split
    split
    dsimp only
    apply keeps_setLl
    apply keeps_ite
    assumption
    apply keeps_grpCount
    assumption
    dsimp only
    apply keeps_sendNak
    apply keeps_setLl
    apply keeps_ite
    assumption
    apply keeps_grpCount
    assumption
    split
    dsimp only
    apply keeps_raise
    apply keeps_setLl
    assumption
    split
    dsimp only
    apply keeps_raise
    apply keeps_setLl
    assumption
    split
    dsimp only
    apply keeps_raise
    apply keeps_setLl
    assumption
    dsimp only
    apply keeps_showLl
    apply keeps_setLl
    assumption

theorem keeps_rxFlit_eq {s : State} {port : Nat} {f : List Byte} {x0 : Bool} {x1 : State} (ke : State.rxFlit s port f = (x0, x1)) (hs : Keeps kqu kou kfr s) : Keeps kqu kou kfr x1 := by
  have k := keeps_rxFlit (kqu := kqu) (kou := kou) (kfr := kfr) s port f hs
  rw [ke] at k
  exact k

theorem keeps_takeBuf (s : State) (port vc : Nat) (bs : List Byte) (hs : Keeps kqu kou kfr s) : Keeps kqu kou kfr (State.takeBuf s port vc bs).2 := by
  unfold State.takeBuf
  try dsimp only
  with_reducible
    split
    dsimp only
    assumption
    dsimp only
    apply keeps_setLl
    assumption

theorem keeps_takeBuf_eq {s : State} {port vc : Nat} {bs : List Byte} {x0 : Bool} {x1 : State} (ke : State.takeBuf s port vc bs = (x0, x1)) (hs : Keeps kqu kou kfr s) : Keeps kqu kou kfr x1 := by
  have k := keeps_takeBuf (kqu := kqu) (kou := kou) (kfr := kfr) s port vc bs hs
  rw [ke] at k
  exact k

end Sys2Proof.Machine
end

