-- ==== Sys2Proof/Laws/KeepsTensor.lean ====
section
/-! SUPPORT. What every operation of Machine/Tensor.lean keeps. -/

namespace Sys2Proof.Machine

variable {kqu : List Instr} {kou : List Emit} {kfr : Nat}

theorem keeps_putBitsAt (s : State) (sp b w v : Nat) (hs : Keeps kqu kou kfr s) : Keeps kqu kou kfr (State.putBitsAt s sp b w v) := by
  unfold State.putBitsAt
  try dsimp only
  with_reducible
    apply keeps_writeSpace
    assumption

theorem keeps_putCode (s : State) (d : Desc) (i0 i1 i2 i3 v : Nat) (hs : Keeps kqu kou kfr s) : Keeps kqu kou kfr (State.putCode s d i0 i1 i2 i3 v) := by
  unfold State.putCode
  try dsimp only
  with_reducible
    apply keeps_putBitsAt
    assumption

theorem keeps_putCodes (s : State) (d : Desc) (i0 i1 i2 i3 : Nat) (vs : List Nat) (hs : Keeps kqu kou kfr s) : Keeps kqu kou kfr (State.putCodes s d i0 i1 i2 i3 vs) := by
  unfold State.putCodes
  try dsimp only
  with_reducible
    apply keeps_foldl
    intro _
    intro _
    intro _
    apply keeps_putCode
    assumption
    assumption

theorem keeps_putMeta (s : State) (d : Desc) (span i0 i1 i2 i3 : Nat) (bs : List Byte) (hs : Keeps kqu kou kfr s) : Keeps kqu kou kfr (State.putMeta s d span i0 i1 i2 i3 bs) := by
  unfold State.putMeta
  try dsimp only
  with_reducible
    apply keeps_writeSpace
    assumption

theorem keeps_putRow (s : State) (d : Desc) (c : Cvt) (r : Nat) (xs : List Ev) (hs : Keeps kqu kou kfr s) : Keeps kqu kou kfr (State.putRow s d c r xs).1 := by
  unfold State.putRow
  try dsimp only
  with_reducible
    split
    dsimp only
    apply keeps_putCodes
    assumption
    split
    apply keeps_foldl1
    intro _
    intro _
    intro _
    dsimp only
    apply keeps_putMeta
    apply keeps_foldl
    intro _
    intro _
    intro _
    apply keeps_writeSpace
    assumption
    assumption
    dsimp only
    assumption
    split
    apply keeps_foldl1
    intro _
    intro _
    intro _
    dsimp only
    apply keeps_putCode
    assumption
    dsimp only
    assumption
    apply keeps_foldl1
    intro _
    intro _
    intro _
    dsimp only
    apply keeps_putMeta
    apply keeps_putCodes
    assumption
    dsimp only
    assumption

theorem keeps_putRow_eq {s : State} {d : Desc} {c : Cvt} {r : Nat} {xs : List Ev} {x0 : State} {x1 : Exc} (ke : State.putRow s d c r xs = (x0, x1)) (hs : Keeps kqu kou kfr s) : Keeps kqu kou kfr x0 := by
  have k := keeps_putRow (kqu := kqu) (kou := kou) (kfr := kfr) s d c r xs hs
  rw [ke] at k
  exact k

theorem keeps_addTotal (s : State) (d : Desc) (off n : Nat) (hs : Keeps kqu kou kfr s) : Keeps kqu kou kfr (State.addTotal s d off n) := by
  unfold State.addTotal
  try dsimp only
  with_reducible
    apply keeps_ite
    assumption
    apply keeps_writeSpace
    assumption

theorem keeps_addTotals (s : State) (d : Desc) (x : Exc) (hs : Keeps kqu kou kfr s) : Keeps kqu kou kfr (State.addTotals s d x) := by
  unfold State.addTotals
  try dsimp only
  with_reducible
    apply keeps_ite
    apply keeps_addTotal
    apply keeps_addTotal
    apply keeps_addTotal
    apply keeps_addTotal
    assumption
    assumption

theorem keeps_putTensorBytes (s : State) (d : Desc) (off : Nat) (bs : List Byte) (hs : Keeps kqu kou kfr s) : Keeps kqu kou kfr (State.putTensorBytes s d off bs) := by
  unfold State.putTensorBytes
  try dsimp only
  with_reducible
    apply keeps_foldl
    intro _
    intro _
    intro _
    apply keeps_ite
    assumption
    apply keeps_writeSpace
    assumption
    assumption

theorem keeps_written (s : State) (p : Nat) (d : Desc) (hs : Keeps kqu kou kfr s) : Keeps kqu kou kfr (State.written s p d) := by
  unfold State.written
  try dsimp only
  with_reducible
    apply keeps_ite
    apply keeps_writeSpace
    assumption
    assumption

end Sys2Proof.Machine
end

