-- ==== Sys2Proof/Laws/KeepsAttOps.lean ====
section
/-! SUPPORT. What every operation of Machine/AttOps.lean keeps. -/

namespace Sys2Proof.Machine

variable {kqu : List Instr} {kou : List Emit} {kfr : Nat}

theorem keeps_setCx (s : State) (c : Nat) (x : Cx) (hs : Keeps kqu kou kfr s) : Keeps kqu kou kfr (State.setCx s c x) := by
  unfold State.setCx
  try dsimp only
  with_reducible
    refine keeps_mk ?_
    assumption

theorem keeps_pctx (s : State) (c : Nat) (f : Fld) (v : Nat) (hs : Keeps kqu kou kfr s) : Keeps kqu kou kfr (State.pctx s c f v) := by
  unfold State.pctx
  try dsimp only
  with_reducible
    apply keeps_pt
    assumption

theorem keeps_toAccel (s : State) (g c op tag addr len operand : Nat) (payload : List Byte) (hs : Keeps kqu kou kfr s) : Keeps kqu kou kfr (State.toAccel s g c op tag addr len operand payload) := by
  unfold State.toAccel
  try dsimp only
  with_reducible
    apply keeps_ite
    assumption
    apply keeps_setCps
    apply keeps_newId
    assumption

theorem keeps_writeAccel (s : State) (g c addr : Nat) (d : List Byte) (hs : Keeps kqu kou kfr s) : Keeps kqu kou kfr (State.writeAccel s g c addr d) := by
  unfold State.writeAccel
  try dsimp only
  with_reducible
    apply keeps_foldl
    intro _
    intro _
    intro _
    apply keeps_toAccel
    assumption
    assumption

theorem keeps_sendCpl (s : State) (g c tag : Nat) (code : Code) (seq old : Nat) (hs : Keeps kqu kou kfr s) : Keeps kqu kou kfr (State.sendCpl s g c tag code seq old) := by
  unfold State.sendCpl
  try dsimp only
  with_reducible
    apply keeps_toAccel
    assumption

theorem keeps_pickPath (s : State) (t set : Nat) (hs : Keeps kqu kou kfr s) : Keeps kqu kou kfr (State.pickPath s t set).2 := by
  unfold State.pickPath
  try dsimp only
  with_reducible
    split
    dsimp only
    apply keeps_foldl
    intro _
    intro _
    intro _
    apply keeps_pt
    assumption
    assumption
    dsimp only
    apply keeps_pt
    apply keeps_foldl
    intro _
    intro _
    intro _
    apply keeps_pt
    assumption
    assumption

theorem keeps_pickPath_eq {s : State} {t set : Nat} {x0 : Option Nat} {x1 : State} (ke : State.pickPath s t set = (x0, x1)) (hs : Keeps kqu kou kfr s) : Keeps kqu kou kfr x1 := by
  have k := keeps_pickPath (kqu := kqu) (kou := kou) (kfr := kfr) s t set hs
  rw [ke] at k
  exact k

theorem keeps_pickOther (s : State) (t set old k : Nat) (hs : Keeps kqu kou kfr s) : Keeps kqu kou kfr (State.pickOther s t set old k).2 := by
  induction k generalizing s with
  | zero =>
    unfold State.pickOther
    exact keeps_pickPath s t set hs
  | succ k k_ih =>
    unfold State.pickOther
    have k_p := keeps_pickPath (kqu := kqu) (kou := kou) (kfr := kfr) s t set hs
    split
    · rename_i k_e
      rw [k_e] at k_p
      dsimp only at k_p
      split
      · exact k_ih _ k_p
      · exact k_p
    · exact k_p
theorem keeps_pickOther_eq {s : State} {t set old k : Nat} {x0 : Option Nat} {x1 : State} (ke : State.pickOther s t set old k = (x0, x1)) (hs : Keeps kqu kou kfr s) : Keeps kqu kou kfr x1 := by
  have k := keeps_pickOther (kqu := kqu) (kou := kou) (kfr := kfr) s t set old k hs
  rw [ke] at k
  exact k

theorem keeps_pathDown (s : State) (t p : Nat) (hs : Keeps kqu kou kfr s) : Keeps kqu kou kfr (State.pathDown s t p) := by
  unfold State.pathDown
  try dsimp only
  with_reducible
    apply keeps_ite
    split
    apply keeps_raise
    apply keeps_pt
    apply keeps_pt
    apply keeps_pt
    assumption
    apply keeps_pt
    apply keeps_pt
    apply keeps_pt
    apply keeps_raise
    apply keeps_pt
    apply keeps_pt
    apply keeps_pt
    assumption
    apply keeps_raise
    apply keeps_pt
    apply keeps_pt
    apply keeps_pt
    assumption

theorem keeps_pathUp (s : State) (t p : Nat) (hs : Keeps kqu kou kfr s) : Keeps kqu kou kfr (State.pathUp s t p) := by
  unfold State.pathUp
  try dsimp only
  with_reducible
    apply keeps_ite
    apply keeps_pt
    apply keeps_pt
    apply keeps_pt
    assumption
    assumption

theorem keeps_pathAck (s : State) (t p : Nat) (ce : Bool) (hs : Keeps kqu kou kfr s) : Keeps kqu kou kfr (State.pathAck s t p ce) := by
  unfold State.pathAck
  try dsimp only
  with_reducible
    apply keeps_ite
    apply keeps_pt
    assumption
    apply keeps_ite
    apply keeps_pt
    apply keeps_pt
    apply keeps_pt
    apply keeps_pt
    assumption
    apply keeps_ite
    apply keeps_pt
    apply keeps_pt
    apply keeps_pt
    assumption
    apply keeps_pt
    apply keeps_pt
    apply keeps_pt
    apply keeps_pt
    assumption

theorem keeps_takeReply {s : State} {t n : Nat} {kt : State} (ke : State.takeReply s t n = some kt) (hs : Keeps kqu kou kfr s) : Keeps kqu kou kfr kt := by
  revert ke
  unfold State.takeReply
  try dsimp only
  intro ke
  with_reducible
    split at ke
    cases ke
    apply keeps_p
    apply keeps_p
    assumption
    cases ke

theorem keeps_giveReply (s : State) (t n : Nat) (hs : Keeps kqu kou kfr s) : Keeps kqu kou kfr (State.giveReply s t n) := by
  unfold State.giveReply
  try dsimp only
  with_reducible
    apply keeps_p
    apply keeps_p
    assumption

theorem keeps_freeCx (s : State) (c : Nat) (hs : Keeps kqu kou kfr s) : Keeps kqu kou kfr (State.freeCx s c) := by
  unfold State.freeCx
  try dsimp only
  with_reducible
    refine keeps_mk ?_
    apply keeps_setCx
    apply keeps_foldl
    intro _
    intro _
    intro _
    apply keeps_ite
    apply keeps_giveReply
    assumption
    assumption
    apply keeps_foldl
    intro _
    intro _
    intro _
    apply keeps_hwFree
    assumption
    assumption

theorem keeps_endMsgs (s : State) (c : Nat) (bad : Option (Nat × Code)) (hs : Keeps kqu kou kfr s) : Keeps kqu kou kfr (State.endMsgs s c bad) := by
  unfold State.endMsgs
  try dsimp only
  with_reducible
    apply keeps_setCx
    assumption

theorem keeps_failCx (s : State) (c : Nat) (bad : Option (Nat × Code)) (hs : Keeps kqu kou kfr s) : Keeps kqu kou kfr (State.failCx s c bad) := by
  unfold State.failCx
  try dsimp only
  with_reducible
    apply keeps_ite
    apply keeps_raise
    apply keeps_pctx
    apply keeps_pctx
    apply keeps_endMsgs
    apply keeps_freeCx
    assumption
    assumption

theorem keeps_complete (s : State) (c tag : Nat) (code : Code) (old : Nat) (gang : Bool) (hs : Keeps kqu kou kfr s) : Keeps kqu kou kfr (State.complete s c tag code old gang) := by
  unfold State.complete
  try dsimp only
  with_reducible
    apply keeps_signalCtx
    apply keeps_pctx
    apply keeps_ite
    assumption
    apply keeps_sendCpl
    assumption

theorem keeps_rxCpl (s : State) (c : Nat) (x : Cx) (hs : Keeps kqu kou kfr s) : Keeps kqu kou kfr (State.rxCpl s c x) := by
  unfold State.rxCpl
  try dsimp only
  with_reducible
    split
    assumption
    apply keeps_complete
    apply keeps_setCx
    assumption

theorem keeps_oneCpl (s : State) (c : Nat) (hs : Keeps kqu kou kfr s) : Keeps kqu kou kfr (State.oneCpl s c) := by
  unfold State.oneCpl
  try dsimp only
  with_reducible
    split
    split
    apply keeps_complete
    apply keeps_setCx
    assumption
    apply keeps_rxCpl
    assumption
    apply keeps_rxCpl
    assumption

theorem keeps_flushCpls (s : State) (c : Nat) (hs : Keeps kqu kou kfr s) : Keeps kqu kou kfr (State.flushCpls s c) := by
  unfold State.flushCpls
  try dsimp only
  with_reducible
    apply keeps_foldl
    intro _
    intro _
    intro _
    apply keeps_oneCpl
    assumption
    assumption

theorem keeps_drainCx (s : State) (c : Nat) (hs : Keeps kqu kou kfr s) : Keeps kqu kou kfr (State.drainCx s c) := by
  unfold State.drainCx
  try dsimp only
  with_reducible
    apply keeps_ite
    apply keeps_setCx
    apply keeps_pctx
    apply keeps_flushCpls
    assumption
    assumption

theorem keeps_resetCx (s : State) (c : Nat) (hs : Keeps kqu kou kfr s) : Keeps kqu kou kfr (State.resetCx s c) := by
  unfold State.resetCx
  try dsimp only
  with_reducible
    apply keeps_ite
    assumption
    apply keeps_ctxEpochs
    refine keeps_mk ?_
    apply keeps_setCx
    apply keeps_pctx
    apply keeps_pctx
    apply keeps_pctx
    apply keeps_flushCpls
    apply keeps_endMsgs
    apply keeps_freeCx
    assumption

theorem keeps_portGoneCx (s : State) (c : Nat) (hs : Keeps kqu kou kfr s) : Keeps kqu kou kfr (State.portGoneCx s c) := by
  unfold State.portGoneCx
  try dsimp only
  with_reducible
    apply keeps_ite
    apply keeps_setCx
    apply keeps_failCx
    assumption
    assumption

theorem keeps_failGroup (s : State) (g : Nat) (hs : Keeps kqu kou kfr s) : Keeps kqu kou kfr (State.failGroup s g) := by
  unfold State.failGroup
  try dsimp only
  with_reducible
    apply keeps_ite
    apply keeps_foldl
    intro _
    intro _
    intro _
    apply keeps_portGoneCx
    assumption
    assumption
    assumption

theorem keeps_openCx (s : State) (c : Nat) (hs : Keeps kqu kou kfr s) : Keeps kqu kou kfr (State.openCx s c) := by
  unfold State.openCx
  try dsimp only
  with_reducible
    apply keeps_setCx
    apply keeps_setEntry
    assumption

theorem keeps_refuseLocal (s : State) (g c tag : Nat) (code : Code) (hs : Keeps kqu kou kfr s) : Keeps kqu kou kfr (State.refuseLocal s g c tag code) := by
  unfold State.refuseLocal
  try dsimp only
  with_reducible
    apply keeps_sendCpl
    assumption

theorem keeps_startMsg (s : State) (g : Nat) (op : TOp) (bs : List Byte) (hs : Keeps kqu kou kfr s) : Keeps kqu kou kfr (State.startMsg s g op bs) := by
  unfold State.startMsg
  try dsimp only
  with_reducible
    apply keeps_ite
    apply keeps_refuseLocal
    assumption
    apply keeps_ite
    apply keeps_refuseLocal
    assumption
    apply keeps_ite
    apply keeps_refuseLocal
    assumption
    apply keeps_pctx
    apply keeps_setCx
    assumption

theorem keeps_setMsg (s : State) (c : Nat) (m : Msg) (hs : Keeps kqu kou kfr s) : Keeps kqu kou kfr (State.setMsg s c m) := by
  unfold State.setMsg
  try dsimp only
  with_reducible
    apply keeps_setCx
    assumption

theorem keeps_addPkt (s : State) (c : Nat) (p : TxP) (hs : Keeps kqu kou kfr s) : Keeps kqu kou kfr (State.addPkt s c p) := by
  unfold State.addPkt
  try dsimp only
  with_reducible
    apply keeps_setCx
    assumption

theorem keeps_askLocal (s : State) (c addr n : Nat) (fadd : Bool) (addend : Nat) (p : TxP) (hs : Keeps kqu kou kfr s) : Keeps kqu kou kfr (State.askLocal s c addr n fadd addend p) := by
  unfold State.askLocal
  try dsimp only
  with_reducible
    refine keeps_mk ?_
    apply keeps_toAccel
    apply keeps_p
    assumption

theorem keeps_askGet (s : State) (c : Nat) (bs : List Byte) (k off : Nat) (hs : Keeps kqu kou kfr s) : Keeps kqu kou kfr (State.askGet s c bs k off).2 := by
  induction k generalizing s off with
  | zero =>
    unfold State.askGet
    exact hs
  | succ k k_ih =>
    unfold State.askGet
    try dsimp only
    with_reducible
      split
      dsimp only
      assumption
      split
      apply k_ih
      apply keeps_askLocal
      refine keeps_poolAlloc_eq (by assumption) ?_
      assumption
      dsimp only
      refine keeps_poolAlloc_eq (by assumption) ?_
      assumption
theorem keeps_askGet_eq {s : State} {c : Nat} {bs : List Byte} {k off : Nat} {x0 : Option Nat} {x1 : State} (ke : State.askGet s c bs k off = (x0, x1)) (hs : Keeps kqu kou kfr s) : Keeps kqu kou kfr x1 := by
  have k := keeps_askGet (kqu := kqu) (kou := kou) (kfr := kfr) s c bs k off hs
  rw [ke] at k
  exact k

theorem keeps_issueGets (s : State) (c k : Nat) (hs : Keeps kqu kou kfr s) : Keeps kqu kou kfr (State.issueGets s c k) := by
  induction k generalizing s with
  | zero =>
    unfold State.issueGets
    exact hs
  | succ k k_ih =>
    unfold State.issueGets
    try dsimp only
    with_reducible
      split
      assumption
      split
      apply k_ih
      apply keeps_setCx
      refine keeps_askGet_eq (by assumption) ?_
      assumption
      apply keeps_setCx
      refine keeps_askGet_eq (by assumption) ?_
      assumption

theorem keeps_issue (s : State) (c : Nat) (hs : Keeps kqu kou kfr s) : Keeps kqu kou kfr (State.issue s c) := by
  unfold State.issue
  try dsimp only
  with_reducible
    apply keeps_ite
    apply keeps_ite
    apply keeps_issueGets
    assumption
    assumption
    split
    apply keeps_ite
    apply keeps_issueGets
    assumption
    assumption
    split
    split
    apply keeps_ite
    apply keeps_issueGets
    assumption
    assumption
    apply keeps_addPkt
    apply keeps_setMsg
    refine keeps_takeReply (by assumption) ?_
    apply keeps_ite
    apply keeps_issueGets
    assumption
    assumption
    split
    apply keeps_ite
    apply keeps_issueGets
    assumption
    assumption
    apply keeps_addPkt
    apply keeps_setMsg
    refine keeps_takeReply (by assumption) ?_
    apply keeps_ite
    apply keeps_issueGets
    assumption
    assumption
    apply keeps_ite
    apply keeps_addPkt
    apply keeps_setMsg
    apply keeps_ite
    apply keeps_issueGets
    assumption
    assumption
    split
    apply keeps_askLocal
    apply keeps_setMsg
    refine keeps_poolAlloc_eq (by assumption) ?_
    apply keeps_ite
    apply keeps_issueGets
    assumption
    assumption
    apply keeps_ite
    apply keeps_issueGets
    assumption
    assumption
    apply keeps_ite
    apply keeps_addPkt
    apply keeps_setMsg
    apply keeps_ite
    apply keeps_issueGets
    assumption
    assumption
    split
    apply keeps_askLocal
    apply keeps_setMsg
    refine keeps_poolAlloc_eq (by assumption) ?_
    apply keeps_ite
    apply keeps_issueGets
    assumption
    assumption
    apply keeps_ite
    apply keeps_issueGets
    assumption
    assumption

theorem keeps_localData (s : State) (g tag : Nat) (data : List Byte) (hs : Keeps kqu kou kfr s) : Keeps kqu kou kfr (State.localData s g tag data) := by
  unfold State.localData
  try dsimp only
  with_reducible
    split
    assumption
    apply keeps_ite
    apply keeps_addPkt
    refine keeps_mk ?_
    assumption
    apply keeps_addPkt
    split
    refine keeps_mk ?_
    assumption
    apply keeps_writeSpace
    refine keeps_mk ?_
    assumption

theorem keeps_inject (s : State) (c vc : Nat) (bs : List Byte) (hs : Keeps kqu kou kfr s) : Keeps kqu kou kfr (State.inject s c vc bs) := by
  unfold State.inject
  try dsimp only
  with_reducible
    apply keeps_ingressTlink
    assumption

theorem keeps_sendNext (s : State) (c : Nat) (hs : Keeps kqu kou kfr s) : Keeps kqu kou kfr (State.sendNext s c) := by
  unfold State.sendNext
  try dsimp only
  with_reducible
    split
    assumption
    apply keeps_ite
    assumption
    split
    assumption
    apply keeps_inject
    apply keeps_inc
    apply keeps_pctx
    apply keeps_pctx
    apply keeps_setCx
    refine keeps_pickPath_eq (by assumption) ?_
    assumption

theorem keeps_resend (s : State) (c psn : Nat) (hs : Keeps kqu kou kfr s) : Keeps kqu kou kfr (State.resend s c psn) := by
  unfold State.resend
  try dsimp only
  with_reducible
    split
    assumption
    apply keeps_ite
    apply keeps_failCx
    assumption
    split
    assumption
    apply keeps_inject
    apply keeps_inc
    apply keeps_pt
    apply keeps_setCx
    refine keeps_pickOther_eq (by assumption) ?_
    assumption

theorem keeps_timeout (s : State) (c psn : Nat) (hs : Keeps kqu kou kfr s) : Keeps kqu kou kfr (State.timeout s c psn) := by
  unfold State.timeout
  try dsimp only
  with_reducible
    apply keeps_ite
    assumption
    split
    assumption
    apply keeps_resend
    apply keeps_ite
    apply keeps_pathDown
    apply keeps_pt
    apply keeps_inc
    assumption
    apply keeps_pt
    apply keeps_inc
    assumption

theorem keeps_sendAck (s : State) (c : Nat) (code : Code) (nak : Nat) (hs : Keeps kqu kou kfr s) : Keeps kqu kou kfr (State.sendAck s c code nak) := by
  unfold State.sendAck
  try dsimp only
  with_reducible
    split
    assumption
    apply keeps_inject
    apply keeps_setCx
    refine keeps_pickPath_eq (by assumption) ?_
    assumption

theorem keeps_acceptPkt (s : State) (t op : Nat) (bs : List Byte) (hs : Keeps kqu kou kfr s) : Keeps kqu kou kfr (State.acceptPkt s t op bs).2 := by
  unfold State.acceptPkt
  try dsimp only
  with_reducible
    split
    dsimp only
    apply keeps_inc
    apply keeps_unhand
    assumption
    split
    dsimp only
    apply keeps_raise
    apply keeps_inc
    apply keeps_unhand
    assumption
    split
    dsimp only
    apply keeps_inc
    apply keeps_unhand
    assumption
    dsimp only
    apply keeps_inc
    apply keeps_unhand
    assumption

theorem keeps_acceptPkt_eq {s : State} {t op : Nat} {bs : List Byte} {x0 : Option Nat} {x1 : State} (ke : State.acceptPkt s t op bs = (x0, x1)) (hs : Keeps kqu kou kfr s) : Keeps kqu kou kfr x1 := by
  have k := keeps_acceptPkt (kqu := kqu) (kou := kou) (kfr := kfr) s t op bs hs
  rw [ke] at k
  exact k

theorem keeps_record (s : State) (c psn : Nat) (ce : Bool) (hs : Keeps kqu kou kfr s) : Keeps kqu kou kfr (State.record s c psn ce).2 := by
  unfold State.record
  try dsimp only
  with_reducible
    apply keeps_setCx
    apply keeps_setTw
    apply keeps_setTw
    apply keeps_pctx
    assumption

theorem keeps_record_eq {s : State} {c psn : Nat} {ce : Bool} {x0 : Bool} {x1 : State} (ke : State.record s c psn ce = (x0, x1)) (hs : Keeps kqu kou kfr s) : Keeps kqu kou kfr x1 := by
  have k := keeps_record (kqu := kqu) (kou := kou) (kfr := kfr) s c psn ce hs
  rw [ke] at k
  exact k

theorem keeps_ackRule (s : State) (c : Nat) (beyond last : Bool) (hs : Keeps kqu kou kfr s) : Keeps kqu kou kfr (State.ackRule s c beyond last) := by
  unfold State.ackRule
  try dsimp only
  with_reducible
    apply keeps_ite
    apply keeps_sendAck
    assumption
    assumption

theorem keeps_tookPkt (s : State) (c : Nat) (bs : List Byte) (hs : Keeps kqu kou kfr s) : Keeps kqu kou kfr (State.tookPkt s c bs) := by
  unfold State.tookPkt
  try dsimp only
  with_reducible
    apply keeps_drainCx
    apply keeps_ackRule
    apply keeps_record
    assumption

theorem keeps_onData (s : State) (t op : Nat) (bs : List Byte) (f : State → Nat → Except Code State) (hs : Keeps kqu kou kfr s) (e_f : ∀ s c t, f s c = .ok t → Keeps kqu kou kfr s → Keeps kqu kou kfr t) : Keeps kqu kou kfr (State.onData s t op bs f) := by
  unfold State.onData
  try dsimp only
  with_reducible
    split
    refine keeps_acceptPkt_eq (by assumption) ?_
    assumption
    apply keeps_ite
    apply keeps_sendAck
    apply keeps_pt
    refine keeps_acceptPkt_eq (by assumption) ?_
    assumption
    apply keeps_ite
    refine keeps_acceptPkt_eq (by assumption) ?_
    assumption
    split
    apply keeps_sendAck
    apply keeps_ite
    apply keeps_raise
    apply keeps_inc
    refine keeps_acceptPkt_eq (by assumption) ?_
    assumption
    refine keeps_acceptPkt_eq (by assumption) ?_
    assumption
    apply keeps_tookPkt
    refine e_f _ _ _ (by assumption) ?_
    refine keeps_acceptPkt_eq (by assumption) ?_
    assumption

theorem keeps_countMsg (s : State) (c : Nat) (bs : List Byte) (report : Bool) (tag : Nat) (gang : Bool) (hs : Keeps kqu kou kfr s) : Keeps kqu kou kfr (State.countMsg s c bs report tag gang) := by
  unfold State.countMsg
  try dsimp only
  with_reducible
    apply keeps_setCx
    assumption

theorem keeps_doPut {s : State} {bs : List Byte} {c : Nat} {kt : State} (ke : State.doPut s bs c = .ok kt) (hs : Keeps kqu kou kfr s) : Keeps kqu kou kfr kt := by
  revert ke
  unfold State.doPut
  try dsimp only
  intro ke
  with_reducible
    split at ke
    cases ke
    cases ke
    apply keeps_countMsg
    apply keeps_writeAccel
    assumption

theorem keeps_tookAll (s : State) (c idx : Nat) (bs : List Byte) (hs : Keeps kqu kou kfr s) : Keeps kqu kou kfr (State.tookAll s c idx bs).2 := by
  unfold State.tookAll
  try dsimp only
  with_reducible
    split
    dsimp only
    apply keeps_setCx
    assumption
    dsimp only
    assumption

theorem keeps_tookAll_eq {s : State} {c idx : Nat} {bs : List Byte} {x0 : Bool} {x1 : State} (ke : State.tookAll s c idx bs = (x0, x1)) (hs : Keeps kqu kou kfr s) : Keeps kqu kou kfr x1 := by
  have k := keeps_tookAll (kqu := kqu) (kou := kou) (kfr := kfr) s c idx bs hs
  rw [ke] at k
  exact k

theorem keeps_recvWritten (s : State) (c idx : Nat) (hs : Keeps kqu kou kfr s) : Keeps kqu kou kfr (State.recvWritten s c idx) := by
  unfold State.recvWritten
  try dsimp only
  with_reducible
    refine keeps_mk ?_
    assumption

theorem keeps_doSend {s : State} {bs : List Byte} {c : Nat} {kt : State} (ke : State.doSend s bs c = .ok kt) (hs : Keeps kqu kou kfr s) : Keeps kqu kou kfr kt := by
  revert ke
  unfold State.doSend
  try dsimp only
  intro ke
  with_reducible
    split at ke
    cases ke
    split at ke
    cases ke
    split at ke
    cases ke
    apply keeps_ite
    apply keeps_recvWritten
    apply keeps_tookAll
    apply keeps_countMsg
    apply keeps_written
    apply keeps_putTensorBytes
    assumption
    apply keeps_tookAll
    apply keeps_countMsg
    apply keeps_written
    apply keeps_putTensorBytes
    assumption
    split at ke
    cases ke
    cases ke
    apply keeps_tookAll
    apply keeps_countMsg
    apply keeps_writeAccel
    assumption

theorem keeps_doGet {s : State} {bs : List Byte} {c : Nat} {kt : State} (ke : State.doGet s bs c = .ok kt) (hs : Keeps kqu kou kfr s) : Keeps kqu kou kfr kt := by
  revert ke
  unfold State.doGet
  try dsimp only
  intro ke
  with_reducible
    split at ke
    cases ke
    cases ke
    apply keeps_countMsg
    apply keeps_issueGets
    apply keeps_setCx
    assumption

theorem keeps_answer (s : State) (c q n old : Nat) (hs : Keeps kqu kou kfr s) : Keeps kqu kou kfr (State.answer s c q n old) := by
  unfold State.answer
  try dsimp only
  with_reducible
    split
    assumption
    apply keeps_ite
    apply keeps_giveReply
    apply keeps_setMsg
    assumption
    apply keeps_setMsg
    assumption

theorem keeps_doResp {s : State} {bs : List Byte} {c : Nat} {kt : State} (ke : State.doResp s bs c = .ok kt) (hs : Keeps kqu kou kfr s) : Keeps kqu kou kfr kt := by
  revert ke
  unfold State.doResp
  try dsimp only
  intro ke
  with_reducible
    split at ke
    cases ke
    assumption
    cases ke
    apply keeps_answer
    apply keeps_writeAccel
    assumption

theorem keeps_doAtomic {s : State} {bs : List Byte} {c : Nat} {kt : State} (ke : State.doAtomic s bs c = .ok kt) (hs : Keeps kqu kou kfr s) : Keeps kqu kou kfr kt := by
  revert ke
  unfold State.doAtomic
  try dsimp only
  intro ke
  with_reducible
    split at ke
    cases ke
    split at ke
    cases ke
    cases ke
    apply keeps_countMsg
    apply keeps_askLocal
    assumption

theorem keeps_doAtomicResp {s : State} {bs : List Byte} {c : Nat} {kt : State} (ke : State.doAtomicResp s bs c = .ok kt) (hs : Keeps kqu kou kfr s) : Keeps kqu kou kfr kt := by
  revert ke
  unfold State.doAtomicResp
  try dsimp only
  intro ke
  with_reducible
    split at ke
    cases ke
    assumption
    cases ke
    apply keeps_answer
    apply keeps_writeAccel
    assumption

theorem keeps_congest (s : State) (c n k : Nat) (hs : Keeps kqu kou kfr s) : Keeps kqu kou kfr (State.congest s c n k) := by
  unfold State.congest
  try dsimp only
  with_reducible
    apply keeps_ite
    assumption
    apply keeps_ite
    apply keeps_setCx
    apply keeps_pctx
    assumption
    apply keeps_setCx
    apply keeps_pctx
    apply keeps_pctx
    assumption

theorem keeps_ackPkts (s : State) (c cum sack ce : Nat) (hs : Keeps kqu kou kfr s) : Keeps kqu kou kfr (State.ackPkts s c cum sack ce) := by
  unfold State.ackPkts
  try dsimp only
  with_reducible
    apply keeps_congest
    apply keeps_ite
    apply keeps_pctx
    apply keeps_pctx
    apply keeps_foldl
    intro _
    intro _
    intro _
    apply keeps_pathAck
    split
    assumption
    apply keeps_hwFree
    assumption
    apply keeps_setCx
    assumption
    apply keeps_pctx
    apply keeps_foldl
    intro _
    intro _
    intro _
    apply keeps_pathAck
    split
    assumption
    apply keeps_hwFree
    assumption
    apply keeps_setCx
    assumption

theorem keeps_ackGaps (s : State) (c cum sack : Nat) (hs : Keeps kqu kou kfr s) : Keeps kqu kou kfr (State.ackGaps s c cum sack) := by
  unfold State.ackGaps
  try dsimp only
  with_reducible
    apply keeps_foldl
    intro _
    intro _
    intro _
    apply keeps_resend
    assumption
    assumption

theorem keeps_ackNak (s : State) (c code psn : Nat) (hs : Keeps kqu kou kfr s) : Keeps kqu kou kfr (State.ackNak s c code psn) := by
  unfold State.ackNak
  try dsimp only
  with_reducible
    apply keeps_ite
    assumption
    split
    assumption
    apply keeps_ite
    apply keeps_setCx
    assumption
    apply keeps_failCx
    assumption

theorem keeps_rxAck (s : State) (t : Nat) (bs : List Byte) (hs : Keeps kqu kou kfr s) : Keeps kqu kou kfr (State.rxAck s t bs) := by
  unfold State.rxAck
  try dsimp only
  with_reducible
    split
    refine keeps_acceptPkt_eq (by assumption) ?_
    assumption
    apply keeps_ite
    apply keeps_drainCx
    apply keeps_ackGaps
    apply keeps_ackNak
    apply keeps_ackPkts
    refine keeps_acceptPkt_eq (by assumption) ?_
    assumption
    apply keeps_ackNak
    apply keeps_ackPkts
    refine keeps_acceptPkt_eq (by assumption) ?_
    assumption

end Sys2Proof.Machine
end

