-- ==== Sys2Proof/Laws/KeepsMeshOps.lean ====
section
/-! SUPPORT. What every operation of Machine/MeshOps.lean keeps. -/

namespace Sys2Proof.Machine

variable {kqu : List Instr} {kou : List Emit} {kfr : Nat}

theorem keeps_meshCount (s : State) (r : Nat × Nat) (vc n : Nat) (hs : Keeps kqu kou kfr s) : Keeps kqu kou kfr (State.meshCount s r vc n) := by
  unfold State.meshCount
  try dsimp only
  with_reducible
    apply keeps_add
    assumption

theorem keeps_meshSend (s : State) (vc n : Nat) (a b : Nat × Nat) (hs : Keeps kqu kou kfr s) : Keeps kqu kou kfr (State.meshSend s vc n a b) := by
  unfold State.meshSend
  try dsimp only
  with_reducible
    apply keeps_foldl
    intro _
    intro _
    intro _
    apply keeps_meshCount
    assumption
    assumption

theorem keeps_setHeld (s : State) (l : List MeshHead) (hs : Keeps kqu kou kfr s) : Keeps kqu kou kfr (State.setHeld s l) := by
  unfold State.setHeld
  try dsimp only
  with_reducible
    refine keeps_mk ?_
    assumption

theorem keeps_mcForward (s : State) (h : MeshHead) (hs : Keeps kqu kou kfr s) : Keeps kqu kou kfr (State.mcForward s h) := by
  unfold State.mcForward
  try dsimp only
  with_reducible
    apply keeps_ite
    apply keeps_meshCount
    apply keeps_setHeld
    assumption
    apply keeps_ite
    assumption
    apply keeps_inc
    apply keeps_setHeld
    assumption

theorem keeps_meshGone (s : State) (e : EngIn) (lost : Bool) (hs : Keeps kqu kou kfr s) : Keeps kqu kou kfr (State.meshGone s e lost) := by
  unfold State.meshGone
  try dsimp only
  with_reducible
    refine keeps_mk ?_
    assumption

end Sys2Proof.Machine
end

