-- ==== Sys2Proof/Laws/KeepsVecOps.lean ====
section
/-! SUPPORT. What every operation of Machine/VecOps.lean keeps. -/

namespace Sys2Proof.Machine

variable {kqu : List Instr} {kou : List Emit} {kfr : Nat}

theorem keeps_countVec (s : State) (rows len cost : Nat) (hs : Keeps kqu kou kfr s) : Keeps kqu kou kfr (State.countVec s rows len cost) := by
  unfold State.countVec
  try dsimp only
  with_reducible
    apply keeps_foldl
    intro _
    intro _
    intro _
    apply keeps_add
    assumption
    assumption

theorem keeps_countSha (s : State) (n : Nat) (hs : Keeps kqu kou kfr s) : Keeps kqu kou kfr (State.countSha s n) := by
  unfold State.countSha
  try dsimp only
  with_reducible
    apply keeps_ite
    assumption
    apply keeps_foldl
    intro _
    intro _
    intro _
    apply keeps_add
    assumption
    assumption

theorem keeps_turned (s : State) (c : Code) (hs : Keeps kqu kou kfr s) : Keeps kqu kou kfr (State.turned s c).st := by
  unfold State.turned
  try dsimp only
  with_reducible
    assumption

theorem keeps_epiRows (s : State) (op fn k imm : Nat) (dst src a1 a2 : Desc) (hs : Keeps kqu kou kfr s) : Keeps kqu kou kfr (State.epiRows s op fn k imm dst src a1 a2).1 := by
  unfold State.epiRows
  try dsimp only
  with_reducible
    apply keeps_foldl1
    intro _
    intro _
    intro _
    dsimp only
    apply keeps_ite
    apply keeps_putCodes
    apply keeps_putRow
    assumption
    apply keeps_putRow
    assumption
    dsimp only
    assumption

theorem keeps_epiRows_eq {s : State} {op fn k imm : Nat} {dst src a1 a2 : Desc} {x0 : State} {x1 : Exc} (ke : State.epiRows s op fn k imm dst src a1 a2 = (x0, x1)) (hs : Keeps kqu kou kfr s) : Keeps kqu kou kfr x0 := by
  have k := keeps_epiRows (kqu := kqu) (kou := kou) (kfr := kfr) s op fn k imm dst src a1 a2 hs
  rw [ke] at k
  exact k

theorem keeps_epi (s : State) (op fn k imm : Nat) (dst src a1 a2 : Desc) (hs : Keeps kqu kou kfr s) : Keeps kqu kou kfr (State.epi s op fn k imm dst src a1 a2).st := by
  unfold State.epi
  try dsimp only
  with_reducible
    split
    apply keeps_turned
    assumption
    split
    apply keeps_turned
    assumption
    dsimp only
    apply keeps_countVec
    apply keeps_epiRows
    assumption

theorem keeps_cvtRows (s : State) (c : Cvt) (dst src : Desc) (hs : Keeps kqu kou kfr s) : Keeps kqu kou kfr (State.cvtRows s c dst src).1 := by
  unfold State.cvtRows
  try dsimp only
  with_reducible
    apply keeps_addTotals
    apply keeps_foldl1
    intro _
    intro _
    intro _
    dsimp only
    apply keeps_putRow
    assumption
    dsimp only
    assumption

theorem keeps_cvtRows_eq {s : State} {c : Cvt} {dst src : Desc} {x0 : State} {x1 : Exc} (ke : State.cvtRows s c dst src = (x0, x1)) (hs : Keeps kqu kou kfr s) : Keeps kqu kou kfr x0 := by
  have k := keeps_cvtRows (kqu := kqu) (kou := kou) (kfr := kfr) s c dst src hs
  rw [ke] at k
  exact k

theorem keeps_cvt (s : State) (c : Cvt) (dst src : Desc) (hs : Keeps kqu kou kfr s) : Keeps kqu kou kfr (State.cvt s c dst src).st := by
  unfold State.cvt
  try dsimp only
  with_reducible
    split
    apply keeps_turned
    assumption
    split
    apply keeps_turned
    assumption
    dsimp only
    apply keeps_countVec
    apply keeps_cvtRows
    assumption

theorem keeps_smp (s : State) (topK temp : Nat) (z : Nat → Nat) (dst src : Desc) (hs : Keeps kqu kou kfr s) : Keeps kqu kou kfr (State.smp s topK temp z dst src).st := by
  unfold State.smp
  try dsimp only
  with_reducible
    split
    apply keeps_turned
    assumption
    split
    apply keeps_turned
    assumption
    dsimp only
    apply keeps_countVec
    apply keeps_foldl1
    intro _
    intro _
    intro _
    dsimp only
    apply keeps_putCode
    assumption
    dsimp only
    assumption

theorem keeps_putDigest (s : State) (d : Desc) (bs : List Byte) (hs : Keeps kqu kou kfr s) : Keeps kqu kou kfr (State.putDigest s d bs) := by
  unfold State.putDigest
  try dsimp only
  with_reducible
    apply keeps_writeSpace
    assumption

theorem keeps_digTree (s : State) (dst src : Desc) (hs : Keeps kqu kou kfr s) : Keeps kqu kou kfr (State.digTree s dst src).st := by
  unfold State.digTree
  try dsimp only
  with_reducible
    split
    apply keeps_turned
    assumption
    dsimp only
    apply keeps_countSha
    apply keeps_putDigest
    assumption

theorem keeps_digAudit (s : State) (p : Nat) (prog : List Byte) (dst src : Desc) (ops : List Desc) (hs : Keeps kqu kou kfr s) : Keeps kqu kou kfr (State.digAudit s p prog dst src ops).st := by
  unfold State.digAudit
  try dsimp only
  with_reducible
    split
    apply keeps_turned
    assumption
    dsimp only
    apply keeps_countSha
    apply keeps_putDigest
    assumption

end Sys2Proof.Machine
end

