-- ==== Sys2Proof/Laws/KeepsRdxOps.lean ====
section
/-! SUPPORT. What every operation of Machine/RdxOps.lean keeps. -/

namespace Sys2Proof.Machine

variable {kqu : List Instr} {kou : List Emit} {kfr : Nat}

theorem keeps_prc (s : State) (c : Nat) (f : Fld) (v : Nat) (hs : Keeps kqu kou kfr s) : Keeps kqu kou kfr (State.prc s c f v) := by
  unfold State.prc
  try dsimp only
  with_reducible
    apply keeps_pt
    assumption

theorem keeps_setRx (s : State) (c : Nat) (x : RCx) (hs : Keeps kqu kou kfr s) : Keeps kqu kou kfr (State.setRx s c x) := by
  unfold State.setRx
  try dsimp only
  with_reducible
    refine keeps_mk ?_
    assumption

theorem keeps_setLine (s : State) (c : Nat) (l : RLine) (hs : Keeps kqu kou kfr s) : Keeps kqu kou kfr (State.setLine s c l) := by
  unfold State.setLine
  try dsimp only
  with_reducible
    apply keeps_setRx
    assumption

theorem keeps_setReserved (s : State) (n v : Nat) (hs : Keeps kqu kou kfr s) : Keeps kqu kou kfr (State.setReserved s n v) := by
  unfold State.setReserved
  try dsimp only
  with_reducible
    apply keeps_p
    apply keeps_p
    assumption

theorem keeps_unreserve (s : State) (c : Nat) (hs : Keeps kqu kou kfr s) : Keeps kqu kou kfr (State.unreserve s c) := by
  unfold State.unreserve
  try dsimp only
  with_reducible
    apply keeps_foldl
    intro _
    intro _
    intro _
    apply keeps_setReserved
    assumption
    assumption

theorem keeps_collFree (s : State) (port n : Nat) (hs : Keeps kqu kou kfr s) : Keeps kqu kou kfr (State.collFree s port n) := by
  unfold State.collFree
  try dsimp only
  with_reducible
    apply keeps_ite
    apply keeps_freeFlits
    assumption
    assumption

theorem keeps_dropClaims (s : State) (c : Nat) (hs : Keeps kqu kou kfr s) : Keeps kqu kou kfr (State.dropClaims s c) := by
  unfold State.dropClaims
  try dsimp only
  with_reducible
    apply keeps_foldl
    intro _
    intro _
    intro _
    apply keeps_meshGone
    assumption
    apply keeps_setRx
    apply keeps_foldl
    intro _
    intro _
    intro _
    apply keeps_ite
    apply keeps_collFree
    assumption
    assumption
    assumption

theorem keeps_freeRdx (s : State) (c : Nat) (hs : Keeps kqu kou kfr s) : Keeps kqu kou kfr (State.freeRdx s c) := by
  unfold State.freeRdx
  try dsimp only
  with_reducible
    apply keeps_pctx
    apply keeps_setRx
    apply keeps_clearTab
    apply keeps_unreserve
    apply keeps_dropClaims
    assumption

theorem keeps_failRdx (s : State) (c : Nat) (code : Code) (hs : Keeps kqu kou kfr s) : Keeps kqu kou kfr (State.failRdx s c code) := by
  unfold State.failRdx
  try dsimp only
  with_reducible
    apply keeps_ite
    apply keeps_raise
    apply keeps_prc
    apply keeps_prc
    apply keeps_setRx
    apply keeps_dropClaims
    assumption
    assumption

theorem keeps_resetRdx (s : State) (c : Nat) (hs : Keeps kqu kou kfr s) : Keeps kqu kou kfr (State.resetRdx s c) := by
  unfold State.resetRdx
  try dsimp only
  with_reducible
    apply keeps_ite
    assumption
    apply keeps_ctxEpochs
    apply keeps_pctx
    apply keeps_freeRdx
    assumption

theorem keeps_engineGone (s : State) (n : Nat) (hs : Keeps kqu kou kfr s) : Keeps kqu kou kfr (State.engineGone s n) := by
  unfold State.engineGone
  try dsimp only
  with_reducible
    apply keeps_foldl
    intro _
    intro _
    intro _
    apply keeps_failRdx
    assumption
    assumption

theorem keeps_rdxAdmit (s : State) (m n c : Nat) (hs : Keeps kqu kou kfr s) : Keeps kqu kou kfr (State.rdxAdmit s m n c).2 := by
  unfold State.rdxAdmit
  try dsimp only
  with_reducible
    split
    dsimp only
    apply keeps_setRx
    split
    split
    dsimp only
    apply keeps_draw
    apply keeps_draw
    apply keeps_pctx
    apply keeps_prc
    apply keeps_setTw
    apply keeps_setEntry
    apply keeps_clearTab
    apply keeps_foldl
    intro _
    intro _
    intro _
    apply keeps_setReserved
    assumption
    assumption
    dsimp only
    apply keeps_pctx
    apply keeps_prc
    apply keeps_setTw
    apply keeps_setEntry
    apply keeps_clearTab
    apply keeps_foldl
    intro _
    intro _
    intro _
    apply keeps_setReserved
    assumption
    assumption
    split
    dsimp only
    apply keeps_draw
    apply keeps_draw
    apply keeps_pctx
    apply keeps_prc
    apply keeps_setTw
    apply keeps_setEntry
    apply keeps_clearTab
    apply keeps_foldl
    intro _
    intro _
    intro _
    apply keeps_setReserved
    assumption
    assumption
    dsimp only
    apply keeps_pctx
    apply keeps_prc
    apply keeps_setTw
    apply keeps_setEntry
    apply keeps_clearTab
    apply keeps_foldl
    intro _
    intro _
    intro _
    apply keeps_setReserved
    assumption
    assumption
    dsimp only
    assumption

theorem keeps_rdxAdmit_eq {s : State} {m n c : Nat} {x0 : Code} {x1 : State} (ke : State.rdxAdmit s m n c = (x0, x1)) (hs : Keeps kqu kou kfr s) : Keeps kqu kou kfr x1 := by
  have k := keeps_rdxAdmit (kqu := kqu) (kou := kou) (kfr := kfr) s m n c hs
  rw [ke] at k
  exact k

theorem keeps_queueOut (s : State) (c : Nat) (port : Option Nat) (vc : Nat) (bs : List Byte) (hs : Keeps kqu kou kfr s) : Keeps kqu kou kfr (State.queueOut s c port vc bs) := by
  unfold State.queueOut
  try dsimp only
  with_reducible
    split
    assumption
    apply keeps_setRx
    assumption

theorem keeps_ackRank (s : State) (c i : Nat) (code : Code) (nak : Nat) (hs : Keeps kqu kou kfr s) : Keeps kqu kou kfr (State.ackRank s c i code nak) := by
  unfold State.ackRank
  try dsimp only
  with_reducible
    split
    assumption
    apply keeps_ite
    assumption
    apply keeps_queueOut
    apply keeps_setRx
    assumption

theorem keeps_badColl (s : State) (c : Nat) (rank : Option Nat) (code : Code) (bs : List Byte) (hs : Keeps kqu kou kfr s) : Keeps kqu kou kfr (State.badColl s c rank code bs) := by
  unfold State.badColl
  try dsimp only
  with_reducible
    split
    apply keeps_raise
    apply keeps_inc
    assumption
    apply keeps_ackRank
    apply keeps_raise
    apply keeps_inc
    assumption

theorem keeps_collIn (s : State) (op port : Nat) (gang : Option (Nat × Nat)) (bs : List Byte) (hs : Keeps kqu kou kfr s) : Keeps kqu kou kfr (State.collIn s op port gang bs) := by
  unfold State.collIn
  try dsimp only
  with_reducible
    apply keeps_ite
    apply keeps_ite
    apply keeps_collFree
    apply keeps_unhand
    assumption
    apply keeps_unhand
    assumption
    apply keeps_ite
    apply keeps_ite
    apply keeps_collFree
    apply keeps_raise
    apply keeps_inc
    apply keeps_unhand
    assumption
    apply keeps_raise
    apply keeps_inc
    apply keeps_unhand
    assumption
    apply keeps_ite
    apply keeps_ite
    apply keeps_collFree
    apply keeps_badColl
    apply keeps_unhand
    assumption
    apply keeps_badColl
    apply keeps_unhand
    assumption
    apply keeps_ite
    apply keeps_ite
    apply keeps_collFree
    apply keeps_inc
    apply keeps_unhand
    assumption
    apply keeps_inc
    apply keeps_unhand
    assumption
    apply keeps_ite
    apply keeps_ite
    apply keeps_collFree
    apply keeps_badColl
    apply keeps_unhand
    assumption
    apply keeps_badColl
    apply keeps_unhand
    assumption
    split
    apply keeps_ite
    apply keeps_collFree
    apply keeps_badColl
    apply keeps_unhand
    assumption
    apply keeps_badColl
    apply keeps_unhand
    assumption
    apply keeps_ite
    apply keeps_ite
    apply keeps_collFree
    apply keeps_badColl
    apply keeps_unhand
    assumption
    apply keeps_badColl
    apply keeps_unhand
    assumption
    apply keeps_setRx
    apply keeps_ite
    apply keeps_ite
    apply keeps_collFree
    apply keeps_unhand
    assumption
    apply keeps_unhand
    assumption
    apply keeps_unhand
    assumption

theorem keeps_late (s : State) (c n : Nat) (hs : Keeps kqu kou kfr s) : Keeps kqu kou kfr (State.late s c n) := by
  unfold State.late
  try dsimp only
  with_reducible
    apply keeps_ite
    assumption
    apply keeps_prc
    apply keeps_add
    assumption

theorem keeps_claimHops (s : State) (c : Nat) (k : RClaim) (hs : Keeps kqu kou kfr s) : Keeps kqu kou kfr (State.claimHops s c k) := by
  unfold State.claimHops
  try dsimp only
  with_reducible
    apply keeps_meshSend
    apply keeps_meshSend
    assumption

theorem keeps_grant (s : State) (c : Nat) (k : RClaim) (hs : Keeps kqu kou kfr s) : Keeps kqu kou kfr (State.grant s c k) := by
  unfold State.grant
  try dsimp only
  with_reducible
    refine keeps_mk ?_
    apply keeps_foldl
    intro _
    intro _
    intro _
    apply keeps_meshSend
    assumption
    apply keeps_late
    apply keeps_ite
    apply keeps_collFree
    apply keeps_setRx
    assumption
    apply keeps_setRx
    assumption

theorem keeps_judgeRemote (s : State) (c : Nat) (k : RClaim) (r : RRank) (hs : Keeps kqu kou kfr s) : Keeps kqu kou kfr (State.judgeRemote s c k r) := by
  unfold State.judgeRemote
  try dsimp only
  with_reducible
    apply keeps_ite
    apply keeps_ackRank
    apply keeps_inc
    apply keeps_setRx
    assumption
    apply keeps_ite
    apply keeps_setRx
    assumption
    apply keeps_ite
    apply keeps_ackRank
    apply keeps_raise
    apply keeps_inc
    apply keeps_setRx
    assumption
    apply keeps_ackRank
    apply keeps_grant
    apply keeps_setRx
    assumption

theorem keeps_claim (s : State) (c : Nat) (hs : Keeps kqu kou kfr s) : Keeps kqu kou kfr (State.claim s c) := by
  unfold State.claim
  try dsimp only
  with_reducible
    split
    assumption
    split
    assumption
    apply keeps_ite
    apply keeps_judgeRemote
    apply keeps_claimHops
    assumption
    apply keeps_ite
    apply keeps_grant
    apply keeps_claimHops
    assumption
    apply keeps_setRx
    assumption

theorem keeps_claimGrant (s : State) (c : Nat) (hs : Keeps kqu kou kfr s) : Keeps kqu kou kfr (State.claimGrant s c) := by
  unfold State.claimGrant
  try dsimp only
  with_reducible
    split
    assumption
    apply keeps_grant
    apply keeps_claimHops
    assumption

theorem keeps_rdxFlags (s : State) (c eng : Nat) (x : Exc) (hs : Keeps kqu kou kfr s) : Keeps kqu kou kfr (State.rdxFlags s c eng x) := by
  unfold State.rdxFlags
  try dsimp only
  with_reducible
    apply keeps_ite
    apply keeps_raise
    apply keeps_ite
    apply keeps_prc
    apply keeps_ite
    apply keeps_prc
    assumption
    assumption
    apply keeps_ite
    apply keeps_prc
    assumption
    assumption
    assumption

theorem keeps_lineIn (s : State) (c rank g : Nat) (bs : List Byte) (hs : Keeps kqu kou kfr s) : Keeps kqu kou kfr (State.lineIn s c rank g bs) := by
  unfold State.lineIn
  try dsimp only
  with_reducible
    split
    apply keeps_ite
    apply keeps_late
    assumption
    apply keeps_ite
    apply keeps_late
    assumption
    apply keeps_ite
    apply keeps_rdxFlags
    apply keeps_add
    apply keeps_setLine
    assumption
    apply keeps_add
    apply keeps_setLine
    assumption
    assumption

theorem keeps_takeIn (s : State) (n : Nat) (e : EngIn) (hs : Keeps kqu kou kfr s) : Keeps kqu kou kfr (State.takeIn s n e) := by
  unfold State.takeIn
  try dsimp only
  with_reducible
    apply keeps_foldl
    intro _
    intro _
    intro _
    apply keeps_lineIn
    assumption
    apply keeps_p
    apply keeps_meshGone
    assumption

theorem keeps_accumulate (s : State) (n : Nat) (hs : Keeps kqu kou kfr s) : Keeps kqu kou kfr (State.accumulate s n) := by
  unfold State.accumulate
  try dsimp only
  with_reducible
    split
    assumption
    split
    assumption
    apply keeps_takeIn
    apply keeps_draw
    assumption

theorem keeps_roundDone (s : State) (c r : Nat) (hs : Keeps kqu kou kfr s) : Keeps kqu kou kfr (State.roundDone s c r) := by
  unfold State.roundDone
  try dsimp only
  with_reducible
    apply keeps_signalCtx
    apply keeps_ite
    apply keeps_setRx
    apply keeps_countSha
    apply keeps_setEntry
    assumption
    assumption

theorem keeps_sendWindows (s : State) (c : Nat) (hs : Keeps kqu kou kfr s) : Keeps kqu kou kfr (State.sendWindows s c) := by
  unfold State.sendWindows
  try dsimp only
  with_reducible
    apply keeps_foldl
    intro _
    intro _
    intro _
    apply keeps_ite
    apply keeps_queueOut
    apply keeps_setRx
    apply keeps_draw
    assumption
    assumption
    assumption

theorem keeps_lineDone (s : State) (c g : Nat) (hs : Keeps kqu kou kfr s) : Keeps kqu kou kfr (State.lineDone s c g) := by
  unfold State.lineDone
  try dsimp only
  with_reducible
    apply keeps_ite
    apply keeps_freeRdx
    apply keeps_ite
    apply keeps_sendWindows
    apply keeps_ite
    apply keeps_roundDone
    apply keeps_prc
    apply keeps_setRx
    assumption
    apply keeps_prc
    apply keeps_setRx
    assumption
    apply keeps_ite
    apply keeps_roundDone
    apply keeps_prc
    apply keeps_setRx
    assumption
    apply keeps_prc
    apply keeps_setRx
    assumption
    apply keeps_ite
    apply keeps_sendWindows
    apply keeps_ite
    apply keeps_roundDone
    apply keeps_prc
    apply keeps_setRx
    assumption
    apply keeps_prc
    apply keeps_setRx
    assumption
    apply keeps_ite
    apply keeps_roundDone
    apply keeps_prc
    apply keeps_setRx
    assumption
    apply keeps_prc
    apply keeps_setRx
    assumption

theorem keeps_lineCheck (s : State) (c g : Nat) (hs : Keeps kqu kou kfr s) : Keeps kqu kou kfr (State.lineCheck s c g) := by
  unfold State.lineCheck
  try dsimp only
  with_reducible
    split
    assumption
    apply keeps_ite
    apply keeps_lineDone
    assumption
    assumption

theorem keeps_setResult (s : State) (c g : Nat) (bs : List Byte) (hs : Keeps kqu kou kfr s) : Keeps kqu kou kfr (State.setResult s c g bs) := by
  unfold State.setResult
  try dsimp only
  with_reducible
    apply keeps_lineCheck
    apply keeps_ite
    apply keeps_ite
    apply keeps_writeSpace
    apply keeps_setLine
    assumption
    apply keeps_memDenied
    apply keeps_setLine
    assumption
    apply keeps_setLine
    assumption

theorem keeps_xpeReport (s : State) (c g : Nat) (r : List Byte × Nat × Bool) (hs : Keeps kqu kou kfr s) : Keeps kqu kou kfr (State.xpeReport s c g r) := by
  unfold State.xpeReport
  try dsimp only
  with_reducible
    apply keeps_ite
    apply keeps_rdxFlags
    apply keeps_ite
    apply keeps_add
    assumption
    apply keeps_prc
    apply keeps_add
    assumption
    apply keeps_ite
    apply keeps_add
    assumption
    apply keeps_prc
    apply keeps_add
    assumption

theorem keeps_releaseOne (s : State) (c g : Nat) (hs : Keeps kqu kou kfr s) : Keeps kqu kou kfr (State.releaseOne s c g) := by
  unfold State.releaseOne
  try dsimp only
  with_reducible
    apply keeps_ite
    apply keeps_ite
    apply keeps_lineCheck
    apply keeps_setLine
    apply keeps_xpeReport
    apply keeps_inc
    apply keeps_setLine
    assumption
    apply keeps_lineCheck
    apply keeps_setLine
    apply keeps_rdxFlags
    apply keeps_inc
    apply keeps_setLine
    assumption
    apply keeps_ite
    apply keeps_setLine
    apply keeps_rdxFlags
    apply keeps_inc
    apply keeps_setLine
    assumption
    apply keeps_setResult
    apply keeps_rdxFlags
    apply keeps_inc
    apply keeps_setLine
    assumption

theorem keeps_lineRelease (s : State) (c g : Nat) (hs : Keeps kqu kou kfr s) : Keeps kqu kou kfr (State.lineRelease s c g) := by
  unfold State.lineRelease
  try dsimp only
  with_reducible
    apply keeps_ite
    apply keeps_foldl
    intro _
    intro _
    intro _
    apply keeps_releaseOne
    assumption
    assumption
    assumption

theorem keeps_epiRun (k : Nat) (w : Bool) (p n a : Nat) (src dst : Desc) (s : State) (hs : Keeps kqu kou kfr s) : Keeps kqu kou kfr (State.epiRun k w p n a src dst s).2.2 := by
  induction k generalizing a s with
  | zero =>
    unfold State.epiRun
    exact hs
  | succ k k_ih =>
    unfold State.epiRun
    try dsimp only
    with_reducible
      split
      dsimp only
      assumption
      split
      dsimp only
      assumption
      split
      split
      split
      split
      dsimp only
      assumption
      split
      dsimp only
      assumption
      dsimp only
      apply k_ih
      apply keeps_add
      apply keeps_epiRows
      assumption
      split
      dsimp only
      assumption
      split
      dsimp only
      assumption
      dsimp only
      apply k_ih
      apply keeps_add
      apply keeps_epiRows
      assumption
      split
      split
      dsimp only
      assumption
      split
      dsimp only
      assumption
      dsimp only
      apply k_ih
      apply keeps_add
      apply keeps_epiRows
      assumption
      split
      dsimp only
      assumption
      split
      dsimp only
      assumption
      dsimp only
      apply k_ih
      apply keeps_add
      apply keeps_epiRows
      assumption
      split
      split
      split
      dsimp only
      assumption
      split
      dsimp only
      assumption
      dsimp only
      apply k_ih
      apply keeps_add
      apply keeps_epiRows
      assumption
      split
      dsimp only
      assumption
      split
      dsimp only
      assumption
      dsimp only
      apply k_ih
      apply keeps_add
      apply keeps_epiRows
      assumption
      split
      split
      dsimp only
      assumption
      split
      dsimp only
      assumption
      dsimp only
      apply k_ih
      apply keeps_add
      apply keeps_epiRows
      assumption
      split
      dsimp only
      assumption
      split
      dsimp only
      assumption
      dsimp only
      apply k_ih
      apply keeps_add
      apply keeps_epiRows
      assumption
      split
      dsimp only
      assumption
      split
      dsimp only
      assumption
      dsimp only
      apply k_ih
      apply keeps_add
      apply keeps_cvtRows
      assumption
      dsimp only
      assumption
theorem keeps_epiRun_eq {k : Nat} {w : Bool} {p n a : Nat} {src dst : Desc} {s : State} {x0 : Code} {x1 : Exc} {x2 : State} (ke : State.epiRun k w p n a src dst s = (x0, x1, x2)) (hs : Keeps kqu kou kfr s) : Keeps kqu kou kfr x2 := by
  have k := keeps_epiRun (kqu := kqu) (kou := kou) (kfr := kfr) k w p n a src dst s hs
  rw [ke] at k
  exact k

theorem keeps_putResults (s : State) (c : Nat) (l : List Nat) (bs : List Byte) (hs : Keeps kqu kou kfr s) : Keeps kqu kou kfr (State.putResults s c l bs) := by
  induction l generalizing s bs with
  | nil => exact hs
  | cons g l k_ih =>
    unfold State.putResults
    try dsimp only
    with_reducible
      apply k_ih
      apply keeps_setResult
      assumption

theorem keeps_epilogue (s : State) (c g : Nat) (hs : Keeps kqu kou kfr s) : Keeps kqu kou kfr (State.epilogue s c g) := by
  unfold State.epilogue
  try dsimp only
  with_reducible
    apply keeps_ite
    assumption
    apply keeps_ite
    apply keeps_putResults
    apply keeps_rdxFlags
    refine keeps_zeroVec ?_
    apply keeps_epiRun
    apply keeps_writeSpace
    assumption
    apply keeps_failRdx
    refine keeps_zeroVec ?_
    apply keeps_epiRun
    apply keeps_writeSpace
    assumption

theorem keeps_reinject (s : State) (eng vc : Nat) (ports : List (Nat × List Byte)) (hs : Keeps kqu kou kfr s) : Keeps kqu kou kfr (State.reinject s eng vc ports) := by
  unfold State.reinject
  try dsimp only
  with_reducible
    split
    apply keeps_p
    assumption
    apply keeps_bypass
    apply keeps_foldl
    intro _
    intro _
    intro _
    apply keeps_makeCopies
    assumption
    apply keeps_meshSend
    apply keeps_newId
    apply keeps_foldl
    intro _
    intro _
    intro _
    apply keeps_inc
    assumption
    apply keeps_p
    assumption

theorem keeps_resultSend (s : State) (c : Nat) (hs : Keeps kqu kou kfr s) : Keeps kqu kou kfr (State.resultSend s c) := by
  unfold State.resultSend
  try dsimp only
  with_reducible
    split
    apply keeps_reinject
    apply keeps_setRx
    assumption
    apply keeps_ite
    assumption
    split
    apply keeps_ite
    assumption
    apply keeps_foldl
    intro _
    intro _
    intro _
    apply keeps_reinject
    assumption
    apply keeps_setRx
    assumption
    split
    assumption
    apply keeps_ite
    assumption
    split
    apply keeps_setRx
    assumption
    apply keeps_reinject
    apply keeps_setRx
    assumption

theorem keeps_resendTo (s : State) (c : Nat) (l : RLine) (e : Nat × RRank) (hs : Keeps kqu kou kfr s) : Keeps kqu kou kfr (State.resendTo s c l e) := by
  unfold State.resendTo
  try dsimp only
  with_reducible
    split
    apply keeps_ite
    apply keeps_failRdx
    apply keeps_setRx
    assumption
    apply keeps_reinject
    apply keeps_inc
    apply keeps_setRx
    assumption
    assumption

theorem keeps_resendPart (s : State) (c : Nat) (l : RLine) (hs : Keeps kqu kou kfr s) : Keeps kqu kou kfr (State.resendPart s c l) := by
  unfold State.resendPart
  try dsimp only
  with_reducible
    split
    apply keeps_ite
    apply keeps_failRdx
    assumption
    apply keeps_reinject
    apply keeps_inc
    apply keeps_setLine
    assumption
    assumption

theorem keeps_rdxTimeout (s : State) (c psn : Nat) (hs : Keeps kqu kou kfr s) : Keeps kqu kou kfr (State.rdxTimeout s c psn) := by
  unfold State.rdxTimeout
  try dsimp only
  with_reducible
    apply keeps_ite
    assumption
    split
    split
    apply keeps_resendPart
    assumption
    assumption
    apply keeps_foldl
    intro _
    intro _
    intro _
    apply keeps_resendTo
    assumption
    split
    apply keeps_resendPart
    assumption
    assumption

theorem keeps_ackResults (s : State) (c : Nat) (bs : List Byte) (i : Nat) (r : RRank) (hs : Keeps kqu kou kfr s) : Keeps kqu kou kfr (State.ackResults s c bs i r) := by
  unfold State.ackResults
  try dsimp only
  with_reducible
    apply keeps_foldl
    intro _
    intro _
    intro _
    apply keeps_resendTo
    assumption
    apply keeps_foldl
    intro _
    intro _
    intro _
    apply keeps_lineCheck
    assumption
    apply keeps_setRx
    assumption

theorem keeps_ackPartials (s : State) (c : Nat) (bs : List Byte) (hs : Keeps kqu kou kfr s) : Keeps kqu kou kfr (State.ackPartials s c bs) := by
  unfold State.ackPartials
  try dsimp only
  with_reducible
    apply keeps_foldl
    intro _
    intro _
    intro _
    apply keeps_resendPart
    assumption
    apply keeps_setRx
    assumption

theorem keeps_rdxAckIn (s : State) (bs : List Byte) (hs : Keeps kqu kou kfr s) : Keeps kqu kou kfr (State.rdxAckIn s bs) := by
  unfold State.rdxAckIn
  try dsimp only
  with_reducible
    apply keeps_ite
    apply keeps_unhand
    assumption
    apply keeps_ite
    apply keeps_unhand
    assumption
    apply keeps_ite
    apply keeps_inc
    apply keeps_unhand
    assumption
    split
    apply keeps_ackResults
    apply keeps_unhand
    assumption
    apply keeps_ite
    apply keeps_ackPartials
    apply keeps_unhand
    assumption
    apply keeps_badColl
    apply keeps_unhand
    assumption

theorem keeps_acceptOwed (s : State) (port : Nat) (hs : Keeps kqu kou kfr s) : Keeps kqu kou kfr (State.acceptOwed s port) := by
  unfold State.acceptOwed
  try dsimp only
  with_reducible
    split
    assumption
    apply keeps_foldl
    intro _
    intro _
    intro _
    apply keeps_hand
    assumption
    apply keeps_setLl
    assumption

theorem keeps_fromParent (s : State) (op port : Nat) (bs : List Byte) (hs : Keeps kqu kou kfr s) : Keeps kqu kou kfr (State.fromParent s op port bs).2 := by
  unfold State.fromParent
  try dsimp only
  with_reducible
    split
    dsimp only
    apply keeps_unhand
    assumption
    split
    dsimp only
    apply keeps_raise
    apply keeps_inc
    apply keeps_unhand
    assumption
    split
    dsimp only
    apply keeps_badColl
    apply keeps_unhand
    assumption
    split
    dsimp only
    apply keeps_inc
    apply keeps_unhand
    assumption
    split
    dsimp only
    apply keeps_badColl
    apply keeps_unhand
    assumption
    dsimp only
    apply keeps_unhand
    assumption

theorem keeps_fromParent_eq {s : State} {op port : Nat} {bs : List Byte} {x0 : Option Nat} {x1 : State} (ke : State.fromParent s op port bs = (x0, x1)) (hs : Keeps kqu kou kfr s) : Keeps kqu kou kfr x1 := by
  have k := keeps_fromParent (kqu := kqu) (kou := kou) (kfr := kfr) s op port bs hs
  rw [ke] at k
  exact k

theorem keeps_ackParent (s : State) (c : Nat) (hs : Keeps kqu kou kfr s) : Keeps kqu kou kfr (State.ackParent s c) := by
  unfold State.ackParent
  try dsimp only
  with_reducible
    apply keeps_queueOut
    assumption

theorem keeps_collResult (s : State) (port : Nat) (bs : List Byte) (hs : Keeps kqu kou kfr s) : Keeps kqu kou kfr (State.collResult s port bs) := by
  unfold State.collResult
  try dsimp only
  with_reducible
    split
    refine keeps_fromParent_eq (by assumption) ?_
    assumption
    apply keeps_ite
    apply keeps_badColl
    refine keeps_fromParent_eq (by assumption) ?_
    assumption
    apply keeps_ite
    apply keeps_ackParent
    apply keeps_inc
    refine keeps_fromParent_eq (by assumption) ?_
    assumption
    apply keeps_ite
    refine keeps_fromParent_eq (by assumption) ?_
    assumption
    apply keeps_ackParent
    apply keeps_foldl
    intro _
    intro _
    intro _
    apply keeps_ite
    apply keeps_setResult
    assumption
    assumption
    apply keeps_setRx
    refine keeps_fromParent_eq (by assumption) ?_
    assumption

theorem keeps_collWindow (s : State) (port : Nat) (bs : List Byte) (hs : Keeps kqu kou kfr s) : Keeps kqu kou kfr (State.collWindow s port bs) := by
  unfold State.collWindow
  try dsimp only
  with_reducible
    split
    refine keeps_fromParent_eq (by assumption) ?_
    assumption
    apply keeps_setRx
    refine keeps_fromParent_eq (by assumption) ?_
    assumption

theorem keeps_serveAll (k c : Nat) (s : State) (hs : Keeps kqu kou kfr s) : Keeps kqu kou kfr (State.serveAll k c s) := by
  induction k generalizing s with
  | zero =>
    unfold State.serveAll
    exact hs
  | succ k k_ih =>
    unfold State.serveAll
    try dsimp only
    with_reducible
      split
      assumption
      apply k_ih
      apply keeps_foldl
      intro _
      intro _
      intro _
      apply keeps_lineIn
      assumption
      apply keeps_meshGone
      assumption

theorem keeps_rdxSave (s : State) (m n c : Nat) (hs : Keeps kqu kou kfr s) : Keeps kqu kou kfr (State.rdxSave s m n c).2 := by
  unfold State.rdxSave
  try dsimp only
  with_reducible
    split
    dsimp only
    assumption
    split
    dsimp only
    assumption
    dsimp only
    apply keeps_prc
    apply keeps_writeBuf
    apply keeps_foldl2
    intro _
    intro _
    intro _
    dsimp only
    apply keeps_xpeReport
    assumption
    dsimp only
    apply keeps_serveAll
    assumption

theorem keeps_rdxSave_eq {s : State} {m n c : Nat} {x0 : Code} {x1 : State} (ke : State.rdxSave s m n c = (x0, x1)) (hs : Keeps kqu kou kfr s) : Keeps kqu kou kfr x1 := by
  have k := keeps_rdxSave (kqu := kqu) (kou := kou) (kfr := kfr) s m n c hs
  rw [ke] at k
  exact k

theorem keeps_rdxRestore (s : State) (m n c : Nat) (hs : Keeps kqu kou kfr s) : Keeps kqu kou kfr (State.rdxRestore s m n c).2 := by
  unfold State.rdxRestore
  try dsimp only
  with_reducible
    split
    dsimp only
    assumption
    split
    dsimp only
    assumption
    split
    dsimp only
    assumption
    dsimp only
    apply keeps_prc
    apply keeps_foldl
    intro _
    intro _
    intro _
    apply keeps_setLine
    assumption
    assumption

theorem keeps_rdxRestore_eq {s : State} {m n c : Nat} {x0 : Code} {x1 : State} (ke : State.rdxRestore s m n c = (x0, x1)) (hs : Keeps kqu kou kfr s) : Keeps kqu kou kfr x1 := by
  have k := keeps_rdxRestore (kqu := kqu) (kou := kou) (kfr := kfr) s m n c hs
  rw [ke] at k
  exact k

theorem keeps_rdxRetire (s : State) (c : Nat) (hs : Keeps kqu kou kfr s) : Keeps kqu kou kfr (State.rdxRetire s c).2 := by
  unfold State.rdxRetire
  try dsimp only
  with_reducible
    split
    dsimp only
    assumption
    dsimp only
    apply keeps_prc
    apply keeps_setRx
    assumption

theorem keeps_rdxRetire_eq {s : State} {c : Nat} {x0 : Code} {x1 : State} (ke : State.rdxRetire s c = (x0, x1)) (hs : Keeps kqu kou kfr s) : Keeps kqu kou kfr x1 := by
  have k := keeps_rdxRetire (kqu := kqu) (kou := kou) (kfr := kfr) s c hs
  rw [ke] at k
  exact k

theorem keeps_rdxCommand (s : State) (m n v : Nat) (hs : Keeps kqu kou kfr s) : Keeps kqu kou kfr (State.rdxCommand s m n v) := by
  unfold State.rdxCommand
  try dsimp only
  with_reducible
    apply keeps_onWrite
    assumption
    intro _
    apply keeps_ite
    apply keeps_refuse
    assumption
    apply keeps_ite
    apply keeps_refuseOp
    assumption
    apply keeps_ite
    apply keeps_finish
    apply keeps_refuse
    split
    apply keeps_rdxAdmit
    assumption
    split
    dsimp only
    assumption
    split
    dsimp only
    assumption
    apply keeps_rdxRetire
    assumption
    split
    dsimp only
    assumption
    split
    dsimp only
    assumption
    dsimp only
    apply keeps_resetRdx
    assumption
    split
    dsimp only
    assumption
    split
    dsimp only
    assumption
    apply keeps_rdxSave
    assumption
    split
    dsimp only
    assumption
    split
    dsimp only
    assumption
    apply keeps_rdxRestore
    assumption
    apply keeps_ite
    apply keeps_addJob
    apply keeps_setBusy
    split
    apply keeps_rdxAdmit
    assumption
    split
    dsimp only
    assumption
    split
    dsimp only
    assumption
    apply keeps_rdxRetire
    assumption
    split
    dsimp only
    assumption
    split
    dsimp only
    assumption
    dsimp only
    apply keeps_resetRdx
    assumption
    split
    dsimp only
    assumption
    split
    dsimp only
    assumption
    apply keeps_rdxSave
    assumption
    split
    dsimp only
    assumption
    split
    dsimp only
    assumption
    apply keeps_rdxRestore
    assumption
    apply keeps_finish
    split
    apply keeps_rdxAdmit
    assumption
    split
    dsimp only
    assumption
    split
    dsimp only
    assumption
    apply keeps_rdxRetire
    assumption
    split
    dsimp only
    assumption
    split
    dsimp only
    assumption
    dsimp only
    apply keeps_resetRdx
    assumption
    split
    dsimp only
    assumption
    split
    dsimp only
    assumption
    apply keeps_rdxSave
    assumption
    split
    dsimp only
    assumption
    split
    dsimp only
    assumption
    apply keeps_rdxRestore
    assumption

theorem keeps_rdxCmdDone (s : State) (n : Nat) (hs : Keeps kqu kou kfr s) : Keeps kqu kou kfr (State.rdxCmdDone s n) := by
  unfold State.rdxCmdDone
  try dsimp only
  with_reducible
    split
    assumption
    apply keeps_finish
    apply keeps_p
    apply keeps_dropJob
    assumption

end Sys2Proof.Machine
end

