-- ==== Sys2Proof/Laws/KeepsSmallOps.lean ====
section
/-! SUPPORT. What every operation of Machine/SmallOps.lean keeps. -/

namespace Sys2Proof.Machine

variable {kqu : List Instr} {kou : List Emit} {kfr : Nat}

theorem keeps_setSc (s : State) (x : ScOpen) (hs : Keeps kqu kou kfr s) : Keeps kqu kou kfr (State.setSc s x) := by
  unfold State.setSc
  try dsimp only
  with_reducible
    refine keeps_mk ?_
    assumption

theorem keeps_scSend (s : State) (l : List (Nat × List Byte)) (hs : Keeps kqu kou kfr s) : Keeps kqu kou kfr (State.scSend s l) := by
  unfold State.scSend
  try dsimp only
  with_reducible
    apply keeps_foldl
    intro _
    intro _
    intro _
    apply keeps_ite
    apply keeps_inc
    assumption
    apply keeps_bypass
    apply keeps_makeCopies
    apply keeps_newId
    assumption
    assumption

theorem keeps_scClose (s : State) (i : Nat) (x : ScOpen) (hs : Keeps kqu kou kfr s) : Keeps kqu kou kfr (State.scClose s i x) := by
  unfold State.scClose
  try dsimp only
  with_reducible
    apply keeps_scSend
    apply keeps_setSc
    apply keeps_inc
    apply keeps_setEntry
    apply keeps_clearTab
    assumption

theorem keeps_scEarly (s : State) (hs : Keeps kqu kou kfr s) : Keeps kqu kou kfr (State.scEarly s) := by
  unfold State.scEarly
  try dsimp only
  with_reducible
    apply keeps_raise
    apply keeps_inc
    assumption

theorem keeps_scAdd (s : State) (i who : Nat) (bs : List Byte) (hs : Keeps kqu kou kfr s) : Keeps kqu kou kfr (State.scAdd s i who bs) := by
  unfold State.scAdd
  try dsimp only
  with_reducible
    apply keeps_ite
    apply keeps_inc
    assumption
    apply keeps_ite
    apply keeps_scClose
    assumption
    apply keeps_setSc
    assumption

theorem keeps_collSmall (s : State) (port : Nat) (bs : List Byte) (hs : Keeps kqu kou kfr s) : Keeps kqu kou kfr (State.collSmall s port bs) := by
  unfold State.collSmall
  try dsimp only
  with_reducible
    apply keeps_ite
    apply keeps_raise
    apply keeps_inc
    apply keeps_unhand
    assumption
    apply keeps_ite
    apply keeps_scEarly
    apply keeps_unhand
    assumption
    apply keeps_ite
    apply keeps_scAdd
    apply keeps_unhand
    assumption
    apply keeps_ite
    apply keeps_scSend
    apply keeps_unhand
    assumption
    apply keeps_ite
    apply keeps_scAdd
    apply keeps_setSc
    apply keeps_pt
    apply keeps_pt
    apply keeps_unhand
    assumption
    apply keeps_scEarly
    apply keeps_unhand
    assumption

theorem keeps_scOpen (s : State) (i : Nat) (hs : Keeps kqu kou kfr s) : Keeps kqu kou kfr (State.scOpen s i).2 := by
  unfold State.scOpen
  try dsimp only
  with_reducible
    split
    dsimp only
    assumption
    split
    dsimp only
    assumption
    dsimp only
    apply keeps_setSc
    apply keeps_pt
    apply keeps_pt
    assumption

theorem keeps_scOpen_eq {s : State} {i : Nat} {x0 : Code} {x1 : State} (ke : State.scOpen s i = (x0, x1)) (hs : Keeps kqu kou kfr s) : Keeps kqu kou kfr x1 := by
  have k := keeps_scOpen (kqu := kqu) (kou := kou) (kfr := kfr) s i hs
  rw [ke] at k
  exact k

theorem keeps_scShut (s : State) (i : Nat) (hs : Keeps kqu kou kfr s) : Keeps kqu kou kfr (State.scShut s i).2 := by
  unfold State.scShut
  try dsimp only
  with_reducible
    split
    dsimp only
    refine keeps_mk ?_
    apply keeps_pt
    assumption
    dsimp only
    assumption

theorem keeps_scShut_eq {s : State} {i : Nat} {x0 : Code} {x1 : State} (ke : State.scShut s i = (x0, x1)) (hs : Keeps kqu kou kfr s) : Keeps kqu kou kfr x1 := by
  have k := keeps_scShut (kqu := kqu) (kou := kou) (kfr := kfr) s i hs
  rw [ke] at k
  exact k

theorem keeps_scCommand (s : State) (m v : Nat) (hs : Keeps kqu kou kfr s) : Keeps kqu kou kfr (State.scCommand s m v) := by
  unfold State.scCommand
  try dsimp only
  with_reducible
    apply keeps_onWrite
    assumption
    intro _
    apply keeps_ite
    apply keeps_refuseOp
    assumption
    apply keeps_finish
    apply keeps_ite
    apply keeps_refuse
    split
    split
    apply keeps_scOpen
    assumption
    apply keeps_scShut
    assumption
    dsimp only
    assumption
    split
    split
    apply keeps_scOpen
    assumption
    apply keeps_scShut
    assumption
    dsimp only
    assumption

end Sys2Proof.Machine
end

