-- ==== Sys2Proof/Laws/KeepsMmOps.lean ====
section
/-! SUPPORT. What every operation of Machine/MmOps.lean keeps. -/

namespace Sys2Proof.Machine

variable {kqu : List Instr} {kou : List Emit} {kfr : Nat}

theorem keeps_MmRun_finish (r : MmRun) (p : Prod) (o : MmOut) (b m n : Nat) (own : Xsum) (hs : Keeps kqu kou kfr r.st) : Keeps kqu kou kfr (r.finish p o b m n own).st := by
  unfold MmRun.finish
  try dsimp only
  with_reducible
    split
    split
    split
    dsimp only
    apply keeps_putCode
    apply keeps_writeSpace
    assumption
    dsimp only
    apply keeps_putCode
    apply keeps_writeSpace
    assumption
    split
    dsimp only
    apply keeps_putCode
    assumption
    dsimp only
    apply keeps_putCode
    assumption
    split
    split
    dsimp only
    apply keeps_writeSpace
    assumption
    dsimp only
    apply keeps_writeSpace
    assumption
    assumption

theorem keeps_foldlst {α : Type} {f : MmRun → α → MmRun} {l : List α} {s : MmRun}
    (hf : ∀ t x, Keeps kqu kou kfr t.st → Keeps kqu kou kfr (f t x).st) (hs : Keeps kqu kou kfr s.st) :
    Keeps kqu kou kfr (l.foldl f s).st := by
  induction l generalizing s with
  | nil => exact hs
  | cons x l ih => exact ih (hf _ _ hs)
theorem keeps_MmRun_unitPart (r : MmRun) (p : Prod) (o : MmOut) (save q u t0 t1 : Nat) (hs : Keeps kqu kou kfr r.st) : Keeps kqu kou kfr (r.unitPart p o save q u t0 t1).st := by
  unfold MmRun.unitPart
  dsimp only
  split
  · with_reducible
   apply keeps_foldlst
   intro _
   intro _
   intro _
   apply keeps_foldlst
   intro _
   intro _
   intro _
   apply keeps_MmRun_finish
   assumption
   assumption
   assumption
  · dsimp only
    apply keeps_foldl
    · intro t x ht
      exact keeps_writeSpace ht
    · exact keeps_hbm hs (memWf_zero _ _ hs.wf.hbm)

theorem keeps_MmRun_array (r : MmRun) (p : Prod) (o : MmOut) (save q : Nat) (us : List Nat) (from_ to_ : Nat) (hs : Keeps kqu kou kfr r.st) : Keeps kqu kou kfr (r.array p o save q us from_ to_).st := by
  unfold MmRun.array
  try dsimp only
  with_reducible
    apply keeps_foldlst
    intro _
    intro _
    intro _
    split
    apply keeps_MmRun_unitPart
    assumption
    assumption
    assumption

theorem keeps_countTiles (s : State) (p : Prod) (f : Feed) (arrays : List Nat) (hs : Keeps kqu kou kfr s) : Keeps kqu kou kfr (State.countTiles s p f arrays) := by
  unfold State.countTiles
  try dsimp only
  with_reducible
    apply keeps_foldl
    intro _
    intro _
    intro _
    apply keeps_foldl
    intro _
    intro _
    intro _
    apply keeps_foldl
    intro _
    intro _
    intro _
    split
    assumption
    apply keeps_add
    assumption
    assumption
    apply keeps_add
    assumption
    assumption

end Sys2Proof.Machine
end

