-- ==== Sys2Proof/Laws/KeepsTrainOps.lean ====
section
/-! SUPPORT. What every operation of Machine/TrainOps.lean keeps. -/

namespace Sys2Proof.Machine

variable {kqu : List Instr} {kou : List Emit} {kfr : Nat}

theorem keeps_ple (s : State) (p e : Nat) (f : Fld) (v : Nat) (hs : Keeps kqu kou kfr s) : Keeps kqu kou kfr (State.ple s p e f v) := by
  unfold State.ple
  try dsimp only
  with_reducible
    apply keeps_pt
    assumption

theorem keeps_dropRetention (s : State) (p e : Nat) (hs : Keeps kqu kou kfr s) : Keeps kqu kou kfr (State.dropRetention s p e) := by
  unfold State.dropRetention
  try dsimp only
  with_reducible
    refine keeps_mk ?_
    apply keeps_ple
    apply keeps_ple
    apply keeps_ple
    apply keeps_ple
    assumption

theorem keeps_placeRet (s : State) (p : Nat) (chip : Bool) (l : List (Nat × Nat)) (hs : Keeps kqu kou kfr s) : Keeps kqu kou kfr (State.placeRet s p chip l) := by
  unfold State.placeRet
  try dsimp only
  with_reducible
    apply keeps_foldl
    intro _
    intro _
    intro _
    apply keeps_ite
    assumption
    apply keeps_ple
    apply keeps_ple
    assumption
    assumption

theorem keeps_fixPlan (s : State) (p : Nat) (hs : Keeps kqu kou kfr s) : Keeps kqu kou kfr (State.fixPlan s p).2 := by
  unfold State.fixPlan
  try dsimp only
  with_reducible
    split
    dsimp only
    assumption
    dsimp only
    apply keeps_placeRet
    apply keeps_placeRet
    apply keeps_pt
    apply keeps_pt
    apply keeps_pt
    assumption

theorem keeps_fixPlan_eq {s : State} {p : Nat} {x0 : Code} {x1 : State} (ke : State.fixPlan s p = (x0, x1)) (hs : Keeps kqu kou kfr s) : Keeps kqu kou kfr x1 := by
  have k := keeps_fixPlan (kqu := kqu) (kou := kou) (kfr := kfr) s p hs
  rw [ke] at k
  exact k

theorem keeps_endPlan (s : State) (p : Nat) (hs : Keeps kqu kou kfr s) : Keeps kqu kou kfr (State.endPlan s p) := by
  unfold State.endPlan
  try dsimp only
  with_reducible
    apply keeps_pt
    assumption

theorem keeps_retain (s : State) (p e : Nat) (x : Desc) (hs : Keeps kqu kou kfr s) : Keeps kqu kou kfr (State.retain s p e x) := by
  unfold State.retain
  try dsimp only
  with_reducible
    refine keeps_mk ?_
    apply keeps_foldl
    intro _
    intro _
    intro _
    apply keeps_foldl
    intro _
    intro _
    intro _
    apply keeps_ite
    apply keeps_writeSpace
    apply keeps_putBitsAt
    assumption
    apply keeps_putBitsAt
    assumption
    assumption
    assumption

theorem keeps_putMask (s : State) (p e rows outs : Nat) (pos : Nat → Nat → Bool) (hs : Keeps kqu kou kfr s) : Keeps kqu kou kfr (State.putMask s p e rows outs pos) := by
  unfold State.putMask
  try dsimp only
  with_reducible
    apply keeps_foldl
    intro _
    intro _
    intro _
    apply keeps_foldl
    intro _
    intro _
    intro _
    apply keeps_writeSpace
    assumption
    assumption
    assumption

theorem keeps_writeTwin (s : State) (w wt : Desc) (hs : Keeps kqu kou kfr s) : Keeps kqu kou kfr (State.writeTwin s w wt) := by
  unfold State.writeTwin
  try dsimp only
  with_reducible
    apply keeps_ite
    apply keeps_writeSpace
    apply keeps_foldl
    intro _
    intro _
    intro _
    apply keeps_foldl
    intro _
    intro _
    intro _
    apply keeps_putCode
    assumption
    assumption
    assumption
    apply keeps_foldl
    intro _
    intro _
    intro _
    apply keeps_foldl
    intro _
    intro _
    intro _
    apply keeps_putCode
    assumption
    assumption
    assumption

theorem keeps_forwardDone (s : State) (p e : Nat) (x : Desc) (work : Nat) (hs : Keeps kqu kou kfr s) : Keeps kqu kou kfr (State.forwardDone s p e x work) := by
  unfold State.forwardDone
  try dsimp only
  with_reducible
    apply keeps_ite
    apply keeps_ple
    apply keeps_ite
    apply keeps_ple
    apply keeps_ple
    apply keeps_ple
    apply keeps_pt
    assumption
    apply keeps_pt
    assumption
    apply keeps_ite
    apply keeps_ple
    apply keeps_ple
    apply keeps_ple
    apply keeps_pt
    assumption
    apply keeps_pt
    assumption

theorem keeps_maybeRelease (s : State) (p e : Nat) (hs : Keeps kqu kou kfr s) : Keeps kqu kou kfr (State.maybeRelease s p e) := by
  unfold State.maybeRelease
  try dsimp only
  with_reducible
    apply keeps_ite
    apply keeps_dropRetention
    assumption
    assumption

theorem keeps_dxDone (s : State) (p e work : Nat) (hs : Keeps kqu kou kfr s) : Keeps kqu kou kfr (State.dxDone s p e work) := by
  unfold State.dxDone
  try dsimp only
  with_reducible
    apply keeps_maybeRelease
    apply keeps_ite
    apply keeps_ple
    apply keeps_pt
    assumption
    apply keeps_pt
    assumption

theorem keeps_dwDone (s : State) (p e work : Nat) (accOut : Bool) (hs : Keeps kqu kou kfr s) : Keeps kqu kou kfr (State.dwDone s p e work accOut) := by
  unfold State.dwDone
  try dsimp only
  with_reducible
    apply keeps_maybeRelease
    apply keeps_ple
    apply keeps_ple
    apply keeps_pt
    assumption

theorem keeps_copyTensor (s : State) (dst src : Desc) (hs : Keeps kqu kou kfr s) : Keeps kqu kou kfr (State.copyTensor s dst src) := by
  unfold State.copyTensor
  try dsimp only
  with_reducible
    apply keeps_ite
    apply keeps_foldl
    intro _
    intro _
    intro _
    apply keeps_writeSpace
    assumption
    assumption
    apply keeps_foldl
    intro _
    intro _
    intro _
    apply keeps_foldl
    intro _
    intro _
    intro _
    apply keeps_ite
    apply keeps_putMeta
    apply keeps_putCode
    assumption
    apply keeps_putCode
    assumption
    assumption
    apply keeps_ite
    apply keeps_writeSpace
    assumption
    assumption

theorem keeps_ldw (s : State) (p : Nat) (i : Ins) (dsc : Nat → Desc) (hs : Keeps kqu kou kfr s) : Keeps kqu kou kfr (State.ldw s p i dsc) := by
  unfold State.ldw
  try dsimp only
  with_reducible
    apply keeps_ite
    apply keeps_countSha
    apply keeps_writeSpace
    split
    apply keeps_ple
    apply keeps_writeTwin
    assumption
    split
    apply keeps_ple
    apply keeps_copyTensor
    assumption
    apply keeps_copyTensor
    assumption
    apply keeps_written
    split
    apply keeps_ple
    apply keeps_writeTwin
    assumption
    split
    apply keeps_ple
    apply keeps_copyTensor
    assumption
    apply keeps_copyTensor
    assumption

theorem keeps_trainReset (s : State) (p : Nat) (hs : Keeps kqu kou kfr s) : Keeps kqu kou kfr (State.trainReset s p) := by
  unfold State.trainReset
  try dsimp only
  with_reducible
    refine keeps_mk ?_
    apply keeps_clearTab
    apply keeps_clearTab
    assumption

end Sys2Proof.Machine
end

