-- ==== Sys2Proof/Laws/KeepsGangOps.lean ====
section
/-! SUPPORT. What every operation of Machine/GangOps.lean keeps. -/

namespace Sys2Proof.Machine

variable {kqu : List Instr} {kou : List Emit} {kfr : Nat}

theorem keeps_pgp (s : State) (p : Nat) (f : Fld) (v : Nat) (hs : Keeps kqu kou kfr s) : Keeps kqu kou kfr (State.pgp s p f v) := by
  unfold State.pgp
  try dsimp only
  with_reducible
    apply keeps_pt
    assumption

theorem keeps_setLst (s : State) (p l : Nat) (v : LState) (hs : Keeps kqu kou kfr s) : Keeps kqu kou kfr (State.setLst s p l v) := by
  unfold State.setLst
  try dsimp only
  with_reducible
    apply keeps_pgp
    assumption

theorem keeps_setGl (s : State) (x : GList) (hs : Keeps kqu kou kfr s) : Keeps kqu kou kfr (State.setGl s x) := by
  unfold State.setGl
  try dsimp only
  with_reducible
    refine keeps_mk ?_
    assumption

theorem keeps_setOp (s : State) (o : GOp) (hs : Keeps kqu kou kfr s) : Keeps kqu kou kfr (State.setOp s o) := by
  unfold State.setOp
  try dsimp only
  with_reducible
    refine keeps_mk ?_
    assumption

theorem keeps_dropOp (s : State) (o : GOp) (hs : Keeps kqu kou kfr s) : Keeps kqu kou kfr (State.dropOp s o) := by
  unfold State.dropOp
  try dsimp only
  with_reducible
    refine keeps_mk ?_
    assumption

theorem keeps_issueNext (s : State) (p l z : Nat) (hs : Keeps kqu kou kfr s) : Keeps kqu kou kfr (State.issueNext s p l z) := by
  unfold State.issueNext
  try dsimp only
  with_reducible
    apply keeps_ite
    apply keeps_raise
    refine keeps_mk ?_
    apply keeps_setGl
    apply keeps_pgp
    assumption
    refine keeps_mk ?_
    apply keeps_setGl
    apply keeps_pgp
    assumption

theorem keeps_turn (s : State) (p l z : Nat) (hs : Keeps kqu kou kfr s) : Keeps kqu kou kfr (State.turn s p l z) := by
  unfold State.turn
  try dsimp only
  with_reducible
    split
    apply keeps_setOp
    assumption
    apply keeps_issueNext
    assumption

theorem keeps_drrTurn (s : State) (cls : Nat) (offers : List (Bool × Option (Nat × Nat))) (k : Nat) (hs : Keeps kqu kou kfr s) : Keeps kqu kou kfr (State.drrTurn s cls offers k).2 := by
  induction k generalizing s with
  | zero =>
    unfold State.drrTurn
    exact hs
  | succ k k_ih =>
    unfold State.drrTurn
    try dsimp only
    with_reducible
      split
      apply k_ih
      refine keeps_mk ?_
      apply keeps_pgp
      assumption
      apply k_ih
      refine keeps_mk ?_
      assumption
      split
      split
      dsimp only
      apply keeps_pgp
      assumption
      apply k_ih
      refine keeps_mk ?_
      assumption
      split
      dsimp only
      apply keeps_pgp
      refine keeps_mk ?_
      apply keeps_pgp
      assumption
      apply k_ih
      refine keeps_mk ?_
      refine keeps_mk ?_
      apply keeps_pgp
      assumption
theorem keeps_drrTurn_eq {s : State} {cls : Nat} {offers : List (Bool × Option (Nat × Nat))} {k : Nat} {x0 : Option (Nat × Nat)} {x1 : State} (ke : State.drrTurn s cls offers k = (x0, x1)) (hs : Keeps kqu kou kfr s) : Keeps kqu kou kfr x1 := by
  have k := keeps_drrTurn (kqu := kqu) (kou := kou) (kfr := kfr) s cls offers k hs
  rw [ke] at k
  exact k

theorem keeps_serve (s : State) (cls p l : Nat) (hs : Keeps kqu kou kfr s) : Keeps kqu kou kfr (State.serve s cls p l) := by
  unfold State.serve
  try dsimp only
  with_reducible
    refine keeps_mk ?_
    assumption

theorem keeps_gangSchedule (s : State) (cls : Nat) (hs : Keeps kqu kou kfr s) : Keeps kqu kou kfr (State.gangSchedule s cls) := by
  unfold State.gangSchedule
  try dsimp only
  with_reducible
    apply keeps_ite
    apply keeps_ite
    assumption
    split
    refine keeps_drrTurn_eq (by assumption) ?_
    apply keeps_drawWide
    assumption
    apply keeps_serve
    apply keeps_turn
    refine keeps_drrTurn_eq (by assumption) ?_
    apply keeps_drawWide
    assumption
    apply keeps_ite
    split
    assumption
    apply keeps_turn
    assumption
    assumption

theorem keeps_countLag (s : State) (p : Prod) (arrays : List Nat) (hs : Keeps kqu kou kfr s) : Keeps kqu kou kfr (State.countLag s p arrays) := by
  unfold State.countLag
  try dsimp only
  with_reducible
    apply keeps_ite
    assumption
    apply keeps_add
    apply keeps_add
    apply keeps_draw
    assumption

theorem keeps_runArrays (s : State) (u : Setup) (o : GOp) (to_ : List Nat) (hs : Keeps kqu kou kfr s) : Keeps kqu kou kfr (State.runArrays s u o to_).1 := by
  unfold State.runArrays
  try dsimp only
  with_reducible
    apply keeps_foldlst
    intro _
    intro _
    intro _
    apply keeps_MmRun_array
    assumption
    assumption

theorem keeps_runArrays_eq {s : State} {u : Setup} {o : GOp} {to_ : List Nat} {x0 : State} {x1 : GOp} (ke : State.runArrays s u o to_ = (x0, x1)) (hs : Keeps kqu kou kfr s) : Keeps kqu kou kfr x0 := by
  have k := keeps_runArrays (kqu := kqu) (kou := kou) (kfr := kfr) s u o to_ hs
  rw [ke] at k
  exact k

theorem keeps_carryProduct (s : State) (o : GOp) (hs : Keeps kqu kou kfr s) : Keeps kqu kou kfr (State.carryProduct s o) := by
  unfold State.carryProduct
  try dsimp only
  with_reducible
    split
    apply keeps_setOp
    assumption
    apply keeps_setOp
    apply keeps_countLag
    apply keeps_countTiles
    split
    apply keeps_ite
    apply keeps_ite
    apply keeps_putMask
    apply keeps_ite
    apply keeps_retain
    apply keeps_ite
    apply keeps_written
    apply keeps_runArrays
    assumption
    apply keeps_runArrays
    assumption
    apply keeps_ite
    apply keeps_written
    apply keeps_runArrays
    assumption
    apply keeps_runArrays
    assumption
    apply keeps_ite
    apply keeps_retain
    apply keeps_ite
    apply keeps_written
    apply keeps_runArrays
    assumption
    apply keeps_runArrays
    assumption
    apply keeps_ite
    apply keeps_written
    apply keeps_runArrays
    assumption
    apply keeps_runArrays
    assumption
    apply keeps_ite
    apply keeps_written
    apply keeps_runArrays
    assumption
    apply keeps_runArrays
    assumption
    apply keeps_ite
    apply keeps_written
    apply keeps_runArrays
    assumption
    apply keeps_runArrays
    assumption

theorem keeps_carryVector (s : State) (o : GOp) (d : Done) (hs : Keeps kqu kou kfr s) (hd_d : Keeps kqu kou kfr d.st) : Keeps kqu kou kfr (State.carryVector s o d) := by
  unfold State.carryVector
  try dsimp only
  with_reducible
    apply keeps_ite
    apply keeps_setOp
    assumption
    apply keeps_setOp
    apply keeps_written
    assumption

theorem keeps_carryEpi (s : State) (o : GOp) (hs : Keeps kqu kou kfr s) : Keeps kqu kou kfr (State.carryEpi s o) := by
  unfold State.carryEpi
  try dsimp only
  with_reducible
    apply keeps_ite
    apply keeps_written
    apply keeps_carryVector
    assumption
    apply keeps_epi
    assumption
    apply keeps_carryVector
    assumption
    apply keeps_epi
    assumption

theorem keeps_carryRdx (s : State) (o : GOp) (hs : Keeps kqu kou kfr s) : Keeps kqu kou kfr (State.carryRdx s o) := by
  unfold State.carryRdx
  try dsimp only
  with_reducible
    apply keeps_setOp
    apply keeps_foldl
    intro _
    intro _
    intro _
    apply keeps_collIn
    assumption
    assumption

theorem keeps_sendBufs (k d lim n : Nat) (l : List Nat) (s : State) (hs : Keeps kqu kou kfr s) : Keeps kqu kou kfr (State.sendBufs k d lim n l s).2 := by
  induction k generalizing n l s with
  | zero =>
    unfold State.sendBufs
    exact hs
  | succ k k_ih =>
    unfold State.sendBufs
    try dsimp only
    with_reducible
      split
      dsimp only
      assumption
      split
      apply k_ih
      refine keeps_poolAlloc_eq (by assumption) ?_
      assumption
      dsimp only
      apply keeps_foldl
      intro _
      intro _
      intro _
      apply keeps_hwFree
      assumption
      refine keeps_poolAlloc_eq (by assumption) ?_
      assumption
theorem keeps_sendBufs_eq {k d lim n : Nat} {l : List Nat} {s : State} {x0 : Option (List Nat)} {x1 : State} (ke : State.sendBufs k d lim n l s = (x0, x1)) (hs : Keeps kqu kou kfr s) : Keeps kqu kou kfr x1 := by
  have k := keeps_sendBufs (kqu := kqu) (kou := kou) (kfr := kfr) k d lim n l s hs
  rw [ke] at k
  exact k

theorem keeps_sndPackets {s : State} {o : GOp} {c : Nat} {m : Msg} {lim : Nat} {bs : List Byte} {kt : State} (ke : State.sndPackets s o c m lim bs = some kt) (hs : Keeps kqu kou kfr s) : Keeps kqu kou kfr kt := by
  revert ke
  unfold State.sndPackets
  try dsimp only
  intro ke
  with_reducible
    split at ke
    cases ke
    cases ke
    apply keeps_foldl
    intro _
    intro _
    intro _
    apply keeps_addPkt
    split
    apply keeps_writeSpace
    assumption
    assumption
    apply keeps_setCx
    refine keeps_sendBufs_eq (by assumption) ?_
    assumption

theorem keeps_carrySnd (s : State) (o : GOp) (hs : Keeps kqu kou kfr s) : Keeps kqu kou kfr (State.carrySnd s o) := by
  unfold State.carrySnd
  try dsimp only
  with_reducible
    apply keeps_ite
    apply keeps_setOp
    assumption
    split
    assumption
    apply keeps_setOp
    apply keeps_ite
    apply keeps_pctx
    refine keeps_sndPackets (by assumption) ?_
    assumption
    apply keeps_setCx
    apply keeps_pctx
    refine keeps_sndPackets (by assumption) ?_
    assumption

theorem keeps_carryRcv (s : State) (o : GOp) (hs : Keeps kqu kou kfr s) : Keeps kqu kou kfr (State.carryRcv s o) := by
  unfold State.carryRcv
  try dsimp only
  with_reducible
    apply keeps_ite
    apply keeps_setOp
    assumption
    apply keeps_ite
    apply keeps_setOp
    assumption
    apply keeps_setOp
    refine keeps_mk ?_
    apply keeps_setCx
    assumption

theorem keeps_carryWait (s : State) (o : GOp) (hs : Keeps kqu kou kfr s) : Keeps kqu kou kfr (State.carryWait s o) := by
  unfold State.carryWait
  try dsimp only
  with_reducible
    split
    apply keeps_ite
    apply keeps_setOp
    assumption
    apply keeps_setOp
    apply keeps_arm
    apply keeps_setTw
    apply keeps_pt
    apply keeps_pt
    apply keeps_pt
    apply keeps_pt
    apply keeps_pt
    apply keeps_pt
    assumption
    apply keeps_setOp
    assumption

theorem keeps_carrySig (s : State) (o : GOp) (hs : Keeps kqu kou kfr s) : Keeps kqu kou kfr (State.carrySig s o) := by
  unfold State.carrySig
  try dsimp only
  with_reducible
    apply keeps_setOp
    split
    apply keeps_signalVirt
    assumption
    split
    dsimp only
    apply keeps_xlateMiss
    assumption
    apply keeps_flagWrite
    assumption

theorem keeps_carryCounts (s : State) (o : GOp) (hs : Keeps kqu kou kfr s) : Keeps kqu kou kfr (State.carryCounts s o) := by
  unfold State.carryCounts
  try dsimp only
  with_reducible
    apply keeps_setOp
    apply keeps_setRx
    assumption

theorem keeps_carrySmp (s : State) (o : GOp) (hs : Keeps kqu kou kfr s) : Keeps kqu kou kfr (State.carrySmp s o) := by
  unfold State.carrySmp
  try dsimp only
  with_reducible
    apply keeps_ite
    apply keeps_carryVector
    assumption
    apply keeps_smp
    assumption
    apply keeps_carryVector
    refine keeps_fresh ?_
    assumption
    apply keeps_smp
    refine keeps_fresh ?_
    assumption

theorem keeps_carry (s : State) (p l fam var : Nat) (f : State → GOp → State) (hs : Keeps kqu kou kfr s) (k_f : ∀ s g, Keeps kqu kou kfr s → Keeps kqu kou kfr (f s g)) : Keeps kqu kou kfr (State.carry s p l fam var f) := by
  unfold State.carry
  try dsimp only
  with_reducible
    split
    assumption
    apply keeps_ite
    apply k_f
    assumption
    assumption

theorem keeps_carryLdw (s : State) (o : GOp) (hs : Keeps kqu kou kfr s) : Keeps kqu kou kfr (State.carryLdw s o) := by
  unfold State.carryLdw
  try dsimp only
  with_reducible
    apply keeps_setOp
    apply keeps_ldw
    assumption

theorem keeps_carryStw (s : State) (o : GOp) (hs : Keeps kqu kou kfr s) : Keeps kqu kou kfr (State.carryStw s o) := by
  unfold State.carryStw
  try dsimp only
  with_reducible
    apply keeps_setOp
    apply keeps_written
    apply keeps_copyTensor
    assumption

theorem keeps_carryCvt (s : State) (o : GOp) (hs : Keeps kqu kou kfr s) : Keeps kqu kou kfr (State.carryCvt s o) := by
  unfold State.carryCvt
  try dsimp only
  with_reducible
    apply keeps_carryVector
    assumption
    apply keeps_cvt
    assumption

theorem keeps_carryDig (s : State) (o : GOp) (hs : Keeps kqu kou kfr s) : Keeps kqu kou kfr (State.carryDig s o) := by
  unfold State.carryDig
  try dsimp only
  with_reducible
    apply keeps_ite
    apply keeps_carryVector
    assumption
    apply keeps_digTree
    assumption
    apply keeps_carryVector
    assumption
    apply keeps_digAudit
    assumption

theorem keeps_carryFirst (s : State) (o : GOp) (hs : Keeps kqu kou kfr s) : Keeps kqu kou kfr (State.carryFirst s o) := by
  unfold State.carryFirst
  try dsimp only
  with_reducible
    apply keeps_setOp
    assumption

theorem keeps_carryFetch (s : State) (o : GOp) (hs : Keeps kqu kou kfr s) : Keeps kqu kou kfr (State.carryFetch s o) := by
  unfold State.carryFetch
  try dsimp only
  with_reducible
    apply keeps_setOp
    assumption

theorem keeps_putRecord (s : State) (p : Nat) (bs : List Byte) (hs : Keeps kqu kou kfr s) : Keeps kqu kou kfr (State.putRecord s p bs) := by
  unfold State.putRecord
  try dsimp only
  with_reducible
    apply keeps_pgp
    apply keeps_writeBuf
    assumption

theorem keeps_waitRoom (s : State) (p l : Nat) (hs : Keeps kqu kou kfr s) : Keeps kqu kou kfr (State.waitRoom s p l) := by
  unfold State.waitRoom
  try dsimp only
  with_reducible
    apply keeps_ite
    assumption
    apply keeps_raise
    apply keeps_setGl
    assumption

theorem keeps_endList (s : State) (p l : Nat) (hs : Keeps kqu kou kfr s) : Keeps kqu kou kfr (State.endList s p l) := by
  unfold State.endList
  try dsimp only
  with_reducible
    apply keeps_ite
    apply keeps_endPlan
    refine keeps_mk ?_
    apply keeps_setGl
    apply keeps_setLst
    assumption
    refine keeps_mk ?_
    apply keeps_setGl
    apply keeps_setLst
    assumption

theorem keeps_stopList (s : State) (p l : Nat) (c : Code) (hs : Keeps kqu kou kfr s) : Keeps kqu kou kfr (State.stopList s p l c) := by
  unfold State.stopList
  try dsimp only
  with_reducible
    apply keeps_raise
    apply keeps_pgp
    apply keeps_setLst
    assumption

theorem keeps_abortList (s : State) (p l : Nat) (o : Option GOp) (hs : Keeps kqu kou kfr s) : Keeps kqu kou kfr (State.abortList s p l o) := by
  unfold State.abortList
  try dsimp only
  with_reducible
    apply keeps_ite
    apply keeps_waitRoom
    assumption
    apply keeps_endList
    apply keeps_putRecord
    split
    dsimp only
    assumption
    dsimp only
    apply keeps_draw
    assumption

theorem keeps_maybeAbort (s : State) (p l : Nat) (hs : Keeps kqu kou kfr s) : Keeps kqu kou kfr (State.maybeAbort s p l) := by
  unfold State.maybeAbort
  try dsimp only
  with_reducible
    apply keeps_ite
    apply keeps_abortList
    assumption
    assumption

theorem keeps_afterOp (s : State) (o : GOp) (hs : Keeps kqu kou kfr s) : Keeps kqu kou kfr (State.afterOp s o) := by
  unfold State.afterOp
  try dsimp only
  with_reducible
    split
    split
    apply keeps_forwardDone
    apply keeps_inc
    assumption
    apply keeps_inc
    assumption
    split
    apply keeps_ite
    apply keeps_dxDone
    apply keeps_inc
    assumption
    apply keeps_dwDone
    apply keeps_inc
    assumption
    apply keeps_inc
    assumption
    apply keeps_ite
    apply keeps_inc
    assumption
    assumption
    apply keeps_ite
    apply keeps_inc
    assumption
    assumption
    assumption

theorem keeps_flagEvents (s : State) (p flags : Nat) (hs : Keeps kqu kou kfr s) : Keeps kqu kou kfr (State.flagEvents s p flags) := by
  unfold State.flagEvents
  try dsimp only
  with_reducible
    apply keeps_foldl
    intro _
    intro _
    intro _
    apply keeps_ite
    apply keeps_raise
    assumption
    assumption
    assumption

theorem keeps_completeOp (s : State) (o : GOp) (hs : Keeps kqu kou kfr s) : Keeps kqu kou kfr (State.completeOp s o) := by
  unfold State.completeOp
  try dsimp only
  with_reducible
    apply keeps_ite
    apply keeps_waitRoom
    apply keeps_setOp
    assumption
    apply keeps_maybeAbort
    apply keeps_ite
    apply keeps_stopList
    apply keeps_pgp
    apply keeps_pgp
    apply keeps_dropOp
    apply keeps_flagEvents
    apply keeps_pgp
    apply keeps_ite
    apply keeps_putRecord
    apply keeps_ite
    apply keeps_afterOp
    apply keeps_setGl
    assumption
    apply keeps_setGl
    assumption
    apply keeps_ite
    apply keeps_afterOp
    apply keeps_setGl
    assumption
    apply keeps_setGl
    assumption
    apply keeps_ite
    apply keeps_endList
    apply keeps_pgp
    apply keeps_pgp
    apply keeps_dropOp
    apply keeps_flagEvents
    apply keeps_pgp
    apply keeps_ite
    apply keeps_putRecord
    apply keeps_ite
    apply keeps_afterOp
    apply keeps_setGl
    assumption
    apply keeps_setGl
    assumption
    apply keeps_ite
    apply keeps_afterOp
    apply keeps_setGl
    assumption
    apply keeps_setGl
    assumption
    apply keeps_pgp
    apply keeps_pgp
    apply keeps_dropOp
    apply keeps_flagEvents
    apply keeps_pgp
    apply keeps_ite
    apply keeps_putRecord
    apply keeps_ite
    apply keeps_afterOp
    apply keeps_setGl
    assumption
    apply keeps_setGl
    assumption
    apply keeps_ite
    apply keeps_afterOp
    apply keeps_setGl
    assumption
    apply keeps_setGl
    assumption

theorem keeps_ready {s : State} {o : GOp} {kt : GOp × State} (ke : State.ready s o = some kt) (hs : Keeps kqu kou kfr s) : Keeps kqu kou kfr kt.2 := by
  revert ke
  unfold State.ready
  try dsimp only
  intro ke
  with_reducible
    split at ke
    split at ke
    cases ke
    cases ke
    dsimp only
    assumption
    split at ke
    cases ke
    dsimp only
    refine keeps_mk ?_
    assumption
    cases ke
    split at ke
    cases ke
    cases ke
    dsimp only
    assumption
    split at ke
    cases ke
    dsimp only
    apply keeps_written
    apply keeps_putTensorBytes
    assumption
    cases ke
    split at ke
    cases ke
    dsimp only
    assumption
    split at ke
    cases ke
    cases ke
    dsimp only
    assumption
    cases ke

theorem keeps_gangOpDone (s : State) (p l : Nat) (hs : Keeps kqu kou kfr s) : Keeps kqu kou kfr (State.gangOpDone s p l) := by
  unfold State.gangOpDone
  refine keeps_ite hs (keeps_ite hs ?_)
  split
  · exact hs
  · rename_i o t h
    obtain ⟨x, _, hx⟩ := List.exists_of_findSome?_eq_some h
    exact keeps_completeOp t o (keeps_ready hx hs)

theorem keeps_noWait (s : State) (p l : Nat) (hs : Keeps kqu kou kfr s) : Keeps kqu kou kfr (State.noWait s p l) := by
  unfold State.noWait
  try dsimp only
  with_reducible
    apply keeps_setGl
    assumption

theorem keeps_cplResume (s : State) (p l : Nat) (hs : Keeps kqu kou kfr s) : Keeps kqu kou kfr (State.cplResume s p l) := by
  unfold State.cplResume
  try dsimp only
  with_reducible
    apply keeps_ite
    assumption
    split
    apply keeps_completeOp
    apply keeps_noWait
    assumption
    apply keeps_maybeAbort
    apply keeps_noWait
    assumption

theorem keeps_gangWatch (s : State) (slot seq code value : Nat) (hs : Keeps kqu kou kfr s) : Keeps kqu kou kfr (State.gangWatch s slot seq code value) := by
  unfold State.gangWatch
  try dsimp only
  with_reducible
    split
    apply keeps_inc
    assumption
    apply keeps_setOp
    assumption

theorem keeps_saveProduct (s : State) (o : GOp) (hs : Keeps kqu kou kfr s) : Keeps kqu kou kfr (State.saveProduct s o) := by
  unfold State.saveProduct
  try dsimp only
  with_reducible
    split
    apply keeps_setOp
    assumption
    apply keeps_ite
    apply keeps_setOp
    assumption
    apply keeps_setOp
    apply keeps_foldl
    intro _
    intro _
    intro _
    apply keeps_writeSpace
    assumption
    apply keeps_runArrays
    refine keeps_fresh ?_
    assumption

theorem keeps_pauseNow (s : State) (p l : Nat) (hs : Keeps kqu kou kfr s) : Keeps kqu kou kfr (State.pauseNow s p l) := by
  unfold State.pauseNow
  try dsimp only
  with_reducible
    apply keeps_ite
    assumption
    apply keeps_ite
    assumption
    apply keeps_setLst
    apply keeps_setGl
    apply keeps_foldl
    intro _
    intro _
    intro _
    apply keeps_saveProduct
    assumption
    assumption

theorem keeps_haltNow (s : State) (p l : Nat) (hs : Keeps kqu kou kfr s) : Keeps kqu kou kfr (State.haltNow s p l) := by
  unfold State.haltNow
  try dsimp only
  with_reducible
    split
    assumption
    apply keeps_ite
    apply keeps_completeOp
    assumption
    assumption

theorem keeps_showHalted (s : State) (p : Nat) (hs : Keeps kqu kou kfr s) : Keeps kqu kou kfr (State.showHalted s p) := by
  unfold State.showHalted
  try dsimp only
  with_reducible
    apply keeps_ite
    apply keeps_pt
    apply keeps_p
    assumption
    assumption

theorem keeps_gangHold (s : State) (p : Nat) (hs : Keeps kqu kou kfr s) : Keeps kqu kou kfr (State.gangHold s p) := by
  unfold State.gangHold
  try dsimp only
  with_reducible
    apply keeps_foldl
    intro _
    intro _
    intro _
    apply keeps_ite
    apply keeps_setGl
    assumption
    assumption
    assumption

theorem keeps_gangUnhold (s : State) (p : Nat) (hs : Keeps kqu kou kfr s) : Keeps kqu kou kfr (State.gangUnhold s p) := by
  unfold State.gangUnhold
  try dsimp only
  with_reducible
    apply keeps_foldl
    intro _
    intro _
    intro _
    apply keeps_ite
    assumption
    apply keeps_ite
    apply keeps_setLst
    apply keeps_setGl
    assumption
    apply keeps_setGl
    assumption
    assumption

theorem keeps_gangStart (s : State) (p l pc : Nat) (audit : Bool) (hs : Keeps kqu kou kfr s) : Keeps kqu kou kfr (State.gangStart s p l pc audit).2 := by
  unfold State.gangStart
  try dsimp only
  with_reducible
    split
    dsimp only
    assumption
    split
    dsimp only
    assumption
    split
    dsimp only
    assumption
    split
    dsimp only
    apply keeps_raise
    assumption
    split
    dsimp only
    assumption
    split
    split
    dsimp only
    assumption
    dsimp only
    apply keeps_setLst
    apply keeps_pgp
    apply keeps_pgp
    apply keeps_ite
    apply keeps_countSha
    apply keeps_setGl
    apply keeps_fixPlan
    assumption
    apply keeps_setGl
    apply keeps_fixPlan
    assumption
    split
    dsimp only
    assumption
    dsimp only
    apply keeps_setLst
    apply keeps_pgp
    apply keeps_pgp
    apply keeps_ite
    apply keeps_countSha
    apply keeps_setGl
    assumption
    apply keeps_setGl
    assumption

theorem keeps_gangStart_eq {s : State} {p l pc : Nat} {audit : Bool} {x0 : Code} {x1 : State} (ke : State.gangStart s p l pc audit = (x0, x1)) (hs : Keeps kqu kou kfr s) : Keeps kqu kou kfr x1 := by
  have k := keeps_gangStart (kqu := kqu) (kou := kou) (kfr := kfr) s p l pc audit hs
  rw [ke] at k
  exact k

theorem keeps_gangPause (s : State) (p l : Nat) (hs : Keeps kqu kou kfr s) : Keeps kqu kou kfr (State.gangPause s p l).2 := by
  unfold State.gangPause
  try dsimp only
  with_reducible
    split
    dsimp only
    apply keeps_setGl
    assumption
    dsimp only
    assumption

theorem keeps_gangPause_eq {s : State} {p l : Nat} {x0 : Code} {x1 : State} (ke : State.gangPause s p l = (x0, x1)) (hs : Keeps kqu kou kfr s) : Keeps kqu kou kfr x1 := by
  have k := keeps_gangPause (kqu := kqu) (kou := kou) (kfr := kfr) s p l hs
  rw [ke] at k
  exact k

theorem keeps_gangResume (s : State) (p l : Nat) (hs : Keeps kqu kou kfr s) : Keeps kqu kou kfr (State.gangResume s p l).2 := by
  unfold State.gangResume
  try dsimp only
  with_reducible
    split
    dsimp only
    apply keeps_setLst
    apply keeps_setGl
    assumption
    dsimp only
    assumption

theorem keeps_gangResume_eq {s : State} {p l : Nat} {x0 : Code} {x1 : State} (ke : State.gangResume s p l = (x0, x1)) (hs : Keeps kqu kou kfr s) : Keeps kqu kou kfr x1 := by
  have k := keeps_gangResume (kqu := kqu) (kou := kou) (kfr := kfr) s p l hs
  rw [ke] at k
  exact k

theorem keeps_gangStop (s : State) (p l : Nat) (hs : Keeps kqu kou kfr s) : Keeps kqu kou kfr (State.gangStop s p l).2 := by
  unfold State.gangStop
  try dsimp only
  with_reducible
    split
    dsimp only
    assumption
    dsimp only
    apply keeps_maybeAbort
    apply keeps_setGl
    assumption

theorem keeps_gangStop_eq {s : State} {p l : Nat} {x0 : Code} {x1 : State} (ke : State.gangStop s p l = (x0, x1)) (hs : Keeps kqu kou kfr s) : Keeps kqu kou kfr x1 := by
  have k := keeps_gangStop (kqu := kqu) (kou := kou) (kfr := kfr) s p l hs
  rw [ke] at k
  exact k

theorem keeps_macCommand (s : State) (m v : Nat) (hs : Keeps kqu kou kfr s) : Keeps kqu kou kfr (State.macCommand s m v) := by
  unfold State.macCommand
  try dsimp only
  with_reducible
    apply keeps_onWrite
    assumption
    intro _
    apply keeps_ite
    apply keeps_refuseOp
    assumption
    apply keeps_finish
    apply keeps_ite
    apply keeps_refuse
    split
    dsimp only
    assumption
    split
    apply keeps_gangStart
    assumption
    apply keeps_gangPause
    assumption
    apply keeps_gangResume
    assumption
    apply keeps_gangStop
    assumption
    split
    dsimp only
    assumption
    split
    apply keeps_gangStart
    assumption
    apply keeps_gangPause
    assumption
    apply keeps_gangResume
    assumption
    apply keeps_gangStop
    assumption

theorem keeps_trainCommand (s : State) (m v : Nat) (hs : Keeps kqu kou kfr s) : Keeps kqu kou kfr (State.trainCommand s m v) := by
  unfold State.trainCommand
  try dsimp only
  with_reducible
    apply keeps_onWrite
    assumption
    intro _
    apply keeps_ite
    apply keeps_finish
    apply keeps_refuse
    assumption
    apply keeps_ite
    apply keeps_refuseOp
    assumption
    apply keeps_ite
    apply keeps_ite
    apply keeps_finish
    apply keeps_dropRetention
    assumption
    apply keeps_finish
    apply keeps_refuse
    assumption
    apply keeps_finish
    apply keeps_ple
    assumption

theorem keeps_trainWrite (s : State) (m v : Nat) (hs : Keeps kqu kou kfr s) : Keeps kqu kou kfr (State.trainWrite s m v) := by
  unfold State.trainWrite
  try dsimp only
  with_reducible
    apply keeps_onWrite
    assumption
    intro _
    apply keeps_ite
    apply keeps_denyWrite
    assumption
    apply keeps_ite
    assumption
    apply keeps_ite
    apply keeps_refuse
    assumption
    apply keeps_ite
    apply keeps_refuse
    assumption
    apply keeps_storeTw
    assumption

theorem keeps_partWrite (s : State) (m v : Nat) (hs : Keeps kqu kou kfr s) : Keeps kqu kou kfr (State.partWrite s m v) := by
  unfold State.partWrite
  try dsimp only
  with_reducible
    apply keeps_onWrite
    assumption
    intro _
    apply keeps_ite
    apply keeps_denyWrite
    assumption
    apply keeps_ite
    apply keeps_refuse
    assumption
    apply keeps_ite
    apply keeps_refuse
    assumption
    apply keeps_ite
    apply keeps_refuse
    assumption
    apply keeps_storeTw
    assumption

theorem keeps_gangReset (s : State) (p : Nat) (hs : Keeps kqu kou kfr s) : Keeps kqu kou kfr (State.gangReset s p) := by
  unfold State.gangReset
  try dsimp only
  with_reducible
    apply keeps_trainReset
    refine keeps_mk ?_
    apply keeps_foldl
    intro _
    intro _
    intro _
    apply keeps_setLst
    assumption
    assumption

theorem keeps_gangIntegrity (s : State) (cls : Nat) (only : GOp → Bool) (hs : Keeps kqu kou kfr s) : Keeps kqu kou kfr (State.gangIntegrity s cls only) := by
  unfold State.gangIntegrity
  try dsimp only
  with_reducible
    split
    assumption
    apply keeps_setOp
    assumption

theorem keeps_trainIntegrity (s : State) (grad : Bool) (hs : Keeps kqu kou kfr s) : Keeps kqu kou kfr (State.trainIntegrity s grad) := by
  unfold State.trainIntegrity
  try dsimp only
  with_reducible
    split
    assumption
    split
    apply keeps_setOp
    assumption
    apply keeps_ite
    apply keeps_ple
    apply keeps_setOp
    assumption
    apply keeps_dropRetention
    apply keeps_setOp
    assumption

end Sys2Proof.Machine
end

