-- ==== Sys2Proof/Laws/KeepsPortOps.lean ====
section
/-! SUPPORT. What every operation of Machine/PortOps.lean keeps. -/

namespace Sys2Proof.Machine

variable {kqu : List Instr} {kou : List Emit} {kfr : Nat}

theorem keeps_l3Member (s : State) (d : Nat) (v : Bool) (hs : Keeps kqu kou kfr s) : Keeps kqu kou kfr (State.l3Member s d v) := by
  unfold State.l3Member
  try dsimp only
  with_reducible
    apply keeps_p
    apply keeps_p
    apply keeps_ite
    assumption
    apply keeps_raise
    apply keeps_add
    refine keeps_mk ?_
    assumption

theorem keeps_bundleDown (s : State) (port : Nat) (hs : Keeps kqu kou kfr s) : Keeps kqu kou kfr (State.bundleDown s port) := by
  unfold State.bundleDown
  try dsimp only
  with_reducible
    split
    assumption
    apply keeps_ite
    assumption
    apply keeps_ite
    apply keeps_l3Member
    apply keeps_raise
    assumption
    apply keeps_raise
    assumption

theorem keeps_bundleUp (s : State) (port : Nat) (hs : Keeps kqu kou kfr s) : Keeps kqu kou kfr (State.bundleUp s port) := by
  unfold State.bundleUp
  try dsimp only
  with_reducible
    split
    assumption
    apply keeps_l3Member
    assumption

theorem keeps_portDown (s : State) (port : Nat) (hs : Keeps kqu kou kfr s) : Keeps kqu kou kfr (State.portDown s port) := by
  unfold State.portDown
  try dsimp only
  with_reducible
    apply keeps_bundleDown
    refine keeps_mk ?_
    apply keeps_foldl
    intro _
    intro _
    intro _
    apply keeps_undoSwitch
    assumption
    apply keeps_foldl
    intro _
    intro _
    intro _
    apply keeps_failGroup
    assumption
    apply keeps_endLl
    apply keeps_dropPort
    assumption

theorem keeps_endCapex (s : State) (port : Nat) (hs : Keeps kqu kou kfr s) : Keeps kqu kou kfr (State.endCapex s port) := by
  unfold State.endCapex
  try dsimp only
  with_reducible
    apply keeps_endLl
    apply keeps_showSpares
    apply keeps_foldl
    intro _
    intro _
    intro _
    apply keeps_ctlMsg
    assumption
    apply keeps_php
    apply keeps_php
    apply keeps_php
    apply keeps_php
    apply keeps_php
    apply keeps_php
    assumption

theorem keeps_moveStage (s : State) (port st : Nat) (hs : Keeps kqu kou kfr s) : Keeps kqu kou kfr (State.moveStage s port st) := by
  unfold State.moveStage
  try dsimp only
  with_reducible
    apply keeps_ite
    apply keeps_portDown
    apply keeps_showPort
    apply keeps_ite
    apply keeps_endCapex
    assumption
    assumption
    apply keeps_ite
    apply keeps_bundleUp
    apply keeps_showPort
    apply keeps_ite
    apply keeps_endCapex
    assumption
    assumption
    apply keeps_showPort
    apply keeps_ite
    apply keeps_endCapex
    assumption
    assumption

theorem keeps_wakePort (s : State) (port : Nat) (hs : Keeps kqu kou kfr s) : Keeps kqu kou kfr (State.wakePort s port) := by
  unfold State.wakePort
  try dsimp only
  with_reducible
    apply keeps_ite
    apply keeps_ite
    apply keeps_moveStage
    assumption
    assumption
    apply keeps_ite
    assumption
    apply keeps_moveStage
    assumption

theorem keeps_holdGroup (s : State) (g : Nat) (hs : Keeps kqu kou kfr s) : Keeps kqu kou kfr (State.holdGroup s g) := by
  unfold State.holdGroup
  try dsimp only
  with_reducible
    apply keeps_php
    assumption

theorem keeps_wakeGroup (s : State) (g : Nat) (hs : Keeps kqu kou kfr s) : Keeps kqu kou kfr (State.wakeGroup s g) := by
  unfold State.wakeGroup
  try dsimp only
  with_reducible
    apply keeps_foldl
    intro _
    intro _
    intro _
    apply keeps_wakePort
    assumption
    assumption

end Sys2Proof.Machine
end

