-- ==== Sys2Proof/Laws/KeepsResets.lean ====
section
/-! SUPPORT. What every operation of Machine/Resets.lean keeps. -/

namespace Sys2Proof.Machine

variable {kqu : List Instr} {kou : List Emit} {kfr : Nat}

theorem keeps_tileGone (s : State) (t : Nat) (halted : Bool) (hs : Keeps kqu kou kfr s) : Keeps kqu kou kfr (State.tileGone s t halted) := by
  unfold State.tileGone
  try dsimp only
  with_reducible
    apply keeps_ite
    refine keeps_mk ?_
    apply keeps_p
    apply keeps_leavePattern
    apply keeps_dropTile
    apply keeps_ite
    apply keeps_evacDrop
    assumption
    assumption
    refine keeps_mk ?_
    apply keeps_leavePattern
    apply keeps_dropTile
    apply keeps_ite
    apply keeps_evacDrop
    assumption
    assumption

theorem keeps_pciUp (s : State) (hs : Keeps kqu kou kfr s) : Keeps kqu kou kfr (State.pciUp s) := by
  unfold State.pciUp
  try dsimp only
  with_reducible
    apply keeps_p
    apply keeps_p
    apply keeps_p
    assumption

theorem keeps_abortHostSnaps (s : State) (hs : Keeps kqu kou kfr s) : Keeps kqu kou kfr (State.abortHostSnaps s) := by
  unfold State.abortHostSnaps
  try dsimp only
  with_reducible
    refine keeps_mk ?_
    assumption

theorem keeps_pciDown (s : State) (hs : Keeps kqu kou kfr s) : Keeps kqu kou kfr (State.pciDown s) := by
  unfold State.pciDown
  try dsimp only
  with_reducible
    apply keeps_abortHostSnaps
    apply keeps_setReg
    assumption

theorem keeps_onState (s : State) (b : Blk) (old new : PState) (hs : Keeps kqu kou kfr s) : Keeps kqu kou kfr (State.onState s b old new) := by
  unfold State.onState
  try dsimp only
  with_reducible
    split
    apply keeps_ite
    apply keeps_wakeGroup
    apply keeps_ite
    apply keeps_holdGroup
    apply keeps_ite
    apply keeps_p
    assumption
    apply keeps_ite
    apply keeps_p
    assumption
    assumption
    apply keeps_ite
    apply keeps_p
    assumption
    apply keeps_ite
    apply keeps_p
    assumption
    assumption
    apply keeps_ite
    apply keeps_holdGroup
    apply keeps_ite
    apply keeps_p
    assumption
    apply keeps_ite
    apply keeps_p
    assumption
    assumption
    apply keeps_ite
    apply keeps_p
    assumption
    apply keeps_ite
    apply keeps_p
    assumption
    assumption
    apply keeps_ite
    apply keeps_foldl
    intro _
    intro _
    intro _
    apply keeps_wakePort
    assumption
    apply keeps_ite
    apply keeps_p
    assumption
    apply keeps_ite
    apply keeps_p
    assumption
    assumption
    apply keeps_ite
    apply keeps_p
    assumption
    apply keeps_ite
    apply keeps_p
    assumption
    assumption
    apply keeps_ite
    apply keeps_tileGone
    apply keeps_ite
    apply keeps_p
    assumption
    apply keeps_ite
    apply keeps_p
    assumption
    assumption
    apply keeps_ite
    apply keeps_joinPattern
    apply keeps_ite
    apply keeps_p
    assumption
    apply keeps_ite
    apply keeps_p
    assumption
    assumption
    apply keeps_ite
    apply keeps_p
    assumption
    apply keeps_ite
    apply keeps_p
    assumption
    assumption
    apply keeps_ite
    refine keeps_mk ?_
    apply keeps_ite
    apply keeps_p
    assumption
    apply keeps_ite
    apply keeps_p
    assumption
    assumption
    apply keeps_ite
    apply keeps_p
    assumption
    apply keeps_ite
    apply keeps_p
    assumption
    assumption
    apply keeps_ite
    apply keeps_engineGone
    apply keeps_ite
    apply keeps_p
    assumption
    apply keeps_ite
    apply keeps_p
    assumption
    assumption
    apply keeps_ite
    apply keeps_p
    assumption
    apply keeps_ite
    apply keeps_p
    assumption
    assumption
    apply keeps_ite
    apply keeps_pciDown
    apply keeps_ite
    apply keeps_p
    assumption
    apply keeps_ite
    apply keeps_p
    assumption
    assumption
    apply keeps_ite
    apply keeps_pciUp
    apply keeps_ite
    apply keeps_p
    assumption
    apply keeps_ite
    apply keeps_p
    assumption
    assumption
    apply keeps_ite
    apply keeps_p
    assumption
    apply keeps_ite
    apply keeps_p
    assumption
    assumption
    apply keeps_ite
    apply keeps_p
    assumption
    apply keeps_ite
    apply keeps_p
    assumption
    assumption

theorem keeps_toSt (s : State) (b : Blk) (p : PState) (hs : Keeps kqu kou kfr s) : Keeps kqu kou kfr (State.toSt s b p) := by
  unfold State.toSt
  try dsimp only
  with_reducible
    apply keeps_ite
    assumption
    apply keeps_onState
    apply keeps_setSt
    assumption

theorem keeps_trained (s : State) (b : Blk) (hs : Keeps kqu kou kfr s) : Keeps kqu kou kfr (State.trained s b) := by
  unfold State.trained
  try dsimp only
  with_reducible
    apply keeps_ite
    apply keeps_toSt
    apply keeps_alignTrained
    assumption
    assumption

theorem keeps_follow (s : State) (b : Blk) (hs : Keeps kqu kou kfr s) : Keeps kqu kou kfr (State.follow s b) := by
  unfold State.follow
  try dsimp only
  with_reducible
    split
    apply keeps_ite
    apply keeps_startEvac
    assumption
    apply keeps_toSt
    assumption
    apply keeps_toSt
    assumption

theorem keeps_followAll (s : State) (b : Blk) (hs : Keeps kqu kou kfr s) : Keeps kqu kou kfr (State.followAll s b) := by
  unfold State.followAll
  try dsimp only
  with_reducible
    apply keeps_foldl
    intro _
    intro _
    intro _
    apply keeps_follow
    assumption
    apply keeps_foldl
    intro _
    intro _
    intro _
    apply keeps_follow
    assumption
    assumption

theorem keeps_lagOf (s : State) (q thr : Nat) (hs : Keeps kqu kou kfr s) : Keeps kqu kou kfr (State.lagOf s q thr) := by
  unfold State.lagOf
  try dsimp only
  with_reducible
    apply keeps_ite
    apply keeps_ite
    apply keeps_follow
    apply keeps_p
    apply keeps_raise
    apply keeps_inc
    apply keeps_p
    apply keeps_p
    assumption
    apply keeps_raise
    apply keeps_inc
    apply keeps_p
    apply keeps_p
    assumption
    apply keeps_p
    apply keeps_p
    assumption

theorem keeps_arrayLag (s : State) (hs : Keeps kqu kou kfr s) : Keeps kqu kou kfr (State.arrayLag s) := by
  unfold State.arrayLag
  try dsimp only
  with_reducible
    apply keeps_ite
    assumption
    apply keeps_foldl
    intro _
    intro _
    intro _
    apply keeps_lagOf
    assumption
    apply keeps_p
    assumption

theorem keeps_capture (s : State) (b : Blk) (hs : Keeps kqu kou kfr s) : Keeps kqu kou kfr (State.capture s b) := by
  unfold State.capture
  try dsimp only
  with_reducible
    apply keeps_inc
    refine keeps_mk ?_
    assumption

theorem keeps_release (s : State) (b : Blk) (hs : Keeps kqu kou kfr s) : Keeps kqu kou kfr (State.release s b) := by
  unfold State.release
  try dsimp only
  with_reducible
    apply keeps_ite
    apply keeps_p
    apply keeps_p
    refine keeps_mk ?_
    assumption
    apply keeps_p
    assumption

theorem keeps_thaw (s : State) (b : Blk) (hs : Keeps kqu kou kfr s) : Keeps kqu kou kfr (State.thaw s b) := by
  unfold State.thaw
  try dsimp only
  with_reducible
    apply keeps_foldl
    intro _
    intro _
    intro _
    apply keeps_ite
    assumption
    apply keeps_release
    assumption
    assumption

theorem keeps_overrun (s : State) (hs : Keeps kqu kou kfr s) : Keeps kqu kou kfr (State.overrun s) := by
  unfold State.overrun
  try dsimp only
  with_reducible
    apply keeps_foldl
    intro _
    intro _
    intro _
    split
    assumption
    apply keeps_ite
    apply keeps_raise
    apply keeps_p
    assumption
    assumption
    assumption

theorem keeps_clearPage (s : State) (b : Blk) (hs : Keeps kqu kou kfr s) : Keeps kqu kou kfr (State.clearPage s b) := by
  unfold State.clearPage
  try dsimp only
  with_reducible
    refine keeps_regs ?_ ?_
    assumption
    exact kvWf_filter _ (Keeps.wf ‹_›).regs

theorem keeps_clearTabs (s : State) (b : Blk) (hs : Keeps kqu kou kfr s) : Keeps kqu kou kfr (State.clearTabs s b) := by
  unfold State.clearTabs
  try dsimp only
  with_reducible
    split
    assumption
    apply keeps_waitClear
    assumption
    split
    apply keeps_foldl
    intro _
    intro _
    intro _
    apply keeps_pt
    assumption
    apply keeps_foldl
    intro _
    intro _
    intro _
    apply keeps_clearTab
    assumption
    assumption
    apply keeps_foldl
    intro _
    intro _
    intro _
    apply keeps_clearTab
    assumption
    assumption

theorem keeps_poolDrain (s : State) (d : Nat) (hs : Keeps kqu kou kfr s) : Keeps kqu kou kfr (State.poolDrain s d) := by
  unfold State.poolDrain
  try dsimp only
  with_reducible
    apply keeps_foldl
    intro _
    intro _
    intro _
    apply keeps_failCx
    assumption
    apply keeps_dropSpills
    assumption

theorem keeps_blockReset (s : State) (b : Blk) (hs : Keeps kqu kou kfr s) : Keeps kqu kou kfr (State.blockReset s b) := by
  unfold State.blockReset
  try dsimp only
  with_reducible
    apply keeps_clearTabs
    split
    apply keeps_ite
    apply keeps_wakeGroup
    apply keeps_setReg
    apply keeps_moveStage
    assumption
    assumption
    refine keeps_mk ?_
    assumption
    apply keeps_setHeld
    assumption
    apply keeps_foldl
    intro _
    intro _
    intro _
    apply keeps_dropTile
    assumption
    assumption
    apply keeps_dropTile
    assumption
    apply keeps_foldl
    intro _
    intro _
    intro _
    apply keeps_resetCx
    assumption
    assumption
    apply keeps_foldl
    intro _
    intro _
    intro _
    apply keeps_setRx
    assumption
    apply keeps_engineGone
    assumption
    apply keeps_clearTab
    apply keeps_clearTab
    refine keeps_mk ?_
    assumption
    apply keeps_ite
    apply keeps_clearTab
    apply keeps_foldl
    intro _
    intro _
    intro _
    apply keeps_gangReset
    assumption
    assumption
    assumption
    refine keeps_mk ?_
    assumption
    assumption

theorem keeps_keepRetired (s : State) (d : Nat) (hs : Keeps kqu kou kfr s) : Keeps kqu kou kfr (State.keepRetired s d) := by
  unfold State.keepRetired
  try dsimp only
  with_reducible
    apply keeps_ite
    assumption
    apply keeps_p
    apply keeps_p
    assumption

theorem keeps_budgetAfter (s : State) (b : Blk) (hs : Keeps kqu kou kfr s) : Keeps kqu kou kfr (State.budgetAfter s b) := by
  unfold State.budgetAfter
  try dsimp only
  with_reducible
    split
    apply keeps_checkBudget
    assumption
    apply keeps_checkBudget
    assumption
    apply keeps_checkBudget
    assumption
    assumption

theorem keeps_resetOne (s : State) (b : Blk) (hs : Keeps kqu kou kfr s) : Keeps kqu kou kfr (State.resetOne s b) := by
  unfold State.resetOne
  try dsimp only
  with_reducible
    apply keeps_ite
    assumption
    apply keeps_budgetAfter
    apply keeps_foldl
    intro _
    intro _
    intro _
    apply keeps_wakePort
    assumption
    apply keeps_p
    apply keeps_p
    apply keeps_release
    apply keeps_ite
    apply keeps_foldl
    intro _
    intro _
    intro _
    apply keeps_setReg
    assumption
    split
    apply keeps_setReg
    apply keeps_ite
    apply keeps_setReg
    apply keeps_clearPage
    apply keeps_blockReset
    apply keeps_foldl
    intro _
    intro _
    intro _
    apply keeps_ite
    assumption
    apply keeps_moveStage
    assumption
    apply keeps_toSt
    split
    apply keeps_poolDrain
    refine keeps_mk ?_
    assumption
    refine keeps_mk ?_
    assumption
    apply keeps_clearPage
    apply keeps_blockReset
    apply keeps_foldl
    intro _
    intro _
    intro _
    apply keeps_ite
    assumption
    apply keeps_moveStage
    assumption
    apply keeps_toSt
    split
    apply keeps_poolDrain
    refine keeps_mk ?_
    assumption
    refine keeps_mk ?_
    assumption
    apply keeps_ite
    apply keeps_setReg
    apply keeps_clearPage
    apply keeps_blockReset
    apply keeps_foldl
    intro _
    intro _
    intro _
    apply keeps_ite
    assumption
    apply keeps_moveStage
    assumption
    apply keeps_toSt
    split
    apply keeps_poolDrain
    refine keeps_mk ?_
    assumption
    refine keeps_mk ?_
    assumption
    apply keeps_clearPage
    apply keeps_blockReset
    apply keeps_foldl
    intro _
    intro _
    intro _
    apply keeps_ite
    assumption
    apply keeps_moveStage
    assumption
    apply keeps_toSt
    split
    apply keeps_poolDrain
    refine keeps_mk ?_
    assumption
    refine keeps_mk ?_
    assumption
    split
    apply keeps_setReg
    apply keeps_ite
    apply keeps_setReg
    apply keeps_clearPage
    apply keeps_blockReset
    apply keeps_foldl
    intro _
    intro _
    intro _
    apply keeps_ite
    assumption
    apply keeps_moveStage
    assumption
    apply keeps_toSt
    split
    apply keeps_poolDrain
    refine keeps_mk ?_
    assumption
    refine keeps_mk ?_
    assumption
    apply keeps_clearPage
    apply keeps_blockReset
    apply keeps_foldl
    intro _
    intro _
    intro _
    apply keeps_ite
    assumption
    apply keeps_moveStage
    assumption
    apply keeps_toSt
    split
    apply keeps_poolDrain
    refine keeps_mk ?_
    assumption
    refine keeps_mk ?_
    assumption
    apply keeps_ite
    apply keeps_setReg
    apply keeps_clearPage
    apply keeps_blockReset
    apply keeps_foldl
    intro _
    intro _
    intro _
    apply keeps_ite
    assumption
    apply keeps_moveStage
    assumption
    apply keeps_toSt
    split
    apply keeps_poolDrain
    refine keeps_mk ?_
    assumption
    refine keeps_mk ?_
    assumption
    apply keeps_clearPage
    apply keeps_blockReset
    apply keeps_foldl
    intro _
    intro _
    intro _
    apply keeps_ite
    assumption
    apply keeps_moveStage
    assumption
    apply keeps_toSt
    split
    apply keeps_poolDrain
    refine keeps_mk ?_
    assumption
    refine keeps_mk ?_
    assumption

theorem keeps_pageReset (s : State) (b : Blk) (hs : Keeps kqu kou kfr s) : Keeps kqu kou kfr (State.pageReset s b) := by
  unfold State.pageReset
  try dsimp only
  with_reducible
    apply keeps_foldl
    intro _
    intro _
    intro _
    apply keeps_resetOne
    assumption
    assumption

theorem keeps_enablePages (s : State) (bs : List Blk) (hs : Keeps kqu kou kfr s) : Keeps kqu kou kfr (State.enablePages s bs) := by
  unfold State.enablePages
  try dsimp only
  with_reducible
    apply keeps_foldl
    intro _
    intro _
    intro _
    apply keeps_follow
    assumption
    apply keeps_foldl
    intro _
    intro _
    intro _
    apply keeps_p
    assumption
    assumption

theorem keeps_debugResume (s : State) (p : Nat) (hs : Keeps kqu kou kfr s) : Keeps kqu kou kfr (State.debugResume s p) := by
  unfold State.debugResume
  try dsimp only
  with_reducible
    apply keeps_ite
    assumption
    refine keeps_mk ?_
    apply keeps_pt
    apply keeps_p
    apply keeps_foldl
    intro _
    intro _
    intro _
    apply keeps_ite
    assumption
    apply keeps_thaw
    apply keeps_p
    assumption
    apply keeps_gangUnhold
    assumption

theorem keeps_endConsent (s : State) (p : Nat) (hs : Keeps kqu kou kfr s) : Keeps kqu kou kfr (State.endConsent s p) := by
  unfold State.endConsent
  try dsimp only
  with_reducible
    refine keeps_mk ?_
    apply keeps_pt
    apply keeps_p
    apply keeps_debugResume
    assumption

theorem keeps_partReset (s : State) (p : Nat) (hs : Keeps kqu kou kfr s) : Keeps kqu kou kfr (State.partReset s p) := by
  unfold State.partReset
  try dsimp only
  with_reducible
    apply keeps_endConsent
    apply keeps_pt
    apply keeps_roostReset
    apply keeps_foldl
    intro _
    intro _
    intro _
    apply keeps_resetRdx
    assumption
    apply keeps_foldl
    intro _
    intro _
    intro _
    apply keeps_resetCx
    assumption
    apply keeps_gangReset
    assumption

theorem keeps_haltRecord (s : State) (a : Act) (pageId : Nat) (hs : Keeps kqu kou kfr s) : Keeps kqu kou kfr (State.haltRecord s a pageId) := by
  unfold State.haltRecord
  try dsimp only
  with_reducible
    apply keeps_setReg
    apply keeps_setReg
    assumption

theorem keeps_faultAll (s : State) (b : Blk) (hs : Keeps kqu kou kfr s) : Keeps kqu kou kfr (State.faultAll s b) := by
  unfold State.faultAll
  try dsimp only
  with_reducible
    apply keeps_foldl
    intro _
    intro _
    intro _
    apply keeps_ite
    assumption
    apply keeps_toSt
    assumption
    assumption

theorem keeps_haltScope (s : State) (a : Act) (hs : Keeps kqu kou kfr s) : Keeps kqu kou kfr (State.haltScope s a) := by
  unfold State.haltScope
  try dsimp only
  with_reducible
    apply keeps_ite
    assumption
    apply keeps_ite
    refine keeps_mk ?_
    apply keeps_haltRecord
    apply keeps_inc
    apply keeps_faultAll
    assumption
    apply keeps_haltRecord
    apply keeps_inc
    apply keeps_faultAll
    assumption

theorem keeps_runAct (s : State) (a : Act) (hs : Keeps kqu kou kfr s) : Keeps kqu kou kfr (State.runAct s a) := by
  unfold State.runAct
  try dsimp only
  with_reducible
    apply keeps_ite
    apply keeps_partReset
    assumption
    apply keeps_haltScope
    assumption

theorem keeps_settleN (k : Nat) (s : State) (hs : Keeps kqu kou kfr s) : Keeps kqu kou kfr (State.settleN k s) := by
  induction k generalizing s with
  | zero =>
    unfold State.settleN
    exact hs
  | succ k k_ih =>
    unfold State.settleN
    try dsimp only
    with_reducible
      split
      assumption
      apply k_ih
      apply keeps_runAct
      refine keeps_mk ?_
      assumption

theorem keeps_settle (s : State) (hs : Keeps kqu kou kfr s) : Keeps kqu kou kfr (State.settle s) := by
  unfold State.settle
  try dsimp only
  with_reducible
    apply keeps_levelNotice
    apply keeps_settleN
    apply keeps_overrun
    assumption

theorem keeps_deviceReset (s : State) (haltRec : Bool) (hs : Keeps kqu kou kfr s) : Keeps kqu kou kfr (s.deviceReset haltRec) := by
  unfold State.deviceReset
  refine keeps_foldl (fun t x ht => keeps_keepRetired t x ht) ?_
  exact ⟨hs.queue, hs.out, hs.fresh, kvWf_foldl_put _ _ _ (kvWf_nil _), kvWf_filter _ hs.wf.tabs, rfl, rfl, rfl, hs.wf.host⟩

end Sys2Proof.Machine
end

