-- ==== Sys2Proof/Laws/KeepsPages.lean ====
section
/-! SUPPORT. What every operation of Machine/Pages.lean keeps. -/

namespace Sys2Proof.Machine

variable {kqu : List Instr} {kou : List Emit} {kfr : Nat}

theorem keeps_done {s : State} {kt : State} (ke : State.done s = .next kt) (hs : Keeps kqu kou kfr s) : Keeps kqu kou kfr kt := by
  simp only [State.done, State.done, Host.Outcome.next.injEq] at ke
  subst ke
  with_reducible
    apply keeps_settle
    assumption

theorem keeps_setCtrl (s : State) (b : Blk) (v : Nat) (hs : Keeps kqu kou kfr s) : Keeps kqu kou kfr (State.setCtrl s b v) := by
  unfold State.setCtrl
  try dsimp only
  with_reducible
    split
    apply keeps_ite
    apply keeps_setReg
    assumption
    apply keeps_p
    apply keeps_setReg
    assumption
    apply keeps_setReg
    assumption

theorem keeps_applyCtrl (s : State) (b : Blk) (v : Nat) (hs : Keeps kqu kou kfr s) : Keeps kqu kou kfr (State.applyCtrl s b v) := by
  unfold State.applyCtrl
  try dsimp only
  with_reducible
    apply keeps_ite
    apply keeps_pageReset
    assumption
    apply keeps_thaw
    apply keeps_followAll
    apply keeps_setCtrl
    assumption

theorem keeps_writeCtrl (s : State) (m pg v : Nat) (hs : Keeps kqu kou kfr s) : Keeps kqu kou kfr (State.writeCtrl s m pg v) := by
  unfold State.writeCtrl
  try dsimp only
  with_reducible
    apply keeps_onWrite
    assumption
    intro _
    apply keeps_ite
    apply keeps_denyWrite
    assumption
    apply keeps_ite
    apply keeps_refuse
    assumption
    apply keeps_ite
    apply keeps_refuse
    assumption
    apply keeps_applyCtrl
    assumption

theorem keeps_execCtrlEnable {m : Mst} {pg : Pg} {v : Word} {s : State} {kt : State} (ke : execCtrlEnable m pg v s = .next kt) (hs : Keeps kqu kou kfr s) : Keeps kqu kou kfr kt := by
  simp only [execCtrlEnable, State.done, Host.Outcome.next.injEq] at ke
  subst ke
  with_reducible
    apply keeps_settle
    apply keeps_writeCtrl
    assumption

theorem keeps_execCtrlQuiesce {m : Mst} {pg : Pg} {v : Word} {s : State} {kt : State} (ke : execCtrlQuiesce m pg v s = .next kt) (hs : Keeps kqu kou kfr s) : Keeps kqu kou kfr kt := by
  simp only [execCtrlQuiesce, State.done, Host.Outcome.next.injEq] at ke
  subst ke
  with_reducible
    apply keeps_settle
    apply keeps_writeCtrl
    assumption

theorem keeps_execCtrlFreeze {m : Mst} {pg : Pg} {v : Word} {s : State} {kt : State} (ke : execCtrlFreeze m pg v s = .next kt) (hs : Keeps kqu kou kfr s) : Keeps kqu kou kfr kt := by
  simp only [execCtrlFreeze, State.done, Host.Outcome.next.injEq] at ke
  subst ke
  with_reducible
    apply keeps_settle
    apply keeps_writeCtrl
    assumption

theorem keeps_execCtrlEvacuate {m : Mst} {pg : Pg} {v : Word} {s : State} {kt : State} (ke : execCtrlEvacuate m pg v s = .next kt) (hs : Keeps kqu kou kfr s) : Keeps kqu kou kfr kt := by
  simp only [execCtrlEvacuate, State.done, Host.Outcome.next.injEq] at ke
  subst ke
  with_reducible
    apply keeps_settle
    apply keeps_writeCtrl
    assumption

theorem keeps_execCtrlReset {m : Mst} {pg : Pg} {v : Word} {s : State} {kt : State} (ke : execCtrlReset m pg v s = .next kt) (hs : Keeps kqu kou kfr s) : Keeps kqu kou kfr kt := by
  simp only [execCtrlReset, State.done, Host.Outcome.next.injEq] at ke
  subst ke
  with_reducible
    apply keeps_settle
    apply keeps_writeCtrl
    assumption

theorem keeps_finishTraining (s : State) (pg : Nat) (hs : Keeps kqu kou kfr s) : Keeps kqu kou kfr (State.finishTraining s pg) := by
  unfold State.finishTraining
  try dsimp only
  with_reducible
    split
    assumption
    apply keeps_ite
    apply keeps_followAll
    apply keeps_trained
    assumption
    assumption
    apply keeps_ite
    apply keeps_followAll
    apply keeps_trained
    apply keeps_poolInit
    assumption
    assumption
    apply keeps_ite
    apply keeps_pciUp
    apply keeps_followAll
    apply keeps_trained
    assumption
    apply keeps_followAll
    apply keeps_trained
    assumption
    apply keeps_followAll
    apply keeps_trained
    assumption

theorem keeps_execTrainingDone {pg : Pg} {s : State} {kt : State} (ke : execTrainingDone pg s = .next kt) (hs : Keeps kqu kou kfr s) : Keeps kqu kou kfr kt := by
  simp only [execTrainingDone, State.done, Host.Outcome.next.injEq] at ke
  subst ke
  with_reducible
    apply keeps_settle
    apply keeps_finishTraining
    assumption

theorem keeps_execQuiesceDrainDone {pg : Pg} {s : State} {kt : State} (ke : execQuiesceDrainDone pg s = .next kt) (hs : Keeps kqu kou kfr s) : Keeps kqu kou kfr kt := by
  simp only [execQuiesceDrainDone, State.done, Host.Outcome.next.injEq] at ke
  subst ke
  with_reducible
    split
    assumption
    apply keeps_p
    assumption

theorem keeps_captureOne (s : State) (b : Blk) (hs : Keeps kqu kou kfr s) : Keeps kqu kou kfr (State.captureOne s b) := by
  unfold State.captureOne
  try dsimp only
  with_reducible
    apply keeps_ite
    apply keeps_ite
    apply keeps_p
    apply keeps_capture
    assumption
    apply keeps_capture
    assumption
    assumption

theorem keeps_execCaptureMarker {pg : Pg} {s : State} {kt : State} (ke : execCaptureMarker pg s = .next kt) (hs : Keeps kqu kou kfr s) : Keeps kqu kou kfr kt := by
  simp only [execCaptureMarker, State.done, Host.Outcome.next.injEq] at ke
  subst ke
  with_reducible
    apply keeps_settle
    split
    assumption
    apply keeps_foldl
    intro _
    intro _
    intro _
    apply keeps_captureOne
    assumption
    assumption

theorem keeps_execFreezeCaptureDone {pg : Pg} {s : State} {kt : State} (ke : execFreezeCaptureDone pg s = .next kt) (hs : Keeps kqu kou kfr s) : Keeps kqu kou kfr kt := by
  simp only [execFreezeCaptureDone, State.done, Host.Outcome.next.injEq] at ke
  subst ke
  with_reducible
    split
    assumption
    apply keeps_ite
    apply keeps_p
    assumption
    assumption

theorem keeps_endSnap (s : State) (b : Blk) (c : Code) (len : Nat) (implicitFreeze : Bool) (hs : Keeps kqu kou kfr s) : Keeps kqu kou kfr (State.endSnap s b c len implicitFreeze) := by
  unfold State.endSnap
  try dsimp only
  with_reducible
    apply keeps_thaw
    apply keeps_ite
    apply keeps_p
    apply keeps_ite
    refine keeps_mk ?_
    apply keeps_p
    apply keeps_p
    apply keeps_p
    apply keeps_p
    assumption
    apply keeps_raise
    refine keeps_mk ?_
    apply keeps_p
    apply keeps_p
    apply keeps_p
    apply keeps_p
    assumption
    apply keeps_ite
    refine keeps_mk ?_
    apply keeps_p
    apply keeps_p
    apply keeps_p
    apply keeps_p
    assumption
    apply keeps_raise
    refine keeps_mk ?_
    apply keeps_p
    apply keeps_p
    apply keeps_p
    apply keeps_p
    assumption

theorem keeps_take (s : State) (m : Nat) (b : Blk) (v : Nat) (hs : Keeps kqu kou kfr s) : Keeps kqu kou kfr (State.take s m b v) := by
  unfold State.take
  try dsimp only
  with_reducible
    apply keeps_ite
    refine keeps_mk ?_
    apply keeps_ite
    apply keeps_p
    apply keeps_p
    apply keeps_setReg
    assumption
    apply keeps_p
    apply keeps_setReg
    assumption
    apply keeps_ite
    apply keeps_memDenied
    apply keeps_endSnap
    apply keeps_ite
    apply keeps_p
    apply keeps_p
    apply keeps_setReg
    assumption
    apply keeps_p
    apply keeps_setReg
    assumption
    apply keeps_ite
    apply keeps_endSnap
    apply keeps_ite
    apply keeps_p
    apply keeps_p
    apply keeps_setReg
    assumption
    apply keeps_p
    apply keeps_setReg
    assumption
    refine keeps_mk ?_
    apply keeps_ite
    apply keeps_p
    apply keeps_p
    apply keeps_setReg
    assumption
    apply keeps_p
    apply keeps_setReg
    assumption

theorem keeps_writeSnap (s : State) (m pg v : Nat) (hs : Keeps kqu kou kfr s) : Keeps kqu kou kfr (State.writeSnap s m pg v) := by
  unfold State.writeSnap
  try dsimp only
  with_reducible
    apply keeps_onWrite
    assumption
    intro _
    apply keeps_ite
    apply keeps_ite
    apply keeps_refuse
    assumption
    apply keeps_take
    assumption
    apply keeps_setReg
    assumption

theorem keeps_execSnapTake {m : Mst} {pg : Pg} {v : Word} {s : State} {kt : State} (ke : execSnapTake m pg v s = .next kt) (hs : Keeps kqu kou kfr s) : Keeps kqu kou kfr kt := by
  simp only [execSnapTake, State.done, Host.Outcome.next.injEq] at ke
  subst ke
  with_reducible
    apply keeps_settle
    apply keeps_writeSnap
    assumption

theorem keeps_forceAll (s : State) (m : Nat) (b : Blk) (v : Nat) (hs : Keeps kqu kou kfr s) : Keeps kqu kou kfr (State.forceAll s m b v) := by
  unfold State.forceAll
  try dsimp only
  with_reducible
    apply keeps_foldl
    intro _
    intro _
    intro _
    split
    assumption
    apply keeps_ite
    apply keeps_raiseBy
    assumption
    assumption
    assumption

theorem keeps_writeForce (s : State) (m pg v : Nat) (hs : Keeps kqu kou kfr s) : Keeps kqu kou kfr (State.writeForce s m pg v) := by
  unfold State.writeForce
  try dsimp only
  with_reducible
    apply keeps_onWrite
    assumption
    intro _
    apply keeps_ite
    apply keeps_refuse
    assumption
    apply keeps_forceAll
    assumption

theorem keeps_execErrForce {m : Mst} {pg : Pg} {v : Word} {s : State} {kt : State} (ke : execErrForce m pg v s = .next kt) (hs : Keeps kqu kou kfr s) : Keeps kqu kou kfr kt := by
  simp only [execErrForce, State.done, Host.Outcome.next.injEq] at ke
  subst ke
  with_reducible
    apply keeps_settle
    apply keeps_writeForce
    assumption

theorem keeps_writeAck (s : State) (m pg v : Nat) (hs : Keeps kqu kou kfr s) : Keeps kqu kou kfr (State.writeAck s m pg v) := by
  unfold State.writeAck
  try dsimp only
  with_reducible
    apply keeps_onWrite
    assumption
    intro _
    apply keeps_ackErr
    assumption

theorem keeps_execErrAck {m : Mst} {pg : Pg} {v : Word} {s : State} {kt : State} (ke : execErrAck m pg v s = .next kt) (hs : Keeps kqu kou kfr s) : Keeps kqu kou kfr kt := by
  simp only [execErrAck, State.done, Host.Outcome.next.injEq] at ke
  subst ke
  with_reducible
    apply keeps_settle
    apply keeps_writeAck
    assumption

theorem keeps_writeMask (s : State) (m pg v : Nat) (hs : Keeps kqu kou kfr s) : Keeps kqu kou kfr (State.writeMask s m pg v) := by
  unfold State.writeMask
  try dsimp only
  with_reducible
    apply keeps_onWrite
    assumption
    intro _
    apply keeps_setReg
    assumption

theorem keeps_ackBelow (s : State) (b : Blk) (l : Nat) (hs : Keeps kqu kou kfr s) : Keeps kqu kou kfr (State.ackBelow s b l) := by
  unfold State.ackBelow
  try dsimp only
  with_reducible
    apply keeps_foldl
    intro _
    intro _
    intro _
    apply keeps_ackErr
    assumption
    assumption

theorem keeps_writeFltCmd (s : State) (m pg v : Nat) (hs : Keeps kqu kou kfr s) : Keeps kqu kou kfr (State.writeFltCmd s m pg v) := by
  unfold State.writeFltCmd
  try dsimp only
  with_reducible
    apply keeps_onWrite
    assumption
    intro _
    apply keeps_ite
    assumption
    apply keeps_ite
    apply keeps_refuseOp
    assumption
    apply keeps_finish
    apply keeps_ackBelow
    assumption

theorem keeps_execFltAckBelow {m : Mst} {pg : Pg} {v : Word} {s : State} {kt : State} (ke : execFltAckBelow m pg v s = .next kt) (hs : Keeps kqu kou kfr s) : Keeps kqu kou kfr kt := by
  simp only [execFltAckBelow, State.done, Host.Outcome.next.injEq] at ke
  subst ke
  with_reducible
    apply keeps_settle
    apply keeps_writeFltCmd
    assumption

theorem keeps_execPinMismatch {pg : Pg} {_child : BitVec 9} {s : State} {kt : State} (ke : execPinMismatch pg _child s = .next kt) (hs : Keeps kqu kou kfr s) : Keeps kqu kou kfr kt := by
  simp only [execPinMismatch, State.done, Host.Outcome.next.injEq] at ke
  subst ke
  with_reducible
    apply keeps_settle
    split
    apply keeps_raise
    assumption
    apply keeps_raise
    assumption
    apply keeps_raise
    assumption
    assumption

theorem keeps_execPageNoAnswer {m : Mst} {pg : Pg} {s : State} {kt : State} (ke : execPageNoAnswer m pg s = .next kt) (hs : Keeps kqu kou kfr s) : Keeps kqu kou kfr kt := by
  simp only [execPageNoAnswer, State.done, Host.Outcome.next.injEq] at ke
  subst ke
  with_reducible
    apply keeps_settle
    split
    assumption
    apply keeps_emit
    split
    assumption
    apply keeps_raise
    assumption

end Sys2Proof.Machine
end

