-- ==== Sys2Proof/Laws/KeepsAttach.lean ====
section
/-! SUPPORT. What every operation of Machine/Attach.lean keeps. -/

namespace Sys2Proof.Machine

variable {kqu : List Instr} {kou : List Emit} {kfr : Nat}

theorem keeps_ctxOpen (s : State) (m c : Nat) (hs : Keeps kqu kou kfr s) : Keeps kqu kou kfr (State.ctxOpen s m c).2 := by
  unfold State.ctxOpen
  try dsimp only
  with_reducible
    split
    dsimp only
    assumption
    split
    dsimp only
    assumption
    split
    dsimp only
    assumption
    dsimp only
    apply keeps_openCx
    assumption

theorem keeps_ctxOpen_eq {s : State} {m c : Nat} {x0 : Code} {x1 : State} (ke : State.ctxOpen s m c = (x0, x1)) (hs : Keeps kqu kou kfr s) : Keeps kqu kou kfr x1 := by
  have k := keeps_ctxOpen (kqu := kqu) (kou := kou) (kfr := kfr) s m c hs
  rw [ke] at k
  exact k

theorem keeps_ctxClose (s : State) (m c : Nat) (hs : Keeps kqu kou kfr s) : Keeps kqu kou kfr (State.ctxClose s m c).2 := by
  unfold State.ctxClose
  try dsimp only
  with_reducible
    split
    dsimp only
    assumption
    split
    dsimp only
    assumption
    dsimp only
    apply keeps_drainCx
    apply keeps_pctx
    assumption

theorem keeps_ctxClose_eq {s : State} {m c : Nat} {x0 : Code} {x1 : State} (ke : State.ctxClose s m c = (x0, x1)) (hs : Keeps kqu kou kfr s) : Keeps kqu kou kfr x1 := by
  have k := keeps_ctxClose (kqu := kqu) (kou := kou) (kfr := kfr) s m c hs
  rw [ke] at k
  exact k

theorem keeps_ctxReset (s : State) (m c : Nat) (hs : Keeps kqu kou kfr s) : Keeps kqu kou kfr (State.ctxReset s m c).2 := by
  unfold State.ctxReset
  try dsimp only
  with_reducible
    split
    dsimp only
    assumption
    split
    dsimp only
    assumption
    dsimp only
    apply keeps_resetCx
    assumption

theorem keeps_ctxReset_eq {s : State} {m c : Nat} {x0 : Code} {x1 : State} (ke : State.ctxReset s m c = (x0, x1)) (hs : Keeps kqu kou kfr s) : Keeps kqu kou kfr x1 := by
  have k := keeps_ctxReset (kqu := kqu) (kou := kou) (kfr := kfr) s m c hs
  rw [ke] at k
  exact k

theorem keeps_attCommand (s : State) (m t v : Nat) (hs : Keeps kqu kou kfr s) : Keeps kqu kou kfr (State.attCommand s m t v) := by
  unfold State.attCommand
  try dsimp only
  with_reducible
    apply keeps_onWrite
    assumption
    intro _
    apply keeps_ite
    apply keeps_refuseOp
    assumption
    apply keeps_finish
    apply keeps_ite
    apply keeps_refuse
    split
    apply keeps_ctxOpen
    assumption
    split
    apply keeps_ctxClose
    assumption
    apply keeps_ctxReset
    assumption
    split
    apply keeps_ctxOpen
    assumption
    split
    apply keeps_ctxClose
    assumption
    apply keeps_ctxReset
    assumption

theorem keeps_execCtxOpen {m : Mst} {t : TileNo} {v : Word} {s : State} {kt : State} (ke : execCtxOpen m t v s = .next kt) (hs : Keeps kqu kou kfr s) : Keeps kqu kou kfr kt := by
  simp only [execCtxOpen, State.done, Host.Outcome.next.injEq] at ke
  subst ke
  with_reducible
    apply keeps_settle
    apply keeps_attCommand
    assumption

theorem keeps_execCtxClose {m : Mst} {t : TileNo} {v : Word} {s : State} {kt : State} (ke : execCtxClose m t v s = .next kt) (hs : Keeps kqu kou kfr s) : Keeps kqu kou kfr kt := by
  simp only [execCtxClose, State.done, Host.Outcome.next.injEq] at ke
  subst ke
  with_reducible
    apply keeps_settle
    apply keeps_attCommand
    assumption

theorem keeps_execCtxReset {m : Mst} {t : TileNo} {v : Word} {s : State} {kt : State} (ke : execCtxReset m t v s = .next kt) (hs : Keeps kqu kou kfr s) : Keeps kqu kou kfr kt := by
  simp only [execCtxReset, State.done, Host.Outcome.next.injEq] at ke
  subst ke
  with_reducible
    apply keeps_settle
    apply keeps_attCommand
    assumption

theorem keeps_attTblWrite (s : State) (m t v : Nat) (hs : Keeps kqu kou kfr s) : Keeps kqu kou kfr (State.attTblWrite s m t v) := by
  unfold State.attTblWrite
  try dsimp only
  with_reducible
    apply keeps_onWrite
    assumption
    intro _
    apply keeps_ite
    apply keeps_denyWrite
    assumption
    split
    apply keeps_ite
    apply keeps_refuse
    assumption
    apply keeps_storeTw
    assumption
    apply keeps_ite
    apply keeps_pt
    apply keeps_storeTw
    assumption
    apply keeps_storeTw
    assumption
    apply keeps_storeTw
    assumption

theorem keeps_execCtxEntryWrite {m : Mst} {t : TileNo} {v : Word} {s : State} {kt : State} (ke : execCtxEntryWrite m t v s = .next kt) (hs : Keeps kqu kou kfr s) : Keeps kqu kou kfr kt := by
  simp only [execCtxEntryWrite, State.done, Host.Outcome.next.injEq] at ke
  subst ke
  with_reducible
    apply keeps_settle
    apply keeps_attTblWrite
    assumption

theorem keeps_onLocal (s : State) (g op : Nat) (bs : List Byte) (f : State → State) (hs : Keeps kqu kou kfr s) (k_f : ∀ s, Keeps kqu kou kfr s → Keeps kqu kou kfr (f s)) : Keeps kqu kou kfr (State.onLocal s g op bs f) := by
  unfold State.onLocal
  try dsimp only
  with_reducible
    apply keeps_ite
    apply keeps_unhand
    assumption
    apply keeps_ite
    apply keeps_inc
    apply keeps_unhand
    assumption
    apply keeps_ite
    apply keeps_raise
    apply keeps_inc
    apply keeps_unhand
    assumption
    apply k_f
    apply keeps_unhand
    assumption

theorem keeps_execLocalPut {g : GroupNo} {c : LocalCmd} {s : State} {kt : State} (ke : execLocalPut g c s = .next kt) (hs : Keeps kqu kou kfr s) : Keeps kqu kou kfr kt := by
  simp only [execLocalPut, State.done, Host.Outcome.next.injEq] at ke
  subst ke
  with_reducible
    apply keeps_settle
    apply keeps_onLocal
    assumption
    intro _
    intro _
    apply keeps_startMsg
    assumption

theorem keeps_execLocalGet {g : GroupNo} {c : LocalCmd} {s : State} {kt : State} (ke : execLocalGet g c s = .next kt) (hs : Keeps kqu kou kfr s) : Keeps kqu kou kfr kt := by
  simp only [execLocalGet, State.done, Host.Outcome.next.injEq] at ke
  subst ke
  with_reducible
    apply keeps_settle
    apply keeps_onLocal
    assumption
    intro _
    intro _
    apply keeps_startMsg
    assumption

theorem keeps_execLocalSend {g : GroupNo} {c : LocalCmd} {s : State} {kt : State} (ke : execLocalSend g c s = .next kt) (hs : Keeps kqu kou kfr s) : Keeps kqu kou kfr kt := by
  simp only [execLocalSend, State.done, Host.Outcome.next.injEq] at ke
  subst ke
  with_reducible
    apply keeps_settle
    apply keeps_onLocal
    assumption
    intro _
    intro _
    apply keeps_startMsg
    assumption

theorem keeps_execLocalAtomic {g : GroupNo} {c : LocalCmd} {s : State} {kt : State} (ke : execLocalAtomic g c s = .next kt) (hs : Keeps kqu kou kfr s) : Keeps kqu kou kfr kt := by
  simp only [execLocalAtomic, State.done, Host.Outcome.next.injEq] at ke
  subst ke
  with_reducible
    apply keeps_settle
    apply keeps_onLocal
    assumption
    intro _
    intro _
    apply keeps_startMsg
    assumption

theorem keeps_postBuf (s : State) (g : Nat) (bs : List Byte) (hs : Keeps kqu kou kfr s) : Keeps kqu kou kfr (State.postBuf s g bs) := by
  unfold State.postBuf
  try dsimp only
  with_reducible
    apply keeps_ite
    apply keeps_refuseLocal
    assumption
    apply keeps_ite
    apply keeps_refuseLocal
    assumption
    apply keeps_ite
    apply keeps_refuseLocal
    assumption
    apply keeps_setCx
    assumption

theorem keeps_execLocalRecvPost {g : GroupNo} {c : LocalCmd} {s : State} {kt : State} (ke : execLocalRecvPost g c s = .next kt) (hs : Keeps kqu kou kfr s) : Keeps kqu kou kfr kt := by
  simp only [execLocalRecvPost, State.done, Host.Outcome.next.injEq] at ke
  subst ke
  with_reducible
    apply keeps_settle
    apply keeps_onLocal
    assumption
    intro _
    intro _
    apply keeps_postBuf
    assumption

theorem keeps_execCtxQueueIssue {c : CtxNo} {s : State} {kt : State} (ke : execCtxQueueIssue c s = .next kt) (hs : Keeps kqu kou kfr s) : Keeps kqu kou kfr kt := by
  simp only [execCtxQueueIssue, State.done, Host.Outcome.next.injEq] at ke
  subst ke
  with_reducible
    apply keeps_settle
    apply keeps_issue
    assumption

theorem keeps_execLocalRdData {g : GroupNo} {tag : BitVec 32} {data : List Byte} {s : State} {kt : State} (ke : execLocalRdData g tag data s = .next kt) (hs : Keeps kqu kou kfr s) : Keeps kqu kou kfr kt := by
  simp only [execLocalRdData, State.done, Host.Outcome.next.injEq] at ke
  subst ke
  with_reducible
    apply keeps_settle
    apply keeps_localData
    assumption

theorem keeps_execTxPacketSend {c : CtxNo} {s : State} {kt : State} (ke : execTxPacketSend c s = .next kt) (hs : Keeps kqu kou kfr s) : Keeps kqu kou kfr kt := by
  simp only [execTxPacketSend, State.done, Host.Outcome.next.injEq] at ke
  subst ke
  with_reducible
    apply keeps_settle
    apply keeps_sendNext
    assumption

theorem keeps_onRequest (s : State) (t op : Nat) (bs : List Byte) (f : State → Nat → Except Code State) (hs : Keeps kqu kou kfr s) (e_f : ∀ s c t, f s c = .ok t → Keeps kqu kou kfr s → Keeps kqu kou kfr t) : Keeps kqu kou kfr (State.onRequest s t op bs f) := by
  unfold State.onRequest
  try dsimp only
  with_reducible
    apply keeps_ite
    apply keeps_sendAck
    apply keeps_unhand
    assumption
    apply keeps_onData
    assumption
    intro _
    intro _
    intro _
    intro _
    intro _
    refine e_f _ _ _ (by assumption) ?_
    assumption

theorem keeps_execPut {t : TileNo} {p : TPkt} {s : State} {kt : State} (ke : execPut t p s = .next kt) (hs : Keeps kqu kou kfr s) : Keeps kqu kou kfr kt := by
  simp only [execPut, State.done, Host.Outcome.next.injEq] at ke
  subst ke
  with_reducible
    apply keeps_settle
    apply keeps_onRequest
    assumption
    intro _
    intro _
    intro _
    intro _
    intro _
    refine keeps_doPut (by assumption) ?_
    assumption

theorem keeps_execGetReq {t : TileNo} {p : TPkt} {s : State} {kt : State} (ke : execGetReq t p s = .next kt) (hs : Keeps kqu kou kfr s) : Keeps kqu kou kfr kt := by
  simp only [execGetReq, State.done, Host.Outcome.next.injEq] at ke
  subst ke
  with_reducible
    apply keeps_settle
    apply keeps_onRequest
    assumption
    intro _
    intro _
    intro _
    intro _
    intro _
    refine keeps_doGet (by assumption) ?_
    assumption

theorem keeps_execGetResp {t : TileNo} {p : TPkt} {s : State} {kt : State} (ke : execGetResp t p s = .next kt) (hs : Keeps kqu kou kfr s) : Keeps kqu kou kfr kt := by
  simp only [execGetResp, State.done, Host.Outcome.next.injEq] at ke
  subst ke
  with_reducible
    apply keeps_settle
    apply keeps_onData
    assumption
    intro _
    intro _
    intro _
    intro _
    intro _
    refine keeps_doResp (by assumption) ?_
    assumption

theorem keeps_execSend {t : TileNo} {p : TPkt} {s : State} {kt : State} (ke : execSend t p s = .next kt) (hs : Keeps kqu kou kfr s) : Keeps kqu kou kfr kt := by
  simp only [execSend, State.done, Host.Outcome.next.injEq] at ke
  subst ke
  with_reducible
    apply keeps_settle
    apply keeps_onRequest
    assumption
    intro _
    intro _
    intro _
    intro _
    intro _
    refine keeps_doSend (by assumption) ?_
    assumption

theorem keeps_execAtomicAdd {t : TileNo} {p : TPkt} {s : State} {kt : State} (ke : execAtomicAdd t p s = .next kt) (hs : Keeps kqu kou kfr s) : Keeps kqu kou kfr kt := by
  simp only [execAtomicAdd, State.done, Host.Outcome.next.injEq] at ke
  subst ke
  with_reducible
    apply keeps_settle
    apply keeps_onRequest
    assumption
    intro _
    intro _
    intro _
    intro _
    intro _
    refine keeps_doAtomic (by assumption) ?_
    assumption

theorem keeps_execAtomicResp {t : TileNo} {p : TPkt} {s : State} {kt : State} (ke : execAtomicResp t p s = .next kt) (hs : Keeps kqu kou kfr s) : Keeps kqu kou kfr kt := by
  simp only [execAtomicResp, State.done, Host.Outcome.next.injEq] at ke
  subst ke
  with_reducible
    apply keeps_settle
    apply keeps_onData
    assumption
    intro _
    intro _
    intro _
    intro _
    intro _
    refine keeps_doAtomicResp (by assumption) ?_
    assumption

theorem keeps_execAck {t : TileNo} {p : TPkt} {s : State} {kt : State} (ke : execAck t p s = .next kt) (hs : Keeps kqu kou kfr s) : Keeps kqu kou kfr kt := by
  simp only [execAck, State.done, Host.Outcome.next.injEq] at ke
  subst ke
  with_reducible
    apply keeps_settle
    apply keeps_ite
    apply keeps_rdxAckIn
    assumption
    apply keeps_rxAck
    assumption

theorem keeps_ackTick (s : State) (c : Nat) (hs : Keeps kqu kou kfr s) : Keeps kqu kou kfr (State.ackTick s c) := by
  unfold State.ackTick
  try dsimp only
  with_reducible
    apply keeps_ite
    apply keeps_foldl
    intro _
    intro _
    intro _
    split
    assumption
    apply keeps_ite
    apply keeps_ackRank
    assumption
    assumption
    assumption
    apply keeps_ite
    apply keeps_sendAck
    assumption
    assumption

theorem keeps_execAckTimer {c : CtxNo} {s : State} {kt : State} (ke : execAckTimer c s = .next kt) (hs : Keeps kqu kou kfr s) : Keeps kqu kou kfr kt := by
  simp only [execAckTimer, State.done, Host.Outcome.next.injEq] at ke
  subst ke
  with_reducible
    apply keeps_settle
    apply keeps_ackTick
    assumption

theorem keeps_execLocalCpl {c : CtxNo} {s : State} {kt : State} (ke : execLocalCpl c s = .next kt) (hs : Keeps kqu kou kfr s) : Keeps kqu kou kfr kt := by
  simp only [execLocalCpl, State.done, Host.Outcome.next.injEq] at ke
  subst ke
  with_reducible
    apply keeps_settle
    apply keeps_oneCpl
    assumption

theorem keeps_execRetxTimeout {c : CtxNo} {psn : BitVec 32} {s : State} {kt : State} (ke : execRetxTimeout c psn s = .next kt) (hs : Keeps kqu kou kfr s) : Keeps kqu kou kfr kt := by
  simp only [execRetxTimeout, State.done, Host.Outcome.next.injEq] at ke
  subst ke
  with_reducible
    apply keeps_settle
    apply keeps_ite
    apply keeps_rdxTimeout
    assumption
    apply keeps_timeout
    assumption

theorem keeps_retryNak (s : State) (c psn : Nat) (hs : Keeps kqu kou kfr s) : Keeps kqu kou kfr (State.retryNak s c psn) := by
  unfold State.retryNak
  try dsimp only
  with_reducible
    apply keeps_ite
    apply keeps_resend
    assumption
    assumption

theorem keeps_execNoResourceRetry {c : CtxNo} {psn : BitVec 32} {s : State} {kt : State} (ke : execNoResourceRetry c psn s = .next kt) (hs : Keeps kqu kou kfr s) : Keeps kqu kou kfr kt := by
  simp only [execNoResourceRetry, State.done, Host.Outcome.next.injEq] at ke
  subst ke
  with_reducible
    apply keeps_settle
    apply keeps_ite
    apply keeps_rdxTimeout
    assumption
    apply keeps_retryNak
    assumption

theorem keeps_execPathHoldExpiry {t : TileNo} {path : BitVec 20} {s : State} {kt : State} (ke : execPathHoldExpiry t path s = .next kt) (hs : Keeps kqu kou kfr s) : Keeps kqu kou kfr kt := by
  simp only [execPathHoldExpiry, State.done, Host.Outcome.next.injEq] at ke
  subst ke
  with_reducible
    apply keeps_pathUp
    assumption

end Sys2Proof.Machine
end

