-- ==== Sys2Proof/Laws/KeepsRouteOps.lean ====
section
/-! SUPPORT. What every operation of Machine/RouteOps.lean keeps. -/

namespace Sys2Proof.Machine

variable {kqu : List Instr} {kou : List Emit} {kfr : Nat}

theorem keeps_loadImage (s : State) (bs : List Byte) (hs : Keeps kqu kou kfr s) : Keeps kqu kou kfr (State.loadImage s bs) := by
  unfold State.loadImage
  try dsimp only
  with_reducible
    refine keeps_mk ?_
    apply keeps_setReg
    apply keeps_foldl
    intro _
    intro _
    intro _
    apply keeps_ite
    assumption
    apply keeps_setEntry
    assumption
    apply keeps_foldl
    intro _
    intro _
    intro _
    apply keeps_ite
    assumption
    apply keeps_setTw
    assumption
    apply keeps_foldl
    intro _
    intro _
    intro _
    apply keeps_setEntry
    assumption
    apply keeps_foldl
    intro _
    intro _
    intro _
    apply keeps_setTw
    assumption
    apply keeps_foldl
    intro _
    intro _
    intro _
    apply keeps_pt
    assumption
    assumption

theorem keeps_showCycle (s : State) (c : List REdge) (hs : Keeps kqu kou kfr s) : Keeps kqu kou kfr (State.showCycle s c) := by
  unfold State.showCycle
  try dsimp only
  with_reducible
    apply keeps_foldl
    intro _
    intro _
    intro _
    apply keeps_setTw
    assumption
    apply keeps_clearTab
    assumption

end Sys2Proof.Machine
end

