-- ==== Sys2Proof/Laws/KeepsClassRows.lean ====
section
/-! SUPPORT. What every operation of Machine/ClassRows.lean keeps. -/

namespace Sys2Proof.Machine

variable {kqu : List Instr} {kou : List Emit} {kfr : Nat}

theorem keeps_dropPausing (s : State) (port : Nat) (hs : Keeps kqu kou kfr s) : Keeps kqu kou kfr (State.dropPausing s port) := by
  unfold State.dropPausing
  try dsimp only
  with_reducible
    refine keeps_mk ?_
    assumption

theorem keeps_writeCls (s : State) (m pg v : Nat) (hs : Keeps kqu kou kfr s) : Keeps kqu kou kfr (State.writeCls s m pg v) := by
  unfold State.writeCls
  try dsimp only
  with_reducible
    split
    apply keeps_onWrite
    assumption
    intro _
    apply keeps_ite
    apply keeps_refuse
    assumption
    apply keeps_ite
    apply keeps_refuse
    assumption
    apply keeps_ite
    apply keeps_refuse
    assumption
    apply keeps_ite
    apply keeps_pfcCheck
    apply keeps_checkBudget
    apply keeps_dropPausing
    apply keeps_storeTw
    assumption
    apply keeps_ite
    apply keeps_pfcCheck
    apply keeps_storeTw
    assumption
    apply keeps_storeTw
    assumption
    assumption

theorem keeps_execClsEntryWrite {m : Mst} {pg : Pg} {v : Word} {s : State} {kt : State} (ke : execClsEntryWrite m pg v s = .next kt) (hs : Keeps kqu kou kfr s) : Keeps kqu kou kfr kt := by
  simp only [execClsEntryWrite, State.done, Host.Outcome.next.injEq] at ke
  subst ke
  with_reducible
    apply keeps_settle
    apply keeps_writeCls
    assumption

theorem keeps_execPfcRx {port : PortNo} {bytes : List Byte} {s : State} {kt : State} (ke : execPfcRx port bytes s = .next kt) (hs : Keeps kqu kou kfr s) : Keeps kqu kou kfr kt := by
  simp only [execPfcRx, State.done, Host.Outcome.next.injEq] at ke
  subst ke
  with_reducible
    apply keeps_settle
    apply keeps_ite
    apply keeps_pfcRx
    assumption
    assumption

theorem keeps_execPfcPauseExpiry {port : PortNo} {vc : BitVec 3} {s : State} {kt : State} (ke : execPfcPauseExpiry port vc s = .next kt) (hs : Keeps kqu kou kfr s) : Keeps kqu kou kfr kt := by
  simp only [execPfcPauseExpiry, State.done, Host.Outcome.next.injEq] at ke
  subst ke
  with_reducible
    apply keeps_unpause
    assumption

theorem keeps_execPfcRefresh {port : PortNo} {vc : BitVec 3} {s : State} {kt : State} (ke : execPfcRefresh port vc s = .next kt) (hs : Keeps kqu kou kfr s) : Keeps kqu kou kfr kt := by
  simp only [execPfcRefresh, State.done, Host.Outcome.next.injEq] at ke
  subst ke
  with_reducible
    apply keeps_ite
    apply keeps_sendPfc
    assumption
    assumption

theorem keeps_execTokenAccrual {t : TileNo} {cycles : BitVec 32} {s : State} {kt : State} (ke : execTokenAccrual t cycles s = .next kt) (hs : Keeps kqu kou kfr s) : Keeps kqu kou kfr kt := by
  simp only [execTokenAccrual, State.done, Host.Outcome.next.injEq] at ke
  subst ke
  with_reducible
    apply keeps_ite
    apply keeps_accrueTile
    assumption
    assumption

theorem keeps_execDlScan {d : BaseNo} {s : State} {kt : State} (ke : execDlScan d s = .next kt) (hs : Keeps kqu kou kfr s) : Keeps kqu kou kfr kt := by
  simp only [execDlScan, State.done, Host.Outcome.next.injEq] at ke
  subst ke
  with_reducible
    apply keeps_settle
    apply keeps_dlScan
    assumption

theorem keeps_execDlRecover {port : PortNo} {vc : BitVec 3} {s : State} {kt : State} (ke : execDlRecover port vc s = .next kt) (hs : Keeps kqu kou kfr s) : Keeps kqu kou kfr kt := by
  simp only [execDlRecover, State.done, Host.Outcome.next.injEq] at ke
  subst ke
  with_reducible
    apply keeps_settle
    apply keeps_dlRecover
    assumption

theorem keeps_unhold (s : State) (port vc : Nat) (hs : Keeps kqu kou kfr s) : Keeps kqu kou kfr (State.unhold s port vc) := by
  unfold State.unhold
  try dsimp only
  with_reducible
    refine keeps_mk ?_
    assumption

theorem keeps_execDlHoldExpiry {port : PortNo} {vc : BitVec 3} {s : State} {kt : State} (ke : execDlHoldExpiry port vc s = .next kt) (hs : Keeps kqu kou kfr s) : Keeps kqu kou kfr kt := by
  simp only [execDlHoldExpiry, State.done, Host.Outcome.next.injEq] at ke
  subst ke
  with_reducible
    apply keeps_unhold
    assumption

theorem keeps_writeDlCmd (s : State) (m v : Nat) (hs : Keeps kqu kou kfr s) : Keeps kqu kou kfr (State.writeDlCmd s m v) := by
  unfold State.writeDlCmd
  try dsimp only
  with_reducible
    apply keeps_onWrite
    assumption
    intro _
    apply keeps_ite
    apply keeps_dlClear
    assumption
    assumption

theorem keeps_execDlClear {m : Mst} {v : Word} {s : State} {kt : State} (ke : execDlClear m v s = .next kt) (hs : Keeps kqu kou kfr s) : Keeps kqu kou kfr kt := by
  simp only [execDlClear, State.done, Host.Outcome.next.injEq] at ke
  subst ke
  with_reducible
    apply keeps_settle
    apply keeps_writeDlCmd
    assumption

theorem keeps_writeLimit (s : State) (m pg v : Nat) (hs : Keeps kqu kou kfr s) : Keeps kqu kou kfr (State.writeLimit s m pg v) := by
  unfold State.writeLimit
  try dsimp only
  with_reducible
    split
    apply keeps_onWrite
    assumption
    intro _
    apply keeps_ite
    assumption
    apply keeps_ite
    apply keeps_refuse
    assumption
    apply keeps_checkBudget
    apply keeps_storeTw
    assumption
    assumption

theorem keeps_execLimitEntryWrite {m : Mst} {pg : Pg} {v : Word} {s : State} {kt : State} (ke : execLimitEntryWrite m pg v s = .next kt) (hs : Keeps kqu kou kfr s) : Keeps kqu kou kfr kt := by
  simp only [execLimitEntryWrite, State.done, Host.Outcome.next.injEq] at ke
  subst ke
  with_reducible
    apply keeps_settle
    apply keeps_writeLimit
    assumption

end Sys2Proof.Machine
end

