-- ==== Sys2Proof/Laws/KeepsSecurity.lean ====
section
/-! SUPPORT. What every operation of Machine/Security.lean keeps. -/

namespace Sys2Proof.Machine

variable {kqu : List Instr} {kou : List Emit} {kfr : Nat}

theorem keeps_setEntryBytes (s : State) (t : Tbl) (i from_ n : Nat) (bs : List Byte) (hs : Keeps kqu kou kfr s) : Keeps kqu kou kfr (State.setEntryBytes s t i from_ n bs) := by
  unfold State.setEntryBytes
  try dsimp only
  with_reducible
    apply keeps_foldl
    intro _
    intro _
    intro _
    apply keeps_setTw
    assumption
    assumption

theorem keeps_setAcl (s : State) (b : Blk) (es : List Nat) (hs : Keeps kqu kou kfr s) : Keeps kqu kou kfr (State.setAcl s b es) := by
  unfold State.setAcl
  try dsimp only
  with_reducible
    apply keeps_foldl
    intro _
    intro _
    intro _
    apply keeps_setReg
    assumption
    assumption

theorem keeps_setRegionAcl (s : State) (r : Nat) (es : List Nat) (hs : Keeps kqu kou kfr s) : Keeps kqu kou kfr (State.setRegionAcl s r es) := by
  unfold State.setRegionAcl
  try dsimp only
  with_reducible
    apply keeps_foldl
    intro _
    intro _
    intro _
    apply keeps_setTw
    assumption
    assumption

theorem keeps_unassignPage (s : State) (b : Blk) (hs : Keeps kqu kou kfr s) : Keeps kqu kou kfr (State.unassignPage s b) := by
  unfold State.unassignPage
  try dsimp only
  with_reducible
    apply keeps_setAcl
    apply keeps_p
    apply keeps_p
    apply keeps_pageReset
    assumption

theorem keeps_unassignRegion (s : State) (r : Nat) (hs : Keeps kqu kou kfr s) : Keeps kqu kou kfr (State.unassignRegion s r) := by
  unfold State.unassignRegion
  try dsimp only
  with_reducible
    apply keeps_pt
    assumption

theorem keeps_tenancy (s : State) (p : Nat) (create : Bool) (hs : Keeps kqu kou kfr s) : Keeps kqu kou kfr (State.tenancy s p create) := by
  unfold State.tenancy
  try dsimp only
  with_reducible
    apply keeps_emit
    assumption

theorem keeps_freePart (s : State) (p : Nat) (hs : Keeps kqu kou kfr s) : Keeps kqu kou kfr (State.freePart s p) := by
  unfold State.freePart
  try dsimp only
  with_reducible
    apply keeps_ite
    apply keeps_tenancy
    apply keeps_pt
    assumption
    assumption

theorem keeps_endChrJobs (s : State) (slot : Nat) (c : Code) (hs : Keeps kqu kou kfr s) : Keeps kqu kou kfr (State.endChrJobs s slot c) := by
  unfold State.endChrJobs
  try dsimp only
  with_reducible
    split
    assumption
    apply keeps_finish
    apply keeps_dropJob
    assumption

theorem keeps_abortUnwrap (s : State) (p : Nat) (hs : Keeps kqu kou kfr s) : Keeps kqu kou kfr (State.abortUnwrap s p) := by
  unfold State.abortUnwrap
  try dsimp only
  with_reducible
    split
    assumption
    apply keeps_endChrJobs
    refine keeps_mk ?_
    apply keeps_zeroSpace
    assumption
    assumption

theorem keeps_releasePart (s : State) (p : Nat) (hs : Keeps kqu kou kfr s) : Keeps kqu kou kfr (State.releasePart s p) := by
  unfold State.releasePart
  try dsimp only
  with_reducible
    apply keeps_freePart
    refine keeps_mk ?_
    apply keeps_pt
    apply keeps_pt
    apply keeps_setEntryBytes
    apply keeps_setEntryBytes
    apply keeps_foldl
    intro _
    intro _
    intro _
    apply keeps_unassignRegion
    assumption
    apply keeps_foldl
    intro _
    intro _
    intro _
    apply keeps_unassignPage
    assumption
    apply keeps_endChrJobs
    apply keeps_abortUnwrap
    apply keeps_partReset
    assumption

theorem keeps_extendLog (s : State) (p keySlot : Nat) (tag : List Byte) (sp a n : Nat) (hs : Keeps kqu kou kfr s) : Keeps kqu kou kfr (State.extendLog s p keySlot tag sp a n) := by
  unfold State.extendLog
  try dsimp only
  with_reducible
    apply keeps_setEntryBytes
    assumption

theorem keeps_chrCreate (s : State) (v : Nat) (hs : Keeps kqu kou kfr s) : Keeps kqu kou kfr (State.chrCreate s v).2 := by
  unfold State.chrCreate
  try dsimp only
  with_reducible
    split
    dsimp only
    assumption
    split
    dsimp only
    assumption
    dsimp only
    apply keeps_tenancy
    refine keeps_mk ?_
    apply keeps_setEntryBytes
    apply keeps_setEntryBytes
    apply keeps_setEntryBytes
    apply keeps_setEntryBytes
    apply keeps_pt
    apply keeps_pt
    apply keeps_drawWide
    assumption

theorem keeps_chrCreate_eq {s : State} {v : Nat} {x0 : Code} {x1 : State} (ke : State.chrCreate s v = (x0, x1)) (hs : Keeps kqu kou kfr s) : Keeps kqu kou kfr x1 := by
  have k := keeps_chrCreate (kqu := kqu) (kou := kou) (kfr := kfr) s v hs
  rw [ke] at k
  exact k

theorem keeps_chrAssign (s : State) (v : Nat) (hs : Keeps kqu kou kfr s) : Keeps kqu kou kfr (State.chrAssign s v).2 := by
  unfold State.chrAssign
  try dsimp only
  with_reducible
    split
    dsimp only
    assumption
    split
    split
    split
    dsimp only
    assumption
    dsimp only
    apply keeps_setAcl
    apply keeps_p
    apply keeps_p
    assumption
    dsimp only
    assumption
    split
    dsimp only
    assumption
    split
    dsimp only
    assumption
    dsimp only
    apply keeps_setRegionAcl
    apply keeps_pt
    apply keeps_pt
    assumption

theorem keeps_chrAssign_eq {s : State} {v : Nat} {x0 : Code} {x1 : State} (ke : State.chrAssign s v = (x0, x1)) (hs : Keeps kqu kou kfr s) : Keeps kqu kou kfr x1 := by
  have k := keeps_chrAssign (kqu := kqu) (kou := kou) (kfr := kfr) s v hs
  rw [ke] at k
  exact k

theorem keeps_chrUnassign (s : State) (v : Nat) (hs : Keeps kqu kou kfr s) : Keeps kqu kou kfr (State.chrUnassign s v).2 := by
  unfold State.chrUnassign
  try dsimp only
  with_reducible
    split
    split
    split
    dsimp only
    assumption
    dsimp only
    apply keeps_unassignPage
    assumption
    dsimp only
    assumption
    split
    dsimp only
    assumption
    split
    dsimp only
    assumption
    dsimp only
    apply keeps_unassignRegion
    assumption

theorem keeps_chrUnassign_eq {s : State} {v : Nat} {x0 : Code} {x1 : State} (ke : State.chrUnassign s v = (x0, x1)) (hs : Keeps kqu kou kfr s) : Keeps kqu kou kfr x1 := by
  have k := keeps_chrUnassign (kqu := kqu) (kou := kou) (kfr := kfr) s v hs
  rw [ke] at k
  exact k

theorem keeps_chrReset (s : State) (slot v : Nat) (hs : Keeps kqu kou kfr s) : Keeps kqu kou kfr (State.chrReset s slot v).2 := by
  unfold State.chrReset
  try dsimp only
  with_reducible
    split
    dsimp only
    assumption
    split
    dsimp only
    assumption
    dsimp only
    apply keeps_partReset
    apply keeps_abortUnwrap
    assumption

theorem keeps_chrReset_eq {s : State} {slot v : Nat} {x0 : Code} {x1 : State} (ke : State.chrReset s slot v = (x0, x1)) (hs : Keeps kqu kou kfr s) : Keeps kqu kou kfr x1 := by
  have k := keeps_chrReset (kqu := kqu) (kou := kou) (kfr := kfr) s slot v hs
  rw [ke] at k
  exact k

theorem keeps_chrRelease (s : State) (v : Nat) (hs : Keeps kqu kou kfr s) : Keeps kqu kou kfr (State.chrRelease s v).2 := by
  unfold State.chrRelease
  try dsimp only
  with_reducible
    split
    dsimp only
    assumption
    dsimp only
    apply keeps_releasePart
    assumption

theorem keeps_chrRelease_eq {s : State} {v : Nat} {x0 : Code} {x1 : State} (ke : State.chrRelease s v = (x0, x1)) (hs : Keeps kqu kou kfr s) : Keeps kqu kou kfr x1 := by
  have k := keeps_chrRelease (kqu := kqu) (kou := kou) (kfr := kfr) s v hs
  rw [ke] at k
  exact k

theorem keeps_chrSetRegion (s : State) (v : Nat) (hs : Keeps kqu kou kfr s) : Keeps kqu kou kfr (State.chrSetRegion s v).2 := by
  unfold State.chrSetRegion
  try dsimp only
  with_reducible
    split
    dsimp only
    assumption
    split
    dsimp only
    assumption
    split
    dsimp only
    assumption
    dsimp only
    apply keeps_setRegionAcl
    apply keeps_setTw
    apply keeps_setTw
    apply keeps_setTw
    assumption

theorem keeps_chrSetRegion_eq {s : State} {v : Nat} {x0 : Code} {x1 : State} (ke : State.chrSetRegion s v = (x0, x1)) (hs : Keeps kqu kou kfr s) : Keeps kqu kou kfr x1 := by
  have k := keeps_chrSetRegion (kqu := kqu) (kou := kou) (kfr := kfr) s v hs
  rw [ke] at k
  exact k

theorem keeps_chrSetAcl (s : State) (v : Nat) (hs : Keeps kqu kou kfr s) : Keeps kqu kou kfr (State.chrSetAcl s v).2 := by
  unfold State.chrSetAcl
  try dsimp only
  with_reducible
    split
    dsimp only
    assumption
    split
    dsimp only
    assumption
    dsimp only
    apply keeps_setAcl
    assumption

theorem keeps_chrSetAcl_eq {s : State} {v : Nat} {x0 : Code} {x1 : State} (ke : State.chrSetAcl s v = (x0, x1)) (hs : Keeps kqu kou kfr s) : Keeps kqu kou kfr x1 := by
  have k := keeps_chrSetAcl (kqu := kqu) (kou := kou) (kfr := kfr) s v hs
  rw [ke] at k
  exact k

theorem keeps_chrKeyImport (s : State) (slot : Nat) (hs : Keeps kqu kou kfr s) : Keeps kqu kou kfr (State.chrKeyImport s slot).2 := by
  unfold State.chrKeyImport
  try dsimp only
  with_reducible
    split
    dsimp only
    assumption
    split
    dsimp only
    apply keeps_raise
    assumption
    split
    dsimp only
    apply keeps_raise
    assumption
    split
    dsimp only
    apply keeps_raise
    assumption
    dsimp only
    apply keeps_extendLog
    apply keeps_setEntryBytes
    assumption

theorem keeps_chrKeyImport_eq {s : State} {slot : Nat} {x0 : Code} {x1 : State} (ke : State.chrKeyImport s slot = (x0, x1)) (hs : Keeps kqu kou kfr s) : Keeps kqu kou kfr x1 := by
  have k := keeps_chrKeyImport (kqu := kqu) (kou := kou) (kfr := kfr) s slot hs
  rw [ke] at k
  exact k

theorem keeps_chrUnwrap (s : State) (m slot : Nat) (hs : Keeps kqu kou kfr s) : Keeps kqu kou kfr (State.chrUnwrap s m slot).2 := by
  unfold State.chrUnwrap
  try dsimp only
  with_reducible
    split
    dsimp only
    apply keeps_memDenied
    assumption
    split
    dsimp only
    assumption
    split
    dsimp only
    assumption
    split
    dsimp only
    assumption
    split
    dsimp only
    apply keeps_raise
    apply keeps_zeroSpace
    refine keeps_mk ?_
    assumption
    refine keeps_mk ?_
    assumption
    dsimp only
    apply keeps_extendLog
    apply keeps_writeSpace
    refine keeps_mk ?_
    assumption

theorem keeps_chrUnwrap_eq {s : State} {m slot : Nat} {x0 : Code} {x1 : State} (ke : State.chrUnwrap s m slot = (x0, x1)) (hs : Keeps kqu kou kfr s) : Keeps kqu kou kfr x1 := by
  have k := keeps_chrUnwrap (kqu := kqu) (kou := kou) (kfr := kfr) s m slot hs
  rw [ke] at k
  exact k

theorem keeps_chrAttest (s : State) (m slot v : Nat) (hs : Keeps kqu kou kfr s) : Keeps kqu kou kfr (State.chrAttest s m slot v).2 := by
  unfold State.chrAttest
  try dsimp only
  with_reducible
    split
    dsimp only
    assumption
    split
    dsimp only
    apply keeps_memDenied
    assumption
    split
    dsimp only
    assumption
    split
    dsimp only
    assumption
    dsimp only
    apply keeps_writeBuf
    assumption

theorem keeps_chrAttest_eq {s : State} {m slot v : Nat} {x0 : Code} {x1 : State} (ke : State.chrAttest s m slot v = (x0, x1)) (hs : Keeps kqu kou kfr s) : Keeps kqu kou kfr x1 := by
  have k := keeps_chrAttest (kqu := kqu) (kou := kou) (kfr := kfr) s m slot v hs
  rw [ke] at k
  exact k

theorem keeps_chrClaim (s : State) (hs : Keeps kqu kou kfr s) : Keeps kqu kou kfr (State.chrClaim s).2 := by
  unfold State.chrClaim
  try dsimp only
  with_reducible
    split
    dsimp only
    assumption
    dsimp only
    apply keeps_raise
    apply keeps_add
    apply keeps_p
    apply keeps_setWide
    refine keeps_mk ?_
    assumption

theorem keeps_chrClaim_eq {s : State} {x0 : Code} {x1 : State} (ke : State.chrClaim s = (x0, x1)) (hs : Keeps kqu kou kfr s) : Keeps kqu kou kfr x1 := by
  have k := keeps_chrClaim (kqu := kqu) (kou := kou) (kfr := kfr) s hs
  rw [ke] at k
  exact k

theorem keeps_refuseToken (s : State) (hs : Keeps kqu kou kfr s) : Keeps kqu kou kfr (State.refuseToken s) := by
  unfold State.refuseToken
  try dsimp only
  with_reducible
    apply keeps_raise
    apply keeps_inc
    assumption

theorem keeps_spendToken (s : State) (hs : Keeps kqu kou kfr s) : Keeps kqu kou kfr (State.spendToken s) := by
  unfold State.spendToken
  try dsimp only
  with_reducible
    refine keeps_mk ?_
    assumption

theorem keeps_zeroAll (s : State) (hs : Keeps kqu kou kfr s) : Keeps kqu kou kfr s.zeroAll :=
  ⟨hs.queue, hs.out, hs.fresh, hs.wf.regs, hs.wf.tabs, rfl, rfl, rfl, hs.wf.host⟩

theorem keeps_lifeToken (s : State) (tok : List Byte) (hs : Keeps kqu kou kfr s) : Keeps kqu kou kfr (State.lifeToken s tok).2 := by
  unfold State.lifeToken
  try dsimp only
  with_reducible
    split
    dsimp only
    apply keeps_refuseToken
    assumption
    split
    split
    dsimp only
    apply keeps_refuseToken
    assumption
    dsimp only
    apply keeps_raise
    apply keeps_add
    apply keeps_p
    apply keeps_ite
    apply keeps_setWide
    refine keeps_mk ?_
    apply keeps_foldl
    intro _
    intro _
    intro _
    apply keeps_ite
    apply keeps_releasePart
    assumption
    assumption
    apply keeps_spendToken
    assumption
    apply keeps_zeroAll
    apply keeps_spendToken
    assumption
    split
    dsimp only
    apply keeps_refuseToken
    assumption
    dsimp only
    apply keeps_raise
    apply keeps_add
    apply keeps_p
    apply keeps_ite
    apply keeps_setWide
    refine keeps_mk ?_
    apply keeps_foldl
    intro _
    intro _
    intro _
    apply keeps_ite
    apply keeps_releasePart
    assumption
    assumption
    apply keeps_spendToken
    assumption
    apply keeps_zeroAll
    apply keeps_spendToken
    assumption

theorem keeps_lifeToken_eq {s : State} {tok : List Byte} {x0 : Code} {x1 : State} (ke : State.lifeToken s tok = (x0, x1)) (hs : Keeps kqu kou kfr s) : Keeps kqu kou kfr x1 := by
  have k := keeps_lifeToken (kqu := kqu) (kou := kou) (kfr := kfr) s tok hs
  rw [ke] at k
  exact k

theorem keeps_chrLifecycle (s : State) (hs : Keeps kqu kou kfr s) : Keeps kqu kou kfr (State.chrLifecycle s).2 := by
  unfold State.chrLifecycle
  try dsimp only
  with_reducible
    apply keeps_lifeToken
    assumption

theorem keeps_chrLifecycle_eq {s : State} {x0 : Code} {x1 : State} (ke : State.chrLifecycle s = (x0, x1)) (hs : Keeps kqu kou kfr s) : Keeps kqu kou kfr x1 := by
  have k := keeps_chrLifecycle (kqu := kqu) (kou := kou) (kfr := kfr) s hs
  rw [ke] at k
  exact k

theorem keeps_newChallenge (s : State) (hs : Keeps kqu kou kfr s) : Keeps kqu kou kfr (State.newChallenge s).2 := by
  unfold State.newChallenge
  try dsimp only
  with_reducible
    refine keeps_mk ?_
    apply keeps_drawWide
    assumption

theorem keeps_newChallenge_eq {s : State} {x0 : List Byte} {x1 : State} (ke : State.newChallenge s = (x0, x1)) (hs : Keeps kqu kou kfr s) : Keeps kqu kou kfr x1 := by
  have k := keeps_newChallenge (kqu := kqu) (kou := kou) (kfr := kfr) s hs
  rw [ke] at k
  exact k

theorem keeps_chrChallenge (s : State) (m slot : Nat) (hs : Keeps kqu kou kfr s) : Keeps kqu kou kfr (State.chrChallenge s m slot).2 := by
  unfold State.chrChallenge
  try dsimp only
  with_reducible
    split
    dsimp only
    apply keeps_memDenied
    assumption
    split
    dsimp only
    assumption
    split
    dsimp only
    assumption
    dsimp only
    apply keeps_writeBuf
    apply keeps_newChallenge
    assumption

theorem keeps_chrChallenge_eq {s : State} {m slot : Nat} {x0 : Code} {x1 : State} (ke : State.chrChallenge s m slot = (x0, x1)) (hs : Keeps kqu kou kfr s) : Keeps kqu kou kfr x1 := by
  have k := keeps_chrChallenge (kqu := kqu) (kou := kou) (kfr := kfr) s m slot hs
  rw [ke] at k
  exact k

theorem keeps_chrPutCert (s : State) (v : Nat) (hs : Keeps kqu kou kfr s) : Keeps kqu kou kfr (State.chrPutCert s v).2 := by
  unfold State.chrPutCert
  try dsimp only
  with_reducible
    split
    dsimp only
    assumption
    split
    dsimp only
    assumption
    dsimp only
    apply keeps_setEntryBytes
    assumption

theorem keeps_chrPutCert_eq {s : State} {v : Nat} {x0 : Code} {x1 : State} (ke : State.chrPutCert s v = (x0, x1)) (hs : Keeps kqu kou kfr s) : Keeps kqu kou kfr x1 := by
  have k := keeps_chrPutCert (kqu := kqu) (kou := kou) (kfr := kfr) s v hs
  rw [ke] at k
  exact k

theorem keeps_chrRun (s : State) (m slot v : Nat) (hs : Keeps kqu kou kfr s) : Keeps kqu kou kfr (State.chrRun s m slot v).2 := by
  unfold State.chrRun
  try dsimp only
  with_reducible
    split
    apply keeps_chrCreate
    assumption
    apply keeps_chrAssign
    assumption
    apply keeps_chrUnassign
    assumption
    apply keeps_chrReset
    assumption
    apply keeps_chrRelease
    assumption
    apply keeps_chrSetRegion
    assumption
    apply keeps_chrSetAcl
    assumption
    apply keeps_chrKeyImport
    assumption
    apply keeps_chrUnwrap
    assumption
    apply keeps_chrAttest
    assumption
    apply keeps_chrClaim
    assumption
    apply keeps_chrLifecycle
    assumption
    apply keeps_chrChallenge
    assumption
    apply keeps_chrPutCert
    assumption

theorem keeps_chrRun_eq {s : State} {m slot v : Nat} {x0 : Code} {x1 : State} (ke : State.chrRun s m slot v = (x0, x1)) (hs : Keeps kqu kou kfr s) : Keeps kqu kou kfr x1 := by
  have k := keeps_chrRun (kqu := kqu) (kou := kou) (kfr := kfr) s m slot v hs
  rw [ke] at k
  exact k

theorem keeps_chrCommand (s : State) (m slot v : Nat) (hs : Keeps kqu kou kfr s) : Keeps kqu kou kfr (State.chrCommand s m slot v) := by
  unfold State.chrCommand
  try dsimp only
  with_reducible
    apply keeps_ite
    assumption
    apply keeps_onWrite
    assumption
    intro _
    apply keeps_ite
    apply keeps_refuse
    assumption
    apply keeps_ite
    apply keeps_refuse
    assumption
    apply keeps_ite
    apply keeps_refuse
    assumption
    apply keeps_ite
    apply keeps_refuseOp
    assumption
    split
    apply keeps_finish
    apply keeps_ite
    apply keeps_refuse
    split
    dsimp only
    assumption
    apply keeps_chrRun
    assumption
    split
    dsimp only
    assumption
    apply keeps_chrRun
    assumption
    apply keeps_addJob
    apply keeps_setBusy
    apply keeps_ite
    apply keeps_refuse
    split
    dsimp only
    assumption
    apply keeps_chrRun
    assumption
    split
    dsimp only
    assumption
    apply keeps_chrRun
    assumption

theorem keeps_execCreate {m : Mst} {slot : ChrSlot} {v : Word} {s : State} {kt : State} (ke : execCreate m slot v s = .next kt) (hs : Keeps kqu kou kfr s) : Keeps kqu kou kfr kt := by
  simp only [execCreate, State.done, Host.Outcome.next.injEq] at ke
  subst ke
  with_reducible
    apply keeps_settle
    apply keeps_chrCommand
    assumption

theorem keeps_execAssign {m : Mst} {slot : ChrSlot} {v : Word} {s : State} {kt : State} (ke : execAssign m slot v s = .next kt) (hs : Keeps kqu kou kfr s) : Keeps kqu kou kfr kt := by
  simp only [execAssign, State.done, Host.Outcome.next.injEq] at ke
  subst ke
  with_reducible
    apply keeps_settle
    apply keeps_chrCommand
    assumption

theorem keeps_execUnassign {m : Mst} {slot : ChrSlot} {v : Word} {s : State} {kt : State} (ke : execUnassign m slot v s = .next kt) (hs : Keeps kqu kou kfr s) : Keeps kqu kou kfr kt := by
  simp only [execUnassign, State.done, Host.Outcome.next.injEq] at ke
  subst ke
  with_reducible
    apply keeps_settle
    apply keeps_chrCommand
    assumption

theorem keeps_execPartitionReset {m : Mst} {slot : ChrSlot} {v : Word} {s : State} {kt : State} (ke : execPartitionReset m slot v s = .next kt) (hs : Keeps kqu kou kfr s) : Keeps kqu kou kfr kt := by
  simp only [execPartitionReset, State.done, Host.Outcome.next.injEq] at ke
  subst ke
  with_reducible
    apply keeps_settle
    apply keeps_chrCommand
    assumption

theorem keeps_execRelease {m : Mst} {slot : ChrSlot} {v : Word} {s : State} {kt : State} (ke : execRelease m slot v s = .next kt) (hs : Keeps kqu kou kfr s) : Keeps kqu kou kfr kt := by
  simp only [execRelease, State.done, Host.Outcome.next.injEq] at ke
  subst ke
  with_reducible
    apply keeps_settle
    apply keeps_chrCommand
    assumption

theorem keeps_execSetRegion {m : Mst} {slot : ChrSlot} {v : Word} {s : State} {kt : State} (ke : execSetRegion m slot v s = .next kt) (hs : Keeps kqu kou kfr s) : Keeps kqu kou kfr kt := by
  simp only [execSetRegion, State.done, Host.Outcome.next.injEq] at ke
  subst ke
  with_reducible
    apply keeps_settle
    apply keeps_chrCommand
    assumption

theorem keeps_execSetAcl {m : Mst} {slot : ChrSlot} {v : Word} {s : State} {kt : State} (ke : execSetAcl m slot v s = .next kt) (hs : Keeps kqu kou kfr s) : Keeps kqu kou kfr kt := by
  simp only [execSetAcl, State.done, Host.Outcome.next.injEq] at ke
  subst ke
  with_reducible
    apply keeps_settle
    apply keeps_chrCommand
    assumption

theorem keeps_execKeyImport {m : Mst} {slot : ChrSlot} {v : Word} {s : State} {kt : State} (ke : execKeyImport m slot v s = .next kt) (hs : Keeps kqu kou kfr s) : Keeps kqu kou kfr kt := by
  simp only [execKeyImport, State.done, Host.Outcome.next.injEq] at ke
  subst ke
  with_reducible
    apply keeps_settle
    apply keeps_chrCommand
    assumption

theorem keeps_execUnwrap {m : Mst} {slot : ChrSlot} {v : Word} {s : State} {kt : State} (ke : execUnwrap m slot v s = .next kt) (hs : Keeps kqu kou kfr s) : Keeps kqu kou kfr kt := by
  simp only [execUnwrap, State.done, Host.Outcome.next.injEq] at ke
  subst ke
  with_reducible
    apply keeps_settle
    apply keeps_chrCommand
    assumption

theorem keeps_execAttest {m : Mst} {slot : ChrSlot} {v : Word} {s : State} {kt : State} (ke : execAttest m slot v s = .next kt) (hs : Keeps kqu kou kfr s) : Keeps kqu kou kfr kt := by
  simp only [execAttest, State.done, Host.Outcome.next.injEq] at ke
  subst ke
  with_reducible
    apply keeps_settle
    apply keeps_chrCommand
    assumption

theorem keeps_execClaimOwner {m : Mst} {slot : ChrSlot} {v : Word} {s : State} {kt : State} (ke : execClaimOwner m slot v s = .next kt) (hs : Keeps kqu kou kfr s) : Keeps kqu kou kfr kt := by
  simp only [execClaimOwner, State.done, Host.Outcome.next.injEq] at ke
  subst ke
  with_reducible
    apply keeps_settle
    apply keeps_chrCommand
    assumption

theorem keeps_execLifecycle {m : Mst} {slot : ChrSlot} {v : Word} {s : State} {kt : State} (ke : execLifecycle m slot v s = .next kt) (hs : Keeps kqu kou kfr s) : Keeps kqu kou kfr kt := by
  simp only [execLifecycle, State.done, Host.Outcome.next.injEq] at ke
  subst ke
  with_reducible
    apply keeps_settle
    apply keeps_chrCommand
    assumption

theorem keeps_execChrChallenge {m : Mst} {slot : ChrSlot} {v : Word} {s : State} {kt : State} (ke : execChrChallenge m slot v s = .next kt) (hs : Keeps kqu kou kfr s) : Keeps kqu kou kfr kt := by
  simp only [execChrChallenge, State.done, Host.Outcome.next.injEq] at ke
  subst ke
  with_reducible
    apply keeps_settle
    apply keeps_chrCommand
    assumption

theorem keeps_execPutCert {m : Mst} {slot : ChrSlot} {v : Word} {s : State} {kt : State} (ke : execPutCert m slot v s = .next kt) (hs : Keeps kqu kou kfr s) : Keeps kqu kou kfr kt := by
  simp only [execPutCert, State.done, Host.Outcome.next.injEq] at ke
  subst ke
  with_reducible
    apply keeps_settle
    apply keeps_chrCommand
    assumption

theorem keeps_tookTurn (s : State) (e slot : Nat) (hs : Keeps kqu kou kfr s) : Keeps kqu kou kfr (State.tookTurn s e slot) := by
  unfold State.tookTurn
  try dsimp only
  with_reducible
    refine keeps_mk ?_
    assumption

theorem keeps_chrDone (s : State) (e : Nat) (hs : Keeps kqu kou kfr s) : Keeps kqu kou kfr (State.chrDone s e) := by
  unfold State.chrDone
  try dsimp only
  with_reducible
    split
    assumption
    split
    assumption
    apply keeps_tookTurn
    apply keeps_finish
    apply keeps_dropJob
    assumption

theorem keeps_execChrCmdDone {engine : BitVec 2} {s : State} {kt : State} (ke : execChrCmdDone engine s = .next kt) (hs : Keeps kqu kou kfr s) : Keeps kqu kou kfr kt := by
  simp only [execChrCmdDone, State.done, Host.Outcome.next.injEq] at ke
  subst ke
  with_reducible
    apply keeps_chrDone
    assumption

theorem keeps_eraseFailed (s : State) (r : Nat) (hs : Keeps kqu kou kfr s) : Keeps kqu kou kfr (State.eraseFailed s r) := by
  unfold State.eraseFailed
  try dsimp only
  with_reducible
    apply keeps_raise
    refine keeps_mk ?_
    assumption

theorem keeps_execRegionZeroed {r : BitVec 10} {ok : Bool} {s : State} {kt : State} (ke : execRegionZeroed r ok s = .next kt) (hs : Keeps kqu kou kfr s) : Keeps kqu kou kfr kt := by
  simp only [execRegionZeroed, State.done, Host.Outcome.next.injEq] at ke
  subst ke
  with_reducible
    apply keeps_settle
    apply keeps_ite
    assumption
    apply keeps_ite
    apply keeps_eraseFailed
    assumption
    apply keeps_freePart
    apply keeps_setRegionAcl
    apply keeps_setTw
    apply keeps_zeroSpace
    assumption
    assumption

theorem keeps_entropyLost (s : State) (hs : Keeps kqu kou kfr s) : Keeps kqu kou kfr (State.entropyLost s) := by
  unfold State.entropyLost
  try dsimp only
  with_reducible
    refine keeps_mk ?_
    assumption

theorem keeps_execEntropyFail {s : State} {kt : State} (ke : execEntropyFail s = .next kt) (hs : Keeps kqu kou kfr s) : Keeps kqu kou kfr kt := by
  simp only [execEntropyFail, State.done, Host.Outcome.next.injEq] at ke
  subst ke
  with_reducible
    apply keeps_settle
    apply keeps_raise
    apply keeps_entropyLost
    assumption

end Sys2Proof.Machine
end

