-- ==== Sys2Proof/Laws/KeepsFirmware.lean ====
section
/-! SUPPORT. What every operation of Machine/Firmware.lean keeps. -/

namespace Sys2Proof.Machine

variable {kqu : List Instr} {kou : List Emit} {kfr : Nat}

theorem keeps_setSlot (s : State) (b : Blk) (slot : Nat) (img : Option Image) (hs : Keeps kqu kou kfr s) : Keeps kqu kou kfr (State.setSlot s b slot img) := by
  unfold State.setSlot
  try dsimp only
  with_reducible
    apply keeps_ite
    apply keeps_setWide
    apply keeps_p
    apply keeps_p
    apply keeps_p
    assumption
    apply keeps_setWide
    apply keeps_p
    apply keeps_p
    apply keeps_p
    assumption

theorem keeps_fwRestart (s : State) (b : Blk) (slot : Nat) (hs : Keeps kqu kou kfr s) : Keeps kqu kou kfr (State.fwRestart s b slot) := by
  unfold State.fwRestart
  try dsimp only
  with_reducible
    apply keeps_ite
    refine keeps_mk ?_
    apply keeps_inc
    apply keeps_p
    apply keeps_p
    apply keeps_p
    assumption
    apply keeps_ite
    apply keeps_setSt
    apply keeps_inc
    apply keeps_p
    apply keeps_p
    apply keeps_p
    assumption
    apply keeps_inc
    apply keeps_p
    apply keeps_p
    apply keeps_p
    assumption

theorem keeps_fwRun (s : State) (m : Nat) (b : Blk) (v : Nat) (hs : Keeps kqu kou kfr s) : Keeps kqu kou kfr (State.fwRun s m b v).2 := by
  unfold State.fwRun
  try dsimp only
  with_reducible
    split
    dsimp only
    refine keeps_mk ?_
    apply keeps_setSlot
    assumption
    split
    dsimp only
    assumption
    dsimp only
    apply keeps_fwRestart
    apply keeps_p
    assumption
    split
    dsimp only
    apply keeps_ite
    apply keeps_foldl
    intro _
    intro _
    intro _
    apply keeps_p
    assumption
    apply keeps_p
    apply keeps_p
    assumption
    apply keeps_p
    apply keeps_p
    assumption
    dsimp only
    assumption
    dsimp only
    apply keeps_fwRestart
    apply keeps_p
    assumption
    dsimp only
    apply keeps_setSlot
    apply keeps_p
    assumption
    split
    dsimp only
    assumption
    dsimp only
    apply keeps_fwRestart
    assumption
    dsimp only
    assumption

theorem keeps_fwRun_eq {s : State} {m : Nat} {b : Blk} {v : Nat} {x0 : Code} {x1 : State} (ke : State.fwRun s m b v = (x0, x1)) (hs : Keeps kqu kou kfr s) : Keeps kqu kou kfr x1 := by
  have k := keeps_fwRun (kqu := kqu) (kou := kou) (kfr := kfr) s m b v hs
  rw [ke] at k
  exact k

theorem keeps_fwCommand (s : State) (m pg v : Nat) (hs : Keeps kqu kou kfr s) : Keeps kqu kou kfr (State.fwCommand s m pg v) := by
  unfold State.fwCommand
  try dsimp only
  with_reducible
    split
    assumption
    apply keeps_ite
    assumption
    apply keeps_onWrite
    assumption
    intro _
    apply keeps_ite
    apply keeps_refuse
    assumption
    apply keeps_ite
    apply keeps_refuseOp
    assumption
    apply keeps_ite
    apply keeps_finish
    apply keeps_refuse
    split
    dsimp only
    apply keeps_memDenied
    assumption
    apply keeps_fwRun
    assumption
    apply keeps_ite
    apply keeps_setBusy
    split
    dsimp only
    apply keeps_memDenied
    assumption
    apply keeps_fwRun
    assumption
    apply keeps_finish
    split
    dsimp only
    apply keeps_memDenied
    assumption
    apply keeps_fwRun
    assumption

theorem keeps_execFwWrite {m : Mst} {pg : Pg} {v : Word} {s : State} {kt : State} (ke : execFwWrite m pg v s = .next kt) (hs : Keeps kqu kou kfr s) : Keeps kqu kou kfr kt := by
  simp only [execFwWrite, State.done, Host.Outcome.next.injEq] at ke
  subst ke
  with_reducible
    apply keeps_settle
    apply keeps_fwCommand
    assumption

theorem keeps_execActivate {m : Mst} {pg : Pg} {v : Word} {s : State} {kt : State} (ke : execActivate m pg v s = .next kt) (hs : Keeps kqu kou kfr s) : Keeps kqu kou kfr kt := by
  simp only [execActivate, State.done, Host.Outcome.next.injEq] at ke
  subst ke
  with_reducible
    apply keeps_settle
    apply keeps_fwCommand
    assumption

theorem keeps_execCommit {m : Mst} {pg : Pg} {v : Word} {s : State} {kt : State} (ke : execCommit m pg v s = .next kt) (hs : Keeps kqu kou kfr s) : Keeps kqu kou kfr kt := by
  simp only [execCommit, State.done, Host.Outcome.next.injEq] at ke
  subst ke
  with_reducible
    apply keeps_settle
    apply keeps_fwCommand
    assumption

theorem keeps_execRollback {m : Mst} {pg : Pg} {v : Word} {s : State} {kt : State} (ke : execRollback m pg v s = .next kt) (hs : Keeps kqu kou kfr s) : Keeps kqu kou kfr kt := by
  simp only [execRollback, State.done, Host.Outcome.next.injEq] at ke
  subst ke
  with_reducible
    apply keeps_settle
    apply keeps_fwCommand
    assumption

theorem keeps_execDiscard {m : Mst} {pg : Pg} {v : Word} {s : State} {kt : State} (ke : execDiscard m pg v s = .next kt) (hs : Keeps kqu kou kfr s) : Keeps kqu kou kfr kt := by
  simp only [execDiscard, State.done, Host.Outcome.next.injEq] at ke
  subst ke
  with_reducible
    apply keeps_settle
    apply keeps_fwCommand
    assumption

theorem keeps_execRestart {m : Mst} {pg : Pg} {v : Word} {s : State} {kt : State} (ke : execRestart m pg v s = .next kt) (hs : Keeps kqu kou kfr s) : Keeps kqu kou kfr kt := by
  simp only [execRestart, State.done, Host.Outcome.next.injEq] at ke
  subst ke
  with_reducible
    apply keeps_settle
    apply keeps_fwCommand
    assumption

theorem keeps_endWrite (s : State) (b : Blk) (j : Job) (hs : Keeps kqu kou kfr s) : Keeps kqu kou kfr (State.endWrite s b j) := by
  unfold State.endWrite
  try dsimp only
  with_reducible
    apply keeps_ite
    apply keeps_p
    apply keeps_setSlot
    assumption
    apply keeps_setSlot
    assumption

theorem keeps_execFwWriteDone {pg : Pg} {s : State} {kt : State} (ke : execFwWriteDone pg s = .next kt) (hs : Keeps kqu kou kfr s) : Keeps kqu kou kfr kt := by
  simp only [execFwWriteDone, State.done, Host.Outcome.next.injEq] at ke
  subst ke
  with_reducible
    apply keeps_settle
    split
    assumption
    split
    assumption
    apply keeps_finish
    apply keeps_ite
    apply keeps_refuse
    apply keeps_endWrite
    apply keeps_dropJob
    assumption
    apply keeps_endWrite
    apply keeps_dropJob
    assumption

theorem keeps_thxServes (s : State) (hs : Keeps kqu kou kfr s) : Keeps kqu kou kfr (State.thxServes s) := by
  unfold State.thxServes
  try dsimp only
  with_reducible
    refine keeps_mk ?_
    assumption

theorem keeps_execFwReady {pg : Pg} {s : State} {kt : State} (ke : execFwReady pg s = .next kt) (hs : Keeps kqu kou kfr s) : Keeps kqu kou kfr kt := by
  simp only [execFwReady, State.done, Host.Outcome.next.injEq] at ke
  subst ke
  with_reducible
    apply keeps_settle
    split
    assumption
    apply keeps_ite
    apply keeps_thxServes
    apply keeps_p
    assumption
    apply keeps_followAll
    apply keeps_trained
    apply keeps_p
    assumption

theorem keeps_execFwTrialTimeout {pg : Pg} {s : State} {kt : State} (ke : execFwTrialTimeout pg s = .next kt) (hs : Keeps kqu kou kfr s) : Keeps kqu kou kfr kt := by
  simp only [execFwTrialTimeout, State.done, Host.Outcome.next.injEq] at ke
  subst ke
  with_reducible
    apply keeps_settle
    split
    assumption
    apply keeps_ite
    apply keeps_raise
    apply keeps_inc
    apply keeps_fwRestart
    apply keeps_p
    assumption
    assumption

end Sys2Proof.Machine
end

