-- ==== Sys2Proof/Laws/KeepsPower.lean ====
section
/-! SUPPORT. What every operation of Machine/Power.lean keeps. -/

namespace Sys2Proof.Machine

variable {kqu : List Instr} {kou : List Emit} {kfr : Nat}

theorem keeps_enterRecovery (s : State) (cause failed : Nat) (hs : Keeps kqu kou kfr s) : Keeps kqu kou kfr (State.enterRecovery s cause failed) := by
  unfold State.enterRecovery
  try dsimp only
  with_reducible
    refine keeps_mk ?_
    assumption

theorem keeps_noteBad (s : State) (bad : List Nat) (hs : Keeps kqu kou kfr s) : Keeps kqu kou kfr (State.noteBad s bad) := by
  unfold State.noteBad
  try dsimp only
  with_reducible
    refine keeps_mk ?_
    assumption

theorem keeps_runSlot (s : State) (b : Blk) (sl : Nat) (hs : Keeps kqu kou kfr s) : Keeps kqu kou kfr (State.runSlot s b sl) := by
  unfold State.runSlot
  try dsimp only
  with_reducible
    apply keeps_p
    apply keeps_p
    apply keeps_ite
    assumption
    apply keeps_inc
    assumption

theorem keeps_bootSteward (s : State) (b : Blk) (unit : Nat) (hs : Keeps kqu kou kfr s) : Keeps kqu kou kfr (State.bootSteward s b unit) := by
  unfold State.bootSteward
  try dsimp only
  with_reducible
    split
    apply keeps_runSlot
    assumption
    split
    apply keeps_enterRecovery
    apply keeps_raise
    assumption
    apply keeps_enterRecovery
    apply keeps_raise
    assumption
    apply keeps_ite
    apply keeps_raise
    assumption
    refine keeps_mk ?_
    apply keeps_raise
    assumption

theorem keeps_startBoot (s : State) (hs : Keeps kqu kou kfr s) : Keeps kqu kou kfr (State.startBoot s) := by
  unfold State.startBoot
  try dsimp only
  with_reducible
    refine keeps_mk ?_
    assumption

theorem keeps_setPwrgd (s : State) (v : Bool) (hs : Keeps kqu kou kfr s) : Keeps kqu kou kfr (State.setPwrgd s v) := by
  unfold State.setPwrgd
  try dsimp only
  with_reducible
    refine keeps_mk ?_
    assumption

theorem keeps_setResetN (s : State) (v : Bool) (hs : Keeps kqu kou kfr s) : Keeps kqu kou kfr (State.setResetN s v) := by
  unfold State.setResetN
  try dsimp only
  with_reducible
    refine keeps_mk ?_
    assumption

theorem keeps_pinsHigh (s : State) (hs : Keeps kqu kou kfr s) : Keeps kqu kou kfr (State.pinsHigh s) := by
  unfold State.pinsHigh
  try dsimp only
  with_reducible
    refine keeps_mk ?_
    assumption

theorem keeps_noBoot (s : State) (hs : Keeps kqu kou kfr s) : Keeps kqu kou kfr (State.noBoot s) := by
  unfold State.noBoot
  try dsimp only
  with_reducible
    refine keeps_mk ?_
    assumption

theorem keeps_execPwrgdRise {s : State} {kt : State} (ke : execPwrgdRise s = .next kt) (hs : Keeps kqu kou kfr s) : Keeps kqu kou kfr kt := by
  simp only [execPwrgdRise, State.done, Host.Outcome.next.injEq] at ke
  subst ke
  with_reducible
    apply keeps_ite
    assumption
    apply keeps_ite
    apply keeps_startBoot
    apply keeps_setPwrgd
    assumption
    apply keeps_setPwrgd
    assumption

theorem keeps_execPwrgdFall {s : State} {kt : State} (ke : execPwrgdFall s = .next kt) (hs : Keeps kqu kou kfr s) : Keeps kqu kou kfr kt := by
  simp only [execPwrgdFall, State.done, Host.Outcome.next.injEq] at ke
  subst ke
  with_reducible
    apply keeps_noBoot
    apply keeps_pinsHigh
    apply keeps_setPwrgd
    apply keeps_deviceReset
    assumption

theorem keeps_execResetN {level : Bool} {s kt : State} (ke : execResetN level s = .next kt) (hs : Keeps kqu kou kfr s) : Keeps kqu kou kfr kt := by
  unfold execResetN at ke
  split at ke
  · simp only [Host.Outcome.next.injEq] at ke
    subst ke
    try dsimp only
    with_reducible
      apply keeps_ite
      assumption
      apply keeps_ite
      apply keeps_startBoot
      apply keeps_setResetN
      assumption
      apply keeps_setResetN
      assumption
  · simp only [Host.Outcome.next.injEq] at ke
    subst ke
    try dsimp only
    with_reducible
      apply keeps_noBoot
      apply keeps_setResetN
      apply keeps_deviceReset
      assumption

theorem keeps_fellBack (s : State) (hs : Keeps kqu kou kfr s) : Keeps kqu kou kfr (State.fellBack s) := by
  unfold State.fellBack
  try dsimp only
  with_reducible
    apply keeps_p
    assumption

theorem keeps_bootThorax (s : State) (hs : Keeps kqu kou kfr s) : Keeps kqu kou kfr (State.bootThorax s) := by
  unfold State.bootThorax
  try dsimp only
  with_reducible
    split
    apply keeps_enterRecovery
    assumption
    apply keeps_runSlot
    apply keeps_ite
    assumption
    apply keeps_fellBack
    assumption

theorem keeps_bootConfig (s : State) (hs : Keeps kqu kou kfr s) : Keeps kqu kou kfr (State.bootConfig s) := by
  unfold State.bootConfig
  try dsimp only
  with_reducible
    apply keeps_ite
    refine keeps_mk ?_
    assumption
    apply keeps_ite
    refine keeps_mk ?_
    assumption
    apply keeps_enterRecovery
    assumption

theorem keeps_bootAlias (s : State) (hs : Keeps kqu kou kfr s) : Keeps kqu kou kfr (State.bootAlias s) := by
  unfold State.bootAlias
  try dsimp only
  with_reducible
    apply keeps_setEntryBytes
    refine keeps_mk ?_
    apply keeps_drawWide
    assumption

theorem keeps_setDone (s : State) (n : Nat) (hs : Keeps kqu kou kfr s) : Keeps kqu kou kfr (State.setDone s n) := by
  unfold State.setDone
  try dsimp only
  with_reducible
    refine keeps_mk ?_
    assumption

theorem keeps_pickSlots (s : State) (bad : List Nat) (hs : Keeps kqu kou kfr s) : Keeps kqu kou kfr (State.pickSlots s bad) := by
  unfold State.pickSlots
  try dsimp only
  with_reducible
    apply keeps_foldl
    intro _
    intro _
    intro _
    apply keeps_bootSteward
    assumption
    apply keeps_bootConfig
    apply keeps_bootThorax
    apply keeps_add
    apply keeps_noteBad
    assumption

theorem keeps_instar0 (s : State) (bad : List Nat) (hs : Keeps kqu kou kfr s) : Keeps kqu kou kfr (State.instar0 s bad) := by
  unfold State.instar0
  try dsimp only
  with_reducible
    apply keeps_ite
    apply keeps_bootAlias
    apply keeps_pickSlots
    assumption
    apply keeps_setDone
    apply keeps_p
    apply keeps_bootAlias
    apply keeps_pickSlots
    assumption

theorem keeps_execInstar0 {bad : List (BitVec 8)} {s : State} {kt : State} (ke : execInstar0 bad s = .next kt) (hs : Keeps kqu kou kfr s) : Keeps kqu kou kfr kt := by
  simp only [execInstar0, State.done, Host.Outcome.next.injEq] at ke
  subst ke
  with_reducible
    apply keeps_settle
    apply keeps_ite
    apply keeps_instar0
    assumption
    assumption

theorem keeps_enableTrained (s : State) (bs : List Blk) (hs : Keeps kqu kou kfr s) : Keeps kqu kou kfr (State.enableTrained s bs) := by
  unfold State.enableTrained
  try dsimp only
  with_reducible
    apply keeps_foldl
    intro _
    intro _
    intro _
    apply keeps_trained
    assumption
    apply keeps_enablePages
    assumption

theorem keeps_instar1 (s : State) (hs : Keeps kqu kou kfr s) : Keeps kqu kou kfr (State.instar1 s) := by
  unfold State.instar1
  try dsimp only
  with_reducible
    apply keeps_setDone
    apply keeps_ite
    apply keeps_raise
    apply keeps_p
    apply keeps_p
    apply keeps_p
    apply keeps_p
    apply keeps_enableTrained
    assumption
    apply keeps_p
    apply keeps_p
    apply keeps_p
    apply keeps_p
    apply keeps_enableTrained
    assumption

theorem keeps_execInstar1 {s : State} {kt : State} (ke : execInstar1 s = .next kt) (hs : Keeps kqu kou kfr s) : Keeps kqu kou kfr kt := by
  simp only [execInstar1, State.done, Host.Outcome.next.injEq] at ke
  subst ke
  with_reducible
    apply keeps_settle
    apply keeps_ite
    apply keeps_instar1
    assumption
    assumption

theorem keeps_instar2 (s : State) (bad hbmFail : List Nat) (hs : Keeps kqu kou kfr s) : Keeps kqu kou kfr (State.instar2 s bad hbmFail) := by
  unfold State.instar2
  try dsimp only
  with_reducible
    apply keeps_ite
    apply keeps_foldl
    intro _
    intro _
    intro _
    apply keeps_ite
    apply keeps_bootSteward
    assumption
    assumption
    apply keeps_noteBad
    assumption
    apply keeps_setDone
    apply keeps_p
    apply keeps_zeroAll
    apply keeps_foldl
    intro _
    intro _
    intro _
    split
    assumption
    apply keeps_ite
    apply keeps_raise
    apply keeps_toSt
    assumption
    apply keeps_trained
    assumption
    apply keeps_trained
    apply keeps_p
    apply keeps_p
    assumption
    apply keeps_trained
    apply keeps_ite
    apply keeps_p
    assumption
    assumption
    apply keeps_enablePages
    apply keeps_foldl
    intro _
    intro _
    intro _
    apply keeps_ite
    apply keeps_bootSteward
    assumption
    assumption
    apply keeps_noteBad
    assumption

theorem keeps_execInstar2 {bad : List (BitVec 8)} {hbmFail : List (BitVec 4)} {s : State} {kt : State} (ke : execInstar2 bad hbmFail s = .next kt) (hs : Keeps kqu kou kfr s) : Keeps kqu kou kfr kt := by
  simp only [execInstar2, State.done, Host.Outcome.next.injEq] at ke
  subst ke
  with_reducible
    apply keeps_settle
    apply keeps_ite
    apply keeps_instar2
    assumption
    assumption

theorem keeps_applyProfile (s : State) (hs : Keeps kqu kou kfr s) : Keeps kqu kou kfr s.applyProfile := by
  unfold State.applyProfile
  dsimp only
  have h : Keeps kqu kou kfr { s with
      regs := s.profile.regs.foldl (fun l e => kvPut resetKey l e.1 e.2) s.regs
      tabs := s.profile.tabs.foldl (fun l e => kvPut resetTab l e.1 e.2) s.tabs } :=
    ⟨hs.queue, hs.out, hs.fresh, kvWf_foldl_put _ _ _ hs.wf.regs, kvWf_foldl_put _ _ _ hs.wf.tabs, hs.wf.hbm, hs.wf.arr,
      hs.wf.vec, hs.wf.host⟩
  try dsimp only
  with_reducible
    apply keeps_foldl
    intro _
    intro _
    intro _
    apply keeps_checkBudget
    assumption
    apply keeps_showPos
    apply keeps_p
    assumption

theorem keeps_bootRoutes (s : State) (img : List Byte) (hs : Keeps kqu kou kfr s) : Keeps kqu kou kfr (State.bootRoutes s img) := by
  unfold State.bootRoutes
  try dsimp only
  with_reducible
    apply keeps_ite
    apply keeps_sysFlag
    apply keeps_loadImage
    assumption
    apply keeps_raise
    assumption

theorem keeps_instar3 (s : State) (hs : Keeps kqu kou kfr s) : Keeps kqu kou kfr (State.instar3 s) := by
  unfold State.instar3
  try dsimp only
  with_reducible
    apply keeps_setDone
    apply keeps_ite
    apply keeps_enablePages
    apply keeps_applyProfile
    assumption
    apply keeps_bootRoutes
    apply keeps_enablePages
    apply keeps_applyProfile
    assumption

theorem keeps_execInstar3 {s : State} {kt : State} (ke : execInstar3 s = .next kt) (hs : Keeps kqu kou kfr s) : Keeps kqu kou kfr kt := by
  simp only [execInstar3, State.done, Host.Outcome.next.injEq] at ke
  subst ke
  with_reducible
    apply keeps_settle
    apply keeps_ite
    apply keeps_instar3
    assumption
    assumption

theorem keeps_execEclosion {ms : BitVec 16} {s : State} {kt : State} (ke : execEclosion ms s = .next kt) (hs : Keeps kqu kou kfr s) : Keeps kqu kou kfr kt := by
  simp only [execEclosion, State.done, Host.Outcome.next.injEq] at ke
  subst ke
  with_reducible
    apply keeps_settle
    apply keeps_ite
    apply keeps_noBoot
    apply keeps_setDone
    apply keeps_powerNotice
    apply keeps_sysFlag
    apply keeps_p
    apply keeps_p
    assumption
    assumption

theorem keeps_thxRetry (s : State) (hs : Keeps kqu kou kfr s) : Keeps kqu kou kfr (State.thxRetry s) := by
  unfold State.thxRetry
  try dsimp only
  with_reducible
    refine keeps_mk ?_
    apply keeps_runSlot
    apply keeps_fellBack
    assumption

theorem keeps_execThoraxBootTimeout {s : State} {kt : State} (ke : execThoraxBootTimeout s = .next kt) (hs : Keeps kqu kou kfr s) : Keeps kqu kou kfr kt := by
  simp only [execThoraxBootTimeout, State.done, Host.Outcome.next.injEq] at ke
  subst ke
  with_reducible
    apply keeps_settle
    apply keeps_ite
    apply keeps_ite
    apply keeps_thxRetry
    assumption
    apply keeps_enterRecovery
    assumption
    assumption

theorem keeps_gate (s : State) (bs : List Blk) (off : Bool) (hs : Keeps kqu kou kfr s) : Keeps kqu kou kfr (State.gate s bs off) := by
  unfold State.gate
  try dsimp only
  with_reducible
    apply keeps_foldl
    intro _
    intro _
    intro _
    apply keeps_p
    assumption
    assumption

theorem keeps_startMove (s : State) (target : Nat) (hs : Keeps kqu kou kfr s) : Keeps kqu kou kfr (State.startMove s target) := by
  unfold State.startMove
  try dsimp only
  with_reducible
    refine keeps_mk ?_
    apply keeps_setBusy
    apply keeps_p
    assumption

theorem keeps_enterPupa (s : State) (hs : Keeps kqu kou kfr s) : Keeps kqu kou kfr (State.enterPupa s) := by
  unfold State.enterPupa
  try dsimp only
  with_reducible
    apply keeps_sysFlag
    apply keeps_gate
    assumption

theorem keeps_captureProfile (s : State) (m : Nat) (hs : Keeps kqu kou kfr s) : Keeps kqu kou kfr (State.captureProfile s m) := by
  unfold State.captureProfile
  try dsimp only
  with_reducible
    refine keeps_mk ?_
    apply keeps_setBusy
    apply keeps_p
    refine keeps_mk ?_
    assumption

theorem keeps_pwrRun (s : State) (m op : Nat) (hs : Keeps kqu kou kfr s) : Keeps kqu kou kfr (State.pwrRun s m op).2 := by
  unfold State.pwrRun
  try dsimp only
  with_reducible
    split
    split
    dsimp only
    apply keeps_startMove
    apply keeps_enterPupa
    assumption
    dsimp only
    assumption
    split
    dsimp only
    refine keeps_mk ?_
    apply keeps_startMove
    apply keeps_enterPupa
    assumption
    dsimp only
    assumption
    split
    dsimp only
    refine keeps_mk ?_
    apply keeps_startMove
    assumption
    dsimp only
    assumption
    dsimp only
    apply keeps_startMove
    apply keeps_sysFlag
    apply keeps_gate
    assumption
    dsimp only
    apply keeps_startMove
    apply keeps_foldl
    intro _
    intro _
    intro _
    apply keeps_wakeGroup
    assumption
    apply keeps_foldl
    intro _
    intro _
    intro _
    apply keeps_alignXing
    apply keeps_alignXing
    assumption
    refine keeps_mk ?_
    apply keeps_sysFlag
    apply keeps_gate
    apply keeps_gate
    assumption
    split
    dsimp only
    apply keeps_memDenied
    assumption
    split
    dsimp only
    assumption
    dsimp only
    apply keeps_captureProfile
    assumption
    dsimp only
    assumption

theorem keeps_pwrRun_eq {s : State} {m op : Nat} {x0 : Code} {x1 : State} (ke : State.pwrRun s m op = (x0, x1)) (hs : Keeps kqu kou kfr s) : Keeps kqu kou kfr x1 := by
  have k := keeps_pwrRun (kqu := kqu) (kou := kou) (kfr := kfr) s m op hs
  rw [ke] at k
  exact k

theorem keeps_pwrTake (s : State) (m v : Nat) (b : Blk) (hs : Keeps kqu kou kfr s) : Keeps kqu kou kfr (State.pwrTake s m v b).2 := by
  unfold State.pwrTake
  try dsimp only
  with_reducible
    split
    dsimp only
    apply keeps_refuse
    assumption
    split
    dsimp only
    apply keeps_refuseOp
    assumption
    split
    dsimp only
    apply keeps_finish
    apply keeps_refuse
    apply keeps_pwrRun
    assumption
    dsimp only
    apply keeps_pwrRun
    assumption

theorem keeps_pwrTake_eq {s : State} {m v : Nat} {b : Blk} {x0 : Code} {x1 : State} (ke : State.pwrTake s m v b = (x0, x1)) (hs : Keeps kqu kou kfr s) : Keeps kqu kou kfr x1 := by
  have k := keeps_pwrTake (kqu := kqu) (kou := kou) (kfr := kfr) s m v b hs
  rw [ke] at k
  exact k

theorem keeps_pwrCommand (s : State) (m v : Nat) (hs : Keeps kqu kou kfr s) : Keeps kqu kou kfr (State.pwrCommand s m v) := by
  unfold State.pwrCommand
  try dsimp only
  with_reducible
    apply keeps_onWrite
    assumption
    intro _
    apply keeps_pwrTake
    assumption

theorem keeps_execPupa {m : Mst} {v : Word} {s : State} {kt : State} (ke : execPupa m v s = .next kt) (hs : Keeps kqu kou kfr s) : Keeps kqu kou kfr kt := by
  simp only [execPupa, State.done, Host.Outcome.next.injEq] at ke
  subst ke
  with_reducible
    apply keeps_settle
    apply keeps_pwrCommand
    assumption

theorem keeps_execDiapause {m : Mst} {v : Word} {s : State} {kt : State} (ke : execDiapause m v s = .next kt) (hs : Keeps kqu kou kfr s) : Keeps kqu kou kfr kt := by
  simp only [execDiapause, State.done, Host.Outcome.next.injEq] at ke
  subst ke
  with_reducible
    apply keeps_settle
    apply keeps_pwrCommand
    assumption

theorem keeps_execWake {m : Mst} {v : Word} {s : State} {kt : State} (ke : execWake m v s = .next kt) (hs : Keeps kqu kou kfr s) : Keeps kqu kou kfr kt := by
  simp only [execWake, State.done, Host.Outcome.next.injEq] at ke
  subst ke
  with_reducible
    apply keeps_settle
    apply keeps_pwrCommand
    assumption

theorem keeps_execSaveProfile {m : Mst} {v : Word} {s : State} {kt : State} (ke : execSaveProfile m v s = .next kt) (hs : Keeps kqu kou kfr s) : Keeps kqu kou kfr kt := by
  simp only [execSaveProfile, State.done, Host.Outcome.next.injEq] at ke
  subst ke
  with_reducible
    apply keeps_settle
    apply keeps_pwrCommand
    assumption

theorem keeps_dropAllFrames (s : State) (hs : Keeps kqu kou kfr s) : Keeps kqu kou kfr (State.dropAllFrames s) := by
  unfold State.dropAllFrames
  try dsimp only
  with_reducible
    apply keeps_foldl
    intro _
    intro _
    intro _
    apply keeps_dropTile
    assumption
    assumption

theorem keeps_setDiapause (s : State) (n : Nat) (hs : Keeps kqu kou kfr s) : Keeps kqu kou kfr (State.setDiapause s n) := by
  unfold State.setDiapause
  try dsimp only
  with_reducible
    refine keeps_mk ?_
    assumption

theorem keeps_portsOff (s : State) (hs : Keeps kqu kou kfr s) : Keeps kqu kou kfr (State.portsOff s) := by
  unfold State.portsOff
  try dsimp only
  with_reducible
    apply keeps_foldl
    intro _
    intro _
    intro _
    apply keeps_ite
    apply keeps_moveStage
    assumption
    assumption
    assumption

theorem keeps_execDiapauseDrainEnd {s : State} {kt : State} (ke : execDiapauseDrainEnd s = .next kt) (hs : Keeps kqu kou kfr s) : Keeps kqu kou kfr kt := by
  simp only [execDiapauseDrainEnd, State.done, Host.Outcome.next.injEq] at ke
  subst ke
  with_reducible
    apply keeps_settle
    apply keeps_ite
    apply keeps_setDiapause
    apply keeps_gate
    apply keeps_portsOff
    apply keeps_dropAllFrames
    assumption
    assumption

theorem keeps_endMove (s : State) (target : Nat) (hs : Keeps kqu kou kfr s) : Keeps kqu kou kfr (State.endMove s target) := by
  unfold State.endMove
  try dsimp only
  with_reducible
    apply keeps_powerNotice
    apply keeps_finish
    apply keeps_p
    apply keeps_p
    apply keeps_dropJob
    assumption

theorem keeps_execPowerTransitionDone {s : State} {kt : State} (ke : execPowerTransitionDone s = .next kt) (hs : Keeps kqu kou kfr s) : Keeps kqu kou kfr kt := by
  simp only [execPowerTransitionDone, State.done, Host.Outcome.next.injEq] at ke
  subst ke
  with_reducible
    apply keeps_settle
    split
    assumption
    apply keeps_ite
    assumption
    apply keeps_endMove
    assumption

theorem keeps_commitProfile (s : State) (hs : Keeps kqu kou kfr s) : Keeps kqu kou kfr (State.commitProfile s) := by
  unfold State.commitProfile
  try dsimp only
  with_reducible
    refine keeps_mk ?_
    apply keeps_drawWide
    assumption

theorem keeps_execSaveProfileDone {ok : Bool} {s : State} {kt : State} (ke : execSaveProfileDone ok s = .next kt) (hs : Keeps kqu kou kfr s) : Keeps kqu kou kfr kt := by
  simp only [execSaveProfileDone, State.done, Host.Outcome.next.injEq] at ke
  subst ke
  with_reducible
    apply keeps_settle
    split
    assumption
    apply keeps_ite
    apply keeps_finish
    apply keeps_commitProfile
    apply keeps_p
    apply keeps_dropJob
    assumption
    apply keeps_raise
    apply keeps_finish
    apply keeps_p
    apply keeps_dropJob
    assumption

theorem keeps_govern (s : State) (p hottest : Nat) (hs : Keeps kqu kou kfr s) : Keeps kqu kou kfr (State.govern s p hottest) := by
  unfold State.govern
  try dsimp only
  with_reducible
    apply keeps_ite
    apply keeps_ite
    apply keeps_inc
    apply keeps_setRail
    apply keeps_inc
    assumption
    apply keeps_hotNotice
    apply keeps_raise
    apply keeps_inc
    assumption
    apply keeps_ite
    apply keeps_ite
    apply keeps_inc
    apply keeps_setRail
    assumption
    apply keeps_ite
    apply keeps_inc
    apply keeps_setRail
    assumption
    apply keeps_raise
    assumption
    apply keeps_ite
    apply keeps_ite
    apply keeps_inc
    apply keeps_setRail
    assumption
    apply keeps_ite
    apply keeps_inc
    apply keeps_setRail
    assumption
    assumption
    assumption

theorem keeps_avsCheck (s : State) (r : GovReading) (hs : Keeps kqu kou kfr s) : Keeps kqu kou kfr (State.avsCheck s r) := by
  unfold State.avsCheck
  try dsimp only
  with_reducible
    apply keeps_ite
    apply keeps_raise
    refine keeps_mk ?_
    assumption
    refine keeps_mk ?_
    assumption

theorem keeps_showLoop (s : State) (r : GovReading) (p : Nat) (hs : Keeps kqu kou kfr s) : Keeps kqu kou kfr (State.showLoop s r p) := by
  unfold State.showLoop
  try dsimp only
  with_reducible
    apply keeps_p
    apply keeps_p
    apply keeps_p
    apply keeps_p
    refine keeps_mk ?_
    assumption

theorem keeps_execGovernorLoop {r : GovReading} {s : State} {kt : State} (ke : execGovernorLoop r s = .next kt) (hs : Keeps kqu kou kfr s) : Keeps kqu kou kfr kt := by
  simp only [execGovernorLoop, State.done, Host.Outcome.next.injEq] at ke
  subst ke
  with_reducible
    apply keeps_settle
    apply keeps_govern
    apply keeps_avsCheck
    apply keeps_showLoop
    assumption

theorem keeps_trip (s : State) (hs : Keeps kqu kou kfr s) : Keeps kqu kou kfr (State.trip s) := by
  unfold State.trip
  try dsimp only
  with_reducible
    refine keeps_mk ?_
    assumption

theorem keeps_execThermalTrip {die : Byte} {temp : Byte} {s : State} {kt : State} (ke : execThermalTrip die temp s = .next kt) (hs : Keeps kqu kou kfr s) : Keeps kqu kou kfr kt := by
  simp only [execThermalTrip, State.done, Host.Outcome.next.injEq] at ke
  subst ke
  with_reducible
    apply keeps_settle
    apply keeps_ite
    apply keeps_raise
    apply keeps_trip
    apply keeps_p
    apply keeps_p
    assumption
    assumption

theorem keeps_hbmCommand (s : State) (m pg v : Nat) (hs : Keeps kqu kou kfr s) : Keeps kqu kou kfr (State.hbmCommand s m pg v) := by
  unfold State.hbmCommand
  try dsimp only
  with_reducible
    split
    apply keeps_onWrite
    assumption
    intro _
    apply keeps_ite
    apply keeps_refuse
    assumption
    apply keeps_ite
    apply keeps_finish
    apply keeps_refuse
    assumption
    apply keeps_ite
    apply keeps_raise
    apply keeps_finish
    apply keeps_refuse
    assumption
    apply keeps_addJob
    apply keeps_setBusy
    assumption
    assumption

theorem keeps_execRepair {m : Mst} {pg : Pg} {v : Word} {s : State} {kt : State} (ke : execRepair m pg v s = .next kt) (hs : Keeps kqu kou kfr s) : Keeps kqu kou kfr kt := by
  simp only [execRepair, State.done, Host.Outcome.next.injEq] at ke
  subst ke
  with_reducible
    apply keeps_settle
    apply keeps_hbmCommand
    assumption

theorem keeps_addRepair (s : State) (h a : Nat) (hs : Keeps kqu kou kfr s) : Keeps kqu kou kfr (State.addRepair s h a) := by
  unfold State.addRepair
  try dsimp only
  with_reducible
    refine keeps_mk ?_
    apply keeps_drawWide
    refine keeps_mk ?_
    assumption

theorem keeps_eraseAgain (s : State) (h a : Nat) (hs : Keeps kqu kou kfr s) : Keeps kqu kou kfr (State.eraseAgain s h a) := by
  unfold State.eraseAgain
  try dsimp only
  with_reducible
    refine keeps_mk ?_
    assumption

theorem keeps_execHbmRepairDone {pg : Pg} {ok : Bool} {s : State} {kt : State} (ke : execHbmRepairDone pg ok s = .next kt) (hs : Keeps kqu kou kfr s) : Keeps kqu kou kfr kt := by
  simp only [execHbmRepairDone, State.done, Host.Outcome.next.injEq] at ke
  subst ke
  with_reducible
    apply keeps_settle
    split
    split
    assumption
    apply keeps_ite
    apply keeps_finish
    apply keeps_inc
    apply keeps_eraseAgain
    apply keeps_addRepair
    apply keeps_dropJob
    assumption
    apply keeps_raise
    apply keeps_finish
    apply keeps_refuse
    apply keeps_dropJob
    assumption
    assumption

theorem keeps_pmbusRead (s : State) (i : Nat) (r : Option (BitVec 32)) (hs : Keeps kqu kou kfr s) : Keeps kqu kou kfr (State.pmbusRead s i r) := by
  unfold State.pmbusRead
  try dsimp only
  with_reducible
    apply keeps_ite
    assumption
    split
    apply keeps_pt
    apply keeps_pt
    apply keeps_pt
    apply keeps_emit
    assumption
    apply keeps_ite
    apply keeps_ite
    apply keeps_pt
    apply keeps_pt
    apply keeps_emit
    assumption
    apply keeps_raise
    apply keeps_pt
    apply keeps_pt
    apply keeps_emit
    assumption
    apply keeps_pt
    apply keeps_emit
    assumption

theorem keeps_execPmbusPoll {reads : List (Option (BitVec 32))} {s kt : State} (ke : execPmbusPoll reads s = .next kt) (hs : Keeps kqu kou kfr s) : Keeps kqu kou kfr kt := by
  simp only [execPmbusPoll, State.done, Host.Outcome.next.injEq] at ke
  subst ke
  try dsimp only
  with_reducible
    apply keeps_settle
    apply keeps_foldl
    intro _
    intro _
    intro _
    apply keeps_pmbusRead
    assumption
    assumption

theorem keeps_pmbStatus (s : State) (hs : Keeps kqu kou kfr s) : Keeps kqu kou kfr (State.pmbStatus s) := by
  unfold State.pmbStatus
  try dsimp only
  with_reducible
    apply keeps_foldl
    intro _
    intro _
    intro _
    apply keeps_ite
    apply keeps_emit
    assumption
    assumption
    assumption

theorem keeps_execPmbAlert {bad : BitVec 16} {s : State} {kt : State} (ke : execPmbAlert bad s = .next kt) (hs : Keeps kqu kou kfr s) : Keeps kqu kou kfr kt := by
  simp only [execPmbAlert, State.done, Host.Outcome.next.injEq] at ke
  subst ke
  with_reducible
    apply keeps_settle
    apply keeps_ite
    apply keeps_raise
    apply keeps_pmbStatus
    assumption
    apply keeps_pmbStatus
    assumption

end Sys2Proof.Machine
end

