-- ==== Sys2Proof/Laws/KeepsCocoon.lean ====
section
/-! SUPPORT. What every operation of Machine/Cocoon.lean keeps. -/

namespace Sys2Proof.Machine

variable {kqu : List Instr} {kou : List Emit} {kfr : Nat}

theorem keeps_setCcn (s : State) (c : CcnSt) (hs : Keeps kqu kou kfr s) : Keeps kqu kou kfr (State.setCcn s c) := by
  unfold State.setCcn
  try dsimp only
  with_reducible
    refine keeps_mk ?_
    assumption

theorem keeps_execMeterSample {pj : List (BitVec 32)} {beyond : BitVec 6} {s : State} {kt : State} (ke : execMeterSample pj beyond s = .next kt) (hs : Keeps kqu kou kfr s) : Keeps kqu kou kfr kt := by
  simp only [execMeterSample, State.done, Host.Outcome.next.injEq] at ke
  subst ke
  with_reducible
    apply keeps_settle
    apply keeps_ite
    apply keeps_ite
    apply keeps_raise
    apply keeps_setCcn
    assumption
    apply keeps_setCcn
    assumption
    assumption

theorem keeps_execActivityReport {dom : BitVec 3} {tag : BitVec 5} {count : BitVec 32} {s : State} {kt : State} (ke : execActivityReport dom tag count s = .next kt) (hs : Keeps kqu kou kfr s) : Keeps kqu kou kfr kt := by
  simp only [execActivityReport, State.done, Host.Outcome.next.injEq] at ke
  subst ke
  with_reducible
    apply keeps_ite
    apply keeps_setCcn
    assumption
    assumption

theorem keeps_execTenancyEvent {p : PartNo} {isCreate : Bool} {createCount : BitVec 32} {s : State} {kt : State} (ke : execTenancyEvent p isCreate createCount s = .next kt) (hs : Keeps kqu kou kfr s) : Keeps kqu kou kfr kt := by
  simp only [execTenancyEvent, State.done, Host.Outcome.next.injEq] at ke
  subst ke
  with_reducible
    apply keeps_ite
    apply keeps_setCcn
    assumption
    assumption

theorem keeps_showCcn (s : State) (hs : Keeps kqu kou kfr s) : Keeps kqu kou kfr (State.showCcn s) := by
  unfold State.showCcn
  try dsimp only
  with_reducible
    apply keeps_setWide
    apply keeps_setReg
    assumption

theorem keeps_activateMtr (s : State) (hs : Keeps kqu kou kfr s) : Keeps kqu kou kfr (State.activateMtr s) := by
  unfold State.activateMtr
  try dsimp only
  with_reducible
    split
    assumption
    apply keeps_raise
    apply keeps_setCcn
    assumption

theorem keeps_execPeriodEnd {restsOnly : Bool} {s : State} {kt : State} (ke : execPeriodEnd restsOnly s = .next kt) (hs : Keeps kqu kou kfr s) : Keeps kqu kou kfr kt := by
  simp only [execPeriodEnd, State.done, Host.Outcome.next.injEq] at ke
  subst ke
  with_reducible
    apply keeps_settle
    apply keeps_ite
    apply keeps_showCcn
    apply keeps_activateMtr
    apply keeps_setCcn
    assumption
    assumption

theorem keeps_execClockFallback {s : State} {kt : State} (ke : execClockFallback s = .next kt) (hs : Keeps kqu kou kfr s) : Keeps kqu kou kfr kt := by
  simp only [execClockFallback, State.done, Host.Outcome.next.injEq] at ke
  subst ke
  with_reducible
    apply keeps_settle
    apply keeps_ite
    apply keeps_raise
    apply keeps_setCcn
    assumption
    assumption

theorem keeps_execClockRestored {s : State} {kt : State} (ke : execClockRestored s = .next kt) (hs : Keeps kqu kou kfr s) : Keeps kqu kou kfr kt := by
  simp only [execClockRestored, State.done, Host.Outcome.next.injEq] at ke
  subst ke
  with_reducible
    apply keeps_ite
    apply keeps_setCcn
    assumption
    assumption

theorem keeps_execVmtrLoss {s : State} {kt : State} (ke : execVmtrLoss s = .next kt) (hs : Keeps kqu kou kfr s) : Keeps kqu kou kfr kt := by
  simp only [execVmtrLoss, State.done, Host.Outcome.next.injEq] at ke
  subst ke
  with_reducible
    apply keeps_ite
    apply keeps_setCcn
    assumption
    assumption

theorem keeps_execVmtrReturn {mramBad : Bool} {s : State} {kt : State} (ke : execVmtrReturn mramBad s = .next kt) (hs : Keeps kqu kou kfr s) : Keeps kqu kou kfr kt := by
  simp only [execVmtrReturn, State.done, Host.Outcome.next.injEq] at ke
  subst ke
  with_reducible
    apply keeps_settle
    apply keeps_ite
    assumption
    apply keeps_ite
    apply keeps_raise
    apply keeps_setCcn
    apply keeps_raise
    apply keeps_setCcn
    assumption
    apply keeps_raise
    apply keeps_setCcn
    assumption

theorem keeps_metro (s : State) (c : Code) (data : List Byte) (hs : Keeps kqu kou kfr s) : Keeps kqu kou kfr (State.metro s c data) := by
  unfold State.metro
  try dsimp only
  with_reducible
    apply keeps_emit
    assumption

theorem keeps_execReadSigned {nonce : List Byte} {s : State} {kt : State} (ke : execReadSigned nonce s = .next kt) (hs : Keeps kqu kou kfr s) : Keeps kqu kou kfr kt := by
  simp only [execReadSigned, State.done, Host.Outcome.next.injEq] at ke
  subst ke
  with_reducible
    apply keeps_ite
    assumption
    apply keeps_ite
    apply keeps_metro
    assumption
    apply keeps_setCcn
    assumption

theorem keeps_writeCcnReq (s : State) (m v : Nat) (hs : Keeps kqu kou kfr s) : Keeps kqu kou kfr (State.writeCcnReq s m v) := by
  unfold State.writeCcnReq
  try dsimp only
  with_reducible
    apply keeps_onWrite
    assumption
    intro _
    apply keeps_ite
    assumption
    apply keeps_ite
    apply keeps_refuse
    assumption
    apply keeps_setCcn
    apply keeps_setBusy
    assumption

theorem keeps_execCcnReq {m : Mst} {v : Word} {s : State} {kt : State} (ke : execCcnReq m v s = .next kt) (hs : Keeps kqu kou kfr s) : Keeps kqu kou kfr kt := by
  simp only [execCcnReq, State.done, Host.Outcome.next.injEq] at ke
  subst ke
  with_reducible
    apply keeps_settle
    apply keeps_writeCcnReq
    assumption

theorem keeps_execSignedReadingDone {s : State} {kt : State} (ke : execSignedReadingDone s = .next kt) (hs : Keeps kqu kou kfr s) : Keeps kqu kou kfr kt := by
  simp only [execSignedReadingDone, State.done, Host.Outcome.next.injEq] at ke
  subst ke
  with_reducible
    apply keeps_ite
    assumption
    split
    apply keeps_metro
    apply keeps_setCcn
    assumption
    apply keeps_ite
    apply keeps_finish
    apply keeps_setCcn
    assumption
    assumption

theorem keeps_execIdent {s : State} {kt : State} (ke : execIdent s = .next kt) (hs : Keeps kqu kou kfr s) : Keeps kqu kou kfr kt := by
  simp only [execIdent, State.done, Host.Outcome.next.injEq] at ke
  subst ke
  with_reducible
    apply keeps_ite
    assumption
    apply keeps_metro
    assumption

theorem keeps_execReadRecord {index : BitVec 10} {s : State} {kt : State} (ke : execReadRecord index s = .next kt) (hs : Keeps kqu kou kfr s) : Keeps kqu kou kfr kt := by
  simp only [execReadRecord, State.done, Host.Outcome.next.injEq] at ke
  subst ke
  with_reducible
    apply keeps_ite
    assumption
    split
    apply keeps_metro
    assumption
    apply keeps_metro
    assumption

theorem keeps_execReadLog {index : BitVec 16} {s : State} {kt : State} (ke : execReadLog index s = .next kt) (hs : Keeps kqu kou kfr s) : Keeps kqu kou kfr kt := by
  simp only [execReadLog, State.done, Host.Outcome.next.injEq] at ke
  subst ke
  with_reducible
    apply keeps_ite
    assumption
    split
    apply keeps_metro
    assumption
    apply keeps_metro
    assumption

theorem keeps_execReadCert {offset : BitVec 16} {s : State} {kt : State} (ke : execReadCert offset s = .next kt) (hs : Keeps kqu kou kfr s) : Keeps kqu kou kfr kt := by
  simp only [execReadCert, State.done, Host.Outcome.next.injEq] at ke
  subst ke
  with_reducible
    apply keeps_ite
    assumption
    apply keeps_metro
    assumption

theorem keeps_refuseUpdate (s : State) (hs : Keeps kqu kou kfr s) : Keeps kqu kou kfr (State.refuseUpdate s) := by
  unfold State.refuseUpdate
  try dsimp only
  with_reducible
    apply keeps_raise
    apply keeps_setCcn
    assumption

theorem keeps_execUpdBegin {s : State} {kt : State} (ke : execUpdBegin s = .next kt) (hs : Keeps kqu kou kfr s) : Keeps kqu kou kfr kt := by
  simp only [execUpdBegin, State.done, Host.Outcome.next.injEq] at ke
  subst ke
  with_reducible
    apply keeps_settle
    apply keeps_ite
    assumption
    apply keeps_ite
    apply keeps_refuseUpdate
    apply keeps_metro
    assumption
    apply keeps_metro
    apply keeps_setCcn
    assumption

theorem keeps_execUpdData {offset : BitVec 32} {data : List Byte} {s : State} {kt : State} (ke : execUpdData offset data s = .next kt) (hs : Keeps kqu kou kfr s) : Keeps kqu kou kfr kt := by
  simp only [execUpdData, State.done, Host.Outcome.next.injEq] at ke
  subst ke
  with_reducible
    apply keeps_ite
    assumption
    apply keeps_ite
    apply keeps_metro
    assumption
    apply keeps_ite
    apply keeps_metro
    assumption
    apply keeps_metro
    apply keeps_setCcn
    assumption

theorem keeps_execUpdEnd {s : State} {kt : State} (ke : execUpdEnd s = .next kt) (hs : Keeps kqu kou kfr s) : Keeps kqu kou kfr kt := by
  simp only [execUpdEnd, State.done, Host.Outcome.next.injEq] at ke
  subst ke
  with_reducible
    apply keeps_settle
    apply keeps_ite
    assumption
    apply keeps_ite
    apply keeps_metro
    assumption
    apply keeps_ite
    apply keeps_metro
    apply keeps_setCcn
    assumption
    apply keeps_refuseUpdate
    apply keeps_metro
    assumption

theorem keeps_unseal (s : State) (hs : Keeps kqu kou kfr s) : Keeps kqu kou kfr (State.unseal s) := by
  unfold State.unseal
  try dsimp only
  with_reducible
    refine keeps_mk ?_
    assumption

theorem keeps_execMtrUnseal {s : State} {kt : State} (ke : execMtrUnseal s = .next kt) (hs : Keeps kqu kou kfr s) : Keeps kqu kou kfr kt := by
  simp only [execMtrUnseal, State.done, Host.Outcome.next.injEq] at ke
  subst ke
  with_reducible
    apply keeps_settle
    apply keeps_ite
    apply keeps_refuseUpdate
    apply keeps_unseal
    assumption
    apply keeps_unseal
    assumption

theorem keeps_execMtrUpdateFallback {s : State} {kt : State} (ke : execMtrUpdateFallback s = .next kt) (hs : Keeps kqu kou kfr s) : Keeps kqu kou kfr kt := by
  simp only [execMtrUpdateFallback, State.done, Host.Outcome.next.injEq] at ke
  subst ke
  with_reducible
    apply keeps_settle
    apply keeps_ite
    apply keeps_showCcn
    apply keeps_raise
    apply keeps_setCcn
    assumption
    assumption

end Sys2Proof.Machine
end

