-- ==== Sys2Proof/Laws/KeepsPools.lean ====
section
/-! SUPPORT. What every operation of Machine/Pools.lean keeps. -/

namespace Sys2Proof.Machine

variable {kqu : List Instr} {kou : List Emit} {kfr : Nat}

theorem keeps_execSpillReadback {d : BaseNo} {acct : BitVec 12} {s : State} {kt : State} (ke : execSpillReadback d acct s = .next kt) (hs : Keeps kqu kou kfr s) : Keeps kqu kou kfr kt := by
  simp only [execSpillReadback, State.done, Host.Outcome.next.injEq] at ke
  subst ke
  with_reducible
    apply keeps_settle
    apply keeps_readback
    assumption

theorem keeps_execSpillReadDone {d : BaseNo} {acct : BitVec 12} {uncorr : Bool} {s : State} {kt : State} (ke : execSpillReadDone d acct uncorr s = .next kt) (hs : Keeps kqu kou kfr s) : Keeps kqu kou kfr kt := by
  simp only [execSpillReadDone, State.done, Host.Outcome.next.injEq] at ke
  subst ke
  with_reducible
    apply keeps_settle
    apply keeps_readDone
    assumption

theorem keeps_poolFinish (s : State) (m : Nat) (b : Blk) (c : Code) (pool : Option Nat) (hs : Keeps kqu kou kfr s) : Keeps kqu kou kfr (State.poolFinish s m b c pool) := by
  unfold State.poolFinish
  try dsimp only
  with_reducible
    apply keeps_p
    apply keeps_finish
    apply keeps_ite
    apply keeps_refuse
    assumption
    assumption

theorem keeps_poolCommand (s : State) (m pg v : Nat) (hs : Keeps kqu kou kfr s) : Keeps kqu kou kfr (State.poolCommand s m pg v) := by
  unfold State.poolCommand
  try dsimp only
  with_reducible
    split
    apply keeps_onWrite
    assumption
    intro _
    apply keeps_ite
    apply keeps_refuse
    assumption
    apply keeps_ite
    apply keeps_ite
    apply keeps_poolFinish
    apply keeps_p
    apply keeps_poolAlloc
    assumption
    apply keeps_poolFinish
    apply keeps_poolAlloc
    assumption
    apply keeps_ite
    apply keeps_poolFinish
    apply keeps_poolRelease
    assumption
    apply keeps_poolFinish
    assumption
    assumption

theorem keeps_execAlloc {m : Mst} {pg : Pg} {v : Word} {s : State} {kt : State} (ke : execAlloc m pg v s = .next kt) (hs : Keeps kqu kou kfr s) : Keeps kqu kou kfr kt := by
  simp only [execAlloc, State.done, Host.Outcome.next.injEq] at ke
  subst ke
  with_reducible
    apply keeps_settle
    apply keeps_poolCommand
    assumption

theorem keeps_execFree {m : Mst} {pg : Pg} {v : Word} {s : State} {kt : State} (ke : execFree m pg v s = .next kt) (hs : Keeps kqu kou kfr s) : Keeps kqu kou kfr kt := by
  simp only [execFree, State.done, Host.Outcome.next.injEq] at ke
  subst ke
  with_reducible
    apply keeps_settle
    apply keeps_poolCommand
    assumption

theorem keeps_poolAllocFor (s : State) (d src n : Nat) (hs : Keeps kqu kou kfr s) : Keeps kqu kou kfr (State.poolAllocFor s d src n) := by
  unfold State.poolAllocFor
  try dsimp only
  with_reducible
    apply keeps_emit
    apply keeps_poolAlloc
    assumption

theorem keeps_execPoolAllocReq {d : BaseNo} {src : BitVec 4} {size : BitVec 32} {s : State} {kt : State} (ke : execPoolAllocReq d src size s = .next kt) (hs : Keeps kqu kou kfr s) : Keeps kqu kou kfr kt := by
  simp only [execPoolAllocReq, State.done, Host.Outcome.next.injEq] at ke
  subst ke
  with_reducible
    apply keeps_settle
    apply keeps_poolAllocFor
    assumption

theorem keeps_execPoolFreeReq {d : BaseNo} {_src : BitVec 4} {addr : BitVec 52} {s : State} {kt : State} (ke : execPoolFreeReq d _src addr s = .next kt) (hs : Keeps kqu kou kfr s) : Keeps kqu kou kfr kt := by
  simp only [execPoolFreeReq, State.done, Host.Outcome.next.injEq] at ke
  subst ke
  with_reducible
    apply keeps_settle
    apply keeps_hwFree
    assumption

theorem keeps_execPoolCacheRefill {d : BaseNo} {pool : BitVec 3} {s : State} {kt : State} (ke : execPoolCacheRefill d pool s = .next kt) (hs : Keeps kqu kou kfr s) : Keeps kqu kou kfr kt := by
  simp only [execPoolCacheRefill, State.done, Host.Outcome.next.injEq] at ke
  subst ke
  with_reducible
    apply keeps_settle
    apply keeps_ite
    apply keeps_refill
    assumption
    assumption

theorem keeps_execPoolCacheReturn {d : BaseNo} {pool : BitVec 3} {s : State} {kt : State} (ke : execPoolCacheReturn d pool s = .next kt) (hs : Keeps kqu kou kfr s) : Keeps kqu kou kfr kt := by
  simp only [execPoolCacheReturn, State.done, Host.Outcome.next.injEq] at ke
  subst ke
  with_reducible
    apply keeps_settle
    apply keeps_ite
    apply keeps_giveBack
    assumption
    assumption

theorem keeps_execPoolInitDone {d : BaseNo} {s : State} {kt : State} (ke : execPoolInitDone d s = .next kt) (hs : Keeps kqu kou kfr s) : Keeps kqu kou kfr kt := by
  simp only [execPoolInitDone, State.done, Host.Outcome.next.injEq] at ke
  subst ke
  with_reducible
    apply keeps_settle
    apply keeps_finishTraining
    assumption

end Sys2Proof.Machine
end

