-- ==== Sys2Proof/Laws/KeepsGang.lean ====
section
/-! SUPPORT. What every operation of Machine/Gang.lean keeps. -/

namespace Sys2Proof.Machine

variable {kqu : List Instr} {kou : List Emit} {kfr : Nat}

theorem keeps_execStart {m : Mst} {v : Word} {s : State} {kt : State} (ke : execStart m v s = .next kt) (hs : Keeps kqu kou kfr s) : Keeps kqu kou kfr kt := by
  simp only [execStart, State.done, Host.Outcome.next.injEq] at ke
  subst ke
  with_reducible
    apply keeps_settle
    apply keeps_macCommand
    assumption

theorem keeps_execPause {m : Mst} {v : Word} {s : State} {kt : State} (ke : execPause m v s = .next kt) (hs : Keeps kqu kou kfr s) : Keeps kqu kou kfr kt := by
  simp only [execPause, State.done, Host.Outcome.next.injEq] at ke
  subst ke
  with_reducible
    apply keeps_settle
    apply keeps_macCommand
    assumption

theorem keeps_execResume {m : Mst} {v : Word} {s : State} {kt : State} (ke : execResume m v s = .next kt) (hs : Keeps kqu kou kfr s) : Keeps kqu kou kfr kt := by
  simp only [execResume, State.done, Host.Outcome.next.injEq] at ke
  subst ke
  with_reducible
    apply keeps_settle
    apply keeps_macCommand
    assumption

theorem keeps_execStop {m : Mst} {v : Word} {s : State} {kt : State} (ke : execStop m v s = .next kt) (hs : Keeps kqu kou kfr s) : Keeps kqu kou kfr kt := by
  simp only [execStop, State.done, Host.Outcome.next.injEq] at ke
  subst ke
  with_reducible
    apply keeps_settle
    apply keeps_macCommand
    assumption

theorem keeps_execPauseTakesEffect {p : PartNo} {l : ListNo} {s : State} {kt : State} (ke : execPauseTakesEffect p l s = .next kt) (hs : Keeps kqu kou kfr s) : Keeps kqu kou kfr kt := by
  simp only [execPauseTakesEffect, State.done, Host.Outcome.next.injEq] at ke
  subst ke
  with_reducible
    apply keeps_settle
    apply keeps_showHalted
    apply keeps_pauseNow
    assumption

theorem keeps_execGangSchedule {cls : BitVec 2} {s : State} {kt : State} (ke : execGangSchedule cls s = .next kt) (hs : Keeps kqu kou kfr s) : Keeps kqu kou kfr kt := by
  simp only [execGangSchedule, State.done, Host.Outcome.next.injEq] at ke
  subst ke
  with_reducible
    apply keeps_settle
    apply keeps_gangSchedule
    assumption

theorem keeps_execHalt {p : PartNo} {l : ListNo} {s : State} {kt : State} (ke : execHalt p l s = .next kt) (hs : Keeps kqu kou kfr s) : Keeps kqu kou kfr kt := by
  simp only [execHalt, State.done, Host.Outcome.next.injEq] at ke
  subst ke
  with_reducible
    apply keeps_settle
    apply keeps_haltNow
    assumption

theorem keeps_execLdw {p : PartNo} {l : ListNo} {s : State} {kt : State} (ke : execLdw p l s = .next kt) (hs : Keeps kqu kou kfr s) : Keeps kqu kou kfr kt := by
  simp only [execLdw, State.done, Host.Outcome.next.injEq] at ke
  subst ke
  with_reducible
    apply keeps_settle
    apply keeps_carry
    assumption
    intro _
    intro _
    intro _
    apply keeps_carryLdw
    assumption

theorem keeps_execStw {p : PartNo} {l : ListNo} {s : State} {kt : State} (ke : execStw p l s = .next kt) (hs : Keeps kqu kou kfr s) : Keeps kqu kou kfr kt := by
  simp only [execStw, State.done, Host.Outcome.next.injEq] at ke
  subst ke
  with_reducible
    apply keeps_settle
    apply keeps_carry
    assumption
    intro _
    intro _
    intro _
    apply keeps_carryStw
    assumption

theorem keeps_execMm {p : PartNo} {l : ListNo} {s : State} {kt : State} (ke : execMm p l s = .next kt) (hs : Keeps kqu kou kfr s) : Keeps kqu kou kfr kt := by
  simp only [execMm, State.done, Host.Outcome.next.injEq] at ke
  subst ke
  with_reducible
    apply keeps_settle
    apply keeps_carry
    assumption
    intro _
    intro _
    intro _
    apply keeps_carryProduct
    assumption

theorem keeps_execMmtDx {p : PartNo} {l : ListNo} {s : State} {kt : State} (ke : execMmtDx p l s = .next kt) (hs : Keeps kqu kou kfr s) : Keeps kqu kou kfr kt := by
  simp only [execMmtDx, State.done, Host.Outcome.next.injEq] at ke
  subst ke
  with_reducible
    apply keeps_settle
    apply keeps_carry
    assumption
    intro _
    intro _
    intro _
    apply keeps_carryProduct
    assumption

theorem keeps_execMmtDw {p : PartNo} {l : ListNo} {s : State} {kt : State} (ke : execMmtDw p l s = .next kt) (hs : Keeps kqu kou kfr s) : Keeps kqu kou kfr kt := by
  simp only [execMmtDw, State.done, Host.Outcome.next.injEq] at ke
  subst ke
  with_reducible
    apply keeps_settle
    apply keeps_carry
    assumption
    intro _
    intro _
    intro _
    apply keeps_carryProduct
    assumption

theorem keeps_execEpi {p : PartNo} {l : ListNo} {s : State} {kt : State} (ke : execEpi p l s = .next kt) (hs : Keeps kqu kou kfr s) : Keeps kqu kou kfr kt := by
  simp only [execEpi, State.done, Host.Outcome.next.injEq] at ke
  subst ke
  with_reducible
    apply keeps_settle
    apply keeps_carry
    assumption
    intro _
    intro _
    intro _
    apply keeps_carryEpi
    assumption

theorem keeps_execCvt {p : PartNo} {l : ListNo} {s : State} {kt : State} (ke : execCvt p l s = .next kt) (hs : Keeps kqu kou kfr s) : Keeps kqu kou kfr kt := by
  simp only [execCvt, State.done, Host.Outcome.next.injEq] at ke
  subst ke
  with_reducible
    apply keeps_settle
    apply keeps_carry
    assumption
    intro _
    intro _
    intro _
    apply keeps_carryCvt
    assumption

theorem keeps_execRdxOp {p : PartNo} {l : ListNo} {s : State} {kt : State} (ke : execRdxOp p l s = .next kt) (hs : Keeps kqu kou kfr s) : Keeps kqu kou kfr kt := by
  simp only [execRdxOp, State.done, Host.Outcome.next.injEq] at ke
  subst ke
  with_reducible
    apply keeps_settle
    apply keeps_carry
    assumption
    intro _
    intro _
    intro _
    apply keeps_carryRdx
    assumption

theorem keeps_execSnd {p : PartNo} {l : ListNo} {s : State} {kt : State} (ke : execSnd p l s = .next kt) (hs : Keeps kqu kou kfr s) : Keeps kqu kou kfr kt := by
  simp only [execSnd, State.done, Host.Outcome.next.injEq] at ke
  subst ke
  with_reducible
    apply keeps_settle
    apply keeps_carry
    assumption
    intro _
    intro _
    intro _
    apply keeps_carrySnd
    assumption

theorem keeps_execRcvPostWait {p : PartNo} {l : ListNo} {s : State} {kt : State} (ke : execRcvPostWait p l s = .next kt) (hs : Keeps kqu kou kfr s) : Keeps kqu kou kfr kt := by
  simp only [execRcvPostWait, State.done, Host.Outcome.next.injEq] at ke
  subst ke
  with_reducible
    apply keeps_settle
    apply keeps_carry
    assumption
    intro _
    intro _
    intro _
    apply keeps_carryRcv
    assumption

theorem keeps_execRcvPost {p : PartNo} {l : ListNo} {s : State} {kt : State} (ke : execRcvPost p l s = .next kt) (hs : Keeps kqu kou kfr s) : Keeps kqu kou kfr kt := by
  simp only [execRcvPost, State.done, Host.Outcome.next.injEq] at ke
  subst ke
  with_reducible
    apply keeps_settle
    apply keeps_carry
    assumption
    intro _
    intro _
    intro _
    apply keeps_carryRcv
    assumption

theorem keeps_execRcvFirst {p : PartNo} {l : ListNo} {s : State} {kt : State} (ke : execRcvFirst p l s = .next kt) (hs : Keeps kqu kou kfr s) : Keeps kqu kou kfr kt := by
  simp only [execRcvFirst, State.done, Host.Outcome.next.injEq] at ke
  subst ke
  with_reducible
    apply keeps_settle
    apply keeps_carry
    assumption
    intro _
    intro _
    intro _
    apply keeps_carryFirst
    assumption

theorem keeps_execWaitCounter {p : PartNo} {l : ListNo} {s : State} {kt : State} (ke : execWaitCounter p l s = .next kt) (hs : Keeps kqu kou kfr s) : Keeps kqu kou kfr kt := by
  simp only [execWaitCounter, State.done, Host.Outcome.next.injEq] at ke
  subst ke
  with_reducible
    apply keeps_settle
    apply keeps_carry
    assumption
    intro _
    intro _
    intro _
    apply keeps_carryWait
    assumption

theorem keeps_execWaitFlag {p : PartNo} {l : ListNo} {s : State} {kt : State} (ke : execWaitFlag p l s = .next kt) (hs : Keeps kqu kou kfr s) : Keeps kqu kou kfr kt := by
  simp only [execWaitFlag, State.done, Host.Outcome.next.injEq] at ke
  subst ke
  with_reducible
    apply keeps_settle
    apply keeps_carry
    assumption
    intro _
    intro _
    intro _
    apply keeps_carryWait
    assumption

theorem keeps_execGangWatchMessage {w : Arming} {code : BitVec 8} {value : Word} {s : State} {kt : State} (ke : execGangWatchMessage w code value s = .next kt) (hs : Keeps kqu kou kfr s) : Keeps kqu kou kfr kt := by
  simp only [execGangWatchMessage, State.done, Host.Outcome.next.injEq] at ke
  subst ke
  with_reducible
    apply keeps_settle
    apply keeps_gangWatch
    assumption

theorem keeps_execSigAdd {p : PartNo} {l : ListNo} {s : State} {kt : State} (ke : execSigAdd p l s = .next kt) (hs : Keeps kqu kou kfr s) : Keeps kqu kou kfr kt := by
  simp only [execSigAdd, State.done, Host.Outcome.next.injEq] at ke
  subst ke
  with_reducible
    apply keeps_settle
    apply keeps_carry
    assumption
    intro _
    intro _
    intro _
    apply keeps_carrySig
    assumption

theorem keeps_execSigSet {p : PartNo} {l : ListNo} {s : State} {kt : State} (ke : execSigSet p l s = .next kt) (hs : Keeps kqu kou kfr s) : Keeps kqu kou kfr kt := by
  simp only [execSigSet, State.done, Host.Outcome.next.injEq] at ke
  subst ke
  with_reducible
    apply keeps_settle
    apply keeps_carry
    assumption
    intro _
    intro _
    intro _
    apply keeps_carrySig
    assumption

theorem keeps_execSigClr {p : PartNo} {l : ListNo} {s : State} {kt : State} (ke : execSigClr p l s = .next kt) (hs : Keeps kqu kou kfr s) : Keeps kqu kou kfr kt := by
  simp only [execSigClr, State.done, Host.Outcome.next.injEq] at ke
  subst ke
  with_reducible
    apply keeps_settle
    apply keeps_carry
    assumption
    intro _
    intro _
    intro _
    apply keeps_carrySig
    assumption

theorem keeps_execCntFetch {p : PartNo} {l : ListNo} {s : State} {kt : State} (ke : execCntFetch p l s = .next kt) (hs : Keeps kqu kou kfr s) : Keeps kqu kou kfr kt := by
  simp only [execCntFetch, State.done, Host.Outcome.next.injEq] at ke
  subst ke
  with_reducible
    apply keeps_settle
    apply keeps_carry
    assumption
    intro _
    intro _
    intro _
    apply keeps_carryFetch
    assumption

theorem keeps_execCntCounts {p : PartNo} {l : ListNo} {s : State} {kt : State} (ke : execCntCounts p l s = .next kt) (hs : Keeps kqu kou kfr s) : Keeps kqu kou kfr kt := by
  simp only [execCntCounts, State.done, Host.Outcome.next.injEq] at ke
  subst ke
  with_reducible
    apply keeps_settle
    apply keeps_carry
    assumption
    intro _
    intro _
    intro _
    apply keeps_carryCounts
    assumption

theorem keeps_execDigTree {p : PartNo} {l : ListNo} {s : State} {kt : State} (ke : execDigTree p l s = .next kt) (hs : Keeps kqu kou kfr s) : Keeps kqu kou kfr kt := by
  simp only [execDigTree, State.done, Host.Outcome.next.injEq] at ke
  subst ke
  with_reducible
    apply keeps_settle
    apply keeps_carry
    assumption
    intro _
    intro _
    intro _
    apply keeps_carryDig
    assumption

theorem keeps_execDigAudit {p : PartNo} {l : ListNo} {s : State} {kt : State} (ke : execDigAudit p l s = .next kt) (hs : Keeps kqu kou kfr s) : Keeps kqu kou kfr kt := by
  simp only [execDigAudit, State.done, Host.Outcome.next.injEq] at ke
  subst ke
  with_reducible
    apply keeps_settle
    apply keeps_carry
    assumption
    intro _
    intro _
    intro _
    apply keeps_carryDig
    assumption

theorem keeps_execSmpSeeded {p : PartNo} {l : ListNo} {s : State} {kt : State} (ke : execSmpSeeded p l s = .next kt) (hs : Keeps kqu kou kfr s) : Keeps kqu kou kfr kt := by
  simp only [execSmpSeeded, State.done, Host.Outcome.next.injEq] at ke
  subst ke
  with_reducible
    apply keeps_settle
    apply keeps_carry
    assumption
    intro _
    intro _
    intro _
    apply keeps_carrySmp
    assumption

theorem keeps_execSmpEntropy {p : PartNo} {l : ListNo} {s : State} {kt : State} (ke : execSmpEntropy p l s = .next kt) (hs : Keeps kqu kou kfr s) : Keeps kqu kou kfr kt := by
  simp only [execSmpEntropy, State.done, Host.Outcome.next.injEq] at ke
  subst ke
  with_reducible
    apply keeps_settle
    apply keeps_carry
    assumption
    intro _
    intro _
    intro _
    apply keeps_carrySmp
    assumption

theorem keeps_execGangOpDone {p : PartNo} {l : ListNo} {s : State} {kt : State} (ke : execGangOpDone p l s = .next kt) (hs : Keeps kqu kou kfr s) : Keeps kqu kou kfr kt := by
  simp only [execGangOpDone, State.done, Host.Outcome.next.injEq] at ke
  subst ke
  with_reducible
    apply keeps_settle
    apply keeps_gangOpDone
    assumption

theorem keeps_execCplRingResume {p : PartNo} {l : ListNo} {s : State} {kt : State} (ke : execCplRingResume p l s = .next kt) (hs : Keeps kqu kou kfr s) : Keeps kqu kou kfr kt := by
  simp only [execCplRingResume, State.done, Host.Outcome.next.injEq] at ke
  subst ke
  with_reducible
    apply keeps_settle
    apply keeps_cplResume
    assumption

theorem keeps_execArrayLagWindow {s : State} {kt : State} (ke : execArrayLagWindow s = .next kt) (hs : Keeps kqu kou kfr s) : Keeps kqu kou kfr kt := by
  simp only [execArrayLagWindow, State.done, Host.Outcome.next.injEq] at ke
  subst ke
  with_reducible
    apply keeps_settle
    apply keeps_arrayLag
    assumption

theorem keeps_execReleaseRetention {m : Mst} {v : Word} {s : State} {kt : State} (ke : execReleaseRetention m v s = .next kt) (hs : Keeps kqu kou kfr s) : Keeps kqu kou kfr kt := by
  simp only [execReleaseRetention, State.done, Host.Outcome.next.injEq] at ke
  subst ke
  with_reducible
    apply keeps_settle
    apply keeps_trainCommand
    assumption

theorem keeps_execClearGrad {m : Mst} {v : Word} {s : State} {kt : State} (ke : execClearGrad m v s = .next kt) (hs : Keeps kqu kou kfr s) : Keeps kqu kou kfr kt := by
  simp only [execClearGrad, State.done, Host.Outcome.next.injEq] at ke
  subst ke
  with_reducible
    apply keeps_settle
    apply keeps_trainCommand
    assumption

theorem keeps_execTrainEntryWrite {m : Mst} {v : Word} {s : State} {kt : State} (ke : execTrainEntryWrite m v s = .next kt) (hs : Keeps kqu kou kfr s) : Keeps kqu kou kfr kt := by
  simp only [execTrainEntryWrite, State.done, Host.Outcome.next.injEq] at ke
  subst ke
  with_reducible
    apply keeps_settle
    apply keeps_trainWrite
    assumption

theorem keeps_execPartitionEntryWrite {m : Mst} {v : Word} {s : State} {kt : State} (ke : execPartitionEntryWrite m v s = .next kt) (hs : Keeps kqu kou kfr s) : Keeps kqu kou kfr kt := by
  simp only [execPartitionEntryWrite, State.done, Host.Outcome.next.injEq] at ke
  subst ke
  with_reducible
    apply keeps_settle
    apply keeps_partWrite
    assumption

end Sys2Proof.Machine
end

