-- ==== Sys2Proof/Laws/KeepsLinks.lean ====
section
/-! SUPPORT. What every operation of Machine/Links.lean keeps. -/

namespace Sys2Proof.Machine

variable {kqu : List Instr} {kou : List Emit} {kfr : Nat}

theorem keeps_grpCfgSet (s : State) (g v : Nat) (hs : Keeps kqu kou kfr s) : Keeps kqu kou kfr (State.grpCfgSet s g v) := by
  unfold State.grpCfgSet
  try dsimp only
  with_reducible
    apply keeps_ite
    apply keeps_setReg
    apply keeps_setReg
    assumption
    apply keeps_ite
    apply keeps_setReg
    apply keeps_setReg
    assumption
    apply keeps_setReg
    assumption

theorem keeps_writeGrpCfg (s : State) (m pg v : Nat) (hs : Keeps kqu kou kfr s) : Keeps kqu kou kfr (State.writeGrpCfg s m pg v) := by
  unfold State.writeGrpCfg
  try dsimp only
  with_reducible
    split
    apply keeps_onWrite
    assumption
    intro _
    apply keeps_ite
    apply keeps_refuse
    assumption
    apply keeps_ite
    apply keeps_refuse
    assumption
    apply keeps_checkBudget
    apply keeps_grpCfgSet
    assumption
    assumption

theorem keeps_execLnkGrpCfgWrite {m : Mst} {pg : Pg} {v : Word} {s : State} {kt : State} (ke : execLnkGrpCfgWrite m pg v s = .next kt) (hs : Keeps kqu kou kfr s) : Keeps kqu kou kfr kt := by
  simp only [execLnkGrpCfgWrite, State.done, Host.Outcome.next.injEq] at ke
  subst ke
  with_reducible
    apply keeps_settle
    apply keeps_writeGrpCfg
    assumption

theorem keeps_laneSet (s : State) (k n v : Nat) (hs : Keeps kqu kou kfr s) : Keeps kqu kou kfr (State.laneSet s k n v) := by
  unfold State.laneSet
  try dsimp only
  with_reducible
    apply keeps_setReg
    assumption

theorem keeps_laneWake (s : State) (k n : Nat) (retrain : Bool) (hs : Keeps kqu kou kfr s) : Keeps kqu kou kfr (State.laneWake s k n retrain) := by
  unfold State.laneWake
  try dsimp only
  with_reducible
    split
    assumption
    apply keeps_ite
    apply keeps_moveStage
    apply keeps_wakePort
    assumption
    apply keeps_wakePort
    assumption

theorem keeps_laneWrite (s : State) (k n v : Nat) (hs : Keeps kqu kou kfr s) : Keeps kqu kou kfr (State.laneWrite s k n v) := by
  unfold State.laneWrite
  try dsimp only
  with_reducible
    apply keeps_laneWake
    apply keeps_ite
    apply keeps_clearLane
    apply keeps_laneSet
    assumption
    apply keeps_laneSet
    assumption

theorem keeps_writeLaneCtrl (s : State) (m pg v : Nat) (hs : Keeps kqu kou kfr s) : Keeps kqu kou kfr (State.writeLaneCtrl s m pg v) := by
  unfold State.writeLaneCtrl
  try dsimp only
  with_reducible
    split
    apply keeps_onWrite
    assumption
    intro _
    apply keeps_ite
    apply keeps_refuse
    assumption
    apply keeps_ite
    apply keeps_requestSwitch
    apply keeps_laneWrite
    assumption
    apply keeps_ite
    apply keeps_requestSwitch
    apply keeps_laneWrite
    assumption
    apply keeps_laneWrite
    assumption
    assumption

theorem keeps_execLanePower {m : Mst} {pg : Pg} {v : Word} {s : State} {kt : State} (ke : execLanePower m pg v s = .next kt) (hs : Keeps kqu kou kfr s) : Keeps kqu kou kfr kt := by
  simp only [execLanePower, State.done, Host.Outcome.next.injEq] at ke
  subst ke
  with_reducible
    apply keeps_settle
    apply keeps_writeLaneCtrl
    assumption

theorem keeps_execLaneCtrlRetrain {m : Mst} {pg : Pg} {v : Word} {s : State} {kt : State} (ke : execLaneCtrlRetrain m pg v s = .next kt) (hs : Keeps kqu kou kfr s) : Keeps kqu kou kfr kt := by
  simp only [execLaneCtrlRetrain, State.done, Host.Outcome.next.injEq] at ke
  subst ke
  with_reducible
    apply keeps_settle
    apply keeps_writeLaneCtrl
    assumption

theorem keeps_execClrCounters {m : Mst} {pg : Pg} {v : Word} {s : State} {kt : State} (ke : execClrCounters m pg v s = .next kt) (hs : Keeps kqu kou kfr s) : Keeps kqu kou kfr kt := by
  simp only [execClrCounters, State.done, Host.Outcome.next.injEq] at ke
  subst ke
  with_reducible
    apply keeps_settle
    apply keeps_writeLaneCtrl
    assumption

theorem keeps_execSpareRequest {m : Mst} {pg : Pg} {v : Word} {s : State} {kt : State} (ke : execSpareRequest m pg v s = .next kt) (hs : Keeps kqu kou kfr s) : Keeps kqu kou kfr kt := by
  simp only [execSpareRequest, State.done, Host.Outcome.next.injEq] at ke
  subst ke
  with_reducible
    apply keeps_settle
    apply keeps_writeLaneCtrl
    assumption

theorem keeps_execSpareRevert {m : Mst} {pg : Pg} {v : Word} {s : State} {kt : State} (ke : execSpareRevert m pg v s = .next kt) (hs : Keeps kqu kou kfr s) : Keeps kqu kou kfr kt := by
  simp only [execSpareRevert, State.done, Host.Outcome.next.injEq] at ke
  subst ke
  with_reducible
    apply keeps_settle
    apply keeps_writeLaneCtrl
    assumption

theorem keeps_dequeueSwitch (s : State) (k : Nat) (hs : Keeps kqu kou kfr s) : Keeps kqu kou kfr (State.dequeueSwitch s k) := by
  unfold State.dequeueSwitch
  try dsimp only
  with_reducible
    apply keeps_ite
    assumption
    split
    assumption
    apply keeps_ite
    apply keeps_startSwitch
    refine keeps_mk ?_
    assumption
    apply keeps_ite
    apply keeps_raise
    refine keeps_mk ?_
    assumption
    refine keeps_mk ?_
    assumption

theorem keeps_execSpareRequestDequeue {k : DieNo} {s : State} {kt : State} (ke : execSpareRequestDequeue k s = .next kt) (hs : Keeps kqu kou kfr s) : Keeps kqu kou kfr kt := by
  simp only [execSpareRequestDequeue, State.done, Host.Outcome.next.injEq] at ke
  subst ke
  with_reducible
    apply keeps_dequeueSwitch
    assumption

theorem keeps_startPattern (s : State) (b : Blk) (hs : Keeps kqu kou kfr s) : Keeps kqu kou kfr (State.startPattern s b) := by
  unfold State.startPattern
  try dsimp only
  with_reducible
    apply keeps_setReg
    apply keeps_setReg
    assumption

theorem keeps_writePrbs (s : State) (m pg v : Nat) (hs : Keeps kqu kou kfr s) : Keeps kqu kou kfr (State.writePrbs s m pg v) := by
  unfold State.writePrbs
  try dsimp only
  with_reducible
    split
    apply keeps_onWrite
    assumption
    intro _
    apply keeps_ite
    apply keeps_refuse
    assumption
    apply keeps_ite
    apply keeps_refuse
    assumption
    apply keeps_setReg
    apply keeps_startPattern
    assumption
    assumption

theorem keeps_execPrbsCtrlWrite {m : Mst} {pg : Pg} {v : Word} {s : State} {kt : State} (ke : execPrbsCtrlWrite m pg v s = .next kt) (hs : Keeps kqu kou kfr s) : Keeps kqu kou kfr kt := by
  simp only [execPrbsCtrlWrite, State.done, Host.Outcome.next.injEq] at ke
  subst ke
  with_reducible
    apply keeps_settle
    apply keeps_writePrbs
    assumption

theorem keeps_execDetectRetry {_port : PortNo} {s : State} {kt : State} (ke : execDetectRetry _port s = .next kt) (hs : Keeps kqu kou kfr s) : Keeps kqu kou kfr kt := by
  simp only [execDetectRetry, State.done, Host.Outcome.next.injEq] at ke
  subst ke
  with_reducible
    assumption

theorem keeps_detected (s : State) (port : Nat) (an : Nat) (hs : Keeps kqu kou kfr s) : Keeps kqu kou kfr (State.detected s port an) := by
  unfold State.detected
  try dsimp only
  with_reducible
    apply keeps_ite
    apply keeps_ite
    split
    assumption
    apply keeps_moveStage
    apply keeps_php
    assumption
    apply keeps_moveStage
    assumption
    assumption

theorem keeps_execPartnerDetected {port : PortNo} {an : BitVec 4} {s : State} {kt : State} (ke : execPartnerDetected port an s = .next kt) (hs : Keeps kqu kou kfr s) : Keeps kqu kou kfr kt := by
  simp only [execPartnerDetected, State.done, Host.Outcome.next.injEq] at ke
  subst ke
  with_reducible
    apply keeps_settle
    apply keeps_detected
    assumption

theorem keeps_adaptRx (s : State) (kn : Nat × Nat) (hs : Keeps kqu kou kfr s) : Keeps kqu kou kfr (State.adaptRx s kn) := by
  unfold State.adaptRx
  try dsimp only
  with_reducible
    apply keeps_p
    apply keeps_draw
    apply keeps_ite
    assumption
    apply keeps_foldl
    intro _
    intro _
    intro _
    apply keeps_setReg
    apply keeps_draw
    assumption
    apply keeps_p
    apply keeps_p
    apply keeps_draw
    assumption

theorem keeps_adaptLane (s : State) (kn : Nat × Nat) (hs : Keeps kqu kou kfr s) : Keeps kqu kou kfr (State.adaptLane s kn) := by
  unfold State.adaptLane
  try dsimp only
  with_reducible
    apply keeps_adaptRx
    apply keeps_ite
    assumption
    apply keeps_p
    apply keeps_draw
    assumption

theorem keeps_lockLane (s : State) (kn : Nat × Nat) (hs : Keeps kqu kou kfr s) : Keeps kqu kou kfr (State.lockLane s kn) := by
  unfold State.lockLane
  try dsimp only
  with_reducible
    apply keeps_p
    apply keeps_setReg
    apply keeps_setReg
    apply keeps_draw
    assumption

theorem keeps_trainEnd (s : State) (port : Nat) (hs : Keeps kqu kou kfr s) : Keeps kqu kou kfr (State.trainEnd s port) := by
  unfold State.trainEnd
  try dsimp only
  with_reducible
    apply keeps_ite
    apply keeps_moveStage
    apply keeps_php
    apply keeps_foldl
    intro _
    intro _
    intro _
    apply keeps_lockLane
    apply keeps_adaptLane
    assumption
    assumption
    assumption

theorem keeps_execTrainDone {port : PortNo} {s : State} {kt : State} (ke : execTrainDone port s = .next kt) (hs : Keeps kqu kou kfr s) : Keeps kqu kou kfr kt := by
  simp only [execTrainDone, State.done, Host.Outcome.next.injEq] at ke
  subst ke
  with_reducible
    apply keeps_settle
    apply keeps_trainEnd
    assumption

theorem keeps_execTrainTimeout {port : PortNo} {s : State} {kt : State} (ke : execTrainTimeout port s = .next kt) (hs : Keeps kqu kou kfr s) : Keeps kqu kou kfr kt := by
  simp only [execTrainTimeout, State.done, Host.Outcome.next.injEq] at ke
  subst ke
  with_reducible
    apply keeps_settle
    apply keeps_ite
    apply keeps_raise
    apply keeps_moveStage
    assumption
    assumption

theorem keeps_sendCaps (s : State) (port : Nat) (hs : Keeps kqu kou kfr s) : Keeps kqu kou kfr (State.sendCaps s port) := by
  unfold State.sendCaps
  try dsimp only
  with_reducible
    apply keeps_php
    apply keeps_foldl
    intro _
    intro _
    intro _
    apply keeps_ctlMsg
    assumption
    assumption

theorem keeps_portUp (s : State) (port : Nat) (hs : Keeps kqu kou kfr s) : Keeps kqu kou kfr (State.portUp s port) := by
  unfold State.portUp
  try dsimp only
  with_reducible
    apply keeps_foldl
    intro _
    intro _
    intro _
    apply keeps_ite
    apply keeps_followAll
    apply keeps_trained
    assumption
    assumption
    apply keeps_moveStage
    assumption

theorem keeps_capexEnd (s : State) (port : Nat) (hs : Keeps kqu kou kfr s) : Keeps kqu kou kfr (State.capexEnd s port) := by
  unfold State.capexEnd
  try dsimp only
  with_reducible
    apply keeps_ite
    apply keeps_portUp
    assumption
    assumption

theorem keeps_capexStart (s : State) (port : Nat) (hs : Keeps kqu kou kfr s) : Keeps kqu kou kfr (State.capexStart s port) := by
  unfold State.capexStart
  try dsimp only
  with_reducible
    apply keeps_ite
    apply keeps_raise
    apply keeps_php
    apply keeps_moveStage
    assumption
    apply keeps_sendCaps
    apply keeps_moveStage
    assumption

theorem keeps_lockEnd (s : State) (port : Nat) (hs : Keeps kqu kou kfr s) : Keeps kqu kou kfr (State.lockEnd s port) := by
  unfold State.lockEnd
  try dsimp only
  with_reducible
    apply keeps_ite
    apply keeps_ite
    apply keeps_portUp
    apply keeps_foldl
    intro _
    intro _
    intro _
    apply keeps_alignXing
    assumption
    assumption
    apply keeps_capexStart
    apply keeps_foldl
    intro _
    intro _
    intro _
    apply keeps_alignXing
    assumption
    assumption
    assumption

theorem keeps_execLockDone {port : PortNo} {s : State} {kt : State} (ke : execLockDone port s = .next kt) (hs : Keeps kqu kou kfr s) : Keeps kqu kou kfr kt := by
  simp only [execLockDone, State.done, Host.Outcome.next.injEq] at ke
  subst ke
  with_reducible
    apply keeps_settle
    apply keeps_lockEnd
    assumption

theorem keeps_execLockTimeout {port : PortNo} {s : State} {kt : State} (ke : execLockTimeout port s = .next kt) (hs : Keeps kqu kou kfr s) : Keeps kqu kou kfr kt := by
  simp only [execLockTimeout, State.done, Host.Outcome.next.injEq] at ke
  subst ke
  with_reducible
    apply keeps_settle
    apply keeps_ite
    apply keeps_moveStage
    assumption
    assumption

theorem keeps_showPartner (s : State) (port : Nat) (msg : CapMsg) (hs : Keeps kqu kou kfr s) : Keeps kqu kou kfr (State.showPartner s port msg) := by
  unfold State.showPartner
  try dsimp only
  with_reducible
    apply keeps_showSpares
    apply keeps_php
    apply keeps_php
    apply keeps_foldl
    intro _
    intro _
    intro _
    apply keeps_p
    assumption
    assumption

theorem keeps_capability (s : State) (port : Nat) (msg : CapMsg) (hs : Keeps kqu kou kfr s) : Keeps kqu kou kfr (State.capability s port msg) := by
  unfold State.capability
  try dsimp only
  with_reducible
    apply keeps_ite
    assumption
    apply keeps_ite
    apply keeps_showPartner
    assumption
    apply keeps_ite
    apply keeps_capexEnd
    apply keeps_php
    apply keeps_startLl
    apply keeps_showPartner
    assumption
    apply keeps_ite
    apply keeps_php
    apply keeps_showPartner
    assumption
    apply keeps_raise
    apply keeps_php
    apply keeps_php
    apply keeps_showPartner
    assumption

theorem keeps_execCapability {port : PortNo} {msg : CapMsg} {s : State} {kt : State} (ke : execCapability port msg s = .next kt) (hs : Keeps kqu kou kfr s) : Keeps kqu kou kfr kt := by
  simp only [execCapability, State.done, Host.Outcome.next.injEq] at ke
  subst ke
  with_reducible
    apply keeps_settle
    apply keeps_capability
    assumption

theorem keeps_execCapexResend {port : PortNo} {s : State} {kt : State} (ke : execCapexResend port s = .next kt) (hs : Keeps kqu kou kfr s) : Keeps kqu kou kfr kt := by
  simp only [execCapexResend, State.done, Host.Outcome.next.injEq] at ke
  subst ke
  with_reducible
    apply keeps_ite
    apply keeps_sendCaps
    assumption
    assumption

theorem keeps_addrRecheck (s : State) (g : Nat) (hs : Keeps kqu kou kfr s) : Keeps kqu kou kfr (State.addrRecheck s g) := by
  unfold State.addrRecheck
  try dsimp only
  with_reducible
    apply keeps_foldl
    intro _
    intro _
    intro _
    apply keeps_ite
    apply keeps_ite
    apply keeps_capexEnd
    apply keeps_sendCaps
    apply keeps_php
    assumption
    apply keeps_php
    assumption
    assumption
    assumption

theorem keeps_execAddrRecheck {g : GroupNo} {s : State} {kt : State} (ke : execAddrRecheck g s = .next kt) (hs : Keeps kqu kou kfr s) : Keeps kqu kou kfr kt := by
  simp only [execAddrRecheck, State.done, Host.Outcome.next.injEq] at ke
  subst ke
  with_reducible
    apply keeps_settle
    apply keeps_addrRecheck
    assumption

theorem keeps_execRetrain {port : PortNo} {s : State} {kt : State} (ke : execRetrain port s = .next kt) (hs : Keeps kqu kou kfr s) : Keeps kqu kou kfr kt := by
  simp only [execRetrain, State.done, Host.Outcome.next.injEq] at ke
  subst ke
  with_reducible
    apply keeps_settle
    apply keeps_ite
    apply keeps_moveStage
    assumption
    assumption

theorem keeps_lockLost (s : State) (k n : Nat) (hs : Keeps kqu kou kfr s) : Keeps kqu kou kfr (State.lockLost s k n) := by
  unfold State.lockLost
  try dsimp only
  with_reducible
    split
    assumption
    apply keeps_ite
    assumption
    apply keeps_ite
    apply keeps_moveStage
    assumption
    apply keeps_ite
    assumption
    apply keeps_ite
    apply keeps_raise
    apply keeps_moveStage
    assumption
    apply keeps_ite
    apply keeps_raise
    apply keeps_moveStage
    apply keeps_php
    assumption
    apply keeps_ite
    apply keeps_swSay
    apply keeps_showLane
    apply keeps_showPort
    apply keeps_php
    assumption
    apply keeps_ite
    apply keeps_ite
    apply keeps_requestSwitch
    apply keeps_showLane
    apply keeps_showPort
    apply keeps_php
    assumption
    apply keeps_showLane
    apply keeps_showPort
    apply keeps_php
    assumption
    apply keeps_raise
    apply keeps_showLane
    apply keeps_showPort
    apply keeps_php
    assumption

theorem keeps_execLaneLockLost {k : DieNo} {n : LaneNo} {s : State} {kt : State} (ke : execLaneLockLost k n s = .next kt) (hs : Keeps kqu kou kfr s) : Keeps kqu kou kfr kt := by
  simp only [execLaneLockLost, State.done, Host.Outcome.next.injEq] at ke
  subst ke
  with_reducible
    apply keeps_settle
    apply keeps_ite
    apply keeps_lockLost
    assumption
    assumption

theorem keeps_execSparePolicyWindow {k : DieNo} {n : LaneNo} {s : State} {kt : State} (ke : execSparePolicyWindow k n s = .next kt) (hs : Keeps kqu kou kfr s) : Keeps kqu kou kfr kt := by
  simp only [execSparePolicyWindow, State.done, Host.Outcome.next.injEq] at ke
  subst ke
  with_reducible
    apply keeps_ite
    apply keeps_p
    apply keeps_p
    assumption
    assumption

theorem keeps_prepare (s : State) (port idx j : Nat) (hs : Keeps kqu kou kfr s) : Keeps kqu kou kfr (State.prepare s port idx j) := by
  unfold State.prepare
  try dsimp only
  with_reducible
    split
    assumption
    apply keeps_ite
    assumption
    apply keeps_ite
    apply keeps_startSwitch
    assumption
    assumption

theorem keeps_execSparePrepare {port : PortNo} {idx : BitVec 3} {j : BitVec 2} {s : State} {kt : State} (ke : execSparePrepare port idx j s = .next kt) (hs : Keeps kqu kou kfr s) : Keeps kqu kou kfr kt := by
  simp only [execSparePrepare, State.done, Host.Outcome.next.injEq] at ke
  subst ke
  with_reducible
    apply keeps_prepare
    assumption

theorem keeps_spareTrained (s : State) (k : Nat) (hs : Keeps kqu kou kfr s) : Keeps kqu kou kfr (State.spareTrained s k) := by
  unfold State.spareTrained
  try dsimp only
  with_reducible
    split
    assumption
    apply keeps_ite
    apply keeps_ite
    apply keeps_swSay
    apply keeps_setSw
    apply keeps_adaptLane
    assumption
    apply keeps_adaptLane
    assumption
    assumption

theorem keeps_execSpareTrainDone {k : DieNo} {s : State} {kt : State} (ke : execSpareTrainDone k s = .next kt) (hs : Keeps kqu kou kfr s) : Keeps kqu kou kfr kt := by
  simp only [execSpareTrainDone, State.done, Host.Outcome.next.injEq] at ke
  subst ke
  with_reducible
    apply keeps_spareTrained
    assumption

theorem keeps_execSpareTrainFail {k : DieNo} {s : State} {kt : State} (ke : execSpareTrainFail k s = .next kt) (hs : Keeps kqu kou kfr s) : Keeps kqu kou kfr kt := by
  simp only [execSpareTrainFail, State.done, Host.Outcome.next.injEq] at ke
  subst ke
  with_reducible
    apply keeps_settle
    split
    assumption
    apply keeps_ite
    apply keeps_failSwitch
    assumption
    assumption

theorem keeps_execSpareSwitch {port : PortNo} {idx : BitVec 3} {j : BitVec 2} {sw : BitVec 32} {s : State} {kt : State} (ke : execSpareSwitch port idx j sw s = .next kt) (hs : Keeps kqu kou kfr s) : Keeps kqu kou kfr kt := by
  simp only [execSpareSwitch, State.done, Host.Outcome.next.injEq] at ke
  subst ke
  with_reducible
    split
    assumption
    apply keeps_ite
    assumption
    apply keeps_swSay
    apply keeps_setSw
    assumption

theorem keeps_execSpareAck {port : PortNo} {idx : BitVec 3} {j : BitVec 2} {sw : BitVec 32} {s : State} {kt : State} (ke : execSpareAck port idx j sw s = .next kt) (hs : Keeps kqu kou kfr s) : Keeps kqu kou kfr kt := by
  simp only [execSpareAck, State.done, Host.Outcome.next.injEq] at ke
  subst ke
  with_reducible
    split
    assumption
    apply keeps_ite
    apply keeps_setSw
    assumption
    assumption

theorem keeps_execSpareSwitchover {k : DieNo} {s : State} {kt : State} (ke : execSpareSwitchover k s = .next kt) (hs : Keeps kqu kou kfr s) : Keeps kqu kou kfr kt := by
  simp only [execSpareSwitchover, State.done, Host.Outcome.next.injEq] at ke
  subst ke
  with_reducible
    apply keeps_settle
    split
    assumption
    apply keeps_ite
    apply keeps_finishSwitch
    assumption
    assumption

theorem keeps_stopPorts (s : State) (k : Nat) (hs : Keeps kqu kou kfr s) : Keeps kqu kou kfr (State.stopPorts s k) := by
  unfold State.stopPorts
  try dsimp only
  with_reducible
    apply keeps_foldl
    intro _
    intro _
    intro _
    apply keeps_ite
    assumption
    apply keeps_showLane
    assumption
    apply keeps_foldl
    intro _
    intro _
    intro _
    apply keeps_ite
    assumption
    apply keeps_moveStage
    assumption
    assumption

theorem keeps_execRefclkLost {k : DieNo} {s : State} {kt : State} (ke : execRefclkLost k s = .next kt) (hs : Keeps kqu kou kfr s) : Keeps kqu kou kfr kt := by
  simp only [execRefclkLost, State.done, Host.Outcome.next.injEq] at ke
  subst ke
  with_reducible
    apply keeps_settle
    apply keeps_raise
    apply keeps_stopPorts
    apply keeps_p
    apply keeps_p
    assumption

theorem keeps_execRefclkRestored {k : DieNo} {s : State} {kt : State} (ke : execRefclkRestored k s = .next kt) (hs : Keeps kqu kou kfr s) : Keeps kqu kou kfr kt := by
  simp only [execRefclkRestored, State.done, Host.Outcome.next.injEq] at ke
  subst ke
  with_reducible
    apply keeps_p
    apply keeps_p
    apply keeps_p
    apply keeps_draw
    assumption

theorem keeps_checkPattern (s : State) (b : Blk) (l : List Bool) (hs : Keeps kqu kou kfr s) : Keeps kqu kou kfr (State.checkPattern s b l) := by
  unfold State.checkPattern
  try dsimp only
  with_reducible
    apply keeps_add
    apply keeps_add
    apply keeps_p
    apply keeps_p
    assumption

theorem keeps_tlinkWord (s : State) (k n : Nat) (side : Nat) (body : List Bool) (hs : Keeps kqu kou kfr s) : Keeps kqu kou kfr (State.tlinkWord s k n side body).1 := by
  unfold State.tlinkWord
  try dsimp only
  with_reducible
    split
    dsimp only
    apply keeps_p
    apply keeps_p
    apply keeps_p
    assumption
    dsimp only
    apply keeps_ite
    apply keeps_p
    apply keeps_p
    apply keeps_p
    assumption
    apply keeps_p
    apply keeps_p
    assumption
    dsimp only
    apply keeps_p
    apply keeps_p
    assumption

theorem keeps_tlinkWord_eq {s : State} {k n : Nat} {side : Nat} {body : List Bool} {x0 : State} {x1 : List (List Byte)} (ke : State.tlinkWord s k n side body = (x0, x1)) (hs : Keeps kqu kou kfr s) : Keeps kqu kou kfr x0 := by
  have k := keeps_tlinkWord (kqu := kqu) (kou := kou) (kfr := kfr) s k n side body hs
  rw [ke] at k
  exact k

theorem keeps_rxTlink (s : State) (k n l port : Nat) (ls : List Nat) (hs : Keeps kqu kou kfr s) : Keeps kqu kou kfr (State.rxTlink s k n l port ls) := by
  unfold State.rxTlink
  try dsimp only
  with_reducible
    apply keeps_ite
    split
    dsimp only
    apply keeps_p
    apply keeps_applyPolicy
    apply keeps_countFec
    assumption
    dsimp only
    apply keeps_tlinkWord
    apply keeps_applyPolicy
    apply keeps_countFec
    assumption
    split
    split
    dsimp only
    apply keeps_p
    apply keeps_applyPolicy
    apply keeps_countFec
    assumption
    dsimp only
    apply keeps_tlinkWord
    apply keeps_applyPolicy
    apply keeps_countFec
    assumption
    apply keeps_setLl
    split
    dsimp only
    apply keeps_p
    apply keeps_applyPolicy
    apply keeps_countFec
    assumption
    dsimp only
    apply keeps_tlinkWord
    apply keeps_applyPolicy
    apply keeps_countFec
    assumption

theorem keeps_rxEth (s : State) (k n l port : Nat) (ls : List Nat) (hs : Keeps kqu kou kfr s) : Keeps kqu kou kfr (State.rxEth s k n l port ls) := by
  unfold State.rxEth
  try dsimp only
  with_reducible
    split
    apply keeps_applyPolicy
    apply keeps_countFec
    assumption
    apply keeps_php
    apply keeps_applyPolicy
    apply keeps_countFec
    assumption

theorem keeps_rxCodeword (s : State) (k n : Nat) (ls : List Nat) (hs : Keeps kqu kou kfr s) : Keeps kqu kou kfr (State.rxCodeword s k n ls) := by
  unfold State.rxCodeword
  try dsimp only
  with_reducible
    apply keeps_ite
    apply keeps_checkPattern
    assumption
    split
    assumption
    apply keeps_ite
    assumption
    apply keeps_ite
    apply keeps_rxEth
    apply keeps_ite
    apply keeps_adaptRx
    assumption
    assumption
    apply keeps_rxTlink
    apply keeps_ite
    apply keeps_adaptRx
    assumption
    assumption

theorem keeps_execDataCodeword {k : DieNo} {n : LaneNo} {side body parity : Line} {s : State} {kt : State} (ke : execDataCodeword k n side body parity s = .next kt) (hs : Keeps kqu kou kfr s) : Keeps kqu kou kfr kt := by
  simp only [execDataCodeword, State.done, Host.Outcome.next.injEq] at ke
  subst ke
  with_reducible
    apply keeps_settle
    apply keeps_ite
    apply keeps_rxCodeword
    assumption
    assumption

theorem keeps_sendPattern (s : State) (k n : Nat) (hs : Keeps kqu kou kfr s) : Keeps kqu kou kfr (State.sendPattern s k n) := by
  unfold State.sendPattern
  try dsimp only
  with_reducible
    apply keeps_emit
    apply keeps_p
    assumption

theorem keeps_sendSyms (s : State) (k n port tag : Nat) (syms : List Nat) (hs : Keeps kqu kou kfr s) : Keeps kqu kou kfr (State.sendSyms s k n port tag syms) := by
  unfold State.sendSyms
  try dsimp only
  with_reducible
    apply keeps_emit
    assumption

theorem keeps_sentCodeword (s : State) (k n port : Nat) (hs : Keeps kqu kou kfr s) : Keeps kqu kou kfr (State.sentCodeword s k n port) := by
  unfold State.sentCodeword
  try dsimp only
  with_reducible
    apply keeps_p
    apply keeps_p
    apply keeps_sendSide
    assumption

theorem keeps_sendControl (s : State) (k n port side idx : Nat) (hs : Keeps kqu kou kfr s) : Keeps kqu kou kfr (State.sendControl s k n port side idx) := by
  unfold State.sendControl
  try dsimp only
  with_reducible
    apply keeps_p
    apply keeps_sendSyms
    assumption

theorem keeps_sendData (s : State) (k n port side idx : Nat) (hs : Keeps kqu kou kfr s) : Keeps kqu kou kfr (State.sendData s k n port side idx) := by
  unfold State.sendData
  try dsimp only
  with_reducible
    apply keeps_sendSyms
    apply keeps_p
    split
    dsimp only
    assumption
    split
    dsimp only
    apply keeps_setLl
    assumption
    dsimp only
    apply keeps_setLl
    assumption

theorem keeps_txCodeword (s : State) (k n : Nat) (hs : Keeps kqu kou kfr s) : Keeps kqu kou kfr (State.txCodeword s k n) := by
  unfold State.txCodeword
  try dsimp only
  with_reducible
    apply keeps_ite
    apply keeps_sendPattern
    assumption
    split
    assumption
    apply keeps_ite
    assumption
    apply keeps_ite
    apply keeps_sendSyms
    apply keeps_draw
    assumption
    apply keeps_ite
    apply keeps_sendControl
    apply keeps_sentCodeword
    assumption
    apply keeps_sendData
    apply keeps_sentCodeword
    assumption

theorem keeps_execCodewordTx {k : DieNo} {n : LaneNo} {s : State} {kt : State} (ke : execCodewordTx k n s = .next kt) (hs : Keeps kqu kou kfr s) : Keeps kqu kou kfr kt := by
  simp only [execCodewordTx, State.done, Host.Outcome.next.injEq] at ke
  subst ke
  with_reducible
    apply keeps_ite
    apply keeps_txCodeword
    assumption
    assumption

end Sys2Proof.Machine
end

