-- ==== Sys2Proof/Laws/KeepsReduction.lean ====
section
/-! SUPPORT. What every operation of Machine/Reduction.lean keeps. -/

namespace Sys2Proof.Machine

variable {kqu : List Instr} {kou : List Emit} {kfr : Nat}

theorem keeps_execRdxAdmit {m : Mst} {n : EngNo} {v : Word} {s : State} {kt : State} (ke : execRdxAdmit m n v s = .next kt) (hs : Keeps kqu kou kfr s) : Keeps kqu kou kfr kt := by
  simp only [execRdxAdmit, State.done, Host.Outcome.next.injEq] at ke
  subst ke
  with_reducible
    apply keeps_settle
    apply keeps_rdxCommand
    assumption

theorem keeps_execRetire {m : Mst} {n : EngNo} {v : Word} {s : State} {kt : State} (ke : execRetire m n v s = .next kt) (hs : Keeps kqu kou kfr s) : Keeps kqu kou kfr kt := by
  simp only [execRetire, State.done, Host.Outcome.next.injEq] at ke
  subst ke
  with_reducible
    apply keeps_settle
    apply keeps_rdxCommand
    assumption

theorem keeps_execRdxReset {m : Mst} {n : EngNo} {v : Word} {s : State} {kt : State} (ke : execRdxReset m n v s = .next kt) (hs : Keeps kqu kou kfr s) : Keeps kqu kou kfr kt := by
  simp only [execRdxReset, State.done, Host.Outcome.next.injEq] at ke
  subst ke
  with_reducible
    apply keeps_settle
    apply keeps_rdxCommand
    assumption

theorem keeps_execSave {m : Mst} {n : EngNo} {v : Word} {s : State} {kt : State} (ke : execSave m n v s = .next kt) (hs : Keeps kqu kou kfr s) : Keeps kqu kou kfr kt := by
  simp only [execSave, State.done, Host.Outcome.next.injEq] at ke
  subst ke
  with_reducible
    apply keeps_settle
    apply keeps_rdxCommand
    assumption

theorem keeps_execRestore {m : Mst} {n : EngNo} {v : Word} {s : State} {kt : State} (ke : execRestore m n v s = .next kt) (hs : Keeps kqu kou kfr s) : Keeps kqu kou kfr kt := by
  simp only [execRestore, State.done, Host.Outcome.next.injEq] at ke
  subst ke
  with_reducible
    apply keeps_settle
    apply keeps_rdxCommand
    assumption

theorem keeps_execRdxCmdDone {n : EngNo} {s : State} {kt : State} (ke : execRdxCmdDone n s = .next kt) (hs : Keeps kqu kou kfr s) : Keeps kqu kou kfr kt := by
  simp only [execRdxCmdDone, State.done, Host.Outcome.next.injEq] at ke
  subst ke
  with_reducible
    apply keeps_settle
    apply keeps_rdxCmdDone
    assumption

theorem keeps_execScOpen {m : Mst} {v : Word} {s : State} {kt : State} (ke : execScOpen m v s = .next kt) (hs : Keeps kqu kou kfr s) : Keeps kqu kou kfr kt := by
  simp only [execScOpen, State.done, Host.Outcome.next.injEq] at ke
  subst ke
  with_reducible
    apply keeps_settle
    apply keeps_scCommand
    assumption

theorem keeps_execScClose {m : Mst} {v : Word} {s : State} {kt : State} (ke : execScClose m v s = .next kt) (hs : Keeps kqu kou kfr s) : Keeps kqu kou kfr kt := by
  simp only [execScClose, State.done, Host.Outcome.next.injEq] at ke
  subst ke
  with_reducible
    apply keeps_settle
    apply keeps_scCommand
    assumption

theorem keeps_execCollContrib {port : PortNo} {p : CPkt} {s : State} {kt : State} (ke : execCollContrib port p s = .next kt) (hs : Keeps kqu kou kfr s) : Keeps kqu kou kfr kt := by
  simp only [execCollContrib, State.done, Host.Outcome.next.injEq] at ke
  subst ke
  with_reducible
    apply keeps_settle
    apply keeps_collIn
    assumption

theorem keeps_execCollPartial {port : PortNo} {p : CPkt} {s : State} {kt : State} (ke : execCollPartial port p s = .next kt) (hs : Keeps kqu kou kfr s) : Keeps kqu kou kfr kt := by
  simp only [execCollPartial, State.done, Host.Outcome.next.injEq] at ke
  subst ke
  with_reducible
    apply keeps_settle
    apply keeps_collIn
    assumption

theorem keeps_execClaim {c : CtxNo} {s : State} {kt : State} (ke : execClaim c s = .next kt) (hs : Keeps kqu kou kfr s) : Keeps kqu kou kfr kt := by
  simp only [execClaim, State.done, Host.Outcome.next.injEq] at ke
  subst ke
  with_reducible
    apply keeps_settle
    apply keeps_claim
    assumption

theorem keeps_execClaimGrant {c : CtxNo} {s : State} {kt : State} (ke : execClaimGrant c s = .next kt) (hs : Keeps kqu kou kfr s) : Keeps kqu kou kfr kt := by
  simp only [execClaimGrant, State.done, Host.Outcome.next.injEq] at ke
  subst ke
  with_reducible
    apply keeps_settle
    apply keeps_claimGrant
    assumption

theorem keeps_execEngineAccumulate {n : EngNo} {s : State} {kt : State} (ke : execEngineAccumulate n s = .next kt) (hs : Keeps kqu kou kfr s) : Keeps kqu kou kfr kt := by
  simp only [execEngineAccumulate, State.done, Host.Outcome.next.injEq] at ke
  subst ke
  with_reducible
    apply keeps_settle
    apply keeps_accumulate
    assumption

theorem keeps_execLineRelease {c : CtxNo} {line : BitVec 64} {s : State} {kt : State} (ke : execLineRelease c line s = .next kt) (hs : Keeps kqu kou kfr s) : Keeps kqu kou kfr kt := by
  simp only [execLineRelease, State.done, Host.Outcome.next.injEq] at ke
  subst ke
  with_reducible
    apply keeps_settle
    apply keeps_lineRelease
    assumption

theorem keeps_execEpilogue {c : CtxNo} {line : BitVec 64} {s : State} {kt : State} (ke : execEpilogue c line s = .next kt) (hs : Keeps kqu kou kfr s) : Keeps kqu kou kfr kt := by
  simp only [execEpilogue, State.done, Host.Outcome.next.injEq] at ke
  subst ke
  with_reducible
    apply keeps_settle
    apply keeps_epilogue
    assumption

theorem keeps_execResultSend {c : CtxNo} {s : State} {kt : State} (ke : execResultSend c s = .next kt) (hs : Keeps kqu kou kfr s) : Keeps kqu kou kfr kt := by
  simp only [execResultSend, State.done, Host.Outcome.next.injEq] at ke
  subst ke
  with_reducible
    apply keeps_settle
    apply keeps_resultSend
    assumption

theorem keeps_execCollResult {port : PortNo} {p : CPkt} {s : State} {kt : State} (ke : execCollResult port p s = .next kt) (hs : Keeps kqu kou kfr s) : Keeps kqu kou kfr kt := by
  simp only [execCollResult, State.done, Host.Outcome.next.injEq] at ke
  subst ke
  with_reducible
    apply keeps_settle
    apply keeps_collResult
    assumption

theorem keeps_execCollWindow {port : PortNo} {p : CPkt} {s : State} {kt : State} (ke : execCollWindow port p s = .next kt) (hs : Keeps kqu kou kfr s) : Keeps kqu kou kfr kt := by
  simp only [execCollWindow, State.done, Host.Outcome.next.injEq] at ke
  subst ke
  with_reducible
    apply keeps_settle
    apply keeps_collWindow
    assumption

theorem keeps_execCollSmall {port : PortNo} {p : CPkt} {s : State} {kt : State} (ke : execCollSmall port p s = .next kt) (hs : Keeps kqu kou kfr s) : Keeps kqu kou kfr kt := by
  simp only [execCollSmall, State.done, Host.Outcome.next.injEq] at ke
  subst ke
  with_reducible
    apply keeps_settle
    apply keeps_collSmall
    assumption

end Sys2Proof.Machine
end

