-- ==== Sys2Proof/Laws/KeepsRoost.lean ====
section
/-! SUPPORT. What every operation of Machine/Roost.lean keeps. -/

namespace Sys2Proof.Machine

variable {kqu : List Instr} {kou : List Emit} {kfr : Nat}

theorem keeps_synOp (s : State) (m off tb i : Nat) (f : State → Code × State) (hs : Keeps kqu kou kfr s) (k_f : ∀ s, Keeps kqu kou kfr s → Keeps kqu kou kfr (f s).2) : Keeps kqu kou kfr (State.synOp s m off tb i f) := by
  unfold State.synOp
  try dsimp only
  with_reducible
    apply keeps_onWrite
    assumption
    intro _
    apply keeps_ite
    apply keeps_denyWrite
    assumption
    apply keeps_ite
    apply keeps_refuse
    apply k_f
    assumption
    apply k_f
    assumption

theorem keeps_signalAs (s : State) (src c ep amt : Nat) (hs : Keeps kqu kou kfr s) : Keeps kqu kou kfr (State.signalAs s src c ep amt).2 := by
  unfold State.signalAs
  try dsimp only
  with_reducible
    split
    apply keeps_signalVirt
    assumption
    apply keeps_signalPhys
    assumption

theorem keeps_signalAs_eq {s : State} {src c ep amt : Nat} {x0 : Code} {x1 : State} (ke : State.signalAs s src c ep amt = (x0, x1)) (hs : Keeps kqu kou kfr s) : Keeps kqu kou kfr x1 := by
  have k := keeps_signalAs (kqu := kqu) (kou := kou) (kfr := kfr) s src c ep amt hs
  rw [ke] at k
  exact k

theorem keeps_signalBy (s : State) (src c ep amt : Nat) (hs : Keeps kqu kou kfr s) : Keeps kqu kou kfr (State.signalBy s src c ep amt) := by
  unfold State.signalBy
  try dsimp only
  with_reducible
    apply keeps_emit
    apply keeps_signalAs
    assumption

theorem keeps_execSignal {src : Mst} {counter : BitVec 16} {epoch : BitVec 16} {amount : BitVec 32} {s : State} {kt : State} (ke : execSignal src counter epoch amount s = .next kt) (hs : Keeps kqu kou kfr s) : Keeps kqu kou kfr kt := by
  simp only [execSignal, State.done, Host.Outcome.next.injEq] at ke
  subst ke
  with_reducible
    apply keeps_settle
    apply keeps_signalBy
    assumption

theorem keeps_writeSignal (s : State) (m v : Nat) (hs : Keeps kqu kou kfr s) : Keeps kqu kou kfr (State.writeSignal s m v) := by
  unfold State.writeSignal
  try dsimp only
  with_reducible
    apply keeps_synOp
    assumption
    intro _
    intro _
    apply keeps_signalPhys
    assumption

theorem keeps_execSynSignal {m : Mst} {v : Word} {s : State} {kt : State} (ke : execSynSignal m v s = .next kt) (hs : Keeps kqu kou kfr s) : Keeps kqu kou kfr kt := by
  simp only [execSynSignal, State.done, Host.Outcome.next.injEq] at ke
  subst ke
  with_reducible
    apply keeps_settle
    apply keeps_writeSignal
    assumption

theorem keeps_writeClear (s : State) (m v : Nat) (hs : Keeps kqu kou kfr s) : Keeps kqu kou kfr (State.writeClear s m v) := by
  unfold State.writeClear
  try dsimp only
  with_reducible
    apply keeps_synOp
    assumption
    intro _
    intro _
    dsimp only
    apply keeps_cntEpoch
    assumption

theorem keeps_execClear {m : Mst} {v : Word} {s : State} {kt : State} (ke : execClear m v s = .next kt) (hs : Keeps kqu kou kfr s) : Keeps kqu kou kfr kt := by
  simp only [execClear, State.done, Host.Outcome.next.injEq] at ke
  subst ke
  with_reducible
    apply keeps_settle
    apply keeps_writeClear
    assumption

theorem keeps_writeFlag (s : State) (m v : Nat) (hs : Keeps kqu kou kfr s) : Keeps kqu kou kfr (State.writeFlag s m v) := by
  unfold State.writeFlag
  try dsimp only
  with_reducible
    apply keeps_synOp
    assumption
    intro _
    intro _
    apply keeps_flagWrite
    assumption

theorem keeps_execFlagSet {m : Mst} {v : Word} {s : State} {kt : State} (ke : execFlagSet m v s = .next kt) (hs : Keeps kqu kou kfr s) : Keeps kqu kou kfr kt := by
  simp only [execFlagSet, State.done, Host.Outcome.next.injEq] at ke
  subst ke
  with_reducible
    apply keeps_settle
    apply keeps_writeFlag
    assumption

theorem keeps_execFlagClr {m : Mst} {v : Word} {s : State} {kt : State} (ke : execFlagClr m v s = .next kt) (hs : Keeps kqu kou kfr s) : Keeps kqu kou kfr kt := by
  simp only [execFlagClr, State.done, Host.Outcome.next.injEq] at ke
  subst ke
  with_reducible
    apply keeps_settle
    apply keeps_writeFlag
    assumption

theorem keeps_writeArm (s : State) (m v : Nat) (hs : Keeps kqu kou kfr s) : Keeps kqu kou kfr (State.writeArm s m v) := by
  unfold State.writeArm
  try dsimp only
  with_reducible
    apply keeps_synOp
    assumption
    intro _
    intro _
    apply keeps_arm
    assumption

theorem keeps_execWatchArm {m : Mst} {v : Word} {s : State} {kt : State} (ke : execWatchArm m v s = .next kt) (hs : Keeps kqu kou kfr s) : Keeps kqu kou kfr kt := by
  simp only [execWatchArm, State.done, Host.Outcome.next.injEq] at ke
  subst ke
  with_reducible
    apply keeps_settle
    apply keeps_writeArm
    assumption

theorem keeps_writeCancel (s : State) (m v : Nat) (hs : Keeps kqu kou kfr s) : Keeps kqu kou kfr (State.writeCancel s m v) := by
  unfold State.writeCancel
  try dsimp only
  with_reducible
    apply keeps_synOp
    assumption
    intro _
    intro _
    apply keeps_cancel
    assumption

theorem keeps_execWatchCancel {m : Mst} {v : Word} {s : State} {kt : State} (ke : execWatchCancel m v s = .next kt) (hs : Keeps kqu kou kfr s) : Keeps kqu kou kfr kt := by
  simp only [execWatchCancel, State.done, Host.Outcome.next.injEq] at ke
  subst ke
  with_reducible
    apply keeps_settle
    apply keeps_writeCancel
    assumption

theorem keeps_writeBar (s : State) (m v : Nat) (hs : Keeps kqu kou kfr s) : Keeps kqu kou kfr (State.writeBar s m v) := by
  unfold State.writeBar
  try dsimp only
  with_reducible
    apply keeps_synOp
    assumption
    intro _
    intro _
    split
    apply keeps_barArm
    assumption
    apply keeps_barDisarm
    assumption
    dsimp only
    assumption

theorem keeps_execBarArm {m : Mst} {v : Word} {s : State} {kt : State} (ke : execBarArm m v s = .next kt) (hs : Keeps kqu kou kfr s) : Keeps kqu kou kfr kt := by
  simp only [execBarArm, State.done, Host.Outcome.next.injEq] at ke
  subst ke
  with_reducible
    apply keeps_settle
    apply keeps_writeBar
    assumption

theorem keeps_execBarDisarm {m : Mst} {v : Word} {s : State} {kt : State} (ke : execBarDisarm m v s = .next kt) (hs : Keeps kqu kou kfr s) : Keeps kqu kou kfr kt := by
  simp only [execBarDisarm, State.done, Host.Outcome.next.injEq] at ke
  subst ke
  with_reducible
    apply keeps_settle
    apply keeps_writeBar
    assumption

theorem keeps_synTblWrite (s : State) (m v : Nat) (hs : Keeps kqu kou kfr s) : Keeps kqu kou kfr (State.synTblWrite s m v) := by
  unfold State.synTblWrite
  try dsimp only
  with_reducible
    apply keeps_onWrite
    assumption
    intro _
    apply keeps_ite
    apply keeps_denyWrite
    assumption
    apply keeps_ite
    apply keeps_refuse
    assumption
    apply keeps_ite
    apply keeps_refuse
    assumption
    apply keeps_ite
    assumption
    apply keeps_ite
    apply keeps_refuse
    assumption
    apply keeps_storeTw
    assumption

theorem keeps_execSynTblWrite {m : Mst} {v : Word} {s : State} {kt : State} (ke : execSynTblWrite m v s = .next kt) (hs : Keeps kqu kou kfr s) : Keeps kqu kou kfr kt := by
  simp only [execSynTblWrite, State.done, Host.Outcome.next.injEq] at ke
  subst ke
  with_reducible
    apply keeps_settle
    apply keeps_synTblWrite
    assumption

theorem keeps_execWaitScan {s : State} {kt : State} (ke : execWaitScan s = .next kt) (hs : Keeps kqu kou kfr s) : Keeps kqu kou kfr kt := by
  simp only [execWaitScan, State.done, Host.Outcome.next.injEq] at ke
  subst ke
  with_reducible
    apply keeps_settle
    apply keeps_waitScan
    assumption

theorem keeps_writeWaitClear (s : State) (m v : Nat) (hs : Keeps kqu kou kfr s) : Keeps kqu kou kfr (State.writeWaitClear s m v) := by
  unfold State.writeWaitClear
  try dsimp only
  with_reducible
    apply keeps_onWrite
    assumption
    intro _
    apply keeps_ite
    apply keeps_waitClear
    assumption
    assumption

theorem keeps_execWaitClear {m : Mst} {v : Word} {s : State} {kt : State} (ke : execWaitClear m v s = .next kt) (hs : Keeps kqu kou kfr s) : Keeps kqu kou kfr kt := by
  simp only [execWaitClear, State.done, Host.Outcome.next.injEq] at ke
  subst ke
  with_reducible
    apply keeps_settle
    apply keeps_writeWaitClear
    assumption

end Sys2Proof.Machine
end

