-- ==== Sys2Proof/Laws/KeepsRegRead.lean ====
section
/-! SUPPORT. What every operation of Machine/RegRead.lean keeps. -/

namespace Sys2Proof.Machine

variable {kqu : List Instr} {kou : List Emit} {kfr : Nat}

theorem keeps_regRead (s : State) (m pg off : Nat) (hs : Keeps kqu kou kfr s) : Keeps kqu kou kfr (State.regRead s m pg off).2.2 := by
  unfold State.regRead
  try dsimp only
  with_reducible
    split
    dsimp only
    assumption
    split
    dsimp only
    apply keeps_inc
    assumption
    dsimp only
    assumption

theorem keeps_regRead_eq {s : State} {m pg off : Nat} {x0 : Code} {x1 : Nat} {x2 : State} (ke : State.regRead s m pg off = (x0, x1, x2)) (hs : Keeps kqu kou kfr s) : Keeps kqu kou kfr x2 := by
  have k := keeps_regRead (kqu := kqu) (kou := kou) (kfr := kfr) s m pg off hs
  rw [ke] at k
  exact k

end Sys2Proof.Machine
end

