-- ==== Sys2Proof/Laws/KeepsRoutes.lean ====
section
/-! SUPPORT. What every operation of Machine/Routes.lean keeps. -/

namespace Sys2Proof.Machine

variable {kqu : List Instr} {kou : List Emit} {kfr : Nat}

theorem keeps_rlCommand (s : State) (m v : Nat) (hs : Keeps kqu kou kfr s) : Keeps kqu kou kfr (State.rlCommand s m v) := by
  unfold State.rlCommand
  try dsimp only
  with_reducible
    apply keeps_onWrite
    assumption
    intro _
    apply keeps_ite
    apply keeps_refuse
    assumption
    apply keeps_ite
    apply keeps_refuseOp
    apply keeps_showCycle
    assumption
    apply keeps_addJob
    apply keeps_setBusy
    apply keeps_showCycle
    apply keeps_ite
    apply keeps_loadImage
    apply keeps_ite
    apply keeps_memDenied
    assumption
    assumption
    apply keeps_ite
    apply keeps_memDenied
    assumption
    assumption

theorem keeps_execCheck {m : Mst} {v : Word} {s : State} {kt : State} (ke : execCheck m v s = .next kt) (hs : Keeps kqu kou kfr s) : Keeps kqu kou kfr kt := by
  simp only [execCheck, State.done, Host.Outcome.next.injEq] at ke
  subst ke
  with_reducible
    apply keeps_settle
    apply keeps_rlCommand
    assumption

theorem keeps_execLoad {m : Mst} {v : Word} {s : State} {kt : State} (ke : execLoad m v s = .next kt) (hs : Keeps kqu kou kfr s) : Keeps kqu kou kfr kt := by
  simp only [execLoad, State.done, Host.Outcome.next.injEq] at ke
  subst ke
  with_reducible
    apply keeps_settle
    apply keeps_rlCommand
    assumption

theorem keeps_rlDone (s : State) (hs : Keeps kqu kou kfr s) : Keeps kqu kou kfr (State.rlDone s) := by
  unfold State.rlDone
  try dsimp only
  with_reducible
    split
    assumption
    apply keeps_ite
    apply keeps_sysFlag
    apply keeps_ite
    apply keeps_raise
    apply keeps_ite
    apply keeps_refuse
    apply keeps_setReg
    apply keeps_finish
    apply keeps_dropJob
    assumption
    apply keeps_setReg
    apply keeps_finish
    apply keeps_dropJob
    assumption
    apply keeps_ite
    apply keeps_refuse
    apply keeps_setReg
    apply keeps_finish
    apply keeps_dropJob
    assumption
    apply keeps_setReg
    apply keeps_finish
    apply keeps_dropJob
    assumption
    apply keeps_ite
    apply keeps_raise
    apply keeps_ite
    apply keeps_refuse
    apply keeps_setReg
    apply keeps_finish
    apply keeps_dropJob
    assumption
    apply keeps_setReg
    apply keeps_finish
    apply keeps_dropJob
    assumption
    apply keeps_ite
    apply keeps_refuse
    apply keeps_setReg
    apply keeps_finish
    apply keeps_dropJob
    assumption
    apply keeps_setReg
    apply keeps_finish
    apply keeps_dropJob
    assumption

theorem keeps_execRouteLoadDone {s : State} {kt : State} (ke : execRouteLoadDone s = .next kt) (hs : Keeps kqu kou kfr s) : Keeps kqu kou kfr kt := by
  simp only [execRouteLoadDone, State.done, Host.Outcome.next.injEq] at ke
  subst ke
  with_reducible
    apply keeps_settle
    apply keeps_rlDone
    assumption

end Sys2Proof.Machine
end

