-- ==== Sys2Proof/Laws/KeepsTables.lean ====
section
/-! SUPPORT. What every operation of Machine/Tables.lean keeps. -/

namespace Sys2Proof.Machine

variable {kqu : List Instr} {kou : List Emit} {kfr : Nat}

theorem keeps_macCmd (s : State) (op : Nat) (ws : List Nat) (hs : Keeps kqu kou kfr s) : Keeps kqu kou kfr (State.macCmd s op ws).2.2 := by
  unfold State.macCmd
  try dsimp only
  with_reducible
    split
    dsimp only
    apply keeps_setEntry
    assumption
    split
    dsimp only
    assumption
    dsimp only
    apply keeps_setEntry
    assumption
    dsimp only
    assumption
    dsimp only
    apply keeps_setEntry
    assumption
    dsimp only
    assumption

theorem keeps_macCmd_eq {s : State} {op : Nat} {ws : List Nat} {x0 : Code} {x1 : Option Nat} {x2 : State} (ke : State.macCmd s op ws = (x0, x1, x2)) (hs : Keeps kqu kou kfr s) : Keeps kqu kou kfr x2 := by
  have k := keeps_macCmd (kqu := kqu) (kou := kou) (kfr := kfr) s op ws hs
  rw [ke] at k
  exact k

theorem keeps_lpmCmd (s : State) (op : Nat) (ws : List Nat) (hs : Keeps kqu kou kfr s) : Keeps kqu kou kfr (State.lpmCmd s op ws).2.2 := by
  unfold State.lpmCmd
  try dsimp only
  with_reducible
    split
    dsimp only
    apply keeps_setEntry
    assumption
    split
    split
    dsimp only
    apply keeps_setEntry
    assumption
    dsimp only
    assumption
    split
    dsimp only
    apply keeps_setEntry
    assumption
    dsimp only
    assumption
    dsimp only
    assumption
    dsimp only
    apply keeps_setEntry
    assumption
    dsimp only
    assumption

theorem keeps_lpmCmd_eq {s : State} {op : Nat} {ws : List Nat} {x0 : Code} {x1 : Option Nat} {x2 : State} (ke : State.lpmCmd s op ws = (x0, x1, x2)) (hs : Keeps kqu kou kfr s) : Keeps kqu kou kfr x2 := by
  have k := keeps_lpmCmd (kqu := kqu) (kou := kou) (kfr := kfr) s op ws hs
  rw [ke] at k
  exact k

theorem keeps_tblAct (s : State) (t op n i : Nat) (hs : Keeps kqu kou kfr s) : Keeps kqu kou kfr (State.tblAct s t op n i).2.2 := by
  unfold State.tblAct
  try dsimp only
  with_reducible
    split
    dsimp only
    assumption
    split
    dsimp only
    assumption
    split
    split
    dsimp only
    assumption
    split
    dsimp only
    assumption
    split
    dsimp only
    assumption
    dsimp only
    apply keeps_setEntry
    assumption
    split
    dsimp only
    assumption
    split
    dsimp only
    assumption
    split
    apply keeps_macCmd
    assumption
    apply keeps_lpmCmd
    assumption

theorem keeps_tblAct_eq {s : State} {t op n i : Nat} {x0 : Code} {x1 : Option Nat} {x2 : State} (ke : State.tblAct s t op n i = (x0, x1, x2)) (hs : Keeps kqu kou kfr s) : Keeps kqu kou kfr x2 := by
  have k := keeps_tblAct (kqu := kqu) (kou := kou) (kfr := kfr) s t op n i hs
  rw [ke] at k
  exact k

theorem keeps_tblRefuse (s : State) (m : Nat) (b : Blk) (hs : Keeps kqu kou kfr s) : Keeps kqu kou kfr (State.tblRefuse s m b) := by
  unfold State.tblRefuse
  try dsimp only
  with_reducible
    apply keeps_p
    apply keeps_refuseOp
    assumption

theorem keeps_tblCommand (s : State) (m t v : Nat) (hs : Keeps kqu kou kfr s) : Keeps kqu kou kfr (State.tblCommand s m t v) := by
  unfold State.tblCommand
  try dsimp only
  with_reducible
    apply keeps_onWrite
    assumption
    intro _
    apply keeps_ite
    apply keeps_refuse
    assumption
    apply keeps_ite
    apply keeps_tblRefuse
    assumption
    apply keeps_addJob
    apply keeps_setBusy
    apply keeps_ite
    apply keeps_refuse
    apply keeps_ite
    apply keeps_mendCopies
    apply keeps_tblAct
    assumption
    apply keeps_tblAct
    assumption
    apply keeps_ite
    apply keeps_mendCopies
    apply keeps_tblAct
    assumption
    apply keeps_tblAct
    assumption

theorem keeps_execTblCmdRead {m : Mst} {t : TileNo} {v : Word} {s : State} {kt : State} (ke : execTblCmdRead m t v s = .next kt) (hs : Keeps kqu kou kfr s) : Keeps kqu kou kfr kt := by
  simp only [execTblCmdRead, State.done, Host.Outcome.next.injEq] at ke
  subst ke
  with_reducible
    apply keeps_settle
    apply keeps_tblCommand
    assumption

theorem keeps_execTblCmdWrite {m : Mst} {t : TileNo} {v : Word} {s : State} {kt : State} (ke : execTblCmdWrite m t v s = .next kt) (hs : Keeps kqu kou kfr s) : Keeps kqu kou kfr kt := by
  simp only [execTblCmdWrite, State.done, Host.Outcome.next.injEq] at ke
  subst ke
  with_reducible
    apply keeps_settle
    apply keeps_tblCommand
    assumption

theorem keeps_execTblCmdInsert {m : Mst} {t : TileNo} {v : Word} {s : State} {kt : State} (ke : execTblCmdInsert m t v s = .next kt) (hs : Keeps kqu kou kfr s) : Keeps kqu kou kfr kt := by
  simp only [execTblCmdInsert, State.done, Host.Outcome.next.injEq] at ke
  subst ke
  with_reducible
    apply keeps_settle
    apply keeps_tblCommand
    assumption

theorem keeps_execTblCmdDelete {m : Mst} {t : TileNo} {v : Word} {s : State} {kt : State} (ke : execTblCmdDelete m t v s = .next kt) (hs : Keeps kqu kou kfr s) : Keeps kqu kou kfr kt := by
  simp only [execTblCmdDelete, State.done, Host.Outcome.next.injEq] at ke
  subst ke
  with_reducible
    apply keeps_settle
    apply keeps_tblCommand
    assumption

theorem keeps_execTblCmdFind {m : Mst} {t : TileNo} {v : Word} {s : State} {kt : State} (ke : execTblCmdFind m t v s = .next kt) (hs : Keeps kqu kou kfr s) : Keeps kqu kou kfr kt := by
  simp only [execTblCmdFind, State.done, Host.Outcome.next.injEq] at ke
  subst ke
  with_reducible
    apply keeps_settle
    apply keeps_tblCommand
    assumption

theorem keeps_toStage (s : State) (t n i : Nat) (hs : Keeps kqu kou kfr s) : Keeps kqu kou kfr (State.toStage s t n i) := by
  unfold State.toStage
  try dsimp only
  with_reducible
    split
    assumption
    apply keeps_foldl
    intro _
    intro _
    intro _
    apply keeps_setReg
    assumption
    assumption

theorem keeps_tblDone (s : State) (t : Nat) (hs : Keeps kqu kou kfr s) : Keeps kqu kou kfr (State.tblDone s t) := by
  unfold State.tblDone
  try dsimp only
  with_reducible
    split
    assumption
    apply keeps_p
    apply keeps_finish
    apply keeps_ite
    apply keeps_toStage
    apply keeps_dropJob
    assumption
    apply keeps_dropJob
    assumption

theorem keeps_execTblCmdDone {t : TileNo} {s : State} {kt : State} (ke : execTblCmdDone t s = .next kt) (hs : Keeps kqu kou kfr s) : Keeps kqu kou kfr kt := by
  simp only [execTblCmdDone, State.done, Host.Outcome.next.injEq] at ke
  subst ke
  with_reducible
    apply keeps_tblDone
    assumption

end Sys2Proof.Machine
end

