-- ==== Sys2Proof/Laws/KeepsTiming.lean ====
section
/-! SUPPORT. What every operation of Machine/Timing.lean keeps. -/

namespace Sys2Proof.Machine

variable {kqu : List Instr} {kou : List Emit} {kfr : Nat}

theorem keeps_stageWindow (s : State) (b : Blk) (off count : Nat) (hs : Keeps kqu kou kfr s) : Keeps kqu kou kfr (State.stageWindow s b off count) := by
  unfold State.stageWindow
  try dsimp only
  with_reducible
    apply keeps_setReg
    assumption

theorem keeps_execStageMonWindow {pg : Pg} {count : BitVec 32} {s : State} {kt : State} (ke : execStageMonWindow pg count s = .next kt) (hs : Keeps kqu kou kfr s) : Keeps kqu kou kfr kt := by
  simp only [execStageMonWindow, State.done, Host.Outcome.next.injEq] at ke
  subst ke
  with_reducible
    split
    apply keeps_ite
    apply keeps_stageWindow
    assumption
    assumption
    apply keeps_ite
    apply keeps_stageWindow
    assumption
    assumption
    assumption

theorem keeps_realign (s : State) (b : Blk) (hs : Keeps kqu kou kfr s) : Keeps kqu kou kfr (State.realign s b) := by
  unfold State.realign
  try dsimp only
  with_reducible
    split
    apply keeps_ite
    apply keeps_alignXing
    assumption
    apply keeps_alignXing
    apply keeps_alignXing
    assumption
    apply keeps_alignXing
    apply keeps_alignXing
    assumption

theorem keeps_writeXing (s : State) (m pg v : Nat) (hs : Keeps kqu kou kfr s) : Keeps kqu kou kfr (State.writeXing s m pg v) := by
  unfold State.writeXing
  try dsimp only
  with_reducible
    split
    assumption
    apply keeps_ite
    assumption
    apply keeps_onWrite
    assumption
    intro _
    apply keeps_ite
    assumption
    apply keeps_ite
    apply keeps_realign
    assumption
    apply keeps_refuse
    assumption

theorem keeps_execRealign {m : Mst} {pg : Pg} {v : Word} {s : State} {kt : State} (ke : execRealign m pg v s = .next kt) (hs : Keeps kqu kou kfr s) : Keeps kqu kou kfr kt := by
  simp only [execRealign, State.done, Host.Outcome.next.injEq] at ke
  subst ke
  with_reducible
    apply keeps_settle
    apply keeps_writeXing
    assumption

theorem keeps_xingSlip (s : State) (b : Blk) (hs : Keeps kqu kou kfr s) : Keeps kqu kou kfr (State.xingSlip s b) := by
  unfold State.xingSlip
  try dsimp only
  with_reducible
    apply keeps_ite
    apply keeps_raise
    apply keeps_inc
    apply keeps_inc
    assumption
    assumption

theorem keeps_execXingSlip {pg : Pg} {s : State} {kt : State} (ke : execXingSlip pg s = .next kt) (hs : Keeps kqu kou kfr s) : Keeps kqu kou kfr kt := by
  simp only [execXingSlip, State.done, Host.Outcome.next.injEq] at ke
  subst ke
  with_reducible
    apply keeps_settle
    split
    assumption
    apply keeps_xingSlip
    assumption

theorem keeps_xingFail (s : State) (b : Blk) (hs : Keeps kqu kou kfr s) : Keeps kqu kou kfr (State.xingFail s b) := by
  unfold State.xingFail
  try dsimp only
  with_reducible
    apply keeps_ite
    apply keeps_raise
    apply keeps_p
    apply keeps_draw
    assumption
    assumption

theorem keeps_execXingAlignFail {pg : Pg} {s : State} {kt : State} (ke : execXingAlignFail pg s = .next kt) (hs : Keeps kqu kou kfr s) : Keeps kqu kou kfr kt := by
  simp only [execXingAlignFail, State.done, Host.Outcome.next.injEq] at ke
  subst ke
  with_reducible
    apply keeps_settle
    split
    assumption
    apply keeps_xingFail
    assumption

end Sys2Proof.Machine
end

