-- ==== Sys2Proof/Laws/KeepsRegWrite.lean ====
section
/-! SUPPORT. What every operation of Machine/RegWrite.lean keeps. -/

namespace Sys2Proof.Machine

variable {kqu : List Instr} {kou : List Emit} {kfr : Nat}

theorem keeps_plainAfter (s : State) (b : Blk) (off : Nat) (hs : Keeps kqu kou kfr s) : Keeps kqu kou kfr (State.plainAfter s b off) := by
  unfold State.plainAfter
  try dsimp only
  with_reducible
    split
    apply keeps_ite
    apply keeps_checkBudget
    assumption
    assumption
    apply keeps_ite
    apply keeps_clampRail
    apply keeps_clampRail
    assumption
    assumption
    assumption

theorem keeps_writePlain (s : State) (m pg off v : Nat) (hs : Keeps kqu kou kfr s) : Keeps kqu kou kfr (State.writePlain s m pg off v) := by
  unfold State.writePlain
  try dsimp only
  with_reducible
    apply keeps_onWrite
    assumption
    intro _
    apply keeps_ite
    apply keeps_refuse
    assumption
    apply keeps_ite
    assumption
    apply keeps_ite
    apply keeps_refuse
    assumption
    apply keeps_ite
    apply keeps_refuse
    assumption
    apply keeps_plainAfter
    apply keeps_countRedundant
    apply keeps_store
    assumption

theorem keeps_rdxTblWrite (s : State) (m n v : Nat) (hs : Keeps kqu kou kfr s) : Keeps kqu kou kfr (State.rdxTblWrite s m n v) := by
  unfold State.rdxTblWrite
  try dsimp only
  with_reducible
    apply keeps_onWrite
    assumption
    intro _
    apply keeps_ite
    assumption
    apply keeps_ite
    apply keeps_denyWrite
    assumption
    apply keeps_ite
    apply keeps_setRx
    assumption
    assumption

theorem keeps_scTblWrite (s : State) (m v : Nat) (hs : Keeps kqu kou kfr s) : Keeps kqu kou kfr (State.scTblWrite s m v) := by
  unfold State.scTblWrite
  try dsimp only
  with_reducible
    apply keeps_onWrite
    assumption
    intro _
    apply keeps_ite
    assumption
    apply keeps_ite
    apply keeps_denyWrite
    assumption
    apply keeps_ite
    apply keeps_refuse
    assumption
    apply keeps_ite
    apply keeps_refuse
    assumption
    apply keeps_storeTw
    assumption

theorem keeps_chrTblWrite (s : State) (m v : Nat) (hs : Keeps kqu kou kfr s) : Keeps kqu kou kfr (State.chrTblWrite s m v) := by
  unfold State.chrTblWrite
  try dsimp only
  with_reducible
    apply keeps_onWrite
    assumption
    intro _
    apply keeps_ite
    assumption
    apply keeps_ite
    apply keeps_denyWrite
    assumption
    apply keeps_ite
    apply keeps_refuse
    assumption
    apply keeps_storeTw
    assumption

theorem keeps_pmbWrite (s : State) (m v : Nat) (hs : Keeps kqu kou kfr s) : Keeps kqu kou kfr (State.pmbWrite s m v) := by
  unfold State.pmbWrite
  try dsimp only
  with_reducible
    apply keeps_onWrite
    assumption
    intro _
    apply keeps_ite
    apply keeps_refuse
    assumption
    apply keeps_storeTw
    assumption

theorem keeps_nonceWrite (s : State) (m off v : Nat) (hs : Keeps kqu kou kfr s) : Keeps kqu kou kfr (State.nonceWrite s m off v) := by
  unfold State.nonceWrite
  try dsimp only
  with_reducible
    apply keeps_onWrite
    assumption
    intro _
    apply keeps_setReg
    assumption

theorem keeps_ownerWrite (s : State) (m pg off v : Nat) (hs : Keeps kqu kou kfr s) : Keeps kqu kou kfr (State.ownerWrite s m pg off v) := by
  unfold State.ownerWrite
  try dsimp only
  with_reducible
    apply keeps_onWrite
    assumption
    intro _
    apply keeps_ite
    apply keeps_ite
    apply keeps_setReg
    assumption
    assumption
    apply keeps_setReg
    assumption

theorem keeps_blockWrite (s : State) (m pg off v : Nat) (b : Blk) (hs : Keeps kqu kou kfr s) : Keeps kqu kou kfr (State.blockWrite s m pg off v b) := by
  unfold State.blockWrite
  try dsimp only
  with_reducible
    split
    apply keeps_writeFltCmd
    assumption
    apply keeps_writeFltCmd
    assumption
    apply keeps_writeFltCmd
    assumption
    apply keeps_writeGrpCfg
    assumption
    apply keeps_writeLaneCtrl
    assumption
    apply keeps_writePrbs
    assumption
    apply keeps_writeXing
    assumption
    apply keeps_writeXing
    assumption
    apply keeps_writeXing
    assumption
    apply keeps_attTblWrite
    assumption
    apply keeps_attCommand
    assumption
    apply keeps_tblCommand
    assumption
    apply keeps_writeCls
    assumption
    apply keeps_writeLimit
    assumption
    apply keeps_poolCommand
    assumption
    apply keeps_rlCommand
    assumption
    apply keeps_writeDlCmd
    assumption
    apply keeps_rdxTblWrite
    assumption
    apply keeps_rdxCommand
    assumption
    apply keeps_synTblWrite
    assumption
    apply keeps_writeSignal
    assumption
    apply keeps_writeClear
    assumption
    apply keeps_writeFlag
    assumption
    apply keeps_writeArm
    assumption
    apply keeps_writeCancel
    assumption
    apply keeps_writeBar
    assumption
    apply keeps_writeWaitClear
    assumption
    apply keeps_scTblWrite
    assumption
    apply keeps_scCommand
    assumption
    apply keeps_partWrite
    assumption
    apply keeps_macCommand
    assumption
    apply keeps_trainWrite
    assumption
    apply keeps_trainCommand
    assumption
    apply keeps_chrTblWrite
    assumption
    apply keeps_pwrCommand
    assumption
    apply keeps_pmbWrite
    assumption
    apply keeps_hbmCommand
    assumption
    apply keeps_writeCcnReq
    assumption
    apply keeps_fwCommand
    assumption
    apply keeps_ite
    apply keeps_chrCommand
    assumption
    apply keeps_writePlain
    assumption
    apply keeps_ite
    apply keeps_nonceWrite
    assumption
    apply keeps_writePlain
    assumption
    apply keeps_ite
    apply keeps_fwCommand
    assumption
    apply keeps_writePlain
    assumption

theorem keeps_regWrite (s : State) (m pg off v : Nat) (hs : Keeps kqu kou kfr s) : Keeps kqu kou kfr (State.regWrite s m pg off v) := by
  unfold State.regWrite
  try dsimp only
  with_reducible
    split
    apply keeps_writeCtrl
    assumption
    apply keeps_writeForce
    assumption
    apply keeps_writeMask
    assumption
    apply keeps_writeAck
    assumption
    apply keeps_writeSnap
    assumption
    apply keeps_ite
    apply keeps_ownerWrite
    assumption
    split
    assumption
    apply keeps_blockWrite
    assumption

end Sys2Proof.Machine
end

