-- ==== Sys2Proof/Laws/KeepsDebug.lean ====
section
/-! SUPPORT. What every operation of Machine/Debug.lean keeps. -/

namespace Sys2Proof.Machine

variable {kqu : List Instr} {kou : List Emit} {kfr : Nat}

theorem keeps_setLevel (s : State) (l : Nat) (hs : Keeps kqu kou kfr s) : Keeps kqu kou kfr (State.setLevel s l) := by
  unfold State.setLevel
  try dsimp only
  with_reducible
    apply keeps_ite
    apply keeps_raise
    apply keeps_inc
    apply keeps_p
    apply keeps_p
    apply keeps_p
    apply keeps_p
    assumption
    apply keeps_p
    apply keeps_p
    apply keeps_p
    apply keeps_p
    assumption

theorem keeps_endSession (s : State) (hs : Keeps kqu kou kfr s) : Keeps kqu kou kfr (State.endSession s) := by
  unfold State.endSession
  try dsimp only
  with_reducible
    apply keeps_setLevel
    apply keeps_p
    apply keeps_foldl
    intro _
    intro _
    intro _
    apply keeps_endConsent
    assumption
    assumption

theorem keeps_reply (s : State) (op : Nat) (c : Code) (words : List Nat) (hs : Keeps kqu kou kfr s) : Keeps kqu kou kfr (State.reply s op c words) := by
  unfold State.reply
  try dsimp only
  with_reducible
    apply keeps_emit
    assumption

theorem keeps_dbgDeny (s : State) (op : Nat) (hs : Keeps kqu kou kfr s) : Keeps kqu kou kfr (State.dbgDeny s op) := by
  unfold State.dbgDeny
  try dsimp only
  with_reducible
    apply keeps_reply
    apply keeps_inc
    assumption

theorem keeps_setTap (s : State) (t : Tap) (hs : Keeps kqu kou kfr s) : Keeps kqu kou kfr (State.setTap s t) := by
  unfold State.setTap
  try dsimp only
  with_reducible
    refine keeps_mk ?_
    assumption

theorem keeps_execTapInstruction {ir : Byte} {s : State} {kt : State} (ke : execTapInstruction ir s = .next kt) (hs : Keeps kqu kou kfr s) : Keeps kqu kou kfr kt := by
  simp only [execTapInstruction, State.done, Host.Outcome.next.injEq] at ke
  subst ke
  with_reducible
    apply keeps_ite
    apply keeps_setTap
    assumption
    assumption

theorem keeps_execTapReset {s : State} {kt : State} (ke : execTapReset s = .next kt) (hs : Keeps kqu kou kfr s) : Keeps kqu kou kfr kt := by
  simp only [execTapReset, State.done, Host.Outcome.next.injEq] at ke
  subst ke
  with_reducible
    apply keeps_settle
    apply keeps_setTap
    apply keeps_endSession
    assumption

theorem keeps_execHello {s : State} {kt : State} (ke : execHello s = .next kt) (hs : Keeps kqu kou kfr s) : Keeps kqu kou kfr kt := by
  simp only [execHello, State.done, Host.Outcome.next.injEq] at ke
  subst ke
  with_reducible
    apply keeps_ite
    apply keeps_reply
    assumption
    assumption

theorem keeps_dbgNonce (s : State) (hs : Keeps kqu kou kfr s) : Keeps kqu kou kfr (State.dbgNonce s) := by
  unfold State.dbgNonce
  try dsimp only
  with_reducible
    apply keeps_ite
    apply keeps_reply
    assumption
    apply keeps_reply
    apply keeps_newChallenge
    assumption

theorem keeps_execDbgChallenge {s : State} {kt : State} (ke : execDbgChallenge s = .next kt) (hs : Keeps kqu kou kfr s) : Keeps kqu kou kfr kt := by
  simp only [execDbgChallenge, State.done, Host.Outcome.next.injEq] at ke
  subst ke
  with_reducible
    apply keeps_ite
    apply keeps_dbgNonce
    assumption
    assumption

theorem keeps_levelToken (s : State) (tok : List Byte) (hs : Keeps kqu kou kfr s) : Keeps kqu kou kfr (State.levelToken s tok).2 := by
  unfold State.levelToken
  try dsimp only
  with_reducible
    split
    dsimp only
    apply keeps_refuseToken
    assumption
    split
    dsimp only
    apply keeps_refuseToken
    assumption
    dsimp only
    apply keeps_setLevel
    apply keeps_ite
    assumption
    apply keeps_spendToken
    assumption

theorem keeps_levelToken_eq {s : State} {tok : List Byte} {x0 : Code} {x1 : State} (ke : State.levelToken s tok = (x0, x1)) (hs : Keeps kqu kou kfr s) : Keeps kqu kou kfr x1 := by
  have k := keeps_levelToken (kqu := kqu) (kou := kou) (kfr := kfr) s tok hs
  rw [ke] at k
  exact k

theorem keeps_consentToken (s : State) (tok : List Byte) (hs : Keeps kqu kou kfr s) : Keeps kqu kou kfr (State.consentToken s tok).2 := by
  unfold State.consentToken
  try dsimp only
  with_reducible
    split
    dsimp only
    apply keeps_refuseToken
    assumption
    split
    dsimp only
    apply keeps_refuseToken
    assumption
    dsimp only
    refine keeps_mk ?_
    apply keeps_pt
    apply keeps_pt
    apply keeps_p
    apply keeps_spendToken
    assumption

theorem keeps_consentToken_eq {s : State} {tok : List Byte} {x0 : Code} {x1 : State} (ke : State.consentToken s tok = (x0, x1)) (hs : Keeps kqu kou kfr s) : Keeps kqu kou kfr x1 := by
  have k := keeps_consentToken (kqu := kqu) (kou := kou) (kfr := kfr) s tok hs
  rw [ke] at k
  exact k

theorem keeps_takeToken (s : State) (tok : List Byte) (hs : Keeps kqu kou kfr s) : Keeps kqu kou kfr (State.takeToken s tok).2 := by
  unfold State.takeToken
  try dsimp only
  with_reducible
    split
    dsimp only
    assumption
    split
    apply keeps_levelToken
    assumption
    apply keeps_lifeToken
    assumption
    apply keeps_consentToken
    assumption
    dsimp only
    apply keeps_refuseToken
    assumption

theorem keeps_takeToken_eq {s : State} {tok : List Byte} {x0 : Code} {x1 : State} (ke : State.takeToken s tok = (x0, x1)) (hs : Keeps kqu kou kfr s) : Keeps kqu kou kfr x1 := by
  have k := keeps_takeToken (kqu := kqu) (kou := kou) (kfr := kfr) s tok hs
  rw [ke] at k
  exact k

theorem keeps_execToken {tok : List Byte} {s : State} {kt : State} (ke : execToken tok s = .next kt) (hs : Keeps kqu kou kfr s) : Keeps kqu kou kfr kt := by
  simp only [execToken, State.done, Host.Outcome.next.injEq] at ke
  subst ke
  with_reducible
    apply keeps_settle
    apply keeps_ite
    apply keeps_reply
    apply keeps_takeToken
    assumption
    assumption

theorem keeps_dbgFetch (s : State) (space a n : Nat) (hs : Keeps kqu kou kfr s) : Keeps kqu kou kfr (State.dbgFetch s space a n) := by
  unfold State.dbgFetch
  try dsimp only
  with_reducible
    apply keeps_ite
    apply keeps_reply
    assumption
    apply keeps_ite
    apply keeps_dbgDeny
    assumption
    split
    apply keeps_reply
    assumption
    apply keeps_reply
    assumption

theorem keeps_execDbgRead {space : BitVec 2} {addr : BitVec 52} {n : BitVec 9} {s : State} {kt : State} (ke : execDbgRead space addr n s = .next kt) (hs : Keeps kqu kou kfr s) : Keeps kqu kou kfr kt := by
  simp only [execDbgRead, State.done, Host.Outcome.next.injEq] at ke
  subst ke
  with_reducible
    apply keeps_settle
    apply keeps_ite
    apply keeps_dbgFetch
    assumption
    assumption

theorem keeps_dbgRegs (l : List Nat) (a : Nat) (s : State) (hs : Keeps kqu kou kfr s) : Keeps kqu kou kfr (State.dbgRegs l a s).2 := by
  fun_induction State.dbgRegs l a s with
  | case1 lo hi l a s s' h ih => exact ih (keeps_regWrite _ _ _ _ _ hs)
  | case2 lo hi l a s s' h => exact keeps_regWrite _ _ _ _ _ hs
  | case3 => exact hs
theorem keeps_dbgRegs_eq {l : List Nat} {a : Nat} {s : State} {x0 : Code} {x1 : State} (ke : State.dbgRegs l a s = (x0, x1)) (hs : Keeps kqu kou kfr s) : Keeps kqu kou kfr x1 := by
  have k := keeps_dbgRegs (kqu := kqu) (kou := kou) (kfr := kfr) l a s hs
  rw [ke] at k
  exact k

theorem keeps_dbgStore (s : State) (space a : Nat) (ws : List Nat) (hs : Keeps kqu kou kfr s) : Keeps kqu kou kfr (State.dbgStore s space a ws) := by
  unfold State.dbgStore
  try dsimp only
  with_reducible
    apply keeps_ite
    apply keeps_reply
    assumption
    apply keeps_ite
    apply keeps_dbgDeny
    assumption
    split
    apply keeps_reply
    split
    apply keeps_dbgRegs
    assumption
    dsimp only
    apply keeps_writeSpace
    assumption
    apply keeps_reply
    assumption

theorem keeps_execDbgWrite {space : BitVec 2} {addr : BitVec 52} {data : List (BitVec 32)} {s : State} {kt : State} (ke : execDbgWrite space addr data s = .next kt) (hs : Keeps kqu kou kfr s) : Keeps kqu kou kfr kt := by
  simp only [execDbgWrite, State.done, Host.Outcome.next.injEq] at ke
  subst ke
  with_reducible
    apply keeps_settle
    apply keeps_ite
    apply keeps_dbgStore
    assumption
    assumption

theorem keeps_dbgFreeze (s : State) (g : Nat) (hs : Keeps kqu kou kfr s) : Keeps kqu kou kfr (State.dbgFreeze s g) := by
  unfold State.dbgFreeze
  try dsimp only
  with_reducible
    apply keeps_ite
    assumption
    refine keeps_mk ?_
    apply keeps_p
    apply keeps_capture
    apply keeps_p
    assumption

theorem keeps_haltPart (s : State) (p : Nat) (hs : Keeps kqu kou kfr s) : Keeps kqu kou kfr (State.haltPart s p) := by
  unfold State.haltPart
  try dsimp only
  with_reducible
    apply keeps_ite
    assumption
    apply keeps_showHalted
    refine keeps_mk ?_
    apply keeps_foldl
    intro _
    intro _
    intro _
    apply keeps_dbgFreeze
    assumption
    apply keeps_gangHold
    assumption

theorem keeps_dbgHaltMsg (s : State) (p : Nat) (hs : Keeps kqu kou kfr s) : Keeps kqu kou kfr (State.dbgHaltMsg s p) := by
  unfold State.dbgHaltMsg
  try dsimp only
  with_reducible
    apply keeps_ite
    apply keeps_reply
    assumption
    apply keeps_ite
    apply keeps_dbgDeny
    assumption
    apply keeps_reply
    apply keeps_ite
    apply keeps_p
    apply keeps_foldl
    intro _
    intro _
    intro _
    apply keeps_haltPart
    assumption
    assumption
    apply keeps_haltPart
    assumption

theorem keeps_execDbgHalt {p : Byte} {s : State} {kt : State} (ke : execDbgHalt p s = .next kt) (hs : Keeps kqu kou kfr s) : Keeps kqu kou kfr kt := by
  simp only [execDbgHalt, State.done, Host.Outcome.next.injEq] at ke
  subst ke
  with_reducible
    apply keeps_settle
    apply keeps_ite
    apply keeps_dbgHaltMsg
    assumption
    assumption

theorem keeps_dbgResumeMsg (s : State) (p : Nat) (hs : Keeps kqu kou kfr s) : Keeps kqu kou kfr (State.dbgResumeMsg s p) := by
  unfold State.dbgResumeMsg
  try dsimp only
  with_reducible
    apply keeps_ite
    apply keeps_reply
    assumption
    apply keeps_ite
    apply keeps_dbgDeny
    assumption
    apply keeps_reply
    apply keeps_ite
    apply keeps_p
    apply keeps_foldl
    intro _
    intro _
    intro _
    apply keeps_debugResume
    assumption
    assumption
    apply keeps_debugResume
    assumption

theorem keeps_execDbgResume {p : Byte} {s : State} {kt : State} (ke : execDbgResume p s = .next kt) (hs : Keeps kqu kou kfr s) : Keeps kqu kou kfr kt := by
  simp only [execDbgResume, State.done, Host.Outcome.next.injEq] at ke
  subst ke
  with_reducible
    apply keeps_settle
    apply keeps_ite
    apply keeps_dbgResumeMsg
    assumption
    assumption

theorem keeps_execDbgEnd {s : State} {kt : State} (ke : execDbgEnd s = .next kt) (hs : Keeps kqu kou kfr s) : Keeps kqu kou kfr kt := by
  simp only [execDbgEnd, State.done, Host.Outcome.next.injEq] at ke
  subst ke
  with_reducible
    apply keeps_settle
    apply keeps_ite
    apply keeps_reply
    apply keeps_endSession
    assumption
    assumption

end Sys2Proof.Machine
end

