-- ==== Sys2Proof/Laws/KeepsEvents.lean ====
section
/-! SUPPORT. What every operation of Machine/Events.lean keeps. -/

namespace Sys2Proof.Machine

variable {kqu : List Instr} {kou : List Emit} {kfr : Nat}

theorem keeps_writeOut (s : State) (b : Blk) (x : Snap) (hs : Keeps kqu kou kfr s) : Keeps kqu kou kfr (State.writeOut s b x) := by
  unfold State.writeOut
  try dsimp only
  with_reducible
    apply keeps_ite
    apply keeps_endSnap
    assumption
    apply keeps_ite
    assumption
    apply keeps_ite
    apply keeps_endSnap
    assumption
    apply keeps_endSnap
    apply keeps_writeBuf
    assumption

theorem keeps_execSnapWriteoutDone {pg : Pg} {s : State} {kt : State} (ke : execSnapWriteoutDone pg s = .next kt) (hs : Keeps kqu kou kfr s) : Keeps kqu kou kfr kt := by
  simp only [execSnapWriteoutDone, State.done, Host.Outcome.next.injEq] at ke
  subst ke
  with_reducible
    apply keeps_settle
    split
    assumption
    split
    assumption
    apply keeps_writeOut
    assumption

theorem keeps_tableEcc (s : State) (t arg : Nat) (hs : Keeps kqu kou kfr s) : Keeps kqu kou kfr (State.tableEcc s t arg) := by
  unfold State.tableEcc
  try dsimp only
  with_reducible
    refine keeps_mk ?_
    apply keeps_inc
    assumption

theorem keeps_retireCell (s : State) (d : Nat) (hs : Keeps kqu kou kfr s) : Keeps kqu kou kfr (State.retireCell s d) := by
  unfold State.retireCell
  try dsimp only
  with_reducible
    apply keeps_ite
    apply keeps_setFreeCells
    apply keeps_inc
    assumption
    assumption

theorem keeps_cellEcc (s : State) (d cid : Nat) (hs : Keeps kqu kou kfr s) : Keeps kqu kou kfr (State.cellEcc s d cid) := by
  unfold State.cellEcc
  try dsimp only
  with_reducible
    apply keeps_retireCell
    split
    assumption
    apply keeps_ite
    apply keeps_add
    apply keeps_foldl
    intro _
    intro _
    intro _
    apply keeps_pfcCheck
    apply keeps_discard
    assumption
    assumption
    apply keeps_ite
    apply keeps_inc
    apply keeps_foldl
    intro _
    intro _
    intro _
    apply keeps_discard
    assumption
    assumption
    assumption

theorem keeps_dmaFault (s : State) (pg : Nat) (hs : Keeps kqu kou kfr s) : Keeps kqu kou kfr (State.dmaFault s pg) := by
  unfold State.dmaFault
  try dsimp only
  with_reducible
    refine keeps_mk ?_
    assumption

theorem keeps_meshEcc (s : State) (i : Nat) (hs : Keeps kqu kou kfr s) : Keeps kqu kou kfr (State.meshEcc s i) := by
  unfold State.meshEcc
  try dsimp only
  with_reducible
    split
    assumption
    apply keeps_meshGone
    assumption

theorem keeps_ownEffect (s : State) (b : Blk) (c arg : Nat) (hs : Keeps kqu kou kfr s) : Keeps kqu kou kfr (State.ownEffect s b c arg) := by
  unfold State.ownEffect
  try dsimp only
  with_reducible
    split
    apply keeps_tableEcc
    assumption
    apply keeps_cellEcc
    assumption
    apply keeps_meshEcc
    assumption
    apply keeps_ite
    apply keeps_failRdx
    assumption
    assumption
    apply keeps_ite
    apply keeps_partReset
    assumption
    assumption
    apply keeps_gangIntegrity
    assumption
    apply keeps_trainIntegrity
    assumption
    apply keeps_trainIntegrity
    assumption
    apply keeps_gangIntegrity
    assumption
    apply keeps_ite
    apply keeps_toSt
    assumption
    assumption
    refine keeps_mk ?_
    assumption
    apply keeps_dmaFault
    assumption
    assumption

theorem keeps_errorEvent (s : State) (pg c arg : Nat) (hs : Keeps kqu kou kfr s) : Keeps kqu kou kfr (State.errorEvent s pg c arg) := by
  unfold State.errorEvent
  try dsimp only
  with_reducible
    split
    assumption
    split
    assumption
    apply keeps_ite
    assumption
    apply keeps_raise
    apply keeps_ownEffect
    assumption

theorem keeps_execErrorEvent {pg : Pg} {cls : BitVec 6} {arg : Word} {s : State} {kt : State} (ke : execErrorEvent pg cls arg s = .next kt) (hs : Keeps kqu kou kfr s) : Keeps kqu kou kfr kt := by
  simp only [execErrorEvent, State.done, Host.Outcome.next.injEq] at ke
  subst ke
  with_reducible
    apply keeps_settle
    apply keeps_errorEvent
    assumption

theorem keeps_lostTick (s : State) (k : Nat) (hs : Keeps kqu kou kfr s) : Keeps kqu kou kfr (State.lostTick s k) := by
  unfold State.lostTick
  try dsimp only
  with_reducible
    apply keeps_ite
    assumption
    apply keeps_ite
    apply keeps_raise
    apply keeps_add
    apply keeps_add
    assumption
    apply keeps_add
    apply keeps_add
    assumption

theorem keeps_execLostMsTick {k : DieNo} {s : State} {kt : State} (ke : execLostMsTick k s = .next kt) (hs : Keeps kqu kou kfr s) : Keeps kqu kou kfr kt := by
  simp only [execLostMsTick, State.done, Host.Outcome.next.injEq] at ke
  subst ke
  with_reducible
    apply keeps_settle
    apply keeps_lostTick
    assumption

end Sys2Proof.Machine
end

