-- ==== Sys2Proof/Laws/KeepsForwarding.lean ====
section
/-! SUPPORT. What every operation of Machine/Forwarding.lean keeps. -/

namespace Sys2Proof.Machine

variable {kqu : List Instr} {kou : List Emit} {kfr : Nat}

theorem keeps_packetIn (s : State) (port vc : Nat) (bs : List Byte) (hs : Keeps kqu kou kfr s) : Keeps kqu kou kfr (State.packetIn s port vc bs) := by
  unfold State.packetIn
  try dsimp only
  with_reducible
    apply keeps_ite
    apply keeps_ite
    apply keeps_drop
    apply keeps_drop
    assumption
    apply keeps_ite
    apply keeps_hand
    assumption
    apply keeps_inc
    assumption
    apply keeps_ingressTlink
    assumption

theorem keeps_tlinkIn (s : State) (port vc : Nat) (raw : List Byte) (hs : Keeps kqu kou kfr s) : Keeps kqu kou kfr (State.tlinkIn s port vc raw) := by
  unfold State.tlinkIn
  try dsimp only
  with_reducible
    apply keeps_ite
    apply keeps_packetIn
    apply keeps_takeBuf
    assumption
    apply keeps_freeFlits
    apply keeps_packetIn
    apply keeps_takeBuf
    assumption

theorem keeps_frameIn (s : State) (port vc : Nat) (bs : List Byte) (hs : Keeps kqu kou kfr s) : Keeps kqu kou kfr (State.frameIn s port vc bs) := by
  unfold State.frameIn
  try dsimp only
  with_reducible
    apply keeps_ite
    assumption
    apply keeps_ite
    apply keeps_ite
    apply keeps_pfcRx
    assumption
    apply keeps_ite
    apply keeps_drop
    assumption
    apply keeps_ingressEth
    assumption
    apply keeps_ite
    assumption
    apply keeps_tlinkIn
    assumption

theorem keeps_execFrameIngress {port : PortNo} {f : Frame} {s : State} {kt : State} (ke : execFrameIngress port f s = .next kt) (hs : Keeps kqu kou kfr s) : Keeps kqu kou kfr kt := by
  simp only [execFrameIngress, State.done, Host.Outcome.next.injEq] at ke
  subst ke
  with_reducible
    apply keeps_settle
    apply keeps_frameIn
    assumption

theorem keeps_retryIn (s : State) (port vc : Nat) (hs : Keeps kqu kou kfr s) : Keeps kqu kou kfr (State.retryIn s port vc) := by
  unfold State.retryIn
  try dsimp only
  with_reducible
    apply keeps_ite
    assumption
    split
    assumption
    apply keeps_ite
    apply keeps_freeFlits
    apply keeps_ite
    apply keeps_admitRetry
    apply keeps_dropDown
    assumption
    apply keeps_dropDown
    assumption
    apply keeps_ite
    apply keeps_admitRetry
    apply keeps_dropDown
    assumption
    apply keeps_dropDown
    assumption

theorem keeps_execAdmitRetry {port : PortNo} {vc : BitVec 3} {s : State} {kt : State} (ke : execAdmitRetry port vc s = .next kt) (hs : Keeps kqu kou kfr s) : Keeps kqu kou kfr kt := by
  simp only [execAdmitRetry, State.done, Host.Outcome.next.injEq] at ke
  subst ke
  with_reducible
    apply keeps_settle
    apply keeps_retryIn
    assumption

theorem keeps_execXbarSlot {last : TileNo} {s : State} {kt : State} (ke : execXbarSlot last s = .next kt) (hs : Keeps kqu kou kfr s) : Keeps kqu kou kfr kt := by
  simp only [execXbarSlot, State.done, Host.Outcome.next.injEq] at ke
  subst ke
  with_reducible
    apply keeps_settle
    apply keeps_xbarSlot
    assumption

theorem keeps_execEthRelease {port : PortNo} {s : State} {kt : State} (ke : execEthRelease port s = .next kt) (hs : Keeps kqu kou kfr s) : Keeps kqu kou kfr kt := by
  simp only [execEthRelease, State.done, Host.Outcome.next.injEq] at ke
  subst ke
  with_reducible
    apply keeps_ite
    apply keeps_ethRelease
    assumption
    assumption

theorem keeps_execEgressSelect {port : PortNo} {s : State} {kt : State} (ke : execEgressSelect port s = .next kt) (hs : Keeps kqu kou kfr s) : Keeps kqu kou kfr kt := by
  simp only [execEgressSelect, State.done, Host.Outcome.next.injEq] at ke
  subst ke
  with_reducible
    apply keeps_settle
    apply keeps_egressSelect
    assumption

theorem keeps_execAgeOscTick {d : BaseNo} {s : State} {kt : State} (ke : execAgeOscTick d s = .next kt) (hs : Keeps kqu kou kfr s) : Keeps kqu kou kfr kt := by
  simp only [execAgeOscTick, State.done, Host.Outcome.next.injEq] at ke
  subst ke
  with_reducible
    apply keeps_ageTick
    assumption

theorem keeps_sendBundle (s : State) (t k : Nat) (b : Nat × List Nat) (hs : Keeps kqu kou kfr s) : Keeps kqu kou kfr (State.sendBundle s t k b) := by
  unfold State.sendBundle
  try dsimp only
  with_reducible
    apply keeps_ite
    assumption
    apply keeps_foldl
    intro _
    intro _
    intro _
    apply keeps_emit
    assumption
    refine keeps_mk ?_
    assumption

theorem keeps_slot3 (s : State) (t : Nat) (cells : List L3Cell) (hs : Keeps kqu kou kfr s) : Keeps kqu kou kfr (State.slot3 s t cells) := by
  unfold State.slot3
  try dsimp only
  with_reducible
    apply keeps_p
    apply keeps_inc
    apply keeps_foldl
    intro _
    intro _
    intro _
    apply keeps_sendBundle
    assumption
    apply keeps_foldl
    intro _
    intro _
    intro _
    apply keeps_take3
    assumption
    assumption

theorem keeps_execL3Slot {a : L3In} {s : State} {kt : State} (ke : execL3Slot a s = .next kt) (hs : Keeps kqu kou kfr s) : Keeps kqu kou kfr kt := by
  simp only [execL3Slot, State.done, Host.Outcome.next.injEq] at ke
  subst ke
  with_reducible
    apply keeps_ite
    apply keeps_slot3
    assumption
    assumption

theorem keeps_execL3ReseqGiveup {t : TileNo} {s : State} {kt : State} (ke : execL3ReseqGiveup t s = .next kt) (hs : Keeps kqu kou kfr s) : Keeps kqu kou kfr kt := by
  simp only [execL3ReseqGiveup, State.done, Host.Outcome.next.injEq] at ke
  subst ke
  with_reducible
    apply keeps_giveUp3
    assumption

theorem keeps_lagMember (s : State) (t : Nat) (hs : Keeps kqu kou kfr s) : Keeps kqu kou kfr (State.lagMember s t) := by
  unfold State.lagMember
  try dsimp only
  with_reducible
    apply keeps_ite
    apply keeps_ite
    apply keeps_followAll
    apply keeps_p
    apply keeps_p
    apply keeps_raise
    apply keeps_inc
    apply keeps_p
    apply keeps_p
    assumption
    apply keeps_raise
    apply keeps_inc
    apply keeps_p
    apply keeps_p
    assumption
    apply keeps_p
    apply keeps_p
    assumption

theorem keeps_slotLag (s : State) (hs : Keeps kqu kou kfr s) : Keeps kqu kou kfr (State.slotLag s) := by
  unfold State.slotLag
  try dsimp only
  with_reducible
    apply keeps_ite
    assumption
    apply keeps_foldl
    intro _
    intro _
    intro _
    apply keeps_lagMember
    assumption
    apply keeps_p
    assumption

theorem keeps_execSlotLagWindow {s : State} {kt : State} (ke : execSlotLagWindow s = .next kt) (hs : Keeps kqu kou kfr s) : Keeps kqu kou kfr kt := by
  simp only [execSlotLagWindow, State.done, Host.Outcome.next.injEq] at ke
  subst ke
  with_reducible
    apply keeps_settle
    apply keeps_slotLag
    assumption

theorem keeps_setEvacWait (s : State) (l : List Nat) (hs : Keeps kqu kou kfr s) : Keeps kqu kou kfr (State.setEvacWait s l) := by
  unfold State.setEvacWait
  try dsimp only
  with_reducible
    refine keeps_mk ?_
    assumption

theorem keeps_drainedNow (s : State) (hs : Keeps kqu kou kfr s) : Keeps kqu kou kfr (State.drainedNow s) := by
  unfold State.drainedNow
  try dsimp only
  with_reducible
    refine keeps_mk ?_
    assumption

theorem keeps_execEvacStartQueued {s : State} {kt : State} (ke : execEvacStartQueued s = .next kt) (hs : Keeps kqu kou kfr s) : Keeps kqu kou kfr kt := by
  simp only [execEvacStartQueued, State.done, Host.Outcome.next.injEq] at ke
  subst ke
  with_reducible
    apply keeps_ite
    assumption
    split
    assumption
    apply keeps_ite
    apply keeps_startEvac
    apply keeps_setEvacWait
    assumption
    apply keeps_setEvacWait
    assumption

theorem keeps_evacDrain (s : State) (t : Nat) (expired : Bool) (hs : Keeps kqu kou kfr s) : Keeps kqu kou kfr (State.evacDrain s t expired) := by
  unfold State.evacDrain
  try dsimp only
  with_reducible
    apply keeps_ite
    assumption
    apply keeps_ite
    apply keeps_drainedNow
    apply keeps_evacDrop
    assumption
    apply keeps_ite
    apply keeps_drainedNow
    assumption
    assumption

theorem keeps_execEvacDrainEnd {t : TileNo} {expired : Bool} {s : State} {kt : State} (ke : execEvacDrainEnd t expired s = .next kt) (hs : Keeps kqu kou kfr s) : Keeps kqu kou kfr kt := by
  simp only [execEvacDrainEnd, State.done, Host.Outcome.next.injEq] at ke
  subst ke
  with_reducible
    apply keeps_settle
    apply keeps_evacDrain
    assumption

theorem keeps_evacEnd (s : State) (t : Nat) (hs : Keeps kqu kou kfr s) : Keeps kqu kou kfr (State.evacEnd s t) := by
  unfold State.evacEnd
  try dsimp only
  with_reducible
    apply keeps_followAll
    apply keeps_toSt
    apply keeps_p
    refine keeps_mk ?_
    apply keeps_dropTile
    apply keeps_leavePattern
    assumption

theorem keeps_execEvacRenumber {s : State} {kt : State} (ke : execEvacRenumber s = .next kt) (hs : Keeps kqu kou kfr s) : Keeps kqu kou kfr kt := by
  simp only [execEvacRenumber, State.done, Host.Outcome.next.injEq] at ke
  subst ke
  with_reducible
    apply keeps_settle
    split
    assumption
    apply keeps_ite
    apply keeps_evacEnd
    assumption
    assumption

theorem keeps_execMemberRejoin {t : TileNo} {s : State} {kt : State} (ke : execMemberRejoin t s = .next kt) (hs : Keeps kqu kou kfr s) : Keeps kqu kou kfr kt := by
  simp only [execMemberRejoin, State.done, Host.Outcome.next.injEq] at ke
  subst ke
  with_reducible
    apply keeps_ite
    apply keeps_joinPattern
    assumption
    assumption

theorem keeps_execMeshMcForward {h : MeshHead} {s : State} {kt : State} (ke : execMeshMcForward h s = .next kt) (hs : Keeps kqu kou kfr s) : Keeps kqu kou kfr kt := by
  simp only [execMeshMcForward, State.done, Host.Outcome.next.injEq] at ke
  subst ke
  with_reducible
    apply keeps_ite
    apply keeps_mcForward
    assumption
    assumption

end Sys2Proof.Machine
end

