-- ==== Sys2Proof/Laws/KeepsHostRings.lean ====
section
/-! SUPPORT. What every operation of Machine/HostRings.lean keeps. -/

namespace Sys2Proof.Machine

variable {kqu : List Instr} {kou : List Emit} {kfr : Nat}

theorem keeps_prg (s : State) (r : Nat) (f : Fld) (v : Nat) (hs : Keeps kqu kou kfr s) : Keeps kqu kou kfr (State.prg s r f v) := by
  unfold State.prg
  try dsimp only
  with_reducible
    apply keeps_pt
    assumption

theorem keeps_stopRing (s : State) (r : Nat) (hs : Keeps kqu kou kfr s) : Keeps kqu kou kfr (State.stopRing s r) := by
  unfold State.stopRing
  try dsimp only
  with_reducible
    apply keeps_prg
    assumption

theorem keeps_startRing (s : State) (r : Nat) (hs : Keeps kqu kou kfr s) : Keeps kqu kou kfr (State.startRing s r) := by
  unfold State.startRing
  try dsimp only
  with_reducible
    refine keeps_mk ?_
    apply keeps_prg
    apply keeps_prg
    apply keeps_prg
    apply keeps_prg
    apply keeps_prg
    assumption

theorem keeps_refuseRing (s : State) (m off : Nat) (c : Code) (hs : Keeps kqu kou kfr s) : Keeps kqu kou kfr (State.refuseRing s m off c) := by
  unfold State.refuseRing
  try dsimp only
  with_reducible
    apply keeps_refuse
    assumption

theorem keeps_writeRingCtrl (s : State) (m r v : Nat) (hs : Keeps kqu kou kfr s) : Keeps kqu kou kfr (State.writeRingCtrl s m r v) := by
  unfold State.writeRingCtrl
  try dsimp only
  with_reducible
    apply keeps_ite
    apply keeps_refuseRing
    assumption
    apply keeps_ite
    apply keeps_refuseRing
    assumption
    apply keeps_ite
    apply keeps_startRing
    apply keeps_storeTw
    assumption
    apply keeps_storeTw
    assumption

theorem keeps_writeRingBase (s : State) (m r wd v : Nat) (hs : Keeps kqu kou kfr s) : Keeps kqu kou kfr (State.writeRingBase s m r wd v) := by
  unfold State.writeRingBase
  try dsimp only
  with_reducible
    apply keeps_ite
    apply keeps_refuseRing
    assumption
    apply keeps_storeTw
    assumption

theorem keeps_writeRingTail (s : State) (r v : Nat) (hs : Keeps kqu kou kfr s) : Keeps kqu kou kfr (State.writeRingTail s r v) := by
  unfold State.writeRingTail
  try dsimp only
  with_reducible
    apply keeps_ite
    apply keeps_raise
    apply keeps_stopRing
    apply keeps_prg
    assumption
    apply keeps_prg
    assumption

theorem keeps_ringPageWrite (s : State) (m j off v : Nat) (hs : Keeps kqu kou kfr s) : Keeps kqu kou kfr (State.ringPageWrite s m j off v) := by
  unfold State.ringPageWrite
  try dsimp only
  with_reducible
    split
    assumption
    split
    apply keeps_writeRingCtrl
    assumption
    apply keeps_writeRingBase
    assumption
    apply keeps_writeRingBase
    assumption
    apply keeps_writeRingTail
    assumption
    apply keeps_prg
    assumption
    assumption

theorem keeps_execRingEnable {m : Mst} {r : RingNo} {v : Word} {s : State} {kt : State} (ke : execRingEnable m r v s = .next kt) (hs : Keeps kqu kou kfr s) : Keeps kqu kou kfr kt := by
  simp only [execRingEnable, State.done, Host.Outcome.next.injEq] at ke
  subst ke
  with_reducible
    apply keeps_settle
    apply keeps_ringPageWrite
    assumption

theorem keeps_execRingTail {m : Mst} {r : RingNo} {v : Word} {s : State} {kt : State} (ke : execRingTail m r v s = .next kt) (hs : Keeps kqu kou kfr s) : Keeps kqu kou kfr kt := by
  simp only [execRingTail, State.done, Host.Outcome.next.injEq] at ke
  subst ke
  with_reducible
    apply keeps_settle
    apply keeps_ringPageWrite
    assumption

theorem keeps_execRingConsumed {m : Mst} {r : RingNo} {v : Word} {s : State} {kt : State} (ke : execRingConsumed m r v s = .next kt) (hs : Keeps kqu kou kfr s) : Keeps kqu kou kfr kt := by
  simp only [execRingConsumed, State.done, Host.Outcome.next.injEq] at ke
  subst ke
  with_reducible
    apply keeps_settle
    apply keeps_ringPageWrite
    assumption

theorem keeps_unmask (s : State) (fn v : Nat) (hs : Keeps kqu kou kfr s) : Keeps kqu kou kfr (State.unmask s fn v) := by
  unfold State.unmask
  try dsimp only
  with_reducible
    apply keeps_ite
    assumption
    apply keeps_ite
    apply keeps_msi
    apply keeps_pt
    apply keeps_pt
    assumption
    apply keeps_pt
    assumption

theorem keeps_execMsixVectorUnmask {fn : BitVec 5} {vector : Byte} {s : State} {kt : State} (ke : execMsixVectorUnmask fn vector s = .next kt) (hs : Keeps kqu kou kfr s) : Keeps kqu kou kfr kt := by
  simp only [execMsixVectorUnmask, State.done, Host.Outcome.next.injEq] at ke
  subst ke
  with_reducible
    apply keeps_unmask
    assumption

theorem keeps_msixWrite (s : State) (fn a len v : Nat) (hs : Keeps kqu kou kfr s) : Keeps kqu kou kfr (State.msixWrite s fn a len v) := by
  unfold State.msixWrite
  try dsimp only
  with_reducible
    apply keeps_ite
    assumption
    apply keeps_ite
    apply keeps_unmask
    apply keeps_storeTw
    assumption
    apply keeps_storeTw
    assumption

theorem keeps_badAccess (s : State) (hs : Keeps kqu kou kfr s) : Keeps kqu kou kfr (State.badAccess s) := by
  unfold State.badAccess
  try dsimp only
  with_reducible
    apply keeps_raise
    apply keeps_inc
    assumption

theorem keeps_barWrite (s : State) (m bar a len v : Nat) (hs : Keeps kqu kou kfr s) : Keeps kqu kou kfr (State.barWrite s m bar a len v) := by
  unfold State.barWrite
  try dsimp only
  with_reducible
    apply keeps_ite
    apply keeps_badAccess
    assumption
    split
    apply keeps_regWrite
    assumption
    apply keeps_ringPageWrite
    assumption
    split
    assumption
    apply keeps_msixWrite
    assumption
    apply keeps_badAccess
    assumption

theorem keeps_barRead (s : State) (m bar a : Nat) (hs : Keeps kqu kou kfr s) : Keeps kqu kou kfr (State.barRead s m bar a).2 := by
  unfold State.barRead
  try dsimp only
  with_reducible
    split
    dsimp only
    apply keeps_regRead
    assumption
    dsimp only
    assumption
    split
    dsimp only
    assumption
    dsimp only
    assumption
    dsimp only
    apply keeps_badAccess
    assumption

theorem keeps_barRead_eq {s : State} {m bar a : Nat} {x0 : Nat} {x1 : State} (ke : State.barRead s m bar a = (x0, x1)) (hs : Keeps kqu kou kfr s) : Keeps kqu kou kfr x1 := by
  have k := keeps_barRead (kqu := kqu) (kou := kou) (kfr := kfr) s m bar a hs
  rw [ke] at k
  exact k

theorem keeps_execRegisterWrite {m : Mst} {bar : BitVec 3} {addr : BitVec 26} {len : BitVec 4} {v : Word} {s : State} {kt : State} (ke : execRegisterWrite m bar addr len v s = .next kt) (hs : Keeps kqu kou kfr s) : Keeps kqu kou kfr kt := by
  simp only [execRegisterWrite, State.done, Host.Outcome.next.injEq] at ke
  subst ke
  with_reducible
    apply keeps_settle
    apply keeps_barWrite
    assumption

theorem keeps_execRegisterRead {m : Mst} {bar : BitVec 3} {addr : BitVec 26} {len : BitVec 4} {s : State} {kt : State} (ke : execRegisterRead m bar addr len s = .next kt) (hs : Keeps kqu kou kfr s) : Keeps kqu kou kfr kt := by
  simp only [execRegisterRead, State.done, Host.Outcome.next.injEq] at ke
  subst ke
  with_reducible
    apply keeps_settle
    apply keeps_ite
    apply keeps_emit
    apply keeps_barRead
    assumption
    apply keeps_emit
    apply keeps_badAccess
    assumption

theorem keeps_ringMsi (s : State) (r : Nat) (hs : Keeps kqu kou kfr s) : Keeps kqu kou kfr (State.ringMsi s r) := by
  unfold State.ringMsi
  try dsimp only
  with_reducible
    apply keeps_msi
    refine keeps_mk ?_
    apply keeps_prg
    assumption

theorem keeps_ringNote (s : State) (r : Nat) (hs : Keeps kqu kou kfr s) : Keeps kqu kou kfr (State.ringNote s r) := by
  unfold State.ringNote
  try dsimp only
  with_reducible
    apply keeps_ite
    assumption
    apply keeps_ite
    apply keeps_ringMsi
    apply keeps_prg
    assumption
    apply keeps_ite
    refine keeps_mk ?_
    apply keeps_prg
    assumption
    apply keeps_prg
    assumption

theorem keeps_ringRecord (s : State) (r op tag : Nat) (c : Code) (value : Nat) (hs : Keeps kqu kou kfr s) : Keeps kqu kou kfr (State.ringRecord s r op tag c value) := by
  unfold State.ringRecord
  try dsimp only
  with_reducible
    apply keeps_ringNote
    apply keeps_ite
    apply keeps_inc
    apply keeps_prg
    apply keeps_writeBuf
    assumption
    apply keeps_inc
    apply keeps_inc
    apply keeps_prg
    apply keeps_writeBuf
    assumption

theorem keeps_ringTake (s : State) (r : Nat) (hs : Keeps kqu kou kfr s) : Keeps kqu kou kfr (State.ringTake s r) := by
  unfold State.ringTake
  try dsimp only
  with_reducible
    refine keeps_mk ?_
    apply keeps_prg
    assumption

theorem keeps_ringHold (s : State) (r pg st tag : Nat) (hs : Keeps kqu kou kfr s) : Keeps kqu kou kfr (State.ringHold s r pg st tag) := by
  unfold State.ringHold
  try dsimp only
  with_reducible
    refine keeps_mk ?_
    apply keeps_prg
    assumption

theorem keeps_ringServe (s : State) (r op : Nat) (f : Nat → List Nat → State → Code × Nat × Option (Nat × Nat) × State) (hs : Keeps kqu kou kfr s) (k_f : ∀ a l s, Keeps kqu kou kfr s → Keeps kqu kou kfr (f a l s).2.2.2) : Keeps kqu kou kfr (State.ringServe s r op f) := by
  unfold State.ringServe
  try dsimp only
  with_reducible
    apply keeps_ite
    assumption
    apply keeps_ite
    apply keeps_ringRecord
    apply keeps_ringTake
    assumption
    apply keeps_ite
    apply keeps_ringRecord
    apply keeps_ringTake
    assumption
    split
    apply keeps_ringRecord
    apply k_f
    apply keeps_ringTake
    assumption
    apply keeps_ringHold
    apply k_f
    apply keeps_ringTake
    assumption

theorem keeps_ringNop (_m : Nat) (_w : List Nat) (s : State) (hs : Keeps kqu kou kfr s) : Keeps kqu kou kfr (State.ringNop _m _w s).2.2.2 := by
  unfold State.ringNop
  try dsimp only
  with_reducible
    assumption

theorem keeps_ringNop_eq {_m : Nat} {_w : List Nat} {s : State} {x0 : Code} {x1 : Nat} {x2 : Option (Nat × Nat)} {x3 : State} (ke : State.ringNop _m _w s = (x0, x1, x2, x3)) (hs : Keeps kqu kou kfr s) : Keeps kqu kou kfr x3 := by
  have k := keeps_ringNop (kqu := kqu) (kou := kou) (kfr := kfr) _m _w s hs
  rw [ke] at k
  exact k

theorem keeps_execNop {r : RingNo} {s : State} {kt : State} (ke : execNop r s = .next kt) (hs : Keeps kqu kou kfr s) : Keeps kqu kou kfr kt := by
  simp only [execNop, State.done, Host.Outcome.next.injEq] at ke
  subst ke
  with_reducible
    apply keeps_settle
    apply keeps_ringServe
    assumption
    intro _
    intro _
    intro _
    intro _
    apply keeps_ringNop
    assumption

theorem keeps_ringRegRead (m : Nat) (w : List Nat) (s : State) (hs : Keeps kqu kou kfr s) : Keeps kqu kou kfr (State.ringRegRead m w s).2.2.2 := by
  unfold State.ringRegRead
  try dsimp only
  with_reducible
    split
    dsimp only
    assumption
    dsimp only
    apply keeps_regRead
    assumption

theorem keeps_ringRegRead_eq {m : Nat} {w : List Nat} {s : State} {x0 : Code} {x1 : Nat} {x2 : Option (Nat × Nat)} {x3 : State} (ke : State.ringRegRead m w s = (x0, x1, x2, x3)) (hs : Keeps kqu kou kfr s) : Keeps kqu kou kfr x3 := by
  have k := keeps_ringRegRead (kqu := kqu) (kou := kou) (kfr := kfr) m w s hs
  rw [ke] at k
  exact k

theorem keeps_execRegRead {r : RingNo} {s : State} {kt : State} (ke : execRegRead r s = .next kt) (hs : Keeps kqu kou kfr s) : Keeps kqu kou kfr kt := by
  simp only [execRegRead, State.done, Host.Outcome.next.injEq] at ke
  subst ke
  with_reducible
    apply keeps_settle
    apply keeps_ringServe
    assumption
    intro _
    intro _
    intro _
    intro _
    apply keeps_ringRegRead
    assumption

theorem keeps_ringRegWrite (m : Nat) (w : List Nat) (s : State) (hs : Keeps kqu kou kfr s) : Keeps kqu kou kfr (State.ringRegWrite m w s).2.2.2 := by
  unfold State.ringRegWrite
  try dsimp only
  with_reducible
    split
    split
    dsimp only
    assumption
    split
    dsimp only
    apply keeps_regWrite
    assumption
    split
    dsimp only
    apply keeps_regWrite
    assumption
    split
    dsimp only
    apply keeps_regWrite
    assumption
    dsimp only
    apply keeps_regWrite
    assumption
    split
    dsimp only
    assumption
    split
    dsimp only
    apply keeps_regWrite
    assumption
    split
    dsimp only
    apply keeps_regWrite
    assumption
    split
    dsimp only
    apply keeps_regWrite
    assumption
    dsimp only
    apply keeps_regWrite
    assumption

theorem keeps_ringRegWrite_eq {m : Nat} {w : List Nat} {s : State} {x0 : Code} {x1 : Nat} {x2 : Option (Nat × Nat)} {x3 : State} (ke : State.ringRegWrite m w s = (x0, x1, x2, x3)) (hs : Keeps kqu kou kfr s) : Keeps kqu kou kfr x3 := by
  have k := keeps_ringRegWrite (kqu := kqu) (kou := kou) (kfr := kfr) m w s hs
  rw [ke] at k
  exact k

theorem keeps_execRegWrite {r : RingNo} {s : State} {kt : State} (ke : execRegWrite r s = .next kt) (hs : Keeps kqu kou kfr s) : Keeps kqu kou kfr kt := by
  simp only [execRegWrite, State.done, Host.Outcome.next.injEq] at ke
  subst ke
  with_reducible
    apply keeps_settle
    apply keeps_ringServe
    assumption
    intro _
    intro _
    intro _
    intro _
    apply keeps_ringRegWrite
    assumption

theorem keeps_ringFree (s : State) (r : Nat) (hs : Keeps kqu kou kfr s) : Keeps kqu kou kfr (State.ringFree s r) := by
  unfold State.ringFree
  try dsimp only
  with_reducible
    refine keeps_mk ?_
    apply keeps_prg
    assumption

theorem keeps_waitDone (s : State) (r : Nat) (hs : Keeps kqu kou kfr s) : Keeps kqu kou kfr (State.waitDone s r) := by
  unfold State.waitDone
  try dsimp only
  with_reducible
    split
    assumption
    apply keeps_ite
    assumption
    apply keeps_ringRecord
    apply keeps_ringFree
    assumption

theorem keeps_execRingWaitDone {r : RingNo} {s : State} {kt : State} (ke : execRingWaitDone r s = .next kt) (hs : Keeps kqu kou kfr s) : Keeps kqu kou kfr kt := by
  simp only [execRingWaitDone, State.done, Host.Outcome.next.injEq] at ke
  subst ke
  with_reducible
    apply keeps_settle
    apply keeps_waitDone
    assumption

theorem keeps_unselect (s old : State) (w : List Nat) (hs : Keeps kqu kou kfr s) (hs1 : Keeps kqu kou kfr old) : Keeps kqu kou kfr (State.unselect s old w) := by
  unfold State.unselect
  try dsimp only
  with_reducible
    split
    assumption
    apply keeps_setReg
    assumption

theorem keeps_ringTblRead (m : Nat) (w : List Nat) (s : State) (hs : Keeps kqu kou kfr s) : Keeps kqu kou kfr (State.ringTblRead m w s).2.2.2 := by
  unfold State.ringTblRead
  try dsimp only
  with_reducible
    split
    dsimp only
    assumption
    split
    dsimp only
    apply keeps_ite
    apply keeps_unselect
    apply keeps_regRead
    apply keeps_regWrite
    assumption
    assumption
    apply keeps_regRead
    apply keeps_regWrite
    assumption
    dsimp only
    apply keeps_regWrite
    assumption

theorem keeps_ringTblRead_eq {m : Nat} {w : List Nat} {s : State} {x0 : Code} {x1 : Nat} {x2 : Option (Nat × Nat)} {x3 : State} (ke : State.ringTblRead m w s = (x0, x1, x2, x3)) (hs : Keeps kqu kou kfr s) : Keeps kqu kou kfr x3 := by
  have k := keeps_ringTblRead (kqu := kqu) (kou := kou) (kfr := kfr) m w s hs
  rw [ke] at k
  exact k

theorem keeps_execTblRead {r : RingNo} {s : State} {kt : State} (ke : execTblRead r s = .next kt) (hs : Keeps kqu kou kfr s) : Keeps kqu kou kfr kt := by
  simp only [execTblRead, State.done, Host.Outcome.next.injEq] at ke
  subst ke
  with_reducible
    apply keeps_settle
    apply keeps_ringServe
    assumption
    intro _
    intro _
    intro _
    intro _
    apply keeps_ringTblRead
    assumption

theorem keeps_ringTblWrite (m : Nat) (w : List Nat) (s : State) (hs : Keeps kqu kou kfr s) : Keeps kqu kou kfr (State.ringTblWrite m w s).2.2.2 := by
  unfold State.ringTblWrite
  try dsimp only
  with_reducible
    split
    dsimp only
    assumption
    split
    dsimp only
    apply keeps_ite
    apply keeps_unselect
    apply keeps_regWrite
    apply keeps_regWrite
    assumption
    assumption
    apply keeps_regWrite
    apply keeps_regWrite
    assumption
    dsimp only
    apply keeps_regWrite
    assumption

theorem keeps_ringTblWrite_eq {m : Nat} {w : List Nat} {s : State} {x0 : Code} {x1 : Nat} {x2 : Option (Nat × Nat)} {x3 : State} (ke : State.ringTblWrite m w s = (x0, x1, x2, x3)) (hs : Keeps kqu kou kfr s) : Keeps kqu kou kfr x3 := by
  have k := keeps_ringTblWrite (kqu := kqu) (kou := kou) (kfr := kfr) m w s hs
  rw [ke] at k
  exact k

theorem keeps_execTblWrite {r : RingNo} {s : State} {kt : State} (ke : execTblWrite r s = .next kt) (hs : Keeps kqu kou kfr s) : Keeps kqu kou kfr kt := by
  simp only [execTblWrite, State.done, Host.Outcome.next.injEq] at ke
  subst ke
  with_reducible
    apply keeps_settle
    apply keeps_ringServe
    assumption
    intro _
    intro _
    intro _
    intro _
    apply keeps_ringTblWrite
    assumption

theorem keeps_ringCounted (m : Nat) (b : Blk) (off : Nat) (r : Code × State) (hs : Keeps kqu kou kfr r.2) : Keeps kqu kou kfr (ringCounted m b off r).2.2.2 := by
  unfold ringCounted
  dsimp only
  exact keeps_ite (keeps_refuse _ _ _ _ _ hs) hs

theorem keeps_ringSig (m : Nat) (w : List Nat) (s : State) (hs : Keeps kqu kou kfr s) : Keeps kqu kou kfr (State.ringSig m w s).2.2.2 := by
  unfold State.ringSig
  try dsimp only
  with_reducible
    apply keeps_ringCounted
    split
    apply keeps_signalVirt
    assumption
    apply keeps_signalPhys
    assumption

theorem keeps_ringSig_eq {m : Nat} {w : List Nat} {s : State} {x0 : Code} {x1 : Nat} {x2 : Option (Nat × Nat)} {x3 : State} (ke : State.ringSig m w s = (x0, x1, x2, x3)) (hs : Keeps kqu kou kfr s) : Keeps kqu kou kfr x3 := by
  have k := keeps_ringSig (kqu := kqu) (kou := kou) (kfr := kfr) m w s hs
  rw [ke] at k
  exact k

theorem keeps_execRingSignal {r : RingNo} {s : State} {kt : State} (ke : execRingSignal r s = .next kt) (hs : Keeps kqu kou kfr s) : Keeps kqu kou kfr kt := by
  simp only [execRingSignal, State.done, Host.Outcome.next.injEq] at ke
  subst ke
  with_reducible
    apply keeps_settle
    apply keeps_ringServe
    assumption
    intro _
    intro _
    intro _
    intro _
    apply keeps_ringSig
    assumption

theorem keeps_ringFlg (m : Nat) (w : List Nat) (s : State) (hs : Keeps kqu kou kfr s) : Keeps kqu kou kfr (State.ringFlg m w s).2.2.2 := by
  unfold State.ringFlg
  try dsimp only
  with_reducible
    split
    apply keeps_ringCounted
    dsimp only
    apply keeps_xlateMiss
    assumption
    apply keeps_ringCounted
    apply keeps_flagWrite
    assumption

theorem keeps_ringFlg_eq {m : Nat} {w : List Nat} {s : State} {x0 : Code} {x1 : Nat} {x2 : Option (Nat × Nat)} {x3 : State} (ke : State.ringFlg m w s = (x0, x1, x2, x3)) (hs : Keeps kqu kou kfr s) : Keeps kqu kou kfr x3 := by
  have k := keeps_ringFlg (kqu := kqu) (kou := kou) (kfr := kfr) m w s hs
  rw [ke] at k
  exact k

theorem keeps_execRingFlag {r : RingNo} {s : State} {kt : State} (ke : execRingFlag r s = .next kt) (hs : Keeps kqu kou kfr s) : Keeps kqu kou kfr kt := by
  simp only [execRingFlag, State.done, Host.Outcome.next.injEq] at ke
  subst ke
  with_reducible
    apply keeps_settle
    apply keeps_ringServe
    assumption
    intro _
    intro _
    intro _
    intro _
    apply keeps_ringFlg
    assumption

theorem keeps_ringWat (m : Nat) (w : List Nat) (s : State) (hs : Keeps kqu kou kfr s) : Keeps kqu kou kfr (State.ringWat m w s).2.2.2 := by
  unfold State.ringWat
  try dsimp only
  with_reducible
    split
    apply keeps_ringCounted
    dsimp only
    assumption
    split
    apply keeps_ringCounted
    apply keeps_cancel
    assumption
    apply keeps_ringCounted
    apply keeps_arm
    assumption

theorem keeps_ringWat_eq {m : Nat} {w : List Nat} {s : State} {x0 : Code} {x1 : Nat} {x2 : Option (Nat × Nat)} {x3 : State} (ke : State.ringWat m w s = (x0, x1, x2, x3)) (hs : Keeps kqu kou kfr s) : Keeps kqu kou kfr x3 := by
  have k := keeps_ringWat (kqu := kqu) (kou := kou) (kfr := kfr) m w s hs
  rw [ke] at k
  exact k

theorem keeps_execRingWatch {r : RingNo} {s : State} {kt : State} (ke : execRingWatch r s = .next kt) (hs : Keeps kqu kou kfr s) : Keeps kqu kou kfr kt := by
  simp only [execRingWatch, State.done, Host.Outcome.next.injEq] at ke
  subst ke
  with_reducible
    apply keeps_settle
    apply keeps_ringServe
    assumption
    intro _
    intro _
    intro _
    intro _
    apply keeps_ringWat
    assumption

theorem keeps_ringStrict (m : Nat) (w : List Nat) (s : State) (hs : Keeps kqu kou kfr s) : Keeps kqu kou kfr (State.ringStrict m w s).2.2.2 := by
  unfold State.ringStrict
  try dsimp only
  with_reducible
    split
    apply keeps_ringCounted
    dsimp only
    assumption
    split
    apply keeps_ringCounted
    dsimp only
    assumption
    dsimp only
    apply keeps_pt
    assumption

theorem keeps_ringStrict_eq {m : Nat} {w : List Nat} {s : State} {x0 : Code} {x1 : Nat} {x2 : Option (Nat × Nat)} {x3 : State} (ke : State.ringStrict m w s = (x0, x1, x2, x3)) (hs : Keeps kqu kou kfr s) : Keeps kqu kou kfr x3 := by
  have k := keeps_ringStrict (kqu := kqu) (kou := kou) (kfr := kfr) m w s hs
  rw [ke] at k
  exact k

theorem keeps_execStrict {r : RingNo} {s : State} {kt : State} (ke : execStrict r s = .next kt) (hs : Keeps kqu kou kfr s) : Keeps kqu kou kfr kt := by
  simp only [execStrict, State.done, Host.Outcome.next.injEq] at ke
  subst ke
  with_reducible
    apply keeps_settle
    apply keeps_ringServe
    assumption
    intro _
    intro _
    intro _
    intro _
    apply keeps_ringStrict
    assumption

theorem keeps_execRingCoalTimer {r : RingNo} {s : State} {kt : State} (ke : execRingCoalTimer r s = .next kt) (hs : Keeps kqu kou kfr s) : Keeps kqu kou kfr kt := by
  simp only [execRingCoalTimer, State.done, Host.Outcome.next.injEq] at ke
  subst ke
  with_reducible
    apply keeps_ite
    apply keeps_ringMsi
    assumption
    assumption

theorem keeps_stopFns (s : State) (fns : List Nat) (hs : Keeps kqu kou kfr s) : Keeps kqu kou kfr (State.stopFns s fns) := by
  unfold State.stopFns
  try dsimp only
  with_reducible
    apply keeps_foldl
    intro _
    intro _
    intro _
    apply keeps_clearTab
    assumption
    refine keeps_mk ?_
    apply keeps_foldl
    intro _
    intro _
    intro _
    apply keeps_prg
    apply keeps_stopRing
    assumption
    assumption

theorem keeps_endpointReset (s : State) (hs : Keeps kqu kou kfr s) : Keeps kqu kou kfr (State.endpointReset s) := by
  unfold State.endpointReset
  try dsimp only
  with_reducible
    apply keeps_abortHostSnaps
    apply keeps_stopFns
    assumption

theorem keeps_setPerst (s : State) (v : Bool) (hs : Keeps kqu kou kfr s) : Keeps kqu kou kfr (State.setPerst s v) := by
  unfold State.setPerst
  try dsimp only
  with_reducible
    refine keeps_mk ?_
    assumption

theorem keeps_perstActs (s : State) (hs : Keeps kqu kou kfr s) : Keeps kqu kou kfr (State.perstActs s) := by
  unfold State.perstActs
  try dsimp only
  with_reducible
    apply keeps_ite
    apply keeps_pciDown
    apply keeps_endpointReset
    assumption
    apply keeps_ite
    assumption
    apply keeps_pciUp
    assumption

theorem keeps_execPciePerstN {level : Bool} {s : State} {kt : State} (ke : execPciePerstN level s = .next kt) (hs : Keeps kqu kou kfr s) : Keeps kqu kou kfr kt := by
  simp only [execPciePerstN, State.done, Host.Outcome.next.injEq] at ke
  subst ke
  with_reducible
    apply keeps_settle
    apply keeps_ite
    assumption
    apply keeps_perstActs
    apply keeps_setPerst
    assumption

theorem keeps_execPcieLinkDown {s : State} {kt : State} (ke : execPcieLinkDown s = .next kt) (hs : Keeps kqu kou kfr s) : Keeps kqu kou kfr kt := by
  simp only [execPcieLinkDown, State.done, Host.Outcome.next.injEq] at ke
  subst ke
  with_reducible
    apply keeps_settle
    apply keeps_raise
    apply keeps_inc
    apply keeps_pciDown
    apply keeps_endpointReset
    assumption

theorem keeps_execFlr {fn : BitVec 5} {s : State} {kt : State} (ke : execFlr fn s = .next kt) (hs : Keeps kqu kou kfr s) : Keeps kqu kou kfr kt := by
  simp only [execFlr, State.done, Host.Outcome.next.injEq] at ke
  subst ke
  with_reducible
    apply keeps_ite
    apply keeps_endpointReset
    assumption
    apply keeps_ite
    apply keeps_stopFns
    assumption
    assumption

end Sys2Proof.Machine
end

