-- ==== Sys2Proof/Laws/KeepsLinkLayer.lean ====
section
/-! SUPPORT. What every operation of Machine/LinkLayer.lean keeps. -/

namespace Sys2Proof.Machine

variable {kqu : List Instr} {kou : List Emit} {kfr : Nat}

theorem keeps_flitIn (s : State) (port : Nat) (f : List Byte) (hs : Keeps kqu kou kfr s) : Keeps kqu kou kfr (State.flitIn s port f) := by
  unfold State.flitIn
  try dsimp only
  with_reducible
    apply keeps_ite
    apply keeps_ite
    apply keeps_moveStage
    apply keeps_rxFlit
    assumption
    apply keeps_rxFlit
    assumption
    assumption

theorem keeps_execFlitRx {port : PortNo} {f : Flit} {s : State} {kt : State} (ke : execFlitRx port f s = .next kt) (hs : Keeps kqu kou kfr s) : Keeps kqu kou kfr kt := by
  simp only [execFlitRx, State.done, Host.Outcome.next.injEq] at ke
  subst ke
  with_reducible
    apply keeps_settle
    apply keeps_flitIn
    assumption

theorem keeps_execSidebandRx {port : PortNo} {w : BitVec 32} {s : State} {kt : State} (ke : execSidebandRx port w s = .next kt) (hs : Keeps kqu kou kfr s) : Keeps kqu kou kfr kt := by
  simp only [execSidebandRx, State.done, Host.Outcome.next.injEq] at ke
  subst ke
  with_reducible
    apply keeps_ite
    apply keeps_acceptOwed
    apply keeps_rxSide
    assumption
    assumption

theorem keeps_execNakRx {port : PortNo} {ack : BitVec 16} {s : State} {kt : State} (ke : execNakRx port ack s = .next kt) (hs : Keeps kqu kou kfr s) : Keeps kqu kou kfr kt := by
  simp only [execNakRx, State.done, Host.Outcome.next.injEq] at ke
  subst ke
  with_reducible
    apply keeps_settle
    apply keeps_ite
    apply keeps_acceptOwed
    apply keeps_rxNak
    assumption
    assumption

theorem keeps_nakAgain (s : State) (port : Nat) (hs : Keeps kqu kou kfr s) : Keeps kqu kou kfr (State.nakAgain s port) := by
  unfold State.nakAgain
  try dsimp only
  with_reducible
    split
    assumption
    apply keeps_ite
    apply keeps_sendNak
    assumption
    assumption

theorem keeps_execNakRepeat {port : PortNo} {s : State} {kt : State} (ke : execNakRepeat port s = .next kt) (hs : Keeps kqu kou kfr s) : Keeps kqu kou kfr kt := by
  simp only [execNakRepeat, State.done, Host.Outcome.next.injEq] at ke
  subst ke
  with_reducible
    apply keeps_nakAgain
    assumption

theorem keeps_execFlitTx {port : PortNo} {s : State} {kt : State} (ke : execFlitTx port s = .next kt) (hs : Keeps kqu kou kfr s) : Keeps kqu kou kfr kt := by
  simp only [execFlitTx, State.done, Host.Outcome.next.injEq] at ke
  subst ke
  with_reducible
    apply keeps_ite
    apply keeps_txFlit
    assumption
    assumption

end Sys2Proof.Machine
end

