-- ==== Sys2Proof/Laws/KeepsMgmt.lean ====
section
/-! SUPPORT. What every operation of Machine/Mgmt.lean keeps. -/

namespace Sys2Proof.Machine

variable {kqu : List Instr} {kou : List Emit} {kfr : Nat}

theorem keeps_i3c (s : State) (op : Nat) (c : Code) (data : List Byte) (hs : Keeps kqu kou kfr s) : Keeps kqu kou kfr (State.i3c s op c data) := by
  unfold State.i3c
  try dsimp only
  with_reducible
    apply keeps_emit
    assumption

theorem keeps_request (s : State) (op : Nat) (req : List Byte) (n : Option Nat) (f : List Byte → State → Code × List Byte × State) (hs : Keeps kqu kou kfr s) (k_f : ∀ l s, Keeps kqu kou kfr s → Keeps kqu kou kfr (f l s).2.2) : Keeps kqu kou kfr (State.request s op req n f) := by
  unfold State.request
  try dsimp only
  with_reducible
    apply keeps_ite
    assumption
    apply keeps_ite
    apply keeps_raise
    assumption
    apply keeps_ite
    apply keeps_i3c
    assumption
    apply keeps_ite
    apply keeps_i3c
    assumption
    apply keeps_ite
    apply keeps_i3c
    assumption
    apply keeps_ite
    apply keeps_i3c
    apply keeps_inc
    assumption
    apply keeps_ite
    apply keeps_i3c
    apply keeps_inc
    assumption
    apply keeps_i3c
    apply k_f
    apply keeps_inc
    assumption

theorem keeps_mgInventory (_a : List Byte) (s : State) (hs : Keeps kqu kou kfr s) : Keeps kqu kou kfr (State.mgInventory _a s).2.2 := by
  unfold State.mgInventory
  try dsimp only
  with_reducible
    assumption

theorem keeps_mgInventory_eq {_a : List Byte} {s : State} {x0 : Code} {x1 : List Byte} {x2 : State} (ke : State.mgInventory _a s = (x0, x1, x2)) (hs : Keeps kqu kou kfr s) : Keeps kqu kou kfr x2 := by
  have k := keeps_mgInventory (kqu := kqu) (kou := kou) (kfr := kfr) _a s hs
  rw [ke] at k
  exact k

theorem keeps_execInventory {args : List Byte} {s : State} {kt : State} (ke : execInventory args s = .next kt) (hs : Keeps kqu kou kfr s) : Keeps kqu kou kfr kt := by
  simp only [execInventory, State.done, Host.Outcome.next.injEq] at ke
  subst ke
  with_reducible
    apply keeps_settle
    apply keeps_request
    assumption
    intro _
    intro _
    intro _
    apply keeps_mgInventory
    assumption

theorem keeps_mgHealth (_a : List Byte) (s : State) (hs : Keeps kqu kou kfr s) : Keeps kqu kou kfr (State.mgHealth _a s).2.2 := by
  unfold State.mgHealth
  try dsimp only
  with_reducible
    assumption

theorem keeps_mgHealth_eq {_a : List Byte} {s : State} {x0 : Code} {x1 : List Byte} {x2 : State} (ke : State.mgHealth _a s = (x0, x1, x2)) (hs : Keeps kqu kou kfr s) : Keeps kqu kou kfr x2 := by
  have k := keeps_mgHealth (kqu := kqu) (kou := kou) (kfr := kfr) _a s hs
  rw [ke] at k
  exact k

theorem keeps_execHealth {args : List Byte} {s : State} {kt : State} (ke : execHealth args s = .next kt) (hs : Keeps kqu kou kfr s) : Keeps kqu kou kfr kt := by
  simp only [execHealth, State.done, Host.Outcome.next.injEq] at ke
  subst ke
  with_reducible
    apply keeps_settle
    apply keeps_request
    assumption
    intro _
    intro _
    intro _
    apply keeps_mgHealth
    assumption

theorem keeps_mgReadReg (a : List Byte) (s : State) (hs : Keeps kqu kou kfr s) : Keeps kqu kou kfr (State.mgReadReg a s).2.2 := by
  unfold State.mgReadReg
  try dsimp only
  with_reducible
    split
    dsimp only
    assumption
    dsimp only
    apply keeps_regRead
    assumption

theorem keeps_mgReadReg_eq {a : List Byte} {s : State} {x0 : Code} {x1 : List Byte} {x2 : State} (ke : State.mgReadReg a s = (x0, x1, x2)) (hs : Keeps kqu kou kfr s) : Keeps kqu kou kfr x2 := by
  have k := keeps_mgReadReg (kqu := kqu) (kou := kou) (kfr := kfr) a s hs
  rw [ke] at k
  exact k

theorem keeps_execReadReg {args : List Byte} {s : State} {kt : State} (ke : execReadReg args s = .next kt) (hs : Keeps kqu kou kfr s) : Keeps kqu kou kfr kt := by
  simp only [execReadReg, State.done, Host.Outcome.next.injEq] at ke
  subst ke
  with_reducible
    apply keeps_settle
    apply keeps_request
    assumption
    intro _
    intro _
    intro _
    apply keeps_mgReadReg
    assumption

theorem keeps_mgmtWrite (s : State) (b : Blk) (off v : Nat) (hs : Keeps kqu kou kfr s) : Keeps kqu kou kfr (State.mgmtWrite s b off v).2.2 := by
  unfold State.mgmtWrite
  try dsimp only
  with_reducible
    apply keeps_regWrite
    assumption

theorem keeps_mgmtWrite_eq {s : State} {b : Blk} {off v : Nat} {x0 : Code} {x1 : List Byte} {x2 : State} (ke : State.mgmtWrite s b off v = (x0, x1, x2)) (hs : Keeps kqu kou kfr s) : Keeps kqu kou kfr x2 := by
  have k := keeps_mgmtWrite (kqu := kqu) (kou := kou) (kfr := kfr) s b off v hs
  rw [ke] at k
  exact k

theorem keeps_mgAckFaults (a : List Byte) (s : State) (hs : Keeps kqu kou kfr s) : Keeps kqu kou kfr (State.mgAckFaults a s).2.2 := by
  unfold State.mgAckFaults
  try dsimp only
  with_reducible
    split
    dsimp only
    assumption
    apply keeps_mgmtWrite
    assumption

theorem keeps_mgAckFaults_eq {a : List Byte} {s : State} {x0 : Code} {x1 : List Byte} {x2 : State} (ke : State.mgAckFaults a s = (x0, x1, x2)) (hs : Keeps kqu kou kfr s) : Keeps kqu kou kfr x2 := by
  have k := keeps_mgAckFaults (kqu := kqu) (kou := kou) (kfr := kfr) a s hs
  rw [ke] at k
  exact k

theorem keeps_execAckFaults {args : List Byte} {s : State} {kt : State} (ke : execAckFaults args s = .next kt) (hs : Keeps kqu kou kfr s) : Keeps kqu kou kfr kt := by
  simp only [execAckFaults, State.done, Host.Outcome.next.injEq] at ke
  subst ke
  with_reducible
    apply keeps_settle
    apply keeps_request
    assumption
    intro _
    intro _
    intro _
    apply keeps_mgAckFaults
    assumption

theorem keeps_mgPower (a : List Byte) (s : State) (hs : Keeps kqu kou kfr s) : Keeps kqu kou kfr (State.mgPower a s).2.2 := by
  unfold State.mgPower
  try dsimp only
  with_reducible
    split
    dsimp only
    assumption
    apply keeps_mgmtWrite
    assumption

theorem keeps_mgPower_eq {a : List Byte} {s : State} {x0 : Code} {x1 : List Byte} {x2 : State} (ke : State.mgPower a s = (x0, x1, x2)) (hs : Keeps kqu kou kfr s) : Keeps kqu kou kfr x2 := by
  have k := keeps_mgPower (kqu := kqu) (kou := kou) (kfr := kfr) a s hs
  rw [ke] at k
  exact k

theorem keeps_execPower {args : List Byte} {s : State} {kt : State} (ke : execPower args s = .next kt) (hs : Keeps kqu kou kfr s) : Keeps kqu kou kfr kt := by
  simp only [execPower, State.done, Host.Outcome.next.injEq] at ke
  subst ke
  with_reducible
    apply keeps_settle
    apply keeps_request
    assumption
    intro _
    intro _
    intro _
    apply keeps_mgPower
    assumption

theorem keeps_mgSetCap (a : List Byte) (s : State) (hs : Keeps kqu kou kfr s) : Keeps kqu kou kfr (State.mgSetCap a s).2.2 := by
  unfold State.mgSetCap
  try dsimp only
  with_reducible
    split
    dsimp only
    assumption
    apply keeps_mgmtWrite
    assumption

theorem keeps_mgSetCap_eq {a : List Byte} {s : State} {x0 : Code} {x1 : List Byte} {x2 : State} (ke : State.mgSetCap a s = (x0, x1, x2)) (hs : Keeps kqu kou kfr s) : Keeps kqu kou kfr x2 := by
  have k := keeps_mgSetCap (kqu := kqu) (kou := kou) (kfr := kfr) a s hs
  rw [ke] at k
  exact k

theorem keeps_execSetCap {args : List Byte} {s : State} {kt : State} (ke : execSetCap args s = .next kt) (hs : Keeps kqu kou kfr s) : Keeps kqu kou kfr kt := by
  simp only [execSetCap, State.done, Host.Outcome.next.injEq] at ke
  subst ke
  with_reducible
    apply keeps_settle
    apply keeps_request
    assumption
    intro _
    intro _
    intro _
    apply keeps_mgSetCap
    assumption

theorem keeps_mgIbiCfg (a : List Byte) (s : State) (hs : Keeps kqu kou kfr s) : Keeps kqu kou kfr (State.mgIbiCfg a s).2.2 := by
  unfold State.mgIbiCfg
  try dsimp only
  with_reducible
    split
    dsimp only
    assumption
    dsimp only
    apply keeps_p
    apply keeps_p
    assumption

theorem keeps_mgIbiCfg_eq {a : List Byte} {s : State} {x0 : Code} {x1 : List Byte} {x2 : State} (ke : State.mgIbiCfg a s = (x0, x1, x2)) (hs : Keeps kqu kou kfr s) : Keeps kqu kou kfr x2 := by
  have k := keeps_mgIbiCfg (kqu := kqu) (kou := kou) (kfr := kfr) a s hs
  rw [ke] at k
  exact k

theorem keeps_execIbiCfg {args : List Byte} {s : State} {kt : State} (ke : execIbiCfg args s = .next kt) (hs : Keeps kqu kou kfr s) : Keeps kqu kou kfr kt := by
  simp only [execIbiCfg, State.done, Host.Outcome.next.injEq] at ke
  subst ke
  with_reducible
    apply keeps_settle
    apply keeps_request
    assumption
    intro _
    intro _
    intro _
    apply keeps_mgIbiCfg
    assumption

theorem keeps_dropIbi (s : State) (hs : Keeps kqu kou kfr s) : Keeps kqu kou kfr (State.dropIbi s) := by
  unfold State.dropIbi
  try dsimp only
  with_reducible
    refine keeps_mk ?_
    assumption

theorem keeps_ibiAnswer (s : State) (accepted : Bool) (hs : Keeps kqu kou kfr s) : Keeps kqu kou kfr (State.ibiAnswer s accepted) := by
  unfold State.ibiAnswer
  try dsimp only
  with_reducible
    split
    assumption
    apply keeps_ite
    apply keeps_dropIbi
    assumption
    apply keeps_emit
    assumption

theorem keeps_execIbiRetry {accepted : Bool} {s : State} {kt : State} (ke : execIbiRetry accepted s = .next kt) (hs : Keeps kqu kou kfr s) : Keeps kqu kou kfr kt := by
  simp only [execIbiRetry, State.done, Host.Outcome.next.injEq] at ke
  subst ke
  with_reducible
    apply keeps_ibiAnswer
    assumption

theorem keeps_execDynamicAddressAssignment {addr : BitVec 7} {s : State} {kt : State} (ke : execDynamicAddressAssignment addr s = .next kt) (hs : Keeps kqu kou kfr s) : Keeps kqu kou kfr kt := by
  simp only [execDynamicAddressAssignment, State.done, Host.Outcome.next.injEq] at ke
  subst ke
  with_reducible
    apply keeps_ite
    apply keeps_p
    assumption
    assumption

theorem keeps_mgRecStatus (_a : List Byte) (s : State) (hs : Keeps kqu kou kfr s) : Keeps kqu kou kfr (State.mgRecStatus _a s).2.2 := by
  unfold State.mgRecStatus
  try dsimp only
  with_reducible
    assumption

theorem keeps_mgRecStatus_eq {_a : List Byte} {s : State} {x0 : Code} {x1 : List Byte} {x2 : State} (ke : State.mgRecStatus _a s = (x0, x1, x2)) (hs : Keeps kqu kou kfr s) : Keeps kqu kou kfr x2 := by
  have k := keeps_mgRecStatus (kqu := kqu) (kou := kou) (kfr := kfr) _a s hs
  rw [ke] at k
  exact k

theorem keeps_execRecStatus {args : List Byte} {s : State} {kt : State} (ke : execRecStatus args s = .next kt) (hs : Keeps kqu kou kfr s) : Keeps kqu kou kfr kt := by
  simp only [execRecStatus, State.done, Host.Outcome.next.injEq] at ke
  subst ke
  with_reducible
    apply keeps_settle
    apply keeps_request
    assumption
    intro _
    intro _
    intro _
    apply keeps_mgRecStatus
    assumption

theorem keeps_mgRecBegin (a : List Byte) (s : State) (hs : Keeps kqu kou kfr s) : Keeps kqu kou kfr (State.mgRecBegin a s).2.2 := by
  unfold State.mgRecBegin
  try dsimp only
  with_reducible
    split
    dsimp only
    assumption
    dsimp only
    refine keeps_mk ?_
    assumption

theorem keeps_mgRecBegin_eq {a : List Byte} {s : State} {x0 : Code} {x1 : List Byte} {x2 : State} (ke : State.mgRecBegin a s = (x0, x1, x2)) (hs : Keeps kqu kou kfr s) : Keeps kqu kou kfr x2 := by
  have k := keeps_mgRecBegin (kqu := kqu) (kou := kou) (kfr := kfr) a s hs
  rw [ke] at k
  exact k

theorem keeps_execRecBegin {args : List Byte} {s : State} {kt : State} (ke : execRecBegin args s = .next kt) (hs : Keeps kqu kou kfr s) : Keeps kqu kou kfr kt := by
  simp only [execRecBegin, State.done, Host.Outcome.next.injEq] at ke
  subst ke
  with_reducible
    apply keeps_settle
    apply keeps_request
    assumption
    intro _
    intro _
    intro _
    apply keeps_mgRecBegin
    assumption

theorem keeps_recWrite (a : List Byte) (s : State) (hs : Keeps kqu kou kfr s) : Keeps kqu kou kfr (State.recWrite a s).2.2 := by
  unfold State.recWrite
  try dsimp only
  with_reducible
    split
    dsimp only
    assumption
    split
    dsimp only
    assumption
    dsimp only
    refine keeps_mk ?_
    assumption

theorem keeps_recWrite_eq {a : List Byte} {s : State} {x0 : Code} {x1 : List Byte} {x2 : State} (ke : State.recWrite a s = (x0, x1, x2)) (hs : Keeps kqu kou kfr s) : Keeps kqu kou kfr x2 := by
  have k := keeps_recWrite (kqu := kqu) (kou := kou) (kfr := kfr) a s hs
  rw [ke] at k
  exact k

theorem keeps_execRecData {args : List Byte} {s : State} {kt : State} (ke : execRecData args s = .next kt) (hs : Keeps kqu kou kfr s) : Keeps kqu kou kfr kt := by
  simp only [execRecData, State.done, Host.Outcome.next.injEq] at ke
  subst ke
  with_reducible
    apply keeps_settle
    apply keeps_request
    assumption
    intro _
    intro _
    intro _
    apply keeps_recWrite
    assumption

theorem keeps_recInstall (s : State) (k : Nat) (img : List Byte) (hs : Keeps kqu kou kfr s) : Keeps kqu kou kfr (State.recInstall s k img) := by
  unfold State.recInstall
  try dsimp only
  with_reducible
    apply keeps_ite
    apply keeps_setSlot
    refine keeps_mk ?_
    assumption
    refine keeps_mk ?_
    assumption

theorem keeps_recFinish (_a : List Byte) (s : State) (hs : Keeps kqu kou kfr s) : Keeps kqu kou kfr (State.recFinish _a s).2.2 := by
  unfold State.recFinish
  try dsimp only
  with_reducible
    split
    dsimp only
    assumption
    split
    split
    dsimp only
    apply keeps_recInstall
    refine keeps_mk ?_
    assumption
    dsimp only
    refine keeps_mk ?_
    assumption
    split
    split
    dsimp only
    apply keeps_recInstall
    refine keeps_mk ?_
    assumption
    dsimp only
    refine keeps_mk ?_
    assumption
    split
    dsimp only
    apply keeps_recInstall
    refine keeps_mk ?_
    assumption
    dsimp only
    refine keeps_mk ?_
    assumption

theorem keeps_recFinish_eq {_a : List Byte} {s : State} {x0 : Code} {x1 : List Byte} {x2 : State} (ke : State.recFinish _a s = (x0, x1, x2)) (hs : Keeps kqu kou kfr s) : Keeps kqu kou kfr x2 := by
  have k := keeps_recFinish (kqu := kqu) (kou := kou) (kfr := kfr) _a s hs
  rw [ke] at k
  exact k

theorem keeps_execRecEnd {args : List Byte} {s : State} {kt : State} (ke : execRecEnd args s = .next kt) (hs : Keeps kqu kou kfr s) : Keeps kqu kou kfr kt := by
  simp only [execRecEnd, State.done, Host.Outcome.next.injEq] at ke
  subst ke
  with_reducible
    apply keeps_settle
    apply keeps_request
    assumption
    intro _
    intro _
    intro _
    apply keeps_recFinish
    assumption

theorem keeps_mgRecBoot (_a : List Byte) (s : State) (hs : Keeps kqu kou kfr s) : Keeps kqu kou kfr (State.mgRecBoot _a s).2.2 := by
  unfold State.mgRecBoot
  try dsimp only
  with_reducible
    split
    dsimp only
    apply keeps_startBoot
    assumption
    dsimp only
    assumption

theorem keeps_mgRecBoot_eq {_a : List Byte} {s : State} {x0 : Code} {x1 : List Byte} {x2 : State} (ke : State.mgRecBoot _a s = (x0, x1, x2)) (hs : Keeps kqu kou kfr s) : Keeps kqu kou kfr x2 := by
  have k := keeps_mgRecBoot (kqu := kqu) (kou := kou) (kfr := kfr) _a s hs
  rw [ke] at k
  exact k

theorem keeps_execRecBoot {args : List Byte} {s : State} {kt : State} (ke : execRecBoot args s = .next kt) (hs : Keeps kqu kou kfr s) : Keeps kqu kou kfr kt := by
  simp only [execRecBoot, State.done, Host.Outcome.next.injEq] at ke
  subst ke
  with_reducible
    apply keeps_settle
    apply keeps_request
    assumption
    intro _
    intro _
    intro _
    apply keeps_mgRecBoot
    assumption

end Sys2Proof.Machine
end

