-- ==== Sys2Proof/WellFormed.lean ====
section
/-! DEFINITION. Well-formed commands: the operands that name something the part has, and payloads of a length that the
spec gives. The part answers an ill-formed command as the spec answers what it cannot carry; no meaning relies on this
check. -/

namespace Sys2Proof

/-- The BARs that the part has (R442). -/
def barOk (bar : BitVec 3) : Bool := bar == 0#3 || bar == 2#3 || bar == 4#3

/-- The parts of a codeword, of TLink or of Ethernet (R43, R45, R46). -/
def codewordOk (side body parity : Line) : Bool :=
  (side.levels.length == 20 && body.levels.length == 1280 && parity.levels.length == 60) ||
    (side.levels.length == 0 && body.levels.length == 2570 && parity.levels.length == 150)

/-- The command is well-formed. -/
def Instr.wf (i : Instr) : Bool :=
  match i with
  | .registerWrite _ bar _ len _ => barOk bar && (len == 4#4 || len == 8#4)
  | .ctrlEnable _ _ _ => true
  | .ctrlQuiesce _ _ _ => true
  | .ctrlFreeze _ _ _ => true
  | .ctrlEvacuate _ _ _ => true
  | .ctrlReset _ _ _ => true
  | .trainingDone _ => true
  | .quiesceDrainDone _ => true
  | .captureMarker _ => true
  | .freezeCaptureDone _ => true
  | .snapTake _ _ _ => true
  | .snapWriteoutDone _ => true
  | .pageNoAnswer _ _ => true
  | .errForce _ _ _ => true
  | .errAck _ _ _ => true
  | .errorEvent _ cls _ => cls.ult 48#6
  | .fltAckBelow _ _ _ => true
  | .pinMismatch _ _ => true
  | .lostMsTick _ => true
  | .lnkGrpCfgWrite _ _ _ => true
  | .lanePower _ _ _ => true
  | .laneCtrlRetrain _ _ _ => true
  | .clrCounters _ _ _ => true
  | .spareRequest _ _ _ => true
  | .spareRevert _ _ _ => true
  | .spareRequestDequeue _ => true
  | .prbsCtrlWrite _ _ _ => true
  | .detectRetry _ => true
  | .partnerDetected _ _ => true
  | .trainDone _ => true
  | .trainTimeout _ => true
  | .lockDone _ => true
  | .lockTimeout _ => true
  | .capability _ _ => true
  | .capexResend _ => true
  | .addrRecheck _ => true
  | .retrain _ => true
  | .laneLockLost _ n => n.ult 68#7
  | .sparePolicyWindow _ n => n.ult 68#7
  | .sparePrepare _ _ _ => true
  | .spareTrainDone _ => true
  | .spareTrainFail _ => true
  | .spareSwitch _ _ _ _ => true
  | .spareAck _ _ _ _ => true
  | .spareSwitchover _ => true
  | .refclkLost _ => true
  | .refclkRestored _ => true
  | .dataCodeword _ n side body parity => n.ult 68#7 && codewordOk side body parity
  | .codewordTx _ n => n.ult 68#7
  | .flitRx _ f => f.bytes.length == 64
  | .sidebandRx _ _ => true
  | .nakRx _ _ => true
  | .nakRepeat _ => true
  | .flitTx _ => true
  | .ctxOpen _ _ _ => true
  | .ctxClose _ _ _ => true
  | .ctxReset _ _ _ => true
  | .ctxEntryWrite _ _ _ => true
  | .localPut _ _ => true
  | .localGet _ _ => true
  | .localSend _ _ => true
  | .localAtomic _ _ => true
  | .localRecvPost _ _ => true
  | .ctxQueueIssue _ => true
  | .localRdData _ _ _ => true
  | .txPacketSend _ => true
  | .put _ _ => true
  | .getReq _ _ => true
  | .getResp _ _ => true
  | .send _ _ => true
  | .atomicAdd _ _ => true
  | .atomicResp _ _ => true
  | .ack _ _ => true
  | .ackTimer _ => true
  | .localCpl _ => true
  | .retxTimeout _ _ => true
  | .noResourceRetry _ _ => true
  | .pathHoldExpiry _ _ => true
  | .frameIngress _ f => decide (f.bytes.length ≤ 9608)
  | .admitRetry _ _ => true
  | .xbarSlot _ => true
  | .ethRelease _ => true
  | .egressSelect _ => true
  | .ageOscTick _ => true
  | .l3Slot _ => true
  | .l3ReseqGiveup _ => true
  | .tblCmdRead _ _ _ => true
  | .tblCmdWrite _ _ _ => true
  | .tblCmdInsert _ _ _ => true
  | .tblCmdDelete _ _ _ => true
  | .tblCmdFind _ _ _ => true
  | .tblCmdDone _ => true
  | .slotLagWindow => true
  | .evacStartQueued => true
  | .evacDrainEnd _ _ => true
  | .evacRenumber => true
  | .memberRejoin _ => true
  | .limitEntryWrite _ _ _ => true
  | .spillReadback _ acct => acct.ult 2048#12
  | .spillReadDone _ acct _ => acct.ult 2048#12
  | .alloc _ _ _ => true
  | .free _ _ _ => true
  | .poolAllocReq _ _ _ => true
  | .poolFreeReq _ _ _ => true
  | .poolCacheRefill _ pool => pool.ult 6#3
  | .poolCacheReturn _ pool => pool.ult 6#3
  | .poolInitDone _ => true
  | .clsEntryWrite _ _ _ => true
  | .pfcRx _ _ => true
  | .pfcPauseExpiry _ _ => true
  | .pfcRefresh _ _ => true
  | .tokenAccrual _ _ => true
  | .check _ _ => true
  | .load _ _ => true
  | .routeLoadDone => true
  | .dlScan _ => true
  | .dlRecover _ _ => true
  | .dlHoldExpiry _ _ => true
  | .dlClear _ _ => true
  | .meshMcForward _ => true
  | .rdxAdmit _ _ _ => true
  | .retire _ _ _ => true
  | .rdxReset _ _ _ => true
  | .save _ _ _ => true
  | .restore _ _ _ => true
  | .rdxCmdDone _ => true
  | .collContrib _ _ => true
  | .claim _ => true
  | .claimGrant _ => true
  | .engineAccumulate _ => true
  | .lineRelease _ _ => true
  | .epilogue _ _ => true
  | .resultSend _ => true
  | .collPartial _ _ => true
  | .collResult _ _ => true
  | .collSmall _ _ => true
  | .scOpen _ _ => true
  | .scClose _ _ => true
  | .signal _ _ _ _ => true
  | .synSignal _ _ => true
  | .clear _ _ => true
  | .flagSet _ _ => true
  | .flagClr _ _ => true
  | .watchArm _ _ => true
  | .watchCancel _ _ => true
  | .barArm _ _ => true
  | .barDisarm _ _ => true
  | .synTblWrite _ _ => true
  | .waitScan => true
  | .waitClear _ _ => true
  | .start _ _ => true
  | .pause _ _ => true
  | .resume _ _ => true
  | .stop _ _ => true
  | .pauseTakesEffect _ l => l.ult 4#3
  | .gangSchedule cls => cls.ult 3#2
  | .halt _ l => l.ult 4#3
  | .ldw _ l => l.ult 4#3
  | .stw _ l => l.ult 4#3
  | .mm _ l => l.ult 4#3
  | .mmtDx _ l => l.ult 4#3
  | .mmtDw _ l => l.ult 4#3
  | .epi _ l => l.ult 4#3
  | .cvt _ l => l.ult 4#3
  | .rdxOp _ l => l.ult 4#3
  | .snd _ l => l.ult 4#3
  | .rcvPostWait _ l => l.ult 4#3
  | .rcvPost _ l => l.ult 4#3
  | .rcvFirst _ l => l.ult 4#3
  | .waitCounter _ l => l.ult 4#3
  | .waitFlag _ l => l.ult 4#3
  | .gangWatchMessage _ _ _ => true
  | .sigAdd _ l => l.ult 4#3
  | .sigSet _ l => l.ult 4#3
  | .sigClr _ l => l.ult 4#3
  | .cntFetch _ l => l.ult 4#3
  | .cntCounts _ l => l.ult 4#3
  | .digTree _ l => l.ult 4#3
  | .digAudit _ l => l.ult 4#3
  | .smpSeeded _ l => l.ult 4#3
  | .smpEntropy _ l => l.ult 4#3
  | .gangOpDone _ l => l.ult 4#3
  | .cplRingResume _ l => l.ult 4#3
  | .arrayLagWindow => true
  | .releaseRetention _ _ => true
  | .clearGrad _ _ => true
  | .trainEntryWrite _ _ => true
  | .partitionEntryWrite _ _ => true
  | .stageMonWindow _ _ => true
  | .realign _ _ _ => true
  | .xingSlip _ => true
  | .xingAlignFail _ => true
  | .create _ slot _ => slot.ult 17#5
  | .assign _ slot _ => slot.ult 17#5
  | .unassign _ slot _ => slot.ult 17#5
  | .partitionReset _ slot _ => slot.ult 17#5
  | .release _ slot _ => slot.ult 17#5
  | .regionZeroed _ _ => true
  | .setRegion _ slot _ => slot.ult 17#5
  | .setAcl _ slot _ => slot.ult 17#5
  | .keyImport _ slot _ => slot.ult 17#5
  | .unwrap _ slot _ => slot.ult 17#5
  | .attest _ slot _ => slot.ult 17#5
  | .claimOwner _ slot _ => slot.ult 17#5
  | .lifecycle _ slot _ => slot.ult 17#5
  | .chrChallenge _ slot _ => slot.ult 17#5
  | .putCert _ slot _ => slot.ult 17#5
  | .chrCmdDone engine => engine.ult 2#2
  | .entropyFail => true
  | .tapInstruction _ => true
  | .tapReset => true
  | .hello => true
  | .dbgChallenge => true
  | .token tok => tok.length == 224
  | .dbgRead _ _ n => n.ule 256#9
  | .dbgWrite _ _ data => decide (data.length ≤ 256)
  | .dbgHalt _ => true
  | .dbgResume _ => true
  | .dbgEnd => true
  | .pwrgdRise => true
  | .pwrgdFall => true
  | .resetN _ => true
  | .pciePerstN _ => true
  | .instar0 _ => true
  | .instar1 => true
  | .instar2 _ _ => true
  | .instar3 => true
  | .eclosion _ => true
  | .thoraxBootTimeout => true
  | .fwWrite _ _ _ => true
  | .fwWriteDone _ => true
  | .activate _ _ _ => true
  | .commit _ _ _ => true
  | .rollback _ _ _ => true
  | .discard _ _ _ => true
  | .restart _ _ _ => true
  | .fwTrialTimeout _ => true
  | .pupa _ _ => true
  | .diapause _ _ => true
  | .diapauseDrainEnd => true
  | .wake _ _ => true
  | .powerTransitionDone => true
  | .saveProfile _ _ => true
  | .saveProfileDone _ => true
  | .governorLoop _ => true
  | .thermalTrip _ _ => true
  | .repair _ _ _ => true
  | .hbmRepairDone _ _ => true
  | .meterSample uj _ => uj.length == 6
  | .activityReport _ _ _ => true
  | .tenancyEvent _ _ _ => true
  | .periodEnd _ => true
  | .clockFallback => true
  | .clockRestored => true
  | .vmtrLoss => true
  | .vmtrReturn _ => true
  | .mtrUpdateFallback => true
  | .ident => true
  | .readRecord _ => true
  | .readSigned nonce => nonce.length == 64
  | .readLog _ => true
  | .readCert _ => true
  | .updBegin => true
  | .updData _ data => decide (data.length ≤ 256)
  | .updEnd => true
  | .ccnReq _ _ => true
  | .signedReadingDone => true
  | .ringEnable _ _ _ => true
  | .ringTail _ _ _ => true
  | .ringConsumed _ _ _ => true
  | .nop _ => true
  | .regRead _ => true
  | .regWrite _ => true
  | .ringWaitDone _ => true
  | .tblRead _ => true
  | .tblWrite _ => true
  | .ringSignal _ => true
  | .ringFlag _ => true
  | .ringWatch _ => true
  | .strict _ => true
  | .ringCoalTimer _ => true
  | .pcieLinkDown => true
  | .flr fn => fn.ult 17#5
  | .inventory _ => true
  | .health _ => true
  | .readReg _ => true
  | .ackFaults _ => true
  | .power _ => true
  | .setCap _ => true
  | .ibiCfg _ => true
  | .ibiRetry _ => true
  | .recStatus _ => true
  | .recBegin _ => true
  | .recData _ => true
  | .recEnd _ => true
  | .recBoot _ => true
  | .pmbusPoll reads => reads.length == 16
  | .pmbAlert _ => true
  | .collWindow _ _ => true
  | .fwReady _ => true
  | .mtrUnseal => true
  | .registerRead _ bar _ len => barOk bar && (len == 4#4 || len == 8#4)
  | .msixVectorUnmask fn _ => fn.ult 17#5
  | .dynamicAddressAssignment _ => true

end Sys2Proof
end

