-- ==== Sys2Proof/Laws/PerInstr.lean ====
section
/-! SUPPORT. What well-formedness says of each command, as numbers: the operands that name something are in its range, and
payloads have their lengths. -/

namespace Sys2Proof.Laws.Operands

/-- A well-formed command names what the part has, and carries payloads of the lengths that the spec gives. -/
def Statement (i : Instr) : Prop :=
  i.wf = true →
    match i with
    | .registerWrite _ bar _ len _ => (bar.toNat = 0 ∨ bar.toNat = 2 ∨ bar.toNat = 4) ∧ (len.toNat = 4 ∨ len.toNat = 8)
    | .errorEvent _ cls _ => cls.toNat < 48
    | .laneLockLost _ n => n.toNat < 68
    | .sparePolicyWindow _ n => n.toNat < 68
    | .dataCodeword _ n side body parity => n.toNat < 68 ∧ codewordOk side body parity = true
    | .codewordTx _ n => n.toNat < 68
    | .flitRx _ f => f.bytes.length = 64
    | .frameIngress _ f => f.bytes.length ≤ 9608
    | .spillReadback _ acct => acct.toNat < 2048
    | .spillReadDone _ acct _ => acct.toNat < 2048
    | .poolCacheRefill _ pool => pool.toNat < 6
    | .poolCacheReturn _ pool => pool.toNat < 6
    | .pauseTakesEffect _ l => l.toNat < 4
    | .gangSchedule cls => cls.toNat < 3
    | .halt _ l => l.toNat < 4
    | .ldw _ l => l.toNat < 4
    | .stw _ l => l.toNat < 4
    | .mm _ l => l.toNat < 4
    | .mmtDx _ l => l.toNat < 4
    | .mmtDw _ l => l.toNat < 4
    | .epi _ l => l.toNat < 4
    | .cvt _ l => l.toNat < 4
    | .rdxOp _ l => l.toNat < 4
    | .snd _ l => l.toNat < 4
    | .rcvPostWait _ l => l.toNat < 4
    | .rcvPost _ l => l.toNat < 4
    | .rcvFirst _ l => l.toNat < 4
    | .waitCounter _ l => l.toNat < 4
    | .waitFlag _ l => l.toNat < 4
    | .sigAdd _ l => l.toNat < 4
    | .sigSet _ l => l.toNat < 4
    | .sigClr _ l => l.toNat < 4
    | .cntFetch _ l => l.toNat < 4
    | .cntCounts _ l => l.toNat < 4
    | .digTree _ l => l.toNat < 4
    | .digAudit _ l => l.toNat < 4
    | .smpSeeded _ l => l.toNat < 4
    | .smpEntropy _ l => l.toNat < 4
    | .gangOpDone _ l => l.toNat < 4
    | .cplRingResume _ l => l.toNat < 4
    | .create _ slot _ => slot.toNat < 17
    | .assign _ slot _ => slot.toNat < 17
    | .unassign _ slot _ => slot.toNat < 17
    | .partitionReset _ slot _ => slot.toNat < 17
    | .release _ slot _ => slot.toNat < 17
    | .setRegion _ slot _ => slot.toNat < 17
    | .setAcl _ slot _ => slot.toNat < 17
    | .keyImport _ slot _ => slot.toNat < 17
    | .unwrap _ slot _ => slot.toNat < 17
    | .attest _ slot _ => slot.toNat < 17
    | .claimOwner _ slot _ => slot.toNat < 17
    | .lifecycle _ slot _ => slot.toNat < 17
    | .chrChallenge _ slot _ => slot.toNat < 17
    | .putCert _ slot _ => slot.toNat < 17
    | .chrCmdDone engine => engine.toNat < 2
    | .token tok => tok.length = 224
    | .dbgRead _ _ n => n.toNat ≤ 256
    | .dbgWrite _ _ data => data.length ≤ 256
    | .meterSample uj _ => uj.length = 6
    | .readSigned nonce => nonce.length = 64
    | .updData _ data => data.length ≤ 256
    | .flr fn => fn.toNat < 17
    | .pmbusPoll reads => reads.length = 16
    | .registerRead _ bar _ len => (bar.toNat = 0 ∨ bar.toNat = 2 ∨ bar.toNat = 4) ∧ (len.toNat = 4 ∨ len.toNat = 8)
    | .msixVectorUnmask fn _ => fn.toNat < 17
    | _ => True

theorem registerWrite (m : Mst) (bar : BitVec 3) (addr : BitVec 26) (len : BitVec 4) (v : Word) : Statement (.registerWrite m bar addr len v) := by
  revert bar len
  unfold Statement
  simp only [Instr.wf]
  decide
theorem ctrlEnable (m : Mst) (pg : Pg) (v : Word) : Statement (.ctrlEnable m pg v) := fun _ => trivial
theorem ctrlQuiesce (m : Mst) (pg : Pg) (v : Word) : Statement (.ctrlQuiesce m pg v) := fun _ => trivial
theorem ctrlFreeze (m : Mst) (pg : Pg) (v : Word) : Statement (.ctrlFreeze m pg v) := fun _ => trivial
theorem ctrlEvacuate (m : Mst) (pg : Pg) (v : Word) : Statement (.ctrlEvacuate m pg v) := fun _ => trivial
theorem ctrlReset (m : Mst) (pg : Pg) (v : Word) : Statement (.ctrlReset m pg v) := fun _ => trivial
theorem trainingDone (pg : Pg) : Statement (.trainingDone pg) := fun _ => trivial
theorem quiesceDrainDone (pg : Pg) : Statement (.quiesceDrainDone pg) := fun _ => trivial
theorem captureMarker (pg : Pg) : Statement (.captureMarker pg) := fun _ => trivial
theorem freezeCaptureDone (pg : Pg) : Statement (.freezeCaptureDone pg) := fun _ => trivial
theorem snapTake (m : Mst) (pg : Pg) (v : Word) : Statement (.snapTake m pg v) := fun _ => trivial
theorem snapWriteoutDone (pg : Pg) : Statement (.snapWriteoutDone pg) := fun _ => trivial
theorem pageNoAnswer (m : Mst) (pg : Pg) : Statement (.pageNoAnswer m pg) := fun _ => trivial
theorem errForce (m : Mst) (pg : Pg) (v : Word) : Statement (.errForce m pg v) := fun _ => trivial
theorem errAck (m : Mst) (pg : Pg) (v : Word) : Statement (.errAck m pg v) := fun _ => trivial
theorem errorEvent (pg : Pg) (cls : BitVec 6) (arg : Word) : Statement (.errorEvent pg cls arg) := of_decide_eq_true
theorem fltAckBelow (m : Mst) (pg : Pg) (v : Word) : Statement (.fltAckBelow m pg v) := fun _ => trivial
theorem pinMismatch (pg : Pg) (child : BitVec 9) : Statement (.pinMismatch pg child) := fun _ => trivial
theorem lostMsTick (k : DieNo) : Statement (.lostMsTick k) := fun _ => trivial
theorem lnkGrpCfgWrite (m : Mst) (pg : Pg) (v : Word) : Statement (.lnkGrpCfgWrite m pg v) := fun _ => trivial
theorem lanePower (m : Mst) (pg : Pg) (v : Word) : Statement (.lanePower m pg v) := fun _ => trivial
theorem laneCtrlRetrain (m : Mst) (pg : Pg) (v : Word) : Statement (.laneCtrlRetrain m pg v) := fun _ => trivial
theorem clrCounters (m : Mst) (pg : Pg) (v : Word) : Statement (.clrCounters m pg v) := fun _ => trivial
theorem spareRequest (m : Mst) (pg : Pg) (v : Word) : Statement (.spareRequest m pg v) := fun _ => trivial
theorem spareRevert (m : Mst) (pg : Pg) (v : Word) : Statement (.spareRevert m pg v) := fun _ => trivial
theorem spareRequestDequeue (k : DieNo) : Statement (.spareRequestDequeue k) := fun _ => trivial
theorem prbsCtrlWrite (m : Mst) (pg : Pg) (v : Word) : Statement (.prbsCtrlWrite m pg v) := fun _ => trivial
theorem detectRetry (port : PortNo) : Statement (.detectRetry port) := fun _ => trivial
theorem partnerDetected (port : PortNo) (an : BitVec 4) : Statement (.partnerDetected port an) := fun _ => trivial
theorem trainDone (port : PortNo) : Statement (.trainDone port) := fun _ => trivial
theorem trainTimeout (port : PortNo) : Statement (.trainTimeout port) := fun _ => trivial
theorem lockDone (port : PortNo) : Statement (.lockDone port) := fun _ => trivial
theorem lockTimeout (port : PortNo) : Statement (.lockTimeout port) := fun _ => trivial
theorem capability (port : PortNo) (msg : CapMsg) : Statement (.capability port msg) := fun _ => trivial
theorem capexResend (port : PortNo) : Statement (.capexResend port) := fun _ => trivial
theorem addrRecheck (g : GroupNo) : Statement (.addrRecheck g) := fun _ => trivial
theorem retrain (port : PortNo) : Statement (.retrain port) := fun _ => trivial
theorem laneLockLost (k : DieNo) (n : LaneNo) : Statement (.laneLockLost k n) := of_decide_eq_true
theorem sparePolicyWindow (k : DieNo) (n : LaneNo) : Statement (.sparePolicyWindow k n) := of_decide_eq_true
theorem sparePrepare (port : PortNo) (idx : BitVec 3) (j : BitVec 2) : Statement (.sparePrepare port idx j) := fun _ => trivial
theorem spareTrainDone (k : DieNo) : Statement (.spareTrainDone k) := fun _ => trivial
theorem spareTrainFail (k : DieNo) : Statement (.spareTrainFail k) := fun _ => trivial
theorem spareSwitch (port : PortNo) (idx : BitVec 3) (j : BitVec 2) (sw : BitVec 32) : Statement (.spareSwitch port idx j sw) := fun _ => trivial
theorem spareAck (port : PortNo) (idx : BitVec 3) (j : BitVec 2) (sw : BitVec 32) : Statement (.spareAck port idx j sw) := fun _ => trivial
theorem spareSwitchover (k : DieNo) : Statement (.spareSwitchover k) := fun _ => trivial
theorem refclkLost (k : DieNo) : Statement (.refclkLost k) := fun _ => trivial
theorem refclkRestored (k : DieNo) : Statement (.refclkRestored k) := fun _ => trivial
theorem dataCodeword (k : DieNo) (n : LaneNo) (side : Line) (body : Line) (parity : Line) : Statement (.dataCodeword k n side body parity) := by
  intro h
  simpa [Instr.wf, BitVec.ult] using h
theorem codewordTx (k : DieNo) (n : LaneNo) : Statement (.codewordTx k n) := of_decide_eq_true
theorem flitRx (port : PortNo) (f : Flit) : Statement (.flitRx port f) := eq_of_beq
theorem sidebandRx (port : PortNo) (w : BitVec 32) : Statement (.sidebandRx port w) := fun _ => trivial
theorem nakRx (port : PortNo) (ack : BitVec 16) : Statement (.nakRx port ack) := fun _ => trivial
theorem nakRepeat (port : PortNo) : Statement (.nakRepeat port) := fun _ => trivial
theorem flitTx (port : PortNo) : Statement (.flitTx port) := fun _ => trivial
theorem ctxOpen (m : Mst) (t : TileNo) (v : Word) : Statement (.ctxOpen m t v) := fun _ => trivial
theorem ctxClose (m : Mst) (t : TileNo) (v : Word) : Statement (.ctxClose m t v) := fun _ => trivial
theorem ctxReset (m : Mst) (t : TileNo) (v : Word) : Statement (.ctxReset m t v) := fun _ => trivial
theorem ctxEntryWrite (m : Mst) (t : TileNo) (v : Word) : Statement (.ctxEntryWrite m t v) := fun _ => trivial
theorem localPut (g : GroupNo) (c : LocalCmd) : Statement (.localPut g c) := fun _ => trivial
theorem localGet (g : GroupNo) (c : LocalCmd) : Statement (.localGet g c) := fun _ => trivial
theorem localSend (g : GroupNo) (c : LocalCmd) : Statement (.localSend g c) := fun _ => trivial
theorem localAtomic (g : GroupNo) (c : LocalCmd) : Statement (.localAtomic g c) := fun _ => trivial
theorem localRecvPost (g : GroupNo) (c : LocalCmd) : Statement (.localRecvPost g c) := fun _ => trivial
theorem ctxQueueIssue (c : CtxNo) : Statement (.ctxQueueIssue c) := fun _ => trivial
theorem localRdData (g : GroupNo) (tag : BitVec 32) (data : List Byte) : Statement (.localRdData g tag data) := fun _ => trivial
theorem txPacketSend (c : CtxNo) : Statement (.txPacketSend c) := fun _ => trivial
theorem put (t : TileNo) (p : TPkt) : Statement (.put t p) := fun _ => trivial
theorem getReq (t : TileNo) (p : TPkt) : Statement (.getReq t p) := fun _ => trivial
theorem getResp (t : TileNo) (p : TPkt) : Statement (.getResp t p) := fun _ => trivial
theorem send (t : TileNo) (p : TPkt) : Statement (.send t p) := fun _ => trivial
theorem atomicAdd (t : TileNo) (p : TPkt) : Statement (.atomicAdd t p) := fun _ => trivial
theorem atomicResp (t : TileNo) (p : TPkt) : Statement (.atomicResp t p) := fun _ => trivial
theorem ack (t : TileNo) (p : TPkt) : Statement (.ack t p) := fun _ => trivial
theorem ackTimer (c : CtxNo) : Statement (.ackTimer c) := fun _ => trivial
theorem localCpl (c : CtxNo) : Statement (.localCpl c) := fun _ => trivial
theorem retxTimeout (c : CtxNo) (psn : BitVec 32) : Statement (.retxTimeout c psn) := fun _ => trivial
theorem noResourceRetry (c : CtxNo) (psn : BitVec 32) : Statement (.noResourceRetry c psn) := fun _ => trivial
theorem pathHoldExpiry (t : TileNo) (path : BitVec 20) : Statement (.pathHoldExpiry t path) := fun _ => trivial
theorem frameIngress (port : PortNo) (f : Frame) : Statement (.frameIngress port f) := of_decide_eq_true
theorem admitRetry (port : PortNo) (vc : BitVec 3) : Statement (.admitRetry port vc) := fun _ => trivial
theorem xbarSlot (last : TileNo) : Statement (.xbarSlot last) := fun _ => trivial
theorem ethRelease (port : PortNo) : Statement (.ethRelease port) := fun _ => trivial
theorem egressSelect (port : PortNo) : Statement (.egressSelect port) := fun _ => trivial
theorem ageOscTick (d : BaseNo) : Statement (.ageOscTick d) := fun _ => trivial
theorem l3Slot (a : L3In) : Statement (.l3Slot a) := fun _ => trivial
theorem l3ReseqGiveup (t : TileNo) : Statement (.l3ReseqGiveup t) := fun _ => trivial
theorem tblCmdRead (m : Mst) (t : TileNo) (v : Word) : Statement (.tblCmdRead m t v) := fun _ => trivial
theorem tblCmdWrite (m : Mst) (t : TileNo) (v : Word) : Statement (.tblCmdWrite m t v) := fun _ => trivial
theorem tblCmdInsert (m : Mst) (t : TileNo) (v : Word) : Statement (.tblCmdInsert m t v) := fun _ => trivial
theorem tblCmdDelete (m : Mst) (t : TileNo) (v : Word) : Statement (.tblCmdDelete m t v) := fun _ => trivial
theorem tblCmdFind (m : Mst) (t : TileNo) (v : Word) : Statement (.tblCmdFind m t v) := fun _ => trivial
theorem tblCmdDone (t : TileNo) : Statement (.tblCmdDone t) := fun _ => trivial
theorem slotLagWindow : Statement .slotLagWindow := fun _ => trivial
theorem evacStartQueued : Statement .evacStartQueued := fun _ => trivial
theorem evacDrainEnd (t : TileNo) (expired : Bool) : Statement (.evacDrainEnd t expired) := fun _ => trivial
theorem evacRenumber : Statement .evacRenumber := fun _ => trivial
theorem memberRejoin (t : TileNo) : Statement (.memberRejoin t) := fun _ => trivial
theorem limitEntryWrite (m : Mst) (pg : Pg) (v : Word) : Statement (.limitEntryWrite m pg v) := fun _ => trivial
theorem spillReadback (d : BaseNo) (acct : BitVec 12) : Statement (.spillReadback d acct) := of_decide_eq_true
theorem spillReadDone (d : BaseNo) (acct : BitVec 12) (uncorr : Bool) : Statement (.spillReadDone d acct uncorr) := of_decide_eq_true
theorem alloc (m : Mst) (pg : Pg) (v : Word) : Statement (.alloc m pg v) := fun _ => trivial
theorem free (m : Mst) (pg : Pg) (v : Word) : Statement (.free m pg v) := fun _ => trivial
theorem poolAllocReq (d : BaseNo) (src : BitVec 4) (size : BitVec 32) : Statement (.poolAllocReq d src size) := fun _ => trivial
theorem poolFreeReq (d : BaseNo) (src : BitVec 4) (addr : BitVec 52) : Statement (.poolFreeReq d src addr) := fun _ => trivial
theorem poolCacheRefill (d : BaseNo) (pool : BitVec 3) : Statement (.poolCacheRefill d pool) := of_decide_eq_true
theorem poolCacheReturn (d : BaseNo) (pool : BitVec 3) : Statement (.poolCacheReturn d pool) := of_decide_eq_true
theorem poolInitDone (d : BaseNo) : Statement (.poolInitDone d) := fun _ => trivial
theorem clsEntryWrite (m : Mst) (pg : Pg) (v : Word) : Statement (.clsEntryWrite m pg v) := fun _ => trivial
theorem pfcRx (port : PortNo) (bytes : List Byte) : Statement (.pfcRx port bytes) := fun _ => trivial
theorem pfcPauseExpiry (port : PortNo) (vc : BitVec 3) : Statement (.pfcPauseExpiry port vc) := fun _ => trivial
theorem pfcRefresh (port : PortNo) (vc : BitVec 3) : Statement (.pfcRefresh port vc) := fun _ => trivial
theorem tokenAccrual (t : TileNo) (cycles : BitVec 32) : Statement (.tokenAccrual t cycles) := fun _ => trivial
theorem check (m : Mst) (v : Word) : Statement (.check m v) := fun _ => trivial
theorem load (m : Mst) (v : Word) : Statement (.load m v) := fun _ => trivial
theorem routeLoadDone : Statement .routeLoadDone := fun _ => trivial
theorem dlScan (d : BaseNo) : Statement (.dlScan d) := fun _ => trivial
theorem dlRecover (port : PortNo) (vc : BitVec 3) : Statement (.dlRecover port vc) := fun _ => trivial
theorem dlHoldExpiry (port : PortNo) (vc : BitVec 3) : Statement (.dlHoldExpiry port vc) := fun _ => trivial
theorem dlClear (m : Mst) (v : Word) : Statement (.dlClear m v) := fun _ => trivial
theorem meshMcForward (h : MeshHead) : Statement (.meshMcForward h) := fun _ => trivial
theorem rdxAdmit (m : Mst) (n : EngNo) (v : Word) : Statement (.rdxAdmit m n v) := fun _ => trivial
theorem retire (m : Mst) (n : EngNo) (v : Word) : Statement (.retire m n v) := fun _ => trivial
theorem rdxReset (m : Mst) (n : EngNo) (v : Word) : Statement (.rdxReset m n v) := fun _ => trivial
theorem save (m : Mst) (n : EngNo) (v : Word) : Statement (.save m n v) := fun _ => trivial
theorem restore (m : Mst) (n : EngNo) (v : Word) : Statement (.restore m n v) := fun _ => trivial
theorem rdxCmdDone (n : EngNo) : Statement (.rdxCmdDone n) := fun _ => trivial
theorem collContrib (port : PortNo) (p : CPkt) : Statement (.collContrib port p) := fun _ => trivial
theorem claim (c : CtxNo) : Statement (.claim c) := fun _ => trivial
theorem claimGrant (c : CtxNo) : Statement (.claimGrant c) := fun _ => trivial
theorem engineAccumulate (n : EngNo) : Statement (.engineAccumulate n) := fun _ => trivial
theorem lineRelease (c : CtxNo) (line : BitVec 64) : Statement (.lineRelease c line) := fun _ => trivial
theorem epilogue (c : CtxNo) (line : BitVec 64) : Statement (.epilogue c line) := fun _ => trivial
theorem resultSend (c : CtxNo) : Statement (.resultSend c) := fun _ => trivial
theorem collPartial (port : PortNo) (p : CPkt) : Statement (.collPartial port p) := fun _ => trivial
theorem collResult (port : PortNo) (p : CPkt) : Statement (.collResult port p) := fun _ => trivial
theorem collSmall (port : PortNo) (p : CPkt) : Statement (.collSmall port p) := fun _ => trivial
theorem scOpen (m : Mst) (v : Word) : Statement (.scOpen m v) := fun _ => trivial
theorem scClose (m : Mst) (v : Word) : Statement (.scClose m v) := fun _ => trivial
theorem signal (src : Mst) (counter : BitVec 16) (epoch : BitVec 16) (amount : BitVec 32) : Statement (.signal src counter epoch amount) := fun _ => trivial
theorem synSignal (m : Mst) (v : Word) : Statement (.synSignal m v) := fun _ => trivial
theorem clear (m : Mst) (v : Word) : Statement (.clear m v) := fun _ => trivial
theorem flagSet (m : Mst) (v : Word) : Statement (.flagSet m v) := fun _ => trivial
theorem flagClr (m : Mst) (v : Word) : Statement (.flagClr m v) := fun _ => trivial
theorem watchArm (m : Mst) (v : Word) : Statement (.watchArm m v) := fun _ => trivial
theorem watchCancel (m : Mst) (v : Word) : Statement (.watchCancel m v) := fun _ => trivial
theorem barArm (m : Mst) (v : Word) : Statement (.barArm m v) := fun _ => trivial
theorem barDisarm (m : Mst) (v : Word) : Statement (.barDisarm m v) := fun _ => trivial
theorem synTblWrite (m : Mst) (v : Word) : Statement (.synTblWrite m v) := fun _ => trivial
theorem waitScan : Statement .waitScan := fun _ => trivial
theorem waitClear (m : Mst) (v : Word) : Statement (.waitClear m v) := fun _ => trivial
theorem start (m : Mst) (v : Word) : Statement (.start m v) := fun _ => trivial
theorem pause (m : Mst) (v : Word) : Statement (.pause m v) := fun _ => trivial
theorem resume (m : Mst) (v : Word) : Statement (.resume m v) := fun _ => trivial
theorem stop (m : Mst) (v : Word) : Statement (.stop m v) := fun _ => trivial
theorem pauseTakesEffect (p : PartNo) (l : ListNo) : Statement (.pauseTakesEffect p l) := of_decide_eq_true
theorem gangSchedule (cls : BitVec 2) : Statement (.gangSchedule cls) := of_decide_eq_true
theorem halt (p : PartNo) (l : ListNo) : Statement (.halt p l) := of_decide_eq_true
theorem ldw (p : PartNo) (l : ListNo) : Statement (.ldw p l) := of_decide_eq_true
theorem stw (p : PartNo) (l : ListNo) : Statement (.stw p l) := of_decide_eq_true
theorem mm (p : PartNo) (l : ListNo) : Statement (.mm p l) := of_decide_eq_true
theorem mmtDx (p : PartNo) (l : ListNo) : Statement (.mmtDx p l) := of_decide_eq_true
theorem mmtDw (p : PartNo) (l : ListNo) : Statement (.mmtDw p l) := of_decide_eq_true
theorem epi (p : PartNo) (l : ListNo) : Statement (.epi p l) := of_decide_eq_true
theorem cvt (p : PartNo) (l : ListNo) : Statement (.cvt p l) := of_decide_eq_true
theorem rdxOp (p : PartNo) (l : ListNo) : Statement (.rdxOp p l) := of_decide_eq_true
theorem snd (p : PartNo) (l : ListNo) : Statement (.snd p l) := of_decide_eq_true
theorem rcvPostWait (p : PartNo) (l : ListNo) : Statement (.rcvPostWait p l) := of_decide_eq_true
theorem rcvPost (p : PartNo) (l : ListNo) : Statement (.rcvPost p l) := of_decide_eq_true
theorem rcvFirst (p : PartNo) (l : ListNo) : Statement (.rcvFirst p l) := of_decide_eq_true
theorem waitCounter (p : PartNo) (l : ListNo) : Statement (.waitCounter p l) := of_decide_eq_true
theorem waitFlag (p : PartNo) (l : ListNo) : Statement (.waitFlag p l) := of_decide_eq_true
theorem gangWatchMessage (w : Arming) (code : BitVec 8) (value : Word) : Statement (.gangWatchMessage w code value) := fun _ => trivial
theorem sigAdd (p : PartNo) (l : ListNo) : Statement (.sigAdd p l) := of_decide_eq_true
theorem sigSet (p : PartNo) (l : ListNo) : Statement (.sigSet p l) := of_decide_eq_true
theorem sigClr (p : PartNo) (l : ListNo) : Statement (.sigClr p l) := of_decide_eq_true
theorem cntFetch (p : PartNo) (l : ListNo) : Statement (.cntFetch p l) := of_decide_eq_true
theorem cntCounts (p : PartNo) (l : ListNo) : Statement (.cntCounts p l) := of_decide_eq_true
theorem digTree (p : PartNo) (l : ListNo) : Statement (.digTree p l) := of_decide_eq_true
theorem digAudit (p : PartNo) (l : ListNo) : Statement (.digAudit p l) := of_decide_eq_true
theorem smpSeeded (p : PartNo) (l : ListNo) : Statement (.smpSeeded p l) := of_decide_eq_true
theorem smpEntropy (p : PartNo) (l : ListNo) : Statement (.smpEntropy p l) := of_decide_eq_true
theorem gangOpDone (p : PartNo) (l : ListNo) : Statement (.gangOpDone p l) := of_decide_eq_true
theorem cplRingResume (p : PartNo) (l : ListNo) : Statement (.cplRingResume p l) := of_decide_eq_true
theorem arrayLagWindow : Statement .arrayLagWindow := fun _ => trivial
theorem releaseRetention (m : Mst) (v : Word) : Statement (.releaseRetention m v) := fun _ => trivial
theorem clearGrad (m : Mst) (v : Word) : Statement (.clearGrad m v) := fun _ => trivial
theorem trainEntryWrite (m : Mst) (v : Word) : Statement (.trainEntryWrite m v) := fun _ => trivial
theorem partitionEntryWrite (m : Mst) (v : Word) : Statement (.partitionEntryWrite m v) := fun _ => trivial
theorem stageMonWindow (pg : Pg) (count : BitVec 32) : Statement (.stageMonWindow pg count) := fun _ => trivial
theorem realign (m : Mst) (pg : Pg) (v : Word) : Statement (.realign m pg v) := fun _ => trivial
theorem xingSlip (pg : Pg) : Statement (.xingSlip pg) := fun _ => trivial
theorem xingAlignFail (pg : Pg) : Statement (.xingAlignFail pg) := fun _ => trivial
theorem create (m : Mst) (slot : ChrSlot) (v : Word) : Statement (.create m slot v) := of_decide_eq_true
theorem assign (m : Mst) (slot : ChrSlot) (v : Word) : Statement (.assign m slot v) := of_decide_eq_true
theorem unassign (m : Mst) (slot : ChrSlot) (v : Word) : Statement (.unassign m slot v) := of_decide_eq_true
theorem partitionReset (m : Mst) (slot : ChrSlot) (v : Word) : Statement (.partitionReset m slot v) := of_decide_eq_true
theorem release (m : Mst) (slot : ChrSlot) (v : Word) : Statement (.release m slot v) := of_decide_eq_true
theorem regionZeroed (r : BitVec 10) (ok : Bool) : Statement (.regionZeroed r ok) := fun _ => trivial
theorem setRegion (m : Mst) (slot : ChrSlot) (v : Word) : Statement (.setRegion m slot v) := of_decide_eq_true
theorem setAcl (m : Mst) (slot : ChrSlot) (v : Word) : Statement (.setAcl m slot v) := of_decide_eq_true
theorem keyImport (m : Mst) (slot : ChrSlot) (v : Word) : Statement (.keyImport m slot v) := of_decide_eq_true
theorem unwrap (m : Mst) (slot : ChrSlot) (v : Word) : Statement (.unwrap m slot v) := of_decide_eq_true
theorem attest (m : Mst) (slot : ChrSlot) (v : Word) : Statement (.attest m slot v) := of_decide_eq_true
theorem claimOwner (m : Mst) (slot : ChrSlot) (v : Word) : Statement (.claimOwner m slot v) := of_decide_eq_true
theorem lifecycle (m : Mst) (slot : ChrSlot) (v : Word) : Statement (.lifecycle m slot v) := of_decide_eq_true
theorem chrChallenge (m : Mst) (slot : ChrSlot) (v : Word) : Statement (.chrChallenge m slot v) := of_decide_eq_true
theorem putCert (m : Mst) (slot : ChrSlot) (v : Word) : Statement (.putCert m slot v) := of_decide_eq_true
theorem chrCmdDone (engine : BitVec 2) : Statement (.chrCmdDone engine) := of_decide_eq_true
theorem entropyFail : Statement .entropyFail := fun _ => trivial
theorem tapInstruction (ir : Byte) : Statement (.tapInstruction ir) := fun _ => trivial
theorem tapReset : Statement .tapReset := fun _ => trivial
theorem hello : Statement .hello := fun _ => trivial
theorem dbgChallenge : Statement .dbgChallenge := fun _ => trivial
theorem token (tok : List Byte) : Statement (.token tok) := eq_of_beq
theorem dbgRead (space : BitVec 2) (addr : BitVec 52) (n : BitVec 9) : Statement (.dbgRead space addr n) := of_decide_eq_true
theorem dbgWrite (space : BitVec 2) (addr : BitVec 52) (data : List (BitVec 32)) : Statement (.dbgWrite space addr data) := of_decide_eq_true
theorem dbgHalt (p : Byte) : Statement (.dbgHalt p) := fun _ => trivial
theorem dbgResume (p : Byte) : Statement (.dbgResume p) := fun _ => trivial
theorem dbgEnd : Statement .dbgEnd := fun _ => trivial
theorem pwrgdRise : Statement .pwrgdRise := fun _ => trivial
theorem pwrgdFall : Statement .pwrgdFall := fun _ => trivial
theorem resetN (level : Bool) : Statement (.resetN level) := fun _ => trivial
theorem pciePerstN (level : Bool) : Statement (.pciePerstN level) := fun _ => trivial
theorem instar0 (bad : List (BitVec 8)) : Statement (.instar0 bad) := fun _ => trivial
theorem instar1 : Statement .instar1 := fun _ => trivial
theorem instar2 (bad : List (BitVec 8)) (hbmFail : List (BitVec 4)) : Statement (.instar2 bad hbmFail) := fun _ => trivial
theorem instar3 : Statement .instar3 := fun _ => trivial
theorem eclosion (ms : BitVec 16) : Statement (.eclosion ms) := fun _ => trivial
theorem thoraxBootTimeout : Statement .thoraxBootTimeout := fun _ => trivial
theorem fwWrite (m : Mst) (pg : Pg) (v : Word) : Statement (.fwWrite m pg v) := fun _ => trivial
theorem fwWriteDone (pg : Pg) : Statement (.fwWriteDone pg) := fun _ => trivial
theorem activate (m : Mst) (pg : Pg) (v : Word) : Statement (.activate m pg v) := fun _ => trivial
theorem commit (m : Mst) (pg : Pg) (v : Word) : Statement (.commit m pg v) := fun _ => trivial
theorem rollback (m : Mst) (pg : Pg) (v : Word) : Statement (.rollback m pg v) := fun _ => trivial
theorem discard (m : Mst) (pg : Pg) (v : Word) : Statement (.discard m pg v) := fun _ => trivial
theorem restart (m : Mst) (pg : Pg) (v : Word) : Statement (.restart m pg v) := fun _ => trivial
theorem fwTrialTimeout (pg : Pg) : Statement (.fwTrialTimeout pg) := fun _ => trivial
theorem pupa (m : Mst) (v : Word) : Statement (.pupa m v) := fun _ => trivial
theorem diapause (m : Mst) (v : Word) : Statement (.diapause m v) := fun _ => trivial
theorem diapauseDrainEnd : Statement .diapauseDrainEnd := fun _ => trivial
theorem wake (m : Mst) (v : Word) : Statement (.wake m v) := fun _ => trivial
theorem powerTransitionDone : Statement .powerTransitionDone := fun _ => trivial
theorem saveProfile (m : Mst) (v : Word) : Statement (.saveProfile m v) := fun _ => trivial
theorem saveProfileDone (ok : Bool) : Statement (.saveProfileDone ok) := fun _ => trivial
theorem governorLoop (loop : GovReading) : Statement (.governorLoop loop) := fun _ => trivial
theorem thermalTrip (die : Byte) (temp : Byte) : Statement (.thermalTrip die temp) := fun _ => trivial
theorem repair (m : Mst) (pg : Pg) (v : Word) : Statement (.repair m pg v) := fun _ => trivial
theorem hbmRepairDone (pg : Pg) (ok : Bool) : Statement (.hbmRepairDone pg ok) := fun _ => trivial
theorem meterSample (pj : List (BitVec 32)) (beyond : BitVec 6) : Statement (.meterSample pj beyond) := eq_of_beq
theorem activityReport (dom : BitVec 3) (tag : BitVec 5) (count : BitVec 32) : Statement (.activityReport dom tag count) := fun _ => trivial
theorem tenancyEvent (p : PartNo) (isCreate : Bool) (createCount : BitVec 32) : Statement (.tenancyEvent p isCreate createCount) := fun _ => trivial
theorem periodEnd (restsOnly : Bool) : Statement (.periodEnd restsOnly) := fun _ => trivial
theorem clockFallback : Statement .clockFallback := fun _ => trivial
theorem clockRestored : Statement .clockRestored := fun _ => trivial
theorem vmtrLoss : Statement .vmtrLoss := fun _ => trivial
theorem vmtrReturn (mramBad : Bool) : Statement (.vmtrReturn mramBad) := fun _ => trivial
theorem mtrUpdateFallback : Statement .mtrUpdateFallback := fun _ => trivial
theorem ident : Statement .ident := fun _ => trivial
theorem readRecord (index : BitVec 10) : Statement (.readRecord index) := fun _ => trivial
theorem readSigned (nonce : List Byte) : Statement (.readSigned nonce) := eq_of_beq
theorem readLog (index : BitVec 16) : Statement (.readLog index) := fun _ => trivial
theorem readCert (offset : BitVec 16) : Statement (.readCert offset) := fun _ => trivial
theorem updBegin : Statement .updBegin := fun _ => trivial
theorem updData (offset : BitVec 32) (data : List Byte) : Statement (.updData offset data) := of_decide_eq_true
theorem updEnd : Statement .updEnd := fun _ => trivial
theorem ccnReq (m : Mst) (v : Word) : Statement (.ccnReq m v) := fun _ => trivial
theorem signedReadingDone : Statement .signedReadingDone := fun _ => trivial
theorem ringEnable (m : Mst) (r : RingNo) (v : Word) : Statement (.ringEnable m r v) := fun _ => trivial
theorem ringTail (m : Mst) (r : RingNo) (v : Word) : Statement (.ringTail m r v) := fun _ => trivial
theorem ringConsumed (m : Mst) (r : RingNo) (v : Word) : Statement (.ringConsumed m r v) := fun _ => trivial
theorem nop (r : RingNo) : Statement (.nop r) := fun _ => trivial
theorem regRead (r : RingNo) : Statement (.regRead r) := fun _ => trivial
theorem regWrite (r : RingNo) : Statement (.regWrite r) := fun _ => trivial
theorem ringWaitDone (r : RingNo) : Statement (.ringWaitDone r) := fun _ => trivial
theorem tblRead (r : RingNo) : Statement (.tblRead r) := fun _ => trivial
theorem tblWrite (r : RingNo) : Statement (.tblWrite r) := fun _ => trivial
theorem ringSignal (r : RingNo) : Statement (.ringSignal r) := fun _ => trivial
theorem ringFlag (r : RingNo) : Statement (.ringFlag r) := fun _ => trivial
theorem ringWatch (r : RingNo) : Statement (.ringWatch r) := fun _ => trivial
theorem strict (r : RingNo) : Statement (.strict r) := fun _ => trivial
theorem ringCoalTimer (r : RingNo) : Statement (.ringCoalTimer r) := fun _ => trivial
theorem pcieLinkDown : Statement .pcieLinkDown := fun _ => trivial
theorem flr (fn : BitVec 5) : Statement (.flr fn) := of_decide_eq_true
theorem inventory (args : List Byte) : Statement (.inventory args) := fun _ => trivial
theorem health (args : List Byte) : Statement (.health args) := fun _ => trivial
theorem readReg (args : List Byte) : Statement (.readReg args) := fun _ => trivial
theorem ackFaults (args : List Byte) : Statement (.ackFaults args) := fun _ => trivial
theorem power (args : List Byte) : Statement (.power args) := fun _ => trivial
theorem setCap (args : List Byte) : Statement (.setCap args) := fun _ => trivial
theorem ibiCfg (args : List Byte) : Statement (.ibiCfg args) := fun _ => trivial
theorem ibiRetry (accepted : Bool) : Statement (.ibiRetry accepted) := fun _ => trivial
theorem recStatus (args : List Byte) : Statement (.recStatus args) := fun _ => trivial
theorem recBegin (args : List Byte) : Statement (.recBegin args) := fun _ => trivial
theorem recData (args : List Byte) : Statement (.recData args) := fun _ => trivial
theorem recEnd (args : List Byte) : Statement (.recEnd args) := fun _ => trivial
theorem recBoot (args : List Byte) : Statement (.recBoot args) := fun _ => trivial
theorem pmbusPoll (reads : List (Option (BitVec 32))) : Statement (.pmbusPoll reads) := eq_of_beq
theorem pmbAlert (bad : BitVec 16) : Statement (.pmbAlert bad) := fun _ => trivial
theorem collWindow (port : PortNo) (p : CPkt) : Statement (.collWindow port p) := fun _ => trivial
theorem fwReady (pg : Pg) : Statement (.fwReady pg) := fun _ => trivial
theorem mtrUnseal : Statement .mtrUnseal := fun _ => trivial
theorem registerRead (m : Mst) (bar : BitVec 3) (addr : BitVec 26) (len : BitVec 4) : Statement (.registerRead m bar addr len) := by
  revert bar len
  unfold Statement
  simp only [Instr.wf]
  decide
theorem msixVectorUnmask (fn : BitVec 5) (vector : Byte) : Statement (.msixVectorUnmask fn vector) := of_decide_eq_true
theorem dynamicAddressAssignment (addr : BitVec 7) : Statement (.dynamicAddressAssignment addr) := fun _ => trivial

end Sys2Proof.Laws.Operands
end

