-- ==== Sys2Proof/Machine/Package.lean ====
section
/-! DEFINITION. The land grid of the package: which land carries what (R461 to R466). -/

namespace Sys2Proof.Machine

/-- A supply rail, as its lands are named (R464, R467). -/
inductive Rail where
  | vcoreC | vcoreS | vsrdA | vsrdH | vhbmD | vhbmQ | vhbmP | vauxL | vauxH | vmtr
deriving DecidableEq, Repr

/-- A signal of a corner block (R465, R466). A differential signal's P and N are signals of their own. -/
inductive Signal where
  | pwrgd | resetN | pciePerstN | thermtripN | faultN | mgmtScl | mgmtSda | pmbScl | pmbSda | pmbAlertN
  | avsClk (i : Nat) | avsMdata (i : Nat) | avsSdata (i : Nat)
  | tck | tms | tdi | tdo | trstN | sense (rail : Rail) (positive : Bool)
  | mtrScl | mtrSda | mtrUnseal | mtrXtalI | mtrXtalO
  | pcieRefclk (positive : Bool) | pcieTx (lane : Nat) (positive : Bool) | pcieRx (lane : Nat) (positive : Bool)
deriving DecidableEq, Repr

/-- What a land carries: ground, a lane of SerDes die `Ww.Lk` (R463), that die's clock, a supply, a corner signal, or
nothing at all (a reserved land). -/
inductive Land where
  | gnd
  | tx (k n : Nat) (positive : Bool)
  | rx (k n : Nat) (positive : Bool)
  | refclk (k : Nat) (positive : Bool)
  | rail (r : Rail)
  | signal (x : Signal)
  | reserved
deriving DecidableEq, Repr

/-- `n` lands of a rail. -/
def railLands (n : Nat) (r : Rail) : List Land := List.replicate n (.rail r)

/-- The 50 entries of the signal table, in order (R466). -/
def cornerSignals : List Land :=
  ([.pwrgd, .resetN, .pciePerstN, .thermtripN, .faultN, .mgmtScl, .mgmtSda, .pmbScl, .pmbSda, .pmbAlertN,
    .avsClk 0, .avsMdata 0, .avsSdata 0, .avsClk 1, .avsMdata 1, .avsSdata 1, .tck, .tms, .tdi, .tdo, .trstN,
    .sense .vcoreC true, .sense .vcoreC false, .sense .vcoreS true, .sense .vcoreS false,
    .mtrScl, .mtrSda, .mtrUnseal, .mtrXtalI, .mtrXtalO] : List Signal).map .signal ++
    railLands 4 .vmtr ++ railLands 16 .vauxH

/-- The list of a Wing's corner block (R465). -/
def cornerList (w : Nat) : List Land :=
  let pairs (f : Nat → Bool → Signal) : List Land := (upTo 4).flatMap fun i => [.signal (f i true), .signal (f i false)]
  match w with
  | 0 => cornerSignals ++ List.replicate 34 .reserved
  | 1 => [.signal (.pcieRefclk true), .signal (.pcieRefclk false)] ++ pairs .pcieTx ++ pairs .pcieRx ++ railLands 36 .vauxL
  | 2 => railLands 36 .vauxL
  | _ => []

/-- A corner block's land at local row and column `i`, `j` from 1: the even-even positions in row-major order take the
Wing's list (R465). -/
def cornerLand (w i j : Nat) : Land :=
  if i % 2 = 0 ∧ j % 2 = 0 then (cornerList w).getD ((i / 2 - 1) * 12 + (j / 2 - 1)) .gnd else .gnd

/-- A SerDes region's land at local row and column `i`, `j` from 1: slot 3 (j - 1) + (i - 1) div 8, row (i - 1) mod 8
of the slot (R463). -/
def serdesLand (k i j : Nat) : Land :=
  let slot := 3 * (j - 1) + (i - 1) / 8
  match (i - 1) % 8 with
  | 1 => if slot < 68 then .tx k slot true else if slot = 68 then .refclk k true else .gnd
  | 2 => if slot < 68 then .tx k slot false else if slot = 68 then .refclk k false else .gnd
  | 4 => if slot < 68 then .rx k slot true else .gnd
  | 5 => if slot < 68 then .rx k slot false else .gnd
  | _ => .gnd

/-- The supplies of an interior region, with how many lands each takes, in order (R464). -/
def interiorRails : List (Nat × Rail) :=
  [(224, .vsrdA), (88, .vsrdH), (8, .vhbmP), (92, .vhbmQ), (140, .vhbmD), (360, .vcoreS), (816, .vcoreC)]

/-- The rail of the `n`-th land of a list of counted rails. -/
def railAt : List (Nat × Rail) → Nat → Land
  | [], _ => .gnd
  | (m, r) :: l, n => if n < m then .rail r else railAt l (n - m)

/-- An interior land at row `i` and column `j` of the W0 frame, both 28 to 75: 12 of each row's 48 are ground, and a
row has 36 supply lands before the next (R464). -/
def interiorLand (i j : Nat) : Land :=
  if (i + j) % 4 = 0 then .gnd
  else railAt interiorRails (36 * (i - 28) + ((upTo (j - 28)).filter fun c => (i + (28 + c)) % 4 != 0).length)

/-- A land of Wing `w` at row `i` and column `j` of the W0 frame (R462); none at a corner of the grid (R461). -/
def wingLand (w i j : Nat) : Option Land :=
  if i ≤ 3 ∧ j ≤ 3 then none
  else if i ≤ 3 ∨ j ≤ 3 then some .gnd
  else if i ≤ 27 ∧ j ≤ 27 then some (cornerLand w (i - 3) (j - 3))
  else if i ≤ 27 then some (if j ≤ 51 then serdesLand (4 * w) (i - 3) (j - 27) else serdesLand (4 * w + 1) (i - 3) (j - 51))
  else if j ≤ 27 then
    some (if i ≤ 51 then serdesLand (4 * w + 2) (i - 27) (j - 3) else serdesLand (4 * w + 3) (i - 51) (j - 3))
  else some (interiorLand i j)

/-- The land at row `r` and column `c` of the grid, each 1 to 150 (R461, R462): W1 mirrors the columns, W2 the rows, W3
both. -/
def land (r c : Nat) : Option Land :=
  if r = 0 ∨ 150 < r ∨ c = 0 ∨ 150 < c then none
  else wingLand (b2n (decide (75 < c)) + 2 * b2n (decide (75 < r))) (if 75 < r then 151 - r else r) (if 75 < c then 151 - c else c)

end Sys2Proof.Machine
end

