-- ==== Sys2Proof/Tests/Slice0.lean ====
section
/-! SUPPORT. Tests: an ill-formed command for each check of Instr.wf, the worked examples of the spec, single commands on
small states, and a state that meets the hypotheses of each statement. -/

section
set_option Elab.async false
open Sys2Proof Sys2Proof.Machine

/-! ## The land grid (the examples of chapter 19) -/

theorem test_land_of_a_lane : land 86 17 = some (.rx 11 40 false) := by decide +kernel
theorem test_no_land_at_a_corner : land 2 149 = none := by decide +kernel

/-! ## Ill-formed commands -/

theorem test_wf_refuses_bar_1 : (Instr.registerWrite 0 1 0 8 0).wf = false := by decide
theorem test_wf_refuses_access_of_2_bytes : (Instr.registerRead 0 0 0 2).wf = false := by decide
theorem test_wf_refuses_class_48 : (Instr.errorEvent 0 48 0).wf = false := by decide
theorem test_wf_refuses_lane_68 : (Instr.laneLockLost 0 68).wf = false := by decide
theorem test_wf_refuses_policy_lane_68 : (Instr.sparePolicyWindow 0 68).wf = false := by decide
theorem test_wf_refuses_codeword_lane_68 : (Instr.codewordTx 0 68).wf = false := by decide
theorem test_wf_refuses_short_codeword : (Instr.dataCodeword 0 0 ⟨[]⟩ ⟨[0]⟩ ⟨[]⟩).wf = false := by decide
theorem test_wf_refuses_short_flit : (Instr.flitRx 0 ⟨[]⟩).wf = false := by decide
theorem test_wf_refuses_long_frame : (Instr.frameIngress 0 ⟨0, List.replicate 9609 0⟩).wf = false := by
  decide +kernel
theorem test_wf_refuses_account_2048 : (Instr.spillReadback 0 2048).wf = false := by decide
theorem test_wf_refuses_read_account_2048 : (Instr.spillReadDone 0 2048 false).wf = false := by decide
theorem test_wf_refuses_refill_pool_6 : (Instr.poolCacheRefill 0 6).wf = false := by decide
theorem test_wf_refuses_return_pool_6 : (Instr.poolCacheReturn 0 6).wf = false := by decide
theorem test_wf_refuses_list_4 : (Instr.mm 0 4).wf = false := by decide
theorem test_wf_refuses_class_3 : (Instr.gangSchedule 3).wf = false := by decide
theorem test_wf_refuses_slot_17 : (Instr.create 0 17 0).wf = false := by decide
theorem test_wf_refuses_engine_2 : (Instr.chrCmdDone 2).wf = false := by decide
theorem test_wf_refuses_short_token : (Instr.token []).wf = false := by decide
theorem test_wf_refuses_read_of_257 : (Instr.dbgRead 0 0 257).wf = false := by decide
theorem test_wf_refuses_write_of_257 : (Instr.dbgWrite 0 0 (List.replicate 257 0)).wf = false := by
  decide +kernel
theorem test_wf_refuses_five_samples : (Instr.meterSample [0, 0, 0, 0, 0] 0).wf = false := by decide
theorem test_wf_refuses_short_nonce : (Instr.readSigned []).wf = false := by decide
theorem test_wf_refuses_update_of_257 : (Instr.updData 0 (List.replicate 257 0)).wf = false := by
  decide +kernel
theorem test_wf_refuses_function_17 : (Instr.flr 17).wf = false := by decide
theorem test_wf_refuses_mask_of_function_17 : (Instr.msixVectorUnmask 17 0).wf = false := by decide
theorem test_wf_refuses_empty_poll : (Instr.pmbusPoll []).wf = false := by decide
theorem test_wf_accepts_lane_67 : (Instr.laneLockLost 0 67).wf = true := by decide

/-! ## Worked examples of the spec -/

/-- The example at R25: the attach engine of W2.B1.S3 is page 0x0DC1. -/
theorem test_page_of_attach_engine : (Blk.att 23).page = 0x0DC1 := by decide
/-- The example at R25: lane W2.L3.N40 is page 0x0FB8. -/
theorem test_page_of_lane : (Blk.lane 11 40).page = 0x0FB8 := by decide
/-- The example at R26: PAGE_ID of the ATT page of W2.B1.S3. -/
theorem test_page_id : State.reset.pageId (.att 23) = 0x000000C190110465 := by decide +kernel
/-- The example at R8: the port group of lane W2.L3.N40 is group 2 of tile 23. -/
theorem test_page_index_is_read_back : State.reset.blk 0x0DC1 = some (.att 23) := by decide +kernel
/-- The example at R268: 1 + 2^-4 + 2^-20 rounds to 0x39 of E4M3. -/
theorem test_e4m3_direct : (e4m3.round How.rne (.fin false (2 ^ 20 + 2 ^ 16 + 1) (2 ^ 20))).1 = 0x39 := by decide +kernel
/-- The example at R268: to FP16 under RTO it is 0x3C41. -/
theorem test_fp16_rto : (fp16.round ⟨.rto, false, 0⟩ (.fin false (2 ^ 20 + 2 ^ 16 + 1) (2 ^ 20))).1 = 0x3C41 := by
  decide +kernel
/-- The example at R268: to FP16 under RNE it is 0x3C40, whose tie in E4M3 goes to 0x38. -/
theorem test_double_rounding :
    (fp16.round How.rne (.fin false (2 ^ 20 + 2 ^ 16 + 1) (2 ^ 20))).1 = 0x3C40 ∧
    (e4m3.round How.rne (fp16.decode 0x3C40)).1 = 0x38 := by decide +kernel
/-- The example at R258: the scale 0x2D and the nibbles 0x4, 0x7 and 0xD of 0.9, 2.4 and -1.2. -/
theorem test_fb4_block :
    let b := fb4Block ⟨0, 10, 0, false, 0, 2, 1, 4, 0, 0⟩ 0 false
      [(0, .fin false 9 10), (4, .fin false 24 10), (6, .fin true 12 10), (15, .fin false 24 1)] [15]
    b.scale = 0x2D ∧ b.codes = [4, 7, 0xD, 0] := by decide +kernel
/-- The example at R258: with c = 3/4 the scale is 0x2A, and 2.4 saturates to 6. -/
theorem test_fb4_clip :
    let b := fb4Block ⟨0, 10, 0, false, 2, 2, 1, 4, 0, 0⟩ 0 false
      [(0, .fin false 9 10), (4, .fin false 24 10), (15, .fin false 24 1)] [15]
    b.scale = 0x2A ∧ b.codes.getD 1 0 = 7 ∧ b.n = 1 := by decide +kernel
/-- The example at R203: the sums 3.25, -0.5 and 2^-140. -/
def xpeLine : List Xsum :=
  [⟨13 * 2 ^ 170, false, false, false, true, false⟩, ⟨2 ^ 320 - 2 ^ 171, false, false, false, true, false⟩,
    ⟨2 ^ 32, false, false, false, true, false⟩] ++ List.replicate 13 ⟨0, false, false, false, true, false⟩
/-- Its header words are 0x0004_FFFE and 256 leaves, and the block is 184 bytes. -/
theorem test_xpe_header :
    ofLeBytes ((xpeBlock true 256 xpeLine).take 8) = 0x4FFFE ∧
    ofLeBytes (slice 8 8 (xpeBlock true 256 xpeLine)) = 0x10000000000 ∧ (xpeBlock true 256 xpeLine).length = 184 := by
  decide +kernel
/-- Its first two windows, and the fifth byte of its escape. -/
theorem test_xpe_windows :
    ofLeBytes (slice 16 8 (xpeBlock true 256 xpeLine)) = 0xD ∧
    ofLeBytes (slice 24 8 (xpeBlock true 256 xpeLine)) = 0xFFFFFFFFFFFFFFFE ∧
    (xpeBlock true 256 xpeLine).getD 148 0 = 1 := by decide +kernel
/-- The example at R424: D0 measures 731,520 mJ. -/
theorem test_apportion_d0 :
    apportion 731520 ([0, 0, 0, 0, 0, 9600000000, 0, 0, 0, 3200000000] ++ List.replicate 7 0) =
      [0, 0, 0, 0, 0, 548640, 0, 0, 0, 182880, 0, 0, 0, 0, 0, 0, 0] := by decide +kernel
/-- The example at R424: D1 measures 130,003 mJ, and a millijoule is left to the operator. -/
theorem test_apportion_d1 :
    apportion 130003 ([0, 0, 0, 0, 0, 410000000, 0, 0, 0, 205000000] ++ List.replicate 7 0) =
      [0, 0, 0, 0, 0, 86668, 0, 0, 0, 43334, 0, 0, 0, 0, 0, 0, 1] := by decide +kernel
/-- The example at R241: partition 5 maps counter segment 2 to 0x4000 with length 0x200. -/
def mapped : State :=
  ((State.reset.pt .synXlate 0 242 synXlate_base 0x4000).pt .synXlate 0 242 synXlate_length 0x200).pt .synXlate 0 242
    synXlate_valid 1
theorem test_virtual_counter_resolves : mapped.xlate 5 0 0x2013 = some 0x4013 := by decide +kernel
theorem test_virtual_counter_beyond_segment : mapped.xlate 5 0 0x2200 = none := by decide +kernel
/-- The example at R286: an MM with tag 0x0102, cpl = 1, Y = 5, X = 3, W = 7 and two passes. -/
theorem test_mm_word : (⟨0x0000300501020304, 0x2007⟩ : Ins).family = 3 ∧ (⟨0x0000300501020304, 0x2007⟩ : Ins).tag = 0x102 ∧
    (⟨0x0000300501020304, 0x2007⟩ : Ins).cpl = true ∧ (⟨0x0000300501020304, 0x2007⟩ : Ins).goOn = false ∧
    (⟨0x0000300501020304, 0x2007⟩ : Ins).d0 = 5 ∧ (⟨0x0000300501020304, 0x2007⟩ : Ins).d1 = 3 := by decide +kernel

/-! ## Single commands -/

/-- The state that a step answers, itself where it answers none. -/
def after (i : Instr) (s : State) : State := match exec i s with | .next t => t | _ => s

/-- R24: enabling the attach engine of tile 0 alone leaves its page OFF, since its ancestors are not enabled. -/
theorem test_enable_waits_for_ancestors : (after (.ctrlEnable 0 0x511 1) State.reset).st (.att 0) = .off := by
  decide +kernel
/-- R39, R483: a denied write is recorded with DENIED and the offset written. -/
theorem test_denied_write_is_recorded :
    (State.reset.denyWrite 0x20 (.att 0) 0x18).g (.att 0) LAST_REFUSAL_code = Code.denied.val ∧
    (State.reset.denyWrite 0x20 (.att 0) 0x18).g (.att 0) LAST_REFUSAL_offset = 0x18 ∧
    (State.reset.denyWrite 0x20 (.att 0) 0x18).g (.att 0) LAST_REFUSAL_master = 0x20 := by decide +kernel
/-- R25: a read of an index that holds no page answers zero. -/
theorem test_read_of_no_page : (State.reset.regRead 0 0x3FFF 0x10).2.1 = 0 := by decide +kernel
/-- R20: the power cap reads 3,000 W after reset. -/
theorem test_power_cap_at_reset : State.reset.g .pwr PWR_CAP_watts = 3000 := by decide +kernel
/-- R227: CLEAR of a counter at 7 leaves 0 and advances its epoch. -/
theorem test_clear_of_a_counter :
    let t := after (.clear 0 9) ((State.reset.pt .synCnt 0 9 synCnt_value 7).pt .synCnt 0 9 synCnt_epoch 65535)
    t.t .synCnt 0 9 synCnt_value = 0 ∧ t.t .synCnt 0 9 synCnt_epoch = 0 := by decide +kernel
/-- R223: a signal of 3 with the right stamp adds 3. -/
theorem test_signal_adds : (after (.synSignal 0 (9 + 3 * 2 ^ 32)) State.reset).t .synCnt 0 9 synCnt_value = 3 := by
  decide +kernel
/-- R229: a signal with a stale stamp answers OWNER_LOST and adds nothing. -/
theorem test_stale_signal :
    (State.reset.signalPhys 9 1 3).1 = .ownerLost ∧ (State.reset.signalPhys 9 1 3).2.t .synCnt 0 9 synCnt_value = 0 ∧
    (State.reset.signalPhys 9 1 3).2.g .syn SYN_STALE_SIGNALS_count = 1 := by decide +kernel
/-- R232: FLAG_SET sets the flag. -/
theorem test_flag_set : (after (.flagSet 0 100) State.reset).tb .synFlag 0 100 synFlag_value = true := by decide +kernel
/-- R233: a write of a flag that the part keeps is refused. -/
theorem test_flag_of_the_part : (State.reset.flagWrite 0 5 0 true).1 = .denied := by decide +kernel
/-- R412: an acknowledgement clears the latch of a class, and a second event raised it one level first. -/
theorem test_ack_clears :
    let s := (State.reset.raise (.att 0) cCMD_REFUSED).p (.att 0) ERR_MASK_mask 0
    s.latched (.att 0) = 8 ∧ (s.raise (.att 0) cCMD_REFUSED).clsLevel (.att 0) 3 = 1 ∧
    (s.ackErr (.att 0) 8).latched (.att 0) = 0 := by decide +kernel
/-- R431: the loss of VMTR empties the ring of records. -/
theorem test_supply_loss : (after .vmtrLoss (after (.periodEnd false) State.reset)).ccn.ring = [] := by decide +kernel

/-! ## The hypotheses of the statements are met -/

/-- The state after reset with its boot done. -/
def upState : State := { State.reset with boot := { BootSt.reset with running := false } }

/-- A state with other pins. -/
def Sys2Proof.Machine.State.onPins (s : State) (p : Pins) : State := { s with pins := p }

/-- A state with other snapshots in progress. -/
def Sys2Proof.Machine.State.onSnaps (s : State) (l : List Snap) : State := { s with snaps := l }

/-- A state with a port at a stage of its bring-up. -/
def Sys2Proof.Machine.State.atStage (s : State) (port st : Nat) : State :=
  s.p (.grp (portGroup port)) (grpStage (port % 4)) st

/-- The pages that port 0 spans are enabled and run, and its clock is present. -/
def mayLane : State :=
  ([.dev, .wng 0, .bse 0, .swt 0, .grp 0].foldl (fun x b => (x.p b CTRL_enable 1).p b STATE_state 3) State.reset).p (.die 0)
    STATE_state 3 |>.p (.die 0) LNK_DIE_REFCLK_present 1

/-- Port 0, a TLink port of four lanes, ACTIVE, with a partner that declared every spare channel. -/
def upLane : State := ((mayLane.p (.grp 0) LNK_GRP_CFG_personality 1).atStage 0 5).php 0 H_PORT_spares 15

/-- The capabilities of a partner that agree with those of port 0. -/
def goodCaps : CapMsg := ⟨0, 1, 15, 0, 4, [16, 0, 255] ++ List.replicate 16 1 ++ List.replicate 29 0⟩

/-- A state with a link layer on a port. -/
def Sys2Proof.Machine.State.linked (s : State) (port : Nat) : State :=
  (s.atStage port 5).setLl port (Ll.start (List.replicate 8 64) 4096)

/-- A state with a switchover under way. -/
def Sys2Proof.Machine.State.onSw (s : State) (w : Switchover) : State := { s with sws := [w] }

/-- One copy of a frame of 60 bytes, queued on port 0 on VC 0. -/
def aCopy : Cp :=
  { cid := 1, fid := 1, port := 0, vc := 0, acct := none, itile := 0, etile := 0, mask := 1, att := false, mc := false
    tlink := false, bad := false, cut := false, place := .queue, bytes := List.replicate 60 0, segs := 2, sent := 2, got := 2
    slot := 0, hops := 0, seq := 0, age := 0, limit := 100, alts := [], res := 2, rewrite := none, dev := none, slot3 := 0 }

/-- A state whose switch holds some copies. -/
def Sys2Proof.Machine.State.onCps (s : State) (l : List Cp) : State := { s with swc := { s.swc with cps := l } }

/-- A state with spilled blocks. -/
def Sys2Proof.Machine.State.onBlocks (s : State) (l : List SpillBlock) : State := { s with swc := { s.swc with blocks := l } }

/-- A state with an evacuation under way. -/
def Sys2Proof.Machine.State.onEvac (s : State) (t : Option Nat) (d : Bool) (l : List Nat) : State :=
  { s with swc := { s.swc with evac := t, drained := d, evacWait := l } }

/-- A state whose port 0 is an ACTIVE Ethernet port. -/
def ethUp : State := mayLane.atStage 0 5

/-- The pool manager of base die 0 in service, its layout built. -/
def poolUp : State := (State.reset.p (.pool 0) STATE_state 3).poolInit 0

/-- The same with a buffer out, whose address the command's register holds. -/
def poolOut : State :=
  let r := poolUp.poolAlloc 0 256
  r.2.2.2.p (.pool 0) POOL_CMD_ADDR_addr r.2.1

/-- Context 0 of group 0, an ACTIVE attach port: its far end is context 9 of address 7, over one path, and a region grants
every right. -/
def ctxUp : State :=
  let s := upLane.p (.grp 0) LNK_GRP_CFG_personality 2
  let s := ((s.pctx 0 attCtx_remote_addr 7).pctx 0 attCtx_remote_ctx 9).pctx 0 attCtx_partition 0
  let s := (s.pt .attPath 0 0 attPath_weight 1).pt .attPath 0 0 attPath_eff_weight 1
  let s := ((s.pt .attRegion 0 0 attRegion_valid 1).pt .attRegion 0 0 attRegion_read 1).pt .attRegion 0 0 attRegion_write 1
  let s := ((s.pt .attRegion 0 0 attRegion_send 1).pt .attRegion 0 0 attRegion_atomic 1).pt .attRegion 0 0 attRegion_length 4096
  s.openCx 0

/-- A packet for context 0, PSN 0, with `n` payload bytes of a message as long. -/
def pktOf (op n : Nat) : List Byte :=
  mkPacket ([0, 7 * 4096 + 9, word2 op true true false, 0, 0, 0, n, 0, 0, 0, 0, n * 2 ^ 16, 0]) (List.replicate n 1)

/-- A packet of context 0 that waits to be sent. -/
def aPkt : TxP := ⟨none, 0, List.replicate 13 0, [], none, 0, 0, false, none⟩

/-- A state with a context beside its entry. -/
def Sys2Proof.Machine.State.onCx (s : State) (x : Cx) : State := s.setCx 0 x

/-- The words of a reduction context's descriptor: SUM of one element over one rank, a window of one line, engine 0. -/
def shapeBytes : List Byte :=
  ([1 * 2 ^ 7, 1 + 1 * 2 ^ 20 + 1 * 2 ^ 41, 1, 1, 0, 0, 0] ++ [0, 10, 0]).flatMap (leBytes 8)

/-- Context 1 may be admitted: its descriptor lies in host memory at 0, engine 0 is in service, and the rank's port is an
attach port. -/
def admitReady : State :=
  { (ctxUp.p (.vec 0) STATE_state 3).p (.rdx 0) RDX_CMD_ADDR_host 1 with host := memWrites [] 0 shapeBytes }

/-- Context 1 admitted. -/
def admitted : State := (admitReady.rdxAdmit 0x10 0 1).2

/-- A claim of rank 0 of context 1 for one element of line 0. -/
def aClaim : RClaim :=
  { rank := 0, port := 0, vc := 4, bytes := mkPacket [1, 0, word2 0x20 true true false, 0, 0, 0, 1, 0, 0, 0, 0, 0, 0] []
    deferred := false, flits := false, gang := none }

/-- A contribution of rank 0 of context 1: one element of line 0, in the format of its rank. -/
def contribPkt : List Byte :=
  mkPacket [1, 0, word2 0x20 true true false, 0, 0, 0, 1, 0, 0, 0, 0, 4 * 2 ^ 16, 0] [0, 0, 0, 0]

/-- Context 1 with one claim waiting. -/
def claimed : State := admitted.setRx 1 { admitted.rx 1 with claims := [aClaim] }

/-- A claim for line 5, beyond the window. -/
def farClaim : RClaim :=
  { aClaim with bytes := mkPacket [1, 0, word2 0x20 true true false, 0, 5, 0, 1, 0, 0, 0, 0, 0, 0] [] }

/-- Context 1 with that claim waiting. -/
def claimedAhead : State := admitted.setRx 1 { admitted.rx 1 with claims := [farClaim] }

/-- The same with rank 0 a REMOTE one. -/
def claimedFar : State :=
  claimed.setRx 1 { claimed.rx 1 with ranks := (claimed.rx 1).ranks.map fun r => { r with w0 := 1 } }

/-- The same with the claim deferred. -/
def claimedLate : State := admitted.setRx 1 { admitted.rx 1 with claims := [{ aClaim with deferred := true }] }

/-- Context 1 as one that sends partials to a parent at address 0. -/
def child : State := admitted.prc 1 rdxCtx_kind 1

/-- The parent's final result for element 0, and its window. -/
def parentPkt : List Byte :=
  mkPacket [1, 0, word2 0x21 true true false, 0, 0, 0, 1, 0, 0, 0, 0, 4 * 2 ^ 16, 0] [0, 0, 0, 0]
def windowPkt : List Byte := mkPacket [1, 0, word2 0x23 true true false, 0, 0, 0, 0, 0, 0, 0, 7, 0, 0] []

/-- Context 1 with a released line that waits for its epilogue, whose program is one HALT. -/
def programmed : State := admitted.setRx 1 { admitted.rx 1 with lines := [{ RLine.fresh 0 with released := true, epi := true }] }

/-- Context 1 with a packet in the queues of engine 0. -/
def queued : State := { admitted with engq := [⟨0, 31, 1, 0, 0, []⟩] }

/-- Slot 0 of the small collectives described: a barrier of one participant. -/
def scReady : State := (State.reset.pt .scSlot 0 0 scSlot_participants 1).pt .scPart 0 0 scPart_valid 1

/-- The same open, its sequence 0 begun. -/
def scUp : State := (scReady.pt .scSlot 0 0 scSlot_open 1).setSc ⟨0, true, false, [], []⟩

/-- A participant's packet for sequence 0 of slot 0. -/
def smallPkt : List Byte := mkPacket [0, 0, word2 0x24 true true false, 0, 0, 0, 0, 0, 0, 0, 0, 0, 0] []


/-- An operation in flight of list 0 of partition 0, of a family and variant. -/
def opOf (fam var : Nat) (w : GWait) (saved : Bool) : GOp :=
  { part := 0, list := 0, pc := 0, i0 := fam * 256 + var * 4096, i1 := 0, descs := [], arrays := [], pos := [], flags := 0
    sat := 0, coord := none, steps := 0, value := 0, code := .ok, wait := w, saved := saved }

/-- A state whose Gang holds some operations in flight. -/
def Sys2Proof.Machine.State.onOps (s : State) (l : List GOp) : State := { s with gang := { s.gang with ops := l } }

/-- List 0 of partition 0 runs, its partition enabled. -/
def runState : State := (State.reset.pgp 0 macPart_enabled 1).setLst 0 0 .running

/-- The same with a pause asked for. -/
def pausing : State := runState.setGl { GList.zero 0 0 with pausing := true }

/-- List 0 of partition 0 waits for room in its completion ring, and has it. -/
def ringRoom (l : List GOp) : State := (runState.setGl { GList.zero 0 0 with full := true }).onOps l

/-- List 0 of partition 0 runs, its product saved by a pause. -/
def savedState : State := runState.onOps [opOf 3 0 .run true]

/-- Power is good, DBGMSG is selected, and the debug level is `l`. -/
def probed (l : Nat) : State := ((State.reset.setPwrgd true).setTap .dbgmsg).p .chr CHR_DEBUG_level l

/-- Every slot A holds an image that verifies, and boot starts. -/
def bootable : State :=
  State.startBoot { (stewards.foldl (fun s b => s.p b H_SVN_valid_a 1) (State.reset.p .thx H_SVN_valid_a 1)) with
    mram := { State.reset.mram with cfgA := some ⟨[], [], [], []⟩ } }

/-- The meter's new image runs on trial. -/
def onTrial : State := State.reset.setCcn { CcnSt.reset with trial := true }

/-- The meter's log holds one entry. -/
def logged : State := State.reset.setCcn { CcnSt.reset with log := [[7]] }

/-- Ring 0 is enabled and holds one command, a NOP. -/
def ringed : State := (State.reset.prg 0 ring_enable 1).prg 0 ring_tail 1

/-- The words of a command: a write of PUPA to PWR_CMD that waits for its status. -/
def moveWords : List Nat := [2, Blk.pwr.page + PWR_CMD_op.off * 2 ^ 14, 1, 1 + PWR_CMD_STATUS_code.off * 2, 0, 0, 0, 0]

/-- Ring 0 is enabled and holds that command. -/
def ringMoves : State := { ringed with host := memWrites [] (hostAddr (ringed.ringOwner 0) 0) (moveWords.flatMap (leBytes 8)) }

/-- A state that waits in recovery mode for its Thorax image. -/
def recovering : State := (State.reset.setPwrgd true).enterRecovery 1 0

/-- A state whose Thorax serves the management port. -/
def serving : State := (State.reset.setPwrgd true).setDone 5

/-- A state whose ring 0 has its interrupt timer running, and one that holds an In-Band Interrupt. -/
def timed : State := { State.reset with hst := { HostSt.reset with coal := [0] } }
def held : State := { State.reset with hst := { HostSt.reset with ibiHeld := [1] } }

/-- MTR_UNSEAL is held low. -/
def sealed : State := { State.reset with pins := { State.reset.pins with mtrUnseal := false } }

/-- Watch 5, FREE, whose stamp is not its counter's epoch. -/
def armable : State := State.reset.pt .synWatch 0 5 synWatch_epoch 1
/-- The hypotheses of StepTakesFront are met. -/
theorem test_meets_StepTakesFront :
    ((State.reset.queue [.lockDone 0] : State).pending = (.lockDone 0 : Instr) :: ([] : List Instr)) ∧
    (State.reset.pending = []) := by
  decide +kernel

/-- The hypotheses of ResetIsCanonical are met. -/
theorem test_meets_ResetIsCanonical :
    (State.reset = State.reset) := by
  decide +kernel

theorem test_meets_StepKeepsCanonical : State.reset.Wf := ⟨rfl, rfl, rfl, rfl, rfl, rfl⟩

theorem test_meets_CommandsGoOn : State.reset.Wf := ⟨rfl, rfl, rfl, rfl, rfl, rfl⟩

/-- The hypotheses of ControlWritesAct are met. -/
theorem test_meets_ControlWritesAct :
    (.ctrlEvacuate 0 0x511 8 : Instr) ∈ [Instr.ctrlEnable (0 : Mst) (0x511 : Pg) (8 : Word), Instr.ctrlQuiesce (0 : Mst)
      (0x511 : Pg) (8 : Word), Instr.ctrlFreeze (0 : Mst) (0x511 : Pg) (8 : Word), Instr.ctrlEvacuate (0 : Mst)
      (0x511 : Pg) (8 : Word)] ∧ State.reset.opens (0 : Mst).toNat (0x511 : Pg).toNat 0x018 (.att 0 : Blk) ∧ (.att 0
      : Blk) ≠ .ccn ∧ (bits (8 : Word).toNat 4 1 = 0) ∧ (State.reset.ctrlBarred (.att 0 : Blk) (8 : Word).toNat =
      false) ∧ (State.reset.poolMisfit (.att 0 : Blk) (8 : Word).toNat = false) ∧
    State.reset.opens (0 : Mst).toNat (0x511 : Pg).toNat 0x018 (.att 0 : Blk) ∧ (.att 0 : Blk) ≠ .ccn ∧ (bits (16 :
      Word).toNat 4 1 = 1) := by
  decide +kernel

/-- The hypotheses of PageProgress are met. -/
theorem test_meets_PageProgress :
    (State.reset.blk (0x511 : Pg).toNat = some (.att 0 : Blk)) ∧ (.att 0 : Blk).trainsPlain ∧
    (((upTo 4).foldl (fun x i => x.atStage i 5) State.reset : State).blk (0x514 : Pg).toNat = some (.grp (0 : Nat))) ∧
      (((upTo 4).foldl (fun x i => x.atStage i 5) State.reset : State).groupTrained (0 : Nat)) ∧
    ((State.reset.p (.pool 0) STATE_state 1 : State).blk (0x502 : Pg).toNat = some (.pool (0 : Nat))) ∧ ((State.reset.p
      (.pool 0) STATE_state 1 : State).st (.pool (0 : Nat)) = .training) ∧
    ((State.reset.onPins ⟨true, true, false, true, true, true, true⟩ : State).blk (0x14 : Pg).toNat = some .pci) ∧
      ((State.reset.onPins ⟨true, true, false, true, true, true, true⟩ : State).pins.perstN = false) ∧
    (((State.reset.p .pci STATE_state 1).p .pci CTRL_enable 1 : State).blk (0x14 : Pg).toNat = some .pci) ∧
      ((State.reset.p .pci STATE_state 1).p .pci CTRL_enable 1 : State).pins.perstN ∧ (((((State.reset.p .pci
      STATE_state 1).p .pci CTRL_enable 1 : State).trained .pci).followAll .pci).st .pci = .inService) ∧
    (State.reset.blk (0x511 : Pg).toNat = some (.att 0 : Blk)) ∧
    ((State.reset.p (.att 0) CTRL_freeze 1 : State).blk (0x511 : Pg).toNat = some (.att 0 : Blk)) ∧ ((State.reset.p
      (.att 0) CTRL_freeze 1 : State).captureWith (.att 0 : Blk) = [(.att 0 : Blk)]) ∧ (State.reset.p (.att 0)
      CTRL_freeze 1 : State).effFreeze (.att 0 : Blk) ∧ ((State.reset.p (.att 0) CTRL_freeze 1 :
      State).capPages.contains (.att 0 : Blk).page = false) ∧ ((.att 0 : Blk).kids = []) ∧
    ((State.reset.p (.bse 0) CTRL_freeze 1 : State).blk (0x500 : Pg).toNat = some (.bse 0 : Blk)) ∧ ((State.reset.p
      (.bse 0) CTRL_freeze 1 : State).captureWith (.bse 0 : Blk) = [(.bse 0 : Blk)]) ∧ (State.reset.p (.bse 0)
      CTRL_freeze 1 : State).effFreeze (.bse 0 : Blk) ∧ ((State.reset.p (.bse 0) CTRL_freeze 1 :
      State).capPages.contains (.bse 0 : Blk).page = false) ∧ (.bse 0 : Blk).kids ≠ [] ∧
    (((State.reset.p (.swt 0) CTRL_freeze 1).p .xbarDev XBAR_MEMBERS_in_pattern 1 : State).blk (0x510 : Pg).toNat = some
      (.swt (0 : Nat)) ∨ ((State.reset.p (.swt 0) CTRL_freeze 1).p .xbarDev XBAR_MEMBERS_in_pattern 1 : State).blk
      (0x510 : Pg).toNat = some (.xbarT (0 : Nat))) ∧ ((State.reset.p (.swt 0) CTRL_freeze 1).p .xbarDev
      XBAR_MEMBERS_in_pattern 1 : State).members.contains (0 : Nat) ∧
    (((State.reset.p (.att 0) CTRL_freeze 1).capture (.att 0) : State).blk (0x511 : Pg).toNat = some (.att 0 : Blk)) ∧
      ((State.reset.p (.att 0) CTRL_freeze 1).capture (.att 0) : State).effFreeze (.att 0 : Blk) ∧ ((.att 0 :
      Blk).subtree.all (fun k => ((State.reset.p (.att 0) CTRL_freeze 1).capture (.att 0) : State).capPages.contains
      k.page)) := by
  decide +kernel

/-- The hypotheses of SnapshotRows are met. -/
theorem test_meets_SnapshotRows :
    State.reset.opens (0 : Mst).toNat (0x511 : Pg).toNat 0x048 (.att 0 : Blk) ∧ (bits (1 : Word).toNat 0 1 = 1) ∧
      (State.reset.gb (.att 0 : Blk) SNAP_SEQ_busy = false) ∧ (.att 0 : Blk) ≠ .mroot ∧
    ((State.reset.onSnaps [⟨0x511, 0, false, 4096, true, .aborted⟩] : State).blk (0x511 : Pg).toNat = some (.att 0 :
      Blk)) ∧ (((State.reset.onSnaps [⟨0x511, 0, false, 4096, true, .aborted⟩] : State).snaps.find? fun y => y.page
      == (.att 0 : Blk).page) = some (⟨0x511, 0, false, 4096, true, .aborted⟩ : Snap)) ∧ (⟨0x511, 0, false, 4096,
      true, .aborted⟩ : Snap).code ≠ .ok ∧
    (((State.reset.p (.att 0) STATE_frozen 1).onSnaps [⟨0x511, 0, false, 0, true, .ok⟩] : State).blk (0x511 : Pg).toNat
      = some (.att 0 : Blk)) ∧ ((((State.reset.p (.att 0) STATE_frozen 1).onSnaps [⟨0x511, 0, false, 0, true, .ok⟩]
      : State).snaps.find? fun y => y.page == (.att 0 : Blk).page) = some (⟨0x511, 0, false, 0, true, .ok⟩ : Snap))
      ∧ ((⟨0x511, 0, false, 0, true, .ok⟩ : Snap).code = .ok) ∧ ((State.reset.p (.att 0) STATE_frozen 1).onSnaps
      [⟨0x511, 0, false, 0, true, .ok⟩] : State).gb (.att 0 : Blk) STATE_frozen ∧ ((⟨0x511, 0, false, 0, true, .ok⟩
      : Snap).dest = 0) ∧
    (((State.reset.p (.att 0) STATE_frozen 1).onSnaps [⟨0x511, 0, false, 4096, true, .ok⟩] : State).blk (0x511 :
      Pg).toNat = some (.att 0 : Blk)) ∧ ((((State.reset.p (.att 0) STATE_frozen 1).onSnaps [⟨0x511, 0, false, 4096,
      true, .ok⟩] : State).snaps.find? fun y => y.page == (.att 0 : Blk).page) = some (⟨0x511, 0, false, 4096, true,
      .ok⟩ : Snap)) ∧ ((⟨0x511, 0, false, 4096, true, .ok⟩ : Snap).code = .ok) ∧ ((State.reset.p (.att 0)
      STATE_frozen 1).onSnaps [⟨0x511, 0, false, 4096, true, .ok⟩] : State).gb (.att 0 : Blk) STATE_frozen ∧
      (⟨0x511, 0, false, 4096, true, .ok⟩ : Snap).dest ≠ 0 := by
  decide +kernel

/-- The hypotheses of ErrorEventRows are met. -/
theorem test_meets_ErrorEventRows :
    State.reset.opens (0 : Mst).toNat (0x511 : Pg).toNat 0x030 (.att 0 : Blk) ∧ ((upTo 48).any (fun c => bit (1 :
      Word).toNat c && State.reset.forceHalts (.att 0 : Blk) c) = false ∨ State.reset.gb .fltDev
      FLT_CFG_allow_halt_force = true) ∧
    State.reset.opens (0 : Mst).toNat (0x511 : Pg).toNat 0x040 (.att 0 : Blk) ∧
    (State.reset.blk (0x511 : Pg).toNat = some (.att 0 : Blk)) ∧ ((.att 0 : Blk).cls (0 : BitVec 6).toNat = some
      (((Blk.att 0).cls 0).getD cCMD_REFUSED : Cls)) ∧ (State.reset.gb (.att 0 : Blk) STATE_unpowered = false) ∧
    State.reset.opens (0 : Mst).toNat (2 : Pg).toNat 0x108 (.fltDev : Blk) ∧ (.fltDev : Blk).collected ≠ (.fltDev : Blk)
      ∧ (bits (0x15 : Word).toNat 0 2 = 1) ∧
    (State.reset.blk (2 : Pg).toNat = some .fltDev) ∧
    (State.reset.blk (0x401 : Pg).toNat = some (.fltW (0 : Nat))) ∧
    (State.reset.blk (0x501 : Pg).toNat = some (.fltB (0 : Nat))) ∧
    (State.reset.blk (0x511 : Pg).toNat = some (.att 0 : Blk)) ∧ ((.att 0 : Blk).parent = some (.swt 0 : Blk)) := by
  decide +kernel

/-- The hypotheses of LostServiceTick are met. -/
theorem test_meets_LostServiceTick :
    (((upState.setReg .fltDev 0x138 5).p (.die 3) LNK_LOST_FAULT_lane_ms 6 : State).boot.running = false) ∧
      ((((upState.setReg .fltDev 0x138 5).p (.die 3) LNK_LOST_FAULT_lane_ms 6 : State).g .fltDev
      FLT_AVAIL_CFG_budget_lane_ms < ((upState.setReg .fltDev 0x138 5).p (.die 3) LNK_LOST_FAULT_lane_ms 6 :
      State).lostSum LNK_LOST_FAULT_lane_ms) ∨ ((((((upState.setReg .fltDev 0x138 5).p (.die 3)
      LNK_LOST_FAULT_lane_ms 6 : State).add (.die (0 : DieNo).toNat) LNK_LOST_FAULT_lane_ms (((upState.setReg
      .fltDev 0x138 5).p (.die 3) LNK_LOST_FAULT_lane_ms 6 : State).lostLanes (0 : DieNo).toNat true)).add (.die (0
      : DieNo).toNat) LNK_LOST_OTHER_lane_ms (((upState.setReg .fltDev 0x138 5).p (.die 3) LNK_LOST_FAULT_lane_ms 6
      : State).lostLanes (0 : DieNo).toNat false)).lostSum LNK_LOST_FAULT_lane_ms) ≤ ((upState.setReg .fltDev 0x138
      5).p (.die 3) LNK_LOST_FAULT_lane_ms 6 : State).g .fltDev FLT_AVAIL_CFG_budget_lane_ms)) := by
  decide +kernel

/-- The hypotheses of LinkConfigRows are met. -/
theorem test_meets_LinkConfigRows :
    (State.reset.blk (0x514 : Pg).toNat = some (.grp (0 : Nat))) ∧ State.reset.opens (0 : Mst).toNat (0x514 : Pg).toNat
      0x100 (.grp (0 : Nat)) ∧ (State.reset.grpCfgBarred (0 : Nat) (0xC : Word).toNat = false) ∧ (grpCfgBad (0 :
      Nat) (0xC : Word).toNat = false) ∧
    (.clrCounters 0 0x610 0x13 : Instr) ∈ [Instr.lanePower (0 : Mst) (0x610 : Pg) (0x13 : Word), Instr.laneCtrlRetrain
      (0 : Mst) (0x610 : Pg) (0x13 : Word), Instr.clrCounters (0 : Mst) (0x610 : Pg) (0x13 : Word)] ∧
      (State.reset.blk (0x610 : Pg).toNat = some (.lane (0 : Nat) (0 : Nat))) ∧ State.reset.opens (0 : Mst).toNat
      (0x610 : Pg).toNat 0x100 (.lane (0 : Nat) (0 : Nat)) ∧ (bit (0x13 : Word).toNat 5 = false) ∧ (bit (0x13 :
      Word).toNat 6 = false) ∧
    ((upLane : State).blk (0x610 : Pg).toNat = some (.lane (0 : Nat) (0 : Nat))) ∧ (upLane : State).opens (0 :
      Mst).toNat (0x610 : Pg).toNat 0x100 (.lane (0 : Nat) (0 : Nat)) ∧ bit (0x21 : Word).toNat 5 ∧ (bit (0x21 :
      Word).toNat 6 = false) ∧ (upLane : State).spareUsable (0 : Nat) (0 : Nat) ∧ ((upLane : State).laneWrite (0 :
      Nat) (0 : Nat) (0x21 : Word).toNat).spareUsable (0 : Nat) (0 : Nat) ∧
    ((upLane.p (.lane 0 0) LNK_LANE_STATUS_on_spare 1 : State).blk (0x610 : Pg).toNat = some (.lane (0 : Nat) (0 :
      Nat))) ∧ (upLane.p (.lane 0 0) LNK_LANE_STATUS_on_spare 1 : State).opens (0 : Mst).toNat (0x610 : Pg).toNat
      0x100 (.lane (0 : Nat) (0 : Nat)) ∧ (bit (0x41 : Word).toNat 5 = false) ∧ bit (0x41 : Word).toNat 6 ∧ (0 :
      Nat) < 64 ∧ (upLane.p (.lane 0 0) LNK_LANE_STATUS_on_spare 1 : State).gb (.lane (0 : Nat) (0 : Nat))
      LNK_LANE_STATUS_on_spare ∧ (upLane.p (.lane 0 0) LNK_LANE_STATUS_on_spare 1 : State).active ((upLane.p (.lane
      0 0) LNK_LANE_STATUS_on_spare 1 : State).lanePort (0 : Nat) (0 : Nat)) ∧
    (State.reset.blk (0x610 : Pg).toNat = some (.lane (0 : Nat) (0 : Nat))) ∧ State.reset.opens (0 : Mst).toNat (0x610 :
      Pg).toNat 0x128 (.lane (0 : Nat) (0 : Nat)) ∧ State.reset.prbsMay (0 : Nat) (0 : Nat) ∧ bits (0x38 :
      Word).toNat 0 4 ≤ 8 := by
  decide +kernel

/-- The hypotheses of BringUpRows are met. -/
theorem test_meets_BringUpRows :
    ((upLane.atStage 0 1 : State).stage (0 : PortNo).toNat = 1) ∧ (upLane.atStage 0 1 : State).portMay (0 :
      PortNo).toNat ∧ (upLane.atStage 0 1 : State).clocked (0 : PortNo).toNat ∧ (((upLane.atStage 0 1 : State).pers
      (portGroup (0 : PortNo).toNat) == .eth && (upLane.atStage 0 1 : State).gb (.grp (portGroup (0 :
      PortNo).toNat)) LNK_GRP_CFG_an_enable) = false) ∧
    (((mayLane.p (.grp 0) LNK_GRP_CFG_an_enable 1).atStage 0 1 : State).stage (0 : PortNo).toNat = 1) ∧ ((mayLane.p
      (.grp 0) LNK_GRP_CFG_an_enable 1).atStage 0 1 : State).portMay (0 : PortNo).toNat ∧ ((mayLane.p (.grp 0)
      LNK_GRP_CFG_an_enable 1).atStage 0 1 : State).clocked (0 : PortNo).toNat ∧ (((mayLane.p (.grp 0)
      LNK_GRP_CFG_an_enable 1).atStage 0 1 : State).pers (portGroup (0 : PortNo).toNat) = .eth) ∧ ((mayLane.p (.grp
      0) LNK_GRP_CFG_an_enable 1).atStage 0 1 : State).gb (.grp (portGroup (0 : PortNo).toNat))
      LNK_GRP_CFG_an_enable ∧ (((mayLane.p (.grp 0) LNK_GRP_CFG_an_enable 1).atStage 0 1 : State).phyOf (0 :
      PortNo).toNat (15 : BitVec 4).toNat = some (2 : Nat)) ∧
    ((State.reset.atStage 0 2 : State).stage (0 : PortNo).toNat = 2) ∧
    ((State.reset.atStage 0 2 : State).stage (0 : PortNo).toNat = 2) ∧
    ((State.reset.atStage 0 3 : State).stage (0 : PortNo).toNat = 3) ∧ ((((State.reset.atStage 0 3).portLanes 0).foldl
      (fun (u : State) l => u.alignXing (.lane (u.carrier l).1 (u.carrier l).2) 0) (State.reset.atStage 0 3) :
      State) = ((State.reset.atStage 0 3 : State).portLanes (0 : PortNo).toNat).foldl (fun (u : State) l =>
      u.alignXing (.lane (u.carrier l).1 (u.carrier l).2) 0) (State.reset.atStage 0 3 : State)) ∧
      ((((State.reset.atStage 0 3).portLanes 0).foldl (fun (u : State) l => u.alignXing (.lane (u.carrier l).1
      (u.carrier l).2) 0) (State.reset.atStage 0 3) : State).pers (portGroup (0 : PortNo).toNat) = .eth) ∧
    ((upLane.atStage 0 3 : State).stage (0 : PortNo).toNat = 3) ∧ ((((upLane.atStage 0 3).portLanes 0).foldl (fun (u :
      State) l => u.alignXing (.lane (u.carrier l).1 (u.carrier l).2) 0) (upLane.atStage 0 3) : State) =
      ((upLane.atStage 0 3 : State).portLanes (0 : PortNo).toNat).foldl (fun (u : State) l => u.alignXing (.lane
      (u.carrier l).1 (u.carrier l).2) 0) (upLane.atStage 0 3 : State)) ∧ ((((upLane.atStage 0 3).portLanes 0).foldl
      (fun (u : State) l => u.alignXing (.lane (u.carrier l).1 (u.carrier l).2) 0) (upLane.atStage 0 3) :
      State).pers (portGroup (0 : PortNo).toNat) ≠ .eth) ∧
    ((State.reset.atStage 0 3 : State).stage (0 : PortNo).toNat = 3) ∧
    (upLane.atStage 0 4 : State).pers (portGroup (0 : PortNo).toNat) ≠ .eth ∧ 4 ≤ (upLane.atStage 0 4 : State).stage (0
      : PortNo).toNat ∧ (((upLane.atStage 0 4).showPartner 0 goodCaps : State) = (upLane.atStage 0 4 :
      State).showPartner (0 : PortNo).toNat (goodCaps : CapMsg)) ∧ ((upLane.atStage 0 4).showPartner 0 goodCaps :
      State).stage (0 : PortNo).toNat ≠ 5 ∧ ((upLane.atStage 0 4).showPartner 0 goodCaps : State).capsMatch (0 :
      PortNo).toNat (goodCaps : CapMsg) ∧
    ((State.reset.atStage 0 4 : State).stage (0 : PortNo).toNat = 4) ∧ ((State.reset.atStage 0 4 : State).hp (0 :
      PortNo).toNat H_PORT_held = 0) ∧
    ((((State.reset.p (.grp 0) LNK_GRP_CFG_breakout 2).atStage 0 4).php 0 H_PORT_held 1 : State).groupPorts (0 :
      GroupNo).toNat = [(0 : Nat)]) ∧ (((((State.reset.p (.grp 0) LNK_GRP_CFG_breakout 2).atStage 0 4).php 0
      H_PORT_held 1 : State).php (0 : Nat) H_PORT_held 0).stage (0 : Nat) = 4) ∧ ((((State.reset.p (.grp 0)
      LNK_GRP_CFG_breakout 2).atStage 0 4).php 0 H_PORT_held 1 : State).hp (0 : Nat) H_PORT_held = 1) ∧
      ((((State.reset.p (.grp 0) LNK_GRP_CFG_breakout 2).atStage 0 4).php 0 H_PORT_held 1 : State).addrMatch (0 :
      GroupNo).toNat = false) ∧
    (State.reset.atStage 0 5 : State).stage (0 : PortNo).toNat ≠ 0 := by
  and_intros <;> decide +kernel

/-- The hypotheses of SparingRows are met. -/
theorem test_meets_SparingRows :
    (0 : LaneNo).toNat < 68 ∧ ((State.reset.atStage 0 4 : State).served (0 : DieNo).toNat (0 : LaneNo).toNat = some (0 :
      Nat)) ∧ ((0 : Nat) = (State.reset.atStage 0 4 : State).lanePort (0 : DieNo).toNat (0 : Nat)) ∧
      ((State.reset.atStage 0 4 : State).carrier ((0 : DieNo).toNat, (0 : Nat)) = ((0 : DieNo).toNat, (0 :
      LaneNo).toNat)) ∧ ((State.reset.atStage 0 4 : State).stage (0 : Nat) = 4) ∧
    (0 : LaneNo).toNat < 68 ∧ ((State.reset.atStage 0 5 : State).served (0 : DieNo).toNat (0 : LaneNo).toNat = some (0 :
      Nat)) ∧ ((0 : Nat) = (State.reset.atStage 0 5 : State).lanePort (0 : DieNo).toNat (0 : Nat)) ∧
      ((State.reset.atStage 0 5 : State).carrier ((0 : DieNo).toNat, (0 : Nat)) = ((0 : DieNo).toNat, (0 :
      LaneNo).toNat)) ∧ ((State.reset.atStage 0 5 : State).stage (0 : Nat) = 5) ∧ ((State.reset.atStage 0 5 :
      State).pers (portGroup (0 : Nat)) = .eth) ∧
    (0 : LaneNo).toNat < 68 ∧ ((upLane.php 0 H_PORT_lost 14 : State).served (0 : DieNo).toNat (0 : LaneNo).toNat = some
      (0 : Nat)) ∧ ((0 : Nat) = (upLane.php 0 H_PORT_lost 14 : State).lanePort (0 : DieNo).toNat (0 : Nat)) ∧
      ((upLane.php 0 H_PORT_lost 14 : State).carrier ((0 : DieNo).toNat, (0 : Nat)) = ((0 : DieNo).toNat, (0 :
      LaneNo).toNat)) ∧ ((upLane.php 0 H_PORT_lost 14 : State).stage (0 : Nat) = 5) ∧ (upLane.php 0 H_PORT_lost 14 :
      State).pers (portGroup (0 : Nat)) ≠ .eth ∧ ((upLane.php 0 H_PORT_lost 15 : State) = (upLane.php 0 H_PORT_lost
      14 : State).php (0 : Nat) H_PORT_lost (putBits ((upLane.php 0 H_PORT_lost 14 : State).hp (0 : Nat)
      H_PORT_lost) ((upLane.php 0 H_PORT_lost 14 : State).laneIdx (0 : DieNo).toNat (0 : Nat)) 1 1)) ∧ ((upLane.php
      0 H_PORT_lost 15 : State).workLanes (0 : Nat)).isEmpty ∧
    (0 : LaneNo).toNat < 68 ∧ ((upLane.p (.grp 0) LNK_GRP_CFG_spare_auto 1 : State).served (0 : DieNo).toNat (0 :
      LaneNo).toNat = some (0 : Nat)) ∧ ((0 : Nat) = (upLane.p (.grp 0) LNK_GRP_CFG_spare_auto 1 : State).lanePort
      (0 : DieNo).toNat (0 : Nat)) ∧ ((upLane.p (.grp 0) LNK_GRP_CFG_spare_auto 1 : State).carrier ((0 :
      DieNo).toNat, (0 : Nat)) = ((0 : DieNo).toNat, (0 : LaneNo).toNat)) ∧ ((upLane.p (.grp 0)
      LNK_GRP_CFG_spare_auto 1 : State).stage (0 : Nat) = 5) ∧ (upLane.p (.grp 0) LNK_GRP_CFG_spare_auto 1 :
      State).pers (portGroup (0 : Nat)) ≠ .eth ∧ (((upLane.p (.grp 0) LNK_GRP_CFG_spare_auto 1).php 0 H_PORT_lost 1
      : State) = (upLane.p (.grp 0) LNK_GRP_CFG_spare_auto 1 : State).php (0 : Nat) H_PORT_lost (putBits ((upLane.p
      (.grp 0) LNK_GRP_CFG_spare_auto 1 : State).hp (0 : Nat) H_PORT_lost) ((upLane.p (.grp 0)
      LNK_GRP_CFG_spare_auto 1 : State).laneIdx (0 : DieNo).toNat (0 : Nat)) 1 1)) ∧ ((((upLane.p (.grp 0)
      LNK_GRP_CFG_spare_auto 1).php 0 H_PORT_lost 1 : State).workLanes (0 : Nat)).isEmpty = false) ∧ (((((upLane.p
      (.grp 0) LNK_GRP_CFG_spare_auto 1).php 0 H_PORT_lost 1).showPort 0 5).showLane (0, 0) 3 : State) = (((upLane.p
      (.grp 0) LNK_GRP_CFG_spare_auto 1).php 0 H_PORT_lost 1 : State).showPort (0 : Nat) 5).showLane (((upLane.p
      (.grp 0) LNK_GRP_CFG_spare_auto 1).php 0 H_PORT_lost 1 : State).carrier ((0 : DieNo).toNat, (0 : Nat))) 3) ∧
      (((((upLane.p (.grp 0) LNK_GRP_CFG_spare_auto 1).php 0 H_PORT_lost 1).showPort 0 5).showLane (0, 0) 3 :
      State).sws.any (fun x => x.die == (0 : DieNo).toNat && x.lane == (0 : Nat)) = false) ∧ (0 : LaneNo).toNat < 64
      ∧ ((((upLane.p (.grp 0) LNK_GRP_CFG_spare_auto 1).php 0 H_PORT_lost 1).showPort 0 5).showLane (0, 0) 3 :
      State).spareUsable (0 : DieNo).toNat (0 : Nat) ∧ ((((upLane.p (.grp 0) LNK_GRP_CFG_spare_auto 1).php 0
      H_PORT_lost 1).showPort 0 5).showLane (0, 0) 3 : State).gb (.grp (laneGroup (0 : DieNo).toNat (0 : Nat)).1)
      LNK_GRP_CFG_spare_auto ∧
    (0 : LaneNo).toNat < 68 ∧ ((upLane.php 0 H_PORT_spares 0 : State).served (0 : DieNo).toNat (0 : LaneNo).toNat = some
      (0 : Nat)) ∧ ((0 : Nat) = (upLane.php 0 H_PORT_spares 0 : State).lanePort (0 : DieNo).toNat (0 : Nat)) ∧
      ((upLane.php 0 H_PORT_spares 0 : State).carrier ((0 : DieNo).toNat, (0 : Nat)) = ((0 : DieNo).toNat, (0 :
      LaneNo).toNat)) ∧ ((upLane.php 0 H_PORT_spares 0 : State).stage (0 : Nat) = 5) ∧ (upLane.php 0 H_PORT_spares 0
      : State).pers (portGroup (0 : Nat)) ≠ .eth ∧ (((upLane.php 0 H_PORT_spares 0).php 0 H_PORT_lost 1 : State) =
      (upLane.php 0 H_PORT_spares 0 : State).php (0 : Nat) H_PORT_lost (putBits ((upLane.php 0 H_PORT_spares 0 :
      State).hp (0 : Nat) H_PORT_lost) ((upLane.php 0 H_PORT_spares 0 : State).laneIdx (0 : DieNo).toNat (0 : Nat))
      1 1)) ∧ ((((upLane.php 0 H_PORT_spares 0).php 0 H_PORT_lost 1 : State).workLanes (0 : Nat)).isEmpty = false) ∧
      (((((upLane.php 0 H_PORT_spares 0).php 0 H_PORT_lost 1).showPort 0 5).showLane (0, 0) 3 : State) =
      (((upLane.php 0 H_PORT_spares 0).php 0 H_PORT_lost 1 : State).showPort (0 : Nat) 5).showLane (((upLane.php 0
      H_PORT_spares 0).php 0 H_PORT_lost 1 : State).carrier ((0 : DieNo).toNat, (0 : Nat))) 3) ∧ (((((upLane.php 0
      H_PORT_spares 0).php 0 H_PORT_lost 1).showPort 0 5).showLane (0, 0) 3 : State).sws.any (fun x => x.die == (0 :
      DieNo).toNat && x.lane == (0 : Nat)) = false) ∧ ((decide ((0 : LaneNo).toNat < 64) && ((((upLane.php 0
      H_PORT_spares 0).php 0 H_PORT_lost 1).showPort 0 5).showLane (0, 0) 3 : State).spareUsable (0 : DieNo).toNat
      (0 : Nat)) = false) ∧
    (67 : LaneNo).toNat < 68 ∧
    (((upLane : State).portLanes (0 : PortNo).toNat)[(0 : BitVec 3).toNat]? = some ((0 : Nat), (0 : Nat))) ∧ (upLane :
      State).active (0 : PortNo).toNat ∧ (upLane : State).pers (portGroup (0 : PortNo).toNat) ≠ .eth ∧ (spareOf (0 :
      Nat) = (0 : BitVec 2).toNat) ∧ ((upLane : State).sws.any (fun w => w.die == (0 : Nat)) = false) ∧ ((upLane :
      State).gb (.lane (0 : Nat) (0 : Nat)) LNK_LANE_STATUS_on_spare = false) ∧ (upLane : State).spareUsable (0 :
      Nat) (0 : Nat) ∧
    ((upLane.onSw ⟨0, 0, 0, 0, false, true, .training, 0⟩ : State).sw (0 : DieNo).toNat = some (⟨0, 0, 0, 0, false,
      true, .training, 0⟩ : Switchover)) ∧ ((⟨0, 0, 0, 0, false, true, .training, 0⟩ : Switchover).phase =
      .training) ∧ (⟨0, 0, 0, 0, false, true, .training, 0⟩ : Switchover).initiator ∧
    ((upLane.onSw ⟨0, 0, 0, 0, false, true, .training, 0⟩ : State).sw (0 : DieNo).toNat = some (⟨0, 0, 0, 0, false,
      true, .training, 0⟩ : Switchover)) ∧ ((⟨0, 0, 0, 0, false, true, .training, 0⟩ : Switchover).phase =
      .training) ∧
    ((upLane.onSw ⟨0, 0, 0, 0, false, false, .training, 0⟩ : State).swOf (0 : PortNo).toNat (0 : BitVec 3).toNat (0 :
      BitVec 2).toNat = some (⟨0, 0, 0, 0, false, false, .training, 0⟩ : Switchover)) ∧ ((⟨0, 0, 0, 0, false, false,
      .training, 0⟩ : Switchover).initiator = false) ∧
    ((upLane.onSw ⟨0, 0, 0, 0, false, true, .switching, 8⟩ : State).swOf (0 : PortNo).toNat (0 : BitVec 3).toNat (0 :
      BitVec 2).toNat = some (⟨0, 0, 0, 0, false, true, .switching, 8⟩ : Switchover)) ∧ (⟨0, 0, 0, 0, false, true,
      .switching, 8⟩ : Switchover).initiator ∧ ((⟨0, 0, 0, 0, false, true, .switching, 8⟩ : Switchover).phase =
      .switching) ∧ ((⟨0, 0, 0, 0, false, true, .switching, 8⟩ : Switchover).count = (8 : BitVec 32).toNat) ∧
    ((upLane.onSw ⟨0, 0, 0, 0, false, true, .acked, 4294967295⟩ : State).sw (0 : DieNo).toNat = some (⟨0, 0, 0, 0,
      false, true, .acked, 4294967295⟩ : Switchover)) ∧ ((⟨0, 0, 0, 0, false, true, .acked, 4294967295⟩ :
      Switchover).phase = .acked) ∧ (upLane.onSw ⟨0, 0, 0, 0, false, true, .acked, 4294967295⟩ : State).swPassed
      (⟨0, 0, 0, 0, false, true, .acked, 4294967295⟩ : Switchover) ∧
    (({ upLane with swWaits := [⟨0, 0, false⟩] } : State).sws.any (fun x => x.die == (0 : DieNo).toNat) = false) ∧
      (({ upLane with swWaits := [⟨0, 0, false⟩] } : State).nextSwWait (0 : DieNo).toNat = some (⟨0, 0, false⟩ :
      SwWait)) ∧ ((⟨0, 0, false⟩ : SwWait).revert = false) ∧
      (({ ({ upLane with swWaits := [⟨0, 0, false⟩] } : State) with swWaits := ({ upLane with swWaits := [⟨0, 0, false⟩] } : State).swWaits.erase (⟨0, 0, false⟩ : SwWait) }
      : State).spareUsable (0 : DieNo).toNat (⟨0, 0, false⟩ : SwWait).lane) := by
  and_intros <;> decide +kernel

/-- The hypotheses of CodewordAndFlitRows are met. -/
theorem test_meets_CodewordAndFlitRows :
    (0 : LaneNo).toNat < 68 ∧ ((upLane.atStage 0 4 : State).gb (.lane (0 : DieNo).toNat (0 : LaneNo).toNat)
      LNK_PRBS_CTRL_rx_check = false) ∧ ((upLane.atStage 0 4 : State).served (0 : DieNo).toNat (0 : LaneNo).toNat =
      some (0 : Nat)) ∧ ((0 : Nat) = (upLane.atStage 0 4 : State).lanePort (0 : DieNo).toNat (0 : Nat)) ∧
      ((upLane.atStage 0 4 : State).carrier ((0 : DieNo).toNat, (0 : Nat)) = ((0 : DieNo).toNat, (0 :
      LaneNo).toNat)) ∧ 4 ≤ (upLane.atStage 0 4 : State).stage (0 : Nat) ∧ (if (upLane.atStage 0 4 : State).active
      (0 : Nat) then (upLane.atStage 0 4 : State).adaptRx ((0 : DieNo).toNat, (0 : LaneNo).toNat) else
      (upLane.atStage 0 4 : State)).pers (portGroup (0 : Nat)) ≠ .eth ∧
    (0 : LaneNo).toNat < 68 ∧ ((mayLane.atStage 0 4 : State).gb (.lane (0 : DieNo).toNat (0 : LaneNo).toNat)
      LNK_PRBS_CTRL_rx_check = false) ∧ ((mayLane.atStage 0 4 : State).served (0 : DieNo).toNat (0 : LaneNo).toNat =
      some (0 : Nat)) ∧ ((0 : Nat) = (mayLane.atStage 0 4 : State).lanePort (0 : DieNo).toNat (0 : Nat)) ∧
      ((mayLane.atStage 0 4 : State).carrier ((0 : DieNo).toNat, (0 : Nat)) = ((0 : DieNo).toNat, (0 :
      LaneNo).toNat)) ∧ 4 ≤ (mayLane.atStage 0 4 : State).stage (0 : Nat) ∧ ((if (mayLane.atStage 0 4 :
      State).active (0 : Nat) then (mayLane.atStage 0 4 : State).adaptRx ((0 : DieNo).toNat, (0 : LaneNo).toNat)
      else (mayLane.atStage 0 4 : State)).pers (portGroup (0 : Nat)) = .eth) ∧
    (0 : LaneNo).toNat < 68 ∧ (State.reset.p (.lane 0 0) LNK_PRBS_CTRL_rx_check 1 : State).gb (.lane (0 : DieNo).toNat
      (0 : LaneNo).toNat) LNK_PRBS_CTRL_rx_check ∧
    (0 : LaneNo).toNat < 68 ∧ (State.reset.p (.lane 0 0) LNK_PRBS_CTRL_tx_en 1 : State).gb (.lane (0 : DieNo).toNat (0 :
      LaneNo).toNat) LNK_PRBS_CTRL_tx_en ∧
    (0 : LaneNo).toNat < 68 ∧ (((upLane.linked 0).p (.lane 0 0) H_LANE_pos 19 : State).gb (.lane (0 : DieNo).toNat (0 :
      LaneNo).toNat) LNK_PRBS_CTRL_tx_en = false) ∧ (((upLane.linked 0).p (.lane 0 0) H_LANE_pos 19 : State).served
      (0 : DieNo).toNat (0 : LaneNo).toNat = some (0 : Nat)) ∧ ((0 : Nat) = ((upLane.linked 0).p (.lane 0 0)
      H_LANE_pos 19 : State).lanePort (0 : DieNo).toNat (0 : Nat)) ∧ (((upLane.linked 0).p (.lane 0 0) H_LANE_pos 19
      : State).carrier ((0 : DieNo).toNat, (0 : Nat)) = ((0 : DieNo).toNat, (0 : LaneNo).toNat)) ∧ 3 ≤
      ((upLane.linked 0).p (.lane 0 0) H_LANE_pos 19 : State).stage (0 : Nat) ∧ ((((upLane.linked 0).p (.lane 0 0)
      H_LANE_pos 19 : State).active (0 : Nat) && bit (((upLane.linked 0).p (.lane 0 0) H_LANE_pos 19 : State).hp (0
      : Nat) H_PORT_lost) (((upLane.linked 0).p (.lane 0 0) H_LANE_pos 19 : State).laneIdx (0 : DieNo).toNat (0 :
      Nat))) = false) ∧ ((upLane.linked 0).p (.lane 0 0) H_LANE_pos 19 : State).pers (portGroup (0 : Nat)) ≠ .eth ∧
      (((upLane.linked 0).p (.lane 0 0) H_LANE_pos 19 : State).g (.lane (0 : DieNo).toNat (0 : LaneNo).toNat)
      H_LANE_pos = 19) ∧
    (0 : LaneNo).toNat < 68 ∧ ((upLane.linked 0 : State).gb (.lane (0 : DieNo).toNat (0 : LaneNo).toNat)
      LNK_PRBS_CTRL_tx_en = false) ∧ ((upLane.linked 0 : State).served (0 : DieNo).toNat (0 : LaneNo).toNat = some
      (0 : Nat)) ∧ ((0 : Nat) = (upLane.linked 0 : State).lanePort (0 : DieNo).toNat (0 : Nat)) ∧ ((upLane.linked 0
      : State).carrier ((0 : DieNo).toNat, (0 : Nat)) = ((0 : DieNo).toNat, (0 : LaneNo).toNat)) ∧ 3 ≤
      (upLane.linked 0 : State).stage (0 : Nat) ∧ (((upLane.linked 0 : State).active (0 : Nat) && bit
      ((upLane.linked 0 : State).hp (0 : Nat) H_PORT_lost) ((upLane.linked 0 : State).laneIdx (0 : DieNo).toNat (0 :
      Nat))) = false) ∧ (upLane.linked 0 : State).pers (portGroup (0 : Nat)) ≠ .eth ∧ (upLane.linked 0 : State).g
      (.lane (0 : DieNo).toNat (0 : LaneNo).toNat) H_LANE_pos ≠ 19 ∧
    (upLane.linked 0 : State).active (0 : PortNo).toNat ∧ (((upLane.linked 0 : State).rxFlit (0 : PortNo).toNat (fit 64
      (⟨[]⟩ : Flit).bytes)).1 = false) ∧
    (upLane.linked 0 : State).active (0 : PortNo).toNat ∧ ((upLane.linked 0 : State).rxFlit (0 : PortNo).toNat (fit 64
      (⟨mkFlit 7 0 0 56 []⟩ : Flit).bytes)).1 ∧
    (upLane.linked 0 : State).active (0 : PortNo).toNat ∧
    (upLane.linked 0 : State).active (0 : PortNo).toNat ∧
    ((upLane.setLl 0 { Ll.start (List.replicate 8 64) 4096 with dropping := true } : State).ll (0 : PortNo).toNat = some
      ({ Ll.start (List.replicate 8 64) 4096 with dropping := true } : Ll)) ∧
      (({ Ll.start (List.replicate 8 64) 4096 with dropping := true } : Ll).dropping) ∧ ((upLane.setLl 0
      { Ll.start (List.replicate 8 64) 4096 with dropping := true } : State).active (0 : PortNo).toNat) ∧
    (upLane.linked 0 : State).active (0 : PortNo).toNat := by
  and_intros <;> decide +kernel

/-- The hypotheses of IngressAndEgressRows are met. -/
theorem test_meets_IngressAndEgressRows :
    (ethUp : State).portExists (0 : PortNo).toNat ∧ (ethUp : State).active (0 : PortNo).toNat ∧ (ethUp : State).isEth (0
      : PortNo).toNat ∧ (parseEth (⟨0, List.replicate 64 0⟩ : Frame).bytes).ety ≠ 0x8808 ∧ ((ethUp :
      State).ingressShut (0 : PortNo).toNat = false) ∧
    (ethUp : State).portExists (0 : PortNo).toNat ∧ (ethUp : State).active (0 : PortNo).toNat ∧ (ethUp : State).isEth (0
      : PortNo).toNat ∧ ((parseEth (⟨0, List.replicate 12 0 ++ [0x88, 0x08] ++ List.replicate 50 0⟩ :
      Frame).bytes).ety = 0x8808) ∧
    (upLane : State).portExists (0 : PortNo).toNat ∧ (upLane : State).active (0 : PortNo).toNat ∧ ((upLane :
      State).isEth (0 : PortNo).toNat = false) ∧ ((upLane : State).ingressShut (0 : PortNo).toNat = false) ∧
    (((ethUp.onCps [{ aCopy with place := .input, acct := some (acctOf 0 0 0) }] : State).swc.cps.find? fun x => x.place
      == .input && x.acct == some (acctOf (portTile (0 : PortNo).toNat) (localPort (0 : PortNo).toNat) (0 : BitVec
      3).toNat)) = some ({ aCopy with place := .input, acct := some (acctOf 0 0 0) } : Cp)) ∧
      (({ aCopy with place := .input, acct := some (acctOf 0 0 0) } : Cp).tlink = false) ∧ ((ethUp.onCps
      [{ aCopy with place := .input, acct := some (acctOf 0 0 0) }] : State).ingressShut (0 : PortNo).toNat = false)
      ∧ (((ethUp.onCps [{ aCopy with place := .input, acct := some (acctOf 0 0 0) }]).dropDown 0 [] : State) =
      (ethUp.onCps [{ aCopy with place := .input, acct := some (acctOf 0 0 0) }] : State).dropDown (portTile (0 :
      PortNo).toNat) ((ethUp.onCps [{ aCopy with place := .input, acct := some (acctOf 0 0 0) }] :
      State).swc.cps.filter fun x => x.fid == ({ aCopy with place := .input, acct := some (acctOf 0 0 0) } : Cp).fid
      && (ethUp.onCps [{ aCopy with place := .input, acct := some (acctOf 0 0 0) }] : State).leaving x.etile)) ∧
      (((ethUp.onCps [{ aCopy with place := .input, acct := some (acctOf 0 0 0) }]).dropDown 0 [] :
      State).swc.cps.any (·.fid == ({ aCopy with place := .input, acct := some (acctOf 0 0 0) } : Cp).fid)) ∧
    (((ethUp.onCps [{ aCopy with place := .input, tlink := true, acct := some (acctOf 0 0 0) }] : State).swc.cps.find?
      fun x => x.place == .input && x.acct == some (acctOf (portTile (0 : PortNo).toNat) (localPort (0 :
      PortNo).toNat) (0 : BitVec 3).toNat)) = some
      ({ aCopy with place := .input, tlink := true, acct := some (acctOf 0 0 0) } : Cp)) ∧
      (({ aCopy with place := .input, tlink := true, acct := some (acctOf 0 0 0) } : Cp).tlink) ∧ ((ethUp.onCps
      [{ aCopy with place := .input, tlink := true, acct := some (acctOf 0 0 0) }] : State).ingressShut (0 :
      PortNo).toNat = false) ∧ (((ethUp.onCps
      [{ aCopy with place := .input, tlink := true, acct := some (acctOf 0 0 0) }]).dropDown 0 [] : State) =
      (ethUp.onCps [{ aCopy with place := .input, tlink := true, acct := some (acctOf 0 0 0) }] : State).dropDown
      (portTile (0 : PortNo).toNat) ((ethUp.onCps
      [{ aCopy with place := .input, tlink := true, acct := some (acctOf 0 0 0) }] : State).swc.cps.filter fun x =>
      x.fid == ({ aCopy with place := .input, tlink := true, acct := some (acctOf 0 0 0) } : Cp).fid && (ethUp.onCps
      [{ aCopy with place := .input, tlink := true, acct := some (acctOf 0 0 0) }] : State).leaving x.etile)) ∧
      (((ethUp.onCps [{ aCopy with place := .input, tlink := true, acct := some (acctOf 0 0 0) }]).dropDown 0 [] :
      State).swc.cps.any (·.fid == ({ aCopy with place := .input, tlink := true, acct := some (acctOf 0 0 0) } :
      Cp).fid)) ∧ (((((ethUp.onCps
      [{ aCopy with place := .input, tlink := true, acct := some (acctOf 0 0 0) }]).dropDown 0 [] :
      State).admitRetry (acctOf (portTile (0 : PortNo).toNat) (localPort (0 : PortNo).toNat) (0 : BitVec
      3).toNat)).swc.cps.any fun x => x.fid ==
      ({ aCopy with place := .input, tlink := true, acct := some (acctOf 0 0 0) } : Cp).fid && x.place == .input) =
      false) ∧
    (ethUp : State).isEth (0 : PortNo).toNat ∧
    ((ethUp.onCps [aCopy] : State) = (ethUp.onCps [aCopy] : State).underrun (0 : PortNo).toNat) ∧ (ethUp.onCps [aCopy] :
      State).active (0 : PortNo).toNat ∧ (upTo 8).any ((ethUp.onCps [aCopy] : State).eligible (0 : PortNo).toNat) ∧
      (((ethUp.onCps [aCopy] : State).nextQ (0 : PortNo).toNat 65536 ((ethUp.onCps [aCopy] : State).drrOf (0 :
      PortNo).toNat)).1 = some (0 : Nat)) ∧ (((ethUp.onCps [aCopy] : State).setDrr (0 : PortNo).toNat ((ethUp.onCps
      [aCopy] : State).nextQ (0 : PortNo).toNat 65536 ((ethUp.onCps [aCopy] : State).drrOf (0 :
      PortNo).toNat)).2).headOf (0 : PortNo).toNat (0 : Nat) = some (aCopy : Cp)) := by
  decide +kernel

/-- The hypotheses of PatternRows are met. -/
theorem test_meets_PatternRows :
    1 < (State.reset.p .xbarDev XBAR_L3_CFG_devices 2 : State).devices ∧ ((State.reset.p .xbarDev XBAR_L3_CFG_devices 2
      : State) = (⟨0, []⟩ : L3In).cells.foldl (fun (z : State) x => z.take3 (State.reset.p .xbarDev
      XBAR_L3_CFG_devices 2 : State).selfDev (⟨0, []⟩ : L3In).tile.toNat x) (State.reset.p .xbarDev
      XBAR_L3_CFG_devices 2 : State)) ∧ ((State.reset.p .xbarDev XBAR_L3_CFG_devices 2 : State) = ((State.reset.p
      .xbarDev XBAR_L3_CFG_devices 2 : State).bundles (⟨0, []⟩ : L3In).tile.toNat).foldl (fun (z : State) b =>
      z.sendBundle (⟨0, []⟩ : L3In).tile.toNat (((State.reset.p .xbarDev XBAR_L3_CFG_devices 2 : State).g .xbarDev
      H_XBAR3_k3 + 1) % 2 ^ 64) b) (State.reset.p .xbarDev XBAR_L3_CFG_devices 2 : State)) ∧
    2 ^ (State.reset.p .xbarDev H_XBAR2_lag (2 ^ 31) : State).g .xbarDev XBAR_CFG_lag_window ≤ (State.reset.p .xbarDev
      H_XBAR2_lag (2 ^ 31) : State).g .xbarDev H_XBAR2_lag ∧
    (((State.reset.joinPattern 31).onEvac none false [31] : State).swc.evac = none) ∧ (((State.reset.joinPattern
      31).onEvac none false [31] : State).swc.evacWait = (31 : Nat) :: ([] : List Nat)) ∧ (((State.reset.joinPattern
      31).onEvac none false [31] : State).setEvacWait ([] : List Nat)).members.contains (31 : Nat) ∧
    ((State.reset.onEvac (some 31) false [] : State).swc.evac = some (31 : TileNo).toNat) ∧ ((true : Bool) = true) ∧
    ((State.reset.onEvac (some 31) false [] : State).swc.evac = some (31 : TileNo).toNat) ∧ ((false : Bool) = false) ∧
      ((State.reset.onEvac (some 31) false [] : State).evacLeft (31 : TileNo).toNat = []) ∧
    ((State.reset.onEvac (some 31) true [] : State).swc.evac = some (31 : Nat)) ∧ (State.reset.onEvac (some 31) true []
      : State).swc.drained ∧ (State.reset.onEvac (some 31) true [] : State).cycleStart ((State.reset.onEvac (some
      31) true [] : State).level1 (31 : Nat)).length ∧
    ((mayLane : State).st (.swt (0 : TileNo).toNat) = .inService) ∧ ((mayLane : State).members.contains (0 :
      TileNo).toNat = false) ∧ (mayLane : State).cycleStart (((mayLane : State).level1 (0 : TileNo).toNat).length +
      1) ∧
    State.reset.mcOk (⟨0, 0, 0, true, 9, 6⟩ : MeshHead) ∧ (([2] : List Nat) = (headBranches (⟨0, 0, 0, true, 9, 6⟩ :
      MeshHead)).filter (· != 0)) ∧ (([2] : List Nat).all (fun o => State.reset.meshRoom (⟨0, 0, 0, true, 9, 6⟩ :
      MeshHead) (headCopy (⟨0, 0, 0, true, 9, 6⟩ : MeshHead) o))) ∧
    (State.reset.setHeld [⟨1, 0, 1, true, 9, 6⟩] : State).mcOk (⟨0, 0, 0, true, 9, 6⟩ : MeshHead) ∧ (((headBranches (⟨0,
      0, 0, true, 9, 6⟩ : MeshHead)).filter (· != 0)).all (fun o => (State.reset.setHeld [⟨1, 0, 1, true, 9, 6⟩] :
      State).meshRoom (⟨0, 0, 0, true, 9, 6⟩ : MeshHead) (headCopy (⟨0, 0, 0, true, 9, 6⟩ : MeshHead) o)) = false) ∧
      ((State.reset.setHeld [⟨1, 0, 1, true, 9, 6⟩] : State).mesh.held.contains (⟨0, 0, 0, true, 9, 6⟩ : MeshHead) =
      false) := by
  decide +kernel

/-- The hypotheses of TableCommandRows are met. -/
theorem test_meets_TableCommandRows :
    ((.tblCmdRead 0 0 1 : Instr), (1 : Nat)) ∈ [(Instr.tblCmdRead (0 : Mst) (0 : TileNo) (1 : Word), 1),
      (Instr.tblCmdDelete (0 : Mst) (0 : TileNo) (1 : Word), 4), (Instr.tblCmdFind (0 : Mst) (0 : TileNo) (1 :
      Word), 5)] ∧ (bits (1 : Word).toNat 0 3 = (1 : Nat)) ∧ State.reset.opens (0 : Mst).toNat (Blk.swt (0 :
      TileNo).toNat).page 0x108 (.swt 0 : Blk) ∧ (State.reset.gb (.swt 0 : Blk) SWT_TBL_STATUS_busy = false) ∧
      (((.ok, some 0, State.reset) : TblAns) = State.reset.tblAct (0 : TileNo).toNat (1 : Nat) (State.reset.g (.swt
      0 : Blk) SWT_TBL_SEL_table) (State.reset.g (.swt 0 : Blk) SWT_TBL_SEL_index)) ∧ (((.ok, some 0, State.reset) :
      TblAns).1 = .ok) ∧
    ((.tblCmdInsert 0 0 3 : Instr), (3 : Nat)) ∈ [(Instr.tblCmdWrite (0 : Mst) (0 : TileNo) (3 : Word), 2),
      (Instr.tblCmdInsert (0 : Mst) (0 : TileNo) (3 : Word), 3)] ∧ (bits (3 : Word).toNat 0 3 = (3 : Nat)) ∧
      State.reset.opens (0 : Mst).toNat (Blk.swt (0 : TileNo).toNat).page 0x108 (.swt 0 : Blk) ∧ (State.reset.gb
      (.swt 0 : Blk) SWT_TBL_STATUS_busy = false) ∧ ((State.reset.tblAct 0 3 0 0 : TblAns) = State.reset.tblAct (0 :
      TileNo).toNat (3 : Nat) (State.reset.g (.swt 0 : Blk) SWT_TBL_SEL_table) (State.reset.g (.swt 0 : Blk)
      SWT_TBL_SEL_index)) ∧ ((State.reset.tblAct 0 3 0 0 : TblAns).1 = .ok) ∧
    ((State.reset.addJob ⟨.swtTable, 0x510, 0x110, .ok, 5, 7, 0⟩ : State).job .swtTable (Blk.swt (0 :
      TileNo).toNat).page 0x110 = some (⟨.swtTable, 0x510, 0x110, .ok, 5, 7, 0⟩ : Job)) ∧ ((State.reset.toStage 0 0
      7 : State) = (if (⟨.swtTable, 0x510, 0x110, .ok, 5, 7, 0⟩ : Job).code = .ok ∧ ((⟨.swtTable, 0x510, 0x110, .ok,
      5, 7, 0⟩ : Job).a % 8 = 1 ∨ (⟨.swtTable, 0x510, 0x110, .ok, 5, 7, 0⟩ : Job).a % 8 = 5) then
      ((State.reset.addJob ⟨.swtTable, 0x510, 0x110, .ok, 5, 7, 0⟩ : State).dropJob .swtTable (Blk.swt (0 :
      TileNo).toNat).page 0x110).toStage (0 : TileNo).toNat ((⟨.swtTable, 0x510, 0x110, .ok, 5, 7, 0⟩ : Job).a / 8)
      (⟨.swtTable, 0x510, 0x110, .ok, 5, 7, 0⟩ : Job).b else (State.reset.addJob ⟨.swtTable, 0x510, 0x110, .ok, 5,
      7, 0⟩ : State).dropJob .swtTable (Blk.swt (0 : TileNo).toNat).page 0x110)) := by
  decide +kernel

/-- The hypotheses of ClassRows are met. -/
theorem test_meets_ClassRows :
    ((State.reset.p (.swt 0) SWT_CLS_SEL_table 2 : State).blk (0x510 : Pg).toNat = some (.swt (0 : Nat))) ∧ ((.swt 0 :
      Blk) = .swt (0 : Nat)) ∧ (State.reset.p (.swt 0) SWT_CLS_SEL_table 2 : State).opens (0 : Mst).toNat (0x510 :
      Pg).toNat 0x208 (.swt 0 : Blk) ∧ ((2 : Nat) = (State.reset.p (.swt 0) SWT_CLS_SEL_table 2 : State).g (.swt 0 :
      Blk) SWT_CLS_SEL_table) ∧ ((0 : Nat) = (State.reset.p (.swt 0) SWT_CLS_SEL_table 2 : State).g (.swt 0 : Blk)
      SWT_CLS_SEL_index) ∧ ((0 : Nat) = (State.reset.p (.swt 0) SWT_CLS_SEL_table 2 : State).g (.swt 0 : Blk)
      SWT_CLS_SEL_word) ∧ ((2 : Nat) = 1 ∨ (2 : Nat) = 2) ∧ (0 : Nat) < clsCount (2 : Nat) ∧ tblOk (clsTbl (2 :
      Nat)) (0 : Nat) (0 : Word).toNat ∧ (((State.reset.p (.swt 0) SWT_CLS_SEL_table 2 : State).storeTw (clsTbl (2 :
      Nat)) (0 : Nat) (0 : Nat) (0 : Nat) (0 : Word).toNat).clsBroken (0 : Nat) (2 : Nat) (0 : Nat) [] = false) ∧
    ((State.reset.p (.swt 0) SWT_CLS_SEL_index 31 : State).blk (0x510 : Pg).toNat = some (.swt (0 : Nat))) ∧ ((.swt 0 :
      Blk) = .swt (0 : Nat)) ∧ (State.reset.p (.swt 0) SWT_CLS_SEL_index 31 : State).opens (0 : Mst).toNat (0x510 :
      Pg).toNat 0x208 (.swt 0 : Blk) ∧ ((State.reset.p (.swt 0) SWT_CLS_SEL_index 31 : State).g (.swt 0 : Blk)
      SWT_CLS_SEL_table = 0) ∧ ((State.reset.p (.swt 0) SWT_CLS_SEL_index 31 : State).g (.swt 0 : Blk)
      SWT_CLS_SEL_word = 0) ∧ ((31 : Nat) = (State.reset.p (.swt 0) SWT_CLS_SEL_index 31 : State).g (.swt 0 : Blk)
      SWT_CLS_SEL_index) ∧ (31 : Nat) < 32 ∧ ((State.reset.p (.swt 0) SWT_CLS_SEL_index 31 : State).pfcBarred
      (tilePort (0 : Nat) (31 : Nat)) (newPfc ((State.reset.p (.swt 0) SWT_CLS_SEL_index 31 : State).tw .clsPort (0
      : Nat) (31 : Nat) 0) (((State.reset.p (.swt 0) SWT_CLS_SEL_index 31 : State).storeTw .clsPort (0 : Nat) (31 :
      Nat) 0 (0 : Word).toNat).tw .clsPort (0 : Nat) (31 : Nat) 0)) = false) ∧ tblOk .clsPort 0 (0 : Word).toNat ∧
      (((State.reset.p (.swt 0) SWT_CLS_SEL_index 31 : State).storeTw .clsPort (0 : Nat) (31 : Nat) 0 (0 :
      Word).toNat).clsBroken (0 : Nat) 0 (31 : Nat) (newPfc ((State.reset.p (.swt 0) SWT_CLS_SEL_index 31 :
      State).tw .clsPort (0 : Nat) (31 : Nat) 0) (((State.reset.p (.swt 0) SWT_CLS_SEL_index 31 : State).storeTw
      .clsPort (0 : Nat) (31 : Nat) 0 (0 : Word).toNat).tw .clsPort (0 : Nat) (31 : Nat) 0)) = false) ∧
    (State.reset.blk (0x500 : Pg).toNat = some (.bse (0 : Nat))) ∧ State.reset.opens (0 : Mst).toNat (0x500 : Pg).toNat
      0x120 (.bse (0 : Nat)) ∧ State.reset.g (.bse (0 : Nat)) BSE_TBL_SEL_table < 2 ∧ (tblOk (limTbl (State.reset.g
      (.bse (0 : Nat)) BSE_TBL_SEL_table == 1)) 0 (BitVec.ofNat 64 (State.reset.tw (limTbl false) 0 0 0) :
      Word).toNat) ∧
    (ethUp : State).portExists (0 : PortNo).toNat ∧ (ethUp : State).active (0 : PortNo).toNat ∧ (ethUp : State).isEth (0
      : PortNo).toNat ∧
    (({ ethUp with swc := { SwitchSt.reset with pausing := [(0, 3)] } } : State).swc.pausing.contains ((0 :
      PortNo).toNat, (3 : BitVec 3).toNat)) ∧ (({ ethUp with swc := { SwitchSt.reset with pausing := [(0, 3)] } } :
      State).active (0 : PortNo).toNat) ∧
    (mayLane : State).tileClock (0 : TileNo).toNat ∧
    State.reset.opens (0 : Mst).toNat Blk.xbarDev.page 0x348 (.xbarDev : Blk) ∧ bit (1 : Word).toNat 0 := by
  and_intros <;> decide +kernel

/-- The hypotheses of SpillAndPoolRows are met. -/
theorem test_meets_SpillAndPoolRows :
    ((State.reset.onBlocks [⟨0, false, 0, 1, 4096, 0, 2, false⟩] : State).oldestBlock (acctEg (0 : BitVec 12)) (acctIdx
      (0 : BaseNo) (0 : BitVec 12)) = some (⟨0, false, 0, 1, 4096, 0, 2, false⟩ : SpillBlock)) ∧ ((⟨0, false, 0, 1,
      4096, 0, 2, false⟩ : SpillBlock).reading = false) ∧ cellsOf ((State.reset.onBlocks [⟨0, false, 0, 1, 4096, 0,
      2, false⟩] : State).held (acctEg (0 : BitVec 12)) (acctIdx (0 : BaseNo) (0 : BitVec 12))) ≤
      (State.reset.onBlocks [⟨0, false, 0, 1, 4096, 0, 2, false⟩] : State).cellLimit (acctEg (0 : BitVec 12))
      (acctIdx (0 : BaseNo) (0 : BitVec 12)) / 2 ∧
    (((State.reset.onCps [{ aCopy with place := .spillIn }]).onBlocks [⟨0, false, 0, 1, 4096, 0, 2, true⟩] :
      State).oldestBlock (acctEg (0 : BitVec 12)) (acctIdx (0 : BaseNo) (0 : BitVec 12)) = some (⟨0, false, 0, 1,
      4096, 0, 2, true⟩ : SpillBlock)) ∧ (⟨0, false, 0, 1, 4096, 0, 2, true⟩ : SpillBlock).reading ∧
      (((State.reset.onCps [{ aCopy with place := .spillIn }]).onBlocks [⟨0, false, 0, 1, 4096, 0, 2, true⟩] :
      State).spilledCps (⟨0, false, 0, 1, 4096, 0, 2, true⟩ : SpillBlock) = ({ aCopy with place := .spillIn } : Cp)
      :: ([] : List Cp)) ∧
    (((State.reset.onCps [{ aCopy with place := .spillIn }]).onBlocks [⟨0, false, 0, 1, 4096, 0, 2, true⟩] :
      State).oldestBlock (acctEg (0 : BitVec 12)) (acctIdx (0 : BaseNo) (0 : BitVec 12)) = some (⟨0, false, 0, 1,
      4096, 0, 2, true⟩ : SpillBlock)) ∧ (⟨0, false, 0, 1, 4096, 0, 2, true⟩ : SpillBlock).reading ∧
      (((State.reset.onCps [{ aCopy with place := .spillIn }]).onBlocks [⟨0, false, 0, 1, 4096, 0, 2, true⟩] :
      State).spilledCps (⟨0, false, 0, 1, 4096, 0, 2, true⟩ : SpillBlock) = ({ aCopy with place := .spillIn } : Cp)
      :: ([] : List Cp)) ∧ ((⟨0, false, 0, 1, 4096, 0, 2, true⟩ : SpillBlock).cells ≤ ((State.reset.onCps
      [{ aCopy with place := .spillIn }]).onBlocks [⟨0, false, 0, 1, 4096, 0, 2, true⟩] : State).freeCells (acctIdx
      (0 : BaseNo) (0 : BitVec 12)).1) ∧ ((((State.reset.onCps [{ aCopy with place := .spillIn }]).onBlocks [⟨0,
      false, 0, 1, 4096, 0, 2, true⟩]).blockBack ⟨0, false, 0, 1, 4096, 0, 2, true⟩ { aCopy with place := .spillIn }
      : State) = ((State.reset.onCps [{ aCopy with place := .spillIn }]).onBlocks [⟨0, false, 0, 1, 4096, 0, 2,
      true⟩] : State).blockBack (⟨0, false, 0, 1, 4096, 0, 2, true⟩ : SpillBlock) ({ aCopy with place := .spillIn }
      : Cp)) ∧ ((((State.reset.onCps [{ aCopy with place := .spillIn }]).onBlocks [⟨0, false, 0, 1, 4096, 0, 2,
      true⟩]).blockBack ⟨0, false, 0, 1, 4096, 0, 2, true⟩ { aCopy with place := .spillIn } : State).spilledCps (⟨0,
      false, 0, 1, 4096, 0, 2, true⟩ : SpillBlock) = (((((State.reset.onCps
      [{ aCopy with place := .spillIn }]).onBlocks [⟨0, false, 0, 1, 4096, 0, 2, true⟩]).blockBack ⟨0, false, 0, 1,
      4096, 0, 2, true⟩ { aCopy with place := .spillIn }).spilledCps ⟨0, false, 0, 1, 4096, 0, 2, true⟩).headD aCopy
      : Cp) :: ([] : List Cp)) ∧ ((((State.reset.onCps [{ aCopy with place := .spillIn }]).onBlocks [⟨0, false, 0,
      1, 4096, 0, 2, true⟩]).blockBack ⟨0, false, 0, 1, 4096, 0, 2, true⟩ { aCopy with place := .spillIn } :
      State).swc.blocks.any (fun y => y.egress == acctEg (0 : BitVec 12) && y.cid == (⟨0, false, 0, 1, 4096, 0, 2,
      true⟩ : SpillBlock).cid) = false) ∧
    ((poolUp : State).blk (0x502 : Pg).toNat = some (.pool (0 : Nat))) ∧ (poolUp : State).opens (0 : Mst).toNat (0x502 :
      Pg).toNat 0x1A0 (.pool (0 : Nat)) ∧ ((poolUp : State).gb (.pool (0 : Nat)) POOL_CMD_STATUS_busy = false) ∧
      (bits (0x405 : Word).toNat 0 2 = 1) ∧ ((poolUp.poolAlloc 0 0x101 : Code × Nat × Nat × State) = (poolUp :
      State).poolAlloc (0 : Nat) (bits (0x405 : Word).toNat 2 19)) ∧ ((poolUp.poolAlloc 0 0x101 : Code × Nat × Nat ×
      State).1 = .ok) ∧
    ((poolOut : State).blk (0x502 : Pg).toNat = some (.pool (0 : Nat))) ∧ (poolOut : State).opens (0 : Mst).toNat (0x502
      : Pg).toNat 0x1A0 (.pool (0 : Nat)) ∧ ((poolOut : State).gb (.pool (0 : Nat)) POOL_CMD_STATUS_busy = false) ∧
      (bits (2 : Word).toNat 0 2 = 2) ∧ ((poolOut : State).poolRelease (0 : Nat) ((poolOut : State).g (.pool (0 :
      Nat)) POOL_CMD_ADDR_addr)).1 ∧
    ((poolUp.poolAlloc 0 262144 : Code × Nat × Nat × State) = (poolUp : State).poolAlloc (0 : BaseNo).toNat (262144 :
      BitVec 32).toNat) ∧
    (5 : BitVec 3).toNat < 6 ∧ (poolUp : State).live (.pool (0 : BaseNo).toNat) ∧ ((poolUp : State).cache (0 :
      BaseNo).toNat (5 : BitVec 3).toNat).length < 128 ∧ (poolUp : State).ringLen (0 : BaseNo).toNat (5 : BitVec
      3).toNat ≠ 0 ∧
    (0 : BitVec 3).toNat < 6 ∧ (poolUp.setCache 0 0 (List.replicate 385 0) : State).live (.pool (0 : BaseNo).toNat) ∧
      384 < ((poolUp.setCache 0 0 (List.replicate 385 0) : State).cache (0 : BaseNo).toNat (0 : BitVec
      3).toNat).length ∧
    ((State.reset.p (.pool 7) STATE_state 1 : State).blk (Blk.pool (7 : BaseNo).toNat).page = some (.pool (7 :
      BaseNo).toNat)) ∧ ((State.reset.p (.pool 7) STATE_state 1 : State).st (.pool (7 : BaseNo).toNat) = .training) := by
  and_intros <;> decide +kernel

/-- The hypotheses of RouteAndTimingRows are met. -/
theorem test_meets_RouteAndTimingRows :
    State.reset.opens (0 : Mst).toNat Blk.xbarDev.page 0x308 (.xbarDev : Blk) ∧ (State.reset.gb (.xbarDev : Blk)
      XBAR_RL_STATUS_busy = false) ∧ (bits (1 : Word).toNat 0 2 = 1) ∧ ((State.reset.readImage 0 : Code × Nat × List
      REdge × List Byte) = State.reset.readImage (0 : Mst).toNat) ∧ (State.reset.readImage 0 : Code × Nat × List
      REdge × List Byte).1 ≠ .denied ∧
    State.reset.opens (0 : Mst).toNat Blk.xbarDev.page 0x308 (.xbarDev : Blk) ∧ (State.reset.gb (.xbarDev : Blk)
      XBAR_RL_STATUS_busy = false) ∧ (bits (2 : Word).toNat 0 2 = 2) ∧ ((State.reset.readImage 0 : Code × Nat × List
      REdge × List Byte) = State.reset.readImage (0 : Mst).toNat) ∧ (State.reset.readImage 0 : Code × Nat × List
      REdge × List Byte).1 ≠ .denied ∧
    ((State.reset.addJob ⟨.routeLoad, 5, 0x310, .ok, 0, 65536, 0⟩ : State).job .routeLoad Blk.xbarDev.page 0x310 = some
      (⟨.routeLoad, 5, 0x310, .ok, 0, 65536, 0⟩ : Job)) ∧ ((⟨.routeLoad, 5, 0x310, .ok, 0, 65536, 0⟩ : Job).code =
      .ok) ∧ ((State.reset.finish .xbarDev 0x310 .ok : State) = (((State.reset.addJob ⟨.routeLoad, 5, 0x310, .ok, 0,
      65536, 0⟩ : State).dropJob .routeLoad Blk.xbarDev.page 0x310).finish .xbarDev 0x310 .ok)) ∧
    ((mayLane : State).blk (0x510 : Pg).toNat = some (.swt (0 : Nat))) ∧ (mayLane : State).tileClock (0 : Nat) ∧
    ((mayLane : State).blk (0x560 : Pg).toNat = some (.vec (0 : Nat))) ∧ (mayLane : State).tileClock (2 * (0 : Nat)) ∧
    State.reset.opens (0 : Mst).toNat (0x610 : Pg).toNat 0x700 (.lane 0 0 : Blk) ∧ (.lane 0 0 : Blk).hasXing ∧ bit (1 :
      Word).toNat 0 ∧ (State.reset.st (.lane 0 0 : Blk) = .off ∨ State.reset.st (.lane 0 0 : Blk) = .quiesced ∨
      State.reset.st (.lane 0 0 : Blk) = .evacuated) ∧
    (State.reset.blk (0x14 : Pg).toNat = some (.pci : Blk)) ∧ (.pci : Blk).hasXing ∧
    (State.reset.blk (0x504 : Pg).toNat = some (.hbm 0 : Blk)) ∧ (.hbm 0 : Blk).hasXing := by
  decide +kernel

/-- The hypotheses of ContextRows are met. -/
theorem test_meets_ContextRows :
    ((ctxUp.pctx 0 attCtx_state 0) : State).opens (0 : Mst).toNat (Blk.att (0 : TileNo).toNat).page 0x120 (.att 0 : Blk)
      ∧ (bits (1 : Word).toNat 0 2 = 1) ∧ (((ctxUp.pctx 0 attCtx_state 0).ctxOpen 0 0 : Code × State) = ((ctxUp.pctx
      0 attCtx_state 0) : State).ctxOpen (0 : Mst).toNat (bits (1 : Word).toNat 2 12)) ∧ (((ctxUp.pctx 0
      attCtx_state 0).ctxOpen 0 0 : Code × State).1 = .ok) ∧
    (ctxUp : State).opens (0 : Mst).toNat (Blk.att (0 : TileNo).toNat).page 0x120 (.att 0 : Blk) ∧ (bits (2 :
      Word).toNat 0 2 = 2) ∧ ((ctxUp.ctxClose 0 0 : Code × State) = (ctxUp : State).ctxClose (0 : Mst).toNat (bits
      (2 : Word).toNat 2 12)) ∧ ((ctxUp.ctxClose 0 0 : Code × State).1 = .ok) ∧
    (ctxUp : State).opens (0 : Mst).toNat (Blk.att (0 : TileNo).toNat).page 0x120 (.att 0 : Blk) ∧ (bits (3 :
      Word).toNat 0 2 = 3) ∧ ((ctxUp.ctxReset 0 0 : Code × State) = (ctxUp : State).ctxReset (0 : Mst).toNat (bits
      (3 : Word).toNat 2 12)) ∧ ((ctxUp.ctxReset 0 0 : Code × State).1 = .ok) ∧
    ((.att 0 : Blk) = .att (0 : TileNo).toNat) ∧ ((0 : Nat) = State.reset.g (.att 0 : Blk) ATT_TBL_SEL_index) ∧ ((0 :
      Nat) = State.reset.g (.att 0 : Blk) ATT_TBL_SEL_word) ∧ State.reset.opens (0 : Mst).toNat (.att 0 : Blk).page
      0x118 (.att 0 : Blk) ∧ State.reset.attRow (0 : Mst).toNat (0 : TileNo).toNat 0 (0 : Nat) (0 : Nat) (0x70000 :
      Word).toNat ∧ (State.reset.g (.att 0 : Blk) ATT_TBL_SEL_table = 0) ∧ ((fieldsAt Tbl.attCtx.fields (0 :
      Nat)).any (fun d => d.acc == .rw)) ∧ (State.reset.ctxSt (0 : Nat) = 0) ∧
    ((.att 0 : Blk) = .att (0 : TileNo).toNat) ∧ ((0 : Nat) = (State.reset.p (.att 0) ATT_TBL_SEL_table 1 : State).g
      (.att 0 : Blk) ATT_TBL_SEL_index) ∧ ((0 : Nat) = (State.reset.p (.att 0) ATT_TBL_SEL_table 1 : State).g (.att
      0 : Blk) ATT_TBL_SEL_word) ∧ (State.reset.p (.att 0) ATT_TBL_SEL_table 1 : State).opens (0 : Mst).toNat (.att
      0 : Blk).page 0x118 (.att 0 : Blk) ∧ (State.reset.p (.att 0) ATT_TBL_SEL_table 1 : State).attRow (0 :
      Mst).toNat (0 : TileNo).toNat 1 (0 : Nat) (0 : Nat) (0x10000 : Word).toNat ∧ ((State.reset.p (.att 0)
      ATT_TBL_SEL_table 1 : State).g (.att 0 : Blk) ATT_TBL_SEL_table = 1) ∧ ((0 : Nat) = 0) ∧
    ((.att 0 : Blk) = .att (0 : TileNo).toNat) ∧ ((0 : Nat) = ((State.reset.p (.att 0) ATT_TBL_SEL_table 2).p (.att 0)
      ATT_TBL_SEL_word 2 : State).g (.att 0 : Blk) ATT_TBL_SEL_index) ∧ ((2 : Nat) = ((State.reset.p (.att 0)
      ATT_TBL_SEL_table 2).p (.att 0) ATT_TBL_SEL_word 2 : State).g (.att 0 : Blk) ATT_TBL_SEL_word) ∧
      ((State.reset.p (.att 0) ATT_TBL_SEL_table 2).p (.att 0) ATT_TBL_SEL_word 2 : State).opens (0 : Mst).toNat
      (.att 0 : Blk).page 0x118 (.att 0 : Blk) ∧ ((State.reset.p (.att 0) ATT_TBL_SEL_table 2).p (.att 0)
      ATT_TBL_SEL_word 2 : State).attRow (0 : Mst).toNat (0 : TileNo).toNat 2 (0 : Nat) (2 : Nat) (0 : Word).toNat ∧
      (((State.reset.p (.att 0) ATT_TBL_SEL_table 2).p (.att 0) ATT_TBL_SEL_word 2 : State).g (.att 0 : Blk)
      ATT_TBL_SEL_table = 2) := by
  and_intros <;> decide +kernel

/-- The hypotheses of LocalCommandRows are met. -/
theorem test_meets_LocalCommandRows :
    ((.localAtomic 0 ⟨pktOf 0x14 0⟩ : Instr), (0x14 : Nat), (.atomic : TOp)) ∈ [(Instr.localPut (0 : GroupNo) (⟨pktOf
      0x14 0⟩ : LocalCmd), 0x11, TOp.put), (Instr.localGet (0 : GroupNo) (⟨pktOf 0x14 0⟩ : LocalCmd), 0x12,
      TOp.get), (Instr.localSend (0 : GroupNo) (⟨pktOf 0x14 0⟩ : LocalCmd), 0x13, TOp.send), (Instr.localAtomic (0 :
      GroupNo) (⟨pktOf 0x14 0⟩ : LocalCmd), 0x14, TOp.atomic)] ∧ ((ctxUp : State) = (ctxUp : State).unhand (attOwner
      ((0 : GroupNo).toNat / 8)) (⟨pktOf 0x14 0⟩ : LocalCmd).bytes) ∧ ((ctxUp : State).pers (0 : GroupNo).toNat =
      .tlinkAttach) ∧ (ctxUp : State).active ((ctxUp : State).attPort (0 : GroupNo).toNat) ∧ 56 ≤ (⟨pktOf 0x14 0⟩ :
      LocalCmd).bytes.length ∧ (pOp (⟨pktOf 0x14 0⟩ : LocalCmd).bytes = (0x14 : Nat)) ∧ e2eOk (⟨pktOf 0x14 0⟩ :
      LocalCmd).bytes ∧ ((ctxUp : State).ctxGroup (hw (⟨pktOf 0x14 0⟩ : LocalCmd).bytes 0 % 4096) = (0 :
      GroupNo).toNat) ∧ ((ctxUp : State).ctxSt (hw (⟨pktOf 0x14 0⟩ : LocalCmd).bytes 0 % 4096) = 1) ∧ ((.atomic :
      TOp) = .atomic → pAddr (⟨pktOf 0x14 0⟩ : LocalCmd).bytes % 8 = 0) ∧
    ((ctxUp : State) = (ctxUp : State).unhand (attOwner ((0 : GroupNo).toNat / 8)) (⟨pktOf 0x15 0⟩ : LocalCmd).bytes) ∧
      ((ctxUp : State).pers (0 : GroupNo).toNat = .tlinkAttach) ∧ (ctxUp : State).active ((ctxUp : State).attPort (0
      : GroupNo).toNat) ∧ 56 ≤ (⟨pktOf 0x15 0⟩ : LocalCmd).bytes.length ∧ (pOp (⟨pktOf 0x15 0⟩ : LocalCmd).bytes =
      0x15) ∧ e2eOk (⟨pktOf 0x15 0⟩ : LocalCmd).bytes ∧ ((ctxUp : State).ctxGroup (hw (⟨pktOf 0x15 0⟩ :
      LocalCmd).bytes 0 % 4096) = (0 : GroupNo).toNat) ∧ ((ctxUp : State).ctxSt (hw (⟨pktOf 0x15 0⟩ :
      LocalCmd).bytes 0 % 4096) = 1) ∧ ((ctxUp : State).cx (hw (⟨pktOf 0x15 0⟩ : LocalCmd).bytes 0 %
      4096)).posted.length < 64 ∧
    ((({ ctxUp with lrds := [⟨0, 5, 0, false, 64, aPkt⟩] } : State).lrds.find? fun x => x.tile == (0 : GroupNo).toNat /
      8 && x.tag == (5 : BitVec 32).toNat && ({ ctxUp with lrds := [⟨0, 5, 0, false, 64, aPkt⟩] } : State).ctxGroup
      x.ctx == (0 : GroupNo).toNat) = some (⟨0, 5, 0, false, 64, aPkt⟩ : LocalRd)) ∧ ((⟨0, 5, 0, false, 64, aPkt⟩ :
      LocalRd).fadd = false) ∧ ((⟨0, 5, 0, false, 64, aPkt⟩ : LocalRd).pkt = (aPkt : TxP)) ∧ ((aPkt : TxP).buf =
      none) ∧ ((ctxUp : State) =
      { ({ ctxUp with lrds := [⟨0, 5, 0, false, 64, aPkt⟩] } : State) with lrds := ({ ctxUp with lrds := [⟨0, 5, 0, false, 64, aPkt⟩] } : State).lrds.filter fun x => !(x.tile == (⟨0, 5, 0, false, 64, aPkt⟩ : LocalRd).tile && x.tag == (⟨0, 5, 0, false, 64, aPkt⟩ : LocalRd).tag) }) := by
  decide +kernel

/-- The hypotheses of TransportPacketRows are met. -/
theorem test_meets_TransportPacketRows :
    ((ctxUp : State).abortedReq (0 : TileNo).toNat (⟨pktOf 1 8⟩ : TPkt).bytes = false) ∧ ((ctxUp : State).acceptPkt (0 :
      TileNo).toNat 0x01 (⟨pktOf 1 8⟩ : TPkt).bytes = (some (0 : Nat), ((ctxUp.acceptPkt 0 1 (pktOf 1 8)).2 :
      State))) ∧ (((ctxUp.acceptPkt 0 1 (pktOf 1 8)).2 : State).seen (0 : Nat) (pPsn (⟨pktOf 1 8⟩ : TPkt).bytes) =
      false) ∧ (((ctxUp.acceptPkt 0 1 (pktOf 1 8)).2 : State).beyond (0 : Nat) (pPsn (⟨pktOf 1 8⟩ : TPkt).bytes) =
      false) ∧ ((((ctxUp.acceptPkt 0 1 (pktOf 1 8)).2 : State).doPut (⟨pktOf 1 8⟩ : TPkt).bytes (0 : Nat)).toOption
      = some (((ctxUp.acceptPkt 0 1 (pktOf 1 8)).2.doPut (pktOf 1 8) 0).toOption.getD ctxUp : State)) ∧
    ((ctxUp : State).abortedReq (0 : TileNo).toNat (⟨pktOf 2 0⟩ : TPkt).bytes = false) ∧ ((ctxUp : State).acceptPkt (0 :
      TileNo).toNat 0x02 (⟨pktOf 2 0⟩ : TPkt).bytes = (some (0 : Nat), ((ctxUp.acceptPkt 0 2 (pktOf 2 0)).2 :
      State))) ∧ (((ctxUp.acceptPkt 0 2 (pktOf 2 0)).2 : State).seen (0 : Nat) (pPsn (⟨pktOf 2 0⟩ : TPkt).bytes) =
      false) ∧ (((ctxUp.acceptPkt 0 2 (pktOf 2 0)).2 : State).beyond (0 : Nat) (pPsn (⟨pktOf 2 0⟩ : TPkt).bytes) =
      false) ∧ ((((ctxUp.acceptPkt 0 2 (pktOf 2 0)).2 : State).doGet (⟨pktOf 2 0⟩ : TPkt).bytes (0 : Nat)).toOption
      = some (((ctxUp.acceptPkt 0 2 (pktOf 2 0)).2.doGet (pktOf 2 0) 0).toOption.getD ctxUp : State)) ∧
    ((ctxUp.onCx ((ctxUp.cx 0).post 0 64 0) : State).abortedReq (0 : TileNo).toNat (⟨pktOf 4 8⟩ : TPkt).bytes = false) ∧
      ((ctxUp.onCx ((ctxUp.cx 0).post 0 64 0) : State).acceptPkt (0 : TileNo).toNat 0x04 (⟨pktOf 4 8⟩ : TPkt).bytes
      = (some (0 : Nat), (((ctxUp.onCx ((ctxUp.cx 0).post 0 64 0)).acceptPkt 0 4 (pktOf 4 8)).2 : State))) ∧
      ((((ctxUp.onCx ((ctxUp.cx 0).post 0 64 0)).acceptPkt 0 4 (pktOf 4 8)).2 : State).seen (0 : Nat) (pPsn (⟨pktOf
      4 8⟩ : TPkt).bytes) = false) ∧ ((((ctxUp.onCx ((ctxUp.cx 0).post 0 64 0)).acceptPkt 0 4 (pktOf 4 8)).2 :
      State).beyond (0 : Nat) (pPsn (⟨pktOf 4 8⟩ : TPkt).bytes) = false) ∧ (((((ctxUp.onCx ((ctxUp.cx 0).post 0 64
      0)).acceptPkt 0 4 (pktOf 4 8)).2 : State).doSend (⟨pktOf 4 8⟩ : TPkt).bytes (0 : Nat)).toOption = some
      ((((ctxUp.onCx ((ctxUp.cx 0).post 0 64 0)).acceptPkt 0 4 (pktOf 4 8)).2.doSend (pktOf 4 8) 0).toOption.getD
      ctxUp : State)) ∧
    ((ctxUp : State).abortedReq (0 : TileNo).toNat (⟨pktOf 5 0⟩ : TPkt).bytes = false) ∧ ((ctxUp : State).acceptPkt (0 :
      TileNo).toNat 0x05 (⟨pktOf 5 0⟩ : TPkt).bytes = (some (0 : Nat), ((ctxUp.acceptPkt 0 5 (pktOf 5 0)).2 :
      State))) ∧ (((ctxUp.acceptPkt 0 5 (pktOf 5 0)).2 : State).seen (0 : Nat) (pPsn (⟨pktOf 5 0⟩ : TPkt).bytes) =
      false) ∧ (((ctxUp.acceptPkt 0 5 (pktOf 5 0)).2 : State).beyond (0 : Nat) (pPsn (⟨pktOf 5 0⟩ : TPkt).bytes) =
      false) ∧ ((((ctxUp.acceptPkt 0 5 (pktOf 5 0)).2 : State).doAtomic (⟨pktOf 5 0⟩ : TPkt).bytes (0 :
      Nat)).toOption = some (((ctxUp.acceptPkt 0 5 (pktOf 5 0)).2.doAtomic (pktOf 5 0) 0).toOption.getD ctxUp :
      State)) ∧
    ((ctxUp : State).acceptPkt (0 : TileNo).toNat 0x03 (⟨pktOf 3 8⟩ : TPkt).bytes = (some (0 : Nat), ((ctxUp.acceptPkt 0
      3 (pktOf 3 8)).2 : State))) ∧ (((ctxUp.acceptPkt 0 3 (pktOf 3 8)).2 : State).seen (0 : Nat) (pPsn (⟨pktOf 3 8⟩
      : TPkt).bytes) = false) ∧ (((ctxUp.acceptPkt 0 3 (pktOf 3 8)).2 : State).beyond (0 : Nat) (pPsn (⟨pktOf 3 8⟩ :
      TPkt).bytes) = false) ∧ ((((ctxUp.acceptPkt 0 3 (pktOf 3 8)).2 : State).doResp (⟨pktOf 3 8⟩ : TPkt).bytes (0 :
      Nat)).toOption = some (((ctxUp.acceptPkt 0 3 (pktOf 3 8)).2.doResp (pktOf 3 8) 0).toOption.getD ctxUp :
      State)) ∧
    ((ctxUp : State).acceptPkt (0 : TileNo).toNat 0x06 (⟨pktOf 6 0⟩ : TPkt).bytes = (some (0 : Nat), ((ctxUp.acceptPkt 0
      6 (pktOf 6 0)).2 : State))) ∧ (((ctxUp.acceptPkt 0 6 (pktOf 6 0)).2 : State).seen (0 : Nat) (pPsn (⟨pktOf 6 0⟩
      : TPkt).bytes) = false) ∧ (((ctxUp.acceptPkt 0 6 (pktOf 6 0)).2 : State).beyond (0 : Nat) (pPsn (⟨pktOf 6 0⟩ :
      TPkt).bytes) = false) ∧ ((((ctxUp.acceptPkt 0 6 (pktOf 6 0)).2 : State).doAtomicResp (⟨pktOf 6 0⟩ :
      TPkt).bytes (0 : Nat)).toOption = some (((ctxUp.acceptPkt 0 6 (pktOf 6 0)).2.doAtomicResp (pktOf 6 0)
      0).toOption.getD ctxUp : State)) ∧
    (ctxUp : State).rdxAddr ≠ some (hw (⟨pktOf 7 0⟩ : TPkt).bytes 0 / 4096) ∧ ((ctxUp : State).acceptPkt (0 :
      TileNo).toNat 0x07 (⟨pktOf 7 0⟩ : TPkt).bytes = (some (0 : Nat), ((ctxUp.acceptPkt 0 7 (pktOf 7 0)).2 :
      State))) ∧ ((((ctxUp.acceptPkt 0 7 (pktOf 7 0)).2.ackPkts 0 0 0 0).ackNak 0 0 0 : State) = (((ctxUp.acceptPkt
      0 7 (pktOf 7 0)).2 : State).ackPkts (0 : Nat) (pPsn (⟨pktOf 7 0⟩ : TPkt).bytes) (beAt (⟨pktOf 7 0⟩ :
      TPkt).bytes 20 16) (beAt (⟨pktOf 7 0⟩ : TPkt).bytes 36 16)).ackNak (0 : Nat) (hw (⟨pktOf 7 0⟩ : TPkt).bytes 4
      / 2 ^ 24) (hw (⟨pktOf 7 0⟩ : TPkt).bytes 4 % 2 ^ 24)) ∧ (((ctxUp.acceptPkt 0 7 (pktOf 7 0)).2.ackPkts 0 0 0
      0).ackNak 0 0 0 : State).ctxLive (0 : Nat) := by
  and_intros <;> decide +kernel

/-- The hypotheses of TransportTimerRows are met. -/
theorem test_meets_TransportTimerRows :
    ((ctxUp.onCx { ctxUp.cx 0 with sinceAck := 1 } : State).ctxSt (0 : CtxNo).toNat ≠ 4) ∧ ((ctxUp.onCx
      { ctxUp.cx 0 with sinceAck := 1 } : State).ctxLive (0 : CtxNo).toNat) ∧ (0 < ((ctxUp.onCx
      { ctxUp.cx 0 with sinceAck := 1 } : State).cx (0 : CtxNo).toNat).sinceAck) ∧
    ((admitted : State).ctxSt (1 : CtxNo).toNat = 4) ∧
    ((ctxUp.onCx { ctxUp.cx 0 with pkts := [{ aPkt with psn := some 0 }] } : State).ctxSt (0 : CtxNo).toNat ≠ 4) ∧
      ((ctxUp.onCx { ctxUp.cx 0 with pkts := [{ aPkt with psn := some 0 }] } : State).ctxLive (0 : CtxNo).toNat) ∧
      ((((ctxUp.onCx { ctxUp.cx 0 with pkts := [{ aPkt with psn := some 0 }] } : State).cx (0 :
      CtxNo).toNat).pkts.find? fun x => x.psn == some ((0 : BitVec 32).toNat % 2 ^ 24)) = some
      ({ aPkt with psn := some 0 } : TxP)) ∧ ((0 : Nat) = (ctxUp.onCx
      { ctxUp.cx 0 with pkts := [{ aPkt with psn := some 0 }] } : State).ctxTile (0 : CtxNo).toNat) ∧ ((1 : Nat) =
      (ctxUp.onCx { ctxUp.cx 0 with pkts := [{ aPkt with psn := some 0 }] } : State).t .attPath (0 : Nat)
      ({ aPkt with psn := some 0 } : TxP).path attPath_timeouts + 1) ∧ ((1 : Nat) < (((ctxUp.onCx
      { ctxUp.cx 0 with pkts := [{ aPkt with psn := some 0 }] } : State).inc (.att (0 : Nat)) ATT_TIMEOUTS_count).pt
      .attPath (0 : Nat) ({ aPkt with psn := some 0 } : TxP).path attPath_timeouts (min (1 : Nat) 255)).g (.att (0 :
      Nat)) ATT_CFG_path_down_after) ∧
    (.retxTimeout 1 0 : Instr) ∈ [Instr.retxTimeout (1 : CtxNo) (0 : BitVec 32), Instr.noResourceRetry (1 : CtxNo) (0 :
      BitVec 32)] ∧ ((0 : Nat) = (0 : BitVec 32).toNat % 2 ^ 24) ∧ ((admitted.setRx 1
      { admitted.rx 1 with lines := [{ RLine.fresh 0 with res := some [], resPsn := some 0 }] } : State).ctxSt (1 :
      CtxNo).toNat = 4) ∧ ((admitted.setRx 1
      { admitted.rx 1 with lines := [{ RLine.fresh 0 with res := some [], resPsn := some 0 }] } : State).subLive (1
      : CtxNo).toNat) ∧ ((((admitted.setRx 1
      { admitted.rx 1 with lines := [{ RLine.fresh 0 with res := some [], resPsn := some 0 }] } : State).rx (1 :
      CtxNo).toNat).lines.find? fun x => x.part.isSome && x.partPsn == some (0 : Nat)) = none) ∧ ((((admitted.setRx
      1 { admitted.rx 1 with lines := [{ RLine.fresh 0 with res := some [], resPsn := some 0 }] } : State).rx (1 :
      CtxNo).toNat).lines.find? fun x => x.res.isSome && x.resPsn == some (0 : Nat)) = some
      ({ RLine.fresh 0 with res := some [], resPsn := some 0 } : RLine)) ∧
    (.retxTimeout 1 0 : Instr) ∈ [Instr.retxTimeout (1 : CtxNo) (0 : BitVec 32), Instr.noResourceRetry (1 : CtxNo) (0 :
      BitVec 32)] ∧ ((0 : Nat) = (0 : BitVec 32).toNat % 2 ^ 24) ∧ ((admitted.setRx 1
      { admitted.rx 1 with lines := [{ RLine.fresh 0 with part := some [], partPsn := some 0 }] } : State).ctxSt (1
      : CtxNo).toNat = 4) ∧ ((admitted.setRx 1
      { admitted.rx 1 with lines := [{ RLine.fresh 0 with part := some [], partPsn := some 0 }] } : State).subLive
      (1 : CtxNo).toNat) ∧ ((((admitted.setRx 1
      { admitted.rx 1 with lines := [{ RLine.fresh 0 with part := some [], partPsn := some 0 }] } : State).rx (1 :
      CtxNo).toNat).lines.find? fun x => x.part.isSome && x.partPsn == some (0 : Nat)) = some
      ({ RLine.fresh 0 with part := some [], partPsn := some 0 } : RLine)) ∧ ((((admitted.setRx 1
      { admitted.rx 1 with lines := [{ RLine.fresh 0 with part := some [], partPsn := some 0 }] } : State).rx (1 :
      CtxNo).toNat).lines.find? fun x => x.res.isSome && x.resPsn == some (0 : Nat)) = none) ∧
    ((ctxUp.onCx { ctxUp.cx 0 with pkts := [{ aPkt with psn := some 0, nakd := true }] } : State).ctxSt (0 :
      CtxNo).toNat ≠ 4) ∧ ((ctxUp.onCx { ctxUp.cx 0 with pkts := [{ aPkt with psn := some 0, nakd := true }] } :
      State).ctxLive (0 : CtxNo).toNat) ∧ (((ctxUp.onCx
      { ctxUp.cx 0 with pkts := [{ aPkt with psn := some 0, nakd := true }] } : State).cx (0 :
      CtxNo).toNat).pkts.any (fun p => p.psn == some ((0 : BitVec 32).toNat % 2 ^ 24) && p.nakd)) ∧
    (ctxUp.pt .attPath 0 0 attPath_down 1 : State).tb .attPath (0 : TileNo).toNat (0 : BitVec 20).toNat attPath_down := by
  decide +kernel

/-- The hypotheses of ReductionCommandRows are met. -/
theorem test_meets_ReductionCommandRows :
    (admitReady : State).opens (0x10 : Mst).toNat (Blk.rdx (0 : EngNo).toNat).page 0x128 (.rdx 0 : Blk) ∧ (bit
      ((admitReady : State).reg (.rdx 0 : Blk) 0x138) 8 = false) ∧ (bits (9 : Word).toNat 0 3 = 1) ∧
      ((admitReady.rdxAdmit 0x10 0 1 : Code × State) = (admitReady : State).rdxAdmit (0x10 : Mst).toNat (0 :
      EngNo).toNat (bits (9 : Word).toNat 3 12)) ∧ ((admitReady.rdxAdmit 0x10 0 1 : Code × State).1 = .ok) ∧
    (admitted : State).opens (0x10 : Mst).toNat (Blk.rdx (0 : EngNo).toNat).page 0x128 (.rdx 0 : Blk) ∧ (bit ((admitted
      : State).reg (.rdx 0 : Blk) 0x138) 8 = false) ∧ (bits (10 : Word).toNat 0 3 = 2) ∧ ((1 : Nat) = bits (10 :
      Word).toNat 3 12) ∧ ((admitted : State).sub (1 : Nat) = 1) ∧ (admitted : State).rdxRow (0x10 : Mst).toNat (1 :
      Nat) ∧
    (admitted : State).opens (0x10 : Mst).toNat (Blk.rdx (0 : EngNo).toNat).page 0x128 (.rdx 0 : Blk) ∧ (bit ((admitted
      : State).reg (.rdx 0 : Blk) 0x138) 8 = false) ∧ (bits (11 : Word).toNat 0 3 = 3) ∧ ((1 : Nat) = bits (11 :
      Word).toNat 3 12) ∧ (admitted : State).sub (1 : Nat) ≠ 0 ∧ (admitted : State).rdxRow (0x10 : Mst).toNat (1 :
      Nat) ∧
    (admitted : State).opens (0x10 : Mst).toNat (Blk.rdx (0 : EngNo).toNat).page 0x128 (.rdx 0 : Blk) ∧ (bit ((admitted
      : State).reg (.rdx 0 : Blk) 0x138) 8 = false) ∧ (bits (12 : Word).toNat 0 3 = 4) ∧ ((1 : Nat) = bits (12 :
      Word).toNat 3 12) ∧ ((admitted : State).sub (1 : Nat) = 1) ∧ (admitted : State).rdxRow (0x10 : Mst).toNat (1 :
      Nat) ∧ ((admitted.rdxSave 0x10 0 1 : Code × State) = (admitted : State).rdxSave (0x10 : Mst).toNat (0 :
      EngNo).toNat (1 : Nat)) ∧ ((admitted.rdxSave 0x10 0 1 : Code × State).1 = .ok) ∧
    ((admitted.rdxSave 0x10 0 1).2 : State).opens (0x10 : Mst).toNat (Blk.rdx (0 : EngNo).toNat).page 0x128 (.rdx 0 :
      Blk) ∧ (bit (((admitted.rdxSave 0x10 0 1).2 : State).reg (.rdx 0 : Blk) 0x138) 8 = false) ∧ (bits (13 :
      Word).toNat 0 3 = 5) ∧ ((1 : Nat) = bits (13 : Word).toNat 3 12) ∧ (((admitted.rdxSave 0x10 0 1).2 :
      State).sub (1 : Nat) = 4) ∧ ((admitted.rdxSave 0x10 0 1).2 : State).rdxRow (0x10 : Mst).toNat (1 : Nat) ∧
      (((admitted.rdxSave 0x10 0 1).2.rdxRestore 0x10 0 1 : Code × State) = ((admitted.rdxSave 0x10 0 1).2 :
      State).rdxRestore (0x10 : Mst).toNat (0 : EngNo).toNat (1 : Nat)) ∧ (((admitted.rdxSave 0x10 0 1).2.rdxRestore
      0x10 0 1 : Code × State).1 = .ok) ∧
    ((State.reset.addJob ⟨.rdxCmd, 0x561, 0x138, .ok, 1, 4, 0⟩ : State).job .rdxCmd (Blk.rdx (0 : EngNo).toNat).page
      0x138 = some (⟨.rdxCmd, 0x561, 0x138, .ok, 1, 4, 0⟩ : Job)) := by
  and_intros <;> decide +kernel

/-- The hypotheses of SmallCollectiveRows are met. -/
theorem test_meets_SmallCollectiveRows :
    (scReady : State).opens (0 : Mst).toNat Blk.syn.page 0x418 (.syn : Blk) ∧ (bits (1 : Word).toNat 0 2 = 1) ∧ (scReady
      : State).ownSlot (0 : Mst).toNat (bits (1 : Word).toNat 2 10) ∧ ((scReady.scOpen 0 : Code × State) = (scReady
      : State).scOpen (bits (1 : Word).toNat 2 10)) ∧ ((scReady.scOpen 0 : Code × State).1 = .ok) ∧
    ((scReady.scOpen 0).2 : State).opens (0 : Mst).toNat Blk.syn.page 0x418 (.syn : Blk) ∧ (bits (2 : Word).toNat 0 2 =
      2) ∧ ((scReady.scOpen 0).2 : State).ownSlot (0 : Mst).toNat (bits (2 : Word).toNat 2 10) ∧ (((scReady.scOpen
      0).2.scShut 0 : Code × State) = ((scReady.scOpen 0).2 : State).scShut (bits (2 : Word).toNat 2 10)) ∧
      (((scReady.scOpen 0).2.scShut 0 : Code × State).1 = .ok) ∧
    ((scUp : State) = (scUp : State).unhand synOwner (⟨smallPkt⟩ : CPkt).bytes) ∧ ((0 : Nat) = hw (⟨smallPkt⟩ :
      CPkt).bytes 0 % 4096) ∧ ((0 : Nat) = cRank (⟨smallPkt⟩ : CPkt).bytes) ∧ (pOp (⟨smallPkt⟩ : CPkt).bytes = 0x24)
      ∧ 56 ≤ (⟨smallPkt⟩ : CPkt).bytes.length ∧ (0 : Nat) ≤ 1023 ∧ ((scUp : State).scf (0 : Nat) scSlot_open = 1) ∧
      (0 : Nat) < (scUp : State).scf (0 : Nat) scSlot_participants ∧ (scUp : State).tb .scPart 0 ((scUp : State).scf
      (0 : Nat) scSlot_part_base + (0 : Nat)) scPart_valid ∧ ((cPay (⟨smallPkt⟩ : CPkt).bytes).length = (scUp :
      State).scBytes (0 : Nat)) ∧ e2eOk (⟨smallPkt⟩ : CPkt).bytes ∧ ((scUp : State).sc (0 : Nat)).opened ∧ (hw
      (⟨smallPkt⟩ : CPkt).bytes 4 = (scUp : State).scf (0 : Nat) scSlot_seq) := by
  decide +kernel

/-- The hypotheses of ContributionRows are met. -/
theorem test_meets_ContributionRows :
    ((.collContrib 0 ⟨contribPkt⟩ : Instr), (0x20 : Nat)) ∈ [(Instr.collContrib (0 : PortNo) (⟨contribPkt⟩ : CPkt),
      0x20), (Instr.collPartial (0 : PortNo) (⟨contribPkt⟩ : CPkt), 0x22)] ∧ ((admitted : State) = (admitted :
      State).unhand rdxOwner (⟨contribPkt⟩ : CPkt).bytes) ∧ ((1 : Nat) = hw (⟨contribPkt⟩ : CPkt).bytes 0 % 4096) ∧
      (pOp (⟨contribPkt⟩ : CPkt).bytes = (0x20 : Nat)) ∧ 56 ≤ (⟨contribPkt⟩ : CPkt).bytes.length ∧ e2eOk
      (⟨contribPkt⟩ : CPkt).bytes ∧ ((admitted : State).sub (1 : Nat) = 1) ∧ (hw (⟨contribPkt⟩ : CPkt).bytes 3 % 256
      = (admitted : State).ctx (1 : Nat) attCtx_epoch % 256) ∧ (((admitted : State).rx (1 : Nat)).ranks[cRank
      (⟨contribPkt⟩ : CPkt).bytes]? = some (((admitted.rx 1).ranks[0]?).getD ⟨0, 0, none, 0, 0, 0, 0, 0, 0, false,
      0⟩ : RRank)) ∧ (((admitted.rx 1).ranks[0]?).getD ⟨0, 0, none, 0, 0, 0, 0, 0, 0, false, 0⟩ : RRank).contrib ∧
      ((((admitted.rx 1).ranks[0]?).getD ⟨0, 0, none, 0, 0, 0, 0, 0, 0, false, 0⟩ : RRank).remote = false) ∧
      ((((admitted.rx 1).ranks[0]?).getD ⟨0, 0, none, 0, 0, 0, 0, 0, 0, false, 0⟩ : RRank).portId = (0 :
      PortNo).toNat) ∧ (admitted : State).collOk (1 : Nat) (((admitted.rx 1).ranks[0]?).getD ⟨0, 0, none, 0, 0, 0,
      0, 0, 0, false, 0⟩ : RRank).fmt (⟨contribPkt⟩ : CPkt).bytes ∧
    ((((claimed : State).rx (1 : CtxNo).toNat).claims.find? fun x => !x.deferred && !((((claimed : State).rx (1 :
      CtxNo).toNat).claims.filter (·.deferred)).map (·.port)).contains x.port) = some (aClaim : RClaim)) ∧
      (((claimed : State).rx (1 : CtxNo).toNat).ranks[(aClaim : RClaim).rank]? = some (((admitted.rx
      1).ranks[0]?).getD ⟨0, 0, none, 0, 0, 0, 0, 0, 0, false, 0⟩ : RRank)) ∧ ((((admitted.rx 1).ranks[0]?).getD ⟨0,
      0, none, 0, 0, 0, 0, 0, 0, false, 0⟩ : RRank).remote = false) ∧ (claimed : State).fitsWindow (1 : CtxNo).toNat
      (aClaim : RClaim).bytes ∧
    ((((claimedFar : State).rx (1 : CtxNo).toNat).claims.find? fun x => !x.deferred && !((((claimedFar : State).rx (1 :
      CtxNo).toNat).claims.filter (·.deferred)).map (·.port)).contains x.port) = some (aClaim : RClaim)) ∧
      (((claimedFar : State).rx (1 : CtxNo).toNat).ranks[(aClaim : RClaim).rank]? = some (((claimedFar.rx
      1).ranks[0]?).getD ⟨0, 0, none, 0, 0, 0, 0, 0, 0, false, 0⟩ : RRank)) ∧ (((claimedFar.rx 1).ranks[0]?).getD
      ⟨0, 0, none, 0, 0, 0, 0, 0, 0, false, 0⟩ : RRank).remote ∧
    ((((claimedAhead : State).rx (1 : CtxNo).toNat).claims.find? fun x => !x.deferred && !((((claimedAhead : State).rx
      (1 : CtxNo).toNat).claims.filter (·.deferred)).map (·.port)).contains x.port) = some (farClaim : RClaim)) ∧
      (((claimedAhead : State).rx (1 : CtxNo).toNat).ranks[(farClaim : RClaim).rank]? = some (((admitted.rx
      1).ranks[0]?).getD ⟨0, 0, none, 0, 0, 0, 0, 0, 0, false, 0⟩ : RRank)) ∧ ((((admitted.rx 1).ranks[0]?).getD ⟨0,
      0, none, 0, 0, 0, 0, 0, 0, false, 0⟩ : RRank).remote = false) ∧ ((claimedAhead : State).fitsWindow (1 :
      CtxNo).toNat (farClaim : RClaim).bytes = false) ∧
    ((((claimedLate : State).rx (1 : CtxNo).toNat).claims.find? fun x => x.deferred && (claimedLate : State).fitsWindow
      (1 : CtxNo).toNat x.bytes) = some ({ aClaim with deferred := true } : RClaim)) ∧
    ((queued : State).nextTile (0 : EngNo).toNat = some (31 : Nat)) ∧
    ((child : State).fromParent 0x21 (0 : PortNo).toNat (⟨parentPkt⟩ : CPkt).bytes = (some (1 : Nat), (child : State)))
      ∧ ((0 : Nat) = (child : State).rc (1 : Nat) rdxCtx_out_fmt) ∧ (child : State).collOk (1 : Nat) (0 : Nat)
      (⟨parentPkt⟩ : CPkt).bytes ∧ ((1 : Nat) = (pPsn (⟨parentPkt⟩ : CPkt).bytes + 2 ^ 24 - ((child : State).rx (1 :
      Nat)).parentCum) % 2 ^ 24) ∧ (1 : Nat) ≠ 0 ∧ (1 : Nat) ≤ 128 ∧ (bit ((child : State).rx (1 : Nat)).parentMap
      ((1 : Nat) - 1) = false) ∧ ((1 : Nat) = putBits ((child : State).rx (1 : Nat)).parentMap ((1 : Nat) - 1) 1 1)
      ∧ ((1 : Nat) = runLen 128 (1 : Nat)) ∧ ((child.setRx 1 { child.rx 1 with parentCum := 0, parentMap := 0 } :
      State) = (child : State).setRx (1 : Nat)
      { (child : State).rx (1 : Nat) with parentCum := (((child : State).rx (1 : Nat)).parentCum + (1 : Nat)) % 2 ^ 24, parentMap := (1 : Nat) / 2 ^ (1 : Nat) }) ∧
    ((child : State).fromParent 0x23 (0 : PortNo).toNat (⟨windowPkt⟩ : CPkt).bytes = (some (1 : Nat), (child : State))) := by
  and_intros <;> decide +kernel

/-- The hypotheses of ReleaseRows are met. -/
theorem test_meets_ReleaseRows :
    ((admitted.setRx 1 { admitted.rx 1 with ranks := [] } : State).subLive (1 : CtxNo).toNat) ∧ (((admitted.setRx 1
      { admitted.rx 1 with ranks := [] } : State).together (1 : CtxNo).toNat (0 : BitVec 64).toNat).contains (0 :
      BitVec 64).toNat) ∧ (((admitted.setRx 1 { admitted.rx 1 with ranks := [] } : State).together (1 : CtxNo).toNat
      (0 : BitVec 64).toNat).all ((admitted.setRx 1 { admitted.rx 1 with ranks := [] } : State).reached (1 :
      CtxNo).toNat)) ∧
    (([0] : List Nat) = (programmed : State).together (1 : CtxNo).toNat (0 : BitVec 64).toNat) ∧ (programmed :
      State).subLive (1 : CtxNo).toNat ∧ (([0] : List Nat).all (fun x => (((programmed : State).rx (1 :
      CtxNo).toNat).line x).epi)) ∧ ((0 : Nat) = (programmed : State).engOf (1 : CtxNo).toNat (0 : BitVec 64).toNat)
      ∧ ((0 : Nat) = (programmed : State).rc (1 : CtxNo).toNat rdxCtx_out_fmt) ∧ (([0] : List Nat) = ([0] : List
      Nat).flatMap (fun x => ((programmed : State).lineCodes (1 : CtxNo).toNat x 0).1)) ∧ ((programmed.writeSpace 2
      (epiScratch 0) (codeBytes 0 [0]) : State) = (programmed : State).writeSpace 2 (epiScratch 0) (codeBytes 0 ([0]
      : List Nat))) ∧ ((State.epiRun (2 ^ 21) true 0 0 0 (flatDesc 0 (epiScratch 0) 1) (flatDesc 0 (epiScratch 1) 1)
      (programmed.writeSpace 2 (epiScratch 0) (codeBytes 0 [0])) : Code × Exc × State) = State.epiRun (2 ^ 21) (([0]
      : List Nat).all fun x => (programmed : State).roundOf (1 : CtxNo).toNat x == (programmed : State).roundOf (1 :
      CtxNo).toNat (0 : BitVec 64).toNat) ((programmed : State).rc (1 : CtxNo).toNat rdxCtx_partition) (0 : Nat)
      ((programmed.writeSpace 2 (epiScratch 0) (codeBytes 0 [0]) : State).rc (1 : CtxNo).toNat rdxCtx_epi_prog)
      (flatDesc 0 (epiScratch 0) ([0] : List Nat).length) (flatDesc (0 : Nat) (epiScratch 1) ([0] : List
      Nat).length) (programmed.writeSpace 2 (epiScratch 0) (codeBytes 0 [0]) : State)) ∧ ((State.epiRun (2 ^ 21)
      true 0 0 0 (flatDesc 0 (epiScratch 0) 1) (flatDesc 0 (epiScratch 1) 1) (programmed.writeSpace 2 (epiScratch 0)
      (codeBytes 0 [0])) : Code × Exc × State).1 = .ok) ∧ (([0, 0, 0, 0] : List Byte) = (State.epiRun (2 ^ 21) true
      0 0 0 (flatDesc 0 (epiScratch 0) 1) (flatDesc 0 (epiScratch 1) 1) (programmed.writeSpace 2 (epiScratch 0)
      (codeBytes 0 [0])) : Code × Exc × State).2.2.readSpace 2 (epiScratch 1) (([0] : List Nat).length * fmtBytes (0
      : Nat))) ∧
    (((admitted.setRx 1 ((admitted.rx 1).withOut [(0, 5, [])]) : State).rx (1 : CtxNo).toNat).outq = ((0 : Nat), (5 :
      Nat), ([] : List Byte)) :: ([] : List (Nat × Nat × List Byte))) ∧
    (((admitted : State).rx (1 : CtxNo).toNat).outq = []) ∧
    (((admitted.setRx 1 { admitted.rx 1 with lines := [{ RLine.fresh 0 with res := some [] }] } : State).rx (1 :
      CtxNo).toNat).outq = []) ∧ ((admitted.setRx 1
      { admitted.rx 1 with lines := [{ RLine.fresh 0 with res := some [] }] } : State).sub (1 : CtxNo).toNat = 1 ∨
      (admitted.setRx 1 { admitted.rx 1 with lines := [{ RLine.fresh 0 with res := some [] }] } : State).sub (1 :
      CtxNo).toNat = 2) ∧ (lowest (((admitted.setRx 1
      { admitted.rx 1 with lines := [{ RLine.fresh 0 with res := some [] }] } : State).rx (1 :
      CtxNo).toNat).lines.filter fun y => y.res.isSome && y.resPsn.isNone) = some
      ({ RLine.fresh 0 with res := some [] } : RLine)) ∧ (((admitted.setRx 1
      { admitted.rx 1 with lines := [{ RLine.fresh 0 with res := some [] }] } : State).rx (1 :
      CtxNo).toNat).recvs.all (fun e => psnRoom ((admitted.setRx 1
      { admitted.rx 1 with lines := [{ RLine.fresh 0 with res := some [] }] } : State).rx (1 : CtxNo).toNat).psn
      e.2.txCum)) ∧ (((admitted.setRx 1
      { admitted.rx 1 with lines := [{ RLine.fresh 0 with res := some [], resPsn := some 0 }], psn := 1 }) : State)
      = (admitted.setRx 1 { admitted.rx 1 with lines := [{ RLine.fresh 0 with res := some [] }] } : State).setRx (1
      : CtxNo).toNat
      { ((admitted.setRx 1 { admitted.rx 1 with lines := [{ RLine.fresh 0 with res := some [] }] } : State).rx (1 : CtxNo).toNat).setLine { ({ RLine.fresh 0 with res := some [] } : RLine) with resPsn := some ((admitted.setRx 1 { admitted.rx 1 with lines := [{ RLine.fresh 0 with res := some [] }] } : State).rx (1 : CtxNo).toNat).psn } with psn := (((admitted.setRx 1 { admitted.rx 1 with lines := [{ RLine.fresh 0 with res := some [] }] } : State).rx (1 : CtxNo).toNat).psn + 1) % 2 ^ 24 })
      ∧ (([] : List (Nat × List Byte)) = ((admitted.setRx 1
      { admitted.rx 1 with lines := [{ RLine.fresh 0 with res := some [] }] } : State).rx (1 :
      CtxNo).toNat).recvs.filterMap (fun e => e.2.port.map fun q => (q, ((admitted.setRx 1
      { admitted.rx 1 with lines := [{ RLine.fresh 0 with res := some [], resPsn := some 0 }], psn := 1 }) :
      State).resultPkt (1 : CtxNo).toNat ({ RLine.fresh 0 with res := some [] } : RLine).g ((admitted.setRx 1
      { admitted.rx 1 with lines := [{ RLine.fresh 0 with res := some [] }] } : State).rx (1 : CtxNo).toNat).psn e.1
      e.2 (({ RLine.fresh 0 with res := some [] } : RLine).res.getD [])))) ∧
    (((admitted.setRx 1 { admitted.rx 1 with lines := [{ RLine.fresh 0 with part := some [] }], parentPort := some 0 } :
      State).rx (1 : CtxNo).toNat).outq = []) ∧ ((admitted.setRx 1
      { admitted.rx 1 with lines := [{ RLine.fresh 0 with part := some [] }], parentPort := some 0 } : State).sub (1
      : CtxNo).toNat = 1 ∨ (admitted.setRx 1
      { admitted.rx 1 with lines := [{ RLine.fresh 0 with part := some [] }], parentPort := some 0 } : State).sub (1
      : CtxNo).toNat = 2) ∧ (lowest (((admitted.setRx 1
      { admitted.rx 1 with lines := [{ RLine.fresh 0 with part := some [] }], parentPort := some 0 } : State).rx (1
      : CtxNo).toNat).lines.filter fun y => y.res.isSome && y.resPsn.isNone) = none) ∧ (lowest (((admitted.setRx 1
      { admitted.rx 1 with lines := [{ RLine.fresh 0 with part := some [] }], parentPort := some 0 } : State).rx (1
      : CtxNo).toNat).lines.filter fun y => y.part.isSome && y.partPsn.isNone && (((admitted.setRx 1
      { admitted.rx 1 with lines := [{ RLine.fresh 0 with part := some [] }], parentPort := some 0 } : State).rx (1
      : CtxNo).toNat).parentTop.all fun t => decide (y.g < t))) = some ({ RLine.fresh 0 with part := some [] } :
      RLine)) ∧ (psnRoom ((admitted.setRx 1
      { admitted.rx 1 with lines := [{ RLine.fresh 0 with part := some [] }], parentPort := some 0 } : State).rx (1
      : CtxNo).toNat).partPsn ((admitted.setRx 1
      { admitted.rx 1 with lines := [{ RLine.fresh 0 with part := some [] }], parentPort := some 0 } : State).rx (1
      : CtxNo).toNat).partCum) ∧ (((admitted.setRx 1
      { admitted.rx 1 with lines := [{ RLine.fresh 0 with part := some [] }], parentPort := some 0 } : State).rx (1
      : CtxNo).toNat).parentPort = some (0 : Nat)) ∧ (((admitted.setRx 1
      { admitted.rx 1 with lines := [{ RLine.fresh 0 with part := some [], partPsn := some 0 }], partPsn := 1, parentPort := some 0 })
      : State) = (admitted.setRx 1
      { admitted.rx 1 with lines := [{ RLine.fresh 0 with part := some [] }], parentPort := some 0 } : State).setRx
      (1 : CtxNo).toNat
      { ((admitted.setRx 1 { admitted.rx 1 with lines := [{ RLine.fresh 0 with part := some [] }], parentPort := some 0 } : State).rx (1 : CtxNo).toNat).setLine { ({ RLine.fresh 0 with part := some [] } : RLine) with partPsn := some ((admitted.setRx 1 { admitted.rx 1 with lines := [{ RLine.fresh 0 with part := some [] }], parentPort := some 0 } : State).rx (1 : CtxNo).toNat).partPsn } with partPsn := (((admitted.setRx 1 { admitted.rx 1 with lines := [{ RLine.fresh 0 with part := some [] }], parentPort := some 0 } : State).rx (1 : CtxNo).toNat).partPsn + 1) % 2 ^ 24 }) := by
  decide +kernel

/-- The hypotheses of RoostCommandRows are met. -/
theorem test_meets_RoostCommandRows :
    State.reset.opens (0 : Mst).toNat Blk.syn.page 0x110 (.syn : Blk) ∧ State.reset.synRow (0 : Mst).toNat 0 (bits
      (0xFFFFFFFF0000FFFF : Word).toNat 0 16) ∧ ((State.reset.signalPhys 65535 0 0xFFFFFFFF : Code × State) =
      State.reset.signalPhys (bits (0xFFFFFFFF0000FFFF : Word).toNat 0 16) (bits (0xFFFFFFFF0000FFFF : Word).toNat
      16 16) (bits (0xFFFFFFFF0000FFFF : Word).toNat 32 32)) ∧ ((State.reset.signalPhys 65535 0 0xFFFFFFFF : Code ×
      State).1 = .ok) ∧
    State.reset.opens (0 : Mst).toNat Blk.syn.page 0x118 (.syn : Blk) ∧ State.reset.synRow (0 : Mst).toNat 0 (bits
      (0xFFFF : Word).toNat 0 16) ∧
    ((.flagSet 0 0x0FFF : Instr), (true : Bool)) ∈ [(Instr.flagSet (0 : Mst) (0x0FFF : Word), true), (Instr.flagClr (0 :
      Mst) (0x0FFF : Word), false)] ∧ (bit (0x0FFF : Word).toNat 28 = !(true : Bool)) ∧ State.reset.opens (0 :
      Mst).toNat Blk.syn.page 0x120 (.syn : Blk) ∧ State.reset.synRow (0 : Mst).toNat 1 (bits (0x0FFF : Word).toNat
      0 12) ∧ ((State.reset.flagWrite 0 4095 0 true : Code × State) = State.reset.flagWrite (mst (0 : Mst).toNat)
      (bits (0x0FFF : Word).toNat 0 12) (bits (0x0FFF : Word).toNat 12 16) (true : Bool)) ∧ ((State.reset.flagWrite
      0 4095 0 true : Code × State).1 = .ok) ∧
    State.reset.opens (0 : Mst).toNat Blk.syn.page 0x128 (.syn : Blk) ∧ State.reset.synRow (0 : Mst).toNat 2 (bits
      (0x3FFF : Word).toNat 0 14) ∧ ((State.reset.arm 16383 : Code × State) = State.reset.arm (bits (0x3FFF :
      Word).toNat 0 14)) ∧ ((State.reset.arm 16383 : Code × State).1 = .ok) ∧
    (State.reset.pt .synWatch 0 0 synWatch_state 1 : State).opens (0 : Mst).toNat Blk.syn.page 0x130 (.syn : Blk) ∧
      (State.reset.pt .synWatch 0 0 synWatch_state 1 : State).synRow (0 : Mst).toNat 2 (bits (0 : Word).toNat 0 14)
      ∧ (((State.reset.pt .synWatch 0 0 synWatch_state 1).cancel 0 : Code × State) = (State.reset.pt .synWatch 0 0
      synWatch_state 1 : State).cancel (bits (0 : Word).toNat 0 14)) ∧ (((State.reset.pt .synWatch 0 0
      synWatch_state 1).cancel 0 : Code × State).1 = .ok) ∧
    (State.reset.pt .synBar 0 255 synBar_period 1 : State).opens (0 : Mst).toNat Blk.syn.page 0x138 (.syn : Blk) ∧
      (State.reset.pt .synBar 0 255 synBar_period 1 : State).synRow (0 : Mst).toNat 4 (bits (0x1FF : Word).toNat 0
      8) ∧ (bits (0x1FF : Word).toNat 8 2 = 1) ∧ (((State.reset.pt .synBar 0 255 synBar_period 1).barArm 255 : Code
      × State) = (State.reset.pt .synBar 0 255 synBar_period 1 : State).barArm (bits (0x1FF : Word).toNat 0 8)) ∧
      (((State.reset.pt .synBar 0 255 synBar_period 1).barArm 255 : Code × State).1 = .ok) ∧
    (State.reset.pt .synBar 0 255 synBar_armed 1 : State).opens (0 : Mst).toNat Blk.syn.page 0x138 (.syn : Blk) ∧
      (State.reset.pt .synBar 0 255 synBar_armed 1 : State).synRow (0 : Mst).toNat 4 (bits (0x2FF : Word).toNat 0 8)
      ∧ (bits (0x2FF : Word).toNat 8 2 = 2) ∧ (State.reset.pt .synBar 0 255 synBar_armed 1 : State).tb .synBar 0
      (bits (0x2FF : Word).toNat 0 8) synBar_armed ∧
    ((State.reset.signalPhys 0 0 0 : Code × State) = State.reset.signalAs (0 : Mst).toNat (0 : BitVec 16).toNat (0 :
      BitVec 16).toNat (0 : BitVec 32).toNat) ∧
    ((0 : Nat) = (State.reset.p .syn SYN_TBL_SEL_word 1 : State).g (.syn : Blk) SYN_TBL_SEL_table) ∧ ((0 : Nat) =
      (State.reset.p .syn SYN_TBL_SEL_word 1 : State).g (.syn : Blk) SYN_TBL_SEL_index) ∧ ((1 : Nat) =
      (State.reset.p .syn SYN_TBL_SEL_word 1 : State).g (.syn : Blk) SYN_TBL_SEL_word) ∧ (State.reset.p .syn
      SYN_TBL_SEL_word 1 : State).opens (0 : Mst).toNat Blk.syn.page 0x108 (.syn : Blk) ∧ (State.reset.p .syn
      SYN_TBL_SEL_word 1 : State).synRow (0 : Mst).toNat (0 : Nat) (0 : Nat) ∧ ((State.reset.p .syn SYN_TBL_SEL_word
      1 : State).storeTw (synTbl (0 : Nat)) 0 (0 : Nat) (1 : Nat) (0 : Word).toNat).synRow (0 : Mst).toNat (0 : Nat)
      (0 : Nat) ∧ ((fieldsAt (synTbl (0 : Nat)).fields (1 : Nat)).any (·.acc == .rw)) ∧ ((State.reset.p .syn
      SYN_TBL_SEL_word 1 : State).synBarred (0 : Nat) (0 : Nat) = false) ∧ ((0 : Nat) < 3 ∨ (0 : Nat) = 4) ∧ (0 :
      Nat) < synCount (0 : Nat) ∧ tblOk (synTbl (0 : Nat)) (1 : Nat) (0 : Word).toNat := by
  and_intros <;> decide +kernel

/-- The hypotheses of WaitDetectorRows are met. -/
theorem test_meets_WaitDetectorRows :
    State.reset.opens (0 : Mst).toNat Blk.syn.page 0x150 (.syn : Blk) ∧ bit (1 : Word).toNat 0 := by
  decide +kernel

/-- The hypotheses of ListCommandRows are met. -/
theorem test_meets_ListCommandRows :
    ((.pause 0 2 : Instr), (2 : Nat), (runState.gangPause 0 0 : Code × State)) ∈ [(Instr.start (0 : Mst) (2 : Word), 1,
      (runState : State).gangStart (bits (2 : Word).toNat 3 4) (bits (2 : Word).toNat 7 2) ((runState : State).g
      (.mac 0 : Blk) MAC_CMD_ADDR_pc) (bit (2 : Word).toNat 9)), (Instr.pause (0 : Mst) (2 : Word), 2, (runState :
      State).gangPause (bits (2 : Word).toNat 3 4) (bits (2 : Word).toNat 7 2)), (Instr.resume (0 : Mst) (2 : Word),
      3, (runState : State).gangResume (bits (2 : Word).toNat 3 4) (bits (2 : Word).toNat 7 2)), (Instr.stop (0 :
      Mst) (2 : Word), 4, (runState : State).gangStop (bits (2 : Word).toNat 3 4) (bits (2 : Word).toNat 7 2))] ∧
      (bits (2 : Word).toNat 0 3 = (2 : Nat)) ∧ (runState : State).opens (0 : Mst).toNat gangPage.page 0x228 (.mac 0
      : Blk) ∧ partRow (0 : Mst).toNat (bits (2 : Word).toNat 3 4) ∧ ((runState.gangPause 0 0 : Code × State).1 =
      .ok) ∧
    ((pausing : State).gl (0 : PartNo).toNat (0 : ListNo).toNat).pausing ∧ ((pausing : State).lst (0 : PartNo).toNat (0
      : ListNo).toNat = .running) ∧ (([] : List GOp) = ((pausing : State).opsOf (0 : PartNo).toNat (0 :
      ListNo).toNat).filter (fun o => !o.saved && (o.wait == .run || (o.wait == .done && gangClass o.ins ((pausing :
      State).dsc o) != 2)))) ∧ (([] : List GOp).all (fun o => (o.ins.family == 3 || o.ins.family == 4) && o.wait ==
      .run)) ∧ ((pausing : State) = ([] : List GOp).foldl State.saveProduct (pausing : State)) ∧
    (1 : BitVec 2).toNat < 2 ∧ (State.reset.onOps [opOf 5 0 .run false] : State).classBusy (1 : BitVec 2).toNat ∧
    (0 : BitVec 2).toNat < 2 ∧ ((savedState : State).classBusy (0 : BitVec 2).toNat = false) ∧ ((((savedState :
      State).gangOffers (0 : BitVec 2).toNat ((savedState : State).drawWide 1).1).any fun o => o.2.isSome) = true) ∧
      (((savedState.drawWide 1).2.drrTurn 0 (savedState.gangOffers 0 (savedState.drawWide 1).1) (offerTurns
      (savedState.gangOffers 0 (savedState.drawWide 1).1)) : Option (Nat × Nat) × State) = ((savedState :
      State).drawWide 1).2.drrTurn (0 : BitVec 2).toNat ((savedState : State).gangOffers (0 : BitVec 2).toNat
      ((savedState : State).drawWide 1).1) (offerTurns ((savedState : State).gangOffers (0 : BitVec 2).toNat
      ((savedState : State).drawWide 1).1))) ∧ (((savedState.drawWide 1).2.drrTurn 0 (savedState.gangOffers 0
      (savedState.drawWide 1).1) (offerTurns (savedState.gangOffers 0 (savedState.drawWide 1).1)) : Option (Nat ×
      Nat) × State).1 = some ((0 : Nat), (0 : Nat))) ∧
    ((2 : BitVec 2).toNat = 2) ∧ ((runState : State).freeWork = some ((0 : Nat), (0 : Nat))) := by
  decide +kernel

/-- The hypotheses of InstructionRows are met. -/
theorem test_meets_InstructionRows :
    ((.rcvFirst 0 0 : Instr), ((9, 2) : Nat × Nat), (runState.onOps [opOf 9 2 (.recv [0, 0, 0, 0]) false] : State)) ∈
      [(Instr.rcvFirst (0 : PartNo) (0 : ListNo), (9, 2), (runState.onOps [opOf 9 2 .run false] : State).carryFirst
      (opOf 9 2 .run false : GOp)), (Instr.cntFetch (0 : PartNo) (0 : ListNo), (12, 0), (runState.onOps [opOf 9 2
      .run false] : State).carryFetch (opOf 9 2 .run false : GOp)), (Instr.ldw (0 : PartNo) (0 : ListNo), (1, 0),
      (runState.onOps [opOf 9 2 .run false] : State).carryLdw (opOf 9 2 .run false : GOp)), (Instr.stw (0 : PartNo)
      (0 : ListNo), (2, 0), (runState.onOps [opOf 9 2 .run false] : State).carryStw (opOf 9 2 .run false : GOp)),
      (Instr.mm (0 : PartNo) (0 : ListNo), (3, 0), (runState.onOps [opOf 9 2 .run false] : State).carryProduct (opOf
      9 2 .run false : GOp)), (Instr.mmtDx (0 : PartNo) (0 : ListNo), (4, 1), (runState.onOps [opOf 9 2 .run false]
      : State).carryProduct (opOf 9 2 .run false : GOp)), (Instr.mmtDw (0 : PartNo) (0 : ListNo), (4, 2),
      (runState.onOps [opOf 9 2 .run false] : State).carryProduct (opOf 9 2 .run false : GOp)), (Instr.epi (0 :
      PartNo) (0 : ListNo), (5, 0), (runState.onOps [opOf 9 2 .run false] : State).carryEpi (opOf 9 2 .run false :
      GOp)), (Instr.cvt (0 : PartNo) (0 : ListNo), (6, 0), (runState.onOps [opOf 9 2 .run false] : State).carryCvt
      (opOf 9 2 .run false : GOp)), (Instr.rdxOp (0 : PartNo) (0 : ListNo), (7, 0), (runState.onOps [opOf 9 2 .run
      false] : State).carryRdx (opOf 9 2 .run false : GOp)), (Instr.snd (0 : PartNo) (0 : ListNo), (8, 0),
      (runState.onOps [opOf 9 2 .run false] : State).carrySnd (opOf 9 2 .run false : GOp)), (Instr.rcvPostWait (0 :
      PartNo) (0 : ListNo), (9, 0), (runState.onOps [opOf 9 2 .run false] : State).carryRcv (opOf 9 2 .run false :
      GOp)), (Instr.rcvPost (0 : PartNo) (0 : ListNo), (9, 1), (runState.onOps [opOf 9 2 .run false] :
      State).carryRcv (opOf 9 2 .run false : GOp)), (Instr.waitCounter (0 : PartNo) (0 : ListNo), (10, 0),
      (runState.onOps [opOf 9 2 .run false] : State).carryWait (opOf 9 2 .run false : GOp)), (Instr.waitFlag (0 :
      PartNo) (0 : ListNo), (10, 1), (runState.onOps [opOf 9 2 .run false] : State).carryWait (opOf 9 2 .run false :
      GOp)), (Instr.sigAdd (0 : PartNo) (0 : ListNo), (11, 0), (runState.onOps [opOf 9 2 .run false] :
      State).carrySig (opOf 9 2 .run false : GOp)), (Instr.sigSet (0 : PartNo) (0 : ListNo), (11, 1),
      (runState.onOps [opOf 9 2 .run false] : State).carrySig (opOf 9 2 .run false : GOp)), (Instr.sigClr (0 :
      PartNo) (0 : ListNo), (11, 2), (runState.onOps [opOf 9 2 .run false] : State).carrySig (opOf 9 2 .run false :
      GOp)), (Instr.cntCounts (0 : PartNo) (0 : ListNo), (12, 1), (runState.onOps [opOf 9 2 .run false] :
      State).carryCounts (opOf 9 2 .run false : GOp)), (Instr.digTree (0 : PartNo) (0 : ListNo), (13, 0),
      (runState.onOps [opOf 9 2 .run false] : State).carryDig (opOf 9 2 .run false : GOp)), (Instr.digAudit (0 :
      PartNo) (0 : ListNo), (13, 1), (runState.onOps [opOf 9 2 .run false] : State).carryDig (opOf 9 2 .run false :
      GOp)), (Instr.smpSeeded (0 : PartNo) (0 : ListNo), (14, 0), (runState.onOps [opOf 9 2 .run false] :
      State).carrySmp (opOf 9 2 .run false : GOp)), (Instr.smpEntropy (0 : PartNo) (0 : ListNo), (14, 1),
      (runState.onOps [opOf 9 2 .run false] : State).carrySmp (opOf 9 2 .run false : GOp))] ∧ ((runState.onOps [opOf
      9 2 .run false] : State).toRun (0 : PartNo).toNat (0 : ListNo).toNat ((9, 2) : Nat × Nat).1 ((9, 2) : Nat ×
      Nat).2 = some (opOf 9 2 .run false : GOp)) ∧ (runState.onOps [opOf 9 2 .run false] : State).pins.faultN ∧
    ((runState.onOps [opOf 0 0 .run false] : State).toRun (0 : PartNo).toNat (0 : ListNo).toNat 0 0 = some (opOf 0 0
      .run false : GOp)) ∧ (((runState.onOps [opOf 0 0 .run false] : State).opsOf (0 : PartNo).toNat (0 :
      ListNo).toNat).head? = some (opOf 0 0 .run false : GOp)) ∧ (runState.onOps [opOf 0 0 .run false] : State).lst
      (0 : PartNo).toNat (0 : ListNo).toNat ≠ .paused ∧ ((opOf 0 0 .run false : GOp).code = .ok) := by
  decide +kernel

/-- The hypotheses of CompletionRows are met. -/
theorem test_meets_CompletionRows :
    (((State.reset.onOps [opOf 10 0 (.watch 3 7) false] : State).gang.ops.find? fun x => x.wait == .watch (⟨3, 7⟩ :
      Arming).slot.toNat (⟨3, 7⟩ : Arming).seq.toNat) = some (opOf 10 0 (.watch 3 7) false : GOp)) ∧
    ((State.reset.gang.ops.find? fun x => x.wait == .watch (⟨3, 7⟩ : Arming).slot.toNat (⟨3, 7⟩ : Arming).seq.toNat) =
      none) ∧
    ((runState.onOps [opOf 6 0 .done false] : State).lst (0 : PartNo).toNat (0 : ListNo).toNat ≠ .paused ∨
      ((runState.onOps [opOf 6 0 .done false] : State).gl (0 : PartNo).toNat (0 : ListNo).toNat).stopping) ∧
      (((runState.onOps [opOf 6 0 .done false] : State).gl (0 : PartNo).toNat (0 : ListNo).toNat).full = false) ∧
      (((runState.onOps [opOf 6 0 .done false] : State).opsOf (0 : PartNo).toNat (0 : ListNo).toNat).findSome?
      (runState.onOps [opOf 6 0 .done false] : State).ready = some ((opOf 6 0 .done false : GOp), (runState.onOps
      [opOf 6 0 .done false] : State))) ∧
    ((ringRoom [opOf 6 0 .done false] : State).gl (0 : PartNo).toNat (0 : ListNo).toNat).full ∧ ((ringRoom [opOf 6 0
      .done false] : State).ringFull (0 : PartNo).toNat = false) ∧ ((((ringRoom [opOf 6 0 .done false] :
      State).noWait (0 : PartNo).toNat (0 : ListNo).toNat).opsOf (0 : PartNo).toNat (0 : ListNo).toNat).find? (fun x
      => x.wait == .done) = some (opOf 6 0 .done false : GOp)) ∧
    2 ^ (State.reset.p gangPage H_LAG_ops 1000000 : State).g gangPage MAC_GANG_CFG_lag_window ≤ (State.reset.p gangPage
      H_LAG_ops 1000000 : State).g gangPage H_LAG_ops := by
  decide +kernel

/-- The hypotheses of TrainingRows are met. -/
theorem test_meets_TrainingRows :
    (State.reset.ple 0 0 macLayer_retained 1 : State).opens (0 : Mst).toNat gangPage.page 0x310 (.mac 0 : Blk) ∧ (bits
      (1 : Word).toNat 0 2 = 1) ∧ partRow (0 : Mst).toNat (bits (1 : Word).toNat 2 4) ∧ (State.reset.ple 0 0
      macLayer_retained 1 : State).retained (bits (1 : Word).toNat 2 4) (bits (1 : Word).toNat 6 8) ∧
    State.reset.opens (0 : Mst).toNat gangPage.page 0x310 (.mac 0 : Blk) ∧ (bits (2 : Word).toNat 0 2 = 2) ∧ partRow (0
      : Mst).toNat (bits (2 : Word).toNat 2 4) ∧
    State.reset.opens (0 : Mst).toNat gangPage.page 0x308 (.mac 0 : Blk) ∧ ((0 : Nat) = State.reset.g (.mac 0 : Blk)
      MAC_TRAIN_SEL_partition) ∧ ((0 : Nat) = State.reset.g (.mac 0 : Blk) MAC_TRAIN_SEL_word) ∧ ((.macLayer : Tbl)
      = (if State.reset.gb (.mac 0 : Blk) MAC_TRAIN_SEL_table then Tbl.macTrain else Tbl.macLayer)) ∧ ((0 : Nat) =
      (if State.reset.gb (.mac 0 : Blk) MAC_TRAIN_SEL_table then (0 : Nat) else (0 : Nat) * 256 + State.reset.g
      (.mac 0 : Blk) MAC_TRAIN_SEL_entry)) ∧ ownRow (0 : Mst).toNat (0 : Nat) ∧ ((fieldsAt (.macLayer : Tbl).fields
      (0 : Nat)).any (·.acc == .rw)) ∧ State.reset.listsIdle (0 : Nat) ∧ tblOk (.macLayer : Tbl) (0 : Nat) (0 :
      Word).toNat ∧ trainAligned (State.reset.gb (.mac 0 : Blk) MAC_TRAIN_SEL_table) (0 : Nat) (0 : Word).toNat ∧
    (State.reset.p (.mac 0) MAC_PT_SEL_word 1 : State).opens (0 : Mst).toNat gangPage.page 0x220 (.mac 0 : Blk) ∧ ((0 :
      Nat) = (State.reset.p (.mac 0) MAC_PT_SEL_word 1 : State).g (.mac 0 : Blk) MAC_PT_SEL_partition) ∧ ((1 : Nat)
      = (State.reset.p (.mac 0) MAC_PT_SEL_word 1 : State).g (.mac 0 : Blk) MAC_PT_SEL_word) ∧ ptWriter (0 :
      Mst).toNat (0 : Nat) ∧ ((1 : Nat) ∈ [1, 2, 3, 5] → (State.reset.p (.mac 0) MAC_PT_SEL_word 1 :
      State).listsIdle (0 : Nat)) ∧ ((1 : Nat) = 0 → bit (0 : Word).toNat 24 → (State.reset.p (.mac 0)
      MAC_PT_SEL_word 1 : State).otherT (0 : Nat) = false) ∧ tblOk .macPart (1 : Nat) (0 : Word).toNat ∧ ((1 : Nat)
      = 1 ∨ (1 : Nat) = 3 → bits (0 : Word).toNat 0 48 % 4096 = 0) := by
  decide +kernel

/-- The hypotheses of ChrysalisCommandRows are met. -/
theorem test_meets_ChrysalisCommandRows :
    ((.putCert 16 0 14 : Instr), (14 : Nat), ((State.reset.p .chr CHR_LIFECYCLE_state 0).chrPutCert 14 : Code × State))
      ∈ [(Instr.putCert (16 : Mst) (0 : ChrSlot) (14 : Word), 14, (State.reset.p .chr CHR_LIFECYCLE_state 0 :
      State).chrPutCert (14 : Word).toNat), (Instr.assign (16 : Mst) (0 : ChrSlot) (14 : Word), 2, (State.reset.p
      .chr CHR_LIFECYCLE_state 0 : State).chrAssign (14 : Word).toNat), (Instr.unassign (16 : Mst) (0 : ChrSlot) (14
      : Word), 3, (State.reset.p .chr CHR_LIFECYCLE_state 0 : State).chrUnassign (14 : Word).toNat),
      (Instr.partitionReset (16 : Mst) (0 : ChrSlot) (14 : Word), 4, (State.reset.p .chr CHR_LIFECYCLE_state 0 :
      State).chrReset (0 : ChrSlot).toNat (14 : Word).toNat), (Instr.release (16 : Mst) (0 : ChrSlot) (14 : Word),
      5, (State.reset.p .chr CHR_LIFECYCLE_state 0 : State).chrRelease (14 : Word).toNat), (Instr.setRegion (16 :
      Mst) (0 : ChrSlot) (14 : Word), 6, (State.reset.p .chr CHR_LIFECYCLE_state 0 : State).chrSetRegion (14 :
      Word).toNat), (Instr.setAcl (16 : Mst) (0 : ChrSlot) (14 : Word), 7, (State.reset.p .chr CHR_LIFECYCLE_state 0
      : State).chrSetAcl (14 : Word).toNat)] ∧ (chrOp (14 : Word).toNat = (14 : Nat)) ∧ (0 : ChrSlot).toNat < 17 ∧
      (State.reset.p .chr CHR_LIFECYCLE_state 0 : State).opens (16 : Mst).toNat Blk.chr.page (0x200 + 0x20 * (0 :
      ChrSlot).toNat) (.chr : Blk) ∧ (mst (16 : Mst).toNat = 0x10 + (0 : ChrSlot).toNat) ∧ (bit ((State.reset.p .chr
      CHR_LIFECYCLE_state 0 : State).reg (.chr : Blk) (0x218 + 0x20 * (0 : ChrSlot).toNat)) 8 = false) ∧ ((0 :
      ChrSlot).toNat = 0 ∨ (14 : Nat) = 4) ∧ ((State.reset.p .chr CHR_LIFECYCLE_state 0 : State).chrAsleep (0 :
      ChrSlot).toNat (14 : Nat) = false) ∧ (((State.reset.p .chr CHR_LIFECYCLE_state 0).chrPutCert 14 : Code ×
      State).1 = .ok) ∧
    ((.claimOwner 16 0 11 : Instr), (11 : Nat), (0 : Nat), ((State.reset.p .chr CHR_LIFECYCLE_state 1).chrClaim : Code ×
      State)) ∈ [(Instr.claimOwner (16 : Mst) (0 : ChrSlot) (11 : Word), 11, 0, (State.reset.p .chr
      CHR_LIFECYCLE_state 1 : State).chrClaim), (Instr.create (16 : Mst) (0 : ChrSlot) (11 : Word), 1, 0,
      (State.reset.p .chr CHR_LIFECYCLE_state 1 : State).chrCreate (11 : Word).toNat), (Instr.keyImport (16 : Mst)
      (0 : ChrSlot) (11 : Word), 8, 0, (State.reset.p .chr CHR_LIFECYCLE_state 1 : State).chrKeyImport (0 :
      ChrSlot).toNat), (Instr.unwrap (16 : Mst) (0 : ChrSlot) (11 : Word), 9, 1, (State.reset.p .chr
      CHR_LIFECYCLE_state 1 : State).chrUnwrap (16 : Mst).toNat (0 : ChrSlot).toNat), (Instr.attest (16 : Mst) (0 :
      ChrSlot) (11 : Word), 10, 0, (State.reset.p .chr CHR_LIFECYCLE_state 1 : State).chrAttest (16 : Mst).toNat (0
      : ChrSlot).toNat (11 : Word).toNat), (Instr.lifecycle (16 : Mst) (0 : ChrSlot) (11 : Word), 12, 0,
      (State.reset.p .chr CHR_LIFECYCLE_state 1 : State).chrLifecycle), (Instr.chrChallenge (16 : Mst) (0 : ChrSlot)
      (11 : Word), 13, 0, (State.reset.p .chr CHR_LIFECYCLE_state 1 : State).chrChallenge (16 : Mst).toNat (0 :
      ChrSlot).toNat)] ∧ (chrOp (11 : Word).toNat = (11 : Nat)) ∧ (0 : ChrSlot).toNat < 17 ∧ (State.reset.p .chr
      CHR_LIFECYCLE_state 1 : State).opens (16 : Mst).toNat Blk.chr.page (0x200 + 0x20 * (0 : ChrSlot).toNat) (.chr
      : Blk) ∧ (mst (16 : Mst).toNat = 0x10 + (0 : ChrSlot).toNat) ∧ (bit ((State.reset.p .chr CHR_LIFECYCLE_state 1
      : State).reg (.chr : Blk) (0x218 + 0x20 * (0 : ChrSlot).toNat)) 8 = false) ∧ ((0 : ChrSlot).toNat = 0 ∧ (11 :
      Nat) ≠ 8 ∧ (11 : Nat) ≠ 9 ∨ (0 : ChrSlot).toNat ≠ 0 ∧ ((11 : Nat) = 8 ∨ (11 : Nat) = 9 ∨ (11 : Nat) = 10)) ∧
      ((State.reset.p .chr CHR_LIFECYCLE_state 1 : State).chrAsleep (0 : ChrSlot).toNat (11 : Nat) = false) ∧
      (((State.reset.p .chr CHR_LIFECYCLE_state 1).chrClaim : Code × State).1 = .ok) ∧
    (nextSlot ((State.reset.addJob ⟨.chr, 3, 0x218, .ok, 0, 0, 0⟩ : State).sec.turns.getD (0 : BitVec 2).toNat 16)
      (((State.reset.addJob ⟨.chr, 3, 0x218, .ok, 0, 0, 0⟩ : State).jobs.filter fun x => x.kind == .chr && x.a == (0
      : BitVec 2).toNat).map (·.b)) = some (0 : Nat)) ∧ (((State.reset.addJob ⟨.chr, 3, 0x218, .ok, 0, 0, 0⟩ :
      State).jobs.filter fun x => x.kind == .chr && x.a == (0 : BitVec 2).toNat).find? (·.b == (0 : Nat)) = some
      (⟨.chr, 3, 0x218, .ok, 0, 0, 0⟩ : Job)) ∧ ((((State.reset.addJob ⟨.chr, 3, 0x218, .ok, 0, 0, 0⟩).dropJob .chr
      3 0x218).finish .chr 0x218 .ok : State) = ((State.reset.addJob ⟨.chr, 3, 0x218, .ok, 0, 0, 0⟩ : State).dropJob
      .chr (⟨.chr, 3, 0x218, .ok, 0, 0, 0⟩ : Job).page (⟨.chr, 3, 0x218, .ok, 0, 0, 0⟩ : Job).off).finish .chr
      (⟨.chr, 3, 0x218, .ok, 0, 0, 0⟩ : Job).off (⟨.chr, 3, 0x218, .ok, 0, 0, 0⟩ : Job).code) ∧
    (State.reset.pt .chrRegion 0 0 chrRegion_erasing 1 : State).tb .chrRegion 0 (0 : BitVec 10).toNat chrRegion_erasing
      ∧ ((State.reset.pt .chrRegion 0 0 chrRegion_erasing 1 : State).sec.unzeroed.contains (0 : BitVec 10).toNat =
      false) ∧ ((0 : Nat) = (State.reset.pt .chrRegion 0 0 chrRegion_erasing 1 : State).t .chrRegion 0 (0 : BitVec
      10).toNat chrRegion_space) ∧
    (State.reset.pt .chrRegion 0 0 chrRegion_erasing 1 : State).tb .chrRegion 0 (0 : BitVec 10).toNat chrRegion_erasing
      ∧ ((State.reset.pt .chrRegion 0 0 chrRegion_erasing 1 : State).sec.unzeroed.contains (0 : BitVec 10).toNat =
      false) := by
  decide +kernel

/-- The hypotheses of ProboscisRows are met. -/
theorem test_meets_ProboscisRows :
    (State.reset.setPwrgd true : State).pins.pwrgd ∧
    (probed 0 : State).probing ∧
    (probed 0 : State).probing ∧ ((probed 0 : State).sec.entropyBad = false) ∧
    (probed 0 : State).probing ∧
    (probed 1 : State).probing ∧ (dbgBad (0 : BitVec 2).toNat (0 : BitVec 52).toNat (2 : BitVec 9).toNat false = false)
      ∧ (probed 1 : State).reaches (0 : BitVec 2).toNat (0 : BitVec 52).toNat (2 : BitVec 9).toNat false ∧ ((probed
      1 : State).dbgTarget (0 : BitVec 2).toNat (0 : BitVec 52).toNat (2 : BitVec 9).toNat = .ok) ∧
    (probed 3 : State).probing ∧ (dbgBad (1 : BitVec 2).toNat (0 : BitVec 52).toNat ([1] : List (BitVec 32)).length true
      = false) ∧ (probed 3 : State).reaches (1 : BitVec 2).toNat (0 : BitVec 52).toNat ([1] : List (BitVec
      32)).length true ∧ ((probed 3 : State).dbgTarget (1 : BitVec 2).toNat (0 : BitVec 52).toNat ([1] : List
      (BitVec 32)).length = .ok) ∧ (((.ok, (probed 3).writeSpace 0 0 (leBytes 4 1)) : Code × State) = (if (1 :
      BitVec 2).toNat = 0 then State.dbgRegs (([1] : List (BitVec 32)).map (·.toNat)) (0 : BitVec 52).toNat (probed
      3 : State) else (.ok, (probed 3 : State).writeSpace ((1 : BitVec 2).toNat - 1) (0 : BitVec 52).toNat ((([1] :
      List (BitVec 32)).map (·.toNat)).flatMap (leBytes 4))))) ∧
    (probed 3 : State).probing ∧ ((0 : Byte).toNat < 16 ∨ (0 : Byte).toNat = 0xFF) ∧ (probed 3 : State).mayHalt (0 :
      Byte).toNat ∧
    (probed 3 : State).probing ∧ ((0 : Byte).toNat < 16 ∨ (0 : Byte).toNat = 0xFF) ∧ (probed 3 : State).mayHalt (0 :
      Byte).toNat ∧
    (probed 0 : State).probing := by
  decide +kernel

/-- The hypotheses of BootRows are met. -/
theorem test_meets_BootRows :
    ((State.reset.setPwrgd false : State).pins.pwrgd = false) ∧
    ((State.reset.setResetN false : State).pins.resetN = false) ∧
    (bootable : State).bootAt 0 ∧ ((((bootable : State).pickSlots (([] : List (BitVec 8)).map
      (·.toNat))).bootAlias).boot.recovery = false) ∧
    ((State.reset.startBoot).setDone 1 : State).bootAt 1 ∧
    ((State.reset.startBoot).setDone 2 : State).bootAt 2 ∧
    ((State.reset.startBoot).setDone 3 : State).bootAt 3 ∧
    ((State.reset.setDone 4 : State).boot.done = 4) ∧ (State.reset.setDone 4 : State).bootReady ∧
    ((State.reset.startBoot).setDone 1 : State).bootAt 1 := by
  decide +kernel

/-- The hypotheses of PowerRows are met. -/
theorem test_meets_PowerRows :
    ((.pupa 0 1 : Instr), (1 : Nat)) ∈ [(Instr.pupa (0 : Mst) (1 : Word), 1), (Instr.diapause (0 : Mst) (1 : Word), 2),
      (Instr.wake (0 : Mst) (1 : Word), 3), (Instr.saveProfile (0 : Mst) (1 : Word), 4)] ∧ (bits (1 : Word).toNat 0
      3 = (1 : Nat)) ∧ State.reset.opens (0 : Mst).toNat Blk.pwr.page PWR_CMD_op.off (.pwr : Blk) ∧ (State.reset.gb
      (.pwr : Blk) PWR_STATE_busy = false) ∧ ((State.reset.pwrRun 0 1 : Code × State) = State.reset.pwrRun (0 :
      Mst).toNat (1 : Nat)) ∧ ((State.reset.pwrRun 0 1 : Code × State).1 = .ok) ∧
    ((State.reset.setDiapause 1 : State).boot.diapause = 1) ∧
    ((State.reset.startMove 1 : State).job .powerMove Blk.pwr.page 0 = some (⟨.powerMove, Blk.pwr.page, 0, .ok, 1, 0, 0⟩
      : Job)) ∧ ((⟨.powerMove, Blk.pwr.page, 0, .ok, 1, 0, 0⟩ : Job).a = 2 → (State.reset.startMove 1 :
      State).boot.diapause = 2) ∧
    ((State.reset.addJob ⟨.saveProfile, Blk.pwr.page, 0, .ok, 0, 0, 0⟩ : State).job .saveProfile Blk.pwr.page 0 = some
      (⟨.saveProfile, Blk.pwr.page, 0, .ok, 0, 0, 0⟩ : Job)) ∧
    ((State.reset.addJob ⟨.saveProfile, Blk.pwr.page, 0, .ok, 0, 0, 0⟩ : State).job .saveProfile Blk.pwr.page 0 = some
      (⟨.saveProfile, Blk.pwr.page, 0, .ok, 0, 0, 0⟩ : Job)) ∧
    State.reset.g .pwr PWR_THERM_trip_c ≤ (127 : Byte).toNat ∧
    (State.reset.blk (BitVec.ofNat 14 (Blk.hbm 0).page : Pg).toNat = some (.hbm (0 : Nat))) ∧ ((.hbm 0 : Blk) = .hbm (0
      : Nat)) ∧ State.reset.opens (0 : Mst).toNat (BitVec.ofNat 14 (Blk.hbm 0).page : Pg).toNat HBM_CMD_op.off (.hbm
      0 : Blk) ∧ (bit (State.reset.reg (.hbm 0 : Blk) HBM_CMD_STATUS_code.off) 8 = false) ∧ (bits (1 : Word).toNat 0
      2 = 1) ∧ ((0 : Nat) = State.reset.g (.hbm 0 : Blk) HBM_CMD_ADDR_addr) ∧ (0 : Nat) < 36 * 10 ^ 9 ∧
      State.reset.g (.hbm 0 : Blk) HBM_REPAIRS_rows < 256 ∧
    ((State.reset.addJob ⟨.hbmRepair, (Blk.hbm 0).page, HBM_CMD_STATUS_code.off, .ok, 0, 0, 0⟩ : State).blk
      (BitVec.ofNat 14 (Blk.hbm 0).page : Pg).toNat = some (.hbm (0 : Nat))) ∧ ((.hbm 0 : Blk) = .hbm (0 : Nat)) ∧
      ((State.reset.addJob ⟨.hbmRepair, (Blk.hbm 0).page, HBM_CMD_STATUS_code.off, .ok, 0, 0, 0⟩ : State).job
      .hbmRepair (.hbm 0 : Blk).page HBM_CMD_STATUS_code.off = some (⟨.hbmRepair, (Blk.hbm 0).page,
      HBM_CMD_STATUS_code.off, .ok, 0, 0, 0⟩ : Job)) ∧
    ((State.reset.addJob ⟨.hbmRepair, (Blk.hbm 0).page, HBM_CMD_STATUS_code.off, .ok, 0, 0, 0⟩ : State).blk
      (BitVec.ofNat 14 (Blk.hbm 0).page : Pg).toNat = some (.hbm (0 : Nat))) ∧ ((.hbm 0 : Blk) = .hbm (0 : Nat)) ∧
      ((State.reset.addJob ⟨.hbmRepair, (Blk.hbm 0).page, HBM_CMD_STATUS_code.off, .ok, 0, 0, 0⟩ : State).job
      .hbmRepair (.hbm 0 : Blk).page HBM_CMD_STATUS_code.off = some (⟨.hbmRepair, (Blk.hbm 0).page,
      HBM_CMD_STATUS_code.off, .ok, 0, 0, 0⟩ : Job)) := by
  decide +kernel

/-- The hypotheses of FirmwareRows are met. -/
theorem test_meets_FirmwareRows :
    ((.restart 0 (BitVec.ofNat 14 (Blk.stwC 0).page) 6 : Instr), (6 : Nat)) ∈ [(Instr.restart (0 : Mst) (BitVec.ofNat 14
      (Blk.stwC 0).page : Pg) (6 : Word), 6), (Instr.activate (0 : Mst) (BitVec.ofNat 14 (Blk.stwC 0).page : Pg) (6
      : Word), 2), (Instr.commit (0 : Mst) (BitVec.ofNat 14 (Blk.stwC 0).page : Pg) (6 : Word), 3), (Instr.rollback
      (0 : Mst) (BitVec.ofNat 14 (Blk.stwC 0).page : Pg) (6 : Word), 4), (Instr.discard (0 : Mst) (BitVec.ofNat 14
      (Blk.stwC 0).page : Pg) (6 : Word), 5)] ∧ (bits (6 : Word).toNat 0 3 = (6 : Nat)) ∧ (State.reset.blk
      (BitVec.ofNat 14 (Blk.stwC 0).page : Pg).toNat = some (.stwC 0 : Blk)) ∧ ((.stwC 0 : Blk).isSteward ∨ (.stwC 0
      : Blk) = .thx) ∧ State.reset.opens (0 : Mst).toNat (BitVec.ofNat 14 (Blk.stwC 0).page : Pg).toNat (fw (.stwC 0
      : Blk) FW_CMD_op).off (.stwC 0 : Blk) ∧ (bit (State.reset.reg (.stwC 0 : Blk) (fw (.stwC 0 : Blk)
      FW_CMD_STATUS_code).off) 8 = false) ∧ ((State.reset.fwRun 0 (.stwC 0) 6 : Code × State) = State.reset.fwRun (0
      : Mst).toNat (.stwC 0 : Blk) (6 : Word).toNat) ∧ ((State.reset.fwRun 0 (.stwC 0) 6 : Code × State).1 = .ok) ∧
    (bits (1 : Word).toNat 0 3 = 1) ∧ (State.reset.blk (BitVec.ofNat 14 (Blk.stwC 0).page : Pg).toNat = some (.stwC 0 :
      Blk)) ∧ ((.stwC 0 : Blk).isSteward ∨ (.stwC 0 : Blk) = .thx) ∧ State.reset.opens (0 : Mst).toNat (BitVec.ofNat
      14 (Blk.stwC 0).page : Pg).toNat (fw (.stwC 0 : Blk) FW_CMD_op).off (.stwC 0 : Blk) ∧ (bit (State.reset.reg
      (.stwC 0 : Blk) (fw (.stwC 0 : Blk) FW_CMD_STATUS_code).off) 8 = false) ∧ State.reset.fwMay (0 : Mst).toNat
      (.stwC 0 : Blk) ∧ ((State.reset.fwRun 0 (.stwC 0) 1 : Code × State) = State.reset.fwRun (0 : Mst).toNat (.stwC
      0 : Blk) (1 : Word).toNat) ∧ ((State.reset.fwRun 0 (.stwC 0) 1 : Code × State).1 = .ok) ∧
    ((State.reset.addJob ⟨.fwWrite, (Blk.stwC 0).page, 0, .ok, 1, 1, 0⟩ : State).fwPage (BitVec.ofNat 14 (Blk.stwC
      0).page : Pg).toNat = some (.stwC 0 : Blk)) ∧ ((State.reset.addJob ⟨.fwWrite, (Blk.stwC 0).page, 0, .ok, 1, 1,
      0⟩ : State).job .fwWrite (.stwC 0 : Blk).page 0 = some (⟨.fwWrite, (Blk.stwC 0).page, 0, .ok, 1, 1, 0⟩ : Job))
      ∧ ((⟨.fwWrite, (Blk.stwC 0).page, 0, .ok, 1, 1, 0⟩ : Job).code = .ok) ∧
    (State.reset.fwPage (BitVec.ofNat 14 (Blk.stwC 0).page : Pg).toNat = some (.stwC 0 : Blk)) ∧ ((State.reset.p (.stwC
      0) FW_SLOTS_ready 1 : State) = State.reset.p (.stwC 0 : Blk) (fw (.stwC 0 : Blk) FW_SLOTS_ready) 1) ∧
    ((State.reset.p (.stwC 0) FW_SLOTS_state 2 : State).fwPage (BitVec.ofNat 14 (Blk.stwC 0).page : Pg).toNat = some
      (.stwC 0 : Blk)) ∧ ((State.reset.p (.stwC 0) FW_SLOTS_state 2 : State).g (.stwC 0 : Blk) (fw (.stwC 0 : Blk)
      FW_SLOTS_state) = 2) := by
  decide +kernel

/-- The hypotheses of MeterRows are met. -/
theorem test_meets_MeterRows :
    State.reset.ccnUp ∧
    State.reset.ccnUp ∧
    State.reset.ccnUp ∧
    State.reset.ccnUp ∧
    State.reset.ccnUp ∧ State.reset.ccn.crystal ∧
    (State.reset.setCcn (State.reset.ccn.setCrystal false) : State).ccnUp ∧ ((State.reset.setCcn
      (State.reset.ccn.setCrystal false) : State).ccn.crystal = false) ∧
    State.reset.ccnUp ∧
    ((State.reset.setCcn State.reset.ccn.powerLost : State).ccnUp = false) ∧ ((((State.reset.setCcn
      State.reset.ccn.powerLost).setCcn (State.reset.setCcn State.reset.ccn.powerLost).ccn.resumed).raise .ccn
      cMTR_VMTR_GAP : State) = ((State.reset.setCcn State.reset.ccn.powerLost : State).setCcn (State.reset.setCcn
      State.reset.ccn.powerLost : State).ccn.resumed).raise .ccn cMTR_VMTR_GAP) ∧
    (onTrial : State).ccnUp ∧ (onTrial : State).ccn.trial := by
  decide +kernel

/-- The hypotheses of MeterPortRows are met. -/
theorem test_meets_MeterPortRows :
    State.reset.ccnUp ∧
    (State.reset.setCcn (State.reset.ccn.closed false) : State).ccnUp ∧ ((State.reset.setCcn (State.reset.ccn.closed
      false) : State).ccn.ring[(0 : BitVec 10).toNat]? = some (State.reset.ccn.record (State.reset.ccn.flags false)
      : List Byte)) ∧
    (logged : State).ccnUp ∧ ((logged : State).ccn.log[(0 : BitVec 16).toNat]? = some ([7] : List Byte)) ∧
    State.reset.ccnUp ∧
    State.reset.ccnUp ∧ State.reset.ccn.nonces.length < 5 ∧
    State.reset.opens (16 : Mst).toNat Blk.ccn.page CCN_REQ_sign.off (.ccn : Blk) ∧ (bits (1 : Word).toNat 0 1 = 1) ∧
      (bit (State.reset.reg (.ccn : Blk) CCN_REQ_STATUS_code.off) 8 = false) ∧
    (State.reset.setCcn (State.reset.ccn.answered [[5]]) : State).ccnUp ∧ ((State.reset.setCcn (State.reset.ccn.answered
      [[5]]) : State).ccn.nonces = ([5] : List Byte) :: ([] : List (List Byte))) ∧
    (State.reset.setCcn State.reset.ccn.askPage : State).ccnUp ∧ ((State.reset.setCcn State.reset.ccn.askPage :
      State).ccn.nonces = []) ∧ (State.reset.setCcn State.reset.ccn.askPage : State).ccn.reqPage ∧
    (sealed : State).ccnUp ∧ ((sealed : State).pins.mtrUnseal = false) ∧
    (State.reset.setCcn State.reset.ccn.openUpdate : State).ccnUp ∧ (State.reset.setCcn State.reset.ccn.openUpdate :
      State).ccn.updOpen ∧ ([1] : List Byte).length ≤ 256 ∧ (0 : BitVec 32).toNat + ([1] : List Byte).length ≤ 512 *
      1024 ∧
    (sealed.setCcn sealed.ccn.openUpdate : State).ccnUp ∧ (sealed.setCcn sealed.ccn.openUpdate : State).ccn.updOpen ∧
      ((sealed.setCcn sealed.ccn.openUpdate : State).pins.mtrUnseal = false) := by
  decide +kernel

/-- The hypotheses of RegisterAccessRows are met. -/
theorem test_meets_RegisterAccessRows :
    ((0x100 : BitVec 26).toNat % 8 = 0) ∧
    ((0x18 : BitVec 26).toNat % 8 = 0) ∧
    ((4 : BitVec 4) = 4 ∨ (4 : BitVec 4) = 8) ∧ ((4 : BitVec 26).toNat % (4 : BitVec 4).toNat = 0) ∧ (hostFn (16 :
      Mst).toNat = some (0 : Nat)) ∧
    (barFits (0 : BitVec 3).toNat (4 : BitVec 26).toNat (4 : BitVec 4).toNat true = false) ∧
    barFits (0 : BitVec 3).toNat (0x100 : BitVec 26).toNat (8 : BitVec 4).toNat false ∧ ((State.reset.barRead 16 0 0x100
      : Nat × State) = State.reset.barRead (16 : Mst).toNat (0 : BitVec 3).toNat (0x100 : BitVec 26).toNat) ∧
    (barFits (0 : BitVec 3).toNat (1 : BitVec 26).toNat (8 : BitVec 4).toNat false = false) ∧
    (State.reset.hostRing (16 : Mst).toNat (0 : RingNo).toNat = some (0 : Nat)) ∧ (State.reset.tb .ring 0 (0 : Nat)
      ring_enable = false) ∧ tblOk .ring 0 (0x400CD : Word).toNat ∧ bits (0x400CD : Word).toNat 10 8 < fnVectors
      (State.reset.ringOwner (0 : Nat)) ∧
    (State.reset.hostRing (16 : Mst).toNat (0 : RingNo).toNat = some (0 : Nat)) ∧ ((State.reset.prg 0 ring_tail 0 :
      State) = State.reset.prg (0 : Nat) ring_tail ((0 : Word).toNat % 2 ^ 32)) ∧ ((State.reset.prg 0 ring_tail 0 :
      State).tb .ring 0 (0 : Nat) ring_enable → ((0 : Word).toNat % 2 ^ 32 + 2 ^ 32 - (State.reset.prg 0 ring_tail 0
      : State).rg (0 : Nat) ring_head) % 2 ^ 32 ≤ 2 ^ (State.reset.prg 0 ring_tail 0 : State).rg (0 : Nat)
      ring_cmd_log2) ∧
    (State.reset.hostRing (16 : Mst).toNat (0 : RingNo).toNat = some (0 : Nat)) ∧
    (0 : BitVec 5).toNat ≤ 16 ∧ (0 : Byte).toNat < fnVectors (0 : BitVec 5).toNat ∧ ((State.reset.pt .msix 0 0 msix_mask
      0 : State) = State.reset.pt .msix 0 ((0 : BitVec 5).toNat * 256 + (0 : Byte).toNat) msix_mask 0) := by
  decide +kernel

/-- The hypotheses of RingCommandRows are met. -/
theorem test_meets_RingCommandRows :
    ((.nop 0 : Instr), (0 : Nat), ((.ok, 0, none, ringed.ringTake 0) : Code × Nat × Option (Nat × Nat) × State)) ∈
      [(Instr.nop (0 : RingNo), 0, State.ringNop ((ringed.ringTake 0 : State).ringMst (0 : RingNo).toNat)
      (List.replicate 8 0 : List Nat) (ringed.ringTake 0 : State)), (Instr.regRead (0 : RingNo), 1,
      State.ringRegRead ((ringed.ringTake 0 : State).ringMst (0 : RingNo).toNat) (List.replicate 8 0 : List Nat)
      (ringed.ringTake 0 : State)), (Instr.regWrite (0 : RingNo), 2, State.ringRegWrite ((ringed.ringTake 0 :
      State).ringMst (0 : RingNo).toNat) (List.replicate 8 0 : List Nat) (ringed.ringTake 0 : State)),
      (Instr.tblRead (0 : RingNo), 3, State.ringTblRead ((ringed.ringTake 0 : State).ringMst (0 : RingNo).toNat)
      (List.replicate 8 0 : List Nat) (ringed.ringTake 0 : State)), (Instr.tblWrite (0 : RingNo), 4,
      State.ringTblWrite ((ringed.ringTake 0 : State).ringMst (0 : RingNo).toNat) (List.replicate 8 0 : List Nat)
      (ringed.ringTake 0 : State)), (Instr.ringSignal (0 : RingNo), 5, State.ringSig ((ringed.ringTake 0 :
      State).ringMst (0 : RingNo).toNat) (List.replicate 8 0 : List Nat) (ringed.ringTake 0 : State)),
      (Instr.ringFlag (0 : RingNo), 6, State.ringFlg ((ringed.ringTake 0 : State).ringMst (0 : RingNo).toNat)
      (List.replicate 8 0 : List Nat) (ringed.ringTake 0 : State)), (Instr.ringWatch (0 : RingNo), 7, State.ringWat
      ((ringed.ringTake 0 : State).ringMst (0 : RingNo).toNat) (List.replicate 8 0 : List Nat) (ringed.ringTake 0 :
      State)), (Instr.strict (0 : RingNo), 8, State.ringStrict ((ringed.ringTake 0 : State).ringMst (0 :
      RingNo).toNat) (List.replicate 8 0 : List Nat) (ringed.ringTake 0 : State))] ∧ ((ringed : State).nextRing =
      some (0 : RingNo).toNat) ∧ ((List.replicate 8 0 : List Nat) = (ringed : State).ringCmd (0 : RingNo).toNat) ∧
      (bits ((List.replicate 8 0 : List Nat).getD 0 0) 0 8 = (0 : Nat)) ∧ ((ringed.ringTake 0 : State) = (ringed :
      State).ringTake (0 : RingNo).toNat) ∧ ((ringed.ringTake 0 : State).boot.thxRestart = false) ∧ (ringBad
      (List.replicate 8 0 : List Nat) = false) ∧ (((.ok, 0, none, ringed.ringTake 0) : Code × Nat × Option (Nat ×
      Nat) × State).2.2.1 = none) ∧
    ((ringMoves : State).nextRing = some (0 : RingNo).toNat) ∧ ((moveWords : List Nat) = (ringMoves : State).ringCmd (0
      : RingNo).toNat) ∧ (bits ((moveWords : List Nat).getD 0 0) 0 8 = 2) ∧ ((ringMoves.ringTake 0 : State) =
      (ringMoves : State).ringTake (0 : RingNo).toNat) ∧ ((ringMoves.ringTake 0 : State).boot.thxRestart = false) ∧
      (ringBad (moveWords : List Nat) = false) ∧ ((State.ringRegWrite ((ringMoves.ringTake 0).ringMst 0) moveWords
      (ringMoves.ringTake 0) : Code × Nat × Option (Nat × Nat) × State) = State.ringRegWrite ((ringMoves.ringTake 0
      : State).ringMst (0 : RingNo).toNat) (moveWords : List Nat) (ringMoves.ringTake 0 : State)) ∧
      ((State.ringRegWrite ((ringMoves.ringTake 0).ringMst 0) moveWords (ringMoves.ringTake 0) : Code × Nat × Option
      (Nat × Nat) × State).2.2.1 = some ((Blk.pwr.page, PWR_CMD_STATUS_code.off) : Nat × Nat)) ∧
    (((State.reset.ringHold 0 Blk.pwr.page PWR_CMD_STATUS_code.off 5 : State).hst.waits.find? fun e => e.1 == (0 :
      RingNo).toNat) = some ((0 : RingNo).toNat, (Blk.pwr.page : Nat), (PWR_CMD_STATUS_code.off : Nat), (5 : Nat)))
      ∧ ((0 : Nat) = ((State.reset.ringHold 0 Blk.pwr.page PWR_CMD_STATUS_code.off 5 : State).regRead
      ((State.reset.ringHold 0 Blk.pwr.page PWR_CMD_STATUS_code.off 5 : State).ringMst (0 : RingNo).toNat)
      (Blk.pwr.page : Nat) (PWR_CMD_STATUS_code.off : Nat)).2.1) ∧ (bit (0 : Nat) 8 = false) ∧
    (timed : State).hst.coal.contains (0 : RingNo).toNat := by
  decide +kernel

/-- The hypotheses of EndpointResetRows are met. -/
theorem test_meets_EndpointResetRows :
    (false : Bool) ≠ (State.reset.setPerst true : State).pins.perstN ∧
    (3 : BitVec 5).toNat ≤ 16 := by
  decide +kernel

/-- The hypotheses of ManagementRows are met. -/
theorem test_meets_ManagementRows :
    ((.inventory [0, 0, 0x6B] : Instr), ((1, some 0) : Nat × Option Nat), (State.mgInventory [] (serving.inc .thx
      THX_I3C_CMDS_count) : Code × List Byte × State)) ∈ [(Instr.inventory ([0, 0, 0x6B] : List Byte), (0x01, some
      0), State.mgInventory ([] : List Byte) (serving.inc .thx THX_I3C_CMDS_count : State)), (Instr.health ([0, 0,
      0x6B] : List Byte), (0x02, some 0), State.mgHealth ([] : List Byte) (serving.inc .thx THX_I3C_CMDS_count :
      State)), (Instr.readReg ([0, 0, 0x6B] : List Byte), (0x03, some 4), State.mgReadReg ([] : List Byte)
      (serving.inc .thx THX_I3C_CMDS_count : State)), (Instr.ackFaults ([0, 0, 0x6B] : List Byte), (0x04, some 1),
      State.mgAckFaults ([] : List Byte) (serving.inc .thx THX_I3C_CMDS_count : State)), (Instr.power ([0, 0, 0x6B]
      : List Byte), (0x05, some 1), State.mgPower ([] : List Byte) (serving.inc .thx THX_I3C_CMDS_count : State)),
      (Instr.setCap ([0, 0, 0x6B] : List Byte), (0x06, some 2), State.mgSetCap ([] : List Byte) (serving.inc .thx
      THX_I3C_CMDS_count : State)), (Instr.ibiCfg ([0, 0, 0x6B] : List Byte), (0x07, some 2), State.mgIbiCfg ([] :
      List Byte) (serving.inc .thx THX_I3C_CMDS_count : State)), (Instr.recStatus ([0, 0, 0x6B] : List Byte), (0x40,
      some 0), State.mgRecStatus ([] : List Byte) (serving.inc .thx THX_I3C_CMDS_count : State)), (Instr.recBegin
      ([0, 0, 0x6B] : List Byte), (0x41, some 1), State.mgRecBegin ([] : List Byte) (serving.inc .thx
      THX_I3C_CMDS_count : State)), (Instr.recData ([0, 0, 0x6B] : List Byte), (0x42, none), State.recWrite ([] :
      List Byte) (serving.inc .thx THX_I3C_CMDS_count : State)), (Instr.recEnd ([0, 0, 0x6B] : List Byte), (0x43,
      some 0), State.recFinish ([] : List Byte) (serving.inc .thx THX_I3C_CMDS_count : State)), (Instr.recBoot ([0,
      0, 0x6B] : List Byte), (0x44, some 0), State.mgRecBoot ([] : List Byte) (serving.inc .thx THX_I3C_CMDS_count :
      State))] ∧ ((serving.inc .thx THX_I3C_CMDS_count : State) = (serving : State).inc .thx THX_I3C_CMDS_count) ∧
      (([] : List Byte) = slice 2 (ofLeBytes (([0, 0, 0x6B] : List Byte).take 2)) ([0, 0, 0x6B] : List Byte)) ∧
      (serving : State).pins.pwrgd ∧ reqSound ((1, some 0) : Nat × Option Nat).1 ([0, 0, 0x6B] : List Byte) ∧
      (serving : State).reqMode ((1, some 0) : Nat × Option Nat).1 ∧ ((1, some 0) : Nat × Option Nat).2 ∈ [none,
      some (ofLeBytes (([0, 0, 0x6B] : List Byte).take 2))] ∧
    ((held : State).hst.ibiHeld = (1 : Nat) :: ([] : List Nat)) ∧
    (serving : State).pins.pwrgd := by
  decide +kernel

/-- The hypotheses of DeniedAccess are met. -/
theorem test_meets_DeniedAccess :
    (State.reset.blk (0x511 : Nat) = some (.att 0 : Blk)) ∧ (State.reset.mayRead (0xE4 : Nat) (.att 0 : Blk) (0x200 :
      Nat) = false) ∧
    State.reset.Wf ∧ (State.reset.blk (0x511 : Nat) = some (.att 0 : Blk)) ∧ (State.reset.mayWrite (0x20 : Nat) (.att 0
      : Blk) (0x018 : Nat) = false) := by
  and_intros <;> first | decide +kernel | exact ⟨by decide +kernel, by decide +kernel, by decide +kernel, by decide +kernel, by decide +kernel, by decide +kernel⟩

/-- The hypotheses of ReservedAddress are met. -/
theorem test_meets_ReservedAddress :
    State.reset.opens (0 : Nat) (0x511 : Nat) (0x200 + 0x40 * (7 : Nat)) (.att (0 : Nat)) ∧ (7 : Nat) < 8 ∧ (bits
      (0xFFFFF : Nat) 0 20 = 0xFFFFF) ∧
    State.reset.Wf ∧ (7 : Nat) < 8 := by
  and_intros <;> first | decide +kernel | exact ⟨by decide +kernel, by decide +kernel, by decide +kernel, by decide +kernel, by decide +kernel, by decide +kernel⟩

/-- The hypotheses of PoolLayoutRules are met. -/
theorem test_meets_PoolLayoutRules :
    (State.reset.p (.pool 0) STATE_state 3 : State).opens (0 : Nat) (0x502 : Nat) (0x138 : Nat) (.pool (0 : Nat)) ∧
      ((0x138 : Nat) = 0x100 ∨ (0x138 : Nat) = 0x108 ∨ (0x138 : Nat) ∈ [0x110, 0x118, 0x120, 0x128, 0x130, 0x138]) ∧
      (State.reset.p (.pool 0) STATE_state 3 : State).st (.pool (0 : Nat)) ≠ .off ∧
    State.reset.opens (0 : Nat) (0x502 : Nat) (0x100 : Nat) (.pool (0 : Nat)) ∧ ((0x100 : Nat) = 0x100 ∨ (0x100 : Nat) =
      0x108) ∧ (State.reset.st (.pool (0 : Nat)) = .off) ∧ ((State.reset.store (.pool 0) 0x100 0x10C388D000 : State)
      = State.reset.store (.pool (0 : Nat)) (0x100 : Nat) (0x10C388D000 : Nat)) ∧ ((State.reset.store (.pool 0)
      0x100 0x10C388D000 : State).reg (.pool (0 : Nat)) 0x100 < (0 : Nat) * 72 * 10 ^ 9 ∨ ((0 : Nat) + 1) * 72 * 10
      ^ 9 < (State.reset.store (.pool 0) 0x100 0x10C388D000 : State).reg (.pool (0 : Nat)) 0x100 +
      (State.reset.store (.pool 0) 0x100 0x10C388D000 : State).reg (.pool (0 : Nat)) 0x108) ∧
    (.alloc 0 0x502 1 : Instr) ∈ [Instr.alloc (0 : Mst) (0x502 : Pg) (1 : Word), Instr.free (0 : Mst) (0x502 : Pg) (1 :
      Word)] ∧ (State.reset.p (.pool 0) POOL_CMD_STATUS_busy 1 : State).opens (0 : Mst).toNat (0x502 : Pg).toNat
      0x1A0 (.pool (0 : Nat)) ∧ (State.reset.p (.pool 0) POOL_CMD_STATUS_busy 1 : State).gb (.pool (0 : Nat))
      POOL_CMD_STATUS_busy := by
  decide +kernel

/-- The hypotheses of QuantumRange are met. -/
theorem test_meets_QuantumRange :
    (State.reset.p (.swt 0) SWT_CLS_SEL_table 1 : State).opens (0 : Mst).toNat (0x510 : Pg).toNat 0x208 (.swt (0 : Nat))
      ∧ ((State.reset.p (.swt 0) SWT_CLS_SEL_table 1 : State).g (.swt (0 : Nat)) SWT_CLS_SEL_table = 1) ∧
      ((State.reset.p (.swt 0) SWT_CLS_SEL_table 1 : State).g (.swt (0 : Nat)) SWT_CLS_SEL_word = 0) ∧ (bits (63 :
      Word).toNat 0 18 < 64 ∨ 262143 < bits (63 : Word).toNat 0 18) := by
  decide +kernel

/-- The hypotheses of SupplyLoss are met. -/
theorem test_meets_SupplyLoss :
    State.reset.ccnUp ∧
    ((State.reset.setCcn State.reset.ccn.powerLost : State).ccn.vmtr = false) ∧ ((State.reset.setCcn
      State.reset.ccn.powerLost : State).ccn.lost = some (State.reset.ccn.period : Nat)) := by
  decide +kernel

/-- The hypotheses of WatchArmCancel are met. -/
theorem test_meets_WatchArmCancel :
    (State.reset.pt .synWatch 0 5 synWatch_state 1 : State).opens (0 : Mst).toNat Blk.syn.page 0x128 (.syn : Blk) ∧
      (State.reset.pt .synWatch 0 5 synWatch_state 1 : State).synRow (0 : Mst).toNat 2 (bits (5 : Word).toNat 0 14)
      ∧ (State.reset.pt .synWatch 0 5 synWatch_state 1 : State).tb .synWatch 0 (bits (5 : Word).toNat 0 14)
      synWatch_state ∧
    ((State.reset.pt .synWatch 0 5 synWatch_kind 1).pt .synWatch 0 5 synWatch_target_id 4096 : State).opens (0 :
      Mst).toNat Blk.syn.page 0x128 (.syn : Blk) ∧ ((State.reset.pt .synWatch 0 5 synWatch_kind 1).pt .synWatch 0 5
      synWatch_target_id 4096 : State).synRow (0 : Mst).toNat 2 (bits (5 : Word).toNat 0 14) ∧ (((State.reset.pt
      .synWatch 0 5 synWatch_kind 1).pt .synWatch 0 5 synWatch_target_id 4096 : State).tb .synWatch 0 (bits (5 :
      Word).toNat 0 14) synWatch_state = false) ∧ ((State.reset.pt .synWatch 0 5 synWatch_kind 1).pt .synWatch 0 5
      synWatch_target_id 4096 : State).tb .synWatch 0 (bits (5 : Word).toNat 0 14) synWatch_kind ∧ 4095 <
      ((State.reset.pt .synWatch 0 5 synWatch_kind 1).pt .synWatch 0 5 synWatch_target_id 4096 : State).t .synWatch
      0 (bits (5 : Word).toNat 0 14) synWatch_target_id ∧
    (armable : State).opens (0 : Mst).toNat Blk.syn.page 0x128 (.syn : Blk) ∧ ((5 : Nat) = bits (5 : Word).toNat 0 14) ∧
      (armable : State).synRow (0 : Mst).toNat 2 (5 : Nat) ∧ ((armable : State).tb .synWatch 0 (5 : Nat)
      synWatch_state = false) ∧ ((armable : State).tb .synWatch 0 (5 : Nat) synWatch_kind = false ∨ (armable :
      State).t .synWatch 0 (5 : Nat) synWatch_target_id ≤ 4095) ∧ ((((armable.pt .synWatch 0 5 synWatch_reg_seq
      (armable.t .synWatch 0 5 synWatch_reg_seq + 1)).pt .synWatch 0 5 synWatch_wait_ticks 0).pt .synWatch 0 5
      synWatch_state 1 : State) = (((armable : State).pt .synWatch 0 (5 : Nat) synWatch_reg_seq ((armable : State).t
      .synWatch 0 (5 : Nat) synWatch_reg_seq + 1)).pt .synWatch 0 (5 : Nat) synWatch_wait_ticks 0).pt .synWatch 0 (5
      : Nat) synWatch_state 1) ∧ (((((armable.pt .synWatch 0 5 synWatch_reg_seq (armable.t .synWatch 0 5
      synWatch_reg_seq + 1)).pt .synWatch 0 5 synWatch_wait_ticks 0).pt .synWatch 0 5 synWatch_state 1).watchCount
      (armable.watchObj 5) true : State) = (((armable.pt .synWatch 0 5 synWatch_reg_seq (armable.t .synWatch 0 5
      synWatch_reg_seq + 1)).pt .synWatch 0 5 synWatch_wait_ticks 0).pt .synWatch 0 5 synWatch_state 1 :
      State).watchCount ((armable : State).watchObj (5 : Nat)) true) ∧ ((((armable.pt .synWatch 0 5 synWatch_reg_seq
      (armable.t .synWatch 0 5 synWatch_reg_seq + 1)).pt .synWatch 0 5 synWatch_wait_ticks 0).pt .synWatch 0 5
      synWatch_state 1).watchCount (armable.watchObj 5) true : State).t .synWatch 0 (5 : Nat) synWatch_epoch ≠
      ((((armable.pt .synWatch 0 5 synWatch_reg_seq (armable.t .synWatch 0 5 synWatch_reg_seq + 1)).pt .synWatch 0 5
      synWatch_wait_ticks 0).pt .synWatch 0 5 synWatch_state 1).watchCount (armable.watchObj 5) true :
      State).objEpoch ((armable : State).watchObj (5 : Nat)) ∧ ((((((armable.pt .synWatch 0 5 synWatch_reg_seq
      (armable.t .synWatch 0 5 synWatch_reg_seq + 1)).pt .synWatch 0 5 synWatch_wait_ticks 0).pt .synWatch 0 5
      synWatch_state 1).watchCount (armable.watchObj 5) true).sendWatch 5 .ownerLost (((((armable.pt .synWatch 0 5
      synWatch_reg_seq (armable.t .synWatch 0 5 synWatch_reg_seq + 1)).pt .synWatch 0 5 synWatch_wait_ticks 0).pt
      .synWatch 0 5 synWatch_state 1).watchCount (armable.watchObj 5) true).objVal (armable.watchObj 5)) : State ×
      List Obj) = ((((armable.pt .synWatch 0 5 synWatch_reg_seq (armable.t .synWatch 0 5 synWatch_reg_seq + 1)).pt
      .synWatch 0 5 synWatch_wait_ticks 0).pt .synWatch 0 5 synWatch_state 1).watchCount (armable.watchObj 5) true :
      State).sendWatch (5 : Nat) .ownerLost (((((armable.pt .synWatch 0 5 synWatch_reg_seq (armable.t .synWatch 0 5
      synWatch_reg_seq + 1)).pt .synWatch 0 5 synWatch_wait_ticks 0).pt .synWatch 0 5 synWatch_state 1).watchCount
      (armable.watchObj 5) true : State).objVal ((armable : State).watchObj (5 : Nat)))) ∧
    (State.reset.pt .synWatch 0 5 synWatch_state 1 : State).opens (0 : Mst).toNat Blk.syn.page 0x130 (.syn : Blk) ∧ ((5
      : Nat) = bits (5 : Word).toNat 0 14) ∧ (State.reset.pt .synWatch 0 5 synWatch_state 1 : State).synRow (0 :
      Mst).toNat 2 (5 : Nat) ∧ (State.reset.pt .synWatch 0 5 synWatch_state 1 : State).tb .synWatch 0 (5 : Nat)
      synWatch_state ∧ (((State.reset.pt .synWatch 0 5 synWatch_state 1).sendWatch 5 .aborted ((State.reset.pt
      .synWatch 0 5 synWatch_state 1).objVal ((State.reset.pt .synWatch 0 5 synWatch_state 1).watchObj 5)) : State ×
      List Obj) = (State.reset.pt .synWatch 0 5 synWatch_state 1 : State).sendWatch (5 : Nat) .aborted
      ((State.reset.pt .synWatch 0 5 synWatch_state 1 : State).objVal ((State.reset.pt .synWatch 0 5 synWatch_state
      1 : State).watchObj (5 : Nat)))) ∧
    State.reset.opens (0 : Mst).toNat Blk.syn.page 0x130 (.syn : Blk) ∧ State.reset.synRow (0 : Mst).toNat 2 (bits (5 :
      Word).toNat 0 14) ∧ (State.reset.tb .synWatch 0 (bits (5 : Word).toNat 0 14) synWatch_state = false) ∧
    State.reset.Wf ∧ (5 : Nat) < 16384 := by
  and_intros <;> first | decide +kernel | exact ⟨by decide +kernel, by decide +kernel, by decide +kernel, by decide +kernel, by decide +kernel, by decide +kernel⟩

/-- The hypotheses of EventLatches are met. -/
theorem test_meets_EventLatches :
    State.reset.Wf ∧ (cCMD_REFUSED : Cls).bit < 48 ∧ (cCMD_REFUSED : Cls).level ≤ 5 ∧ ((State.reset.raiseBy (.att 0)
      cCMD_REFUSED none : State) = State.reset.raiseBy (.att 0 : Blk) (cCMD_REFUSED : Cls) (none : Option Nat)) := by
  and_intros <;> first | decide +kernel | exact ⟨by decide +kernel, by decide +kernel, by decide +kernel, by decide +kernel, by decide +kernel, by decide +kernel⟩

/-- The hypotheses of AcknowledgeClears are met. -/
theorem test_meets_AcknowledgeClears :
    (State.reset.raise (.att 0) cCMD_REFUSED : State).Wf ∧ (3 : Nat) < 48 ∧ (((State.reset.raise (.att 0)
      cCMD_REFUSED).ackErr (.att 0) 8 : State) = (State.reset.raise (.att 0) cCMD_REFUSED : State).ackErr (.att 0 :
      Blk) (8 : Nat)) := by
  and_intros <;> first | decide +kernel | exact ⟨by decide +kernel, by decide +kernel, by decide +kernel, by decide +kernel, by decide +kernel, by decide +kernel⟩

/-- The hypotheses of MemoryBytes are met. -/
theorem test_meets_MemoryBytes :
    State.reset.Wf ∧ (1 : Nat) < 3 ∧ ((1 : Nat) = 0 → State.reset.poolTouched (8 : Nat) ([1, 2] : List Byte).length =
      false) ∧ ((State.reset.writeSpace 1 8 [1, 2] : State) = State.reset.writeSpace (1 : Nat) (8 : Nat) ([1, 2] :
      List Byte)) ∧
    State.reset.Wf ∧ (2 : BitVec 2) ≠ 0 ∧ ((2 : BitVec 2) = 1 → State.reset.poolTouched (16 : BitVec 52).toNat (4 * ([7]
      : List (BitVec 32)).length) = false) ∧
    ((State.reset.pt .chrRegion 0 9 chrRegion_erasing 1).pt .chrRegion 0 9 chrRegion_length 0x1000 : State).Wf ∧
      ((State.reset.pt .chrRegion 0 9 chrRegion_erasing 1).pt .chrRegion 0 9 chrRegion_length 0x1000 : State).tb
      .chrRegion 0 (9 : BitVec 10).toNat chrRegion_erasing ∧ ((0 : Nat) = ((State.reset.pt .chrRegion 0 9
      chrRegion_erasing 1).pt .chrRegion 0 9 chrRegion_length 0x1000 : State).t .chrRegion 0 (9 : BitVec 10).toNat
      chrRegion_space) ∧ (0 : Nat) < 3 ∧ ((0 : Nat) = ((State.reset.pt .chrRegion 0 9 chrRegion_erasing 1).pt
      .chrRegion 0 9 chrRegion_length 0x1000 : State).t .chrRegion 0 (9 : BitVec 10).toNat chrRegion_base) ∧
      ((0x1000 : Nat) = ((State.reset.pt .chrRegion 0 9 chrRegion_erasing 1).pt .chrRegion 0 9 chrRegion_length
      0x1000 : State).t .chrRegion 0 (9 : BitVec 10).toNat chrRegion_length) := by
  and_intros <;> first | decide +kernel | exact ⟨by decide +kernel, by decide +kernel, by decide +kernel, by decide +kernel, by decide +kernel, by decide +kernel⟩


end
end

/-! # Every command goes on

Each command's meaning has a law in Sys2Proof/Laws/Keeps*.lean; here they are put together over the dispatch, and O3, O4
and O5 follow. -/

namespace Sys2Proof.Machine

/-- Whatever a command keeps of the queue, the outputs, the draws and the stores, it keeps by the law of its own
meaning. -/
theorem keeps_exec {q : List Instr} {o : List Emit} {n : Nat} {i : Instr} {s t : State} (ke : exec i s = .next t)
    (hs : Keeps q o n s) : Keeps q o n t := by
  cases i with
  | registerWrite => exact keeps_execRegisterWrite ke hs
  | ctrlEnable => exact keeps_execCtrlEnable ke hs
  | ctrlQuiesce => exact keeps_execCtrlQuiesce ke hs
  | ctrlFreeze => exact keeps_execCtrlFreeze ke hs
  | ctrlEvacuate => exact keeps_execCtrlEvacuate ke hs
  | ctrlReset => exact keeps_execCtrlReset ke hs
  | trainingDone => exact keeps_execTrainingDone ke hs
  | quiesceDrainDone => exact keeps_execQuiesceDrainDone ke hs
  | captureMarker => exact keeps_execCaptureMarker ke hs
  | freezeCaptureDone => exact keeps_execFreezeCaptureDone ke hs
  | snapTake => exact keeps_execSnapTake ke hs
  | snapWriteoutDone => exact keeps_execSnapWriteoutDone ke hs
  | pageNoAnswer => exact keeps_execPageNoAnswer ke hs
  | errForce => exact keeps_execErrForce ke hs
  | errAck => exact keeps_execErrAck ke hs
  | errorEvent => exact keeps_execErrorEvent ke hs
  | fltAckBelow => exact keeps_execFltAckBelow ke hs
  | pinMismatch _ child => exact keeps_execPinMismatch (_child := child) ke hs
  | lostMsTick => exact keeps_execLostMsTick ke hs
  | lnkGrpCfgWrite => exact keeps_execLnkGrpCfgWrite ke hs
  | lanePower => exact keeps_execLanePower ke hs
  | laneCtrlRetrain => exact keeps_execLaneCtrlRetrain ke hs
  | clrCounters => exact keeps_execClrCounters ke hs
  | spareRequest => exact keeps_execSpareRequest ke hs
  | spareRevert => exact keeps_execSpareRevert ke hs
  | spareRequestDequeue => exact keeps_execSpareRequestDequeue ke hs
  | prbsCtrlWrite => exact keeps_execPrbsCtrlWrite ke hs
  | detectRetry port => exact keeps_execDetectRetry (_port := port) ke hs
  | partnerDetected => exact keeps_execPartnerDetected ke hs
  | trainDone => exact keeps_execTrainDone ke hs
  | trainTimeout => exact keeps_execTrainTimeout ke hs
  | lockDone => exact keeps_execLockDone ke hs
  | lockTimeout => exact keeps_execLockTimeout ke hs
  | capability => exact keeps_execCapability ke hs
  | capexResend => exact keeps_execCapexResend ke hs
  | addrRecheck => exact keeps_execAddrRecheck ke hs
  | retrain => exact keeps_execRetrain ke hs
  | laneLockLost => exact keeps_execLaneLockLost ke hs
  | sparePolicyWindow => exact keeps_execSparePolicyWindow ke hs
  | sparePrepare => exact keeps_execSparePrepare ke hs
  | spareTrainDone => exact keeps_execSpareTrainDone ke hs
  | spareTrainFail => exact keeps_execSpareTrainFail ke hs
  | spareSwitch => exact keeps_execSpareSwitch ke hs
  | spareAck => exact keeps_execSpareAck ke hs
  | spareSwitchover => exact keeps_execSpareSwitchover ke hs
  | refclkLost => exact keeps_execRefclkLost ke hs
  | refclkRestored => exact keeps_execRefclkRestored ke hs
  | dataCodeword => exact keeps_execDataCodeword ke hs
  | codewordTx => exact keeps_execCodewordTx ke hs
  | flitRx => exact keeps_execFlitRx ke hs
  | sidebandRx => exact keeps_execSidebandRx ke hs
  | nakRx => exact keeps_execNakRx ke hs
  | nakRepeat => exact keeps_execNakRepeat ke hs
  | flitTx => exact keeps_execFlitTx ke hs
  | ctxOpen => exact keeps_execCtxOpen ke hs
  | ctxClose => exact keeps_execCtxClose ke hs
  | ctxReset => exact keeps_execCtxReset ke hs
  | ctxEntryWrite => exact keeps_execCtxEntryWrite ke hs
  | localPut => exact keeps_execLocalPut ke hs
  | localGet => exact keeps_execLocalGet ke hs
  | localSend => exact keeps_execLocalSend ke hs
  | localAtomic => exact keeps_execLocalAtomic ke hs
  | localRecvPost => exact keeps_execLocalRecvPost ke hs
  | ctxQueueIssue => exact keeps_execCtxQueueIssue ke hs
  | localRdData => exact keeps_execLocalRdData ke hs
  | txPacketSend => exact keeps_execTxPacketSend ke hs
  | put => exact keeps_execPut ke hs
  | getReq => exact keeps_execGetReq ke hs
  | getResp => exact keeps_execGetResp ke hs
  | send => exact keeps_execSend ke hs
  | atomicAdd => exact keeps_execAtomicAdd ke hs
  | atomicResp => exact keeps_execAtomicResp ke hs
  | ack => exact keeps_execAck ke hs
  | ackTimer => exact keeps_execAckTimer ke hs
  | localCpl => exact keeps_execLocalCpl ke hs
  | retxTimeout => exact keeps_execRetxTimeout ke hs
  | noResourceRetry => exact keeps_execNoResourceRetry ke hs
  | pathHoldExpiry => exact keeps_execPathHoldExpiry ke hs
  | frameIngress => exact keeps_execFrameIngress ke hs
  | admitRetry => exact keeps_execAdmitRetry ke hs
  | xbarSlot => exact keeps_execXbarSlot ke hs
  | ethRelease => exact keeps_execEthRelease ke hs
  | egressSelect => exact keeps_execEgressSelect ke hs
  | ageOscTick => exact keeps_execAgeOscTick ke hs
  | l3Slot => exact keeps_execL3Slot ke hs
  | l3ReseqGiveup => exact keeps_execL3ReseqGiveup ke hs
  | tblCmdRead => exact keeps_execTblCmdRead ke hs
  | tblCmdWrite => exact keeps_execTblCmdWrite ke hs
  | tblCmdInsert => exact keeps_execTblCmdInsert ke hs
  | tblCmdDelete => exact keeps_execTblCmdDelete ke hs
  | tblCmdFind => exact keeps_execTblCmdFind ke hs
  | tblCmdDone => exact keeps_execTblCmdDone ke hs
  | slotLagWindow => exact keeps_execSlotLagWindow ke hs
  | evacStartQueued => exact keeps_execEvacStartQueued ke hs
  | evacDrainEnd => exact keeps_execEvacDrainEnd ke hs
  | evacRenumber => exact keeps_execEvacRenumber ke hs
  | memberRejoin => exact keeps_execMemberRejoin ke hs
  | limitEntryWrite => exact keeps_execLimitEntryWrite ke hs
  | spillReadback => exact keeps_execSpillReadback ke hs
  | spillReadDone => exact keeps_execSpillReadDone ke hs
  | alloc => exact keeps_execAlloc ke hs
  | free => exact keeps_execFree ke hs
  | poolAllocReq => exact keeps_execPoolAllocReq ke hs
  | poolFreeReq _ src => exact keeps_execPoolFreeReq (_src := src) ke hs
  | poolCacheRefill => exact keeps_execPoolCacheRefill ke hs
  | poolCacheReturn => exact keeps_execPoolCacheReturn ke hs
  | poolInitDone => exact keeps_execPoolInitDone ke hs
  | clsEntryWrite => exact keeps_execClsEntryWrite ke hs
  | pfcRx => exact keeps_execPfcRx ke hs
  | pfcPauseExpiry => exact keeps_execPfcPauseExpiry ke hs
  | pfcRefresh => exact keeps_execPfcRefresh ke hs
  | tokenAccrual => exact keeps_execTokenAccrual ke hs
  | check => exact keeps_execCheck ke hs
  | load => exact keeps_execLoad ke hs
  | routeLoadDone => exact keeps_execRouteLoadDone ke hs
  | dlScan => exact keeps_execDlScan ke hs
  | dlRecover => exact keeps_execDlRecover ke hs
  | dlHoldExpiry => exact keeps_execDlHoldExpiry ke hs
  | dlClear => exact keeps_execDlClear ke hs
  | meshMcForward => exact keeps_execMeshMcForward ke hs
  | rdxAdmit => exact keeps_execRdxAdmit ke hs
  | retire => exact keeps_execRetire ke hs
  | rdxReset => exact keeps_execRdxReset ke hs
  | save => exact keeps_execSave ke hs
  | restore => exact keeps_execRestore ke hs
  | rdxCmdDone => exact keeps_execRdxCmdDone ke hs
  | collContrib => exact keeps_execCollContrib ke hs
  | claim => exact keeps_execClaim ke hs
  | claimGrant => exact keeps_execClaimGrant ke hs
  | engineAccumulate => exact keeps_execEngineAccumulate ke hs
  | lineRelease => exact keeps_execLineRelease ke hs
  | epilogue => exact keeps_execEpilogue ke hs
  | resultSend => exact keeps_execResultSend ke hs
  | collPartial => exact keeps_execCollPartial ke hs
  | collResult => exact keeps_execCollResult ke hs
  | collSmall => exact keeps_execCollSmall ke hs
  | scOpen => exact keeps_execScOpen ke hs
  | scClose => exact keeps_execScClose ke hs
  | signal => exact keeps_execSignal ke hs
  | synSignal => exact keeps_execSynSignal ke hs
  | clear => exact keeps_execClear ke hs
  | flagSet => exact keeps_execFlagSet ke hs
  | flagClr => exact keeps_execFlagClr ke hs
  | watchArm => exact keeps_execWatchArm ke hs
  | watchCancel => exact keeps_execWatchCancel ke hs
  | barArm => exact keeps_execBarArm ke hs
  | barDisarm => exact keeps_execBarDisarm ke hs
  | synTblWrite => exact keeps_execSynTblWrite ke hs
  | waitScan => exact keeps_execWaitScan ke hs
  | waitClear => exact keeps_execWaitClear ke hs
  | start => exact keeps_execStart ke hs
  | pause => exact keeps_execPause ke hs
  | resume => exact keeps_execResume ke hs
  | stop => exact keeps_execStop ke hs
  | pauseTakesEffect => exact keeps_execPauseTakesEffect ke hs
  | gangSchedule => exact keeps_execGangSchedule ke hs
  | halt => exact keeps_execHalt ke hs
  | ldw => exact keeps_execLdw ke hs
  | stw => exact keeps_execStw ke hs
  | mm => exact keeps_execMm ke hs
  | mmtDx => exact keeps_execMmtDx ke hs
  | mmtDw => exact keeps_execMmtDw ke hs
  | epi => exact keeps_execEpi ke hs
  | cvt => exact keeps_execCvt ke hs
  | rdxOp => exact keeps_execRdxOp ke hs
  | snd => exact keeps_execSnd ke hs
  | rcvPostWait => exact keeps_execRcvPostWait ke hs
  | rcvPost => exact keeps_execRcvPost ke hs
  | rcvFirst => exact keeps_execRcvFirst ke hs
  | waitCounter => exact keeps_execWaitCounter ke hs
  | waitFlag => exact keeps_execWaitFlag ke hs
  | gangWatchMessage => exact keeps_execGangWatchMessage ke hs
  | sigAdd => exact keeps_execSigAdd ke hs
  | sigSet => exact keeps_execSigSet ke hs
  | sigClr => exact keeps_execSigClr ke hs
  | cntFetch => exact keeps_execCntFetch ke hs
  | cntCounts => exact keeps_execCntCounts ke hs
  | digTree => exact keeps_execDigTree ke hs
  | digAudit => exact keeps_execDigAudit ke hs
  | smpSeeded => exact keeps_execSmpSeeded ke hs
  | smpEntropy => exact keeps_execSmpEntropy ke hs
  | gangOpDone => exact keeps_execGangOpDone ke hs
  | cplRingResume => exact keeps_execCplRingResume ke hs
  | arrayLagWindow => exact keeps_execArrayLagWindow ke hs
  | releaseRetention => exact keeps_execReleaseRetention ke hs
  | clearGrad => exact keeps_execClearGrad ke hs
  | trainEntryWrite => exact keeps_execTrainEntryWrite ke hs
  | partitionEntryWrite => exact keeps_execPartitionEntryWrite ke hs
  | stageMonWindow => exact keeps_execStageMonWindow ke hs
  | realign => exact keeps_execRealign ke hs
  | xingSlip => exact keeps_execXingSlip ke hs
  | xingAlignFail => exact keeps_execXingAlignFail ke hs
  | create => exact keeps_execCreate ke hs
  | assign => exact keeps_execAssign ke hs
  | unassign => exact keeps_execUnassign ke hs
  | partitionReset => exact keeps_execPartitionReset ke hs
  | release => exact keeps_execRelease ke hs
  | regionZeroed => exact keeps_execRegionZeroed ke hs
  | setRegion => exact keeps_execSetRegion ke hs
  | setAcl => exact keeps_execSetAcl ke hs
  | keyImport => exact keeps_execKeyImport ke hs
  | unwrap => exact keeps_execUnwrap ke hs
  | attest => exact keeps_execAttest ke hs
  | claimOwner => exact keeps_execClaimOwner ke hs
  | lifecycle => exact keeps_execLifecycle ke hs
  | chrChallenge => exact keeps_execChrChallenge ke hs
  | putCert => exact keeps_execPutCert ke hs
  | chrCmdDone => exact keeps_execChrCmdDone ke hs
  | entropyFail => exact keeps_execEntropyFail ke hs
  | tapInstruction => exact keeps_execTapInstruction ke hs
  | tapReset => exact keeps_execTapReset ke hs
  | hello => exact keeps_execHello ke hs
  | dbgChallenge => exact keeps_execDbgChallenge ke hs
  | token => exact keeps_execToken ke hs
  | dbgRead => exact keeps_execDbgRead ke hs
  | dbgWrite => exact keeps_execDbgWrite ke hs
  | dbgHalt => exact keeps_execDbgHalt ke hs
  | dbgResume => exact keeps_execDbgResume ke hs
  | dbgEnd => exact keeps_execDbgEnd ke hs
  | pwrgdRise => exact keeps_execPwrgdRise ke hs
  | pwrgdFall => exact keeps_execPwrgdFall ke hs
  | resetN => exact keeps_execResetN ke hs
  | pciePerstN => exact keeps_execPciePerstN ke hs
  | instar0 => exact keeps_execInstar0 ke hs
  | instar1 => exact keeps_execInstar1 ke hs
  | instar2 => exact keeps_execInstar2 ke hs
  | instar3 => exact keeps_execInstar3 ke hs
  | eclosion => exact keeps_execEclosion ke hs
  | thoraxBootTimeout => exact keeps_execThoraxBootTimeout ke hs
  | fwWrite => exact keeps_execFwWrite ke hs
  | fwWriteDone => exact keeps_execFwWriteDone ke hs
  | activate => exact keeps_execActivate ke hs
  | commit => exact keeps_execCommit ke hs
  | rollback => exact keeps_execRollback ke hs
  | discard => exact keeps_execDiscard ke hs
  | restart => exact keeps_execRestart ke hs
  | fwTrialTimeout => exact keeps_execFwTrialTimeout ke hs
  | pupa => exact keeps_execPupa ke hs
  | diapause => exact keeps_execDiapause ke hs
  | diapauseDrainEnd => exact keeps_execDiapauseDrainEnd ke hs
  | wake => exact keeps_execWake ke hs
  | powerTransitionDone => exact keeps_execPowerTransitionDone ke hs
  | saveProfile => exact keeps_execSaveProfile ke hs
  | saveProfileDone => exact keeps_execSaveProfileDone ke hs
  | governorLoop => exact keeps_execGovernorLoop ke hs
  | thermalTrip => exact keeps_execThermalTrip ke hs
  | repair => exact keeps_execRepair ke hs
  | hbmRepairDone => exact keeps_execHbmRepairDone ke hs
  | meterSample => exact keeps_execMeterSample ke hs
  | activityReport => exact keeps_execActivityReport ke hs
  | tenancyEvent => exact keeps_execTenancyEvent ke hs
  | periodEnd => exact keeps_execPeriodEnd ke hs
  | clockFallback => exact keeps_execClockFallback ke hs
  | clockRestored => exact keeps_execClockRestored ke hs
  | vmtrLoss => exact keeps_execVmtrLoss ke hs
  | vmtrReturn => exact keeps_execVmtrReturn ke hs
  | mtrUpdateFallback => exact keeps_execMtrUpdateFallback ke hs
  | ident => exact keeps_execIdent ke hs
  | readRecord => exact keeps_execReadRecord ke hs
  | readSigned => exact keeps_execReadSigned ke hs
  | readLog => exact keeps_execReadLog ke hs
  | readCert => exact keeps_execReadCert ke hs
  | updBegin => exact keeps_execUpdBegin ke hs
  | updData => exact keeps_execUpdData ke hs
  | updEnd => exact keeps_execUpdEnd ke hs
  | ccnReq => exact keeps_execCcnReq ke hs
  | signedReadingDone => exact keeps_execSignedReadingDone ke hs
  | ringEnable => exact keeps_execRingEnable ke hs
  | ringTail => exact keeps_execRingTail ke hs
  | ringConsumed => exact keeps_execRingConsumed ke hs
  | nop => exact keeps_execNop ke hs
  | regRead => exact keeps_execRegRead ke hs
  | regWrite => exact keeps_execRegWrite ke hs
  | ringWaitDone => exact keeps_execRingWaitDone ke hs
  | tblRead => exact keeps_execTblRead ke hs
  | tblWrite => exact keeps_execTblWrite ke hs
  | ringSignal => exact keeps_execRingSignal ke hs
  | ringFlag => exact keeps_execRingFlag ke hs
  | ringWatch => exact keeps_execRingWatch ke hs
  | strict => exact keeps_execStrict ke hs
  | ringCoalTimer => exact keeps_execRingCoalTimer ke hs
  | pcieLinkDown => exact keeps_execPcieLinkDown ke hs
  | flr => exact keeps_execFlr ke hs
  | inventory => exact keeps_execInventory ke hs
  | health => exact keeps_execHealth ke hs
  | readReg => exact keeps_execReadReg ke hs
  | ackFaults => exact keeps_execAckFaults ke hs
  | power => exact keeps_execPower ke hs
  | setCap => exact keeps_execSetCap ke hs
  | ibiCfg => exact keeps_execIbiCfg ke hs
  | ibiRetry => exact keeps_execIbiRetry ke hs
  | recStatus => exact keeps_execRecStatus ke hs
  | recBegin => exact keeps_execRecBegin ke hs
  | recData => exact keeps_execRecData ke hs
  | recEnd => exact keeps_execRecEnd ke hs
  | recBoot => exact keeps_execRecBoot ke hs
  | pmbusPoll => exact keeps_execPmbusPoll ke hs
  | pmbAlert => exact keeps_execPmbAlert ke hs
  | collWindow => exact keeps_execCollWindow ke hs
  | fwReady => exact keeps_execFwReady ke hs
  | mtrUnseal => exact keeps_execMtrUnseal ke hs
  | registerRead => exact keeps_execRegisterRead ke hs
  | msixVectorUnmask => exact keeps_execMsixVectorUnmask ke hs
  | dynamicAddressAssignment => exact keeps_execDynamicAddressAssignment ke hs

/-- Every command has a next state: no meaning faults (R6), and what cannot be carried out is answered by a code or a
record (R39, R479). -/
theorem exec_goes (i : Instr) (s : State) : Goes (exec i s) := by
  cases i with
  | resetN level => cases level <;> exact ⟨_, rfl⟩
  | _ => exact ⟨_, rfl⟩

/-- A state in canonical form keeps its own queue, outputs and draws. -/
theorem Keeps.start {s : State} (h : s.Wf) : Keeps s.pending s.out s.fresh s :=
  ⟨rfl, ⟨[], List.append_nil _⟩, Nat.le_refl _, h⟩

/-- A command answers a next state that keeps what the state before it held. -/
theorem exec_next_keeps (i : Instr) {s : State} (h : s.Wf) : ∃ t, exec i s = .next t ∧ Keeps s.pending s.out s.fresh t := by
  obtain ⟨t, ht⟩ := exec_goes i s
  exact ⟨t, ht, keeps_exec ht (.start h)⟩

/-- The queue plays no part in the canonical form. -/
theorem State.Wf.queue {s : State} (h : s.Wf) (q : List Instr) : (s.queue q).Wf :=
  ⟨h.regs, h.tabs, h.hbm, h.arr, h.vec, h.host⟩

/-- The machine starts in canonical form: its six stores list nothing. -/
theorem reset_wf : State.reset.Wf := ⟨rfl, rfl, rfl, rfl, rfl, rfl⟩

/-- The machine starts with nothing owed, told or frozen. -/
theorem reset_calm : State.reset.Calm := ⟨rfl, rfl, rfl⟩

/-- Settles O3: the stores of the reset state list nothing, and no level action, notice or view waits. -/
theorem resetIsCanonical : Obligations.ResetIsCanonical := by
  rintro s rfl
  exact ⟨reset_wf, reset_calm⟩

/-- Settles O5: each command has a next state, and by its law it keeps the queue, the outputs and the draws. -/
theorem commandsGoOn : Obligations.CommandsGoOn := by
  intro i s h
  obtain ⟨t, ht, hk⟩ := exec_next_keeps i h
  exact ⟨t, ht, hk.queue, hk.out, hk.fresh⟩

/-- Settles O4: an idle step changes nothing, and a command at the front of the queue keeps the canonical form. -/
theorem stepKeepsCanonical : Obligations.StepKeepsCanonical := by
  intro s h
  unfold step
  split
  case h_1 => exact ⟨s, rfl, h⟩
  case h_2 c rest _ =>
    obtain ⟨t, ht, hk⟩ := exec_next_keeps c (h.queue rest)
    exact ⟨t, ht, hk.wf⟩

end Sys2Proof.Machine

/-! # A region that did not verify as zero

O54 fails for REGION_ZEROED of a region whose erasing has failed once (R390): the command leaves the region as it is. The
claim speaks of some state before levels act, so the counterexample must exclude every state that settles to the same
one. The idea: a level action that acts leaves a mark in what settling ends with, and without such a mark settling writes
no memory. -/

namespace Sys2Proof.Machine

/-! ## Entries that no write of another key takes away -/

/-- An entry is listed once it is inserted, whatever the store was. -/
theorem mem_kvInsert_self (l : Kv) (k : Nat) (w : Word) : (k, w) ∈ kvInsert l k w := by
  induction l with
  | nil => simp [kvInsert]
  | cons e l ih =>
    unfold kvInsert
    split_ifs <;> simp [ih]

/-- A listed entry outlasts the taking out of another key. -/
theorem mem_kvErase_of_ne {l : Kv} {e : Nat × Word} {k : Nat} (h : e ∈ l) (hk : e.1 ≠ k) : e ∈ kvErase l k := by
  induction l with
  | nil => cases h
  | cons x l ih =>
    obtain ⟨k', w'⟩ := x
    unfold kvErase
    rcases List.mem_cons.1 h with rfl | hl
    · rw [if_neg hk]
      split_ifs <;> simp
    · split_ifs <;> simp [hl, ih hl]

/-- A listed entry outlasts the insertion of another key. -/
theorem mem_kvInsert_of_ne {l : Kv} {e : Nat × Word} {k : Nat} (w : Word) (h : e ∈ l) (hk : e.1 ≠ k) :
    e ∈ kvInsert l k w := by
  induction l with
  | nil => cases h
  | cons x l ih =>
    obtain ⟨k', w'⟩ := x
    unfold kvInsert
    rcases List.mem_cons.1 h with rfl | hl
    · rw [if_neg hk]
      split_ifs <;> simp
    · split_ifs <;> simp [hl, ih hl]

/-- A listed entry outlasts a write of another key. -/
theorem mem_kvPut_of_ne {d : Nat → Nat} {l : Kv} {e : Nat × Word} {k : Nat} (w : Word) (h : e ∈ l) (hk : e.1 ≠ k) :
    e ∈ kvPut d l k w := by
  unfold kvPut
  split
  · exact mem_kvErase_of_ne h hk
  · exact mem_kvInsert_of_ne w h hk

/-! ## What a halt and a partition's reset leave behind -/

/-- The kind code of a page is a number of five bits other than 0. -/
theorem kind_bounds (b : Blk) : 0 < b.kind ∧ b.kind < 32 := by
  cases b with
  | stwC i =>
    simp only [Blk.kind]
    split_ifs <;> decide
  | _ => simp [Blk.kind]

/-- Path elements stand above the five bits of the kind in PAGE_ID. -/
theorem pathSum_mod (l : List (Nat × Nat)) (v : Nat) :
    l.foldl (fun v e => v + e.1 * 2 ^ (9 + 11 * e.2)) v % 32 = v % 32 := by
  induction l generalizing v with
  | nil => rfl
  | cons e l ih =>
    rw [List.foldl_cons, ih, show e.1 * 2 ^ (9 + 11 * e.2) = 32 * (e.1 * 2 ^ (4 + 11 * e.2)) by ring]
    omega

/-- The low five bits of PAGE_ID are the page's kind (R26). -/
theorem pageId_mod (s : State) (b : Blk) : s.pageId b % 32 = b.kind := by
  have hk := (kind_bounds b).2
  have hp := pathSum_mod ((s.fullPath b).zip (upTo 5)) 0
  unfold State.pageId
  simp only
  omega

/-- The word of PAGE_ID is never the zero that the halt record reads at reset. -/
theorem pageId_word_ne (s : State) (b : Blk) : BitVec.ofNat 64 (s.pageId b) ≠ 0 := by
  have hm := pageId_mod s b
  have hk := (kind_bounds b).1
  intro h
  have hz : s.pageId b % 2 ^ 64 = 0 := by simpa using congrArg BitVec.toNat h
  omega

/-- The key of the page that the halt record names (R417). -/
def haltKey : Nat := regKey Blk.fltDev.page 0x118

/-- A halt record lists the page that it names: nothing written after it in the record takes that out. -/
theorem haltRecord_listed (s : State) (a : Act) (b : Blk) : ∃ e ∈ (s.haltRecord a (s.pageId b)).regs, e.1 = haltKey := by
  have hne : BitVec.ofNat 64 (s.pageId b) ≠ BitVec.ofNat 64 (resetKey haltKey) := pageId_word_ne s b
  have hl : (haltKey, BitVec.ofNat 64 (s.pageId b)) ∈ (s.setReg .fltDev 0x118 (s.pageId b)).regs := by
    show _ ∈ kvPut resetKey s.regs haltKey _
    rw [kvPut, if_neg hne]
    exact mem_kvInsert_self _ _ _
  exact ⟨_, mem_kvPut_of_ne _ hl (by decide : haltKey ≠ regKey Blk.fltDev.page 0x120), rfl⟩

/-- A level action leaves its mark: the halt record names a page, or some partition has no consent left. -/
def State.Marked (s : State) : Prop :=
  (∃ e ∈ s.regs, e.1 = haltKey) ∨ ∃ p < 16, ∀ e ∈ s.sec.consents, e.1 ≠ p

/-- A halt of a scope that is not FAULTED yet leaves the halt record. -/
theorem haltScope_marked (s : State) (a : Act) : s.haltScope a = s ∨ (s.haltScope a).Marked := by
  unfold State.haltScope
  simp only
  generalize (if a.level = 5 then Scope.device else a.blk.scope) = sc
  split
  · exact .inl rfl
  · have h := fun act => haltRecord_listed ((s.faultAll sc.root).inc sc.flt FLT_HALTS_count) act a.blk
    split
    · exact .inr (.inl (h _))
    · exact .inr (.inl (h _))

/-- The end of a partition's consent leaves the Chrysalis none of it (R369 step 4). -/
theorem endConsent_consents (s : State) (p : Nat) : ∀ e ∈ (s.endConsent p).sec.consents, e.1 ≠ p := by
  unfold State.endConsent
  intro e he
  simpa only [bne_iff_ne] using (List.mem_filter.1 he).2

/-- The reset of a partition ends its consent (R369). -/
theorem partReset_consents (s : State) (p : Nat) : ∀ e ∈ (s.partReset p).sec.consents, e.1 ≠ p := by
  unfold State.partReset
  exact endConsent_consents _ p

/-- A level action changes nothing or leaves its mark. -/
theorem runAct_marked (s : State) (a : Act) : s.runAct a = s ∨ (s.runAct a).Marked := by
  unfold State.runAct
  split
  · exact .inr (.inr ⟨_, bits_lt _ 0 4, partReset_consents _ _⟩)
  · exact haltScope_marked s a

/-- The actions that levels owe change nothing but what is owed, or the last one that acted left its mark. -/
theorem settleN_marked (n : Nat) (s : State) :
    (∃ l, State.settleN n s = { s with acts := l }) ∨ (State.settleN n s).Marked := by
  induction n generalizing s with
  | zero => exact .inl ⟨s.acts, rfl⟩
  | succ n ih =>
    unfold State.settleN
    split
    case h_1 => exact .inl ⟨s.acts, rfl⟩
    case h_2 a l _ =>
      rcases ih (State.runAct { s with acts := l } a) with ⟨l', hl⟩ | hm
      · rw [hl]
        rcases runAct_marked { s with acts := l } a with hr | hm
        · exact .inl ⟨l', by rw [hr]⟩
        · exact .inr hm
      · exact .inr hm

/-! ## What the rest of settling leaves alone -/

/-- What notices make of a state: outputs come to it, the array stores, the Chrysalis and the debug port stay as they
were, and, unless EXTEST idles the transmitters (R477), the registers change only where something left the part. -/
structure Notified (s t : State) : Prop where
  arr : t.arr = s.arr
  sec : t.sec = s.sec
  dbg : t.dbg = s.dbg
  out : t.out = [] → s.out = []
  regs : s.dbg.tap ≠ .extest → t.out = [] → t.regs = s.regs

theorem Notified.refl (s : State) : Notified s s := ⟨rfl, rfl, rfl, id, fun _ _ => rfl⟩

theorem Notified.trans {s t u : State} (h : Notified s t) (k : Notified t u) : Notified s u where
  arr := k.arr.trans h.arr
  sec := k.sec.trans h.sec
  dbg := k.dbg.trans h.dbg
  out := h.out ∘ k.out
  regs ht ho := (k.regs (h.dbg ▸ ht) ho).trans (h.regs ht (k.out ho))

/-- An output leaves the part unless EXTEST idles it. -/
theorem emit_out_ne_nil {s : State} (h : s.dbg.tap ≠ .extest) (ch : Chan) (tag : Nat) (ns : List Nat) (bs : List Byte) :
    (s.emit ch tag ns bs).out ≠ [] := by
  have hf : (s.dbg.tap == .extest) = false := by simpa using h
  simp [State.emit, hf]

theorem emit_notified (s : State) (ch : Chan) (tag : Nat) (ns : List Nat) (bs : List Byte) :
    Notified s (s.emit ch tag ns bs) where
  arr := State.emit_arr s ch tag ns bs
  sec := State.emit_sec s ch tag ns bs
  dbg := State.emit_dbg s ch tag ns bs
  out h := by
    unfold State.emit at h
    split at h
    · exact h
    · simp at h
  regs _ _ := State.emit_regs s ch tag ns bs

/-- What has been sent may be counted in a register: the output stands beside the count. -/
theorem emit_inc_notified (s : State) (ch : Chan) (tag : Nat) (ns : List Nat) (bs : List Byte) (b : Blk) (f : Fld) :
    Notified s ((s.emit ch tag ns bs).inc b f) := by
  obtain ⟨ha, hs, hd, ho, _⟩ := emit_notified s ch tag ns bs
  exact ⟨by rwa [State.inc_arr], by rwa [State.inc_sec], by rwa [State.inc_dbg], by rwa [State.inc_out],
    fun ht h => absurd h (by rw [State.inc_out]; exact emit_out_ne_nil ht ch tag ns bs)⟩

theorem pt_notified (s : State) (t : Tbl) (sc i : Nat) (f : Fld) (v : Nat) : Notified s (s.pt t sc i f v) :=
  ⟨State.pt_arr .., State.pt_sec .., State.pt_dbg .., fun h => State.pt_out .. ▸ h, fun _ _ => State.pt_regs ..⟩

theorem msi_notified (s : State) (fn v : Nat) : Notified s (s.msi fn v) := by
  unfold State.msi
  split
  · exact .refl s
  · split
    · exact pt_notified s _ _ _ _ _
    · exact emit_inc_notified s _ _ _ _ _ _

theorem ibi_notified (s : State) (byte : Nat) : Notified s (s.ibi byte) := by
  obtain ⟨ha, hs, hd, ho, hr⟩ := emit_notified s .ibi byte [byte] []
  exact ⟨ha, hs, hd, ho, hr⟩

/-- The notice of a change of the DEV level writes no memory. -/
theorem levelNotice_notified (s : State) : Notified s s.levelNotice := by
  have told (l : Nat) {t : State} (h : Notified s t) :
      Notified s { t with alarm := false, hst := { t.hst with levelSeen := l } } :=
    ⟨h.arr, h.sec, h.dbg, h.out, h.regs⟩
  unfold State.levelNotice
  split
  · refine told _ ?_
    split
    · simp only
      split
      · exact (msi_notified s 0 0).trans (ibi_notified _ 1)
      · exact msi_notified s 0 0
    · exact .refl s
  · exact .refl s

/-- The check for overrun changes registers alone, beside the level actions that it owes (R34). -/
theorem overrun_regsOnly (s : State) : RegsOnly s s.overrun := by
  unfold State.overrun
  generalize s.capPages = l
  refine List.foldlRecOn l _ (motive := RegsOnly s) (.refl s) ?_
  intro t ht pg _
  split
  · exact ht
  · simp only
    split
    · exact ht.trans ((p_regsOnly t _ _ _).trans (raiseBy_regsOnly _ _ _ none))
    · exact ht

/-- Where nothing has left the part by the end of settling, the array stores are as they were before it, or a level
action has left its mark. -/
theorem settle_arr {s : State} (ht : s.settle.dbg.tap ≠ .extest) (ho : s.settle.out = []) :
    s.settle.arr = s.arr ∨ s.settle.Marked := by
  have hn := levelNotice_notified (State.settleN 64 s.overrun)
  have hr := hn.regs (hn.dbg ▸ ht) ho
  obtain ⟨r, a, l, he⟩ := overrun_regsOnly s
  rcases settleN_marked 64 s.overrun with ⟨l', hl⟩ | hm
  · refine .inl (hn.arr.trans ?_)
    rw [hl, he]
  · refine .inr ?_
    show State.Marked (State.levelNotice _)
    unfold State.Marked
    rw [hr, hn.sec]
    exact hm

/-! ## A region that did not verify as zero -/

/-- Region 9, one byte of the array stores that holds a 1, is being erased and did not verify as zero. Every partition
has given consent, and nothing is owed. -/
def unverified : State :=
  { State.reset with
    tabs := [(tabKey .chrRegion 0 9 0, 2 ^ 52), (tabKey .chrRegion 0 9 1, 1), (tabKey .chrRegion 0 9 2, 2 ^ 6)]
    arr := [(0, 1)]
    sec := { SecSt.reset with consents := (upTo 16).map (·, 0), unzeroed := [9] } }

theorem unverified_wf : unverified.Wf := ⟨rfl, by decide, rfl, rfl, rfl, rfl⟩

theorem unverified_calm : unverified.Calm := ⟨rfl, rfl, rfl⟩

/-- A region that did not verify as zero stays as it is until a repair (R390, R405). -/
theorem regionZeroed_unverified : exec (.regionZeroed 9 true) unverified = .next unverified := by
  show State.done unverified = _
  exact congrArg Host.Outcome.next (settle_calm unverified_calm)

/-- Every partition's consent stands and the halt record is empty. -/
theorem unverified_not_marked : ¬ unverified.Marked := by
  rintro (⟨e, he, -⟩ | ⟨p, hp, hc⟩)
  · cases he
  · exact hc (p, 0) (by decide +revert) rfl

/-- Refutes O54: a region whose erasing did not verify as zero is left as it is by a later REGION_ZEROED, until a repair
(R390, R405). The state `unverified` meets the clause's conditions and settles to itself; a state that settles to it
holds its byte too, so no such state reads zero in the region. -/
theorem not_memoryBytes : ¬ Obligations.MemoryBytes := by
  rintro ⟨-, -, h⟩
  obtain ⟨u, hu, -, hz⟩ := h 9 unverified 1 0 1 unverified_wf (by decide) (by decide) (by decide) (by decide) (by decide)
  have hs : u.settle = unverified := by
    rw [regionZeroed_unverified] at hu
    exact (Host.Outcome.next.inj hu).symm
  have ha : u.arr = [(0, 1)] := by
    rcases settle_arr (s := u) (by rw [hs]; decide) (by rw [hs]; rfl) with h | h
    · rw [← h, hs]; rfl
    · exact absurd (hs ▸ h) unverified_not_marked
  have hb : memRead u.arr 0 = 0 := hz 1 0 (by decide)
  rw [ha] at hb
  exact absurd hb (by decide)

end Sys2Proof.Machine

/-! # Broods and pages: reset, controls, freeze, snapshots and the endpoint's resets

O2, O6, O7, O8, O42 and O44. What the checks that every write of a register passes first make of a write that they let
through is said once; each operation of a page then has an equation per case. -/

namespace Sys2Proof.Machine

/-! ## After reset -/

/-- Settles O2: the stores list nothing, so every word reads its reset value and every byte zero. -/
theorem resetHolds : Obligations.ResetHolds := by
  refine ⟨fun b off => ?_, fun t sc i wd => ?_, fun sp a => ?_, fun a => ⟨rfl, rfl, rfl, rfl, rfl, rfl, rfl, rfl⟩⟩
  · exact BitVec.toNat_ofNat _ _
  · exact BitVec.toNat_ofNat _ _
  · match sp with
    | 0 | 1 | _ + 2 => rfl

/-! ## Writes that the checks let through -/

/-- A write that opens its page reaches the page's block (R39, R30, R41). -/
theorem onWrite_of_opens {s : State} {m pg off : Nat} {b : Blk} (h : s.opens m pg off b) (f : Blk → State) :
    s.onWrite m pg off f = f b := by
  simp only [State.opens, Bool.and_eq_true, beq_iff_eq, Bool.not_eq_true'] at h
  obtain ⟨⟨hb, hm⟩, hs⟩ := h
  simp [State.onWrite, hb, hm, hs]

/-- A write of CTRL that no rule bars is applied. -/
theorem writeCtrl_of_opens {s : State} {m pg v : Nat} {b : Blk} (h : s.opens m pg 0x018 b) (hb : b ≠ .ccn)
    (hc : bits v 4 1 = 0 → s.ctrlBarred b v = false) (hp : s.poolMisfit b v = false) :
    s.writeCtrl m pg v = s.applyCtrl b v := by
  have hbar : ¬(bits v 4 1 = 0 ∧ s.ctrlBarred b v) := fun ⟨h0, h1⟩ => by simp [hc h0] at h1
  rw [State.writeCtrl, onWrite_of_opens h, if_neg (fun hx => hb hx.1), if_neg hbar, if_neg (by simp [hp])]

/-- A write that resets enables no pool manager, so no layout misfits it (R147). -/
theorem poolMisfit_of_reset (s : State) (b : Blk) {v : Nat} (h : bits v 4 1 = 1) : s.poolMisfit b v = false := by
  cases b with
  | pool d => simp [State.poolMisfit, h]
  | _ => rfl

/-- Settles O6: the checks let the write through, and it is applied as its reset bit asks. -/
theorem controlWritesAct : Obligations.ControlWritesAct := by
  refine ⟨fun m pg v s b i hi ho hb hv hc hp => ?_, fun m pg v s b ho hb hv => ?_⟩
  · have hw := writeCtrl_of_opens ho hb (fun _ => hc) hp
    rw [State.applyCtrl, if_neg (by omega)] at hw
    rw [← hw]
    simp only [List.mem_cons, List.not_mem_nil, or_false] at hi
    rcases hi with rfl | rfl | rfl | rfl <;> rfl
  · have hw := writeCtrl_of_opens ho hb (by omega) (poolMisfit_of_reset s b hv)
    rw [State.applyCtrl, if_pos hv] at hw
    rw [exec_ctrlReset, execCtrlReset, hw, State.done]

/-! ## Training -/

/-- The training of a block with nothing of its own to do ends in the state that the controls ask (R29). -/
theorem finishTraining_plain {s : State} {pg : Nat} {b : Blk} (hb : s.blk pg = some b) (ht : b.trainsPlain) :
    s.finishTraining pg = (s.trained b).followAll b := by
  cases b with
  | grp | pool | pci => simp [Blk.trainsPlain] at ht
  | _ => simp [State.finishTraining, hb]

/-- A port group's training ends once its ports are trained (R51). -/
theorem finishTraining_grp {s : State} {pg g : Nat} (hb : s.blk pg = some (.grp g)) (ht : s.groupTrained g) :
    s.finishTraining pg = (s.trained (.grp g)).followAll (.grp g) := by
  simp [State.finishTraining, hb, ht]

/-- A pool manager's training builds its layout first (R148). -/
theorem finishTraining_pool {s : State} {pg d : Nat} (hb : s.blk pg = some (.pool d))
    (ht : s.st (.pool d) = .training) :
    s.finishTraining pg = ((s.poolInit d).trained (.pool d)).followAll (.pool d) := by
  simp [State.finishTraining, hb, ht]

/-- While PERST is asserted the endpoint's training brings up no link (R445). -/
theorem finishTraining_pci_perst {s : State} {pg : Nat} (hb : s.blk pg = some .pci) (hp : s.pins.perstN = false) :
    s.finishTraining pg = (s.trained .pci).followAll .pci := by
  simp [State.finishTraining, hb, hp]

/-- An endpoint that training brings into service has its link up (R441). -/
theorem finishTraining_pci_up {s : State} {pg : Nat} (hb : s.blk pg = some .pci) (hp : s.pins.perstN)
    (ht : ((s.trained .pci).followAll .pci).st .pci = .inService) :
    s.finishTraining pg = ((s.trained .pci).followAll .pci).pciUp := by
  simp [State.finishTraining, hb, hp, ht]

/-! ## Captures -/

/-- A page with no descendants whose effective freeze is 1 captures and is frozen at once (R32). -/
theorem captureOne_leaf {s : State} {b : Blk} (hf : s.effFreeze b) (hc : s.capPages.contains b.page = false)
    (hk : b.kids = []) : s.captureOne b = (s.capture b).p b STATE_frozen 1 := by
  rw [State.captureOne, if_pos ⟨hf, by rw [hc]; rfl⟩]
  simp [hk]

/-- A brood page whose effective freeze is 1 captures, and is frozen only with its descendants (R32). -/
theorem captureOne_brood {s : State} {b : Blk} (hf : s.effFreeze b) (hc : s.capPages.contains b.page = false)
    (hk : b.kids ≠ []) : s.captureOne b = s.capture b := by
  rw [State.captureOne, if_pos ⟨hf, by rw [hc]; rfl⟩]
  simp [hk]

/-- A capture marker of a page captures the pages that capture with it. -/
theorem captureMarker_of_blk {s : State} {pg : Pg} {b : Blk} (hb : s.blk pg.toNat = some b) :
    exec (.captureMarker pg) s = .next ((s.captureWith b).foldl State.captureOne s).settle := by
  rw [exec_captureMarker, execCaptureMarker, hb, State.done]

/-- The pages of a tile of the pattern capture with those of its other members (R32). -/
theorem captureWith_member {s : State} {t : Nat} (ht : s.members.contains t) (b : Blk) (hb : b = .swt t ∨ b = .xbarT t) :
    s.captureWith b = s.members.flatMap fun i => [Blk.swt i, Blk.xbarT i] := by
  rcases hb with rfl | rfl <;> exact if_pos ht

/-- Settles O7: each command's equation in the case that the clause names. -/
theorem pageProgress : Obligations.PageProgress := by
  refine ⟨fun pg s b hb ht => ?_, fun pg s g hb ht => ?_, fun pg s d hb ht => ?_, fun pg s hb hp => ?_,
    fun pg s hb hp ht => ?_, fun pg s b hb => ?_, fun pg s b hb hw hf hc hk => ?_, fun pg s b hb hw hf hc hk => ?_,
    fun pg s t hb ht => ?_, fun pg s b hb hf hc => ?_⟩
  · rw [exec_trainingDone, execTrainingDone, State.done, finishTraining_plain hb ht]
  · rw [exec_trainingDone, execTrainingDone, State.done, finishTraining_grp hb ht]
  · rw [exec_trainingDone, execTrainingDone, State.done, finishTraining_pool hb ht]
  · rw [exec_trainingDone, execTrainingDone, State.done, finishTraining_pci_perst hb hp]
  · rw [exec_trainingDone, execTrainingDone, State.done, finishTraining_pci_up hb hp ht]
  · rw [exec_quiesceDrainDone, execQuiesceDrainDone, hb]
  · rw [captureMarker_of_blk hb, hw, List.foldl_cons, List.foldl_nil, captureOne_leaf hf hc hk]
  · rw [captureMarker_of_blk hb, hw, List.foldl_cons, List.foldl_nil, captureOne_brood hf hc hk]
  · rcases hb with hb | hb
    · rw [captureMarker_of_blk hb, captureWith_member ht _ (.inl rfl)]
    · rw [captureMarker_of_blk hb, captureWith_member ht _ (.inr rfl)]
  · rw [exec_freezeCaptureDone, execFreezeCaptureDone, hb]
    exact congrArg _ (if_pos ⟨hf, hc⟩)

/-! ## Snapshots -/

/-- The write-out of a page's snapshot in progress. -/
theorem snapWriteoutDone_of_snap {s : State} {pg : Pg} {b : Blk} {x : Snap} (hb : s.blk pg.toNat = some b)
    (hx : (s.snaps.find? fun y => y.page == b.page) = some x) :
    exec (.snapWriteoutDone pg) s = .next (s.writeOut b x).settle := by
  rw [exec_snapWriteoutDone, execSnapWriteoutDone, State.done]
  simp only [hb, hx]

/-- Settles O8: a take starts, and a write-out ends, in the case that the clause names. -/
theorem snapshotRows : Obligations.SnapshotRows := by
  refine ⟨fun m pg v s b ho hv hb hm => ?_, fun pg s b x hb hx hc => ?_, fun pg s b x hb hx hc hf hd => ?_,
    fun pg s b x hb hx hc hf hd => ?_⟩
  · rw [exec_snapTake, execSnapTake, State.writeSnap, onWrite_of_opens ho, if_pos hv, if_neg (by simp [hb, hm]), State.done]
  · rw [snapWriteoutDone_of_snap hb hx, State.writeOut, if_pos hc]
  · rw [snapWriteoutDone_of_snap hb hx, State.writeOut, if_neg (by simp [hc]), if_neg (by simp [hf]), if_pos hd]
  · rw [snapWriteoutDone_of_snap hb hx, State.writeOut, if_neg (by simp [hc]), if_neg (by simp [hf]), if_neg hd]

/-! ## BAR accesses -/

/-- An aligned access of 8 bytes fits every BAR (R443). -/
theorem barFits_qword (bar : Nat) {a : Nat} (w : Bool) (h : a % 8 = 0) : barFits bar a 8 w = true := by
  simp [barFits, h]

/-- BAR4 takes aligned accesses of 4 and of 8 bytes (assumption 136). -/
theorem barFits_msix {a n : Nat} (w : Bool) (hn : n = 4 ∨ n = 8) (h : a % n = 0) : barFits 4 a n w = true := by
  rcases hn with rfl | rfl <;> simp [barFits, h]

/-- A write that does not fit its BAR is dropped (R443). -/
theorem barWrite_unfit (s : State) (m v : Nat) {bar a n : Nat} (h : barFits bar a n true = false) :
    s.barWrite m bar a n v = s.badAccess := by
  unfold State.barWrite
  exact if_pos (by rw [h]; rfl)

/-- A write of BAR0 is a write of the page register at its address (R442). -/
theorem barWrite_pages (s : State) (m v : Nat) {a : Nat} (h : a % 8 = 0) :
    s.barWrite m 0 a 8 v = s.regWrite m (a / 4096) (a % 4096) v := by
  rw [State.barWrite, barFits_qword 0 true h]
  rfl

/-- A write of BAR2 is a write of the ring page at its address (R442). -/
theorem barWrite_rings (s : State) (m v : Nat) {a : Nat} (h : a % 8 = 0) :
    s.barWrite m 2 a 8 v = s.ringPageWrite m (a / 4096) (a % 4096) v := by
  rw [State.barWrite, barFits_qword 2 true h]
  rfl

/-- A write of BAR4 is a write of the function's MSI-X table (R442). -/
theorem barWrite_msix (s : State) (v : Nat) {m a n f : Nat} (hn : n = 4 ∨ n = 8) (h : a % n = 0)
    (hf : hostFn m = some f) : s.barWrite m 4 a n v = s.msixWrite f a n v := by
  rw [State.barWrite, barFits_msix true hn h]
  simp only [hf]
  rfl

/-- PCI_RING_CTRL of a ring that is off takes sizes and a vector that the ring allows, and starts it where asked (R447). -/
theorem writeRingCtrl_off {s : State} (m : Nat) {r v : Nat} (hn : s.tb .ring 0 r ring_enable = false)
    (hv : tblOk .ring 0 v) (hw : bits v 10 8 < fnVectors (s.ringOwner r)) :
    s.writeRingCtrl m r v =
      if bit v 0 then (s.storeTw .ring 0 r 0 v).startRing r else s.storeTw .ring 0 r 0 v := by
  simp [State.writeRingCtrl, hn, hv, Nat.not_le.2 hw]

/-- A tail that does not run too far ahead of head is stored (R447). -/
theorem writeRingTail_near {s u : State} {r v : Nat} (hv : v < 2 ^ 32) (hu : u = s.prg r ring_tail v)
    (h : u.tb .ring 0 r ring_enable → (v + 2 ^ 32 - u.rg r ring_head) % 2 ^ 32 ≤ 2 ^ u.rg r ring_cmd_log2) :
    s.writeRingTail r v = u := by
  rw [State.writeRingTail, Nat.mod_eq_of_lt hv, ← hu]
  exact if_neg fun ⟨he, hf⟩ => absurd (h he) (Nat.not_le.2 hf)

/-- The ring page's control, tail and consumed registers (R446 to R448). -/
theorem ringPageWrite_ctrl {s : State} {m j r : Nat} (h : s.hostRing m j = some r) (v : Nat) :
    s.ringPageWrite m j 0x000 v = s.writeRingCtrl m r v := by
  simp only [State.ringPageWrite, h]

theorem ringPageWrite_tail {s : State} {m j r : Nat} (h : s.hostRing m j = some r) (v : Nat) :
    s.ringPageWrite m j 0x018 v = s.writeRingTail r (v % 2 ^ 32) := by
  simp only [State.ringPageWrite, h]

theorem ringPageWrite_consumed {s : State} {m j r : Nat} (h : s.hostRing m j = some r) (v : Nat) :
    s.ringPageWrite m j 0x020 v = s.prg r ring_consumed (v % 2 ^ 32) := by
  simp only [State.ringPageWrite, h]

/-- Settles O42: each access in the case that the clause names. -/
theorem registerAccessRows : Obligations.RegisterAccessRows := by
  refine ⟨fun m a v s ha => ?_, fun m a v s ha => ?_, fun m a n v s f hn ha hf => ?_, fun m k a n v s h => ?_,
    fun m k a n s r h hr => ?_, fun m k a n s h => ?_, fun m r v s k hk hn hv hw => ?_, fun m r v s u k hk hu ht => ?_,
    fun m r v s k hk => ?_, fun f n s u hf hn hu => ?_⟩
  · exact congrArg (fun t => Host.Outcome.next t.settle) (barWrite_pages s _ _ ha)
  · exact congrArg (fun t => Host.Outcome.next t.settle) (barWrite_rings s _ _ ha)
  · have hn' : n.toNat = 4 ∨ n.toNat = 8 := hn.imp (by rintro rfl; rfl) (by rintro rfl; rfl)
    exact congrArg (fun t => Host.Outcome.next t.settle) (barWrite_msix s _ hn' ha hf)
  · rw [exec_registerWrite, execRegisterWrite, State.done, barWrite_unfit s _ _ h]
  · rw [exec_registerRead, execRegisterRead, if_pos h, State.done, hr]
  · rw [exec_registerRead, execRegisterRead, if_neg (by simp [h]), State.done]
  · rw [exec_ringEnable, execRingEnable, State.done, ringPageWrite_ctrl hk, writeRingCtrl_off m.toNat hn hv hw]
  · rw [exec_ringTail, execRingTail, State.done, ringPageWrite_tail hk,
      writeRingTail_near (Nat.mod_lt _ (by decide)) hu ht]
  · rw [exec_ringConsumed, execRingConsumed, State.done, ringPageWrite_consumed hk]
  · rw [exec_msixVectorUnmask, execMsixVectorUnmask, State.unmask, if_neg (by omega), hu]

/-! ## Resets of the endpoint -/

/-- Settles O44: an edge is a change of the pin, and the functions are 0 to 16. -/
theorem endpointResetRows : Obligations.EndpointResetRows := by
  refine ⟨fun l s hl => ?_, fun s => rfl, fun f s hf => ?_⟩
  · rw [exec_pciePerstN, execPciePerstN, if_neg hl, State.done]
  · rw [exec_flr, execFlr, if_pos (by omega : f.toNat < 17)]

end Sys2Proof.Machine

/-! # Denied accesses

O46. Every write of a register, whichever block and operation it is for, begins with the checks of its page, so a denial
by the access table ends it there (R39). -/

namespace Sys2Proof.Machine

/-- A write that the access table denies reaches no block: it is counted and recorded (R39). -/
theorem onWrite_of_denied {s : State} {m pg off : Nat} {b : Blk} (hb : s.blk pg = some b)
    (hm : s.mayWrite m b off = false) (f : Blk → State) : s.onWrite m pg off f = s.denyWrite m b off := by
  simp only [State.onWrite, hb, hm, if_pos]

/-- What a write of a register at an offset of a page leaves: what the checks that every write passes first leave,
whatever the block makes of a write that they let through. -/
def Guarded (s : State) (m pg off : Nat) (t : State) : Prop := ∃ f, t = s.onWrite m pg off f

/-- The firmware's command register is at 0x510 on the Thorax's page and at 0x110 on a steward's. -/
theorem fw_cmd_off (b : Blk) : (fw b FW_CMD_op).off = if b = .thx then 0x510 else 0x110 := by
  unfold fw
  split <;> simp_all [FW_CMD_op, Fld.at]

/-- A write of the firmware's command register of a page that has one. -/
theorem fwCommand_guarded {s : State} (m v : Nat) {pg : Nat} {b : Blk} (hb : s.blk pg = some b)
    (hs : (b.isSteward || b == .thx) = true) : Guarded s m pg (fw b FW_CMD_op).off (s.fwCommand m pg v) := by
  simp only [State.fwCommand, hb, hs]
  exact ⟨_, rfl⟩

/-- A write of the command register of a slot of the Chrysalis. -/
theorem chrCommand_guarded (s : State) (m v : Nat) {off : Nat} (ho : 0x200 ≤ off ∧ off < 0x420 ∧ off % 0x20 = 0) :
    Guarded s m Blk.chr.page off (s.chrCommand m ((off - 0x200) / 0x20) v) := by
  have he : 0x200 + 0x20 * ((off - 0x200) / 0x20) = off := by omega
  unfold State.chrCommand
  rw [if_neg (by omega), he]
  exact ⟨_, rfl⟩

theorem synOp_guarded (s : State) (m off tb i : Nat) (f : State → Code × State) :
    Guarded s m Blk.syn.page off (s.synOp m off tb i f) := ⟨_, rfl⟩

theorem writePlain_guarded (s : State) (m pg off v : Nat) : Guarded s m pg off (s.writePlain m pg off v) := ⟨_, rfl⟩

/-- Each operation of a block's own registers begins with the checks of its page. -/
theorem blockWrite_guarded {s : State} (m off v : Nat) {b : Blk} (hb : s.blk b.page = some b) :
    Guarded s m b.page off (s.blockWrite m b.page off v b) := by
  unfold State.blockWrite
  split
  case h_4 | h_5 | h_6 | h_13 | h_14 | h_15 | h_37 =>
    simp only [State.writeGrpCfg, State.writeLaneCtrl, State.writePrbs, State.writeCls, State.writeLimit,
      State.poolCommand, State.hbmCommand, hb]
    exact ⟨_, rfl⟩
  case h_7 | h_8 | h_9 =>
    simp only [State.writeXing, hb, Blk.hasXing]
    exact ⟨_, if_neg (by decide)⟩
  case h_21 | h_22 | h_23 | h_24 | h_25 | h_26 => exact synOp_guarded s m _ _ _ _
  case h_29 | h_31 | h_33 =>
    simp only [State.scCommand, State.macCommand, State.trainCommand]
    exact ⟨_, rfl⟩
  case h_39 => exact fwCommand_guarded m v hb rfl
  case h_40 =>
    split
    · exact chrCommand_guarded s m v ‹_›
    · exact writePlain_guarded s m _ off v
  case h_41 =>
    split
    · exact ⟨_, rfl⟩
    · exact writePlain_guarded s m _ off v
  case h_42 =>
    split
    case isTrue h =>
      obtain ⟨hs, rfl⟩ := h
      have hf := fwCommand_guarded m v hb (by simp [hs])
      rwa [fw_cmd_off, if_neg (by rintro rfl; cases hs)] at hf
    case isFalse => exact writePlain_guarded s m _ off v
  all_goals exact ⟨_, rfl⟩

/-- Every write of a register passes first through the checks of its page (R39, R30, R41, R479). -/
theorem regWrite_guarded {s : State} (m off v : Nat) {pg : Nat} {b : Blk} (hb : s.blk pg = some b) :
    Guarded s m pg off (s.regWrite m pg off v) := by
  obtain rfl := blk_page hb
  unfold State.regWrite
  split
  case h_6 =>
    split
    · exact ⟨_, rfl⟩
    · rw [hb]
      exact blockWrite_guarded m off v hb
  all_goals exact ⟨_, rfl⟩

/-- A denied write of any register is counted and recorded, and does nothing else (R39). -/
theorem regWrite_of_denied {s : State} {m pg off : Nat} (v : Nat) {b : Blk} (hb : s.blk pg = some b)
    (hm : s.mayWrite m b off = false) : s.regWrite m pg off v = s.denyWrite m b off := by
  obtain ⟨f, hf⟩ := regWrite_guarded m off v hb
  rw [hf, onWrite_of_denied hb hm]

/-- The registers that a denied write changes on its page: its counters and its error record. -/
def denyRegs : List Nat := [0x28, 0x80, 0x88, 0xA0, 0xA8, 0x740, 0x758, 0x1000]

/-- A key tells its page and its offset apart. -/
theorem regKey_ne {p q o x : Nat} (ho : o < 0x2000) (hx : x < 0x2000) (h : p ≠ q ∨ o ≠ x) : regKey p o ≠ regKey q x := by
  unfold regKey
  omega

/-- A denied write leaves every other register as it was. -/
theorem denyWrite_reg {s : State} (h : s.Wf) (m off : Nat) {b c : Blk} {o : Nat}
    (hc : c.page ≠ b.page ∨ o ∉ denyRegs) (ho : o < 0x2000) : (s.denyWrite m b off).reg c o = s.reg c o := by
  have key : ∀ x ∈ denyRegs, regKey c.page o ≠ regKey b.page x := fun x hx =>
    regKey_ne ho (by simp only [denyRegs, List.mem_cons, List.not_mem_nil, or_false] at hx; omega)
      (hc.imp_right fun hn hx' => hn (hx' ▸ hx))
  have hsub : ∀ x ∈ 0x80 :: 0x88 :: errRegs cCMD_REFUSED, x ∈ denyRegs := by decide
  unfold State.denyWrite
  rw [refuse_reg (wf_inc h b _) m b c off .denied o fun x hx => key x (hsub x hx),
    reg_inc_other h b c DENIED_ACCESSES_count o (key _ (by decide))]

/-- A denied write raises the page's two counters and leaves DENIED in LAST_REFUSAL (R39). -/
theorem denyWrite_counts {s : State} (h : s.Wf) (m : Nat) (b : Blk) (off : Nat) :
    (s.denyWrite m b off).g b DENIED_ACCESSES_count = min (s.g b DENIED_ACCESSES_count + 1) (2 ^ 64 - 1) ∧
      (s.denyWrite m b off).g b REFUSED_CMDS_count = min (s.g b REFUSED_CMDS_count + 1) (2 ^ 64 - 1) ∧
      (s.denyWrite m b off).g b LAST_REFUSAL_code = Code.denied.val := by
  have hw := wf_inc h b DENIED_ACCESSES_count
  obtain ⟨hcode, hcount⟩ := refuse_last hw m b off .denied
  refine ⟨?_, ?_, hcode⟩
  · have hoff : ∀ x ∈ 0x80 :: 0x88 :: errRegs cCMD_REFUSED, 0xA8 ≠ x := by decide
    have hk : ∀ x ∈ 0x80 :: 0x88 :: errRegs cCMD_REFUSED, regKey b.page 0xA8 ≠ regKey b.page x := fun x hx he =>
      hoff x hx (Nat.add_left_cancel he)
    have hr := refuse_reg hw m b b off .denied 0xA8 hk
    exact (congrArg (bits · 0 64) hr).trans (g_inc_same h b DENIED_ACCESSES_count (by decide))
  · have hr : (s.inc b DENIED_ACCESSES_count).g b REFUSED_CMDS_count = s.g b REFUSED_CMDS_count :=
      congrArg (bits · 0 64)
        (reg_inc_other h b b DENIED_ACCESSES_count 0x80 (regKey_ne (by decide) (by decide) (.inr (by decide))))
    exact hcount.trans (by rw [hr])

/-- Settles O46: every write passes the checks of its page first, and the access table's denial ends it there. -/
theorem deniedAccess : Obligations.DeniedAccess := by
  refine ⟨fun m pg off s b hb hm => ?_, fun m pg off v s b h hb hm => ?_⟩
  · simp only [State.regRead, hb, hm]
    rfl
  · obtain ⟨hd, hr, hl⟩ := denyWrite_counts h m b off
    obtain ⟨r, a, l, he⟩ := denyWrite_regsOnly s m b off
    exact ⟨_, regWrite_of_denied v hb hm, hd, hr, hl, by rw [he], by rw [he], by rw [he], by rw [he], by rw [he],
      fun c o hc ho => denyWrite_reg h m off hc ho⟩

end Sys2Proof.Machine

/-! # Commands of the register kind

O55. Each command of the kind is made of writes of registers, events of classes and outputs; that such operations leave
the rest of the state alone carries over to sequences, folds and alternatives of them. -/

namespace Sys2Proof.Machine

/-- Two states that agree in everything but the registers, the outputs, the level actions owed and the notice of a
change of level. -/
def RegsSent (s t : State) : Prop := ∃ r o a l, t = { s with regs := r, out := o, acts := a, alarm := l }

theorem RegsSent.refl (s : State) : RegsSent s s := ⟨s.regs, s.out, s.acts, s.alarm, rfl⟩

theorem RegsSent.trans {s t u : State} (h : RegsSent s t) (k : RegsSent t u) : RegsSent s u := by
  obtain ⟨r, o, a, l, rfl⟩ := h
  obtain ⟨r', o', a', l', rfl⟩ := k
  exact ⟨r', o', a', l', rfl⟩

/-- A change of registers alone sends nothing. -/
theorem RegsOnly.sent {s t : State} (h : RegsOnly s t) : RegsSent s t := by
  obtain ⟨r, a, l, rfl⟩ := h
  exact ⟨r, s.out, a, l, rfl⟩

/-- What leaves the part changes the outputs alone. -/
theorem emit_sent (s : State) (ch : Chan) (tag : Nat) (ns : List Nat) (bs : List Byte) :
    RegsSent s (s.emit ch tag ns bs) := by
  unfold State.emit
  split
  · exact .refl s
  · exact ⟨s.regs, _, s.acts, s.alarm, rfl⟩

/-- A step of a fold that changes registers alone makes a fold that does. -/
theorem RegsOnly.foldl {α : Type} {f : State → α → State} (hf : ∀ s a, RegsOnly s (f s a)) (l : List α) (s : State) :
    RegsOnly s (l.foldl f s) :=
  List.foldlRecOn l f (motive := RegsOnly s) (.refl s) fun t ht a _ => ht.trans (hf t a)

/-- The same of a fold whose steps may send. -/
theorem RegsSent.foldl {α : Type} {f : State → α → State} (hf : ∀ s a, RegsSent s (f s a)) (l : List α) (s : State) :
    RegsSent s (l.foldl f s) :=
  List.foldlRecOn l f (motive := RegsSent s) (.refl s) fun t ht a _ => ht.trans (hf t a)

/-- The frame holds of an answer that is not settled. -/
theorem RegsFrame.next {s t : State} (h : RegsSent s t) : RegsFrame s (.next t) := by
  obtain ⟨r, o, a, l, rfl⟩ := h
  exact ⟨_, .inl rfl, rfl⟩

/-- The frame holds of an answer that is settled. -/
theorem RegsFrame.done {s t : State} (h : RegsSent s t) : RegsFrame s t.done := by
  obtain ⟨r, o, a, l, rfl⟩ := h
  exact ⟨_, .inr rfl, rfl⟩

/-! ## Operations that change registers alone -/

theorem add_regsOnly (s : State) (b : Blk) (f : Fld) (d : Nat) : RegsOnly s (s.add b f d) := p_regsOnly s b f _

theorem raise_regsOnly (s : State) (b : Blk) (c : Cls) : RegsOnly s (s.raise b c) := raiseBy_regsOnly s b c none

theorem finish_regsOnly (s : State) (b : Blk) (off : Nat) (c : Code) : RegsOnly s (s.finish b off c) :=
  setReg_regsOnly s b off _

theorem refuseOp_regsOnly (s : State) (m : Nat) (b : Blk) (off st : Nat) : RegsOnly s (s.refuseOp m b off st) :=
  (refuse_regsOnly s m b off .badArg).trans (finish_regsOnly _ b st .badArg)

/-- A write whose block takes it by changing registers alone does so whether or not the checks let it through. -/
theorem onWrite_regsOnly (s : State) (m pg off : Nat) {f : Blk → State} (hf : ∀ b, RegsOnly s (f b)) :
    RegsOnly s (s.onWrite m pg off f) := by
  unfold State.onWrite
  split
  · exact .refl s
  · split_ifs
    · exact denyWrite_regsOnly s m _ off
    · exact refuse_regsOnly s m _ off _
    · exact hf _

/-- An acknowledgement changes registers alone (R412). -/
theorem ackErr_regsOnly (s : State) (b : Blk) (mask : Nat) : RegsOnly s (s.ackErr b mask) := by
  refine .trans (.foldl (fun t c => ?_) (upTo 48) s) (alarm_regsOnly _)
  split
  · exact ((p_regsOnly t b _ 0).trans (setClsLevel_regsOnly _ b c 0 false)).trans (p_regsOnly _ b _ 0)
  · exact .refl t

theorem ackBelow_regsOnly (s : State) (b : Blk) (l : Nat) : RegsOnly s (s.ackBelow b l) :=
  .foldl (fun t k => ackErr_regsOnly t k _) b.subtree s

/-- Forced events change registers alone, beside the level actions that they owe (R418). -/
theorem forceAll_regsOnly (s : State) (m : Nat) (b : Blk) (v : Nat) : RegsOnly s (s.forceAll m b v) := by
  refine .foldl (fun t c => ?_) (upTo 48) s
  split
  · exact .refl t
  · split
    · exact raiseBy_regsOnly t b _ _
    · exact .refl t

theorem writeForce_regsOnly (s : State) (m pg v : Nat) : RegsOnly s (s.writeForce m pg v) :=
  onWrite_regsOnly s m pg _ fun b => by
    split
    · exact refuse_regsOnly s m b _ _
    · exact forceAll_regsOnly s m b v

theorem writeFltCmd_regsOnly (s : State) (m pg v : Nat) : RegsOnly s (s.writeFltCmd m pg v) :=
  onWrite_regsOnly s m pg _ fun b => by
    split_ifs
    · exact .refl s
    · exact refuseOp_regsOnly s m b _ _
    · exact (ackBelow_regsOnly s _ _).trans (finish_regsOnly _ b _ _)

/-- A die's store budget is shown in a register, and its breach raised (R176). -/
theorem checkBudget_regsOnly (s : State) (d : Nat) : RegsOnly s (s.checkBudget d) := by
  have hp := p_regsOnly s .xbarDev ⟨XBAR_DL_STATUS_budget_broken.off, XBAR_DL_STATUS_budget_broken.lo + d, 1⟩
    (b2n (131072 < s.budget d))
  unfold State.checkBudget
  dsimp only
  split
  · exact hp.trans (raise_regsOnly _ _ _)
  · exact hp

theorem grpCfgSet_regsOnly (s : State) (g v : Nat) : RegsOnly s (s.grpCfgSet g v) := by
  have hg := setReg_regsOnly s (.grp g) 0x100 (bits v 0 9)
  unfold State.grpCfgSet
  dsimp only
  split_ifs
  · exact hg.trans (setReg_regsOnly _ _ _ _)
  · exact hg.trans (setReg_regsOnly _ _ _ _)
  · exact hg

theorem writeGrpCfg_regsOnly (s : State) (m pg v : Nat) : RegsOnly s (s.writeGrpCfg m pg v) := by
  unfold State.writeGrpCfg
  split
  · refine onWrite_regsOnly s m pg _ fun b => ?_
    split_ifs
    · exact refuse_regsOnly s m b _ _
    · exact refuse_regsOnly s m b _ _
    · exact (grpCfgSet_regsOnly s _ v).trans (checkBudget_regsOnly _ _)
  · exact .refl s

theorem alignXing_regsOnly (s : State) (b : Blk) (n : Nat) : RegsOnly s (s.alignXing b n) :=
  ((p_regsOnly s b _ _).trans (p_regsOnly _ b _ _)).trans (inc_regsOnly _ b _)

theorem realign_regsOnly (s : State) (b : Blk) : RegsOnly s (s.realign b) := by
  have both := (alignXing_regsOnly s b 0).trans (alignXing_regsOnly _ b 1)
  unfold State.realign
  split
  · split
    · exact alignXing_regsOnly s _ 1
    · exact both
  · exact both

theorem writeXing_regsOnly (s : State) (m pg v : Nat) : RegsOnly s (s.writeXing m pg v) := by
  unfold State.writeXing
  split
  · exact .refl s
  · split
    · exact .refl s
    · refine onWrite_regsOnly s m pg _ fun b => ?_
      split_ifs
      · exact .refl s
      · exact realign_regsOnly s b
      · exact refuse_regsOnly s m b _ _

theorem xingSlip_regsOnly (s : State) (b : Blk) : RegsOnly s (s.xingSlip b) := by
  unfold State.xingSlip
  split
  · exact ((inc_regsOnly s b _).trans (inc_regsOnly _ b _)).trans (raise_regsOnly _ b _)
  · exact .refl s

/-- A service tick counts a die's lost lanes, and raises the class of a budget that runs out (R422). -/
theorem lostTick_regsOnly (s : State) (k : Nat) : RegsOnly s (s.lostTick k) := by
  have hc := (add_regsOnly s (.die k) LNK_LOST_FAULT_lane_ms (s.lostLanes k true)).trans
    (add_regsOnly _ (.die k) LNK_LOST_OTHER_lane_ms (s.lostLanes k false))
  unfold State.lostTick
  dsimp only
  split_ifs
  · exact .refl s
  · exact hc.trans (raise_regsOnly _ _ _)
  · exact hc

/-- A message of a port's control channel waits in a register of its carrier lane. -/
theorem sendCaps_regsOnly (s : State) (port : Nat) : RegsOnly s (s.sendCaps port) :=
  (RegsOnly.foldl (fun t _ => setReg_regsOnly t _ _ _) (s.portLanes port) s).trans (p_regsOnly _ _ _ _)

theorem showPos_regsOnly (s : State) : RegsOnly s s.showPos :=
  .foldl (fun t _ => (((p_regsOnly t _ _ _).trans (p_regsOnly _ _ _ _)).trans (p_regsOnly _ _ _ _)).trans
    (p_regsOnly _ _ _ _)) s.members s

theorem joinPattern_regsOnly (s : State) (t : Nat) : RegsOnly s (s.joinPattern t) := by
  have join (u : State) : RegsOnly u ((u.p .xbarDev ⟨XBAR_MEMBERS_in_pattern.off, t, 1⟩ 1).p .xbarDev
      ⟨XBAR_MEMBERS_evacuated.off, 32 + t, 1⟩ 0).showPos :=
    ((p_regsOnly u _ _ _).trans (p_regsOnly _ _ _ _)).trans (showPos_regsOnly _)
  unfold State.joinPattern
  dsimp only
  split
  · exact (p_regsOnly s _ _ _).trans (join _)
  · exact join s

/-! ## Operations that send as well -/

theorem sendPfc_sent (s : State) (port vc time : Nat) : RegsSent s (s.sendPfc port vc time) :=
  (emit_sent s _ _ _ _).trans (inc_regsOnly _ _ _).sent

/-- The broadcast of the rails' status words (R459). -/
theorem pmbStatus_sent (s : State) : RegsSent s s.pmbStatus :=
  .foldl (fun t i => by
    split
    · exact emit_sent t _ _ _ _
    · exact .refl t) (upTo 16) s

/-- A request of the management port changes registers alone and sends its answer, where its meaning does so (R455). -/
theorem request_sent (s : State) (op : Nat) (req : List Byte) (n : Option Nat)
    {f : List Byte → State → Code × List Byte × State} (hf : ∀ a t, RegsOnly t (f a t).2.2) :
    RegsSent s (s.request op req n f) := by
  have hi := (inc_regsOnly s .thx THX_I3C_CMDS_count).sent
  unfold State.request
  dsimp only
  split_ifs
  · exact .refl s
  · exact (raise_regsOnly s _ _).sent
  · exact emit_sent s _ _ _ _
  · exact emit_sent s _ _ _ _
  · exact emit_sent s _ _ _ _
  · exact hi.trans (emit_sent _ _ _ _ _)
  · exact hi.trans (emit_sent _ _ _ _ _)
  · exact (hi.trans (hf _ _).sent).trans (emit_sent _ _ _ _ _)

theorem mgIbiCfg_regsOnly (a : List Byte) (s : State) : RegsOnly s (State.mgIbiCfg a s).2.2 := by
  unfold State.mgIbiCfg
  dsimp only
  split
  · exact .refl s
  · exact (p_regsOnly s _ _ _).trans (p_regsOnly _ _ _ _)

/-- A command that a condition bars changes nothing. -/
theorem RegsSent.ite {s t : State} {c : Prop} [Decidable c] (h : RegsSent s t) : RegsSent s (if c then t else s) := by
  split
  · exact h
  · exact .refl s

/-- Where the meter has no supply nothing is answered (R437). -/
theorem RegsSent.ite_not {s t : State} {c : Prop} [Decidable c] (h : RegsSent s t) : RegsSent s (if c then s else t) := by
  split
  · exact .refl s
  · exact h

theorem metro_sent (s : State) (c : Code) (data : List Byte) : RegsSent s (s.metro c data) := emit_sent s _ _ _ _

/-! ## The frame, command by command -/

theorem quiesceDrainDone_frame (pg : Pg) (s : State) : RegsFrame s (exec (.quiesceDrainDone pg) s) :=
  .next (by
    split
    · exact .refl s
    · exact (p_regsOnly s _ _ _).sent)

theorem freezeCaptureDone_frame (pg : Pg) (s : State) : RegsFrame s (exec (.freezeCaptureDone pg) s) :=
  .next (by
    split
    · exact .refl s
    · exact .ite (p_regsOnly s _ _ _).sent)

theorem pageNoAnswer_frame (m : Mst) (pg : Pg) (s : State) : RegsFrame s (exec (.pageNoAnswer m pg) s) :=
  .done (by
    split
    · exact .refl s
    · refine .trans ?_ (emit_sent _ _ _ _ _)
      split
      · exact .refl s
      · exact (raise_regsOnly s _ _).sent)

theorem pinMismatch_frame (pg : Pg) (child : BitVec 9) (s : State) : RegsFrame s (exec (.pinMismatch pg child) s) :=
  .done (by
    split
    · exact (raise_regsOnly s _ _).sent
    · exact (raise_regsOnly s _ _).sent
    · exact (raise_regsOnly s _ _).sent
    · exact .refl s)

theorem stageMonWindow_frame (pg : Pg) (count : BitVec 32) (s : State) :
    RegsFrame s (exec (.stageMonWindow pg count) s) :=
  .next (by
    split
    · exact .ite (setReg_regsOnly s _ _ _).sent
    · exact .ite (setReg_regsOnly s _ _ _).sent
    · exact .refl s)

theorem xingSlip_frame (pg : Pg) (s : State) : RegsFrame s (exec (.xingSlip pg) s) :=
  .done (by
    split
    · exact .refl s
    · exact (xingSlip_regsOnly s _).sent)

theorem readRecord_frame (index : BitVec 10) (s : State) : RegsFrame s (exec (.readRecord index) s) :=
  .next (.ite_not (by
    split
    · exact metro_sent s _ _
    · exact metro_sent s _ _))

theorem readLog_frame (index : BitVec 16) (s : State) : RegsFrame s (exec (.readLog index) s) :=
  .next (.ite_not (by
    split
    · exact metro_sent s _ _
    · exact metro_sent s _ _))

theorem pmbAlert_frame (bad : BitVec 16) (s : State) : RegsFrame s (exec (.pmbAlert bad) s) :=
  .done (by
    split
    · exact (pmbStatus_sent s).trans (raise_regsOnly _ _ _).sent
    · exact pmbStatus_sent s)

/-- Settles O55: each command changes the state by writes of registers, events of classes and outputs alone. -/
theorem regsFrameHolds : Obligations.RegsFrameHolds :=
  ⟨quiesceDrainDone_frame, freezeCaptureDone_frame, pageNoAnswer_frame,
    fun _ _ _ s => .done (writeForce_regsOnly s _ _ _).sent,
    fun m pg v s => .done (onWrite_regsOnly s m.toNat pg.toNat _ fun b => ackErr_regsOnly s b v.toNat).sent,
    fun _ _ _ s => .done (writeFltCmd_regsOnly s _ _ _).sent,
    pinMismatch_frame,
    fun _ s => .done (lostTick_regsOnly s _).sent,
    fun _ _ _ s => .done (writeGrpCfg_regsOnly s _ _ _).sent,
    fun _ s => .next (.refl s),
    fun _ s => .next (.ite (sendCaps_regsOnly s _).sent),
    fun _ _ s => .next (.ite ((p_regsOnly s _ _ _).trans (p_regsOnly _ _ _ _)).sent),
    fun _ s => .next (.ite (joinPattern_regsOnly s _).sent),
    fun _ _ s => .next (.ite (sendPfc_sent s _ _ _)),
    stageMonWindow_frame,
    fun _ _ _ s => .done (writeXing_regsOnly s _ _ _).sent,
    xingSlip_frame,
    fun s => .next (.ite (emit_sent s _ _ _ _)),
    fun s => .next (.ite_not (metro_sent s _ _)),
    readRecord_frame, readLog_frame,
    fun _ s => .next (.ite_not (metro_sent s _ _)),
    fun _ s => .done (request_sent s _ _ _ fun _ t => .refl t),
    fun _ s => .done (request_sent s _ _ _ fun _ t => .refl t),
    fun _ s => .done (request_sent s _ _ _ mgIbiCfg_regsOnly),
    fun _ s => .done (request_sent s _ _ _ fun _ t => .refl t),
    pmbAlert_frame,
    fun _ s => .next (.ite (p_regsOnly s _ _ _).sent)⟩

end Sys2Proof.Machine

/-! # Commands of the links and the switch

O58. What a state holds beside the parts that traffic may change is one value, its parts at rest. That an operation
leaves them as they were is an equation, so the operations of the links, the switch and the attach engines rewrite one
after another. -/

namespace Sys2Proof.Machine

/-- The parts of a state that traffic leaves alone: what it may change is blanked. -/
def State.still (s : State) : State :=
  { s with regs := [], tabs := [], cow := [], caches := [], swc := SwitchSt.reset, sws := [], swWaits := [], lls := []
           cxs := [], lrds := [], jobs := [], fresh := 0, out := [], acts := [], alarm := false }

/-- States with the same parts at rest differ in what traffic may change alone. -/
theorem eq_of_still {s u : State} (h : u.still = s.still) :
    u = { s with regs := u.regs, tabs := u.tabs, cow := u.cow, caches := u.caches, swc := u.swc, sws := u.sws,
                 swWaits := u.swWaits, lls := u.lls, cxs := u.cxs, lrds := u.lrds, jobs := u.jobs, fresh := u.fresh,
                 out := u.out, acts := u.acts, alarm := u.alarm } := by
  cases s; cases u
  simpa [State.still] using h

/-- The frame holds of an answer that is not settled. -/
theorem TrafficFrame.next {s t : State} (h :
    t.still = s.still) : TrafficFrame s (.next t) := ⟨t, .inl rfl, eq_of_still h⟩

/-- The frame holds of an answer that is settled. -/
theorem TrafficFrame.done {s t : State} (h : t.still = s.still) : TrafficFrame s t.done := ⟨t, .inr rfl, eq_of_still h⟩

theorem RegsSent.still {s t : State} (h : RegsSent s t) : t.still = s.still := by
  obtain ⟨r, o, a, l, rfl⟩ := h
  rfl

theorem RegsOnly.still {s t : State} (h : RegsOnly s t) : t.still = s.still := h.sent.still

@[simp] theorem ite_still (c : Prop) [Decidable c] (s t : State) :
    (if c then s else t).still = if c then s.still else t.still := apply_ite State.still c s t

@[simp] theorem foldl_still {α : Type} {f : State → α → State} (hf : ∀ s a, (f s a).still = s.still) (l : List α)
    (s : State) : (l.foldl f s).still = s.still :=
  List.foldlRecOn l f (motive := fun t => t.still = s.still) rfl fun t ht a _ => (hf t a).trans ht

/-- A change that a condition bars leaves the rest alone where it does so unbarred. -/
theorem guarded_still {s t : State} {c : Prop} [Decidable c] (h : t.still = s.still) :
    (if c then t else s).still = s.still := by
  simp [h]

/-! ## Updates of one part -/

theorem caches_still (s : State) (x : List (Nat × List Nat)) : ({ s with caches := x } : State).still = s.still := by
  simp only [State.still]

theorem swc_still (s : State) (x : SwitchSt) : ({ s with swc := x } : State).still = s.still := by
  simp only [State.still]

@[simp] theorem setReg_still (s : State) (b : Blk) (off v : Nat) : (s.setReg b off v).still = s.still :=
  (setReg_regsOnly s b off v).still
@[simp] theorem p_still (s : State) (b : Blk) (f : Fld) (v : Nat) :
    (s.p b f v).still = s.still := (p_regsOnly s b f v).still
@[simp] theorem add_still (s : State) (b : Blk) (f : Fld) (d : Nat) :
    (s.add b f d).still = s.still := (add_regsOnly s b f d).still
@[simp] theorem inc_still (s : State) (b : Blk) (f : Fld) : (s.inc b f).still = s.still := (inc_regsOnly s b f).still
@[simp] theorem raise_still (s : State) (b : Blk) (c : Cls) :
    (s.raise b c).still = s.still := (raise_regsOnly s b c).still
@[simp] theorem setTw_still (s : State) (t : Tbl) (sc i wd v : Nat) : (s.setTw t sc i wd v).still = s.still := by
  simp only [State.still, State.setTw]
@[simp] theorem pt_still (s : State) (t : Tbl) (sc i : Nat) (f : Fld) (v : Nat) :
    (s.pt t sc i f v).still = s.still := by
  simp [State.pt]

/-! ## Pools and copies -/

@[simp] theorem setCache_still (s : State) (d p : Nat) (l : List Nat) : (s.setCache d p l).still = s.still := by
  unfold State.setCache
  exact (caches_still _ _).trans (p_still s _ _ _)

@[simp] theorem setFree_still (s : State) (d p n : Nat) : (s.setFree d p n).still = s.still := by
  simp [State.setFree]

@[simp] theorem refillN_still (n d p : Nat) (s : State) : (State.refillN n d p s).still = s.still := by
  induction n generalizing s with
  | zero => rfl
  | succ n ih => simp [State.refillN, ih]

@[simp] theorem setPoolBit_still (s : State) (d p i : Nat) (v : Bool) : (s.setPoolBit d p i v).still = s.still := by
  simp [State.setPoolBit]
@[simp] theorem setRing_still (s : State) (d p e v : Nat) : (s.setRing d p e v).still = s.still := by
  simp [State.setRing]

@[simp] theorem giveBack_still (s : State) (d p : Nat) : (s.giveBack d p).still = s.still := by
  simp [State.giveBack]

theorem poolRelease_still (s : State) (d a : Nat) : (s.poolRelease d a).2.still = s.still := by
  unfold State.poolRelease
  split
  · simp
  · split <;> simp

@[simp] theorem hwFree_still (s : State) (d a : Nat) : (s.hwFree d a).still = s.still := by
  simp [State.hwFree, poolRelease_still]

@[simp] theorem setCps_still (s : State) (l : List Cp) : (s.setCps l).still = s.still := by
  simp only [State.setCps, swc_still]
@[simp] theorem mapCps_still (s : State) (f : Cp → Cp) : (s.mapCps f).still = s.still := by
  simp [State.mapCps]
@[simp] theorem dropCp_still (s : State) (cid : Nat) : (s.dropCp cid).still = s.still := by
  simp [State.dropCp]
@[simp] theorem setBlocks_still (s : State) (l : List SpillBlock) : (s.setBlocks l).still = s.still := by
  simp only [State.setBlocks, swc_still]
@[simp] theorem setWq_still (s : State) (d n : Nat) : (s.setWq d n).still = s.still := by
  simp [State.setWq]
@[simp] theorem unspill_still (s : State) (eg : Bool) (a : Nat × Nat) (n : Nat) :
    (s.unspill eg a n).still = s.still := by
  simp [State.unspill]
@[simp] theorem showWaiting_still (s : State) (a : Nat × Nat) : (s.showWaiting a).still = s.still := by
  simp [State.showWaiting]

@[simp] theorem setFreeCells_still (s : State) (d n : Nat) : (s.setFreeCells d n).still = s.still := by
  simp [State.setFreeCells]

@[simp] theorem freeStore_still (s : State) (eg : Bool) (a : Nat × Nat) (n cells : Nat) :
    (s.freeStore eg a n cells).still = s.still := by
  simp [State.freeStore]

@[simp] theorem uncharge_still (s : State) (eg : Bool) (a : Nat × Nat) (n : Nat) :
    (s.uncharge eg a n).still = s.still := by
  simp [State.uncharge]

@[simp] theorem ingressDone_still (s : State) (c : Cp) : (s.ingressDone c).still = s.still := by
  unfold State.ingressDone
  split
  · rfl
  · split <;> simp

@[simp] theorem dropBlocks_still (s : State) (eg : Bool) (key : Nat) : (s.dropBlocks eg key).still = s.still := by
  simp [State.dropBlocks]

@[simp] theorem freeSpilled_still (s : State) (eg : Bool) (a : Nat × Nat) (key segs : Nat) :
    (s.freeSpilled eg a key segs).still = s.still := by
  simp [State.freeSpilled]

@[simp] theorem discard_still (s : State) (c : Cp) : (s.discard c).still = s.still := by
  unfold State.discard
  dsimp only
  split
  · simp [↓swc_still]
  · simp [↓swc_still]
  · simp [↓swc_still]
  · simp [↓swc_still]
  · split
    · simp [↓swc_still]
    · split <;> simp [↓swc_still]
  · split <;> simp [↓swc_still]
  · simp [↓swc_still]
  · simp [↓swc_still]

/-! ## Outputs, draws and commands in progress -/

@[simp] theorem emit_still (s : State) (ch : Chan) (tag : Nat) (ns : List Nat) (bs : List Byte) :
    (s.emit ch tag ns bs).still = s.still := (emit_sent s ch tag ns bs).still

@[simp] theorem draw_still (s : State) : s.draw.2.still = s.still := by
  simp only [State.still, State.draw]
@[simp] theorem addJob_still (s : State) (j : Job) : (s.addJob j).still = s.still := by
  simp only [State.still, State.addJob]
@[simp] theorem dropJob_still (s : State) (k : JobKind) (pg off : Nat) : (s.dropJob k pg off).still = s.still := by
  simp only [State.still, State.dropJob]

@[simp] theorem setBusy_still (s : State) (b : Blk) (off : Nat) : (s.setBusy b off).still = s.still := by
  simp [State.setBusy]

@[simp] theorem finish_still (s : State) (b : Blk) (off : Nat) (c : Code) : (s.finish b off c).still = s.still :=
  (finish_regsOnly s b off c).still

@[simp] theorem refuse_still (s : State) (m : Nat) (b : Blk) (off : Nat) (c : Code) :
    (s.refuse m b off c).still = s.still :=
  (refuse_regsOnly s m b off c).still

@[simp] theorem refuseOp_still (s : State) (m : Nat) (b : Blk) (off st : Nat) :
    (s.refuseOp m b off st).still = s.still :=
  (refuseOp_regsOnly s m b off st).still

/-- A write whose block leaves the rest alone does so whether or not the checks let it through. -/
theorem onWrite_still {s : State} {f : Blk → State} (hf : ∀ b, (f b).still = s.still) (m pg off : Nat) :
    (s.onWrite m pg off f).still = s.still := by
  unfold State.onWrite
  split
  · rfl
  · split_ifs
    · exact (denyWrite_regsOnly s m _ off).still
    · exact refuse_still s m _ off _
    · exact hf _

@[simp] theorem setWide_still (s : State) (b : Blk) (off n v : Nat) : (s.setWide b off n v).still = s.still := by
  simp [State.setWide]

@[simp] theorem setEntry_still (s : State) (t : Tbl) (sc i : Nat) (ws : List Nat) :
    (s.setEntry t sc i ws).still = s.still := by
  simp [State.setEntry]

@[simp] theorem storeTw_still (s : State) (t : Tbl) (sc i wd v : Nat) : (s.storeTw t sc i wd v).still = s.still := by
  simp [State.storeTw]

@[simp] theorem clearTab_still (s : State) (t : Tbl) (sc lo n : Nat) : (s.clearTab t sc lo n).still = s.still := by
  simp only [State.still, State.clearTab]

/-! ## The switch -/

@[simp] theorem dropDown_still (s : State) (t : Nat) (cs : List Cp) : (s.dropDown t cs).still = s.still := by
  simp [State.dropDown]

@[simp] theorem dropPort_still (s : State) (port : Nat) : (s.dropPort port).still = s.still := by
  simp [State.dropPort]

@[simp] theorem sendPfc_still (s : State) (port vc time : Nat) : (s.sendPfc port vc time).still = s.still :=
  (sendPfc_sent s port vc time).still

@[simp] theorem pfcCheck_still (s : State) (port : Nat) : (s.pfcCheck port).still = s.still := by
  simp [State.pfcCheck, ↓swc_still]

@[simp] theorem setTokens_still (s : State) (k : Nat) (v : Int) : (s.setTokens k v).still = s.still := by
  simp only [State.setTokens, swc_still]
@[simp] theorem hand_still (s : State) (owner : Nat) (bs : List Byte) : (s.hand owner bs).still = s.still := by
  simp only [State.hand, swc_still]
@[simp] theorem unhand_still (s : State) (owner : Nat) (bs : List Byte) : (s.unhand owner bs).still = s.still := by
  simp only [State.unhand, swc_still]
@[simp] theorem newId_still (s : State) : s.newId.2.still = s.still := by
  simp only [State.newId, swc_still]
@[simp] theorem setDrr_still (s : State) (port : Nat) (d : Drr) : (s.setDrr port d).still = s.still := by
  simp only [State.setDrr, swc_still]
@[simp] theorem endStall_still (s : State) (c : Cp) : (s.endStall c).still = s.still := by
  simp only [State.endStall, swc_still]
@[simp] theorem unpause_still (s : State) (port vc : Nat) : (s.unpause port vc).still = s.still := by
  simp only [State.unpause, swc_still]
@[simp] theorem unhold_still (s : State) (port vc : Nat) : (s.unhold port vc).still = s.still := by
  simp only [State.unhold, swc_still]
@[simp] theorem seen3_still (s : State) (d e q : Nat) : (s.seen3 d e q).still = s.still := by
  simp only [State.seen3, swc_still]
@[simp] theorem drainedNow_still (s : State) : s.drainedNow.still = s.still := by
  simp only [State.drainedNow, swc_still]
@[simp] theorem setEvacWait_still (s : State) (l : List Nat) : (s.setEvacWait l).still = s.still := by
  simp only [State.setEvacWait, swc_still]
@[simp] theorem mendCopies_still (s : State) (n i : Nat) : (s.mendCopies n i).still = s.still := by
  simp only [State.mendCopies, swc_still]
@[simp] theorem dropPausing_still (s : State) (port : Nat) : (s.dropPausing port).still = s.still := by
  simp only [State.dropPausing, swc_still]

/-- A frame of an Ethernet port leaves by its release queue (R125). -/
theorem ethRelease_still (s : State) (port : Nat) : (s.ethRelease port).still = s.still := by
  unfold State.ethRelease
  split
  · rfl
  · simp

@[simp] theorem sendWhole_still (s : State) (c : Cp) : (s.sendWhole c).still = s.still := by
  simp [State.sendWhole]

@[simp] theorem ecn_still (s : State) (port : Nat) (c : Cp) : (s.ecn port c).2.still = s.still := by
  unfold State.ecn
  split
  · simp
  · rfl

@[simp] theorem spend_still (s : State) (port vc n : Nat) : (s.spend port vc n).still = s.still := by
  simp [State.spend]

@[simp] theorem startFrame_still (s : State) (port : Nat) (c : Cp) : (s.startFrame port c).still = s.still := by
  simp [State.startFrame]

@[simp] theorem underrun_still (s : State) (port : Nat) : (s.underrun port).still = s.still := by
  unfold State.underrun
  split
  · rfl
  · simp

theorem egressSelect_still (s : State) (port : Nat) : (s.egressSelect port).still = s.still := by
  unfold State.egressSelect
  dsimp only
  split
  · simp
  · split <;> simp

theorem accrueTile_still (s : State) (t cycles : Nat) : (s.accrueTile t cycles).still = s.still := by
  simp [State.accrueTile]

theorem ageTick_still (s : State) (d : Nat) : (s.ageTick d).still = s.still := by
  simp [State.ageTick]

theorem readback_still (s : State) (eg : Bool) (a : Nat × Nat) : (s.readback eg a).still = s.still := by
  unfold State.readback
  split
  · rfl
  · simp

theorem pfcRx_still (s : State) (port : Nat) (bs : List Byte) : (s.pfcRx port bs).still = s.still := by
  simp [State.pfcRx, ↓swc_still]

@[simp] theorem recordStall_still (s : State) (eg : Bool) (a : Nat × Nat) (n : Nat) :
    (s.recordStall eg a n).still = s.still := by
  unfold State.recordStall
  dsimp only
  split <;> simp

theorem dlScan_still (s : State) (d : Nat) : (s.dlScan d).still = s.still := by
  simp [State.dlScan, ↓swc_still]

theorem dlRecover_still (s : State) (port vc : Nat) : (s.dlRecover port vc).still = s.still := by
  unfold State.dlRecover
  dsimp only
  split
  · rfl
  · split_ifs
    · rfl
    · exact (swc_still _ _).trans (by simp)
    · simp

@[simp] theorem startEvac_still (s : State) (t : Nat) : (s.startEvac t).still = s.still := by
  simp [State.startEvac, ↓swc_still]

@[simp] theorem evacDrop_still (s : State) (t : Nat) : (s.evacDrop t).still = s.still := by
  unfold State.evacDrop
  split
  · rfl
  · simp

theorem evacDrain_still (s : State) (t : Nat) (expired : Bool) : (s.evacDrain t expired).still = s.still := by
  simp [State.evacDrain]

@[simp] theorem down3_still (s : State) (t : Nat) (x : L3Cell) : (s.down3 t x).still = s.still := by
  unfold State.down3
  dsimp only
  generalize s.find3 x = f
  cases f <;> simp [↓swc_still]

@[simp] theorem take3_still (s : State) (self t : Nat) (x : L3Cell) : (s.take3 self t x).still = s.still := by
  simp [State.take3, ↓swc_still]

@[simp] theorem sendBundle_still (s : State) (t k : Nat) (b : Nat × List Nat) :
    (s.sendBundle t k b).still = s.still := by
  simp [State.sendBundle, ↓swc_still]

theorem slot3_still (s : State) (t : Nat) (cells : List L3Cell) : (s.slot3 t cells).still = s.still := by
  simp [State.slot3]

theorem giveUp3_still (s : State) (t : Nat) : (s.giveUp3 t).still = s.still := by
  simp [State.giveUp3, ↓swc_still]

/-! ## Classes, routes and tables -/

theorem writeCls_still (s : State) (m pg v : Nat) : (s.writeCls m pg v).still = s.still := by
  unfold State.writeCls
  split
  · refine onWrite_still (fun b => ?_) _ _ _
    simp [(checkBudget_regsOnly _ _).still]
  · rfl

@[simp] theorem showCycle_still (s : State) (c : List REdge) : (s.showCycle c).still = s.still := by
  simp [State.showCycle]

@[simp] theorem loadImage_still (s : State) (bs : List Byte) : (s.loadImage bs).still = s.still := by
  unfold State.loadImage
  exact (swc_still _ _).trans (by simp)

theorem rlCommand_still (s : State) (m v : Nat) : (s.rlCommand m v).still = s.still :=
  onWrite_still (fun b => by simp [State.memDenied]) _ _ _

theorem macCmd_still (s : State) (op : Nat) (ws : List Nat) : (s.macCmd op ws).2.2.still = s.still := by
  unfold State.macCmd
  dsimp only
  split
  · simp
  · split <;> simp
  · rfl
  · simp
  · rfl

theorem lpmCmd_still (s : State) (op : Nat) (ws : List Nat) : (s.lpmCmd op ws).2.2.still = s.still := by
  unfold State.lpmCmd
  dsimp only
  split
  · simp
  · split_ifs <;> simp
  · rfl
  · simp
  · rfl

@[simp] theorem tblAct_still (s : State) (t op n i : Nat) : (s.tblAct t op n i).2.2.still = s.still := by
  unfold State.tblAct
  dsimp only
  split
  · rfl
  · split_ifs
    · rfl
    · rfl
    · rfl
    · rfl
    · rfl
    · simp
    · rfl
    · rfl
    · exact macCmd_still s op _
    · exact lpmCmd_still s op _

theorem tblCommand_still (s : State) (m t v : Nat) : (s.tblCommand m t v).still = s.still :=
  onWrite_still (fun b => by simp [State.tblRefuse]) _ _ _

@[simp] theorem toStage_still (s : State) (t n i : Nat) : (s.toStage t n i).still = s.still := by
  unfold State.toStage
  split
  · rfl
  · simp

theorem tblDone_still (s : State) (t : Nat) : (s.tblDone t).still = s.still := by
  unfold State.tblDone
  dsimp only
  split
  · rfl
  · simp

/-! ## Buffers handed out -/

@[simp] theorem markTaken_still (s : State) (d p a : Nat) : (s.markTaken d p a).still = s.still := by
  unfold State.markTaken
  split
  · rfl
  · simp

/-- Of an answer and a state, the state. -/
theorem still_of_eq {α : Type} {r : α × State} {x : α} {s t : State} (h : r = (x, t)) (hr : r.2.still = s.still) :
    t.still = s.still := by
  rwa [h] at hr

theorem takeFrom_still (s : State) (d p : Nat) : (s.takeFrom d p).2.still = s.still := by
  unfold State.takeFrom
  dsimp only
  split <;> simp [State.refill]

theorem takeUp_still (n d p : Nat) (s : State) : (State.takeUp n d p s).2.still = s.still := by
  induction n generalizing p s with
  | zero => rfl
  | succ n ih =>
    unfold State.takeUp
    split
    · exact ih _ _
    · split
      · next h => exact (ih _ _).trans (still_of_eq h (takeFrom_still s d p))
      · next h => exact still_of_eq h (takeFrom_still s d p)

theorem poolAlloc_still {s t : State} {d b a p : Nat} {k : Code} (h : s.poolAlloc d b = (k, a, p, t)) :
    t.still = s.still := by
  unfold State.poolAlloc at h
  dsimp only at h
  split_ifs at h
  · cases h
    rfl
  · cases h
    rfl
  · split at h
    · next hu =>
      cases h
      simpa using still_of_eq hu (takeUp_still _ d _ s)
    · next hu =>
      cases h
      simpa using still_of_eq hu (takeUp_still _ d _ s)

/-! ## Attach engines -/

@[simp] theorem setCx_still (s : State) (c : Nat) (x : Cx) : (s.setCx c x).still = s.still := by
  simp only [State.still, State.setCx]

@[simp] theorem pctx_still (s : State) (c : Nat) (f : Fld) (v : Nat) : (s.pctx c f v).still = s.still := by
  simp [State.pctx]

theorem lrds_still (s : State) (l : List LocalRd) : ({ s with lrds := l } : State).still = s.still := by
  simp only [State.still]

@[simp] theorem toAccel_still (s : State) (g c op tag addr len operand : Nat) (bs : List Byte) :
    (s.toAccel g c op tag addr len operand bs).still = s.still := by
  simp [State.toAccel]

@[simp] theorem refuseLocal_still (s : State) (g c tag : Nat) (code : Code) :
    (s.refuseLocal g c tag code).still = s.still := by
  simp [State.refuseLocal, State.sendCpl]

@[simp] theorem giveReply_still (s : State) (t n : Nat) : (s.giveReply t n).still = s.still := by
  simp [State.giveReply]

theorem takeReply_still {s u : State} {t n : Nat} (h : s.takeReply t n = some u) : u.still = s.still := by
  unfold State.takeReply at h
  dsimp only at h
  split at h
  · cases h
    simp
  · cases h

@[simp] theorem freeCx_still (s : State) (c : Nat) : (s.freeCx c).still = s.still := by
  unfold State.freeCx
  exact (lrds_still _ _).trans (by simp)

@[simp] theorem endMsgs_still (s : State) (c : Nat) (bad : Option (Nat × Code)) :
    (s.endMsgs c bad).still = s.still := by
  simp [State.endMsgs]

@[simp] theorem failCx_still (s : State) (c : Nat) (bad : Option (Nat × Code)) : (s.failCx c bad).still = s.still := by
  simp [State.failCx]

@[simp] theorem failGroup_still (s : State) (g : Nat) : (s.failGroup g).still = s.still := by
  simp [State.failGroup, State.portGoneCx]

@[simp] theorem startMsg_still (s : State) (g : Nat) (op : TOp) (bs : List Byte) :
    (s.startMsg g op bs).still = s.still := by
  simp [State.startMsg]

@[simp] theorem postBuf_still (s : State) (g : Nat) (bs : List Byte) : (s.postBuf g bs).still = s.still := by
  simp [State.postBuf]

/-- An accelerator's command leaves the rest alone where what carries it out does (R80). -/
theorem onLocal_still {f : State → State} (hf : ∀ s, (f s).still = s.still) (s : State) (g op : Nat) (bs : List Byte) :
    (s.onLocal g op bs f).still = s.still := by
  simp [State.onLocal, hf]

@[simp] theorem setMsg_still (s : State) (c : Nat) (m : Msg) : (s.setMsg c m).still = s.still := by
  simp [State.setMsg]

@[simp] theorem addPkt_still (s : State) (c : Nat) (p : TxP) : (s.addPkt c p).still = s.still := by
  simp [State.addPkt]

@[simp] theorem askLocal_still (s : State) (c addr n : Nat) (fadd : Bool) (addend : Nat) (p : TxP) :
    (s.askLocal c addr n fadd addend p).still = s.still := by
  unfold State.askLocal
  exact (lrds_still _ _).trans (by simp)

theorem askGet_still (s : State) (c : Nat) (bs : List Byte) (n off : Nat) :
    (s.askGet c bs n off).2.still = s.still := by
  induction n generalizing s off with
  | zero => rfl
  | succ n ih =>
    unfold State.askGet
    split
    · rfl
    · dsimp only
      split
      · next h => simpa [ih] using poolAlloc_still h
      · next h => exact poolAlloc_still h

theorem issueGets_still (s : State) (c n : Nat) : (s.issueGets c n).still = s.still := by
  induction n generalizing s with
  | zero => rfl
  | succ n ih =>
    unfold State.issueGets
    split
    · rfl
    · split
      · next h => simpa [ih] using still_of_eq h (askGet_still s c _ _ _)
      · next h => simpa using still_of_eq h (askGet_still s c _ _ _)

/-- What a context issues takes buffers, reply space and the context's own lists alone (R88). -/
theorem issue_still (s : State) (c : Nat) : (s.issue c).still = s.still := by
  unfold State.issue
  have hg : (if s.ctxLive c then s.issueGets c (s.cx c).gets.length else s).still = s.still := by
    simp [issueGets_still]
  generalize (if s.ctxLive c then s.issueGets c (s.cx c).gets.length else s) = u at hg ⊢
  dsimp only
  split
  · exact hg
  · split
    · exact hg
    · split
      case h_1 | h_2 =>
        split
        · exact hg
        · next ht => simpa [hg] using takeReply_still ht
      case h_3 | h_4 =>
        split
        · simpa using hg
        · split
          · next h => simpa [hg] using poolAlloc_still h
          · exact hg

/-! ## Link layers -/

theorem lls_still (s : State) (l : List (Nat × Ll)) : ({ s with lls := l } : State).still = s.still := by
  simp only [State.still]

@[simp] theorem setLl_still (s : State) (port : Nat) (l : Ll) : (s.setLl port l).still = s.still := by
  simp only [State.setLl, lls_still]

@[simp] theorem showLl_still (s : State) (port : Nat) : (s.showLl port).still = s.still := by
  simp [State.showLl]

@[simp] theorem endLl_still (s : State) (port : Nat) : (s.endLl port).still = s.still := by
  simp [State.endLl, ↓lls_still]

@[simp] theorem grpCount_still (s : State) (port : Nat) (f : Fld) : (s.grpCount port f).still = s.still := by
  simp [State.grpCount]

@[simp] theorem outFlit_still (s : State) (port : Nat) (l : Ll) (f : List Byte) :
    (s.outFlit port l f).still = s.still := by
  simp [State.outFlit]

theorem txFlit_still (s : State) (port : Nat) : (s.txFlit port).still = s.still := by
  unfold State.txFlit
  split
  · rfl
  · split
    · simp
    · dsimp only
      split
      · simp
      · simp

@[simp] theorem sendSide_still (s : State) (port : Nat) (nak : Bool) : (s.sendSide port nak).2.still = s.still := by
  unfold State.sendSide
  split
  · rfl
  · simp

@[simp] theorem sendNak_still (s : State) (port : Nat) : (s.sendNak port).still = s.still := by
  simp [State.sendNak]

theorem nakAgain_still (s : State) (port : Nat) : (s.nakAgain port).still = s.still := by
  unfold State.nakAgain
  split
  · rfl
  · simp

@[simp] theorem acceptOwed_still (s : State) (port : Nat) : (s.acceptOwed port).still = s.still := by
  unfold State.acceptOwed
  split
  · rfl
  · simp

@[simp] theorem rxSide_still (s : State) (port w : Nat) : (s.rxSide port w).still = s.still := by
  unfold State.rxSide
  split
  · rfl
  · simp

@[simp] theorem rxNak_still (s : State) (port ack : Nat) : (s.rxNak port ack).still = s.still := by
  unfold State.rxNak
  split
  · rfl
  · dsimp only
    split
    · simp
    · simp

@[simp] theorem rxFlit_still (s : State) (port : Nat) (f : List Byte) : (s.rxFlit port f).2.still = s.still := by
  unfold State.rxFlit
  split
  · rfl
  · dsimp only
    split
    · split <;> simp
    · split
      · split <;> simp
      · split
        · simp
        · split
          · simp
          · split <;> simp

/-! ## Ports and lanes -/

theorem sws_still (s : State) (l : List Switchover) : ({ s with sws := l } : State).still = s.still := by
  simp only [State.still]

theorem swWaits_still (s : State) (l : List SwWait) : ({ s with swWaits := l } : State).still = s.still := by
  simp only [State.still]

@[simp] theorem php_still (s : State) (port : Nat) (f : Fld) (v : Nat) : (s.php port f v).still = s.still := by
  simp [State.php]

@[simp] theorem showLane_still (s : State) (kn : Nat × Nat) (st : Nat) : (s.showLane kn st).still = s.still := by
  simp [State.showLane]

@[simp] theorem showPort_still (s : State) (port st : Nat) : (s.showPort port st).still = s.still := by
  simp [State.showPort]

@[simp] theorem showSpares_still (s : State) (port : Nat) : (s.showSpares port).still = s.still := by
  unfold State.showSpares
  split
  · rfl
  · simp

@[simp] theorem ctlMsg_still (s : State) (kn : Nat × Nat) (msg : Nat) (body : List Byte) :
    (s.ctlMsg kn msg body).still = s.still := by
  simp [State.ctlMsg]

@[simp] theorem setSw_still (s : State) (w : Switchover) : (s.setSw w).still = s.still := by
  simp only [State.setSw, sws_still]

@[simp] theorem endSw_still (s : State) (k : Nat) : (s.endSw k).still = s.still := by
  simp only [State.endSw, sws_still]

@[simp] theorem swSay_still (s : State) (k : Nat) : (s.swSay k).still = s.still := by
  unfold State.swSay
  split
  · rfl
  · simp

@[simp] theorem startSwitch_still (s : State) (k n : Nat) (revert initiator : Bool) :
    (s.startSwitch k n revert initiator).still = s.still := by
  simp [State.startSwitch, ↓sws_still]

@[simp] theorem requestSwitch_still (s : State) (k n : Nat) (revert : Bool) :
    (s.requestSwitch k n revert).still = s.still := by
  simp [State.requestSwitch, ↓swWaits_still]

@[simp] theorem undoSwitch_still (s : State) (w : Switchover) : (s.undoSwitch w).still = s.still := by
  simp [State.undoSwitch]

@[simp] theorem carryOn_still (s : State) (k src dst : Nat) : (s.carryOn k src dst).still = s.still := by
  simp [State.carryOn]

theorem finishSwitch_still (s : State) (w : Switchover) : (s.finishSwitch w).still = s.still := by
  simp [State.finishSwitch]

theorem failSwitch_still (s : State) (w : Switchover) : (s.failSwitch w).still = s.still := by
  simp [State.failSwitch]

@[simp] theorem l3Member_still (s : State) (d : Nat) (v : Bool) : (s.l3Member d v).still = s.still := by
  simp [State.l3Member, ↓swc_still]

@[simp] theorem bundleDown_still (s : State) (port : Nat) : (s.bundleDown port).still = s.still := by
  unfold State.bundleDown
  split
  · rfl
  · simp

@[simp] theorem bundleUp_still (s : State) (port : Nat) : (s.bundleUp port).still = s.still := by
  unfold State.bundleUp
  split
  · rfl
  · simp

@[simp] theorem portDown_still (s : State) (port : Nat) : (s.portDown port).still = s.still := by
  simp [State.portDown, ↓swWaits_still]

@[simp] theorem endCapex_still (s : State) (port : Nat) : (s.endCapex port).still = s.still := by
  simp [State.endCapex]

@[simp] theorem moveStage_still (s : State) (port st : Nat) : (s.moveStage port st).still = s.still := by
  simp [State.moveStage]

@[simp] theorem wakePort_still (s : State) (port : Nat) : (s.wakePort port).still = s.still := by
  simp [State.wakePort]

@[simp] theorem clearLane_still (s : State) (k n : Nat) : (s.clearLane k n).still = s.still := by
  simp [State.clearLane]

@[simp] theorem laneWake_still (s : State) (k n : Nat) (retrain : Bool) : (s.laneWake k n retrain).still = s.still := by
  unfold State.laneWake
  split
  · rfl
  · simp

@[simp] theorem laneWrite_still (s : State) (k n v : Nat) : (s.laneWrite k n v).still = s.still := by
  simp [State.laneWrite, State.laneSet]

theorem writeLaneCtrl_still (s : State) (m pg v : Nat) : (s.writeLaneCtrl m pg v).still = s.still := by
  unfold State.writeLaneCtrl
  split
  · exact onWrite_still (fun b => by simp) _ _ _
  · rfl

theorem dequeueSwitch_still (s : State) (k : Nat) : (s.dequeueSwitch k).still = s.still := by
  unfold State.dequeueSwitch
  split
  · rfl
  · split
    · rfl
    · simp [↓swWaits_still]

@[simp] theorem adaptRx_still (s : State) (kn : Nat × Nat) : (s.adaptRx kn).still = s.still := by
  simp [State.adaptRx]

@[simp] theorem adaptLane_still (s : State) (kn : Nat × Nat) : (s.adaptLane kn).still = s.still := by
  simp [State.adaptLane]

@[simp] theorem lockLane_still (s : State) (kn : Nat × Nat) : (s.lockLane kn).still = s.still := by
  simp [State.lockLane]

theorem detected_still (s : State) (port an : Nat) : (s.detected port an).still = s.still := by
  unfold State.detected
  dsimp only
  split_ifs
  · split <;> simp
  · simp
  · rfl

theorem trainEnd_still (s : State) (port : Nat) : (s.trainEnd port).still = s.still := by
  simp [State.trainEnd]

theorem lockLost_still (s : State) (k n : Nat) : (s.lockLost k n).still = s.still := by
  unfold State.lockLost
  split
  · rfl
  · simp

theorem prepare_still (s : State) (port idx j : Nat) : (s.prepare port idx j).still = s.still := by
  unfold State.prepare
  split
  · rfl
  · simp

theorem spareTrained_still (s : State) (k : Nat) : (s.spareTrained k).still = s.still := by
  unfold State.spareTrained
  split
  · rfl
  · simp

@[simp] theorem stopPorts_still (s : State) (k : Nat) : (s.stopPorts k).still = s.still := by
  simp [State.stopPorts]

theorem flitIn_still (s : State) (port : Nat) (f : List Byte) : (s.flitIn port f).still = s.still := by
  simp [State.flitIn]

/-! ## Codewords -/

@[simp] theorem checkPattern_still (s : State) (b : Blk) (l : List Bool) : (s.checkPattern b l).still = s.still := by
  simp [State.checkPattern]

@[simp] theorem countFec_still (s : State) (k n : Nat) (fec : Option Nat) : (s.countFec k n fec).still = s.still := by
  unfold State.countFec
  dsimp only
  split <;> simp

@[simp] theorem applyPolicy_still (s : State) (k n l : Nat) : (s.applyPolicy k n l).still = s.still := by
  simp [State.applyPolicy]

@[simp] theorem tlinkWord_still (s : State) (k n side : Nat) (body : List Bool) :
    (s.tlinkWord k n side body).1.still = s.still := by
  unfold State.tlinkWord
  dsimp only
  split <;> simp

theorem rxTlink_still (s : State) (k n l port : Nat) (ls : List Nat) : (s.rxTlink k n l port ls).still = s.still := by
  unfold State.rxTlink
  extract_lets b idx r u q lanes
  have hu : u.still = s.still := by simp [u]
  have hq : q.1.still = s.still := by
    unfold q
    clear_value r
    cases r with
    | none => exact (p_still u b _ _).trans hu
    | some c => exact (tlinkWord_still u k n _ _).trans hu
  clear_value q
  split
  · exact hq
  · split
    · exact hq
    · exact (setLl_still _ _ _).trans hq

theorem rxEth_still (s : State) (k n l port : Nat) (ls : List Nat) : (s.rxEth k n l port ls).still = s.still := by
  unfold State.rxEth
  dsimp only
  split <;> simp

theorem rxCodeword_still (s : State) (k n : Nat) (ls : List Nat) : (s.rxCodeword k n ls).still = s.still := by
  unfold State.rxCodeword
  dsimp only
  split
  · simp
  · split
    · rfl
    · simp [rxEth_still, rxTlink_still]

@[simp] theorem sendSyms_still (s : State) (k n port tag : Nat) (syms : List Nat) :
    (s.sendSyms k n port tag syms).still = s.still := by
  simp [State.sendSyms]

@[simp] theorem sentCodeword_still (s : State) (k n port : Nat) : (s.sentCodeword k n port).still = s.still := by
  simp [State.sentCodeword]

@[simp] theorem sendControl_still (s : State) (k n port side idx : Nat) :
    (s.sendControl k n port side idx).still = s.still := by
  simp [State.sendControl]

@[simp] theorem sendData_still (s : State) (k n port side idx : Nat) :
    (s.sendData k n port side idx).still = s.still := by
  unfold State.sendData
  dsimp only
  split
  · simp
  · split <;> simp

theorem txCodeword_still (s : State) (k n : Nat) : (s.txCodeword k n).still = s.still := by
  unfold State.txCodeword
  split
  · simp [State.sendPattern]
  · split
    · rfl
    · simp

/-! ## Pages of engines, firmware and memories -/

theorem rdxCmdDone_still (s : State) (n : Nat) : (s.rdxCmdDone n).still = s.still := by
  unfold State.rdxCmdDone
  dsimp only
  split
  · rfl
  · simp

@[simp] theorem setSlot_still (s : State) (b : Blk) (slot : Nat) (img : Option Image) :
    (s.setSlot b slot img).still = s.still := by
  simp [State.setSlot]

@[simp] theorem endWrite_still (s : State) (b : Blk) (j : Job) : (s.endWrite b j).still = s.still := by
  simp [State.endWrite]

theorem hbmCommand_still (s : State) (m pg v : Nat) : (s.hbmCommand m pg v).still = s.still := by
  unfold State.hbmCommand
  split
  · exact onWrite_still (fun b => by simp) _ _ _
  · rfl

/-! ## The frame, command by command -/

theorem trainTimeout_frame (port : PortNo) (s : State) : TrafficFrame s (exec (.trainTimeout port) s) :=
  .done (by simp)

theorem lockTimeout_frame (port : PortNo) (s : State) : TrafficFrame s (exec (.lockTimeout port) s) :=
  .done (by simp)

theorem retrain_frame (port : PortNo) (s : State) : TrafficFrame s (exec (.retrain port) s) :=
  .done (by simp)

theorem spareTrainFail_frame (k : DieNo) (s : State) : TrafficFrame s (exec (.spareTrainFail k) s) :=
  .done (by
    split
    · rfl
    · exact guarded_still (failSwitch_still s _))

theorem spareSwitch_frame (port : PortNo) (idx : BitVec 3) (j : BitVec 2) (sw : BitVec 32) (s : State) :
    TrafficFrame s (exec (.spareSwitch port idx j sw) s) :=
  .next (by
    split
    · rfl
    · simp)

theorem spareAck_frame (port : PortNo) (idx : BitVec 3) (j : BitVec 2) (sw : BitVec 32) (s : State) :
    TrafficFrame s (exec (.spareAck port idx j sw) s) :=
  .next (by
    split
    · rfl
    · simp)

theorem spareSwitchover_frame (k : DieNo) (s : State) : TrafficFrame s (exec (.spareSwitchover k) s) :=
  .done (by
    split
    · rfl
    · exact guarded_still (finishSwitch_still s _))

theorem evacStartQueued_frame (s : State) : TrafficFrame s (exec .evacStartQueued s) :=
  .next (by
    split
    · rfl
    · split
      · rfl
      · simp)

theorem fwWriteDone_frame (pg : Pg) (s : State) : TrafficFrame s (exec (.fwWriteDone pg) s) :=
  .done (by
    split
    · rfl
    · split
      · rfl
      · simp)

/-- Settles O58: each command changes the state by operations that leave the parts at rest alone. -/
theorem trafficFrameHolds : Obligations.TrafficFrameHolds :=
  ⟨fun _ _ _ s => .done (writeLaneCtrl_still s _ _ _),
    fun _ _ _ s => .done (writeLaneCtrl_still s _ _ _),
    fun _ _ _ s => .done (writeLaneCtrl_still s _ _ _),
    fun _ _ _ s => .done (writeLaneCtrl_still s _ _ _),
    fun _ _ _ s => .done (writeLaneCtrl_still s _ _ _),
    fun _ s => .next (dequeueSwitch_still s _),
    fun _ _ s => .done (detected_still s _ _),
    fun _ s => .done (trainEnd_still s _),
    trainTimeout_frame, lockTimeout_frame, retrain_frame,
    fun _ _ s => .done (guarded_still (lockLost_still s _ _)),
    fun _ _ _ s => .next (prepare_still s _ _ _),
    fun _ s => .next (spareTrained_still s _),
    spareTrainFail_frame, spareSwitch_frame, spareAck_frame, spareSwitchover_frame,
    fun _ s => .done (by simp),
    fun _ _ _ _ _ s => .done (guarded_still (rxCodeword_still s _ _ _)),
    fun _ _ s => .next (guarded_still (txCodeword_still s _ _)),
    fun _ _ s => .done (flitIn_still s _ _),
    fun _ _ s => .next (guarded_still (by simp)),
    fun _ _ s => .done (guarded_still (by simp)),
    fun _ s => .next (nakAgain_still s _),
    fun _ s => .next (guarded_still (txFlit_still s _)),
    fun _ _ s => .done (onLocal_still (fun t => startMsg_still t _ _ _) s _ _ _),
    fun _ _ s => .done (onLocal_still (fun t => startMsg_still t _ _ _) s _ _ _),
    fun _ _ s => .done (onLocal_still (fun t => startMsg_still t _ _ _) s _ _ _),
    fun _ _ s => .done (onLocal_still (fun t => startMsg_still t _ _ _) s _ _ _),
    fun _ _ s => .done (onLocal_still (fun t => postBuf_still t _ _) s _ _ _),
    fun _ s => .done (issue_still s _),
    fun _ s => .next (guarded_still (ethRelease_still s _)),
    fun _ s => .done (egressSelect_still s _),
    fun _ s => .next (ageTick_still s _),
    fun _ s => .next (guarded_still (slot3_still s _ _)),
    fun _ s => .next (giveUp3_still s _),
    fun _ _ _ s => .done (tblCommand_still s _ _ _),
    fun _ _ _ s => .done (tblCommand_still s _ _ _),
    fun _ _ _ s => .done (tblCommand_still s _ _ _),
    fun _ _ _ s => .done (tblCommand_still s _ _ _),
    fun _ _ _ s => .done (tblCommand_still s _ _ _),
    fun _ s => .next (tblDone_still s _),
    evacStartQueued_frame,
    fun _ _ s => .done (evacDrain_still s _ _),
    fun _ _ s => .done (readback_still s _ _),
    fun _ _ _ s => .done (writeCls_still s _ _ _),
    fun _ _ s => .done (guarded_still (pfcRx_still s _ _)),
    fun _ _ s => .next (unpause_still s _ _),
    fun _ _ s => .next (guarded_still (accrueTile_still s _ _)),
    fun _ _ s => .done (rlCommand_still s _ _),
    fun _ _ s => .done (rlCommand_still s _ _),
    fun _ s => .done (dlScan_still s _),
    fun _ _ s => .done (dlRecover_still s _ _),
    fun _ _ s => .next (unhold_still s _ _),
    fun _ s => .done (rdxCmdDone_still s _),
    fwWriteDone_frame,
    fun _ _ _ s => .done (hbmCommand_still s _ _ _)⟩

end Sys2Proof.Machine

/-! # Links

O11 to O14. Each operation of the links has an equation for each case of it that a clause names, proved once from its
definition; a clause is that equation behind the command's own guard. -/

namespace Sys2Proof.Machine

/-! ## Writes of a group's, a lane's and a pattern's control -/

/-- A write of LNK_GRP_CFG that no state or value rule bars is stored, and the store's budget checked (R62, R176). -/
theorem writeGrpCfg_of_opens {s : State} {m pg v g : Nat} (hb : s.blk pg = some (.grp g))
    (ho : s.opens m pg 0x100 (.grp g)) (hbar : s.grpCfgBarred g v = false) (hbad : grpCfgBad g v = false) :
    s.writeGrpCfg m pg v = (s.grpCfgSet g v).checkBudget (g / 32) := by
  simp only [State.writeGrpCfg, hb, onWrite_of_opens ho, hbar, hbad, Bool.false_eq_true, if_false]

/-- A write of LNK_LANE_CTRL that no rule bars: the lane is written, and then the switchover that it asks for. -/
theorem writeLaneCtrl_of_opens {s : State} {m pg v k n : Nat} (hb : s.blk pg = some (.lane k n))
    (ho : s.opens m pg 0x100 (.lane k n)) (hbar : s.laneCtrlBarred k n v = false) :
    s.writeLaneCtrl m pg v =
      if bit v 5 ∧ (s.laneWrite k n v).spareUsable k n then (s.laneWrite k n v).requestSwitch k n false
      else if bit v 6 then (s.laneWrite k n v).requestSwitch k n true else s.laneWrite k n v := by
  simp only [State.writeLaneCtrl, hb, onWrite_of_opens ho, hbar, Bool.false_eq_true, if_false]

/-- A write that asks for no switchover is barred by no state rule (R58). -/
theorem laneCtrlBarred_plain (s : State) (k n : Nat) {v : Nat} (h5 : bit v 5 = false) (h6 : bit v 6 = false) :
    s.laneCtrlBarred k n v = false := by
  simp [State.laneCtrlBarred, h5, h6]

/-- A spare that can take the lane may be asked for (R56). -/
theorem laneCtrlBarred_request {s : State} {k n v : Nat} (hu : s.spareUsable k n) (h6 : bit v 6 = false) :
    s.laneCtrlBarred k n v = false := by
  simp [State.laneCtrlBarred, hu, h6]

/-- A lane of an ACTIVE port that is on its spare may be asked back (R58). -/
theorem laneCtrlBarred_revert {s : State} {k n v : Nat} (h5 : bit v 5 = false) (hn : n < 64)
    (hs : s.gb (.lane k n) LNK_LANE_STATUS_on_spare) (ha : s.active (s.lanePort k n)) :
    s.laneCtrlBarred k n v = false := by
  simp [State.laneCtrlBarred, h5, hn, hs, ha]

/-- A write of LNK_PRBS_CTRL on a lane that may run patterns starts the generator and the checker over (R59). -/
theorem writePrbs_of_opens {s : State} {m pg v k n : Nat} (hb : s.blk pg = some (.lane k n))
    (ho : s.opens m pg 0x128 (.lane k n)) (hm : s.prbsMay k n) (hv : bits v 0 4 ≤ 8) :
    s.writePrbs m pg v = (s.startPattern (.lane k n)).setReg (.lane k n) 0x128 (bits v 0 6) := by
  simp only [State.writePrbs, hb, onWrite_of_opens ho, hm, Nat.not_lt.2 hv, Bool.not_true, Bool.false_eq_true,
    and_false, if_false]

/-- Settles O11: each write passes its rules and is stored, and asks for a switchover where its bit does. -/
theorem linkConfigRows : Obligations.LinkConfigRows := by
  refine ⟨fun m pg v s g hb ho hbar hbad => ?_, fun m pg v s k n i hi hb ho h5 h6 => ?_,
    fun m pg v s k n hb ho h5 h6 hu hw => ?_, fun m pg v s k n hb ho h5 h6 hn hs ha => ?_,
    fun m pg v s k n hb ho hm hv => ?_⟩
  · rw [exec_lnkGrpCfgWrite, execLnkGrpCfgWrite, writeGrpCfg_of_opens hb ho hbar hbad, State.done]
  · have hw := writeLaneCtrl_of_opens hb ho (laneCtrlBarred_plain s k n h5 h6)
    rw [if_neg (by simp [h5]), if_neg (by simp [h6])] at hw
    rw [← hw]
    simp only [List.mem_cons, List.not_mem_nil, or_false] at hi
    rcases hi with rfl | rfl | rfl <;> rfl
  · rw [exec_spareRequest, execSpareRequest, writeLaneCtrl_of_opens hb ho (laneCtrlBarred_request hu h6),
      if_pos ⟨h5, hw⟩, State.done]
  · rw [exec_spareRevert, execSpareRevert, writeLaneCtrl_of_opens hb ho (laneCtrlBarred_revert h5 hn hs ha),
      if_neg (by simp [h5]), if_pos h6, State.done]
  · rw [exec_prbsCtrlWrite, execPrbsCtrlWrite, writePrbs_of_opens hb ho hm hv, State.done]

/-! ## Bring-up -/

/-- A partner found without auto-negotiation: the port trains (R51). -/
theorem detected_plain {s : State} {port : Nat} (an : Nat) (h1 : s.stage port = 1) (hm : s.portMay port)
    (hc : s.clocked port)
    (ha : (s.pers (portGroup port) == .eth && s.gb (.grp (portGroup port)) LNK_GRP_CFG_an_enable) = false) :
    s.detected port an = s.moveStage port 2 := by
  have ha' : ¬(s.pers (portGroup port) = .eth ∧ s.gb (.grp (portGroup port)) LNK_GRP_CFG_an_enable = true) := by
    simpa using ha
  rw [State.detected, if_pos ⟨h1, hm, hc⟩, if_neg ha']

/-- Auto-negotiation that resolves a PHY ends, and the port trains with it (R43, R51). -/
theorem detected_negotiated {s : State} {port an i : Nat} (h1 : s.stage port = 1) (hm : s.portMay port)
    (hc : s.clocked port) (he : s.pers (portGroup port) = .eth)
    (ha : s.gb (.grp (portGroup port)) LNK_GRP_CFG_an_enable) (hp : s.phyOf port an = some i) :
    s.detected port an = (s.php port H_PORT_phy (i + 1)).moveStage port 2 := by
  simp only [State.detected, if_pos (And.intro h1 (And.intro hm hc)), if_pos (And.intro he ha), hp]

/-- The lanes of a port in LOCK have locked, and their receive crossings align (R51, R353). -/
theorem lockEnd_locked {s t : State} {port : Nat} (h3 : s.stage port = 3)
    (ht : t = (s.portLanes port).foldl (fun (u : State) l => u.alignXing (.lane (u.carrier l).1 (u.carrier l).2) 0) s) :
    s.lockEnd port = if t.pers (portGroup port) = .eth then t.portUp port else t.capexStart port := by
  rw [State.lockEnd, if_pos h3, ht]

/-- A capability message that agrees, on a port not yet ACTIVE, starts the link layer (R51, R52, R72). -/
theorem capability_matched {s t : State} {port : Nat} {msg : CapMsg} (he : s.pers (portGroup port) ≠ .eth)
    (h4 : 4 ≤ s.stage port) (ht : t = s.showPartner port msg) (h5 : t.stage port ≠ 5) (hm : t.capsMatch port msg) :
    s.capability port msg =
      ((t.startLl port ((upTo 8).map fun v => 8 * beAt msg.caps (3 + 2 * v) 2) (min 4096 (beAt msg.caps 0 2))).php port
        H_PORT_got 1).capexEnd port := by
  subst ht
  rw [State.capability, if_neg (by simp [he, h4]), if_neg h5, if_pos hm]

/-- A group of one port that its address held is released, and its port in CAPEX declares its capabilities (R65). -/
theorem addrRecheck_released {s : State} {g p : Nat} (hg : s.groupPorts g = [p])
    (h4 : (s.php p H_PORT_held 0).stage p = 4) (hh : s.hp p H_PORT_held = 1) (ha : s.addrMatch g = false) :
    s.addrRecheck g = ((s.php p H_PORT_held 0).sendCaps p).capexEnd p := by
  rw [State.addrRecheck, hg, List.foldl_cons, List.foldl_nil, if_pos ⟨hh, by simp [ha]⟩, if_pos h4]

/-- Settles O12: each event finds the port in its stage, and moves it on or back. -/
theorem bringUpRows : Obligations.BringUpRows := by
  refine ⟨fun port s => rfl, fun port an s h1 hm hc ha => ?_, fun port an s i h1 hm hc he ha hp => ?_,
    fun port s h2 => ?_, fun port s h2 => ?_, fun port s t h3 ht he => ?_, fun port s t h3 ht he => ?_,
    fun port s h3 => ?_, fun port msg s t he h4 ht h5 hm => ?_, fun port s h4 hh => ?_,
    fun g s p hg h4 hh ha => ?_, fun port s h0 => ?_⟩
  · rw [exec_partnerDetected, execPartnerDetected, detected_plain _ h1 hm hc ha, State.done]
  · rw [exec_partnerDetected, execPartnerDetected, detected_negotiated h1 hm hc he ha hp, State.done]
  · rw [exec_trainDone, execTrainDone, State.trainEnd, if_pos h2, State.done]
  · rw [exec_trainTimeout, execTrainTimeout, if_pos h2, State.done]
  · rw [exec_lockDone, execLockDone, lockEnd_locked h3 ht, if_pos he, State.done]
  · rw [exec_lockDone, execLockDone, lockEnd_locked h3 ht, if_neg he, State.done]
  · rw [exec_lockTimeout, execLockTimeout, if_pos h3, State.done]
  · rw [exec_capability, execCapability, capability_matched he h4 ht h5 hm, State.done]
  · rw [exec_capexResend, execCapexResend, if_pos ⟨h4, hh⟩]
  · rw [exec_addrRecheck, execAddrRecheck, addrRecheck_released hg h4 hh ha, State.done]
  · rw [exec_retrain, execRetrain, if_pos h0, State.done]

/-! ## Lanes that lose lock -/

/-- In CAPEX a lane that loses lock takes its port back to DETECT (R51). -/
theorem lockLost_capex {s : State} {k n l : Nat} (hv : s.served k n = some l) (hc : s.carrier (k, l) = (k, n))
    (h4 : s.stage (s.lanePort k l) = 4) : s.lockLost k n = s.moveStage (s.lanePort k l) 1 := by
  simp only [State.lockLost, hv]
  rw [if_neg (not_not.2 hc), if_pos h4]

/-- A lane of an ACTIVE Ethernet port that loses lock takes the port down (R57). -/
theorem lockLost_eth {s : State} {k n l : Nat} (hv : s.served k n = some l) (hc : s.carrier (k, l) = (k, n))
    (h5 : s.stage (s.lanePort k l) = 5) (he : s.pers (portGroup (s.lanePort k l)) = .eth) :
    s.lockLost k n =
      (s.moveStage (s.lanePort k l) 1).raise (.grp (portGroup (s.lanePort k l))) cLANE_DOWN := by
  simp only [State.lockLost, hv]
  rw [if_neg (not_not.2 hc), if_neg (by omega), if_neg (not_not.2 h5), if_pos he]

/-- The lane that loses lock leaves its ACTIVE TLink port with none: the port goes down (R57). -/
theorem lockLost_last {s u : State} {k n l : Nat} (hv : s.served k n = some l) (hc : s.carrier (k, l) = (k, n))
    (h5 : s.stage (s.lanePort k l) = 5) (he : s.pers (portGroup (s.lanePort k l)) ≠ .eth)
    (hu : u = s.php (s.lanePort k l) H_PORT_lost (putBits (s.hp (s.lanePort k l) H_PORT_lost) (s.laneIdx k l) 1 1))
    (hw : (u.workLanes (s.lanePort k l)).isEmpty) :
    s.lockLost k n =
      (u.moveStage (s.lanePort k l) 1).raise (.grp (portGroup (s.lanePort k l))) cLANE_DOWN := by
  simp only [State.lockLost, hv]
  rw [if_neg (not_not.2 hc), if_neg (by omega), if_neg (not_not.2 h5), if_neg he, ← hu, if_pos hw]

/-- An ACTIVE TLink port goes on with the lanes that it keeps, and the lost one asks for its spare where it may (R56,
R57). -/
theorem lockLost_narrowed {s u w : State} {k n l : Nat} (hv : s.served k n = some l) (hc : s.carrier (k, l) = (k, n))
    (h5 : s.stage (s.lanePort k l) = 5) (he : s.pers (portGroup (s.lanePort k l)) ≠ .eth)
    (hu : u = s.php (s.lanePort k l) H_PORT_lost (putBits (s.hp (s.lanePort k l) H_PORT_lost) (s.laneIdx k l) 1 1))
    (hl : (u.workLanes (s.lanePort k l)).isEmpty = false)
    (hw : w = (u.showPort (s.lanePort k l) 5).showLane (u.carrier (k, l)) 3)
    (hs : w.sws.any (fun x => x.die == k && x.lane == l) = false) :
    s.lockLost k n =
      if n < 64 ∧ w.spareUsable k l then
        if w.gb (.grp (laneGroup k l).1) LNK_GRP_CFG_spare_auto then w.requestSwitch k l false else w
      else w.raise (.die k) cSPARE_EXHAUSTED := by
  simp only [State.lockLost, hv]
  rw [if_neg (not_not.2 hc), if_neg (by omega), if_neg (not_not.2 h5), if_neg he, ← hu, if_neg (by simp [hl]), ← hw,
    if_neg (by simp [hs])]

/-! ## The spare handshake -/

/-- A partner's request for a lane with a usable spare starts the spare's training (R55, R56). -/
theorem prepare_usable {s : State} {port x j k n : Nat} (hl : (s.portLanes port)[x]? = some (k, n)) (ha : s.active port)
    (he : s.pers (portGroup port) ≠ .eth) (hj : spareOf n = j) (hs : s.sws.any (fun w => w.die == k) = false)
    (ho : s.gb (.lane k n) LNK_LANE_STATUS_on_spare = false) (hu : s.spareUsable k n) :
    s.prepare port x j = s.startSwitch k n false false := by
  simp only [State.prepare, hl]
  rw [if_neg (by simp [ha, he, hj, hs]), if_pos (.inr hu), ho]

/-- What trains at the initiator has trained: the initiator names the switch count (R56). -/
theorem spareTrained_initiator {s t : State} {k : Nat} {c : Nat × Nat} {w : Switchover} (hw : s.sw k = some w)
    (hp : w.phase = .training) (hi : w.initiator) (ht : t = s.adaptLane w.trains) (hc : c = t.carrier (t.swLane w)) :
    s.spareTrained k =
      (t.setSw
        { w with phase := .switching, count := (t.g (.lane c.1 c.2) H_LANE_ctl_count + 8) % 2 ^ 32 }).swSay k := by
  simp only [State.spareTrained, hw]
  rw [if_pos hp, if_pos hi, hc, ht]

/-- A waiting request starts where its die is free and its lane can still move (R58). -/
theorem dequeueSwitch_usable {s t : State} {k : Nat} {w : SwWait} (hs : s.sws.any (fun x => x.die == k) = false)
    (hw : s.nextSwWait k = some w) (hr : w.revert = false) (ht : t = { s with swWaits := s.swWaits.erase w })
    (hu : t.spareUsable k w.lane) : s.dequeueSwitch k = t.startSwitch k w.lane false true := by
  subst ht
  simp only [State.dequeueSwitch, hs, hw, hr, hu, Bool.false_eq_true, if_false, if_true]

/-- Settles O13: each event is carried out in the case that the clause names. -/
theorem sparingRows : Obligations.SparingRows := by
  refine ⟨fun k n s l port hn hv hp hc h4 => ?_, fun k n s l port hn hv hp hc h5 he => ?_,
    fun k n s u l port hn hv hp hc h5 he hu hw => ?_,
    fun k n s u w l port hn hv hp hc h5 he hu hl hw hs h64 hx ha => ?_,
    fun k n s u w l port hn hv hp hc h5 he hu hl hw hs hx => ?_, fun k n s hn => ?_,
    fun port x j s k n hl ha he hj hs ho hu => ?_, fun k s w hw hp hi => ?_, fun k s w hw hp => ?_,
    fun port x j n s w hw hi => ?_, fun port x j n s w hw hi hp hc => ?_, fun k s w hw hp hq => ?_,
    fun k s w hs hw hr hu => ?_, fun k s => rfl, fun k s => rfl⟩
  · rw [exec_laneLockLost, execLaneLockLost, if_pos hn, lockLost_capex hv hc (hp ▸ h4), hp, State.done]
  · subst hp
    rw [exec_laneLockLost, execLaneLockLost, if_pos hn, lockLost_eth hv hc h5 he, State.done]
  · subst hp
    rw [exec_laneLockLost, execLaneLockLost, if_pos hn, lockLost_last hv hc h5 he hu hw, State.done]
  · subst hp
    rw [exec_laneLockLost, execLaneLockLost, if_pos hn, lockLost_narrowed hv hc h5 he hu hl hw hs, if_pos ⟨h64, hx⟩,
      if_pos ha, State.done]
  · subst hp
    rw [exec_laneLockLost, execLaneLockLost, if_pos hn, lockLost_narrowed hv hc h5 he hu hl hw hs,
      if_neg (by simpa using hx), State.done]
  · rw [exec_sparePolicyWindow, execSparePolicyWindow, if_pos hn]
  · rw [exec_sparePrepare, execSparePrepare, prepare_usable hl ha he hj hs ho hu]
  · rw [exec_spareTrainDone, execSpareTrainDone, spareTrained_initiator hw hp hi rfl rfl]
  · simp only [exec_spareTrainFail, execSpareTrainFail, hw, State.done]
    rw [if_pos hp]
  · simp only [exec_spareSwitch, execSpareSwitch, hw]
    rw [if_neg (by simp [hi])]
  · simp only [exec_spareAck, execSpareAck, hw]
    rw [if_pos ⟨hi, hp, hc⟩]
  · simp only [exec_spareSwitchover, execSpareSwitchover, hw, State.done]
    rw [if_pos ⟨hp, hq⟩]
  · rw [exec_spareRequestDequeue, execSpareRequestDequeue, dequeueSwitch_usable hs hw hr rfl hu]

/-! ## Codewords and flits -/

/-- A lane that checks a pattern hands its levels to the checker (R59). -/
theorem rxCodeword_checks {s : State} {k n : Nat} (ls : List Nat) (hc : s.gb (.lane k n) LNK_PRBS_CTRL_rx_check) :
    s.rxCodeword k n ls =
      s.checkPattern (.lane k n) ((polarity (s.gb (.lane k n) LNK_LANE_CTRL_rx_invert) ls).flatMap pamBits) := by
  rw [State.rxCodeword, if_pos hc]

/-- From CAPEX on the carrier of a lane hands its levels to the decoder of its personality, and adapts while the port is
ACTIVE (R49). -/
theorem rxCodeword_decodes {s t : State} {k n l : Nat} (ls : List Nat)
    (hc : s.gb (.lane k n) LNK_PRBS_CTRL_rx_check = false) (hv : s.served k n = some l)
    (hk : s.carrier (k, l) = (k, n)) (h4 : 4 ≤ s.stage (s.lanePort k l))
    (ht : t = if s.active (s.lanePort k l) then s.adaptRx (k, n) else s) :
    s.rxCodeword k n ls =
      if t.pers (portGroup (s.lanePort k l)) = .eth then
        t.rxEth k n l (s.lanePort k l) (polarity (s.gb (.lane k n) LNK_LANE_CTRL_rx_invert) ls)
      else t.rxTlink k n l (s.lanePort k l) (polarity (s.gb (.lane k n) LNK_LANE_CTRL_rx_invert) ls) := by
  subst ht
  simp only [State.rxCodeword, hc, hv, Bool.false_eq_true, if_false]
  rw [if_neg (by simp [hk, h4])]

/-- A lane that generates a pattern sends that (R59). -/
theorem txCodeword_pattern {s : State} {k n : Nat} (h : s.gb (.lane k n) LNK_PRBS_CTRL_tx_en) :
    s.txCodeword k n = s.sendPattern k n := by
  rw [State.txCodeword, if_pos h]

/-- The carrier of a lane of a TLink port past training, that has not lost lock, sends its next codeword: a control one
in place 19 of its period, else one of data (R46, R47). -/
theorem txCodeword_tlink {s : State} {k n l : Nat} (h : s.gb (.lane k n) LNK_PRBS_CTRL_tx_en = false)
    (hv : s.served k n = some l) (hk : s.carrier (k, l) = (k, n)) (h3 : 3 ≤ s.stage (s.lanePort k l))
    (hl : (s.active (s.lanePort k l) && bit (s.hp (s.lanePort k l) H_PORT_lost) (s.laneIdx k l)) = false)
    (he : s.pers (portGroup (s.lanePort k l)) ≠ .eth) :
    s.txCodeword k n =
      if s.g (.lane k n) H_LANE_pos = 19 then
        (s.sentCodeword k n (s.lanePort k l)).sendControl k n (s.lanePort k l) (s.codewordSide k n (s.lanePort k l))
          (s.laneIdx k l)
      else
        (s.sentCodeword k n (s.lanePort k l)).sendData k n (s.lanePort k l) (s.codewordSide k n (s.lanePort k l))
          (s.laneIdx k l) := by
  have hl' : ¬(s.active (s.lanePort k l) = true ∧ bit (s.hp (s.lanePort k l) H_PORT_lost) (s.laneIdx k l) = true) := by
    simpa using hl
  simp only [State.txCodeword, h, hv, Bool.false_eq_true, if_false]
  rw [if_neg (by simp only [not_or]; exact ⟨by omega, not_not.2 hk, hl'⟩), if_neg he]

/-- While a port drops flits after a nak, another one goes out (R75). -/
theorem nakAgain_dropping {s : State} {port : Nat} {x : Ll} (hx : s.ll port = some x) (hd : x.dropping)
    (ha : s.active port) : s.nakAgain port = s.sendNak port := by
  simp only [State.nakAgain, hx]
  rw [if_pos ⟨hd, ha⟩]

/-- Settles O14: each codeword, flit, sideband and nak finds its lane or its port as the clause names it. -/
theorem codewordAndFlitRows : Obligations.CodewordAndFlitRows := by
  refine ⟨fun k n side body parity s l port hn hc hv hp hk h4 he => ?_,
    fun k n side body parity s l port hn hc hv hp hk h4 he => ?_, fun k n side body parity s hn hc => ?_,
    fun k n s hn h => ?_, fun k n s l port hn h hv hp hk h3 hl he hq => ?_,
    fun k n s l port hn h hv hp hk h3 hl he hq => ?_, fun port f s ha hr => ?_, fun port f s ha hr => ?_,
    fun port w s ha => ?_, fun port a s ha => ?_, fun port s l hx hd ha => ?_, fun port s ha => ?_⟩
  · subst hp
    rw [exec_dataCodeword, execDataCodeword, if_pos hn, rxCodeword_decodes _ hc hv hk h4 rfl, if_neg he, State.done]
  · subst hp
    rw [exec_dataCodeword, execDataCodeword, if_pos hn, rxCodeword_decodes _ hc hv hk h4 rfl, if_pos he, State.done]
  · rw [exec_dataCodeword, execDataCodeword, if_pos hn, rxCodeword_checks _ hc, State.done]
  · rw [exec_codewordTx, execCodewordTx, if_pos hn, txCodeword_pattern h]
  · subst hp
    rw [exec_codewordTx, execCodewordTx, if_pos hn, txCodeword_tlink h hv hk h3 hl he, if_pos hq]
  · subst hp
    rw [exec_codewordTx, execCodewordTx, if_pos hn, txCodeword_tlink h hv hk h3 hl he, if_neg hq]
  · rw [exec_flitRx, execFlitRx, State.flitIn, if_pos ha, if_neg (by simp [hr]), State.done]
  · rw [exec_flitRx, execFlitRx, State.flitIn, if_pos ha, if_pos hr, State.done]
  · rw [exec_sidebandRx, execSidebandRx, if_pos ha]
  · rw [exec_nakRx, execNakRx, if_pos ha, State.done]
  · rw [exec_nakRepeat, execNakRepeat, nakAgain_dropping hx hd ha]
  · rw [exec_flitTx, execFlitTx, if_pos ha]

end Sys2Proof.Machine

/-! # The attach end

O47 and O21 to O24. The reserved address is turned away by the rules of a plain register; each operation of the attach
engine has an equation for the case that a clause names, proved once from its definition, and a clause is that equation
behind the command's own checks. -/

namespace Sys2Proof.Machine

/-! ## The reserved address -/

/-- A write that opens its page finds the page's block there. -/
theorem blk_of_opens {s : State} {m pg off : Nat} {b : Blk} (h : s.opens m pg off b) : s.blk pg = some b := by
  simp only [State.opens, Bool.and_eq_true, beq_iff_eq] at h
  obtain ⟨⟨hb, -⟩, -⟩ := h
  exact hb

/-- Of a write that opens its page, of a register whose fields no slot and no other page keeps: its state rule comes
first, with REFUSED_STATE, then a value that breaks a value rule is refused with BAD_ARG (R479). -/
theorem writePlain_of_bad {s : State} {m pg off v : Nat} {b : Blk} (h : s.opens m pg off b)
    (hslot : slotDenied m b off = false) (hshow : showOnly b off = false)
    (hbad : s.plainBad (s.store b off v) b off v = true) :
    s.writePlain m pg off v = s.refuse m b off (if s.plainBarred b off v then .refusedState else .badArg) := by
  rw [State.writePlain, onWrite_of_opens h]
  simp only [hslot, hshow, hbad, Bool.false_eq_true, if_false, or_true, if_true]
  split <;> rfl

/-- The register at 0x200 + 0x40 k of an attach engine is the first of its group k. -/
theorem attGroup_first (t : Nat) {k : Nat} (hk : k < 8) : attGroup t (0x200 + 0x40 * k) = some (8 * t + k, 0) := by
  rw [attGroup, if_pos (by omega), show (0x200 + 0x40 * k - 0x200) / 0x40 = k by omega,
    show (0x200 + 0x40 * k - 0x200) % 0x40 = 0 by omega]

/-- A group's address is a plain register of its attach engine. -/
theorem regWrite_groupAddr {s : State} {pg t k : Nat} (m v : Nat) (hb : s.blk pg = some (.att t)) (hk : k < 8) :
    s.regWrite m pg (0x200 + 0x40 * k) v = s.writePlain m pg (0x200 + 0x40 * k) v := by
  interval_cases k <;> simp [State.regWrite, hb, State.blockWrite, Blk.isSteward]

/-- A group's address is barred while the group is not OFF. -/
theorem groupAddr_barred (s : State) (t v : Nat) {k : Nat} (hk : k < 8) :
    s.plainBarred (.att t) (0x200 + 0x40 * k) v = (s.st (.grp (8 * t + k)) != .off) := by
  simp only [State.plainBarred, attGroup_first t hk]

/-- The address 0xF_FFFF breaks the value rule of a group's address (R65). -/
theorem groupAddr_bad (s new : State) (t : Nat) {k v : Nat} (hk : k < 8) (hv : bits v 0 20 = 0xFFFFF) :
    s.plainBad new (.att t) (0x200 + 0x40 * k) v = true := by
  simp [State.plainBad, attGroup_first t hk, hv]

/-- A refusal of a write of a group's address leaves the address as it was. -/
theorem refuse_groupAddr {s : State} (h : s.Wf) (m t : Nat) {k : Nat} (c : Code) (hk : k < 8) :
    (s.refuse m (.att t) (0x200 + 0x40 * k) c).reg (.att t) (0x200 + 0x40 * k) = s.reg (.att t) (0x200 + 0x40 * k) := by
  have hrec : ∀ x ∈ 0x80 :: 0x88 :: errRegs cCMD_REFUSED, x < 0x200 ∨ 0x740 ≤ x ∧ x < 0x2000 := by decide
  refine refuse_reg h m _ _ _ c _ fun x hx => ?_
  have hx' := hrec x hx
  exact regKey_ne (by omega) (by omega) (.inr (by omega))

/-- Settles O47: the state rule of the register comes before its value rule, which 0xF_FFFF breaks. -/
theorem reservedAddress : Obligations.ReservedAddress := by
  refine ⟨fun m pg k v s t ho hk hv => ?_, fun m k s t c h hk => refuse_groupAddr h m t c hk⟩
  rw [regWrite_groupAddr m v (blk_of_opens ho) hk, writePlain_of_bad ho rfl rfl (groupAddr_bad s _ t hk hv),
    groupAddr_barred s t v hk]
  simp only [bne_iff_ne, ne_eq, ite_not]

/-! ## Contexts and the attach engine's tables -/

/-- What ATT_CMD asks of a context by its operation: 1 opens it, 2 closes it, 3 resets it (R82). -/
def State.ctxOp (s : State) (m v : Nat) : Code × State :=
  if bits v 0 2 = 1 then s.ctxOpen m (bits v 2 12)
  else if bits v 0 2 = 2 then s.ctxClose m (bits v 2 12)
  else s.ctxReset m (bits v 2 12)

/-- A context operation that is accepted leaves its state, and its status shows OK (R82). -/
theorem attCommand_of_ok {s : State} {m t v : Nat} {b : Blk} (h : s.opens m (Blk.att t).page 0x120 b)
    (hv : bits v 0 2 ≠ 0) (hr : (s.ctxOp m v).1 = .ok) :
    s.attCommand m t v = (s.ctxOp m v).2.finish b 0x128 .ok := by
  have hok : (s.ctxOp m v).1.refuses = false := by rw [hr]; rfl
  rw [State.attCommand, onWrite_of_opens h, if_neg hv]
  change State.finish (if (s.ctxOp m v).1.refuses then _ else (s.ctxOp m v).2) b 0x128 (s.ctxOp m v).1 = _
  rw [hok, hr, if_neg Bool.false_ne_true]

/-- A word with an RW field of a FREE context's entry is stored where the row filter opens it (R81, R363). -/
theorem attTblWrite_context {s : State} {m t v : Nat} {b : Blk} (h : s.opens m (Blk.att t).page 0x118 b)
    (ht : s.g (.att t) ATT_TBL_SEL_table = 0)
    (hrow : s.attRow m t 0 (s.g (.att t) ATT_TBL_SEL_index) (s.g (.att t) ATT_TBL_SEL_word) v)
    (hrw : (fieldsAt Tbl.attCtx.fields (s.g (.att t) ATT_TBL_SEL_word)).any fun d => d.acc == .rw)
    (hfree : s.ctxSt (s.g (.att t) ATT_TBL_SEL_index) = 0) :
    s.attTblWrite m t v =
      s.storeTw .attCtx 0 (s.g (.att t) ATT_TBL_SEL_index) (s.g (.att t) ATT_TBL_SEL_word) v := by
  rw [State.attTblWrite, onWrite_of_opens h]
  simp only [ht, hrow, hrw, hfree, Bool.not_true, Bool.false_eq_true, ne_eq, not_true_eq_false, or_self, if_false]

/-- Word 0 of a path's entry is stored, and its effective weight starts at the weight written (R81; the start is the
model's choice, log entry 72). -/
theorem attTblWrite_path {s : State} {m t v : Nat} {b : Blk} (h : s.opens m (Blk.att t).page 0x118 b)
    (ht : s.g (.att t) ATT_TBL_SEL_table = 1) (hw : s.g (.att t) ATT_TBL_SEL_word = 0)
    (hrow : s.attRow m t 1 (s.g (.att t) ATT_TBL_SEL_index) 0 v) :
    s.attTblWrite m t v = (s.storeTw .attPath t (s.g (.att t) ATT_TBL_SEL_index) 0 v).pt .attPath t
      (s.g (.att t) ATT_TBL_SEL_index) attPath_eff_weight (bits v 16 4) := by
  rw [State.attTblWrite, onWrite_of_opens h]
  simp only [ht, hw, hrow, Bool.not_true, Bool.false_eq_true, if_false, if_true]

/-- A word of a region's entry is stored where the row filter opens it (R81, R363). -/
theorem attTblWrite_region {s : State} {m t v : Nat} {b : Blk} (h : s.opens m (Blk.att t).page 0x118 b)
    (ht : s.g (.att t) ATT_TBL_SEL_table = 2)
    (hrow : s.attRow m t 2 (s.g (.att t) ATT_TBL_SEL_index) (s.g (.att t) ATT_TBL_SEL_word) v) :
    s.attTblWrite m t v =
      s.storeTw .attRegion t (s.g (.att t) ATT_TBL_SEL_index) (s.g (.att t) ATT_TBL_SEL_word) v := by
  rw [State.attTblWrite, onWrite_of_opens h]
  simp only [ht, hrow, Bool.not_true, Bool.false_eq_true, if_false]

/-- Settles O21: the operation's code is OK, and a write's table takes the word. -/
theorem contextRows : Obligations.ContextRows := by
  refine ⟨fun m t v s b r ho hv hr hok => ?_, fun m t v s b r ho hv hr hok => ?_, fun m t v s b r ho hv hr hok => ?_,
    fun m t v s b a i wd ha hi hwd ho hrow ht hrw hfree => ?_, fun m t v s b a i wd ha hi hwd ho hrow ht h0 => ?_,
    fun m t v s b a i wd ha hi hwd ho hrow ht => ?_⟩
  · obtain rfl : r = s.ctxOp m.toNat v.toNat := by simp only [hr, State.ctxOp, hv, if_true]
    rw [exec_ctxOpen, execCtxOpen, attCommand_of_ok ho (by omega) hok, State.done]
  · obtain rfl : r = s.ctxOp m.toNat v.toNat := by simp [hr, State.ctxOp, hv]
    rw [exec_ctxClose, execCtxClose, attCommand_of_ok ho (by omega) hok, State.done]
  · obtain rfl : r = s.ctxOp m.toNat v.toNat := by simp [hr, State.ctxOp, hv]
    rw [exec_ctxReset, execCtxReset, attCommand_of_ok ho (by omega) hok, State.done]
  · subst ha hi hwd
    rw [exec_ctxEntryWrite, execCtxEntryWrite, attTblWrite_context ho ht hrow hrw hfree, State.done]
  · subst ha hi
    rw [h0] at hwd hrow
    rw [exec_ctxEntryWrite, execCtxEntryWrite, attTblWrite_path ho ht hwd.symm hrow, State.done]
  · subst ha hi hwd
    rw [exec_ctxEntryWrite, execCtxEntryWrite, attTblWrite_region ho ht hrow, State.done]

/-! ## Local commands -/

/-- A sound packet of an accelerator, at an ACTIVE attach port, reaches its operation (R78, R80, R83). -/
theorem onLocal_of_sound {s : State} {g op : Nat} {bs : List Byte}
    (hp : (s.unhand (attOwner (g / 8)) bs).pers g = .tlinkAttach)
    (ha : (s.unhand (attOwner (g / 8)) bs).active ((s.unhand (attOwner (g / 8)) bs).attPort g))
    (hlen : 56 ≤ bs.length) (hop : pOp bs = op) (hcrc : e2eOk bs) (f : State → State) :
    s.onLocal g op bs f = f (s.unhand (attOwner (g / 8)) bs) := by
  have hbad : ¬(bs.length < 56 ∨ pOp bs ≠ op) := by simp [hop, hlen]
  simp only [State.onLocal]
  rw [if_neg (by simp [hp, ha]), if_neg hbad, if_neg (by simp [hcrc])]

/-- The commands that start a message, each with its opcode and its operation (R87). -/
def msgCmds (g : GroupNo) (c : LocalCmd) : List (Instr × Nat × TOp) :=
  [(.localPut g c, 0x11, .put), (.localGet g c, 0x12, .get), (.localSend g c, 0x13, .send),
    (.localAtomic g c, 0x14, .atomic)]

/-- Each of them starts a message of its operation, behind the checks of a local command. -/
theorem exec_msgCmd {g : GroupNo} {c : LocalCmd} {i : Instr} {k : Nat} {o : TOp} (h : (i, k, o) ∈ msgCmds g c)
    (s : State) : exec i s = (s.onLocal g.toNat k c.bytes fun u => u.startMsg g.toNat o c.bytes).done := by
  simp only [msgCmds, List.mem_cons, List.not_mem_nil, or_false] at h
  rcases h with ⟨rfl, rfl, rfl⟩ | ⟨rfl, rfl, rfl⟩ | ⟨rfl, rfl, rfl⟩ | ⟨rfl, rfl, rfl⟩ <;> rfl

/-- A buffer posted on an ACTIVE context of the group, which holds fewer than 64, joins them (R91). -/
theorem postBuf_of_active {s : State} {g : Nat} {bs : List Byte} (hg : s.ctxGroup (hw bs 0 % 4096) = g)
    (hst : s.ctxSt (hw bs 0 % 4096) = 1) (hn : (s.cx (hw bs 0 % 4096)).posted.length < 64) :
    s.postBuf g bs =
      s.setCx (hw bs 0 % 4096) ((s.cx (hw bs 0 % 4096)).post (beAt bs 16 8) (hw bs 6) (hw bs 3)) := by
  simp only [State.postBuf]
  rw [if_neg (by simp [hg, hst]), if_neg (by simp [hst]), if_neg (by omega)]

/-- The data of a local read that fills no buffer joins its packet, which is then ready (R80). -/
theorem localData_read {s : State} {g tag : Nat} {l : LocalRd} (d : List Byte)
    (hl : (s.lrds.find? fun x => x.tile == g / 8 && x.tag == tag && s.ctxGroup x.ctx == g) = some l)
    (hr : l.fadd = false) (hb : l.pkt.buf = none) :
    s.localData g tag d =
      ({ s with lrds := s.lrds.filter fun x => !(x.tile == l.tile && x.tag == l.tag) } : State).addPkt l.ctx
        (l.pkt.withData (fit l.len d)) := by
  simp only [State.localData, hl, hr, hb, Bool.false_eq_true, if_false]

/-- Settles O22: the packet passes the checks of a local command, and its operation finds the context ACTIVE. -/
theorem localCommandRows : Obligations.LocalCommandRows := by
  refine ⟨fun g c s u i k o hi hu hp ha hlen hop hcrc _ _ _ => ?_,
    fun g c s u hu hp ha hlen hop hcrc hg hst hn => ?_, fun c s => ?_, fun g tag d s u l w hl hr hw hb hu => ?_,
    fun c s => ?_⟩
  · subst hu
    rw [exec_msgCmd hi, onLocal_of_sound hp ha hlen hop hcrc, State.done]
  · subst hu
    rw [exec_localRecvPost, execLocalRecvPost, onLocal_of_sound hp ha hlen hop hcrc, postBuf_of_active hg hst hn,
      State.done]
  · rw [exec_ctxQueueIssue, execCtxQueueIssue, State.done]
  · subst hw hu
    rw [exec_localRdData, execLocalRdData, localData_read d hl hr hb, State.done]
  · rw [exec_localCpl, execLocalCpl, State.done]

/-! ## Transport packets -/

/-- A request is taken as any data packet is, unless its context failed as its port left ACTIVE (R96). -/
theorem onRequest_of_live {s : State} {t : Nat} {bs : List Byte} (h : s.abortedReq t bs = false) (op : Nat)
    (f : State → Nat → Except Code State) : s.onRequest t op bs f = s.onData t op bs f := by
  rw [State.onRequest, if_neg (by simp [h])]

/-- The value that `toOption` gives is the one that a computation ends with. -/
theorem eq_ok_of_toOption {ε α : Type} {x : Except ε α} {a : α} (h : x.toOption = some a) : x = .ok a := by
  cases x with
  | error e => cases h
  | ok b => exact congrArg Except.ok (Option.some.inj h)

/-- A data packet that is accepted, new and within the bitmap, and that its operation carries out, is recorded and
acknowledged (R83, R85, R90). -/
theorem onData_of_new {s u w : State} {t op c : Nat} {bs : List Byte} {f : State → Nat → Except Code State}
    (hacc : s.acceptPkt t op bs = (some c, u)) (hseen : u.seen c (pPsn bs) = false)
    (hin : u.beyond c (pPsn bs) = false) (hf : (f u c).toOption = some w) :
    s.onData t op bs f = w.tookPkt c bs := by
  simp only [State.onData, hacc, hseen, hin, eq_ok_of_toOption hf, Bool.false_eq_true, if_false]

/-- The same of a request, whose context did not fail as its port left ACTIVE (R96). -/
theorem onRequest_of_new {s u w : State} {t op c : Nat} {bs : List Byte} {f : State → Nat → Except Code State}
    (hab : s.abortedReq t bs = false) (hacc : s.acceptPkt t op bs = (some c, u))
    (hseen : u.seen c (pPsn bs) = false) (hin : u.beyond c (pPsn bs) = false) (hf : (f u c).toOption = some w) :
    s.onRequest t op bs f = w.tookPkt c bs := by
  rw [onRequest_of_live hab, onData_of_new hacc hseen hin hf]

/-- An ACK that is accepted, for a context that what it names leaves live, shows the gaps too (R79, R93). -/
theorem rxAck_of_live {s u w : State} {t c : Nat} {bs : List Byte} (hacc : s.acceptPkt t 0x07 bs = (some c, u))
    (hack : w = (u.ackPkts c (pPsn bs) (beAt bs 20 16) (beAt bs 36 16)).ackNak c (hw bs 4 / 2 ^ 24) (hw bs 4 % 2 ^ 24))
    (hlive : w.ctxLive c) : s.rxAck t bs = (w.ackGaps c (pPsn bs) (beAt bs 20 16)).drainCx c := by
  subst hack
  simp only [State.rxAck, hacc]
  rw [if_pos hlive]

/-- Settles O23: a request and a response are data packets that are new, and an ACK is one of a transport context. -/
theorem transportPacketRows : Obligations.TransportPacketRows := by
  refine ⟨fun t p s u w c hab hacc hs hb hf => ?_, fun t p s u w c hab hacc hs hb hf => ?_,
    fun t p s u w c hab hacc hs hb hf => ?_, fun t p s u w c hab hacc hs hb hf => ?_,
    fun t p s u w c hacc hs hb hf => ?_, fun t p s u w c hacc hs hb hf => ?_,
    fun t p s u w c hrdx hacc hack hlive => ?_, fun c s => ?_⟩
  · rw [exec_put, execPut, onRequest_of_new hab hacc hs hb hf, State.done]
  · rw [exec_getReq, execGetReq, onRequest_of_new hab hacc hs hb hf, State.done]
  · rw [exec_send, execSend, onRequest_of_new hab hacc hs hb hf, State.done]
  · rw [exec_atomicAdd, execAtomicAdd, onRequest_of_new hab hacc hs hb hf, State.done]
  · rw [exec_getResp, execGetResp, onData_of_new hacc hs hb hf, State.done]
  · rw [exec_atomicResp, execAtomicResp, onData_of_new hacc hs hb hf, State.done]
  · rw [exec_ack, execAck, if_neg hrdx, rxAck_of_live hacc hack hlive, State.done]
  · rw [exec_txPacketSend, execTxPacketSend, State.done]

/-! ## The transport's timers -/

/-- The acknowledgement of a transport context with packets that it has not acknowledged (R85). -/
theorem ackTick_transport {s : State} {c : Nat} (h4 : s.ctxSt c ≠ 4) (hl : s.ctxLive c)
    (hn : 0 < (s.cx c).sinceAck) : s.ackTick c = s.sendAck c .ok 0 := by
  rw [State.ackTick, if_neg h4, if_pos ⟨hl, hn⟩]

/-- A rank of a reduction context with packets that are not acknowledged is sent an ACK (R85, R192). -/
def State.ackWaiting (s : State) (c i : Nat) : State :=
  if 0 < (((s.rx c).ranks[i]?).map (·.sinceAck)).getD 0 then s.ackRank c i .ok 0 else s

/-- Of a reduction context each rank is acknowledged that waits for it. -/
theorem ackTick_reduction {s : State} {c : Nat} (h4 : s.ctxSt c = 4) :
    s.ackTick c = (upTo (s.rx c).ranks.length).foldl (fun z i => z.ackWaiting c i) s := by
  rw [State.ackTick, if_pos h4]
  congr 1
  funext z i
  rw [State.ackWaiting]
  cases (z.rx c).ranks[i]? with
  | none => rfl
  | some r => rfl

/-- A timeout of a packet whose path stays up is counted, on the path too, and the packet goes again (R93, R94). -/
theorem timeout_of_up {s : State} {c psn : Nat} {p : TxP} {t n : Nat} (hl : s.ctxLive c)
    (hp : ((s.cx c).pkts.find? fun x => x.psn == some psn) = some p) (ht : t = s.ctxTile c)
    (hn : n = s.t .attPath t p.path attPath_timeouts + 1)
    (hup : n < ((s.inc (.att t) ATT_TIMEOUTS_count).pt .attPath t p.path attPath_timeouts (min n 255)).g (.att t)
      ATT_CFG_path_down_after) :
    s.timeout c psn =
      ((s.inc (.att t) ATT_TIMEOUTS_count).pt .attPath t p.path attPath_timeouts (min n 255)).resend c psn := by
  subst ht hn
  simp only [State.timeout, hl, hp, Bool.not_true, Bool.false_eq_true, if_false]
  rw [if_neg fun h => Nat.not_le.2 hup h.1]

/-- A timeout of a result that a live reduction context sent sends it again to each recipient that has not acknowledged
it (R93, R210). -/
theorem rdxTimeout_result {s : State} {c psn : Nat} {l : RLine} (hl : s.subLive c)
    (hp : ((s.rx c).lines.find? fun x => x.part.isSome && x.partPsn == some psn) = none)
    (hr : ((s.rx c).lines.find? fun x => x.res.isSome && x.resPsn == some psn) = some l) :
    s.rdxTimeout c psn = ((s.rx c).recvs.filter fun e => !l.acked.contains e.1).foldl
      (fun z e => z.resendTo c ((z.rx c).line l.g) e) s := by
  simp only [State.rdxTimeout, hl, hp, hr, Bool.true_or, Bool.not_true, Bool.false_eq_true, if_false]

/-- A timeout of a partial that a live reduction context sent sends it again (R93, R210). -/
theorem rdxTimeout_partial {s : State} {c psn : Nat} {l : RLine} (hl : s.subLive c)
    (hp : ((s.rx c).lines.find? fun x => x.part.isSome && x.partPsn == some psn) = some l)
    (hr : ((s.rx c).lines.find? fun x => x.res.isSome && x.resPsn == some psn) = none) :
    s.rdxTimeout c psn = s.resendPart c l := by
  simp only [State.rdxTimeout, hl, hp, hr, Bool.true_or, Bool.not_true, Bool.false_eq_true, if_false]

/-- A packet of a live context that NO_RESOURCE refused goes again (R91, R93). -/
theorem retryNak_of_nakd {s : State} {c psn : Nat} (hl : s.ctxLive c)
    (hp : (s.cx c).pkts.any fun p => p.psn == some psn && p.nakd) : s.retryNak c psn = s.resend c psn := by
  rw [State.retryNak, if_pos (by simp only [hl, hp, Bool.and_self])]

/-- Of a reduction context the timeout and the retry after NO_RESOURCE are one operation (R93). -/
theorem exec_rdxRetx {c : CtxNo} {psn : BitVec 32} {s : State} {i : Instr}
    (hi : i ∈ [Instr.retxTimeout c psn, Instr.noResourceRetry c psn]) (h4 : s.ctxSt c.toNat = 4) :
    exec i s = (s.rdxTimeout c.toNat (psn.toNat % 2 ^ 24)).done := by
  simp only [List.mem_cons, List.not_mem_nil, or_false] at hi
  rcases hi with rfl | rfl
  · rw [exec_retxTimeout, execRetxTimeout, if_pos h4]
  · rw [exec_noResourceRetry, execNoResourceRetry, if_pos h4]

/-- Settles O24: each timer finds its context of the kind that the clause names, and the packet that it is about. -/
theorem transportTimerRows : Obligations.TransportTimerRows := by
  refine ⟨fun c s h4 hl hn => ?_, fun c s h4 => ?_, fun c psn s p t n h4 hl hp ht hn hup => ?_,
    fun c psn s q l i hi hq h4 hl hp hr => ?_, fun c psn s q l i hi hq h4 hl hp hr => ?_, fun c psn s h4 hl hp => ?_,
    fun t p s hd => ?_⟩
  · rw [exec_ackTimer, execAckTimer, ackTick_transport h4 hl hn, State.done]
  · rw [exec_ackTimer, execAckTimer, ackTick_reduction h4, State.done]
    rfl
  · rw [exec_retxTimeout, execRetxTimeout, if_neg h4, timeout_of_up hl hp ht hn hup, State.done]
  · subst hq
    rw [exec_rdxRetx hi h4, rdxTimeout_result hl hp hr, State.done]
  · subst hq
    rw [exec_rdxRetx hi h4, rdxTimeout_partial hl hp hr, State.done]
  · rw [exec_noResourceRetry, execNoResourceRetry, if_neg h4, retryNak_of_nakd hl hp, State.done]
  · rw [exec_pathHoldExpiry, execPathHoldExpiry, State.pathUp, if_pos hd]

end Sys2Proof.Machine

/-! # The switch core

O15 to O17. Each command's operation has an equation for the case that a clause names, proved once from its definition,
and a clause is that equation behind the command. -/

namespace Sys2Proof.Machine

/-! ## Frames that enter and leave -/

/-- An ACTIVE Ethernet port takes a MAC control frame as flow control, whether or not it admits frames (R173). -/
theorem frameIn_macControl {s : State} {port vc : Nat} {bs : List Byte} (hp : s.portExists port) (ha : s.active port)
    (he : s.isEth port) (hty : (parseEth bs).ety = 0x8808) : s.frameIn port vc bs = s.pfcRx port bs := by
  rw [State.frameIn, if_neg (by simp [hp, ha]), if_pos he, if_pos hty]

/-- An ACTIVE Ethernet port that admits frames runs the Ethernet pipeline on any other frame (R100). -/
theorem frameIn_ethernet {s : State} {port vc : Nat} {bs : List Byte} (hp : s.portExists port) (ha : s.active port)
    (he : s.isEth port) (hty : (parseEth bs).ety ≠ 0x8808) (hs : s.ingressShut port = false) :
    s.frameIn port vc bs = s.ingressEth port bs := by
  rw [State.frameIn, if_neg (by simp [hp, ha]), if_pos he, if_neg hty, if_neg (by simp [hs])]

/-- An ACTIVE port of TLink that admits packets runs the TLink pipeline on one (R107). -/
theorem frameIn_tlink {s : State} {port vc : Nat} {bs : List Byte} (hp : s.portExists port) (ha : s.active port)
    (he : s.isEth port = false) (hs : s.ingressShut port = false) : s.frameIn port vc bs = s.tlinkIn port vc bs := by
  rw [State.frameIn, if_neg (by simp [hp, ha]), if_neg (by simp [he]), if_neg (by simp [hs])]

/-- A retry of an account whose waiting frame still has a copy admits it again, and a packet that has left the input
frees its flits (R138). -/
theorem retryIn_of_waiting {s u : State} {port vc : Nat} {c : Cp} {a : Nat × Nat}
    (ha : a = acctOf (portTile port) (localPort port) vc)
    (hc : (s.swc.cps.find? fun x => x.place == .input && x.acct == some a) = some c)
    (hs : s.ingressShut port = false)
    (hu : u = s.dropDown (portTile port) (s.swc.cps.filter fun x => x.fid == c.fid && s.leaving x.etile))
    (hl : u.swc.cps.any (·.fid == c.fid)) :
    s.retryIn port vc =
      if c.tlink ∧ !((u.admitRetry a).swc.cps.any fun x => x.fid == c.fid && x.place == .input) then
        (u.admitRetry a).freeFlits port vc (flitsOf c.bytes.length)
      else u.admitRetry a := by
  subst ha hu
  simp only [State.retryIn, hs, hc, hl, Bool.false_eq_true, if_false, if_true]

/-- A port that may send starts the head of the queue that the round robin picks, once what was underrun is cut off
(R164; that the underrun comes first is the model's choice, log entry 172). -/
theorem egressSelect_of_picked {s u w : State} {port q : Nat} {c : Cp} (hu : u = s.underrun port) (ha : u.active port)
    (he : (upTo 8).any (u.eligible port)) (hq : (u.nextQ port 65536 (u.drrOf port)).1 = some q)
    (hw : w = u.setDrr port (u.nextQ port 65536 (u.drrOf port)).2) (hc : w.headOf port q = some c) :
    s.egressSelect port = (w.endStall c).startFrame port c := by
  subst hu hw
  simp only [State.egressSelect, ha, he, hq, hc, Option.bind_some, Bool.not_true, Bool.false_eq_true, or_self, if_false]

/-- Settles O15: each command runs its operation in the case that the clause names. -/
theorem ingressAndEgressRows : Obligations.IngressAndEgressRows := by
  refine ⟨fun port f s hp ha he hty hs => ?_, fun port f s hp ha he hty => ?_, fun port f s hp ha he hs => ?_,
    fun port vc s u c hc ht hs hu hl => ?_, fun port vc s u c hc ht hs hu hl hg => ?_, fun last s => ?_,
    fun port s he => ?_, fun port s u q c hu ha he hq hc => ?_, fun d s => ?_⟩
  · rw [exec_frameIngress, execFrameIngress, frameIn_ethernet hp ha he hty hs, State.done]
  · rw [exec_frameIngress, execFrameIngress, frameIn_macControl hp ha he hty, State.done]
  · rw [exec_frameIngress, execFrameIngress, frameIn_tlink hp ha he hs, State.done]
  · rw [exec_admitRetry, execAdmitRetry, retryIn_of_waiting rfl hc hs hu hl, if_neg (by simp [ht]), State.done]
  · rw [exec_admitRetry, execAdmitRetry, retryIn_of_waiting rfl hc hs hu hl, if_pos ⟨ht, by simp [hg]⟩, State.done]
  · rw [exec_xbarSlot, execXbarSlot, State.done]
  · rw [exec_ethRelease, execEthRelease, if_pos he]
  · rw [exec_egressSelect, execEgressSelect, egressSelect_of_picked hu ha he hq rfl hc, State.done]
  · rw [exec_ageOscTick, execAgeOscTick]

/-! ## The pattern -/

/-- A lag window that has its slots ends, and every member is judged (R130). -/
theorem slotLag_of_ended {s : State} (h : 2 ^ s.g .xbarDev XBAR_CFG_lag_window ≤ s.g .xbarDev H_XBAR2_lag) :
    s.slotLag = (s.p .xbarDev H_XBAR2_lag 0).members.foldl State.lagMember (s.p .xbarDev H_XBAR2_lag 0) := by
  rw [State.slotLag, if_neg (by omega)]

/-- An evacuation whose time is over drops what is left of its tile, and has drained (R131). -/
theorem evacDrain_of_expired {s : State} {t : Nat} (h : s.swc.evac = some t) :
    s.evacDrain t true = (s.evacDrop t).drainedNow := by
  rw [State.evacDrain, if_neg (by simp [h]), if_pos rfl]

/-- An evacuation with nothing left of its tile has drained (R131). -/
theorem evacDrain_of_empty {s : State} {t : Nat} (h : s.swc.evac = some t) (hl : s.evacLeft t = []) :
    s.evacDrain t false = s.drainedNow := by
  rw [State.evacDrain, if_neg (by simp [h]), if_neg (by simp), if_pos (by simp [hl])]

/-- A head with room on every branch moves on each, and its flits are counted (R162). -/
theorem mcForward_of_room {s : State} {h : MeshHead} {on : List Nat} (ho : on = (headBranches h).filter (· != 0))
    (hr : on.all fun o => s.meshRoom h (headCopy h o)) :
    s.mcForward h = (s.setHeld (s.mesh.held.erase h ++ on.map (headCopy h))).meshCount (h.x.toNat, h.y.toNat)
      (if h.m3 then 3 else 0) ((headBranches h).length * h.flits.toNat) := by
  subst ho
  rw [State.mcForward, if_pos hr]

/-- A head that lacks room on a branch is held, and counted as it comes to be (R162). -/
theorem mcForward_of_noRoom {s : State} {h : MeshHead}
    (hr : ((headBranches h).filter (· != 0)).all (fun o => s.meshRoom h (headCopy h o)) = false)
    (hh : s.mesh.held.contains h = false) :
    s.mcForward h =
      (s.setHeld (s.mesh.held ++ [h])).inc (.meshB (meshDie (h.x.toNat, h.y.toNat))) MESH_MC_HOLDS_count := by
  rw [State.mcForward, if_neg (by simp only [hr, Bool.false_eq_true, not_false_eq_true]),
    if_neg (by simp only [hh, Bool.false_eq_true, not_false_eq_true])]

/-- Settles O16: each command's condition is the clause's, and its operation takes the branch that the clause names. That a
renumbering and a rejoin wait for the start of a cycle is the model's choice (log entry 173). -/
theorem patternRows : Obligations.PatternRows := by
  refine ⟨fun a s u w hd hu hw => ?_, fun t s => ?_, fun s h => ?_, fun s t l hn hw hm => ?_, fun t e s h he => ?_,
    fun t e s h he hl => ?_, fun s t h hd hc => ?_, fun t s hi hm hc => ?_, fun h s on hk ho hr => ?_,
    fun h s hk hr hh => ?_⟩
  · subst hu hw
    rw [exec_l3Slot, execL3Slot, if_pos hd, State.slot3]
  · rw [exec_l3ReseqGiveup, execL3ReseqGiveup]
  · rw [exec_slotLagWindow, execSlotLagWindow, slotLag_of_ended h, State.done]
  · rw [exec_evacStartQueued, execEvacStartQueued, if_neg (by simp [hn]), hw]
    exact congrArg _ (if_pos hm)
  · rw [exec_evacDrainEnd, execEvacDrainEnd, he, evacDrain_of_expired h, State.done]
  · rw [exec_evacDrainEnd, execEvacDrainEnd, he, evacDrain_of_empty h hl, State.done]
  · rw [exec_evacRenumber, execEvacRenumber, h]
    exact congrArg State.done (if_pos ⟨hd, hc⟩)
  · rw [exec_memberRejoin, execMemberRejoin, if_pos ⟨hi, by simp only [hm, Bool.not_false], hc⟩]
  · rw [exec_meshMcForward, execMeshMcForward, if_pos hk, mcForward_of_room ho hr]
  · rw [exec_meshMcForward, execMeshMcForward, if_pos hk, mcForward_of_noRoom hr hh]

/-! ## Table commands -/

/-- A table operation that is answered OK leaves its state at once, with every copy of an entry that it wrote mended; its
status is busy and its answer waits (R109, R110; that the effect comes with the command is the model's choice, log
entry 11). -/
theorem tblCommand_of_ok {s : State} {m t v k : Nat} {b : Blk} {r : TblAns} (h : s.opens m (Blk.swt t).page 0x108 b)
    (hb : s.gb b SWT_TBL_STATUS_busy = false) (hk : bits v 0 3 = k) (hk0 : 1 ≤ k) (hk5 : k ≤ 5)
    (hr : r = s.tblAct t k (s.g b SWT_TBL_SEL_table) (s.g b SWT_TBL_SEL_index)) (hok : r.1 = .ok) :
    s.tblCommand m t v =
      ((if k = 2 ∨ k = 3 then r.2.2.mendCopies (s.g b SWT_TBL_SEL_table) (r.2.1.getD (s.g b SWT_TBL_SEL_index))
        else r.2.2).setBusy b 0x110).addJob
        ⟨.swtTable, b.page, 0x110, .ok, k + 8 * s.g b SWT_TBL_SEL_table, r.2.1.getD (2 ^ 21), m⟩ := by
  obtain ⟨c, x, u⟩ := r
  obtain rfl : c = .ok := hok
  have hbad : ¬(k = 0 ∨ 5 < k) := by omega
  simp only [State.tblCommand, onWrite_of_opens h, hb, hk, hbad, ← hr, Code.refuses, Bool.false_eq_true, if_false,
    true_and]

/-- The completion of a waiting table command places what it found in the staging words, then shows its code and index
(R110, R111). -/
theorem tblDone_of_job {s : State} {t : Nat} {j : Job} (hj : s.job .swtTable (Blk.swt t).page 0x110 = some j) {u : State}
    (hu : u = if j.code = .ok ∧ (j.a % 8 = 1 ∨ j.a % 8 = 5) then
      (s.dropJob .swtTable (Blk.swt t).page 0x110).toStage t (j.a / 8) j.b
      else s.dropJob .swtTable (Blk.swt t).page 0x110) :
    s.tblDone t = (u.finish (.swt t) 0x110 j.code).p (.swt t) SWT_TBL_STATUS_index
      (if j.code = .ok ∧ (j.a % 8 = 3 ∨ j.a % 8 = 5) then j.b else u.g (.swt t) SWT_TBL_STATUS_index) := by
  subst hu
  simp only [State.tblDone, hj]

/-- Settles O17: the write reaches the table's operation, and only what writes an entry mends its copies. -/
theorem tableCommandRows : Obligations.TableCommandRows := by
  refine ⟨fun m t v s b i k r hi hk ho hb hr hok => ?_, fun m t v s b i k r hi hk ho hb hr hok => ?_,
    fun t s u j hj hu => ?_⟩
  · simp only [List.mem_cons, List.not_mem_nil, or_false, Prod.mk_inj] at hi
    have hop : k = 1 ∨ k = 4 ∨ k = 5 := hi.imp And.right (.imp And.right And.right)
    have hx : exec i s = (s.tblCommand m.toNat t.toNat v.toNat).done := by
      rcases hi with ⟨rfl, -⟩ | ⟨rfl, -⟩ | ⟨rfl, -⟩ <;> rfl
    rw [hx, tblCommand_of_ok ho hb hk (by omega) (by omega) hr hok, if_neg (by omega), State.done]
  · simp only [List.mem_cons, List.not_mem_nil, or_false, Prod.mk_inj] at hi
    have hop : k = 2 ∨ k = 3 := hi.imp And.right And.right
    have hx : exec i s = (s.tblCommand m.toNat t.toNat v.toNat).done := by
      rcases hi with ⟨rfl, -⟩ | ⟨rfl, -⟩ <;> rfl
    rw [hx, tblCommand_of_ok ho hb hk (by omega) (by omega) hr hok, if_pos hop, State.done]
  · rw [exec_tblCmdDone, execTblCmdDone, tblDone_of_job hj hu]

end Sys2Proof.Machine

/-! # Commands on table rows, pools and rings

O56. What a state holds beside the parts that rows, pools and rings may change is one value. That an operation leaves it
as it was is an equation, so that the operations of a command rewrite one after another. -/

namespace Sys2Proof.Machine

/-- The parts of a state that commands on rows, pools and rings leave alone: what they may change is blanked. -/
def State.offRows (s : State) : State :=
  { s with regs := [], tabs := [], cow := [], caches := [], hst := HostSt.reset, out := [], acts := []
           alarm := false }

/-- States that agree off the rows differ in what rows, pools and rings may change alone. -/
theorem eq_of_offRows {s u : State} (h : u.offRows = s.offRows) :
    u = { s with regs := u.regs, tabs := u.tabs, cow := u.cow, hst := u.hst, caches := u.caches, out := u.out,
                 acts := u.acts, alarm := u.alarm } := by
  cases s; cases u
  simpa [State.offRows] using h

/-- The frame holds of an answer that is not settled. -/
theorem RowsFrame.next {s t : State} (h : t.offRows = s.offRows) : RowsFrame s (.next t) :=
  ⟨t, .inl rfl, eq_of_offRows h⟩

/-- The frame holds of an answer that is settled. -/
theorem RowsFrame.done {s t : State} (h : t.offRows = s.offRows) : RowsFrame s t.done :=
  ⟨t, .inr rfl, eq_of_offRows h⟩

theorem RegsSent.offRows {s t : State} (h : RegsSent s t) : t.offRows = s.offRows := by
  obtain ⟨r, o, a, l, rfl⟩ := h
  rfl

theorem RegsOnly.offRows {s t : State} (h : RegsOnly s t) : t.offRows = s.offRows := h.sent.offRows

@[simp] theorem ite_offRows (c : Prop) [Decidable c] (s t : State) :
    (if c then s else t).offRows = if c then s.offRows else t.offRows := apply_ite State.offRows c s t

@[simp] theorem foldl_offRows {α : Type} {f : State → α → State} (hf : ∀ s a, (f s a).offRows = s.offRows)
    (l : List α) (s : State) : (l.foldl f s).offRows = s.offRows :=
  List.foldlRecOn l f (motive := fun t => t.offRows = s.offRows) rfl fun t ht a _ => (hf t a).trans ht

/-! ## Registers, rows and outputs -/

theorem caches_offRows (s : State) (x : List (Nat × List Nat)) :
    ({ s with caches := x } : State).offRows = s.offRows := by
  simp only [State.offRows]

theorem hst_offRows (s : State) (h : HostSt) : ({ s with hst := h } : State).offRows = s.offRows := by
  simp only [State.offRows]

@[simp] theorem p_offRows (s : State) (b : Blk) (f : Fld) (v : Nat) : (s.p b f v).offRows = s.offRows :=
  (p_regsOnly s b f v).offRows
@[simp] theorem inc_offRows (s : State) (b : Blk) (f : Fld) : (s.inc b f).offRows = s.offRows :=
  (inc_regsOnly s b f).offRows
@[simp] theorem finish_offRows (s : State) (b : Blk) (off : Nat) (c : Code) :
    (s.finish b off c).offRows = s.offRows := (finish_regsOnly s b off c).offRows
@[simp] theorem raise_offRows (s : State) (b : Blk) (c : Cls) : (s.raise b c).offRows = s.offRows :=
  (raise_regsOnly s b c).offRows
@[simp] theorem refuse_offRows (s : State) (m : Nat) (b : Blk) (off : Nat) (c : Code) :
    (s.refuse m b off c).offRows = s.offRows := (refuse_regsOnly s m b off c).offRows
@[simp] theorem denyWrite_offRows (s : State) (m : Nat) (b : Blk) (off : Nat) :
    (s.denyWrite m b off).offRows = s.offRows := (denyWrite_regsOnly s m b off).offRows
@[simp] theorem checkBudget_offRows (s : State) (d : Nat) : (s.checkBudget d).offRows = s.offRows :=
  (checkBudget_regsOnly s d).offRows
@[simp] theorem emit_offRows (s : State) (ch : Chan) (tag : Nat) (ns : List Nat) (bs : List Byte) :
    (s.emit ch tag ns bs).offRows = s.offRows := (emit_sent s ch tag ns bs).offRows

@[simp] theorem setTw_offRows (s : State) (t : Tbl) (sc i wd v : Nat) : (s.setTw t sc i wd v).offRows = s.offRows := by
  simp only [State.offRows, State.setTw]
@[simp] theorem pt_offRows (s : State) (t : Tbl) (sc i : Nat) (f : Fld) (v : Nat) :
    (s.pt t sc i f v).offRows = s.offRows := by
  simp [State.pt]
@[simp] theorem storeTw_offRows (s : State) (t : Tbl) (sc i wd v : Nat) :
    (s.storeTw t sc i wd v).offRows = s.offRows := by
  simp [State.storeTw]
@[simp] theorem clearTab_offRows (s : State) (t : Tbl) (sc lo n : Nat) :
    (s.clearTab t sc lo n).offRows = s.offRows := by
  simp only [State.offRows, State.clearTab]
@[simp] theorem setEntry_offRows (s : State) (t : Tbl) (sc i : Nat) (ws : List Nat) :
    (s.setEntry t sc i ws).offRows = s.offRows := by
  simp [State.setEntry]

/-- A write whose block changes rows alone does so whether or not the checks let it through. -/
theorem onWrite_offRows {s : State} {f : Blk → State} (hf : ∀ b, (f b).offRows = s.offRows) (m pg off : Nat) :
    (s.onWrite m pg off f).offRows = s.offRows := by
  unfold State.onWrite
  split
  · rfl
  · simp [hf]

/-! ## Tables of the attach engines, the store, the crossbar and the Gang -/

theorem attTblWrite_offRows (s : State) (m t v : Nat) : (s.attTblWrite m t v).offRows = s.offRows :=
  onWrite_offRows (fun b => by
    split
    · simp
    · split <;> simp) _ _ _

theorem pathUp_offRows (s : State) (t p : Nat) : (s.pathUp t p).offRows = s.offRows := by
  simp [State.pathUp]

theorem writeLimit_offRows (s : State) (m pg v : Nat) : (s.writeLimit m pg v).offRows = s.offRows := by
  unfold State.writeLimit
  split
  · exact onWrite_offRows (fun b => by simp) _ _ _
  · rfl

theorem writeDlCmd_offRows (s : State) (m v : Nat) : (s.writeDlCmd m v).offRows = s.offRows :=
  onWrite_offRows (fun b => by simp [State.dlClear]) _ _ _

theorem trainWrite_offRows (s : State) (m v : Nat) : (s.trainWrite m v).offRows = s.offRows :=
  onWrite_offRows (fun b => by simp) _ _ _

theorem partWrite_offRows (s : State) (m v : Nat) : (s.partWrite m v).offRows = s.offRows :=
  onWrite_offRows (fun b => by simp) _ _ _

/-! ## Barriers and waits -/

theorem barArm_offRows (s : State) (b : Nat) : (s.barArm b).2.offRows = s.offRows := by
  unfold State.barArm
  split_ifs <;> simp

theorem barDisarm_offRows (s : State) (b : Nat) : (s.barDisarm b).2.offRows = s.offRows := by
  unfold State.barDisarm
  split_ifs <;> simp

/-- An operation of the Roost that changes rows alone does so behind its checks. -/
theorem synOp_offRows {s : State} {f : State → Code × State} (hf : (f s).2.offRows = s.offRows) (m off tb i : Nat) :
    (s.synOp m off tb i f).offRows = s.offRows :=
  onWrite_offRows (fun b => by simp [hf]) _ _ _

theorem writeBar_offRows (s : State) (m v : Nat) : (s.writeBar m v).offRows = s.offRows := by
  refine synOp_offRows ?_ _ _ _ _
  split
  · exact barArm_offRows s _
  · exact barDisarm_offRows s _
  · rfl

theorem synTblWrite_offRows (s : State) (m v : Nat) : (s.synTblWrite m v).offRows = s.offRows :=
  onWrite_offRows (fun b => by simp) _ _ _

@[simp] theorem addWait_offRows (s : State) (w : Nat) : (s.addWait w).offRows = s.offRows := by
  simp [State.addWait]

@[simp] theorem markCycles_offRows (s : State) : s.markCycles.offRows = s.offRows := by
  simp [State.markCycles]

theorem waitScan_offRows (s : State) : s.waitScan.offRows = s.offRows := by
  simp [State.waitScan]

theorem writeWaitClear_offRows (s : State) (m v : Nat) : (s.writeWaitClear m v).offRows = s.offRows :=
  onWrite_offRows (fun b => by simp [State.waitClear]) _ _ _

/-! ## Pools -/

@[simp] theorem setCache_offRows (s : State) (d p : Nat) (l : List Nat) : (s.setCache d p l).offRows = s.offRows := by
  unfold State.setCache
  exact (caches_offRows _ _).trans (p_offRows s _ _ _)

@[simp] theorem setFree_offRows (s : State) (d p n : Nat) : (s.setFree d p n).offRows = s.offRows := by
  simp [State.setFree]

@[simp] theorem setRing_offRows (s : State) (d p e v : Nat) : (s.setRing d p e v).offRows = s.offRows := by
  simp [State.setRing]

@[simp] theorem setPoolBit_offRows (s : State) (d p i : Nat) (v : Bool) :
    (s.setPoolBit d p i v).offRows = s.offRows := by
  simp [State.setPoolBit]

theorem refillN_offRows (n d p : Nat) (s : State) : (State.refillN n d p s).offRows = s.offRows := by
  induction n generalizing s with
  | zero => rfl
  | succ n ih => simp [State.refillN, ih]

@[simp] theorem refill_offRows (s : State) (d p : Nat) : (s.refill d p).offRows = s.offRows := refillN_offRows _ d p s

@[simp] theorem giveBack_offRows (s : State) (d p : Nat) : (s.giveBack d p).offRows = s.offRows := by
  simp [State.giveBack]

@[simp] theorem poolRelease_offRows (s : State) (d a : Nat) : (s.poolRelease d a).2.offRows = s.offRows := by
  unfold State.poolRelease
  split
  · simp
  · split <;> simp

theorem hwFree_offRows (s : State) (d a : Nat) : (s.hwFree d a).offRows = s.offRows := by
  simp [State.hwFree]

@[simp] theorem markTaken_offRows (s : State) (d p a : Nat) : (s.markTaken d p a).offRows = s.offRows := by
  unfold State.markTaken
  split
  · rfl
  · simp

theorem takeFrom_offRows (s : State) (d p : Nat) : (s.takeFrom d p).2.offRows = s.offRows := by
  unfold State.takeFrom
  dsimp only
  split <;> simp

theorem takeUp_offRows (n d p : Nat) (s : State) : (State.takeUp n d p s).2.offRows = s.offRows := by
  induction n generalizing p s with
  | zero => rfl
  | succ n ih =>
    unfold State.takeUp
    have ht := takeFrom_offRows s d p
    split
    · exact ih _ _
    · split
      · next h => exact (ih _ _).trans (by rwa [h] at ht)
      · next h => rwa [h] at ht

/-- An allocation, granted or not, takes from the rings and the caches alone (R149). -/
theorem poolAlloc_offRows (s : State) (d b : Nat) : (s.poolAlloc d b).2.2.2.offRows = s.offRows := by
  unfold State.poolAlloc
  dsimp only
  split_ifs
  · rfl
  · rfl
  · have ht := takeUp_offRows (6 - ((upTo 6).find? fun p => b ≤ poolSize p).getD 5) d
      (((upTo 6).find? fun p => b ≤ poolSize p).getD 5) s
    split
    all_goals
      next h =>
        rw [h] at ht
        simpa using ht

theorem poolAllocFor_offRows (s : State) (d src n : Nat) : (s.poolAllocFor d src n).offRows = s.offRows :=
  (emit_offRows _ _ _ _ _).trans (poolAlloc_offRows s d n)

@[simp] theorem poolFinish_offRows (s : State) (m : Nat) (b : Blk) (c : Code) (pool : Option Nat) :
    (s.poolFinish m b c pool).offRows = s.offRows := by
  simp [State.poolFinish]

theorem poolCommand_offRows (s : State) (m pg v : Nat) : (s.poolCommand m pg v).offRows = s.offRows := by
  unfold State.poolCommand
  split
  · exact onWrite_offRows (fun b => by simp [poolAlloc_offRows]) _ _ _
  · rfl

/-! ## Rings of the host, interrupts and rails -/

@[simp] theorem msi_offRows (s : State) (fn v : Nat) : (s.msi fn v).offRows = s.offRows := by
  simp [State.msi]

@[simp] theorem prg_offRows (s : State) (r : Nat) (f : Fld) (v : Nat) : (s.prg r f v).offRows = s.offRows := by
  simp [State.prg]

@[simp] theorem startRing_offRows (s : State) (r : Nat) : (s.startRing r).offRows = s.offRows := by
  unfold State.startRing
  exact (hst_offRows _ _).trans (by simp)

theorem writeRingCtrl_offRows (s : State) (m r v : Nat) : (s.writeRingCtrl m r v).offRows = s.offRows := by
  simp [State.writeRingCtrl, State.refuseRing]

theorem writeRingBase_offRows (s : State) (m r wd v : Nat) : (s.writeRingBase m r wd v).offRows = s.offRows := by
  simp [State.writeRingBase, State.refuseRing]

theorem writeRingTail_offRows (s : State) (r v : Nat) : (s.writeRingTail r v).offRows = s.offRows := by
  simp [State.writeRingTail, State.stopRing]

theorem ringPageWrite_offRows (s : State) (m j off v : Nat) : (s.ringPageWrite m j off v).offRows = s.offRows := by
  unfold State.ringPageWrite
  split
  · rfl
  · split
    · exact writeRingCtrl_offRows s m _ v
    · exact writeRingBase_offRows s m _ 1 v
    · exact writeRingBase_offRows s m _ 2 v
    · exact writeRingTail_offRows s _ _
    · exact prg_offRows s _ _ _
    · rfl

@[simp] theorem ringMsi_offRows (s : State) (r : Nat) : (s.ringMsi r).offRows = s.offRows :=
  (msi_offRows _ _ _).trans ((hst_offRows _ _).trans (prg_offRows s _ _ _))

theorem ibiAnswer_offRows (s : State) (accepted : Bool) : (s.ibiAnswer accepted).offRows = s.offRows := by
  unfold State.ibiAnswer
  split
  · rfl
  · split
    · exact hst_offRows s _
    · exact emit_offRows s _ _ _ _

@[simp] theorem pmbusRead_offRows (s : State) (i : Nat) (r : Option (BitVec 32)) :
    (s.pmbusRead i r).offRows = s.offRows := by
  unfold State.pmbusRead
  cases r <;> simp

theorem unmask_offRows (s : State) (fn v : Nat) : (s.unmask fn v).offRows = s.offRows := by
  simp [State.unmask]

/-- Settles O56: each command changes the state by operations that leave all but rows, pools and rings alone. -/
theorem rowsFrameHolds : Obligations.RowsFrameHolds :=
  ⟨fun _ _ _ s => .done (attTblWrite_offRows s _ _ _),
    fun _ _ s => .next (pathUp_offRows s _ _),
    fun _ _ _ s => .done (writeLimit_offRows s _ _ _),
    fun _ _ _ s => .done (poolCommand_offRows s _ _ _),
    fun _ _ _ s => .done (poolCommand_offRows s _ _ _),
    fun _ _ _ s => .done (poolAllocFor_offRows s _ _ _),
    fun _ _ _ s => .done (hwFree_offRows s _ _),
    fun _ _ s => .done (by simp),
    fun _ _ s => .done (by simp),
    fun _ _ s => .done (writeDlCmd_offRows s _ _),
    fun _ _ s => .done (writeBar_offRows s _ _),
    fun _ _ s => .done (writeBar_offRows s _ _),
    fun _ _ s => .done (synTblWrite_offRows s _ _),
    fun s => .done (waitScan_offRows s),
    fun _ _ s => .done (writeWaitClear_offRows s _ _),
    fun _ _ s => .done (trainWrite_offRows s _ _),
    fun _ _ s => .done (partWrite_offRows s _ _),
    fun _ _ _ s => .done (ringPageWrite_offRows s _ _ _ _),
    fun _ _ _ s => .done (ringPageWrite_offRows s _ _ _ _),
    fun _ _ _ s => .done (ringPageWrite_offRows s _ _ _ _),
    fun _ s => .next (by simp),
    fun _ s => .next (ibiAnswer_offRows s _),
    fun _ s => .done (by simp),
    fun _ _ s => .next (unmask_offRows s _ _)⟩

end Sys2Proof.Machine

/-! # Cells, spill and pools

O18, O19 and O48. The class and limit tables, the readback of spilled frames, the commands of a pool manager and the
registers of its layout each have an equation for the case that a clause names, proved once from the definition of the
operation; a clause is that equation behind the command. -/

namespace Sys2Proof.Machine

/-! ## Class and limit entries -/

/-- A write that newly enables PFC on no VC is barred by no state rule (R171). -/
theorem pfcBarred_nil (s : State) (port : Nat) : s.pfcBarred port [] = false := rfl

/-- A word of a class entry that breaks no rule is stored. A port's word then drops the pauses that its PFC no longer
asserts and has the die's budget checked, and it and a word of a port's VC have the accounts that may pause checked
(R171, R172, R176). -/
theorem writeCls_of_sound {s u : State} {m pg v t n i wd : Nat} {vs : List Nat}
    (ho : s.opens m pg 0x208 (.swt t)) (hn : s.g (.swt t) SWT_CLS_SEL_table = n)
    (hi : s.g (.swt t) SWT_CLS_SEL_index = i) (hwd : s.g (.swt t) SWT_CLS_SEL_word = wd)
    (hu : s.storeTw (clsTbl n) t i wd v = u)
    (hvs : (if n = 0 ∧ wd = 0 then newPfc (s.tw .clsPort t i 0) (u.tw .clsPort t i 0) else []) = vs) (hn2 : n ≤ 2)
    (hlt : i < clsCount n) (hbar : s.pfcBarred (tilePort t i) vs = false) (hok : tblOk (clsTbl n) wd v)
    (hbr : u.clsBroken t n i vs = false) :
    s.writeCls m pg v =
      if n = 0 ∧ wd = 0 then ((u.dropPausing (tilePort t i)).checkBudget (t / 4)).pfcCheck (tilePort t i)
      else if n = 1 then u.pfcCheck (32 * t + i / 8) else u := by
  have hrange : ¬(2 < n ∨ clsCount n ≤ i) := by omega
  simp only [State.writeCls, blk_of_opens ho, onWrite_of_opens ho, hn, hi, hwd, hu, hvs, hrange, hbar, hok, hbr,
    Bool.not_true, Bool.false_eq_true, or_self, if_false]

/-- A sound limit entry is stored, and the budget of its die checked (R141, R176). -/
theorem writeLimit_of_sound {s : State} {m pg v d : Nat} (ho : s.opens m pg 0x120 (.bse d))
    (hn : s.g (.bse d) BSE_TBL_SEL_table < 2)
    (hok : tblOk (limTbl (s.g (.bse d) BSE_TBL_SEL_table == 1)) 0 v) :
    s.writeLimit m pg v = (s.storeTw (limTbl (s.g (.bse d) BSE_TBL_SEL_table == 1)) d
      (256 * s.g (.bse d) BSE_TBL_SEL_tile + s.g (.bse d) BSE_TBL_SEL_index) 0 v).checkBudget d := by
  simp only [State.writeLimit, blk_of_opens ho, onWrite_of_opens ho, Nat.not_le.2 hn, hok, Bool.not_true,
    Bool.false_eq_true, if_false]

/-- Settles O18: each write's word breaks no rule, and each event's condition is the clause's. That a port's word drops
the pauses it no longer asserts is the model's choice (log entry 81). -/
theorem classRows : Obligations.ClassRows := by
  refine ⟨fun m pg v s t n i wd b _ h ho hn hi hwd h12 hlt hok hbr => ?_,
    fun m pg v s t i b _ h ho hn hwd hi hlt hbar hok hbr => ?_, fun m pg v s d _ ho hn hok => ?_,
    fun port bs s hp ha he => ?_, fun port vc s => ?_, fun port vc s hp ha => ?_, fun t n s ht => ?_,
    fun d s => ?_, fun port vc s => ?_, fun port vc s => ?_, fun m v s b ho hv => ?_⟩
  · subst h
    have hport : ¬(n = 0 ∧ wd = 0) := by omega
    rw [exec_clsEntryWrite, execClsEntryWrite, writeCls_of_sound ho hn.symm hi.symm hwd.symm rfl (if_neg hport)
      (by omega) hlt (pfcBarred_nil s _) hok hbr, if_neg hport, State.done]
  · subst h
    rw [exec_clsEntryWrite, execClsEntryWrite, writeCls_of_sound ho hn hi.symm hwd rfl (if_pos ⟨rfl, rfl⟩)
      (Nat.zero_le 2) hlt hbar hok hbr, if_pos ⟨rfl, rfl⟩, State.done]
    rfl
  · rw [exec_limitEntryWrite, execLimitEntryWrite, writeLimit_of_sound ho hn hok, State.done]
  · rw [exec_pfcRx, execPfcRx, if_pos ⟨hp, ha, he⟩, State.done]
  · rw [exec_pfcPauseExpiry, execPfcPauseExpiry]
  · rw [exec_pfcRefresh, execPfcRefresh, if_pos ⟨hp, ha⟩]
  · rw [exec_tokenAccrual, execTokenAccrual, if_pos ht]
  · rw [exec_dlScan, execDlScan, State.done]
  · rw [exec_dlRecover, execDlRecover, State.done]
  · rw [exec_dlHoldExpiry, execDlHoldExpiry]
  · rw [exec_dlClear, execDlClear, State.writeDlCmd, onWrite_of_opens ho, if_pos hv, State.done]

/-! ## Spilled frames that come back -/

/-- An account that has drained to half its limit has its oldest block read (R144). -/
theorem readback_of_drained {s : State} {eg : Bool} {a : Nat × Nat} {x : SpillBlock} (hx : s.oldestBlock eg a = some x)
    (hr : x.reading = false) (hd : cellsOf (s.held eg a) ≤ s.cellLimit eg a / 2) :
    s.readback eg a =
      s.setBlocks (s.swc.blocks.map fun y =>
        if y.addr = x.addr ∧ y.die = x.die then { y with reading := true } else y) := by
  simp only [State.readback, hx, hr, Nat.not_lt.2 hd, Bool.false_eq_true, or_self, if_false]

/-- A read that ends with an uncorrectable error discards its frame (R145). -/
theorem readDone_uncorr {s : State} {eg : Bool} {a : Nat × Nat} {x : SpillBlock} {c : Cp} {l : List Cp}
    (hx : s.oldestBlock eg a = some x) (hr : x.reading) (hc : s.spilledCps x = c :: l) :
    s.readDone eg a true = (s.dropSpilled (s.spilledCps x)).raise (.bse a.1) cSPILL_READ_UNCORR := by
  simp only [State.readDone, hx, hr, hc, Bool.not_true, Bool.false_eq_true, if_false, if_true]

/-- A read that ends with the last block of its frame takes the frame back (R144). -/
theorem readDone_last {s u : State} {eg : Bool} {a : Nat × Nat} {x : SpillBlock} {c e : Cp} {l q : List Cp}
    (hx : s.oldestBlock eg a = some x) (hr : x.reading) (hc : s.spilledCps x = c :: l)
    (hfree : x.cells ≤ s.freeCells a.1) (hu : u = s.blockBack x c) (he : u.spilledCps x = e :: q)
    (hl : u.swc.blocks.any (fun y => y.egress == eg && y.cid == x.cid) = false) :
    s.readDone eg a false = u.unspilled x e := by
  subst hu
  simp only [State.readDone, hx, hr, hc, Nat.not_lt.2 hfree, he, hl, Bool.not_true, Bool.false_eq_true, if_false]

/-! ## What a pool manager hands out and takes back -/

/-- An allocation that is granted places the buffer's address and completes OK with the pool that served (R149). -/
theorem poolCommand_alloc {s : State} {m pg v d : Nat} {r : Code × Nat × Nat × State}
    (ho : s.opens m pg 0x1A0 (.pool d)) (hbusy : s.gb (.pool d) POOL_CMD_STATUS_busy = false) (hv : bits v 0 2 = 1)
    (hr : r = s.poolAlloc d (bits v 2 19)) (hok : r.1 = .ok) :
    s.poolCommand m pg v =
      (r.2.2.2.p (.pool d) POOL_CMD_ADDR_addr r.2.1).poolFinish m (.pool d) .ok (some r.2.2.1) := by
  obtain ⟨c, a, p, u⟩ := r
  obtain rfl : c = .ok := hok
  simp only [State.poolCommand, blk_of_opens ho, onWrite_of_opens ho, hbusy, hv, ← hr, Bool.false_eq_true, if_false,
    if_true]

/-- A free that is accepted takes the buffer back and completes OK (R152). -/
theorem poolCommand_free {s : State} {m pg v d : Nat} (ho : s.opens m pg 0x1A0 (.pool d))
    (hbusy : s.gb (.pool d) POOL_CMD_STATUS_busy = false) (hv : bits v 0 2 = 2)
    (hok : (s.poolRelease d (s.g (.pool d) POOL_CMD_ADDR_addr)).1) :
    s.poolCommand m pg v =
      (s.poolRelease d (s.g (.pool d) POOL_CMD_ADDR_addr)).2.poolFinish m (.pool d) .ok none := by
  simp only [State.poolCommand, blk_of_opens ho, onWrite_of_opens ho, hbusy, hv, hok, Nat.reduceEqDiff,
    Bool.false_eq_true, if_false, if_true]

/-- A command written while one runs is refused, whatever its operation (R154). -/
theorem poolCommand_busy {s : State} {m pg d : Nat} (v : Nat) (ho : s.opens m pg 0x1A0 (.pool d))
    (hbusy : s.gb (.pool d) POOL_CMD_STATUS_busy) :
    s.poolCommand m pg v = s.refuse m (.pool d) 0x1A0 .refusedState := by
  simp only [State.poolCommand, blk_of_opens ho, onWrite_of_opens ho, hbusy, if_true]

/-- Settles O19: the account's oldest block is in the case that the clause names, and the pool manager's operation is
accepted or its condition met. -/
theorem spillAndPoolRows : Obligations.SpillAndPoolRows := by
  refine ⟨fun d a s x hx hr hd => ?_, fun d a s x c l hx hr hc => ?_,
    fun d a s u x c e l q hx hr hc hfree hu he hl => ?_, fun m pg v s d r _ ho hbusy hv hr hok => ?_,
    fun m pg v s d _ ho hbusy hv hok => ?_, fun d src n s r hr => ?_, fun d src a s => ?_,
    fun d n s hn hl hc hr => ?_, fun d n s hn hl hc => ?_, fun d s hb ht => ?_⟩
  · rw [exec_spillReadback, execSpillReadback, readback_of_drained hx hr hd, State.done]
  · rw [exec_spillReadDone, execSpillReadDone, readDone_uncorr hx hr hc, State.done]
    rfl
  · rw [exec_spillReadDone, execSpillReadDone, readDone_last hx hr hc hfree hu he hl, State.done]
  · rw [exec_alloc, execAlloc, poolCommand_alloc ho hbusy hv hr hok, State.done]
  · rw [exec_free, execFree, poolCommand_free ho hbusy hv hok, State.done]
  · rw [exec_poolAllocReq, execPoolAllocReq, State.poolAllocFor, ← hr, State.done]
  · rw [exec_poolFreeReq, execPoolFreeReq, State.done]
  · rw [exec_poolCacheRefill, execPoolCacheRefill, if_pos ⟨hn, hl, hc, hr⟩, State.done]
  · rw [exec_poolCacheReturn, execPoolCacheReturn, if_pos ⟨hn, hl, hc⟩, State.done]
  · rw [exec_poolInitDone, execPoolInitDone, finishTraining_pool hb ht, State.done]

/-! ## The layout of a pool manager -/

/-- The registers of a pool manager's layout: its region's base and length, and the configurations of its pools. -/
def poolLayoutRegs : List Nat := [0x100, 0x108, 0x110, 0x118, 0x120, 0x128, 0x130, 0x138]

/-- Each of them is a plain register of the manager's page. -/
theorem regWrite_poolLayout {s : State} {pg off d : Nat} (m v : Nat) (hb : s.blk pg = some (.pool d))
    (hoff : off ∈ poolLayoutRegs) : s.regWrite m pg off v = s.writePlain m pg off v := by
  simp only [poolLayoutRegs, List.mem_cons, List.not_mem_nil, or_false] at hoff
  rcases hoff with rfl | rfl | rfl | rfl | rfl | rfl | rfl | rfl <;>
    simp [State.regWrite, hb, State.blockWrite, Blk.isSteward]

/-- Each of them is barred while the manager is not OFF (R154). -/
theorem poolLayout_barred (s : State) (d v : Nat) {off : Nat} (hoff : off ∈ poolLayoutRegs) :
    s.plainBarred (.pool d) off v = (s.st (.pool d) != .off) := by
  simp only [poolLayoutRegs, List.mem_cons, List.not_mem_nil, or_false] at hoff
  have hin : (off == 0x100 || off == 0x108 || (0x110 ≤ off && off < 0x140)) = true := by
    simp only [Bool.or_eq_true, Bool.and_eq_true, beq_iff_eq, decide_eq_true_eq]
    omega
  simp only [State.plainBarred, hin, Bool.true_and]

/-- A region that reaches beyond its die's 72 GB breaks the value rule of its base and its length (R154). -/
theorem poolRegion_bad (s : State) {new : State} {d off : Nat} (v : Nat) (hoff : off = 0x100 ∨ off = 0x108)
    (hout : new.reg (.pool d) 0x100 < d * 72 * 10 ^ 9 ∨
      (d + 1) * 72 * 10 ^ 9 < new.reg (.pool d) 0x100 + new.reg (.pool d) 0x108) :
    s.plainBad new (.pool d) off v = true := by
  simp only [State.plainBad, if_pos hoff, Bool.or_eq_true, decide_eq_true_eq]
  exact .inr hout

/-- A write that opens its page, of a register that its state bars and that no slot and no other page keeps, is refused
with REFUSED_STATE whatever its value (R479). -/
theorem writePlain_of_barred {s : State} {m pg off v : Nat} {b : Blk} (h : s.opens m pg off b)
    (hslot : slotDenied m b off = false) (hshow : showOnly b off = false) (hbar : s.plainBarred b off v = true) :
    s.writePlain m pg off v = s.refuse m b off .refusedState := by
  simp only [State.writePlain, onWrite_of_opens h, hslot, hshow, hbar, Bool.false_eq_true, if_false, if_true]

/-- Settles O48: the state rule of a layout register comes before its value rule, and the busy bit before the
operation. -/
theorem poolLayoutRules : Obligations.PoolLayoutRules := by
  refine ⟨fun m pg off v s d ho hoff hst => ?_, fun m pg off v s u d ho hoff hst hu hout => ?_,
    fun m pg v s d i hi ho hbusy => ?_⟩
  · have hreg : off ∈ poolLayoutRegs := by simpa only [poolLayoutRegs, List.mem_cons] using hoff
    rw [regWrite_poolLayout m v (blk_of_opens ho) hreg,
      writePlain_of_barred ho rfl rfl (by simpa only [poolLayout_barred s d v hreg, bne_iff_ne] using hst)]
  · subst hu
    have hreg : off ∈ poolLayoutRegs := by rcases hoff with rfl | rfl <;> decide
    rw [regWrite_poolLayout m v (blk_of_opens ho) hreg, writePlain_of_bad ho rfl rfl (poolRegion_bad s v hoff hout),
      poolLayout_barred s d v hreg, hst, if_neg (by decide)]
  · have hx : exec i s = (s.poolCommand m.toNat pg.toNat v.toNat).done := by
      simp only [List.mem_cons, List.not_mem_nil, or_false] at hi
      rcases hi with rfl | rfl <;> rfl
    rw [hx, poolCommand_busy _ ho hbusy, State.done]

end Sys2Proof.Machine

/-! # Quanta, the route loader and the crossings

O49 and O20. A table word that breaks the rule of one of its fields is turned down before anything is stored; what the
route loader and the crossings do in the case that a clause names is an equation about the operation, and a clause is
that equation behind the command. -/

namespace Sys2Proof.Machine

/-! ## The quantum of a port's VC -/

/-- A word of a table is not sound when one of its RW fields does not accept what the word places in it (R7, R479). -/
theorem tblOk_of_bad {t : Tbl} {wd v : Nat} {d : FDesc} (hd : d ∈ fieldsAt t.fields wd) (hrw : d.acc = .rw)
    (hbad : d.rule.ok (bits v d.fld.lo d.fld.w) = false) : tblOk t wd v = false :=
  List.all_eq_false.2 ⟨d, hd, by simp only [hrw, hbad, bne_self_eq_false, Bool.or_self, Bool.false_eq_true,
    not_false_eq_true]⟩

/-- Word 0 of a port-VC class entry is not sound when its quantum is outside 64 to 262,143 bytes (R166). -/
theorem clsVc_quantum_bad {v : Nat} (h : bits v 0 18 < 64 ∨ 262143 < bits v 0 18) : tblOk .clsVc 0 v = false := by
  have hd : ⟨clsVc_quantum, .rw, 0, .range 64 262143, 1, 1⟩ ∈ fieldsAt Tbl.clsVc.fields 0 := by decide
  refine tblOk_of_bad hd rfl (Bool.and_eq_false_iff.2 ?_)
  exact h.imp (fun h => decide_eq_false (Nat.not_le.2 h)) fun h => decide_eq_false (Nat.not_le.2 h)

/-- A class-table write of a word that is not sound is refused with BAD_ARG, whether or not its index has an entry. Only
word 0 of a port's entry has a state rule that comes before (R171, R479). -/
theorem writeCls_of_bad {s : State} {m pg v t n wd : Nat} (ho : s.opens m pg 0x208 (.swt t))
    (hn : s.g (.swt t) SWT_CLS_SEL_table = n) (hwd : s.g (.swt t) SWT_CLS_SEL_word = wd) (hpfc : ¬(n = 0 ∧ wd = 0))
    (hbad : tblOk (clsTbl n) wd v = false) : s.writeCls m pg v = s.refuse m (.swt t) 0x208 .badArg := by
  simp only [State.writeCls, blk_of_opens ho, onWrite_of_opens ho, hn, hwd, if_neg hpfc, pfcBarred_nil, hbad,
    Bool.not_false, Bool.false_eq_true, true_or, if_false, if_true, ite_self]

/-- Settles O49: the quantum's rule makes word 0 of the VC table unsound, whatever entry is selected. -/
theorem quantumRange : Obligations.QuantumRange := by
  intro m pg v s t ho hn hwd hq
  rw [exec_clsEntryWrite, execClsEntryWrite, writeCls_of_bad ho hn hwd (by omega) (clsVc_quantum_bad hq), State.done]

/-! ## The route loader -/

/-- A command of the loader that no other holds up, and that may read its image, shows the cycle that its check found
and leaves the status busy; a LOAD whose image passed has by then written it (R178, R180, R181; that the effect comes
with the command and the completion follows is the model's choice, log entry 11). -/
theorem rlCommand_of_read {s : State} {m v op : Nat} {b : Blk} {r : Code × Nat × List REdge × List Byte}
    (ho : s.opens m Blk.xbarDev.page 0x308 b) (hbusy : s.gb b XBAR_RL_STATUS_busy = false) (hop : bits v 0 2 = op)
    (hop12 : op = 1 ∨ op = 2) (hr : r = s.readImage m) (hd : r.1 ≠ .denied) :
    s.rlCommand m v =
      (((if r.1 = .ok ∧ op = 2 then s.loadImage r.2.2.2 else s).showCycle r.2.2.1).setBusy b 0x310).addJob
        ⟨.routeLoad, b.page, 0x310, r.1, rlShow r.2.2.1 r.2.1, m + b2n (op == 2) * 2 ^ 16, m⟩ := by
  have hres : ¬(op = 0 ∨ op = 3) := by omega
  simp only [State.rlCommand, onWrite_of_opens ho, hbusy, hop, if_neg hres, ← hr, if_neg hd, Bool.false_eq_true,
    if_false]

/-- A command of the loader whose image passed completes: its status shows what the check found, and a LOAD sets flag 1
(R180, R233). -/
theorem rlDone_of_ok {s : State} {j : Job} (hj : s.job .routeLoad Blk.xbarDev.page 0x310 = some j) (hok : j.code = .ok)
    {u : State} (hu : u = (s.dropJob .routeLoad Blk.xbarDev.page 0x310).finish .xbarDev 0x310 .ok) :
    s.rlDone =
      if 2 ^ 16 ≤ j.b then (u.setReg .xbarDev 0x310 (u.reg .xbarDev 0x310 + j.a)).sysFlag 1 true
      else u.setReg .xbarDev 0x310 (u.reg .xbarDev 0x310 + j.a) := by
  subst hu
  simp only [State.rlDone, hj, hok, Code.refuses, Bool.false_eq_true, reduceCtorEq, if_false, true_and]

/-! ## The crossings -/

/-- A REALIGN of a page that is OFF, QUIESCED or EVACUATED runs the alignment on its crossings (R355). -/
theorem writeXing_of_still {s : State} {m pg v : Nat} {b : Blk} (ho : s.opens m pg 0x700 b) (hx : b.hasXing)
    (hv : bit v 0) (hst : s.st b = .off ∨ s.st b = .quiesced ∨ s.st b = .evacuated) :
    s.writeXing m pg v = s.realign b := by
  simp only [State.writeXing, blk_of_opens ho, onWrite_of_opens ho, hx, hv, if_pos hst, Bool.not_true,
    Bool.true_eq_false, Bool.false_eq_true, if_false]

/-- Settles O20: each command's condition is the clause's, and its operation takes the branch that the clause names.
Which of a page's crossings fails is a free choice (log entry 147). -/
theorem routeAndTimingRows : Obligations.RouteAndTimingRows := by
  refine ⟨fun m v s b r ho hbusy hop hr hd => ?_, fun m v s b r ho hbusy hop hr hd => ?_, fun s u j hj hok hu => ?_,
    fun pg n s t hb ht => ?_, fun pg n s t hb ht => ?_, fun m pg v s b ho hx hv hst => ?_, fun pg s b hb hx => ?_,
    fun pg s b hb hx => ?_⟩
  · rw [exec_check, execCheck, rlCommand_of_read ho hbusy hop (.inl rfl) hr hd, if_neg (by simp), State.done]
    rfl
  · rw [exec_load, execLoad, rlCommand_of_read ho hbusy hop (.inr rfl) hr hd, State.done]
    simp only [and_true]
    rfl
  · rw [exec_routeLoadDone, execRouteLoadDone, rlDone_of_ok hj hok hu, State.done]
  · rw [exec_stageMonWindow, execStageMonWindow, hb]
    exact congrArg Host.Outcome.next (if_pos ht)
  · rw [exec_stageMonWindow, execStageMonWindow, hb]
    exact congrArg Host.Outcome.next (if_pos ht)
  · rw [exec_realign, execRealign, writeXing_of_still ho hx hv hst, State.done]
  · rw [exec_xingSlip, execXingSlip, hb]
    exact congrArg State.done (if_pos hx)
  · rw [exec_xingAlignFail, execXingAlignFail, hb]
    exact congrArg State.done (if_pos hx)

end Sys2Proof.Machine

/-! # The reductions

O25 to O28. A reduction command, a small collective, a contribution and a result each pass a chain of checks before they
take effect; a lemma here says of an operation what it does once its checks have let it through, and a clause is that
equation behind the command. -/

namespace Sys2Proof.Machine

/-! ## Commands of an engine -/

/-- What a command of an engine does to its context, behind the busy check: its code and the state (R190, R213). -/
def State.rdxAct (s : State) (m n op c : Nat) : Code × State :=
  match op with
  | 1 => s.rdxAdmit m n c
  | 2 => if s.sub c ≠ 1 then (.refusedState, s) else if !s.rdxRow m c then (.denied, s) else s.rdxRetire c
  | 3 => if s.sub c = 0 then (.refusedState, s) else if !s.rdxRow m c then (.denied, s) else (.ok, s.resetRdx c)
  | 4 => if s.sub c ≠ 1 then (.refusedState, s) else if !s.rdxRow m c then (.denied, s) else s.rdxSave m n c
  | _ => if s.sub c ≠ 4 then (.refusedState, s) else if !s.rdxRow m c then (.denied, s) else s.rdxRestore m n c

/-- A command that finds its engine's status not busy acts on its context. A refusal completes it, SAVE and RESTORE wait
for their transfer, and the others complete (R190, R213). -/
theorem rdxCommand_eq (s : State) (m n v : Nat) :
    s.rdxCommand m n v = s.onWrite m (Blk.rdx n).page 0x128 fun b =>
      if bit (s.reg b 0x138) 8 then s.refuse m b 0x128 .refusedState
      else if bits v 0 3 = 0 ∨ 5 < bits v 0 3 then s.refuseOp m b 0x128 0x138
      else
        let r := s.rdxAct m n (bits v 0 3) (bits v 3 12)
        if r.1.refuses then (r.2.refuse m b 0x128 r.1).finish b 0x138 r.1
        else if bits v 0 3 = 4 ∨ bits v 0 3 = 5 then
          (r.2.setBusy b 0x138).addJob ⟨.rdxCmd, b.page, 0x138, r.1, bits v 3 12, bits v 0 3, m⟩
        else r.2.finish b 0x138 r.1 := rfl

/-- A command that is accepted has its effect at once. SAVE and RESTORE leave the status busy and their answer waiting,
the others complete (R190, R213; that the effect comes with the command is the model's choice, log entry 11). -/
theorem rdxCommand_of_ok {s : State} {m n v op : Nat} {b : Blk} {r : Code × State}
    (ho : s.opens m (Blk.rdx n).page 0x128 b) (hbusy : bit (s.reg b 0x138) 8 = false) (hop : bits v 0 3 = op)
    (h1 : 1 ≤ op) (h5 : op ≤ 5) (hr : r = s.rdxAct m n op (bits v 3 12)) (hok : r.1 = .ok) :
    s.rdxCommand m n v =
      if op = 4 ∨ op = 5 then
        (r.2.setBusy b 0x138).addJob ⟨.rdxCmd, b.page, 0x138, .ok, bits v 3 12, op, m⟩
      else r.2.finish b 0x138 .ok := by
  have hrange : ¬(op = 0 ∨ 5 < op) := by omega
  simp only [rdxCommand_eq, onWrite_of_opens ho, hbusy, hop, hrange, ← hr, hok, Code.refuses, Bool.false_eq_true,
    if_false]

/-- RETIRE of a RUNNING context is accepted (R190). -/
theorem rdxRetire_running {s : State} {c : Nat} (h : s.sub c = 1) : (s.rdxRetire c).1 = .ok := by
  rw [State.rdxRetire, if_neg (not_not_intro h)]

/-- The end of a SAVE or a RESTORE writes the status that waits for it (R213). -/
theorem rdxCmdDone_of_job {s : State} {n : Nat} {j : Job} (hj : s.job .rdxCmd (Blk.rdx n).page 0x138 = some j) :
    s.rdxCmdDone n =
      ((s.dropJob .rdxCmd (Blk.rdx n).page 0x138).p (.rdx n) ⟨0x138, 8, 1⟩ 0).finish (.rdx n) 0x138 j.code := by
  rw [State.rdxCmdDone, hj]

/-- Settles O25: each command's condition is the clause's, and its operation answers OK. -/
theorem reductionCommandRows : Obligations.ReductionCommandRows := by
  refine ⟨fun m n v s b r ho hbusy hop hr hok => ?_, fun m n v s b c ho hbusy hop hc hsub hrow => ?_,
    fun m n v s b c ho hbusy hop hc hsub hrow => ?_, fun m n v s b c r ho hbusy hop hc hsub hrow hr hok => ?_,
    fun m n v s b c r ho hbusy hop hc hsub hrow hr hok => ?_, fun n s j hj => ?_⟩
  · rw [exec_rdxAdmit, execRdxAdmit, rdxCommand_of_ok ho hbusy hop (by decide) (by decide) hr hok, if_neg (by decide),
      State.done]
  · subst hc
    have hact : s.rdxRetire (bits v.toNat 3 12) = s.rdxAct m.toNat n.toNat 2 (bits v.toNat 3 12) := by
      simp [State.rdxAct, hsub, hrow]
    rw [exec_retire, execRetire, rdxCommand_of_ok ho hbusy hop (by decide) (by decide) hact (rdxRetire_running hsub),
      if_neg (by decide), State.done]
  · subst hc
    have hact : (Code.ok, s.resetRdx (bits v.toNat 3 12)) = s.rdxAct m.toNat n.toNat 3 (bits v.toNat 3 12) := by
      simp [State.rdxAct, hsub, hrow]
    rw [exec_rdxReset, execRdxReset, rdxCommand_of_ok ho hbusy hop (by decide) (by decide) hact rfl,
      if_neg (by decide), State.done]
  · subst hc
    have hact : r = s.rdxAct m.toNat n.toNat 4 (bits v.toNat 3 12) := by simp [State.rdxAct, hsub, hrow, hr]
    rw [exec_save, execSave, rdxCommand_of_ok ho hbusy hop (by decide) (by decide) hact hok, if_pos (.inl rfl),
      State.done]
  · subst hc
    have hact : r = s.rdxAct m.toNat n.toNat 5 (bits v.toNat 3 12) := by simp [State.rdxAct, hsub, hrow, hr]
    rw [exec_restore, execRestore, rdxCommand_of_ok ho hbusy hop (by decide) (by decide) hact hok, if_pos (.inr rfl),
      State.done]
  · rw [exec_rdxCmdDone, execRdxCmdDone, rdxCmdDone_of_job hj, State.done]

/-! ## Small collectives -/

/-- What OPEN or CLOSE does to a slot: its code and the state (R215, R217). -/
def State.scAct (s : State) (op i : Nat) : Code × State := if op = 1 then s.scOpen i else s.scShut i

/-- OPEN and CLOSE of a slot of the requester complete with the code that the slot gives (R215, R217, R363). -/
theorem scCommand_of_ok {s : State} {m v op : Nat} {b : Blk} {r : Code × State}
    (ho : s.opens m Blk.syn.page 0x418 b) (hop : bits v 0 2 = op) (hop12 : op = 1 ∨ op = 2)
    (hown : s.ownSlot m (bits v 2 10)) (hr : r = s.scAct op (bits v 2 10)) (hok : r.1 = .ok) :
    s.scCommand m v = r.2.finish b 0x420 .ok := by
  have hrange : ¬(op = 0 ∨ op = 3) := by omega
  rw [State.scCommand, onWrite_of_opens ho]
  simp only [hop, hrange, hown, if_true, if_false]
  rw [← State.scAct, ← hr, hok]
  rfl

/-- A sound contribution of a valid participant, for the sequence that its slot has open, is added (R215, R216). -/
theorem collSmall_of_open {s u : State} {port i k : Nat} {bs : List Byte} (hu : u = s.unhand synOwner bs)
    (hi : i = hw bs 0 % 4096) (hk : k = cRank bs) (hpkt : pOp bs = 0x24 ∧ 56 ≤ bs.length ∧ e2eOk bs)
    (hslot : i ≤ 1023) (hopen : u.scf i scSlot_open = 1) (hpart : k < u.scf i scSlot_participants)
    (hvalid : u.tb .scPart 0 (u.scf i scSlot_part_base + k) scPart_valid) (hsize : (cPay bs).length = u.scBytes i)
    (hseq : (u.sc i).opened ∧ hw bs 4 = u.scf i scSlot_seq) : s.collSmall port bs = u.scAdd i k (cPay bs) := by
  subst hu hi hk
  obtain ⟨hop, hlen, hcrc⟩ := hpkt
  simp only [State.collSmall]
  rw [if_neg (by simp [hcrc]), if_neg (by simp [hop, hlen, hslot, hopen, hpart, hvalid, hsize]), if_pos hseq]

/-- Settles O26: the command's operation answers OK, and the packet passes the checks of a small collective. -/
theorem smallCollectiveRows : Obligations.SmallCollectiveRows := by
  refine ⟨fun m v s b r ho hop hown hr hok => ?_, fun m v s b r ho hop hown hr hok => ?_,
    fun port p s u i k hu hi hk hop hlen hslot hopen hpart hvalid hsize hcrc hopened hseq => ?_⟩
  · rw [exec_scOpen, execScOpen, scCommand_of_ok ho hop (.inl rfl) hown hr hok, State.done]
  · rw [exec_scClose, execScClose, scCommand_of_ok ho hop (.inr rfl) hown hr hok, State.done]
  · rw [exec_collSmall, execCollSmall, collSmall_of_open hu hi hk ⟨hop, hlen, hcrc⟩ hslot hopen hpart hvalid hsize
      ⟨hopened, hseq⟩, State.done]

/-! ## Contributions and claims -/

/-- A contribution or a partial that is sound, of a RUNNING context's epoch and of a LOCAL rank of its port becomes a
claim, which holds its flits until it is answered (R192, R193, R200). -/
theorem collIn_of_local {s u : State} {op port c : Nat} {bs : List Byte} {r : RRank} (hu : u = s.unhand rdxOwner bs)
    (hc : c = hw bs 0 % 4096) (hpkt : pOp bs = op ∧ 56 ≤ bs.length ∧ e2eOk bs) (hsub : u.sub c = 1)
    (hep : hw bs 3 % 256 = u.ctx c attCtx_epoch % 256) (hr : (u.rx c).ranks[cRank bs]? = some r) (hcon : r.contrib)
    (hloc : r.remote = false) (hport : r.portId = port) (hok : u.collOk c r.fmt bs) :
    s.collIn op port none bs =
      u.setRx c { u.rx c with claims := (u.rx c).claims ++ [⟨cRank bs, port, 4, bs, false, true, none⟩] } := by
  subst hu hc
  obtain ⟨hop, hlen, hcrc⟩ := hpkt
  have hrank : (((s.unhand rdxOwner bs).rx (hw bs 0 % 4096)).ranks[cRank bs]?).filter (·.contrib) = some r := by
    rw [hr, Option.filter_some, if_pos hcon]
  simp only [State.collIn]
  rw [if_neg (by simp [hop, hlen]), if_neg (by simp [hcrc]), if_neg (by simp [hsub]), if_neg (not_not_intro hep),
    if_neg (by simp [hsub]), hrank]
  simp only [hloc, hport, hok, ne_eq, not_true_eq_false, and_false, Bool.not_true, Bool.not_false, Bool.false_eq_true,
    or_self, if_false, Option.isNone_none, Bool.and_self]

/-- The claim that the home engine looks at next: the first that no deferred one of its port precedes (R200). -/
def State.nextClaim (s : State) (c : Nat) : Option RClaim :=
  (s.rx c).claims.find? fun x =>
    !x.deferred && !(((s.rx c).claims.filter (·.deferred)).map (·.port)).contains x.port

/-- The engine judges a REMOTE rank's claim. A LOCAL rank's is granted where its last line lies in the window and is
deferred elsewhere (R200). -/
theorem claim_of_next {s : State} {c : Nat} {k : RClaim} {r : RRank} (hk : s.nextClaim c = some k)
    (hr : (s.rx c).ranks[k.rank]? = some r) :
    s.claim c =
      if r.remote then (s.claimHops c k).judgeRemote c k r
      else if s.fitsWindow c k.bytes then (s.claimHops c k).grant c k
      else s.setRx c
        { s.rx c with claims := (s.rx c).claims.map fun y => if y = k then { y with deferred := true } else y } := by
  rw [State.nextClaim] at hk
  simp only [State.claim, hk, hr]

/-- The first deferred claim that the window now takes is granted (R200). -/
theorem claimGrant_of_fits {s : State} {c : Nat} {k : RClaim}
    (hk : ((s.rx c).claims.find? fun x => x.deferred && s.fitsWindow c x.bytes) = some k) :
    s.claimGrant c = (s.claimHops c k).grant c k := by
  rw [State.claimGrant, hk]

/-! ## Accumulation -/

/-- An engine with a packet in its queues takes one of those of the tile that is next (R201). -/
theorem accumulate_of_next {s : State} {n a : Nat} (h : s.nextTile n = some a) :
    ∃ e ∈ s.inQueue n a, s.accumulate n = s.draw.2.takeIn n e := by
  have hne : (s.inQueue n a) ≠ [] := by simpa using List.find?_some h
  have hlt : s.draw.1 % (s.inQueue n a).length < (s.inQueue n a).length :=
    Nat.mod_lt _ (List.length_pos_iff.2 hne)
  refine ⟨_, List.getElem_mem hlt, ?_⟩
  simp only [State.accumulate, h, List.getElem?_eq_getElem hlt]

/-! ## What the parent sends -/

/-- A line of the window that is not complete and has no result takes one that the parent sends (R211). -/
def State.takeLine (s : State) (c g : Nat) (bs : List Byte) : State :=
  if s.inWindow c g && !(s.rx c).done.contains g && ((s.rx c).line g).res.isNone then s.setResult c g bs else s

/-- The lines from a number on take the parent's results in turn. -/
def State.takeLines (s : State) (c g0 : Nat) (ls : List (List Byte)) : State :=
  (indexed ls).foldl (fun z e => z.takeLine c (g0 + e.1) e.2) s

/-- A sound result packet of the parent, new and within the bitmap, gives its lines their results and is acknowledged
(R85, R211). -/
theorem collResult_of_new {s u w : State} {port c d n m out : Nat} {bs : List Byte}
    (hp : s.fromParent 0x21 port bs = (some c, u)) (hout : out = u.rc c rdxCtx_out_fmt) (hok : u.collOk c out bs)
    (hd : d = (pPsn bs + 2 ^ 24 - (u.rx c).parentCum) % 2 ^ 24) (hd0 : d ≠ 0) (hd128 : d ≤ 128)
    (hnew : bit (u.rx c).parentMap (d - 1) = false) (hm : m = putBits (u.rx c).parentMap (d - 1) 1 1)
    (hn : n = runLen 128 m)
    (hw : w = u.setRx c { u.rx c with parentCum := ((u.rx c).parentCum + n) % 2 ^ 24, parentMap := m / 2 ^ n }) :
    s.collResult port bs =
      (w.takeLines c ((w.firstLine c bs).getD 0)
        ((splitLines (decide (out ≤ 4)) out (cElems bs) (cPay bs)).getD [])).ackParent c := by
  have hdup : ¬(d = 0 ∨ 2 ^ 23 ≤ d ∨ (d ≤ 128 ∧ bit (u.rx c).parentMap (d - 1))) := by
    rw [hnew]
    simp [hd0]
    omega
  subst hw hn hm hout
  simp only [State.collResult, hp, ← hd]
  rw [if_neg (by simp [hok]), if_neg hdup, if_neg (by omega)]
  rfl

/-- A COLL_WINDOW of the parent never lowers what the parent takes (R201). -/
theorem collWindow_of_parent {s u : State} {port c : Nat} {bs : List Byte}
    (hp : s.fromParent 0x23 port bs = (some c, u)) :
    s.collWindow port bs =
      u.setRx c { u.rx c with parentTop := some (max (beAt bs 36 8) ((u.rx c).parentTop.getD 0)) } := by
  simp only [State.collWindow, hp]

/-- Settles O27: the packet passes the checks of its kind, and the claim is the one that the engine looks at. -/
theorem contributionRows : Obligations.ContributionRows := by
  refine ⟨fun port p s => ?_, fun port p s => ?_,
    fun port p s u i op c r hi hu hc hop hlen hcrc hsub hep hr hcon hloc hport hok => ?_,
    fun c s k r hk hr hloc hfit => ?_, fun c s k r hk hr hrem => ?_, fun c s k r hk hr hloc hfit => ?_,
    fun c s k hk => ?_, fun n s a ha => ?_, fun port p s => ?_,
    fun port p s u w c d n m out hp hout hok hd hd0 hd128 hnew hm hn hw => ?_, fun port p s u c hp => ?_,
    fun port p s => ?_⟩
  · rw [exec_collContrib, execCollContrib, State.done]
  · rw [exec_collPartial, execCollPartial, State.done]
  · have hx : exec i s = (s.collIn op port.toNat none p.bytes).done := by
      simp only [List.mem_cons, List.not_mem_nil, or_false, Prod.mk_inj] at hi
      rcases hi with ⟨rfl, rfl⟩ | ⟨rfl, rfl⟩ <;> rfl
    rw [hx, collIn_of_local hu hc ⟨hop, hlen, hcrc⟩ hsub hep hr hcon hloc hport hok, State.done]
  · rw [exec_claim, execClaim, claim_of_next hk hr, if_neg (by simp [hloc]), if_pos hfit, State.done]
  · rw [exec_claim, execClaim, claim_of_next hk hr, if_pos hrem, State.done]
  · rw [exec_claim, execClaim, claim_of_next hk hr, if_neg (by simp [hloc]), if_neg (by simp [hfit]), State.done]
  · rw [exec_claimGrant, execClaimGrant, claimGrant_of_fits hk, State.done]
  · obtain ⟨e, he, hx⟩ := accumulate_of_next ha
    exact ⟨e, he, by rw [exec_engineAccumulate, execEngineAccumulate, hx, State.done]⟩
  · rw [exec_collResult, execCollResult, State.done]
  · rw [exec_collResult, execCollResult, collResult_of_new hp hout hok hd hd0 hd128 hnew hm hn hw, State.done]
    rfl
  · rw [exec_collWindow, execCollWindow, collWindow_of_parent hp, State.done]
  · rw [exec_collWindow, execCollWindow, State.done]

/-! ## Release and epilogues -/

/-- The lines that go together are released once all of them have reached their counts (R204). -/
theorem lineRelease_of_reached {s : State} {c g : Nat} (hl : s.subLive c) (hg : (s.together c g).contains g)
    (hall : (s.together c g).all (s.reached c)) :
    s.lineRelease c g = (s.together c g).foldl (fun t x => t.releaseOne c x) s :=
  if_pos ⟨hl, hg, hall⟩

/-- A program that ends OK over released lines that all wait for it gives them their results (R205, R295; that the lines
of a release are one row is the model's choice, log entry 22). -/
theorem epilogue_of_ok {s u : State} {c g n out : Nat} {gs codes : List Nat} {r : Code × Exc × State}
    (hgs : gs = s.together c g) (hl : s.subLive c) (hepi : gs.all fun x => ((s.rx c).line x).epi)
    (hn : n = s.engOf c g) (hout : out = s.rc c rdxCtx_out_fmt)
    (hcodes : codes = gs.flatMap fun x => (s.lineCodes c x 0).1)
    (hu : u = s.writeSpace 2 (epiScratch 0) (codeBytes 0 codes))
    (hr : r = State.epiRun (2 ^ 21) (gs.all fun x => s.roundOf c x == s.roundOf c g) (s.rc c rdxCtx_partition) n
      (u.rc c rdxCtx_epi_prog) (flatDesc 0 (epiScratch 0) codes.length) (flatDesc out (epiScratch 1) codes.length) u)
    (hok : r.1 = .ok) :
    s.epilogue c g =
      (({ r.2.2 with vec := memZero r.2.2.vec (epiScratch 0) (2 ^ 33) } : State).rdxFlags c n r.2.1).putResults c gs
        (r.2.2.readSpace 2 (epiScratch 1) (codes.length * fmtBytes out)) := by
  subst hgs hn hout hcodes hu
  simp only [State.epilogue]
  rw [if_neg (by simp only [hl, hepi]; decide), ← hr, if_pos hok]

/-! ## What a context sends -/

/-- What waits to go out leaves first (R209). -/
theorem resultSend_queued {s : State} {c p vc : Nat} {bs : List Byte} {l : List (Nat × Nat × List Byte)}
    (hq : (s.rx c).outq = (p, vc, bs) :: l) :
    s.resultSend c = (s.setRx c ((s.rx c).withOut l)).reinject (s.home c) vc [(p, bs)] := by
  simp only [State.resultSend, hq]

/-- The lowest result that has not gone takes the next PSN and leaves to every recipient, where the stream of each has
room for it (R84, R208, R209; that a packet carries one line is the model's choice, log entry 93). -/
theorem resultSend_result {s u : State} {c : Nat} {l : RLine} {ps : List (Nat × List Byte)} (hq : (s.rx c).outq = [])
    (hsub : s.sub c = 1 ∨ s.sub c = 2)
    (hl : lowest ((s.rx c).lines.filter fun y => y.res.isSome && y.resPsn.isNone) = some l)
    (hroom : (s.rx c).recvs.all fun e => psnRoom (s.rx c).psn e.2.txCum)
    (hu : u = s.setRx c { (s.rx c).setLine { l with resPsn := some (s.rx c).psn } with
      psn := ((s.rx c).psn + 1) % 2 ^ 24 })
    (hps : ps = (s.rx c).recvs.filterMap fun e =>
      e.2.port.map fun q => (q, u.resultPkt c l.g (s.rx c).psn e.1 e.2 (l.res.getD []))) :
    s.resultSend c = (portBatches ps.length ps).foldl (fun z b => z.reinject (z.engOf c l.g) 5 b) u := by
  subst hps hu
  simp only [State.resultSend, hq, hl]
  rw [if_neg (by omega), if_neg (by simp [hroom])]

/-- Where no result waits, the lowest partial that the parent takes leaves to it, under the next PSN of its stream (R84,
R209, R211). -/
theorem resultSend_partial {s u : State} {c p : Nat} {l : RLine} (hq : (s.rx c).outq = [])
    (hsub : s.sub c = 1 ∨ s.sub c = 2)
    (hres : lowest ((s.rx c).lines.filter fun y => y.res.isSome && y.resPsn.isNone) = none)
    (hl : lowest ((s.rx c).lines.filter fun y => y.part.isSome && y.partPsn.isNone &&
      (s.rx c).parentTop.all fun t => decide (y.g < t)) = some l)
    (hroom : psnRoom (s.rx c).partPsn (s.rx c).partCum) (hp : (s.rx c).parentPort = some p)
    (hu : u = s.setRx c { (s.rx c).setLine { l with partPsn := some (s.rx c).partPsn } with
      partPsn := ((s.rx c).partPsn + 1) % 2 ^ 24 }) :
    s.resultSend c =
      u.reinject (u.engOf c l.g) 4 [(p, u.partialPkt c l.g (s.rx c).partPsn (l.part.getD []))] := by
  subst hu
  simp only [State.resultSend, hq, hres, hl]
  rw [if_neg (by omega), if_neg (by simp [hroom]), hp]

/-- Settles O28: the lines have what releases them, the program ends OK, and the context's next packet is the one that
the clause names. -/
theorem releaseRows : Obligations.ReleaseRows := by
  refine ⟨fun c g s hl hg hall => ?_, fun c g s => ?_,
    fun c g s u gs codes n out r bs hgs hl hepi hn hout hcodes hu hr hok hbs => ?_, fun c s p vc bs l hq => ?_,
    fun c s _ => ?_, fun c s u l ps hq hsub hl hroom hu hps => ?_, fun c s u l p hq hsub hres hl hroom hp hu => ?_⟩
  · rw [exec_lineRelease, execLineRelease, lineRelease_of_reached hl hg hall, State.done]
  · rw [exec_epilogue, execEpilogue, State.done]
  · subst hbs
    rw [exec_epilogue, execEpilogue, epilogue_of_ok hgs hl hepi hn hout hcodes hu hr hok, State.done]
  · rw [exec_resultSend, execResultSend, resultSend_queued hq, State.done]
  · rw [exec_resultSend, execResultSend, State.done]
  · rw [exec_resultSend, execResultSend, resultSend_result hq hsub hl hroom hu hps, State.done]
  · rw [exec_resultSend, execResultSend, resultSend_partial hq hsub hres hl hroom hp hu, State.done]

end Sys2Proof.Machine

/-! # Counters, flags, watches and barriers

O51, O29 and O30. A command of the Roost passes the checks of a write and the row filter, then it has the effect and the
code of its object's operation: this is said once of `State.synOp`. The operations have an equation for the case that a
clause names. A watch's message is sent after its slot is freed, so the slot's word is as the freeing left it: a message
writes other tables than the watches'. -/

namespace Sys2Proof.Machine

/-! ## Commands on a row of the Roost -/

/-- A command on a row that its requester reaches has its operation's effect, and a code that refuses is recorded as a
refusal (R363, R483). -/
theorem synOp_of_opens {s : State} {m off tb i : Nat} {b : Blk} (ho : s.opens m Blk.syn.page off b)
    (hrow : s.synRow m tb i) (f : State → Code × State) :
    s.synOp m off tb i f = if (f s).1.refuses then (f s).2.refuse m b off (f s).1 else (f s).2 := by
  rw [State.synOp, onWrite_of_opens ho, hrow, Bool.not_true, if_neg Bool.false_ne_true]

/-- A command that its object accepts leaves the state of the object's operation. -/
theorem synOp_of_ok {s : State} {m off tb i : Nat} {b : Blk} {f : State → Code × State} {r : Code × State}
    (ho : s.opens m Blk.syn.page off b) (hrow : s.synRow m tb i) (hr : r = f s) (hok : r.1 = .ok) :
    s.synOp m off tb i f = r.2 := by
  have hc : r.1.refuses = false := by rw [hok]; rfl
  rw [synOp_of_opens ho hrow, ← hr, hc, if_neg Bool.false_ne_true]

/-- A command that its object turns down is refused with the object's code. -/
theorem synOp_of_refused {s : State} {m off tb i : Nat} {b : Blk} {f : State → Code × State} {c : Code}
    (ho : s.opens m Blk.syn.page off b) (hrow : s.synRow m tb i) (hf : f s = (c, s)) (hc : c.refuses = true) :
    s.synOp m off tb i f = s.refuse m b off c := by
  rw [synOp_of_opens ho hrow, hf, if_pos hc]

/-! ## Arming and cancelling -/

/-- ARM of an armed slot is turned down (R236). -/
theorem arm_of_armed {s : State} {w : Nat} (h : s.tb .synWatch 0 w synWatch_state) : s.arm w = (.refusedState, s) :=
  if_pos h

/-- ARM of a free slot that watches a flag beyond the last one is turned down (R236). -/
theorem arm_of_flag_beyond {s : State} {w : Nat} (hfree : s.tb .synWatch 0 w synWatch_state = false)
    (hkind : s.tb .synWatch 0 w synWatch_kind) (hid : 4095 < s.t .synWatch 0 w synWatch_target_id) :
    s.arm w = (.badArg, s) := by
  rw [State.arm, hfree, if_neg Bool.false_ne_true, if_pos ⟨hkind, hid⟩]

/-- ARM of a free slot whose stamp is stale arms the slot, then sends its message with OWNER_LOST (R235, R236). -/
theorem arm_of_stale {s u t : State} {w : Nat} {r : State × List Obj}
    (hfree : s.tb .synWatch 0 w synWatch_state = false)
    (hid : s.tb .synWatch 0 w synWatch_kind = false ∨ s.t .synWatch 0 w synWatch_target_id ≤ 4095)
    (hu : u = ((s.pt .synWatch 0 w synWatch_reg_seq (s.t .synWatch 0 w synWatch_reg_seq + 1)).pt .synWatch 0 w
      synWatch_wait_ticks 0).pt .synWatch 0 w synWatch_state 1)
    (ht : t = u.watchCount (s.watchObj w) true)
    (hstale : t.t .synWatch 0 w synWatch_epoch ≠ t.objEpoch (s.watchObj w))
    (hr : r = t.sendWatch w .ownerLost (t.objVal (s.watchObj w))) :
    s.arm w = (.ok, r.2.foldl State.follows r.1) := by
  have hknown : ¬(s.tb .synWatch 0 w synWatch_kind ∧ 4095 < s.t .synWatch 0 w synWatch_target_id) := by
    rintro ⟨hk, hlt⟩
    rcases hid with hc | hle
    · exact Bool.false_ne_true (hc.symm.trans hk)
    · exact Nat.not_lt.2 hle hlt
  rw [State.arm, hfree, if_neg Bool.false_ne_true, if_neg hknown]
  simp only [← hu, ← ht, if_pos hstale, ← hr]

/-- CANCEL of an armed slot sends its message with ABORTED (R236). -/
theorem cancel_of_armed {s : State} {w : Nat} {r : State × List Obj} (h : s.tb .synWatch 0 w synWatch_state)
    (hr : r = s.sendWatch w .aborted (s.objVal (s.watchObj w))) :
    s.cancel w = (.ok, r.2.foldl State.follows r.1) := by
  rw [State.cancel, if_pos h, hr]

/-- CANCEL of a free slot is turned down (R236). -/
theorem cancel_of_free {s : State} {w : Nat} (h : s.tb .synWatch 0 w synWatch_state = false) :
    s.cancel w = (.refusedState, s) := by
  rw [State.cancel, h, if_neg Bool.false_ne_true]

/-! ## The slot of a watch whose message was sent -/

/-- The key of a table word has the table's code above its low 40 bits. -/
theorem tabKey_div (t : Tbl) {i wd : Nat} (hi : i < 2 ^ 20) (hwd : wd < 2 ^ 12) :
    tabKey t 0 i wd / 2 ^ 40 = t.code := by
  unfold tabKey
  omega

/-- A write of an entry of one table leaves the words of another table alone. -/
theorem tw_pt_other {s : State} (h : s.Wf) {t u : Tbl} {i j wd : Nat} {f : Fld} (v : Nat) (htu : u.code ≠ t.code)
    (hi : i < 2 ^ 20) (hf : f.off < 2 ^ 12) (hj : j < 2 ^ 20) (hwd : wd < 2 ^ 12) :
    (s.pt t 0 i f v).tw u 0 j wd = s.tw u 0 j wd := by
  rw [State.pt, tw_setTw h, if_neg]
  intro hk
  exact htu (by rw [← tabKey_div u hj hwd, hk, tabKey_div t hi hf])

/-- Words of tables are read from the tables alone. -/
theorem tw_of_tabs {s u : State} (h : u.tabs = s.tabs) (t : Tbl) (sc i wd : Nat) : u.tw t sc i wd = s.tw t sc i wd := by
  rw [State.tw, State.tw, h]

/-- A watch's function is the physical one or that of one of the 16 partitions. -/
theorem watchFn_le (s : State) (w : Nat) : s.watchFn w ≤ 16 := by
  have hp : s.t .synWatch 0 w synWatch_partition < 2 ^ 4 := bits_lt _ _ _
  unfold State.watchFn
  split <;> omega

/-- A function has at most 256 vectors. -/
theorem fnVectors_le (fn : Nat) : fnVectors fn ≤ 256 := by
  unfold fnVectors
  split <;> omega

/-- The count of watches that an object shows keeps the canonical form. -/
theorem wf_watchCount {s : State} (h : s.Wf) (o : Obj) (up : Bool) : (s.watchCount o up).Wf := by
  cases o with
  | cnt c => exact wf_setTw h _ _ _ _ _
  | flg f => exact wf_setTw h _ _ _ _ _

/-- An interrupt leaves the words of the watches alone. -/
theorem msi_watch {s : State} (h : s.Wf) {fn : Nat} (v : Nat) {w wd : Nat} (hfn : fn ≤ 16) (hw : w < 16384)
    (hwd : wd < 2 ^ 12) : (s.msi fn v).tw .synWatch 0 w wd = s.tw .synWatch 0 w wd := by
  have hv := fnVectors_le fn
  unfold State.msi
  split
  · rfl
  · split
    · exact tw_pt_other h 1 (by decide) (by omega) (by decide) (by omega) hwd
    · exact tw_of_tabs (by rw [State.inc_tabs, State.emit_tabs]) _ _ _ _

/-- A write of a flag leaves the words of the watches alone. -/
theorem putFlag_watch {s : State} (h : s.Wf) {f : Nat} (v : Bool) {w wd : Nat} (hf : f < 4096) (hw : w < 16384)
    (hwd : wd < 2 ^ 12) : (s.putFlag f v).2.tw .synWatch 0 w wd = s.tw .synWatch 0 w wd := by
  have hpt (g : Fld) (x : Nat) (hg : g.off < 2 ^ 12) :
      (s.pt .synFlag 0 f g x).tw .synWatch 0 w wd = s.tw .synWatch 0 w wd :=
    tw_pt_other h x (by decide) (by omega) hg (by omega) hwd
  unfold State.putFlag
  simp only
  split
  · split
    · exact (tw_of_tabs (State.inc_tabs ..) _ _ _ _).trans (hpt _ _ (by decide))
    · exact hpt _ _ (by decide)
  · exact hpt _ _ (by decide)

/-- The state of a slot whose message is about to be sent: the slot freed, and its object no longer watched by it
(R235). -/
def State.freed (s : State) (w : Nat) : State :=
  (s.watchCount (s.watchObj w) false).pt .synWatch 0 w synWatch_state 0

/-- Freeing a slot keeps the canonical form. -/
theorem wf_freed {s : State} (h : s.Wf) (w : Nat) : (s.freed w).Wf := wf_setTw (wf_watchCount h _ _) _ _ _ _ _

/-- A freed slot is FREE. -/
theorem freed_free {s : State} (h : s.Wf) (w : Nat) : (s.freed w).tb .synWatch 0 w synWatch_state = false := by
  rw [State.tb, State.freed, t_pt_same (wf_watchCount h _ _) _ _ _ _ _ (by decide)]
  rfl

/-- What a watch's message sends, writes and sets leaves the slot's words as the freeing of the slot left them (R239). -/
theorem sendWatch_slot {s : State} (h : s.Wf) {w wd : Nat} (hw : w < 16384) (hwd : wd < 2 ^ 12) (c : Code) (x : Nat) :
    (s.sendWatch w c x).1.tw .synWatch 0 w wd = (s.freed w).tw .synWatch 0 w wd := by
  obtain ⟨u, hu⟩ : ∃ u, u = (s.freed w).inc .syn SYN_WATCH_FIRED_count := ⟨_, rfl⟩
  have wu : u.Wf := hu ▸ wf_inc (wf_freed h w) _ _
  rw [← tw_of_tabs (State.inc_tabs (s.freed w) .syn SYN_WATCH_FIRED_count), ← hu]
  rw [State.freed] at hu
  simp only [State.sendWatch, ← hu]
  split
  · exact tw_of_tabs (State.emit_tabs ..) _ _ _ _
  · have hbuf (a : Nat) (bs : List Byte) : (u.writeBuf (s.watchFn w) true 0 a bs).Wf :=
      ⟨wu.regs, wu.tabs, wu.hbm, wu.arr, wu.vec, memWf_writes _ _ wu.host⟩
    split
    · exact msi_watch (hbuf _ _) _ (watchFn_le s w) hw hwd
    · rfl
  · split
    · rfl
    · exact putFlag_watch wu true (Nat.mod_lt _ (by decide)) hw hwd

/-- The slot is FREE once its message is sent (R235). -/
theorem sendWatch_free {s : State} (h : s.Wf) {w : Nat} (hw : w < 16384) (c : Code) (x : Nat) :
    (s.sendWatch w c x).1.tb .synWatch 0 w synWatch_state = false := by
  rw [← freed_free h w, State.tb, State.tb, State.t, State.t, sendWatch_slot h hw (by decide)]

/-- Settles O51: each command passes the row filter, and its operation is in the case that the clause names. -/
theorem watchArmCancel : Obligations.WatchArmCancel := by
  refine ⟨fun m v s b ho hrow harmed => ?_, fun m v s b ho hrow hfree hkind hid => ?_,
    fun m v s u t b w r ho hw hrow hfree hid hu ht hstale hr => ?_, fun m v s b w r ho hw hrow harmed hr => ?_,
    fun m v s b ho hrow hfree => ?_, fun s w c x h hw => sendWatch_free h hw c x⟩
  · rw [exec_watchArm, execWatchArm, State.writeArm, synOp_of_refused ho hrow (arm_of_armed harmed) rfl, State.done]
  · rw [exec_watchArm, execWatchArm, State.writeArm, synOp_of_refused ho hrow (arm_of_flag_beyond hfree hkind hid) rfl,
      State.done]
  · subst hw
    rw [exec_watchArm, execWatchArm, State.writeArm,
      synOp_of_ok ho hrow (arm_of_stale hfree hid hu ht hstale hr).symm rfl, State.done]
  · subst hw
    rw [exec_watchCancel, execWatchCancel, State.writeCancel,
      synOp_of_ok ho hrow (cancel_of_armed harmed hr).symm rfl, State.done]
  · rw [exec_watchCancel, execWatchCancel, State.writeCancel, synOp_of_refused ho hrow (cancel_of_free hfree) rfl,
      State.done]

/-! ## Barriers, tables and the wait detector -/

/-- DISARM of an armed barrier disarms it (R244). -/
theorem barDisarm_of_armed {s : State} {b : Nat} (h : s.tb .synBar 0 b synBar_armed) :
    s.barDisarm b = (.ok, s.pt .synBar 0 b synBar_armed 0) :=
  if_pos h

/-- A word of an entry that has fields for software to write is stored where no rule bars it. The rule on a segment's
length is about the translation's entries alone (R242). -/
theorem synTblWrite_of_sound {s : State} {m v tb i wd : Nat} {b : Blk} (ho : s.opens m Blk.syn.page 0x108 b)
    (htb : tb = s.g b SYN_TBL_SEL_table) (hi : i = s.g b SYN_TBL_SEL_index) (hwd : wd = s.g b SYN_TBL_SEL_word)
    (hrow : s.synRow m tb i) (hrow' : (s.storeTw (synTbl tb) 0 i wd v).synRow m tb i)
    (hrw : (fieldsAt (synTbl tb).fields wd).any (·.acc == .rw)) (hbar : s.synBarred tb i = false)
    (hk : tb < 3 ∨ tb = 4) (hlt : i < synCount tb) (hok : tblOk (synTbl tb) wd v) :
    s.synTblWrite m v = s.storeTw (synTbl tb) 0 i wd v := by
  have hrange : ¬(5 < tb ∨ synCount tb ≤ i) := by omega
  have hseg : tb ≠ 3 := by omega
  simp only [State.synTblWrite, onWrite_of_opens ho, ← htb, ← hi, ← hwd, hrow, hrow', hrange, hbar, hrw, hok, hseg,
    Bool.not_true, Bool.false_eq_true, false_and, or_self, if_false]

/-- Settles O29: each command reaches the operation of its object, which accepts it. -/
theorem roostCommandRows : Obligations.RoostCommandRows := by
  refine ⟨fun m v s b r ho hrow hr hok => ?_, fun m v s b ho hrow => ?_,
    fun m v s b i x r hi hx ho hrow hr hok => ?_, fun m v s b r ho hrow hr hok => ?_,
    fun m v s b r ho hrow hr hok => ?_, fun m v s b r ho hrow hop hr hok => ?_, fun m v s b ho hrow hop harmed => ?_,
    fun m c e a s r hr => ?_, fun m v s b tb i wd htb hi hwd ho hrow hrow' hrw hbar hk hlt hok => ?_⟩
  · rw [exec_synSignal, execSynSignal, State.writeSignal, synOp_of_ok ho hrow hr hok, State.done]
  · rw [exec_clear, execClear, State.writeClear, synOp_of_ok ho hrow rfl rfl, State.done]
  · have he : exec i s = (s.writeFlag m.toNat v.toNat).done := by
      simp only [List.mem_cons, List.not_mem_nil, or_false, Prod.mk_inj] at hi
      rcases hi with ⟨rfl, -⟩ | ⟨rfl, -⟩ <;> rfl
    rw [he, State.writeFlag, hx, Bool.not_not, synOp_of_ok ho hrow hr hok, State.done]
  · rw [exec_watchArm, execWatchArm, State.writeArm, synOp_of_ok ho hrow hr hok, State.done]
  · rw [exec_watchCancel, execWatchCancel, State.writeCancel, synOp_of_ok ho hrow hr hok, State.done]
  · rw [exec_barArm, execBarArm, State.writeBar, hop, synOp_of_ok ho hrow hr hok, State.done]
  · rw [exec_barDisarm, execBarDisarm, State.writeBar, hop,
      synOp_of_ok ho hrow (barDisarm_of_armed harmed).symm rfl, State.done]
  · rw [exec_signal, execSignal, State.signalBy, hr, State.done]
  · rw [exec_synTblWrite, execSynTblWrite, synTblWrite_of_sound ho htb hi hwd hrow hrow' hrw hbar hk hlt hok, State.done]

/-- A write of the wait detector's clear with its bit set empties the table (R247). -/
theorem writeWaitClear_of_set {s : State} {m v : Nat} {b : Blk} (ho : s.opens m Blk.syn.page 0x150 b) (hv : bit v 0) :
    s.writeWaitClear m v = s.waitClear := by
  rw [State.writeWaitClear, onWrite_of_opens ho, if_pos hv]

/-- Settles O30: the scan is the tick of the age oscillator, and the clear's bit is set. -/
theorem waitDetectorRows : Obligations.WaitDetectorRows := by
  refine ⟨fun s => ?_, fun m v s b ho hv => ?_⟩
  · rw [exec_waitScan, execWaitScan, State.done]
  · rw [exec_waitClear, execWaitClear, writeWaitClear_of_set ho hv, State.done]

end Sys2Proof.Machine

/-! # Operations of a list that are carried out

O32. Each instruction carries out the oldest waiting operation of its own family and variant by one function of the
state; HALT completes the operation at the head of its list. -/

namespace Sys2Proof.Machine

/-- The instructions that carry an operation out: each one's family and variant, and what it does with the operation
(R273, R284, R288 to R305, R315, R328). -/
def carryTable (p : PartNo) (l : ListNo) : List (Instr × (Nat × Nat) × (State → GOp → State)) :=
  [(.rcvFirst p l, (9, 2), State.carryFirst), (.cntFetch p l, (12, 0), State.carryFetch),
    (.ldw p l, (1, 0), State.carryLdw), (.stw p l, (2, 0), State.carryStw), (.mm p l, (3, 0), State.carryProduct),
    (.mmtDx p l, (4, 1), State.carryProduct), (.mmtDw p l, (4, 2), State.carryProduct),
    (.epi p l, (5, 0), State.carryEpi), (.cvt p l, (6, 0), State.carryCvt), (.rdxOp p l, (7, 0), State.carryRdx),
    (.snd p l, (8, 0), State.carrySnd), (.rcvPostWait p l, (9, 0), State.carryRcv),
    (.rcvPost p l, (9, 1), State.carryRcv), (.waitCounter p l, (10, 0), State.carryWait),
    (.waitFlag p l, (10, 1), State.carryWait), (.sigAdd p l, (11, 0), State.carrySig),
    (.sigSet p l, (11, 1), State.carrySig), (.sigClr p l, (11, 2), State.carrySig),
    (.cntCounts p l, (12, 1), State.carryCounts), (.digTree p l, (13, 0), State.carryDig),
    (.digAudit p l, (13, 1), State.carryDig), (.smpSeeded p l, (14, 0), State.carrySmp),
    (.smpEntropy p l, (14, 1), State.carrySmp)]

/-- An instruction of the table looks for an operation of its row's family and variant alone. -/
theorem exec_of_mem_carryTable {p : PartNo} {l : ListNo} {i : Instr} {k : Nat × Nat} {f : State → GOp → State}
    (h : (i, k, f) ∈ carryTable p l) (s : State) : exec i s = (s.carry p.toNat l.toNat k.1 k.2 f).done := by
  have hall : (carryTable p l).Forall fun r =>
      exec r.1 s = (s.carry p.toNat l.toNat r.2.1.1 r.2.1.2 r.2.2).done := by
    simp only [carryTable, List.Forall]
    and_intros <;> rfl
  exact List.forall_iff_forall_mem.1 hall _ h

/-- The oldest operation that waits for an instruction is carried out while FAULT_N is high. -/
theorem carry_of_toRun {s : State} {p l fam var : Nat} {o : GOp} (f : State → GOp → State)
    (ho : s.toRun p l fam var = some o) (hf : s.pins.faultN) : s.carry p l fam var f = f s o := by
  simp only [State.carry, ho, hf, if_true]

/-- HALT at the head of a list that is not PAUSED completes with the code it has (R287). -/
theorem haltNow_of_head {s : State} {p l : Nat} {o : GOp} (ho : s.toRun p l 0 0 = some o)
    (hhead : (s.opsOf p l).head? = some o) (hlst : s.lst p l ≠ .paused) :
    s.haltNow p l = s.completeOp (o.ended o.code) := by
  simp only [State.haltNow, ho, if_pos (And.intro hhead hlst), GOp.ended]

/-- Settles O32: each row is a row of the table at the state and the operation that the clause names, and HALT is at the
head of its list. -/
theorem instructionRows : Obligations.InstructionRows := by
  refine ⟨fun p l s t o i k hi ho hf => ?_, fun p l s o ho hhead hlst hok => ?_⟩
  · have hmap : (i, k, t) ∈ (carryTable p l).map fun r => (r.1, r.2.1, r.2.2 s o) := hi
    obtain ⟨⟨i, k, f⟩, hrow, hrt⟩ := List.mem_map.1 hmap
    obtain ⟨rfl, rfl, rfl⟩ : _ ∧ _ ∧ _ := by simpa only [Prod.mk_inj] using hrt
    rw [exec_of_mem_carryTable hrow, carry_of_toRun f ho hf, State.done]
  · rw [exec_halt, execHalt, haltNow_of_head ho hhead hlst, hok, State.done]

end Sys2Proof.Machine

/-! # Lists, completions and training of the Gang

O31, O33 and O34. The commands of a list, the schedule, the messages and completions of operations, and the writes of
training and partition entries. -/

namespace Sys2Proof.Machine

/-! ## The commands of a list -/

/-- The commands of a list: the code that MAC_CMD gives each one, and what it answers (R287). -/
def listCommands (m : Mst) (v : Word) (s : State) (b : Blk) : List (Instr × Nat × (Code × State)) :=
  [(.start m v, 1, s.gangStart (bits v.toNat 3 4) (bits v.toNat 7 2) (s.g b MAC_CMD_ADDR_pc) (bit v.toNat 9)),
    (.pause m v, 2, s.gangPause (bits v.toNat 3 4) (bits v.toNat 7 2)),
    (.resume m v, 3, s.gangResume (bits v.toNat 3 4) (bits v.toNat 7 2)),
    (.stop m v, 4, s.gangStop (bits v.toNat 3 4) (bits v.toNat 7 2))]

/-- Each command of a list is a write of MAC_CMD. -/
theorem exec_of_mem_listCommands {m : Mst} {v : Word} {s : State} {b : Blk} {i : Instr} {k : Nat} {r : Code × State}
    (h : (i, k, r) ∈ listCommands m v s b) : exec i s = (s.macCommand m.toNat v.toNat).done := by
  simp only [listCommands, List.mem_cons, List.not_mem_nil, or_false, Prod.mk_inj] at h
  rcases h with ⟨rfl, -⟩ | ⟨rfl, -⟩ | ⟨rfl, -⟩ | ⟨rfl, -⟩ <;> rfl

/-- A write of MAC_CMD on a row of the requester, with the code of a command that the list accepts, reports OK. -/
theorem macCommand_of_ok {m : Mst} {v : Word} {s : State} {b : Blk} {i : Instr} {k : Nat} {r : Code × State}
    (h : (i, k, r) ∈ listCommands m v s b) (hop : bits v.toNat 0 3 = k) (ho : s.opens m.toNat gangPage.page 0x228 b)
    (hrow : partRow m.toNat (bits v.toNat 3 4)) (hok : r.1 = .ok) :
    s.macCommand m.toNat v.toNat = r.2.finish b 0x238 .ok := by
  simp only [listCommands, List.mem_cons, List.not_mem_nil, or_false, Prod.mk_inj] at h
  rcases h with ⟨-, rfl, rfl⟩ | ⟨-, rfl, rfl⟩ | ⟨-, rfl, rfl⟩ | ⟨-, rfl, rfl⟩ <;>
    simp [State.macCommand, onWrite_of_opens ho, hop, hrow, hok, Code.refuses]

/-! ## Pauses and the schedule -/

/-- The operations of a list that a pause finds under way: all but those that are saved, and those that have ended and
hold no class (R307). -/
def State.pauseBusy (s : State) (p l : Nat) : List GOp :=
  (s.opsOf p l).filter fun o => !o.saved && (o.wait == .run || (o.wait == .done && gangClass o.ins (s.dsc o) != 2))

/-- A RUNNING list that is to pause, with nothing but products under way, saves them and is PAUSED (R307). -/
theorem pauseNow_of_products {s : State} {p l : Nat} (hp : (s.gl p l).pausing) (hl : s.lst p l = .running)
    (hprod : (s.pauseBusy p l).all fun o => (o.ins.family == 3 || o.ins.family == 4) && o.wait == .run) :
    s.pauseNow p l =
      let w := (s.pauseBusy p l).foldl State.saveProduct s
      (w.setGl { w.gl p l with pausing := false }).setLst p l .paused := by
  have hnone : ¬((s.pauseBusy p l).any fun o => !((o.ins.family == 3 || o.ins.family == 4) && o.wait == .run)) := by
    rwa [List.all_eq_not_any_not, Bool.not_eq_true', ← Bool.not_eq_true] at hprod
  rw [State.pauseNow, if_neg (by simp [hp, hl])]
  exact if_neg hnone

/-- The schedule leaves a busy class alone (R306). -/
theorem gangSchedule_of_busy {s : State} {cls : Nat} (hc : cls < 2) (hb : s.classBusy cls) : s.gangSchedule cls = s := by
  rw [State.gangSchedule, if_pos (by omega), if_pos (.inl hb)]

/-- The schedule gives a free class to the list whose turn the round robin says it is (R306). -/
theorem gangSchedule_of_turn {s : State} {cls p l : Nat} {r : Option (Nat × Nat) × State} (hc : cls < 2)
    (hb : s.classBusy cls = false) (ho : ((s.gangOffers cls (s.drawWide 1).1).any fun o => o.2.isSome) = true)
    (hr : r = (s.drawWide 1).2.drrTurn cls (s.gangOffers cls (s.drawWide 1).1)
      (offerTurns (s.gangOffers cls (s.drawWide 1).1))) (hpl : r.1 = some (p, l)) :
    s.gangSchedule cls = (r.2.turn p l ((s.drawWide 1).1 + 4 * p + l)).serve cls p l := by
  obtain ⟨turn, u⟩ := r
  obtain rfl : turn = some (p, l) := hpl
  obtain ⟨o, hmem, hsome⟩ := List.any_eq_true.1 ho
  have hfree : ¬(s.classBusy cls ∨ (s.gangOffers cls (s.drawWide 1).1).all fun o => o.2.isNone) := by
    rintro (h | h)
    · simp [hb] at h
    · simp [Option.isNone_iff_eq_none.1 (List.all_eq_true.1 h o hmem)] at hsome
  rw [State.gangSchedule, if_pos (by omega), if_neg hfree, ← hr]

/-- Class 2 starts the first list whose next instruction holds no class (R306). -/
theorem gangSchedule_of_freeWork {s : State} {p l : Nat} (hf : s.freeWork = some (p, l)) :
    s.gangSchedule 2 = s.turn p l 0 := by
  simp [State.gangSchedule, hf]

/-- Settles O31: each command of a list is a write of MAC_CMD that the list accepts, what a pause finds under way are
products, and the schedule takes the branch that the clause names. That PAUSE and STOP report OK at once is the model's
choice (log entry 103). -/
theorem listCommandRows : Obligations.ListCommandRows := by
  refine ⟨fun m v s b i k r hi hop ho hrow hok => ?_, fun p l s => ?_, fun p l s w busy hp hl hbusy hprod hw => ?_,
    fun c s hc hb => ?_, fun c s p l r hc hb ho hr hpl => ?_, fun c s p l hc hf => ?_⟩
  · rw [exec_of_mem_listCommands hi, macCommand_of_ok hi hop ho hrow hok, State.done]
  · rw [exec_pauseTakesEffect, execPauseTakesEffect, State.done]
  · subst hbusy hw
    rw [exec_pauseTakesEffect, execPauseTakesEffect, pauseNow_of_products hp hl hprod, State.done]
    rfl
  · rw [exec_gangSchedule, execGangSchedule, gangSchedule_of_busy hc hb, State.done]
  · rw [exec_gangSchedule, execGangSchedule, gangSchedule_of_turn hc hb ho hr hpl, State.done]
  · rw [exec_gangSchedule, execGangSchedule, hc, gangSchedule_of_freeWork hf, State.done]

/-! ## Messages, completions and the end of a lag window -/

/-- A message of a watch answers the operation that waits for that arming (R302). -/
theorem gangWatch_of_waiting {s : State} {slot seq : Nat} {o : GOp}
    (h : (s.gang.ops.find? fun x => x.wait == .watch slot seq) = some o) (code value : Nat) :
    s.gangWatch slot seq code value = s.setOp (o.answered (Code.ofVal code) value) := by
  simp only [State.gangWatch, h]

/-- A message that no operation waits for is counted (R302). -/
theorem gangWatch_of_unmatched {s : State} {slot seq : Nat}
    (h : (s.gang.ops.find? fun x => x.wait == .watch slot seq) = none) (code value : Nat) :
    s.gangWatch slot seq code value = s.inc gangPage MAC_WATCH_UNMATCHED_count := by
  simp only [State.gangWatch, h]

/-- The first operation that has what it waited for completes, in a list that runs or stops and does not wait for room
(R307, R309). -/
theorem gangOpDone_of_ready {s u : State} {p l : Nat} {o : GOp} (hl : s.lst p l ≠ .paused ∨ (s.gl p l).stopping)
    (hfull : (s.gl p l).full = false) (ho : (s.opsOf p l).findSome? s.ready = some (o, u)) :
    s.gangOpDone p l = u.completeOp o := by
  have hgoes : ¬(s.lst p l = .paused ∧ !(s.gl p l).stopping) := by
    rintro ⟨hpaused, hstop⟩
    rcases hl with h | h
    · exact h hpaused
    · simp [h] at hstop
  simp only [State.gangOpDone, if_neg hgoes, hfull, ho, Bool.false_eq_true, if_false]

/-- A list that waited for room completes its operation once there is room (R309). -/
theorem cplResume_of_room {s : State} {p l : Nat} {o : GOp} (hfull : (s.gl p l).full) (hroom : s.ringFull p = false)
    (ho : ((s.noWait p l).opsOf p l).find? (fun x => x.wait == .done) = some o) :
    s.cplResume p l = (s.noWait p l).completeOp o := by
  simp only [State.cplResume, hfull, hroom, ho, Bool.not_true, Bool.false_eq_true, or_self, if_false]

/-- A lag window in which enough operations have run ends, and every array is judged (R311). -/
theorem arrayLag_of_ended {s : State} (h : 2 ^ s.g gangPage MAC_GANG_CFG_lag_window ≤ s.g gangPage H_LAG_ops) :
    s.arrayLag = (upTo 16).foldl
      (fun u q => u.lagOf q (s.g gangPage MAC_GANG_CFG_lag_threshold * 2 ^ s.g gangPage MAC_GANG_CFG_lag_window))
      (s.p gangPage H_LAG_ops 0) := by
  rw [State.arrayLag, if_neg (by omega)]

/-- Settles O33: each event's condition is the clause's, and its operation takes the branch that the clause names. -/
theorem completionRows : Obligations.CompletionRows := by
  refine ⟨fun w code v s o ho => ?_, fun w code v s hnone => ?_, fun p l s u o hl hfull ho => ?_,
    fun p l s o hfull hroom ho => ?_, fun s h => ?_⟩
  · rw [exec_gangWatchMessage, execGangWatchMessage, gangWatch_of_waiting ho, State.done]
  · rw [exec_gangWatchMessage, execGangWatchMessage, gangWatch_of_unmatched hnone, State.done]
  · rw [exec_gangOpDone, execGangOpDone, gangOpDone_of_ready hl hfull ho, State.done]
  · rw [exec_cplRingResume, execCplRingResume, cplResume_of_room hfull hroom ho, State.done]
  · rw [exec_arrayLagWindow, execArrayLagWindow, arrayLag_of_ended h, State.done]

/-! ## Training and partition entries -/

/-- RELEASE of a retained input on a row of the requester frees its place (R322). -/
theorem trainCommand_release {s : State} {m v : Nat} {b : Blk} (ho : s.opens m gangPage.page 0x310 b)
    (hop : bits v 0 2 = 1) (hrow : partRow m (bits v 2 4)) (hret : s.retained (bits v 2 4) (bits v 6 8)) :
    s.trainCommand m v = (s.dropRetention (bits v 2 4) (bits v 6 8)).finish b 0x318 .ok := by
  simp [State.trainCommand, onWrite_of_opens ho, hop, hrow, hret]

/-- CLEAR_GRAD on a row of the requester clears the entry's gradient count (R328). -/
theorem trainCommand_clearGrad {s : State} {m v : Nat} {b : Blk} (ho : s.opens m gangPage.page 0x310 b)
    (hop : bits v 0 2 = 2) (hrow : partRow m (bits v 2 4)) :
    s.trainCommand m v = (s.ple (bits v 2 4) (bits v 6 8) macLayer_grad_count 0).finish b 0x318 .ok := by
  simp [State.trainCommand, onWrite_of_opens ho, hop, hrow]

/-- A word of the requester's training tables that has fields for software to write and breaks no rule is stored while
the partition's lists are idle (R318). -/
theorem trainWrite_of_sound {s : State} {m v p i wd : Nat} {b : Blk} {t : Tbl} (ho : s.opens m gangPage.page 0x308 b)
    (hp : p = s.g b MAC_TRAIN_SEL_partition) (hwd : wd = s.g b MAC_TRAIN_SEL_word)
    (ht : t = if s.gb b MAC_TRAIN_SEL_table then .macTrain else .macLayer)
    (hi : i = if s.gb b MAC_TRAIN_SEL_table then p else p * 256 + s.g b MAC_TRAIN_SEL_entry) (hrow : ownRow m p)
    (hrw : (fieldsAt t.fields wd).any (·.acc == .rw)) (hidle : s.listsIdle p) (hok : tblOk t wd v)
    (hal : trainAligned (s.gb b MAC_TRAIN_SEL_table) wd v) : s.trainWrite m v = s.storeTw t 0 i wd v := by
  simp only [State.trainWrite, onWrite_of_opens ho, ← hp, ← hwd, ← ht, ← hi, hrow, hrw, hidle, hok, hal,
    Bool.not_true, Bool.false_eq_true, or_self, if_false]

/-- A word of a partition entry that breaks no rule of the table is stored for a master that may write it. The bases
stand still unless the lists are idle, and one partition alone trains under policy T (R313, R324). -/
theorem partWrite_of_sound {s : State} {m v p wd : Nat} {b : Blk} (ho : s.opens m gangPage.page 0x220 b)
    (hp : p = s.g b MAC_PT_SEL_partition) (hwd : wd = s.g b MAC_PT_SEL_word) (hrow : ptWriter m p)
    (hidle : wd ∈ [1, 2, 3, 5] → s.listsIdle p) (hT : wd = 0 → bit v 24 → s.otherT p = false)
    (hok : tblOk .macPart wd v) (hal : wd = 1 ∨ wd = 3 → bits v 0 48 % 4096 = 0) :
    s.partWrite m v = s.storeTw .macPart 0 p wd v := by
  have hstill : ¬((wd = 1 ∨ wd = 2 ∨ wd = 3 ∨ wd = 5) ∧ !s.listsIdle p) := fun ⟨hw, hbusy⟩ => by
    simp [hidle (by simpa using hw)] at hbusy
  have hone : ¬(wd = 0 ∧ bit v 24 ∧ s.otherT p) := fun ⟨hw, hb, ht⟩ => by simp [hT hw hb] at ht
  have hsound : ¬(!tblOk .macPart wd v ∨ ((wd = 1 ∨ wd = 3) ∧ bits v 0 48 % 4096 ≠ 0)) := by
    rintro (h | ⟨hw, h⟩)
    · simp [hok] at h
    · exact h (hal hw)
  rw [State.partWrite, onWrite_of_opens ho]
  simp only [← hp, ← hwd, hrow, if_neg hstill, if_neg hone, if_neg hsound, Bool.not_true, Bool.false_eq_true, if_false]

/-- Settles O34: each command and each write passes the checks that the clause names. -/
theorem trainingRows : Obligations.TrainingRows := by
  refine ⟨fun m v s b ho hop hrow hret => ?_, fun m v s b ho hop hrow => ?_,
    fun m v s b p i wd t ho hp hwd ht hi hrow hrw hidle ⟨hok, hal⟩ => ?_,
    fun m v s b p wd ho hp hwd hrow hidle hT hok hal => ?_⟩
  · rw [exec_releaseRetention, execReleaseRetention, trainCommand_release ho hop hrow hret, State.done]
  · rw [exec_clearGrad, execClearGrad, trainCommand_clearGrad ho hop hrow, State.done]
  · rw [exec_trainEntryWrite, execTrainEntryWrite,
      trainWrite_of_sound ho hp hwd ht hi hrow hrw hidle hok hal, State.done]
  · rw [exec_partitionEntryWrite, execPartitionEntryWrite,
      partWrite_of_sound ho hp hwd hrow hidle hT hok hal, State.done]

end Sys2Proof.Machine

/-! # One step

O1. What a step does is the definition of `step`, read at a queue with a front and at an empty one. -/

namespace Sys2Proof.Machine

/-- A step of a part with a command waiting carries that command out on the queue's rest. -/
theorem step_of_front {s : State} {c : Instr} {q : List Instr} (h : s.pending = c :: q) :
    step s = exec c (s.queue q) := by
  simp only [step, h]

/-- A part with no command waiting idles (the model's choice, log entry 26). -/
theorem step_of_empty {s : State} (h : s.pending = []) : step s = .next s := by
  simp only [step, h]

/-- Settles O1: the two cases of the queue. -/
theorem stepTakesFront : Obligations.StepTakesFront :=
  ⟨fun _ _ _ h => step_of_front h, fun _ h => step_of_empty h⟩

end Sys2Proof.Machine

/-! # The Chrysalis

O35. A command that the slot's checks let through, whose rule accepts it, takes its rule's effect; whether its status is
shown at once or waits for an engine is the op's matter alone (`chrEngine`). That the effect stands at the command, and
only the status waits, is the model's choice (log entry 11). -/

namespace Sys2Proof.Machine

/-! ## Commands of a slot -/

/-- A command that the slot takes from its own function, that is not busy and whose buffers are awake, runs; where its
rule accepts it, its status is shown, or waits for the op's engine (R381). -/
theorem chrCommand_of_ok {s : State} {m slot v : Nat} {b : Blk} {r : Code × State} (hs : slot < 17)
    (ho : s.opens m Blk.chr.page (0x200 + 0x20 * slot) b) (hm : mst m = 0x10 + slot)
    (ht : slotTakes slot (chrOp v) = true) (hb : bit (s.reg b (0x218 + 0x20 * slot)) 8 = false)
    (hop : chrOp v ≠ 0 ∧ chrOp v ≤ 14) (ha : s.chrAsleep slot (chrOp v) = false) (hr : s.chrRun m slot v = r)
    (hok : r.1 = .ok) :
    s.chrCommand m slot v =
      (chrEngine (chrOp v)).elim (r.2.finish b (0x218 + 0x20 * slot) .ok) fun e =>
        (r.2.setBusy b (0x218 + 0x20 * slot)).addJob ⟨.chr, b.page, 0x218 + 0x20 * slot, .ok, e, slot, m⟩ := by
  obtain ⟨c, t⟩ := r
  obtain rfl : c = .ok := hok
  have hown : (if slot = 0 then 0x10 else 0x10 + slot) = 0x10 + slot := by
    split <;> omega
  have hop' : ¬(chrOp v = 0 ∨ 14 < chrOp v) := by omega
  simp only [State.chrCommand, onWrite_of_opens ho, hown, hm, ht, hb, ha, hr, Nat.not_le.2 hs, hop', ne_eq, not_true,
    Bool.not_true, Bool.false_eq_true, if_false, Code.refuses]
  cases chrEngine (chrOp v) <;> rfl

/-- The operator's slot takes every op but the tenants' KEY_IMPORT and UNWRAP (R381). -/
theorem slotTakes_operator {op : Nat} (h8 : op ≠ 8) (h9 : op ≠ 9) : slotTakes 0 op = true := by
  simp [slotTakes, h8, h9]

/-- Every slot takes RESET and ATTEST (R381). -/
theorem slotTakes_shared {op : Nat} (slot : Nat) (h : op = 4 ∨ op = 10) : slotTakes slot op = true := by
  rcases h with rfl | rfl <;> simp [slotTakes]

/-- A tenant's slot takes KEY_IMPORT and UNWRAP (R381). -/
theorem slotTakes_tenant {slot op : Nat} (hs : slot ≠ 0) (h : op = 8 ∨ op = 9) : slotTakes slot op = true := by
  rcases h with rfl | rfl <;> simp [slotTakes, hs]

/-! ## Ends of commands, regions and the noise source -/

/-- The engine's next slot in cyclic order is told the code of its command (R381). -/
theorem chrDone_of_slot {s u : State} {e slot : Nat} {j : Job}
    (hn : nextSlot (s.sec.turns.getD e 16) ((s.jobs.filter fun x => x.kind == .chr && x.a == e).map (·.b)) = some slot)
    (hj : (s.jobs.filter fun x => x.kind == .chr && x.a == e).find? (·.b == slot) = some j)
    (hu : u = (s.dropJob .chr j.page j.off).finish .chr j.off j.code) : s.chrDone e = u.tookTurn e slot := by
  simp only [State.chrDone, hn, hj, hu]

/-- A region being erased that no failed zeroing holds back takes the word whether it reads as zero (R367, R390). -/
theorem regionZeroed_erasing {s : State} {r : BitVec 10} (he : s.tb .chrRegion 0 r.toNat chrRegion_erasing)
    (hu : s.sec.unzeroed.contains r.toNat = false) (ok : Bool) :
    exec (.regionZeroed r ok) s = State.done
      (if !ok then s.eraseFailed r.toNat
      else (((s.setSpace (s.t .chrRegion 0 r.toNat chrRegion_space)
        (memZero (s.space (s.t .chrRegion 0 r.toNat chrRegion_space)) (s.t .chrRegion 0 r.toNat chrRegion_base)
          (s.t .chrRegion 0 r.toNat chrRegion_length))).setTw .chrRegion 0 r.toNat 2 (2 ^ 5)).setRegionAcl
            r.toNat []).freePart (s.t .chrRegion 0 r.toNat chrRegion_partition)) := by
  rw [exec_regionZeroed, execRegionZeroed]
  simp only [he, hu, Bool.not_true, Bool.or_self, Bool.false_eq_true, if_false]

/-- Settles O35: each command passes its slot's checks, and its op says which rule runs and which engine it waits for.
That the effect stands at the command while its code waits is the model's choice (log entry 11). -/
theorem chrysalisCommandRows : Obligations.ChrysalisCommandRows := by
  refine ⟨fun m c v s b i k r hi hk hc ho hm hb ht ha hok => ?_, fun m c v s b i k e r hi hk hc ho hm hb ht ha hok => ?_,
    fun e s u c j hn hj hu => ?_, fun r s sp he hu hsp => ?_, fun r s he hu => ?_, fun s => ?_⟩
  · simp only [List.mem_cons, List.not_mem_nil, or_false, Prod.mk_inj] at hi
    obtain ⟨hx, hr, he, hop, h89⟩ : exec i s = (s.chrCommand m.toNat c.toNat v.toNat).done ∧
        s.chrRun m.toNat c.toNat v.toNat = r ∧ chrEngine k = none ∧ (k ≠ 0 ∧ k ≤ 14) ∧ k ≠ 8 ∧ k ≠ 9 := by
      rcases hi with ⟨rfl, rfl, rfl⟩ | ⟨rfl, rfl, rfl⟩ | ⟨rfl, rfl, rfl⟩ | ⟨rfl, rfl, rfl⟩ | ⟨rfl, rfl, rfl⟩ |
          ⟨rfl, rfl, rfl⟩ | ⟨rfl, rfl, rfl⟩ <;>
        exact ⟨rfl, by simp only [State.chrRun, hk], by decide⟩
    have hst : slotTakes c.toNat k = true := ht.elim (fun h0 => h0 ▸ slotTakes_operator h89.1 h89.2)
      fun h4 => slotTakes_shared _ (.inl h4)
    subst hk
    rw [hx, chrCommand_of_ok hc ho hm hst hb hop ha hr hok, he, Option.elim, State.done]
  · simp only [List.mem_cons, List.not_mem_nil, or_false, Prod.mk_inj] at hi
    obtain ⟨hx, hr, he, hop⟩ : exec i s = (s.chrCommand m.toNat c.toNat v.toNat).done ∧
        s.chrRun m.toNat c.toNat v.toNat = r ∧ chrEngine k = some e ∧ (k ≠ 0 ∧ k ≤ 14) := by
      rcases hi with ⟨rfl, rfl, rfl, rfl⟩ | ⟨rfl, rfl, rfl, rfl⟩ | ⟨rfl, rfl, rfl, rfl⟩ | ⟨rfl, rfl, rfl, rfl⟩ |
          ⟨rfl, rfl, rfl, rfl⟩ | ⟨rfl, rfl, rfl, rfl⟩ | ⟨rfl, rfl, rfl, rfl⟩ <;>
        exact ⟨rfl, by simp only [State.chrRun, hk], by decide⟩
    have hst : slotTakes c.toNat k = true := by
      rcases ht with ⟨h0, h8, h9⟩ | ⟨h0, h8 | h9 | h10⟩
      · exact h0 ▸ slotTakes_operator h8 h9
      · exact slotTakes_tenant h0 (.inl h8)
      · exact slotTakes_tenant h0 (.inr h9)
      · exact slotTakes_shared _ (.inr h10)
    subst hk
    rw [hx, chrCommand_of_ok hc ho hm hst hb hop ha hr hok, he, Option.elim, State.done]
  · rw [exec_chrCmdDone, execChrCmdDone, chrDone_of_slot hn hj hu]
  · rw [regionZeroed_erasing he hu, if_neg (by decide), State.done, hsp]
  · rw [regionZeroed_erasing he hu, if_pos (by decide), State.done, State.eraseFailed]
  · rw [exec_entropyFail, execEntropyFail, State.done]

end Sys2Proof.Machine

/-! # The test port and the Proboscis

O36. Each message has an equation for the case that a clause names, proved once from the message's definition; a clause
is that equation behind the guard that the Proboscis is selected. -/

namespace Sys2Proof.Machine

/-- READ of a range that the level reaches and whose target answers (R386). -/
theorem dbgFetch_of_reach {s : State} {sp a n : Nat} (hb : dbgBad sp a n false = false)
    (hr : s.reaches sp a n false) (ht : s.dbgTarget sp a n = .ok) :
    s.dbgFetch sp a n = s.reply 4 .ok
      (if sp = 0 then (upTo n).map fun i => s.dbgReg (a + 4 * i)
      else (upTo n).map fun i => ofLeBytes (s.readSpace (sp - 1) (a + 4 * i) 4)) := by
  simp only [State.dbgFetch, hb, hr, ht, Bool.not_true, Bool.false_eq_true, if_false]

/-- WRITE to a range that the level reaches and whose target answers (R386). -/
theorem dbgStore_of_reach {s : State} {sp a : Nat} {ws : List Nat} {r : Code × State}
    (hb : dbgBad sp a ws.length true = false) (hr : s.reaches sp a ws.length true)
    (ht : s.dbgTarget sp a ws.length = .ok)
    (he : r = if sp = 0 then State.dbgRegs ws a s else (.ok, s.writeSpace (sp - 1) a (ws.flatMap (leBytes 4)))) :
    s.dbgStore sp a ws = r.2.reply 5 r.1 [] := by
  simp only [State.dbgStore, hb, hr, ht, ← he, Bool.not_true, Bool.false_eq_true, if_false]

/-- HALT of what the level lets a message halt (R387). -/
theorem dbgHaltMsg_of_may {s : State} {p : Nat} (hp : p < 16 ∨ p = 0xFF) (hm : s.mayHalt p) :
    s.dbgHaltMsg p =
      (if p = 0xFF then ((upTo 16).foldl State.haltPart s).p .dbg DBG_STATUS_all_halted 1
      else s.haltPart p).reply 6 .ok [] := by
  rw [State.dbgHaltMsg, if_neg (by omega), if_neg (by simp [hm])]

/-- RESUME of what the level lets a message halt (R387). -/
theorem dbgResumeMsg_of_may {s : State} {p : Nat} (hp : p < 16 ∨ p = 0xFF) (hm : s.mayHalt p) :
    s.dbgResumeMsg p =
      (if p = 0xFF then ((upTo 16).foldl State.debugResume s).p .dbg DBG_STATUS_all_halted 0
      else s.debugResume p).reply 7 .ok [] := by
  rw [State.dbgResumeMsg, if_neg (by omega), if_neg (by simp [hm])]

/-- CHALLENGE while the noise source works answers the fresh nonce in sixteen words (R384). -/
theorem dbgNonce_of_entropy {s : State} (h : s.sec.entropyBad = false) :
    s.dbgNonce = s.newChallenge.2.reply 2 .ok
      ((upTo 16).map fun i => ofLeBytes (slice (4 * i) 4 s.newChallenge.1)) := by
  rw [State.dbgNonce, if_neg (by simp [h])]

/-- Settles O36: the port is powered, or the Proboscis selected, and the message is one that its level allows. -/
theorem proboscisRows : Obligations.ProboscisRows := by
  refine ⟨fun ir s h => ?_, fun s => ?_, fun s h => ?_, fun s h he => ?_, fun tok s h => ?_,
    fun sp a n s h hb hr ht => ?_, fun sp a d s r h hb hr ht he => ?_, fun p s h hp hm => ?_, fun p s h hp hm => ?_,
    fun s h => ?_⟩
  · rw [exec_tapInstruction, execTapInstruction, if_pos h]
  · rw [exec_tapReset, execTapReset, State.done]
  · rw [exec_hello, execHello, if_pos h]
  · rw [exec_dbgChallenge, execDbgChallenge, if_pos h, dbgNonce_of_entropy he]
  · rw [exec_token, execToken, if_pos h, State.done]
  · rw [exec_dbgRead, execDbgRead, if_pos h, dbgFetch_of_reach hb hr ht, State.done]
  · have hl : (d.map (·.toNat)).length = d.length := List.length_map _
    rw [← hl] at hb hr ht
    rw [exec_dbgWrite, execDbgWrite, if_pos h, dbgStore_of_reach hb hr ht he, State.done]
  · rw [exec_dbgHalt, execDbgHalt, if_pos h, dbgHaltMsg_of_may hp hm, State.done]
  · rw [exec_dbgResume, execDbgResume, if_pos h, dbgResumeMsg_of_may hp hm, State.done]
  · rw [exec_dbgEnd, execDbgEnd, if_pos h, State.done]

end Sys2Proof.Machine

/-! # Boot

O37. Each pin's edge and each instar is its definition past its own guard. -/

namespace Sys2Proof.Machine

/-- Instar 0 outside recovery mode ends with boot standing before Instar 1 (R394). -/
theorem instar0_of_sound {s : State} {bad : List Nat} (h : ((s.pickSlots bad).bootAlias).boot.recovery = false) :
    s.instar0 bad = (((s.pickSlots bad).bootAlias).p .pwr PWR_BOOT_instar 1).setDone 1 := by
  simp only [State.instar0, h, Bool.false_eq_true, if_false]

/-- Settles O37: the pin was low, or boot stands before the instar. -/
theorem bootRows : Obligations.BootRows := by
  refine ⟨fun s h => ?_, fun s => ?_, fun s h => ?_, fun s => ?_, fun bad s h hr => ?_, fun s h => ?_,
    fun bad hf s h => ?_, fun s h => ?_, fun ms s h hr => ?_, fun s h => ?_⟩
  · rw [exec_pwrgdRise, execPwrgdRise, if_neg (by simp [h])]
  · rw [exec_pwrgdFall, execPwrgdFall]
  · rw [exec_resetN, execResetN, if_pos rfl, if_neg (by simp [h])]
  · rw [exec_resetN, execResetN, if_neg (by decide)]
  · rw [exec_instar0, execInstar0, if_pos h, instar0_of_sound hr, State.done]
  · rw [exec_instar1, execInstar1, if_pos h, State.done]
  · rw [exec_instar2, execInstar2, if_pos h, State.done]
  · rw [exec_instar3, execInstar3, if_pos h, State.done]
  · rw [exec_eclosion, execEclosion, if_pos ⟨h, hr⟩, State.done]
  · rw [exec_thoraxBootTimeout, execThoraxBootTimeout, if_pos h, State.done]

end Sys2Proof.Machine

/-! # Power

O38. A power command that the page takes is its start in the power state; the events end what a command began, and each
reading of the governor, the sensors and the regulators is its definition past its own guard. -/

namespace Sys2Proof.Machine

/-- A power command that the page takes, not busy, and that the power state allows starts (R399). -/
theorem pwrCommand_of_ok {s : State} {m v k : Nat} {b : Blk} {r : Code × State} (hk : bits v 0 3 = k)
    (h1 : k ≠ 0 ∧ k ≤ 4) (ho : s.opens m Blk.pwr.page PWR_CMD_op.off b) (hb : s.gb b PWR_STATE_busy = false)
    (hr : r = s.pwrRun m k) (hok : r.1 = .ok) : s.pwrCommand m v = r.2 := by
  obtain ⟨c, t⟩ := r
  obtain rfl : c = .ok := hok
  have hop : ¬(k = 0 ∨ 4 < k) := by omega
  simp only [State.pwrCommand, onWrite_of_opens ho, State.pwrTake, hk, hb, hop, ← hr, Code.refuses, Bool.false_eq_true,
    if_false]

/-- REPAIR of a row within the stack, while the stack has repairs left and none runs, starts (R405). -/
theorem hbmCommand_of_ok {s : State} {m pg v h a : Nat} (hp : s.blk pg = some (.hbm h))
    (ho : s.opens m pg HBM_CMD_op.off (.hbm h)) (hb : bit (s.reg (.hbm h) HBM_CMD_STATUS_code.off) 8 = false)
    (hv : bits v 0 2 = 1) (ha : a = s.g (.hbm h) HBM_CMD_ADDR_addr) (hlt : a < 36 * 10 ^ 9)
    (hrows : s.g (.hbm h) HBM_REPAIRS_rows < 256) :
    s.hbmCommand m pg v = (s.setBusy (.hbm h) HBM_CMD_STATUS_code.off).addJob
      ⟨.hbmRepair, (Blk.hbm h).page, HBM_CMD_STATUS_code.off, .ok, h, a, m⟩ := by
  have harg : ¬(bits v 0 2 ≠ 1 ∨ 36 * 10 ^ 9 ≤ a) := by omega
  simp only [State.hbmCommand, hp, onWrite_of_opens ho, hb, ← ha, harg, Nat.not_le.2 hrows, Bool.false_eq_true, if_false]

/-- The end of a stack's repair in progress. -/
theorem hbmRepairDone_of_job {s : State} {pg : Pg} {h : Nat} {j : Job} (hp : s.blk pg.toNat = some (.hbm h))
    (hj : s.job .hbmRepair (Blk.hbm h).page HBM_CMD_STATUS_code.off = some j) (ok : Bool) :
    exec (.hbmRepairDone pg ok) s = State.done
      (if ok then ((((s.dropJob .hbmRepair (Blk.hbm h).page HBM_CMD_STATUS_code.off).addRepair j.a j.b).eraseAgain
          j.a j.b).inc (.hbm h) HBM_REPAIRS_rows).finish (.hbm h) HBM_CMD_STATUS_code.off .ok
      else (((s.dropJob .hbmRepair (Blk.hbm h).page HBM_CMD_STATUS_code.off).refuse j.asker (.hbm h) HBM_CMD_op.off
          .noResource).finish (.hbm h) HBM_CMD_STATUS_code.off .noResource).raise (.hbm h) cHBM_REPAIR_EXHAUSTED) := by
  simp only [exec_hbmRepairDone, execHbmRepairDone, hp, hj]

/-- The end of a capture of the boot profile in progress. -/
theorem saveProfileDone_of_job {s : State} {j : Job} (hj : s.job .saveProfile Blk.pwr.page 0 = some j) (ok : Bool) :
    exec (.saveProfileDone ok) s = State.done
      (if ok then (((s.dropJob .saveProfile Blk.pwr.page 0).p .pwr PWR_STATE_busy 0).commitProfile).finish .pwr
          PWR_CMD_STATUS_code.off .ok
      else (((s.dropJob .saveProfile Blk.pwr.page 0).p .pwr PWR_STATE_busy 0).finish .pwr PWR_CMD_STATUS_code.off
          .integrity).raise .pwr cCFG_WRITE_FAIL) := by
  simp only [exec_saveProfileDone, execSaveProfileDone, hj]

/-- A move to Diapause ends once the part sleeps, any other move at once (R399, R401). -/
theorem powerTransitionDone_of_job {s : State} {j : Job} (hj : s.job .powerMove Blk.pwr.page 0 = some j)
    (hd : j.a = 2 → s.boot.diapause = 2) : exec .powerTransitionDone s = (s.endMove j.a).done := by
  have hsleeps : ¬(j.a = 2 ∧ s.boot.diapause ≠ 2) := fun ⟨h2, hn⟩ => hn (hd h2)
  simp only [exec_powerTransitionDone, execPowerTransitionDone, hj, hsleeps, if_false]

/-- Settles O38: each command passes its page's checks, and each event finds what it ends. -/
theorem powerRows : Obligations.PowerRows := by
  refine ⟨fun m v s b i k r hi hk ho hb hr hok => ?_, fun s h => ?_, fun s j hj hd => ?_, fun s j hj => ?_,
    fun s j hj => ?_, fun r s => ?_, fun d t s h => ?_, fun m pg v s b h a hp he ho hb hv ha hlt hrows => ?_,
    fun pg s b h j hp he hj => ?_, fun pg s b h j hp he hj => ?_, fun reads s => ?_, fun bad s => ?_⟩
  · simp only [List.mem_cons, List.not_mem_nil, or_false, Prod.mk_inj] at hi
    obtain ⟨hx, hop⟩ : exec i s = (s.pwrCommand m.toNat v.toNat).done ∧ k ≠ 0 ∧ k ≤ 4 := by
      rcases hi with ⟨rfl, rfl⟩ | ⟨rfl, rfl⟩ | ⟨rfl, rfl⟩ | ⟨rfl, rfl⟩ <;> exact ⟨rfl, by decide⟩
    rw [hx, pwrCommand_of_ok hk hop ho hb hr hok, State.done]
  · rw [exec_diapauseDrainEnd, execDiapauseDrainEnd, if_pos h, State.done]
  · rw [powerTransitionDone_of_job hj hd, State.done]
  · rw [saveProfileDone_of_job hj, if_pos rfl, State.done]
  · rw [saveProfileDone_of_job hj, if_neg (by decide), State.done]
  · rw [exec_governorLoop, execGovernorLoop, State.done]
  · rw [exec_thermalTrip, execThermalTrip, if_pos h, State.done]
  · subst he
    rw [exec_repair, execRepair, hbmCommand_of_ok hp ho hb hv ha hlt hrows, State.done]
  · subst he
    rw [hbmRepairDone_of_job hp hj, if_pos rfl, State.done]
  · subst he
    rw [hbmRepairDone_of_job hp hj, if_neg (by decide), State.done]
  · rw [exec_pmbusPoll, execPmbusPoll, State.done]
  · rw [exec_pmbAlert, execPmbAlert, State.done]

end Sys2Proof.Machine

/-! # Firmware

O39. A command of the firmware's page runs its op on the slots; WRITE leaves the page busy, and every other op shows its
status at once. The events find the page that runs firmware. -/

namespace Sys2Proof.Machine

/-- A firmware command that its page takes, not busy, and that the slots' state allows has its effect (R397). -/
theorem fwCommand_of_ok {s : State} {m pg v : Nat} {b : Blk} {r : Code × State} (hop : bits v 0 3 ≠ 0 ∧ bits v 0 3 ≤ 6)
    (hp : s.blk pg = some b) (hs : b.isSteward ∨ b = .thx) (ho : s.opens m pg (fw b FW_CMD_op).off b)
    (hb : bit (s.reg b (fw b FW_CMD_STATUS_code).off) 8 = false) (hm : bits v 0 3 = 1 → s.fwMay m b)
    (hr : r = s.fwRun m b v) (hok : r.1 = .ok) :
    s.fwCommand m pg v =
      if bits v 0 3 = 1 then r.2.setBusy b (fw b FW_CMD_STATUS_code).off
      else r.2.finish b (fw b FW_CMD_STATUS_code).off .ok := by
  obtain ⟨c, t⟩ := r
  obtain rfl : c = .ok := hok
  have hfw : (b.isSteward || b == .thx) = true := by simpa using hs
  have hlisted : ¬(bits v 0 3 = 0 ∨ 6 < bits v 0 3) := by omega
  have hmay : ¬(bits v 0 3 = 1 ∧ (!s.fwMay m b) = true) := fun ⟨h1, hn⟩ => by simp [hm h1] at hn
  simp only [State.fwCommand, hp, hfw, onWrite_of_opens ho, hb, hlisted, hmay, ← hr, Code.refuses, Bool.not_true,
    Bool.false_eq_true, if_false]

/-- FW_WRITE_DONE of an image that passed its checks stages it (R397). -/
theorem fwWriteDone_of_sound {s : State} {pg : Pg} {b : Blk} {j : Job} (hp : s.fwPage pg.toNat = some b)
    (hj : s.job .fwWrite b.page 0 = some j) (hc : j.code = .ok) :
    exec (.fwWriteDone pg) s = State.done
      (((s.dropJob .fwWrite b.page 0).endWrite b j).finish b (fw b FW_CMD_STATUS_code).off .ok) := by
  simp only [exec_fwWriteDone, execFwWriteDone, hp, hj, hc, Code.refuses, Bool.false_eq_true, if_false]

/-- FW_READY brings the page of the running firmware back (R397, R398). -/
theorem fwReady_of_page {s : State} {pg : Pg} {b : Blk} (hp : s.fwPage pg.toNat = some b) :
    exec (.fwReady pg) s = State.done
      (if b = .thx then (s.p b (fw b FW_SLOTS_ready) 1).thxServes
      else ((s.p b (fw b FW_SLOTS_ready) 1).trained b).followAll b) := by
  simp only [exec_fwReady, execFwReady, hp]

/-- Firmware in TRIAL that is not ready in time falls back to the committed slot (R397). -/
theorem fwTrialTimeout_of_trial {s : State} {pg : Pg} {b : Blk} (hp : s.fwPage pg.toNat = some b)
    (ht : s.g b (fw b FW_SLOTS_state) = 2) :
    exec (.fwTrialTimeout pg) s = State.done
      ((((s.p b (fw b FW_SLOTS_state) 1).fwRestart b (s.g b (fw b FW_SLOTS_committed))).inc b
        (fw b FW_FALLBACKS_count)).raise b (if b = .thx then cFW_FALLBACK_thx else cFW_FALLBACK_stw)) := by
  simp only [exec_fwTrialTimeout, execFwTrialTimeout, hp, ht, if_true]

/-- Settles O39: each command passes its page's checks, and each event finds the firmware's page. -/
theorem firmwareRows : Obligations.FirmwareRows := by
  refine ⟨fun m pg v s b i k r hi hk hp hs ho hb hr hok => ?_, fun m pg v s b r hk hp hs ho hb hm hr hok => ?_,
    fun pg s b j hp hj hc => ?_, fun pg s u b hp hu => ?_, fun pg s b hp ht => ?_⟩
  · simp only [List.mem_cons, List.not_mem_nil, or_false, Prod.mk_inj] at hi
    obtain ⟨hx, hop⟩ : exec i s = (s.fwCommand m.toNat pg.toNat v.toNat).done ∧ 1 < k ∧ k ≤ 6 := by
      rcases hi with ⟨rfl, rfl⟩ | ⟨rfl, rfl⟩ | ⟨rfl, rfl⟩ | ⟨rfl, rfl⟩ | ⟨rfl, rfl⟩ <;> exact ⟨rfl, by decide⟩
    rw [hx, fwCommand_of_ok (by omega) hp hs ho hb (by omega) hr hok, if_neg (by omega), State.done]
  · rw [exec_fwWrite, execFwWrite, fwCommand_of_ok (by omega) hp hs ho hb (fun _ => hm) hr hok, if_pos hk, State.done]
  · rw [fwWriteDone_of_sound hp hj hc, State.done]
  · rw [fwReady_of_page hp, State.done, hu]
  · rw [fwTrialTimeout_of_trial hp ht, State.done]

end Sys2Proof.Machine

/-! # The management port

O45. Each request of the port is `request` at its opcode, its number of arguments and its meaning: the framing and the
mode are checked there once. -/

namespace Sys2Proof.Machine

/-- A recovery command is one from 0x40 on: the mode that takes a request is recovery for those, and the running Thorax
for the others (R395, R456). -/
theorem reqMode_iff (s : State) (op : Nat) :
    s.reqMode op = true ↔ (s.boot.recovery = true ∧ 0x40 ≤ op) ∨ (s.boot.recovery = false ∧ s.thxUp = true ∧ op < 0x40) := by
  unfold State.reqMode
  cases s.boot.recovery <;> simp

/-- A sound request in the mode that takes it, with the arguments its command takes, is counted, carried out and
answered (R455). -/
theorem request_of_sound {s : State} {op : Nat} {req : List Byte} {n : Option Nat}
    {f : List Byte → State → Code × List Byte × State} {r : Code × List Byte × State} (hp : s.pins.pwrgd)
    (hs : reqSound op req) (hm : s.reqMode op) (hn : n ∈ [none, some (ofLeBytes (req.take 2))])
    (hr : f (slice 2 (ofLeBytes (req.take 2)) req) (s.inc .thx THX_I3C_CMDS_count) = r) :
    s.request op req n f = r.2.2.i3c op r.1 r.2.1 := by
  simp only [reqSound, Bool.and_eq_true, beq_iff_eq] at hs
  obtain ⟨hlen, hcrc⟩ := hs
  obtain ⟨hlow, hup, hhigh⟩ : ¬(s.boot.recovery = true ∧ op < 0x40) ∧
      ¬((!s.boot.recovery) = true ∧ (!s.thxUp) = true) ∧ ¬((!s.boot.recovery) = true ∧ 0x40 ≤ op) := by
    rcases (reqMode_iff s op).1 hm with ⟨hrec, hop⟩ | ⟨hrec, hup, hop⟩
    · simp [hrec, hop]
    · simp [hrec, hup, hop]
  have hargs : n.any (· != ofLeBytes (req.take 2)) = false := by
    simp only [List.mem_cons, List.not_mem_nil, or_false] at hn
    rcases hn with rfl | rfl <;> simp
  simp only [State.request, hp, hlen, hcrc, hlow, hup, hhigh, hargs, hr, ne_eq, not_true, Bool.not_true,
    Bool.false_eq_true, if_false]

/-- Settles O45: each request is the port's `request` of its opcode. That IBI_RETRY speaks of the interrupt that has
waited longest is the model's choice (log entry 143). -/
theorem managementRows : Obligations.ManagementRows := by
  refine ⟨fun a s u i k r d hi hu hd hp hs hm hn => ?_, fun k s b l h => ?_, fun a s h => ?_⟩
  · simp only [List.mem_cons, List.not_mem_nil, or_false, Prod.mk_inj] at hi
    obtain ⟨f, he, hf⟩ : ∃ f, exec i s = (s.request k.1 a k.2 f).done ∧ f d u = r := by
      rcases hi with ⟨rfl, rfl, rfl⟩ | ⟨rfl, rfl, rfl⟩ | ⟨rfl, rfl, rfl⟩ | ⟨rfl, rfl, rfl⟩ | ⟨rfl, rfl, rfl⟩ |
          ⟨rfl, rfl, rfl⟩ | ⟨rfl, rfl, rfl⟩ | ⟨rfl, rfl, rfl⟩ | ⟨rfl, rfl, rfl⟩ | ⟨rfl, rfl, rfl⟩ |
          ⟨rfl, rfl, rfl⟩ | ⟨rfl, rfl, rfl⟩ <;>
        exact ⟨_, rfl, rfl⟩
    subst hu hd
    rw [he, request_of_sound hp hs hm hn hf, State.done]
  · rw [exec_ibiRetry, execIbiRetry]
    simp only [State.ibiAnswer, h]
  · rw [exec_dynamicAddressAssignment, execDynamicAddressAssignment, if_pos h]

end Sys2Proof.Machine

/-! # The command rings

O43. A ring's turn is taken in one equation of `ringServe`; an opcode's row is that equation at the operation that the
opcode runs. -/

namespace Sys2Proof.Machine

/-- A well-formed command of the ring whose turn it is, the Thorax serving, is taken and carried out: it completes with
its record, or its ring waits on a status register (R448, R449). -/
theorem ringServe_of_turn {s u : State} {r op : Nat} {w : List Nat} {x : Code × Nat × Option (Nat × Nat) × State}
    {f : Nat → List Nat → State → Code × Nat × Option (Nat × Nat) × State} (hn : s.nextRing = some r)
    (hw : w = s.ringCmd r) (hop : bits (w.getD 0 0) 0 8 = op) (hu : u = s.ringTake r)
    (hr : u.boot.thxRestart = false) (hb : ringBad w = false) (hx : f (u.ringMst r) w u = x) :
    s.ringServe r op f = x.2.2.1.elim (x.2.2.2.ringRecord r op (bits (w.getD 0 0) 32 32) x.1 x.2.1) fun e =>
      x.2.2.2.ringHold r e.1 e.2 (bits (w.getD 0 0) 32 32) := by
  subst hw hu
  simp only [State.ringServe, hn, hop, hr, hb, hx, ne_eq, not_true, false_and, or_self, Bool.false_eq_true, if_false]
  cases x.2.2.1 <;> rfl

/-- A ring that waits on a status register which shows busy 0 gets its record (R449). -/
theorem waitDone_of_idle {s : State} {r pg st tag v : Nat}
    (hw : (s.hst.waits.find? fun e => e.1 == r) = some (r, pg, st, tag))
    (hv : v = (s.regRead (s.ringMst r) pg st).2.1) (hb : bit v 8 = false) :
    s.waitDone r = (s.ringFree r).ringRecord r 2 tag (Code.ofVal (bits v 0 8)) v := by
  simp only [State.waitDone, hw, ← hv, hb, Bool.false_eq_true, if_false]

/-- Settles O43: the turn is the ring's, and its opcode names the operation that is carried out. -/
theorem ringCommandRows : Obligations.RingCommandRows := by
  refine ⟨fun r s u i k w x hi hn hw hop hu hr hb hx => ?_, fun r s u w x e hn hw hop hu hr hb hx he => ?_,
    fun r s pg st tag v hw hv hb => ?_, fun r s h => ?_⟩
  · simp only [List.mem_cons, List.not_mem_nil, or_false, Prod.mk_inj] at hi
    obtain ⟨f, he, hf⟩ : ∃ f, exec i s = (s.ringServe r.toNat k f).done ∧ f (u.ringMst r.toNat) w u = x := by
      rcases hi with ⟨rfl, rfl, rfl⟩ | ⟨rfl, rfl, rfl⟩ | ⟨rfl, rfl, rfl⟩ | ⟨rfl, rfl, rfl⟩ | ⟨rfl, rfl, rfl⟩ |
          ⟨rfl, rfl, rfl⟩ | ⟨rfl, rfl, rfl⟩ | ⟨rfl, rfl, rfl⟩ | ⟨rfl, rfl, rfl⟩ <;>
        exact ⟨_, rfl, rfl⟩
    rw [he, ringServe_of_turn hn hw hop hu hr hb hf, hx, Option.elim, State.done]
  · rw [exec_regWrite, execRegWrite, ringServe_of_turn hn hw hop hu hr hb hx.symm, he, Option.elim, State.done]
  · rw [exec_ringWaitDone, execRingWaitDone, waitDone_of_idle hw hv hb, State.done]
  · rw [exec_ringCoalTimer, execRingCoalTimer, if_pos h]

end Sys2Proof.Machine

/-! # The error record of a page

O52 and O53. What a page's error record holds of one class is a value. An operation on the record changes that value of
the class that it names and leaves every other class as it was, so an event and an acknowledgement are sequences of such
changes. -/

namespace Sys2Proof

/-! ## Bits of a put field -/

/-- A bit is a field of one bit. -/
theorem bit_eq_bits (n i : Nat) : bit n i = (bits n i 1 == 1) := rfl

/-- The one bit that was put reads as what was put. -/
theorem bit_putBits_same (n i : Nat) (v : Bool) : bit (putBits n i 1 (b2n v)) i = v := by
  rw [bit_eq_bits, bits_putBits_same]
  cases v <;> rfl

/-- A bit outside the field that was put is as it was. -/
theorem bit_putBits_other (n lo w v : Nat) {i : Nat} (h : i < lo ∨ lo + w ≤ i) :
    bit (putBits n lo w v) i = bit n i := by
  rw [bit_eq_bits, bit_eq_bits]
  rcases h with h | h
  · rw [bits_putBits_below n lo w v i 1 h]
  · rw [bits_putBits_above n lo w v i 1 h]

/-- A bit of a field that starts at bit 0 is the word's. -/
theorem bit_bits_zero (n : Nat) {w i : Nat} (h : i < w) : bit (bits n 0 w) i = bit n i := by
  obtain ⟨k, rfl⟩ := Nat.exists_eq_add_of_lt h
  have hp : 2 ^ (i + k + 1) = 2 ^ i * (2 * 2 ^ k) := by ring
  unfold bit bits
  rw [Nat.pow_zero, Nat.div_one, hp, Nat.mod_mul_right_div_self, Nat.mod_mul_right_mod]

/-- The level and the repeat mark that a field of four bits holds (R410). -/
theorem level_of_field {n lo l : Nat} {e : Bool} (hl : l < 8) (h : bits n lo 4 = (l + 8 * b2n e) % 2 ^ 4) :
    bits n lo 3 = l ∧ bit n (lo + 3) = e := by
  have he : b2n e ≤ 1 := by cases e <;> decide
  have h4 : n / 2 ^ lo % 16 = l + 8 * b2n e := by
    rw [show n / 2 ^ lo % 16 = bits n lo 4 from rfl, h]
    omega
  have h3 : n / 2 ^ (lo + 3) = n / 2 ^ lo / 8 := by rw [Nat.pow_add, Nat.div_div_eq_div_mul]
  refine ⟨?_, ?_⟩
  · show n / 2 ^ lo % 8 = l
    omega
  · unfold bit
    rw [h3, show n / 2 ^ lo / 8 % 2 = b2n e by omega]
    cases e <;> rfl

end Sys2Proof

namespace Sys2Proof.Machine

/-! ## One class -/

/-- What a page's error record holds of a class: its latch, its level and its repeat mark (R410). -/
@[ext] structure ClsRec where
  latched : Bool
  level : Nat
  esc : Bool

/-- The record of a class on a page. -/
def State.clsRec (s : State) (b : Blk) (c : Nat) : ClsRec := ⟨bit (s.latched b) c, s.clsLevel b c, s.clsEsc b c⟩

/-- The register of a page that holds the level of a class. -/
def levelOff (c : Nat) : Nat := 0x740 + 8 * (c / 16)

/-- The latch of a class is its bit of ERR_STATUS. -/
theorem clsRec_latched (s : State) (b : Blk) {c : Nat} (h : c < 48) :
    (s.clsRec b c).latched = bit (s.reg b ERR_STATUS_local.off) c := bit_bits_zero _ h

/-- A class's record is as it was where its bit of ERR_STATUS and its level register are. -/
theorem clsRec_congr {s t : State} {b : Blk} {c : Nat} (hc : c < 48)
    (h1 : bit (t.reg b ERR_STATUS_local.off) c = bit (s.reg b ERR_STATUS_local.off) c)
    (h2 : bits (t.reg b (levelOff c)) (4 * (c % 16)) 3 = bits (s.reg b (levelOff c)) (4 * (c % 16)) 3)
    (h3 : bit (t.reg b (levelOff c)) (4 * (c % 16) + 3) = bit (s.reg b (levelOff c)) (4 * (c % 16) + 3)) :
    t.clsRec b c = s.clsRec b c := by
  rw [← clsRec_latched t b hc, ← clsRec_latched s b hc] at h1
  exact ClsRec.ext h1 h2 h3

/-- A register of a page is as it was after a write of another one of the page. -/
theorem reg_setReg_other {s : State} (h : s.Wf) (b : Blk) {off o : Nat} (ho : o < 0x2000) (hoff : off < 0x2000)
    (hne : o ≠ off) (v : Nat) : (s.setReg b off v).reg b o = s.reg b o := by
  rw [reg_setReg h, if_neg (regKey_ne ho hoff (.inr hne))]

/-- `t` is `s` with the record of class `i` of a page changed by `f`: the other classes of the page, its count of events
and the registers of every other page are as they were. -/
structure Changes (b : Blk) (i : Nat) (f : ClsRec → ClsRec) (s t : State) : Prop where
  wf : t.Wf
  count : t.g b ERR_EVENTS_count = s.g b ERR_EVENTS_count
  same : t.clsRec b i = f (s.clsRec b i)
  other : ∀ j < 48, j ≠ i → t.clsRec b j = s.clsRec b j
  pages : ∀ (c : Blk) (o : Nat), c.page ≠ b.page → o < 0x2000 → t.reg c o = s.reg c o

/-- Changes of one class follow one another. -/
theorem Changes.trans {b : Blk} {i : Nat} {f g : ClsRec → ClsRec} {s t u : State} (h : Changes b i f s t)
    (k : Changes b i g t u) : Changes b i (g ∘ f) s u where
  wf := k.wf
  count := k.count.trans h.count
  same := by rw [k.same, h.same, Function.comp]
  other j hj hn := (k.other j hj hn).trans (h.other j hj hn)
  pages c o hc ho := (k.pages c o hc ho).trans (h.pages c o hc ho)

/-- A state differs from itself in no class. -/
theorem Changes.refl {s : State} (h : s.Wf) (b : Blk) (i : Nat) : Changes b i id s s :=
  ⟨h, rfl, rfl, fun _ _ _ => rfl, fun _ _ _ _ => rfl⟩

/-- A change that writes no register of the page beside those of a class's own record, told by what it does to each of
those. -/
theorem changes_of_setReg {s : State} (h : s.Wf) (b : Blk) {i off v : Nat} {f : ClsRec → ClsRec}
    (ho : off < 0x2000) (hc : off ≠ ERR_EVENTS_count.off)
    (hs : (s.setReg b off v).clsRec b i = f (s.clsRec b i))
    (hn : ∀ j < 48, j ≠ i → (s.setReg b off v).clsRec b j = s.clsRec b j) : Changes b i f s (s.setReg b off v) where
  wf := wf_setReg h b off v
  count := congrArg (bits · 0 64) (reg_setReg_other h b (by decide) ho hc.symm v)
  same := hs
  other := hn
  pages c o hp hlt := by rw [reg_setReg h, if_neg (regKey_ne hlt ho (.inl hp))]

/-- A register that holds no class's latch or level changes no class's record. -/
theorem clsRec_setReg_aside {s : State} (h : s.Wf) (b : Blk) {off v j : Nat} (ho : off < 0x2000) (hj : j < 48)
    (h1 : off ≠ ERR_STATUS_local.off) (h2 : off ≠ levelOff j) : (s.setReg b off v).clsRec b j = s.clsRec b j := by
  have hl : levelOff j < 0x2000 := by unfold levelOff; omega
  have hr := reg_setReg_other h b hl ho h2.symm v
  exact clsRec_congr hj (by rw [reg_setReg_other h b (by decide) ho h1.symm v]) (by rw [hr]) (by rw [hr])

/-- The forced bits and the record of the latest latch are no class's latch or level. -/
theorem changes_aside {s : State} (h : s.Wf) (b : Blk) {i off : Nat} (hi : i < 48)
    (ho : off = H_FORCED_bits.off ∨ off = 0x758) (v : Nat) : Changes b i id s (s.setReg b off v) := by
  have hoff : off = 0x1000 ∨ off = 0x758 := ho
  have key (j : Nat) (hj : j < 48) : (s.setReg b off v).clsRec b j = s.clsRec b j :=
    clsRec_setReg_aside h b (by omega) hj (show off ≠ 0x28 by omega) (by unfold levelOff; omega)
  exact changes_of_setReg h b (by omega) (show off ≠ 0xA0 by omega) (key i hi)
    fun j hj _ => key j hj

theorem changes_forcedBit {s : State} (h : s.Wf) (b : Blk) {i : Nat} (hi : i < 48) (v : Nat) :
    Changes b i id s (s.p b ⟨H_FORCED_bits.off, i, 1⟩ v) := changes_aside h b hi (.inl rfl) _

theorem changes_setErrLast {s : State} (h : s.Wf) (b : Blk) {i : Nat} (hi : i < 48) (c l : Nat) (f : Option Nat) :
    Changes b i id s (s.setErrLast b c l f) := changes_aside h b hi (.inr rfl) _

/-- A class's bit of ERR_STATUS is its latch, and no other class's. -/
theorem changes_latch {s : State} (h : s.Wf) (b : Blk) {i : Nat} (hi : i < 48) (v : Bool) :
    Changes b i (fun r => { r with latched := v }) s (s.p b ⟨ERR_STATUS_local.off, i, 1⟩ (b2n v)) := by
  set w := putBits (s.reg b ERR_STATUS_local.off) i 1 (b2n v) with hw
  have hwlt : w < 2 ^ 64 := putBits_lt _ (reg_lt s b _) (by omega)
  have hr : (s.setReg b ERR_STATUS_local.off w).reg b ERR_STATUS_local.off = w := by
    rw [reg_setReg_same h, Nat.mod_eq_of_lt hwlt]
  have hl (j : Nat) (hj : j < 48) :
      (s.setReg b ERR_STATUS_local.off w).reg b (levelOff j) = s.reg b (levelOff j) :=
    reg_setReg_other h b (by unfold levelOff; omega) (by decide) (show levelOff j ≠ 0x28 by unfold levelOff; omega) w
  show Changes b i _ s (s.setReg b ERR_STATUS_local.off w)
  refine changes_of_setReg h b (by decide) (by decide) (ClsRec.ext ?_ ?_ ?_) fun j hj hn => ?_
  · rw [clsRec_latched _ b hi, hr, hw, bit_putBits_same]
  · exact congrArg (bits · (4 * (i % 16)) 3) (hl i hi)
  · exact congrArg (bit · (4 * (i % 16) + 3)) (hl i hi)
  · refine clsRec_congr hj ?_ (by rw [hl j hj]) (by rw [hl j hj])
    rw [hr, hw, bit_putBits_other _ _ _ _ (by omega)]

/-- A class's level and repeat mark stand in a field of their own. -/
theorem changes_setClsLevel {s : State} (h : s.Wf) (b : Blk) {i l : Nat} (hi : i < 48) (hl : l < 8) (e : Bool) :
    Changes b i (fun r => ⟨r.latched, l, e⟩) s (s.setClsLevel b i l e) := by
  set w := putBits (s.reg b (levelOff i)) (4 * (i % 16)) 4 (l + 8 * b2n e) with hw
  have hwlt : w < 2 ^ 64 := putBits_lt _ (reg_lt s b _) (by omega)
  have hoff : levelOff i = 0x740 + 8 * (i / 16) := rfl
  have hst : (s.setReg b (levelOff i) w).reg b ERR_STATUS_local.off = s.reg b ERR_STATUS_local.off :=
    reg_setReg_other h b (by decide) (by omega) (show 0x28 ≠ levelOff i by omega) w
  have hr : (s.setReg b (levelOff i) w).reg b (levelOff i) = w := by
    rw [reg_setReg_same h, Nat.mod_eq_of_lt hwlt]
  obtain ⟨h3, h4⟩ := level_of_field (n := w) hl (bits_putBits_same _ _ _ _)
  show Changes b i _ s (s.setReg b (levelOff i) w)
  refine changes_of_setReg h b (by omega) (show levelOff i ≠ 0xA0 by omega)
    (ClsRec.ext ?_ ?_ ?_) fun j hj hn => ?_
  · rw [clsRec_latched _ b hi, clsRec_latched _ b hi, hst]
  · exact (congrArg (bits · (4 * (i % 16)) 3) hr).trans h3
  · exact (congrArg (bit · (4 * (i % 16) + 3)) hr).trans h4
  · by_cases hj16 : j / 16 = i / 16
    · have hsame : levelOff j = levelOff i := by unfold levelOff; rw [hj16]
      refine clsRec_congr hj (by rw [hst]) ?_ ?_
      · rw [hsame, hr, hw]
        rcases Nat.lt_or_gt_of_ne (show j % 16 ≠ i % 16 by omega) with hlt | hlt
        · exact bits_putBits_below _ _ _ _ _ _ (by omega)
        · exact bits_putBits_above _ _ _ _ _ _ (by omega)
      · rw [hsame, hr, hw, bit_putBits_other _ _ _ _ (by omega)]
    · exact clsRec_setReg_aside h b (by omega) hj (show levelOff i ≠ 0x28 by omega) (by unfold levelOff; omega)

/-- What a level owes is no part of the record. -/
theorem Changes.owe {b : Blk} {i : Nat} {f : ClsRec → ClsRec} {s t : State} (h : Changes b i f s t) (d : Blk)
    (c l : Nat) (x y : Bool) : Changes b i f s (t.owe d c l x y) := by
  obtain ⟨hw, hc, hs, hn, hp⟩ := h
  unfold State.owe
  split
  · exact ⟨⟨hw.regs, hw.tabs, hw.hbm, hw.arr, hw.vec, hw.host⟩, hc, hs, hn, hp⟩
  · exact ⟨hw, hc, hs, hn, hp⟩

/-- A change is told by what it does to the record that stood. -/
theorem Changes.congr {b : Blk} {i : Nat} {f g : ClsRec → ClsRec} {s t : State} (h : Changes b i f s t)
    (e : f (s.clsRec b i) = g (s.clsRec b i)) : Changes b i g s t :=
  ⟨h.wf, h.count, h.same.trans e, h.other, h.pages⟩

/-! ## Events -/

/-- The state with an event of a page counted and a change of level to be told. -/
def State.noted (s : State) (b : Blk) : State := { s.inc b ERR_EVENTS_count with alarm := true }

theorem noted_wf {s : State} (h : s.Wf) (b : Blk) : (s.noted b).Wf := alarm_wf (wf_inc h b _)

/-- An event is counted, up to the counter's largest value (R60). -/
theorem noted_count {s : State} (h : s.Wf) (b : Blk) :
    (s.noted b).g b ERR_EVENTS_count = min (s.g b ERR_EVENTS_count + 1) (2 ^ 64 - 1) :=
  (congrArg (bits · 0 64) (alarm_reg (s.inc b ERR_EVENTS_count) b 0xA0)).trans
    (g_inc_same h b ERR_EVENTS_count (by decide))

/-- The count is the one register that counting an event writes. -/
theorem noted_reg {s : State} (h : s.Wf) (b : Blk) {o : Nat} (ho : o < 0x2000) (hne : o ≠ 0xA0) :
    (s.noted b).reg b o = s.reg b o :=
  (alarm_reg (s.inc b ERR_EVENTS_count) b o).trans
    (reg_inc_other h b b ERR_EVENTS_count o (regKey_ne ho (by decide) (.inr hne)))

theorem noted_clsRec {s : State} (h : s.Wf) (b : Blk) {j : Nat} (hj : j < 48) :
    (s.noted b).clsRec b j = s.clsRec b j := by
  have hl := noted_reg h b (o := levelOff j) (by unfold levelOff; omega) (by unfold levelOff; omega)
  exact clsRec_congr hj (by rw [noted_reg h b (by decide) (by decide)]) (by rw [hl]) (by rw [hl])

theorem noted_masked {s : State} (h : s.Wf) (b : Blk) (c : Nat) : (s.noted b).masked b c = s.masked b c :=
  congrArg (fun w => bit (bits w 0 48) c && !bit b.unmaskable c) (noted_reg h b (by decide) (by decide))

/-- The class of an event that was not latched latches at its catalogue level (R411). -/
def State.latchCls (u : State) (b : Blk) (k : Cls) (f : Option Nat) : State :=
  let t := ((u.p b ⟨ERR_STATUS_local.off, k.bit, 1⟩ 1).setClsLevel b k.bit k.level false).p b
    ⟨H_FORCED_bits.off, k.bit, 1⟩ (b2n f.isSome)
  let t := t.setErrLast b k.bit k.level f
  if t.masked b k.bit then t else t.owe b k.bit k.level f.isSome false

/-- A latched class rises to a level (R411). -/
def State.riseCls (u : State) (b : Blk) (i l : Nat) (f : Option Nat) : State :=
  let t := u.setClsLevel b i l true
  ((if f.isSome then t.p b ⟨H_FORCED_bits.off, i, 1⟩ 1 else t).setErrLast b i l f).owe b i l f.isSome true

/-- An event is counted, and then latches its class or raises it (R411). -/
theorem raiseBy_eq (s : State) (b : Blk) (k : Cls) (f : Option Nat) :
    s.raiseBy b k f =
      if bit ((s.noted b).latched b) k.bit = false then (s.noted b).latchCls b k f
      else if (s.noted b).masked b k.bit = false ∧ (s.noted b).clsEsc b k.bit = false then
        (s.noted b).riseCls b k.bit (min 5 ((s.noted b).clsLevel b k.bit + 1)) f
      else s.noted b := rfl

theorem latchCls_changes {u : State} (h : u.Wf) (b : Blk) {k : Cls} (f : Option Nat) (hk : k.bit < 48)
    (hl : k.level ≤ 5) : Changes b k.bit (fun _ => ⟨true, k.level, false⟩) u (u.latchCls b k f) := by
  have h1 := changes_latch h b hk true
  have h2 := h1.trans (changes_setClsLevel h1.wf b hk (show k.level < 8 by omega) false)
  have h3 := h2.trans (changes_forcedBit h2.wf b hk (b2n f.isSome))
  have h4 := h3.trans (changes_setErrLast h3.wf b hk k.bit k.level f)
  unfold State.latchCls
  dsimp only
  split
  · exact h4
  · exact h4.owe _ _ _ _ _

theorem riseCls_changes {u : State} (h : u.Wf) (b : Blk) {i l : Nat} (f : Option Nat) (hi : i < 48) (hl : l ≤ 5) :
    Changes b i (fun r => ⟨r.latched, l, true⟩) u (u.riseCls b i l f) := by
  have h1 := changes_setClsLevel h b hi (show l < 8 by omega) true
  unfold State.riseCls
  refine Changes.owe ?_ _ _ _ _ _
  split
  · have h2 := h1.trans (changes_forcedBit h1.wf b hi 1)
    exact h2.trans (changes_setErrLast h2.wf b hi i l f)
  · exact h1.trans (changes_setErrLast h1.wf b hi i l f)

/-- What an event makes of its class's record: the class latches at its catalogue level, and an unmasked latched class
that has not risen yet rises by one level (R411). -/
def ClsRec.raised (r : ClsRec) (level : Nat) (masked : Bool) : ClsRec :=
  if r.latched = false then ⟨true, level, false⟩
  else if masked = false ∧ r.esc = false then ⟨r.latched, min 5 (r.level + 1), true⟩
  else r

/-- A class is latched after an event of it. -/
theorem raised_latched (r : ClsRec) (level : Nat) (masked : Bool) : (r.raised level masked).latched = true := by
  unfold ClsRec.raised
  split_ifs with hn
  · rfl
  · exact eq_true_of_ne_false hn
  · exact eq_true_of_ne_false hn

/-- An event changes its own class's record alone, beside its page's count (R411). -/
theorem raiseBy_changes {s : State} (h : s.Wf) (b : Blk) {k : Cls} (f : Option Nat) (hk : k.bit < 48)
    (hl : k.level ≤ 5) :
    Changes b k.bit (·.raised k.level (s.masked b k.bit)) (s.noted b) (s.raiseBy b k f) := by
  have hu := noted_wf h b
  rw [← noted_masked h b, raiseBy_eq]
  generalize s.noted b = u at hu
  split_ifs with hn he
  · exact (latchCls_changes hu b f hk hl).congr (if_pos hn).symm
  · exact (riseCls_changes hu b f hk (Nat.min_le_left 5 _)).congr ((if_neg hn).trans (if_pos he)).symm
  · exact (Changes.refl hu b k.bit).congr ((if_neg hn).trans (if_neg he)).symm

/-- Settles O52: the event is counted, and its class's record is the one that changes. -/
theorem eventLatches : Obligations.EventLatches := by
  rintro s t b k f h hk hl rfl
  obtain ⟨-, hcount, hsame, hother, -⟩ := raiseBy_changes h b f hk hl
  obtain ⟨r, a, l, hregs⟩ := raiseBy_regsOnly s b k f
  rw [noted_count h] at hcount
  rw [noted_clsRec h b hk] at hsame
  refine ⟨hcount, ?_, fun j hj hn => ?_, fun hn => ?_, fun hn hm he => ?_, by rw [hregs], by rw [hregs], by rw [hregs],
    by rw [hregs], by rw [hregs]⟩
  · exact (congrArg ClsRec.latched hsame).trans (raised_latched _ _ _)
  · have hrec := (hother j hj hn).trans (noted_clsRec h b hj)
    exact ⟨congrArg ClsRec.latched hrec, congrArg ClsRec.level hrec, congrArg ClsRec.esc hrec⟩
  · have hrec := hsame.trans (if_pos hn)
    exact ⟨congrArg ClsRec.level hrec, congrArg ClsRec.esc hrec⟩
  · have hrec := hsame.trans ((if_neg (ne_false_of_eq_true hn)).trans (if_pos ⟨hm, he⟩))
    exact ⟨congrArg ClsRec.level hrec, congrArg ClsRec.esc hrec⟩

/-! ## Acknowledgements -/

/-- One class of an acknowledgement (R412). -/
def State.ackOne (b : Blk) (mask : Nat) (s : State) (c : Nat) : State :=
  if bit mask c && bit (s.latched b) c then
    ((s.p b ⟨ERR_STATUS_local.off, c, 1⟩ 0).setClsLevel b c 0 false).p b ⟨H_FORCED_bits.off, c, 1⟩ 0
  else s

/-- An acknowledgement takes the classes of a page one after another. -/
theorem ackErr_eq (s : State) (b : Blk) (mask : Nat) :
    s.ackErr b mask = { (upTo 48).foldl (State.ackOne b mask) s with alarm := true } := rfl

/-- What an acknowledgement makes of a class's record where it names the class: a latched class is cleared (R412). -/
def ClsRec.acked (r : ClsRec) (named : Bool) : ClsRec := if named && r.latched then ⟨false, 0, false⟩ else r

/-- A class is latched after an acknowledgement where it was and is not named. -/
theorem acked_latched (r : ClsRec) (named : Bool) : (r.acked named).latched = (r.latched && !named) := by
  unfold ClsRec.acked
  cases named <;> cases hr : r.latched <;> simp [hr]

/-- One class of an acknowledgement changes that class's record alone. -/
theorem ackOne_changes {s : State} (h : s.Wf) (b : Blk) (mask : Nat) {c : Nat} (hc : c < 48) :
    Changes b c (·.acked (bit mask c)) s (s.ackOne b mask c) := by
  unfold State.ackOne
  split
  case isTrue hn =>
    have h1 := changes_latch h b hc false
    have h2 := h1.trans (changes_setClsLevel h1.wf b hc (show 0 < 8 by omega) false)
    exact (h2.trans (changes_forcedBit h2.wf b hc 0)).congr (if_pos hn).symm
  case isFalse hn => exact (Changes.refl h b c).congr (if_neg hn).symm

/-- An acknowledgement of the classes below `n` changes their records, and leaves the other ones and the registers of
other pages as they were. -/
theorem ackOnes_recs {s : State} (h : s.Wf) (b : Blk) (mask : Nat) {n : Nat} (hn : n ≤ 48) :
    ((upTo n).foldl (State.ackOne b mask) s).Wf ∧
      (∀ j < 48, ((upTo n).foldl (State.ackOne b mask) s).clsRec b j =
        if j < n then (s.clsRec b j).acked (bit mask j) else s.clsRec b j) ∧
      ∀ (c : Blk) (o : Nat), c.page ≠ b.page → o < 0x2000 →
        ((upTo n).foldl (State.ackOne b mask) s).reg c o = s.reg c o := by
  induction n with
  | zero => exact ⟨h, fun _ _ => rfl, fun _ _ _ _ => rfl⟩
  | succ n ih =>
    obtain ⟨hw, hr, hp⟩ := ih (by omega)
    have hs : (upTo (n + 1)).foldl (State.ackOne b mask) s =
        ((upTo n).foldl (State.ackOne b mask) s).ackOne b mask n := by
      unfold upTo
      rw [List.range_succ, List.foldl_append, List.foldl_cons, List.foldl_nil]
    rw [hs]
    obtain ⟨hw', -, hsame, hother, hp'⟩ := ackOne_changes hw b mask (show n < 48 by omega)
    refine ⟨hw', fun j hj => ?_, fun c o hc ho => (hp' c o hc ho).trans (hp c o hc ho)⟩
    by_cases hjn : j = n
    · subst hjn
      rw [hsame, hr j hj, if_neg (by omega), if_pos (by omega)]
    · rw [hother j hj hjn, hr j hj]
      simp only [show j < n + 1 ↔ j < n by omega]

/-- Settles O53: each class's record is changed by its own place in the mask alone. -/
theorem acknowledgeClears : Obligations.AcknowledgeClears := by
  rintro s t b mask j h hj rfl
  obtain ⟨-, hrecs, hpages⟩ := ackOnes_recs h b mask (Nat.le_refl 48)
  obtain ⟨r, a, l, hregs⟩ := ackErr_regsOnly s b mask
  have hrec : (s.ackErr b mask).clsRec b j = (s.clsRec b j).acked (bit mask j) := by
    rw [ackErr_eq]
    exact (hrecs j hj).trans (if_pos hj)
  refine ⟨?_, ?_, hpages, by rw [hregs], by rw [hregs], by rw [hregs], by rw [hregs], by rw [hregs]⟩
  · exact (congrArg ClsRec.latched hrec).trans (acked_latched _ _)
  · split
    case isTrue hn =>
      have hcleared := hrec.trans (if_pos hn)
      exact ⟨congrArg ClsRec.level hcleared, congrArg ClsRec.esc hcleared⟩
    case isFalse hn =>
      have hkept := hrec.trans (if_neg hn)
      exact ⟨congrArg ClsRec.level hkept, congrArg ClsRec.esc hkept⟩

end Sys2Proof.Machine

/-! # Events and the collectors

O9 and O10. Forced events, acknowledgements and the collectors' commands pass the checks that every write passes; an event
of the hardware finds its page and its class. -/

namespace Sys2Proof.Machine

/-- Forced events none of which would halt, or that the device permits, happen (R418). -/
theorem writeForce_of_allowed {s : State} {m pg v : Nat} {b : Blk} (ho : s.opens m pg 0x030 b)
    (h : (upTo 48).any (fun c => bit v c && s.forceHalts b c) = false ∨
      s.gb .fltDev FLT_CFG_allow_halt_force = true) : s.writeForce m pg v = s.forceAll m b v := by
  have hbar : ¬((upTo 48).any (fun c => bit v c && s.forceHalts b c) = true ∧
      (!s.gb .fltDev FLT_CFG_allow_halt_force) = true) := by
    rcases h with h | h <;> simp [h]
  rw [State.writeForce, onWrite_of_opens ho, if_neg hbar]

/-- A hardware event of a class of a powered page has its own effect and is collected (R411). -/
theorem errorEvent_of_powered {s : State} {pg c arg : Nat} {b : Blk} {k : Cls} (hb : s.blk pg = some b)
    (hk : b.cls c = some k) (hp : s.gb b STATE_unpowered = false) :
    s.errorEvent pg c arg = (s.ownEffect b c arg).raise b k := by
  simp only [State.errorEvent, hb, hk, hp, Bool.false_eq_true, if_false]

/-- ACK_BELOW on an FLT page acknowledges the brood that it collects (R412). -/
theorem writeFltCmd_of_ackBelow {s : State} {m pg v : Nat} {b : Blk} (ho : s.opens m pg 0x108 b)
    (hc : b.collected ≠ b) (hv : bits v 0 2 = 1) :
    s.writeFltCmd m pg v = (s.ackBelow b.collected (bits v 2 3)).finish b 0x110 .ok := by
  rw [State.writeFltCmd, onWrite_of_opens ho, if_neg hc, if_neg (by simp [hv])]

/-- A silent page's read answers all ones, and its parent raises the class (R41). -/
theorem pageNoAnswer_of_parent {s : State} {m : Mst} {pg : Pg} {b p : Blk} (hb : s.blk pg.toNat = some b)
    (hp : b.parent = some p) :
    exec (.pageNoAnswer m pg) s =
      ((s.raise p cPAGE_NO_ANSWER).emit (.bar (masterFn m.toNat)) 0 [2 ^ 64 - 1] []).done := by
  simp only [exec_pageNoAnswer, execPageNoAnswer, hb, hp]

/-- Settles O9: each write passes its checks, and each event finds the page that it names. -/
theorem errorEventRows : Obligations.ErrorEventRows := by
  refine ⟨fun m pg v s b ho h => ?_, fun m pg v s b ho => ?_, fun pg c arg s b k hb hk hp => ?_,
    fun m pg v s b ho hc hv => ?_, fun pg n s hb => ?_, fun pg n s w hb => ?_, fun pg n s d hb => ?_,
    fun m pg s b p hb hp => ?_⟩
  · rw [exec_errForce, execErrForce, writeForce_of_allowed ho h, State.done]
  · rw [exec_errAck, execErrAck, State.writeAck, onWrite_of_opens ho, State.done]
  · rw [exec_errorEvent, execErrorEvent, errorEvent_of_powered hb hk hp, State.done]
  · rw [exec_fltAckBelow, execFltAckBelow, writeFltCmd_of_ackBelow ho hc hv, State.done]
  · simp only [exec_pinMismatch, execPinMismatch, hb, State.done]
  · simp only [exec_pinMismatch, execPinMismatch, hb, State.done]
  · simp only [exec_pinMismatch, execPinMismatch, hb, State.done]
  · rw [pageNoAnswer_of_parent hb hp, State.done]

/-- A millisecond that does not take the lost service past its budget is counted and does nothing else (R422). -/
theorem lostTick_of_budget {s t : State} {k : Nat} (hr : s.boot.running = false)
    (ht : t = (s.add (.die k) LNK_LOST_FAULT_lane_ms (s.lostLanes k true)).add (.die k) LNK_LOST_OTHER_lane_ms
      (s.lostLanes k false))
    (h : s.g .fltDev FLT_AVAIL_CFG_budget_lane_ms < s.lostSum LNK_LOST_FAULT_lane_ms ∨
      t.lostSum LNK_LOST_FAULT_lane_ms ≤ s.g .fltDev FLT_AVAIL_CFG_budget_lane_ms) : s.lostTick k = t := by
  have hcross : ¬(s.lostSum LNK_LOST_FAULT_lane_ms ≤ s.g .fltDev FLT_AVAIL_CFG_budget_lane_ms ∧
      s.g .fltDev FLT_AVAIL_CFG_budget_lane_ms < t.lostSum LNK_LOST_FAULT_lane_ms) := by omega
  simp only [State.lostTick, hr, ← ht, hcross, Bool.false_eq_true, if_false]

/-- Settles O10: the sum had passed the budget before, or has not passed it yet. -/
theorem lostServiceTick : Obligations.LostServiceTick := by
  intro k s hr h
  rw [exec_lostMsTick, execLostMsTick, lostTick_of_budget hr rfl h, State.done]

end Sys2Proof.Machine

/-! # The meter

O40, O41, O50 and O57. A command of the meter while its supply is up is its definition past that guard. -/

namespace Sys2Proof.Machine

/-! ## Measuring, periods and the supply -/

/-- The supply's return resumes from the checkpoint, or from the one before (R431, R440). -/
theorem vmtrReturn_of_down {s u : State} (h : s.ccnUp = false)
    (hu : u = (s.setCcn s.ccn.resumed).raise .ccn cMTR_VMTR_GAP) (bad : Bool) :
    exec (.vmtrReturn bad) s = State.done
      (if bad then (u.setCcn u.ccn.olderTotals).raise .ccn cMTR_MRAM_UNCORR else u) := by
  subst hu
  rw [exec_vmtrReturn, execVmtrReturn, if_neg (by simp [h])]

/-- Settles O40: the supply is up, or has just come back. -/
theorem meterRows : Obligations.MeterRows := by
  refine ⟨fun pj o s h => ?_, fun d tag n s h => ?_, fun p k n s h => ?_, fun k s h => ?_, fun s h hc => ?_,
    fun s h hc => ?_, fun s h => ?_, fun bad s u h hu => ?_, fun s h ht => ?_⟩
  · rw [exec_meterSample, execMeterSample, if_pos h, State.done]
  · rw [exec_activityReport, execActivityReport, if_pos h]
  · rw [exec_tenancyEvent, execTenancyEvent, if_pos h]
  · rw [exec_periodEnd, execPeriodEnd, if_pos h, State.done]
  · rw [exec_clockFallback, execClockFallback, if_pos ⟨h, hc⟩, State.done]
  · rw [exec_clockRestored, execClockRestored, if_pos ⟨h, by simp [hc]⟩]
  · rw [exec_vmtrLoss, execVmtrLoss, if_pos h]
  · rw [vmtrReturn_of_down h hu, State.done]
  · rw [exec_mtrUpdateFallback, execMtrUpdateFallback, if_pos ⟨h, ht⟩, State.done]

/-! ## The port, its updates and signed readings -/

/-- CCN_REQ with its bit set, while none is busy, makes the page wait for a reading (R438). -/
theorem writeCcnReq_of_idle {s : State} {m v : Nat} {b : Blk} (ho : s.opens m Blk.ccn.page CCN_REQ_sign.off b)
    (hv : bits v 0 1 = 1) (hb : bit (s.reg b CCN_REQ_STATUS_code.off) 8 = false) :
    s.writeCcnReq m v = (s.setBusy b CCN_REQ_STATUS_code.off).setCcn s.ccn.askPage := by
  rw [State.writeCcnReq, onWrite_of_opens ho, if_neg (by simp [hv]), if_neg (by simp [hb])]

/-- The end of a reading answers the port's oldest request (R432). -/
theorem signedReadingDone_of_nonce {s : State} {n : List Byte} {l : List (List Byte)} (h : s.ccnUp)
    (hn : s.ccn.nonces = n :: l) :
    exec .signedReadingDone s = .next ((s.setCcn (s.ccn.answered l)).metro .ok (s.signedReading n)) := by
  simp only [exec_signedReadingDone, execSignedReadingDone, h, hn, Bool.not_true, Bool.false_eq_true, if_false]

/-- Where the port asks for none, the end of a reading answers the page (R432, R438). -/
theorem signedReadingDone_of_page {s : State} (h : s.ccnUp) (hn : s.ccn.nonces = []) (hp : s.ccn.reqPage) :
    exec .signedReadingDone s = .next ((s.setCcn (s.ccn.signedPage (s.signedReading s.pageNonce))).finish .ccn
      CCN_REQ_STATUS_code.off .ok) := by
  simp only [exec_signedReadingDone, execSignedReadingDone, h, hn, hp, Bool.not_true, Bool.false_eq_true, if_false,
    if_true]

/-- Settles O41: the supply is up, and the request finds what it asks for. -/
theorem meterPortRows : Obligations.MeterPortRows := by
  refine ⟨fun s h => ?_, fun i s r h hr => ?_, fun i s e h he => ?_, fun o s h => ?_, fun n s h hn => ?_,
    fun m v s b ho hv hb => ?_, fun s n l h hn => signedReadingDone_of_nonce h hn,
    fun s h hn hp => signedReadingDone_of_page h hn hp, fun s h hu => ?_, fun o d s h ho hd hl => ?_,
    fun s h ho hu => ?_, fun s => ?_⟩
  · rw [exec_ident, execIdent, if_neg (by simp [h])]
  · simp only [exec_readRecord, execReadRecord, h, hr, Bool.not_true, Bool.false_eq_true, if_false]
  · simp only [exec_readLog, execReadLog, h, he, Bool.not_true, Bool.false_eq_true, if_false]
  · rw [exec_readCert, execReadCert, if_neg (by simp [h])]
  · rw [exec_readSigned, execReadSigned, if_neg (by simp [h]), if_neg (Nat.not_le.2 hn)]
  · rw [exec_ccnReq, execCcnReq, writeCcnReq_of_idle ho hv hb, State.done]
  · rw [exec_updBegin, execUpdBegin, if_neg (by simp [h]), if_neg (by simp [hu]), State.done]
  · rw [exec_updData, execUpdData, if_neg (by simp [h]), if_neg (by simp [ho]), if_neg (by omega)]
  · rw [exec_updEnd, execUpdEnd, if_neg (by simp [h]), if_neg (by simp [ho, hu]), State.done]
  · rw [exec_mtrUnseal, execMtrUnseal, State.done]

/-! ## The supply lost and back -/

/-- The buckets of a period that starts again hold no energy and no work. -/
theorem nextPeriod_open (c : CcnSt) : ∀ b ∈ c.nextPeriod.open_,
    b.energy = 0 ∧ b.array = 0 ∧ b.vector = 0 ∧ b.port = 0 ∧ b.hbm = 0 := by
  intro b hb
  obtain ⟨x, -, rfl⟩ := List.mem_map.1 hb
  exact ⟨rfl, rfl, rfl, rfl, rfl⟩

/-- The entry that was logged last ends the log, whichever older entry it overwrote. -/
theorem logEntry_getLast? (c : CcnSt) (kind : Nat) (data : List Byte) :
    (c.logEntry kind data).log.getLast? = some (fit 32 (leBytes 1 kind ++ leBytes 7 c.period ++ data)) := by
  simp [CcnSt.logEntry, List.getLast?_drop]

/-- The supply's return logs the first lost period under the number that was open at the loss (R431). -/
theorem resumed_getLast? {c : CcnSt} {p : Nat} (h : c.lost = some p) :
    c.resumed.log.getLast? = some (fit 32 (leBytes 1 3 ++ leBytes 7 c.period ++ leBytes 8 p)) := by
  have hd : c.lost.getD c.period = p := by rw [h, Option.getD_some]
  simp only [CcnSt.resumed, hd]
  exact logEntry_getLast? { c with vmtr := true } 3 (leBytes 8 p)

/-- The flags of a period whose supply was lost hold gap (R430). -/
theorem flags_gap {c : CcnSt} (h : c.lost.isSome) (k : Bool) : bit (c.flags k) 1 := by
  unfold CcnSt.flags
  rw [h]
  cases c.crystal <;> cases k <;> cases c.beyond.any (1000 < ·) <;> rfl

/-- An event of a class leaves the meter as it was. -/
theorem raise_ccn (s : State) (b : Blk) (k : Cls) : (s.raise b k).ccn = s.ccn := by
  obtain ⟨r, a, l, h⟩ := raise_regsOnly s b k
  rw [h]

/-- Settles O50: what is lost is the ring and the open period, and the first lost period is logged and marked. The
entry's layout and the number of the lost period are the model's choices (log entries 189 and 133). -/
theorem supplyLoss : Obligations.SupplyLoss := by
  refine ⟨fun s h => ⟨s.setCcn s.ccn.powerLost, ?_, rfl, rfl, nextPeriod_open _, rfl, rfl, rfl, rfl⟩,
    fun s p k h hp => ?_⟩
  · rw [exec_vmtrLoss, execVmtrLoss, if_pos h]
  · have hc : ((s.setCcn s.ccn.resumed).raise .ccn cMTR_VMTR_GAP).ccn = s.ccn.resumed := raise_ccn _ _ _
    refine ⟨_, by rw [vmtrReturn_of_down h rfl, if_neg (by decide), State.done], ?_⟩
    rw [hc]
    exact ⟨rfl, rfl, rfl, rfl, rfl, resumed_getLast? hp, flags_gap rfl k⟩

/-! ## The frame of the meter -/

/-- The parts of a state that the meter leaves alone: what it may change is blanked. -/
def State.offMeter (s : State) : State :=
  { s with regs := [], ccn := CcnSt.reset, out := [], acts := [], alarm := false }

/-- States that agree off the meter differ in what the meter may change alone. -/
theorem eq_of_offMeter {s u : State} (h : u.offMeter = s.offMeter) :
    u = { s with regs := u.regs, ccn := u.ccn, out := u.out, acts := u.acts, alarm := u.alarm } := by
  cases s; cases u
  simpa [State.offMeter] using h

/-- The frame holds of an answer that is not settled. -/
theorem MeterFrame.next {s t : State} (h : t.offMeter = s.offMeter) : MeterFrame s (.next t) :=
  ⟨t, .inl rfl, eq_of_offMeter h⟩

/-- The frame holds of an answer that is settled. -/
theorem MeterFrame.done {s t : State} (h : t.offMeter = s.offMeter) : MeterFrame s t.done :=
  ⟨t, .inr rfl, eq_of_offMeter h⟩

theorem RegsSent.offMeter {s t : State} (h : RegsSent s t) : t.offMeter = s.offMeter := by
  obtain ⟨r, o, a, l, rfl⟩ := h
  rfl

theorem RegsOnly.offMeter {s t : State} (h : RegsOnly s t) : t.offMeter = s.offMeter := h.sent.offMeter

@[simp] theorem ite_offMeter (c : Prop) [Decidable c] (s t : State) :
    (if c then s else t).offMeter = if c then s.offMeter else t.offMeter := apply_ite State.offMeter c s t

@[simp] theorem setCcn_offMeter (s : State) (c : CcnSt) : (s.setCcn c).offMeter = s.offMeter := by
  simp only [State.offMeter, State.setCcn]
@[simp] theorem raise_offMeter (s : State) (b : Blk) (c : Cls) : (s.raise b c).offMeter = s.offMeter :=
  (raise_regsOnly s b c).offMeter
@[simp] theorem metro_offMeter (s : State) (c : Code) (data : List Byte) : (s.metro c data).offMeter = s.offMeter :=
  (metro_sent s c data).offMeter
@[simp] theorem setBusy_offMeter (s : State) (b : Blk) (off : Nat) : (s.setBusy b off).offMeter = s.offMeter :=
  (p_regsOnly s b _ _).offMeter
@[simp] theorem finish_offMeter (s : State) (b : Blk) (off : Nat) (c : Code) :
    (s.finish b off c).offMeter = s.offMeter := (finish_regsOnly s b off c).offMeter
@[simp] theorem refuse_offMeter (s : State) (m : Nat) (b : Blk) (off : Nat) (c : Code) :
    (s.refuse m b off c).offMeter = s.offMeter := (refuse_regsOnly s m b off c).offMeter
@[simp] theorem refuseUpdate_offMeter (s : State) : s.refuseUpdate.offMeter = s.offMeter := by
  simp [State.refuseUpdate]

/-- The page shows the latest period and the running image in registers. -/
@[simp] theorem showCcn_offMeter (s : State) : s.showCcn.offMeter = s.offMeter :=
  ((setReg_regsOnly s _ _ _).trans (.foldl (fun t _ => setReg_regsOnly t _ _ _) _ _)).offMeter

@[simp] theorem activateMtr_offMeter (s : State) : s.activateMtr.offMeter = s.offMeter := by
  unfold State.activateMtr
  split
  · rfl
  · simp

theorem writeCcnReq_offMeter (s : State) (m v : Nat) : (s.writeCcnReq m v).offMeter = s.offMeter := by
  unfold State.writeCcnReq State.onWrite
  split
  · rfl
  · simp [(denyWrite_regsOnly s m _ _).offMeter]

theorem signedReadingDone_frame (s : State) : MeterFrame s (exec .signedReadingDone s) :=
  .next (by
    split
    · rfl
    · split <;> simp)

/-- Settles O57: each command changes the meter by replacing its state, and the rest by registers and outputs alone. -/
theorem meterFrameHolds : Obligations.MeterFrameHolds :=
  ⟨fun _ _ s => .done (by simp),
    fun _ _ _ s => .next (by simp),
    fun _ _ _ s => .next (by simp),
    fun _ s => .done (by simp),
    fun s => .done (by simp),
    fun s => .next (by simp),
    fun s => .next (by simp),
    fun _ s => .done (by simp),
    fun s => .done (by simp),
    fun _ s => .next (by simp),
    fun s => .done (by simp),
    fun _ _ s => .next (by simp),
    fun s => .done (by simp),
    fun _ _ s => .done (writeCcnReq_offMeter s _ _),
    signedReadingDone_frame⟩

end Sys2Proof.Machine

/-! # Commands of firmware, recovery and repair

O59. What a state holds beside the parts that firmware, recovery and repair may change is one value. That an operation
leaves it as it was is an equation, so that the operations of a command rewrite one after another. -/

namespace Sys2Proof.Machine

/-- The parts of a state that firmware, recovery and repair leave alone: what they may change is blanked. -/
def State.offFirmware (s : State) : State :=
  { s with regs := [], mram := Mram.reset, boot := BootSt.reset, jobs := [], sec := { s.sec with unzeroed := [] }
           fresh := 0, out := [], acts := [], alarm := false }

/-- States that agree off the firmware differ in what firmware, recovery and repair may change alone. -/
theorem eq_of_offFirmware {s u : State} (h : u.offFirmware = s.offFirmware) :
    u = { s with regs := u.regs, mram := u.mram, boot := u.boot, jobs := u.jobs,
                 sec := { s.sec with unzeroed := u.sec.unzeroed }, fresh := u.fresh, out := u.out, acts := u.acts,
                 alarm := u.alarm } := by
  have hu : u = { u.offFirmware with regs := u.regs, mram := u.mram, boot := u.boot, jobs := u.jobs,
                                     sec := { u.offFirmware.sec with unzeroed := u.sec.unzeroed }, fresh := u.fresh,
                                     out := u.out, acts := u.acts, alarm := u.alarm } := rfl
  rw [h] at hu
  exact hu

/-- The frame holds of an answer that is not settled. -/
theorem FirmwareFrame.next {s t : State} (h : t.offFirmware = s.offFirmware) : FirmwareFrame s (.next t) :=
  ⟨t, .inl rfl, eq_of_offFirmware h⟩

/-- The frame holds of an answer that is settled. -/
theorem FirmwareFrame.done {s t : State} (h : t.offFirmware = s.offFirmware) : FirmwareFrame s t.done :=
  ⟨t, .inr rfl, eq_of_offFirmware h⟩

theorem RegsSent.offFirmware {s t : State} (h : RegsSent s t) : t.offFirmware = s.offFirmware := by
  obtain ⟨r, o, a, l, rfl⟩ := h
  rfl

theorem RegsOnly.offFirmware {s t : State} (h : RegsOnly s t) : t.offFirmware = s.offFirmware := h.sent.offFirmware

@[simp] theorem ite_offFirmware (c : Prop) [Decidable c] (s t : State) :
    (if c then s else t).offFirmware = if c then s.offFirmware else t.offFirmware :=
  apply_ite State.offFirmware c s t

@[simp] theorem foldl_offFirmware {α : Type} {f : State → α → State}
    (hf : ∀ s a, (f s a).offFirmware = s.offFirmware) (l : List α) (s : State) :
    (l.foldl f s).offFirmware = s.offFirmware :=
  List.foldlRecOn l f (motive := fun t => t.offFirmware = s.offFirmware) rfl fun t ht a _ => (hf t a).trans ht

/-! ## Registers, draws and work in progress -/

@[simp] theorem setReg_offFirmware (s : State) (b : Blk) (off v : Nat) :
    (s.setReg b off v).offFirmware = s.offFirmware := (setReg_regsOnly s b off v).offFirmware
@[simp] theorem p_offFirmware (s : State) (b : Blk) (f : Fld) (v : Nat) : (s.p b f v).offFirmware = s.offFirmware :=
  (p_regsOnly s b f v).offFirmware
@[simp] theorem inc_offFirmware (s : State) (b : Blk) (f : Fld) : (s.inc b f).offFirmware = s.offFirmware :=
  (inc_regsOnly s b f).offFirmware
@[simp] theorem raise_offFirmware (s : State) (b : Blk) (c : Cls) : (s.raise b c).offFirmware = s.offFirmware :=
  (raise_regsOnly s b c).offFirmware
@[simp] theorem finish_offFirmware (s : State) (b : Blk) (off : Nat) (c : Code) :
    (s.finish b off c).offFirmware = s.offFirmware := (finish_regsOnly s b off c).offFirmware
@[simp] theorem refuse_offFirmware (s : State) (m : Nat) (b : Blk) (off : Nat) (c : Code) :
    (s.refuse m b off c).offFirmware = s.offFirmware := (refuse_regsOnly s m b off c).offFirmware
@[simp] theorem refuseOp_offFirmware (s : State) (m : Nat) (b : Blk) (off st : Nat) :
    (s.refuseOp m b off st).offFirmware = s.offFirmware := (refuseOp_regsOnly s m b off st).offFirmware
@[simp] theorem setBusy_offFirmware (s : State) (b : Blk) (off : Nat) : (s.setBusy b off).offFirmware = s.offFirmware :=
  p_offFirmware s b _ _
@[simp] theorem setWide_offFirmware (s : State) (b : Blk) (off n v : Nat) :
    (s.setWide b off n v).offFirmware = s.offFirmware := by
  simp [State.setWide]
@[simp] theorem emit_offFirmware (s : State) (ch : Chan) (tag : Nat) (ns : List Nat) (bs : List Byte) :
    (s.emit ch tag ns bs).offFirmware = s.offFirmware := (emit_sent s ch tag ns bs).offFirmware
@[simp] theorem setSt_offFirmware (s : State) (b : Blk) (p : PState) : (s.setSt b p).offFirmware = s.offFirmware := by
  simp [State.setSt]

@[simp] theorem draw_offFirmware (s : State) : s.draw.2.offFirmware = s.offFirmware := by
  simp only [State.offFirmware, State.draw]
@[simp] theorem dropJob_offFirmware (s : State) (k : JobKind) (pg off : Nat) :
    (s.dropJob k pg off).offFirmware = s.offFirmware := by
  simp only [State.offFirmware, State.dropJob]
theorem jobs_offFirmware (s : State) (l : List Job) : ({ s with jobs := l } : State).offFirmware = s.offFirmware := by
  simp only [State.offFirmware]
theorem boot_offFirmware (s : State) (x : BootSt) : ({ s with boot := x } : State).offFirmware = s.offFirmware := by
  simp only [State.offFirmware]

/-- A write whose block changes firmware alone does so whether or not the checks let it through. -/
theorem onWrite_offFirmware {s : State} {f : Blk → State} (hf : ∀ b, (f b).offFirmware = s.offFirmware)
    (m pg off : Nat) : (s.onWrite m pg off f).offFirmware = s.offFirmware := by
  unfold State.onWrite
  split
  · rfl
  · split_ifs
    · exact (denyWrite_regsOnly s m _ off).offFirmware
    · exact refuse_offFirmware s m _ off _
    · exact hf _

/-! ## Patterns, clocks and crossings -/

theorem writePrbs_offFirmware (s : State) (m pg v : Nat) : (s.writePrbs m pg v).offFirmware = s.offFirmware := by
  unfold State.writePrbs
  split
  · exact onWrite_offFirmware (fun b => by simp [State.startPattern]) _ _ _
  · rfl

theorem xingFail_offFirmware (s : State) (b : Blk) : (s.xingFail b).offFirmware = s.offFirmware := by
  simp [State.xingFail]

theorem xingAlignFail_frame (pg : Pg) (s : State) : FirmwareFrame s (exec (.xingAlignFail pg) s) :=
  .done (by
    split
    · rfl
    · exact xingFail_offFirmware s _)

/-! ## Slots, boot and the boot profile -/

@[simp] theorem enterRecovery_offFirmware (s : State) (cause failed : Nat) :
    (s.enterRecovery cause failed).offFirmware = s.offFirmware := boot_offFirmware s _

@[simp] theorem runSlot_offFirmware (s : State) (b : Blk) (sl : Nat) : (s.runSlot b sl).offFirmware = s.offFirmware := by
  simp [State.runSlot]

@[simp] theorem thxRetry_offFirmware (s : State) : s.thxRetry.offFirmware = s.offFirmware := by
  unfold State.thxRetry
  exact (boot_offFirmware _ _).trans (by simp [State.fellBack])

@[simp] theorem setSlot_offFirmware (s : State) (b : Blk) (slot : Nat) (img : Option Image) :
    (s.setSlot b slot img).offFirmware = s.offFirmware := by
  simp [State.setSlot]

@[simp] theorem fwRestart_offFirmware (s : State) (b : Blk) (slot : Nat) :
    (s.fwRestart b slot).offFirmware = s.offFirmware := by
  unfold State.fwRestart
  dsimp only
  split
  · exact (boot_offFirmware _ _).trans (by simp)
  · split <;> simp

theorem fwRun_offFirmware (s : State) (m : Nat) (b : Blk) (v : Nat) : (s.fwRun m b v).2.offFirmware = s.offFirmware := by
  unfold State.fwRun
  dsimp only
  split
  · exact (jobs_offFirmware _ _).trans (setSlot_offFirmware s b _ none)
  · split <;> simp
  · split
    · split <;> simp
    · rfl
  · simp
  · simp
  · split <;> simp
  · rfl

theorem fwCommand_offFirmware (s : State) (m pg v : Nat) : (s.fwCommand m pg v).offFirmware = s.offFirmware := by
  unfold State.fwCommand
  split
  · rfl
  · rw [ite_offFirmware]
    refine ite_eq_left_iff.2 fun _ => onWrite_offFirmware (fun b => ?_) _ _ _
    dsimp only
    split_ifs <;> simp [fwRun_offFirmware, State.memDenied]

theorem thoraxBootTimeout_frame (s : State) : FirmwareFrame s (exec .thoraxBootTimeout s) :=
  .done (by simp)

theorem fwTrialTimeout_frame (pg : Pg) (s : State) : FirmwareFrame s (exec (.fwTrialTimeout pg) s) :=
  .done (by
    split
    · rfl
    · simp)

/-- A captured profile is committed in the MRAM, and boot's slot follows (R406). -/
@[simp] theorem commitProfile_offFirmware (s : State) : s.commitProfile.offFirmware = s.offFirmware := by
  simp only [State.offFirmware, State.commitProfile, State.drawWide]

theorem saveProfileDone_frame (ok : Bool) (s : State) : FirmwareFrame s (exec (.saveProfileDone ok) s) :=
  .done (by
    split
    · rfl
    · simp)

/-! ## Repair -/

@[simp] theorem addRepair_offFirmware (s : State) (h a : Nat) : (s.addRepair h a).offFirmware = s.offFirmware := by
  simp only [State.offFirmware, State.addRepair, State.drawWide]

@[simp] theorem eraseAgain_offFirmware (s : State) (h a : Nat) : (s.eraseAgain h a).offFirmware = s.offFirmware := by
  simp only [State.offFirmware, State.eraseAgain]

theorem hbmRepairDone_frame (pg : Pg) (ok : Bool) (s : State) : FirmwareFrame s (exec (.hbmRepairDone pg ok) s) :=
  .done (by
    split
    · dsimp only
      split
      · rfl
      · simp
    · rfl)

/-! ## Recovery -/

/-- A request of the management port changes firmware alone where its meaning does so (R455). -/
theorem request_offFirmware (s : State) (op : Nat) (req : List Byte) (n : Option Nat)
    {f : List Byte → State → Code × List Byte × State} (hf : ∀ a t, (f a t).2.2.offFirmware = t.offFirmware) :
    (s.request op req n f).offFirmware = s.offFirmware := by
  simp [State.request, State.i3c, hf]

theorem mgRecBegin_offFirmware (a : List Byte) (s : State) : (State.mgRecBegin a s).2.2.offFirmware = s.offFirmware := by
  unfold State.mgRecBegin
  dsimp only
  split
  · rfl
  · exact boot_offFirmware s _

theorem recWrite_offFirmware (a : List Byte) (s : State) : (State.recWrite a s).2.2.offFirmware = s.offFirmware := by
  unfold State.recWrite
  dsimp only
  split
  · rfl
  · split
    · rfl
    · exact boot_offFirmware s _

theorem recInstall_offFirmware (s : State) (k : Nat) (img : List Byte) :
    (s.recInstall k img).offFirmware = s.offFirmware := by
  unfold State.recInstall
  dsimp only
  split
  · exact (setSlot_offFirmware _ _ _ _).trans (boot_offFirmware s _)
  · simp only [State.offFirmware]

theorem recFinish_offFirmware (a : List Byte) (s : State) : (State.recFinish a s).2.2.offFirmware = s.offFirmware := by
  unfold State.recFinish
  split
  · rfl
  · refine (apply_ite (fun r : Code × List Byte × State => r.2.2.offFirmware) _ _ _).trans ?_
    simp only [recInstall_offFirmware, boot_offFirmware, ite_self]

theorem mgRecBoot_offFirmware (a : List Byte) (s : State) : (State.mgRecBoot a s).2.2.offFirmware = s.offFirmware := by
  unfold State.mgRecBoot
  split
  · exact boot_offFirmware s _
  · rfl

/-- Settles O59: each command changes the state by operations that leave all but firmware, recovery and repair alone. -/
theorem firmwareFrameHolds : Obligations.FirmwareFrameHolds :=
  ⟨fun _ _ _ s => .done (writePrbs_offFirmware s _ _ _),
    fun _ s => .next (by simp),
    xingAlignFail_frame, thoraxBootTimeout_frame,
    fun _ _ _ s => .done (fwCommand_offFirmware s _ _ _),
    fun _ _ _ s => .done (fwCommand_offFirmware s _ _ _),
    fun _ _ _ s => .done (fwCommand_offFirmware s _ _ _),
    fun _ _ _ s => .done (fwCommand_offFirmware s _ _ _),
    fun _ _ _ s => .done (fwCommand_offFirmware s _ _ _),
    fun _ _ _ s => .done (fwCommand_offFirmware s _ _ _),
    fwTrialTimeout_frame, saveProfileDone_frame, hbmRepairDone_frame,
    fun _ s => .done (request_offFirmware s _ _ _ mgRecBegin_offFirmware),
    fun _ s => .done (request_offFirmware s _ _ _ recWrite_offFirmware),
    fun _ s => .done (request_offFirmware s _ _ _ recFinish_offFirmware),
    fun _ s => .done (request_offFirmware s _ _ _ mgRecBoot_offFirmware)⟩

end Sys2Proof.Machine
